-- ==== Sys2Proof/Word.lean ====
section
/-! DEFINITION. The plainest arithmetic the model shares: saturating counters, wrapping counters,
single bits of a number. Register fields are held as natural numbers below their width
(INVENTORY.md gives each width); what wraps, wraps here, and what saturates, saturates here. -/

namespace Sys2Proof

/-- A saturating counter of `w` bits after `n` more events ("Counters saturate"). -/
def satAdd (w c n : Nat) : Nat := min (c + n) (2 ^ w - 1)

/-- The value of a field of `w` bits that saturates at its largest value. -/
def satTo (w n : Nat) : Nat := min n (2 ^ w - 1)

/-- A wrapping counter of `w` bits after `n` more events. -/
def wrapAdd (w c n : Nat) : Nat := (c + n) % 2 ^ w

/-- Bit `i` of `n`. -/
def bitOf (n i : Nat) : Bool := n / 2 ^ i % 2 == 1

/-- `n` with bit `i` set. -/
def setBit (n i : Nat) : Nat := if bitOf n i then n else n + 2 ^ i

/-- `n` with bit `i` clear. -/
def clrBit (n i : Nat) : Nat := if bitOf n i then n - 2 ^ i else n

/-- `n` with every bit set in `m` cleared, bit by bit over `w` bits (write-1-to-clear, R8). -/
def clrMask (w n m : Nat) : Nat :=
  (List.range w).foldl (fun a i => if bitOf m i then clrBit a i else a) n

/-- Bits `[hi:lo]` of `n`. -/
def bitsOf (n hi lo : Nat) : Nat := n / 2 ^ lo % 2 ^ (hi + 1 - lo)

/-- A Bool as a bit. -/
def b2n (b : Bool) : Nat := if b then 1 else 0

/-- Division rounded up. -/
def ceilDiv (a b : Nat) : Nat := (a + b - 1) / b

/-- The sum of a list after a map. -/
def sumBy {α : Type} (f : α → Nat) (l : List α) : Nat := l.foldr (fun x a => f x + a) 0

/-- The least value of a list after a map; `d` for an empty list. -/
def minBy {α : Type} (f : α → Nat) (d : Nat) : List α → Nat
  | [] => d
  | x :: xs => if xs.isEmpty then f x else min (f x) (minBy f d xs)

/-- The element with the least key; the earliest in the list wins a tie. -/
def argMin {α : Type} (f : α → Nat) : List α → Option α
  | [] => none
  | x :: xs =>
    match argMin f xs with
    | none => some x
    | some y => if f x ≤ f y then some x else some y

end Sys2Proof
end

