-- ==== Sys2Proof/Syntax.lean ====
section
/-! DEFINITION. The commands of the U1024: one constructor of `Instr` per row of
spec/opcode_table.json, with the row's operands. A host command carries its issuing controller
(`c`, R77: port × 64 + function), its command identifier and its fields; a board or timer event
carries what the board shows the device at that instant; a step of one of the device's own engines
carries which command, die, rank, channel or zone it acts on, and what a decoder finds on a codeword,
since the code itself is not in the spec's text. -/

namespace Sys2Proof

/-- The protection-information fields of an I/O command (R147, R174): PRINFO with PRACT in bit 3 and PRCHK in
bits 2 to 0, the initial or expected reference tag, the application tag and its mask. -/
structure PiArgs where
  prinfo : Nat := 0
  ilbrt : Nat := 0
  lbat : Nat := 0
  lbatm : Nat := 0
  deriving DecidableEq, Repr

/-- What a timed status poll finds (R246). -/
inductive Poll where
  | ready | failed | busy
  deriving DecidableEq, Repr

/-- What a decoder finds on a codeword (R266 to R269): whether it decodes, the count of corrected bits, and the
information part it decodes to where that is not the one that was written. -/
structure Decoded where
  good : Bool
  bits : Nat
  found : Option Nat
  deriving DecidableEq, Repr

/-- The kinds of an I/O command (R135, R137). -/
inductive IoOp where
  | flush | write | read | writeUncorrectable | compare | writeZeroes | datasetManagement | verify
  | zoneOpen | zoneClose | zoneFinish | zoneReset | zoneOffline | zoneReceive
  | zoneAppend | frameAppend | zoneSeal
  | other (opcode : Nat)
  deriving DecidableEq, Repr

/-- An I/O submission queue entry: the fields the manual gives a meaning to. Fields a command does
not have are at their defaults. -/
structure IoCmd where
  op : IoOp
  cid : Nat
  nsid : Nat
  slba : Nat := 0
  nlb : Nat := 0
  deac : Bool := false
  selectAll : Bool := false
  ad : Bool := false
  ranges : List (Nat × Nat) := []
  zra : Nat := 0
  zrasf : Nat := 0
  partialRep : Bool := false
  numd : Nat := 0
  frame : Nat := 0
  fstart : Bool := false
  hflags : Nat := 0
  fuse : Nat := 0
  piremap : Bool := false
  pi : PiArgs := {}
  nonce : Nat := 0
  rsv : Nat := 0
  deriving DecidableEq, Repr

/-- The fields of a Get Log Page (R142, R145, R178, R450). -/
structure LogReq where
  lid : Nat
  nsid : Nat := 0
  lsp : Nat := 0
  lsi : Nat := 0
  rae : Bool := false
  len : Nat := 0
  lpo : Nat := 0
  deriving DecidableEq, Repr

/-- The descriptor of a Commission Open (R195). `rsv` is the or of the reserved bytes and of the SQ
entries from NSQ onward. -/
structure CommDesc where
  nsid : Nat
  rate : Nat
  burst : Nat
  prio : Nat
  zconc : Nat
  nsq : Nat
  rdecl : Nat
  tag : Nat
  sqs : List (Nat × Nat)
  rsv : Nat := 0
  deriving DecidableEq, Repr

/-- A run-time patch record (R61). -/
structure PatchRec where
  section_ : Nat
  index : Nat
  field : Nat
  rsv : Nat
  value : Nat
  deriving DecidableEq, Repr

/-- One entry of an APST table (R416). -/
structure ApstEntry where
  itps : Nat
  itpt : Nat
  deriving DecidableEq, Repr

/-- A federation frame as it stands on the line (R362); `rsv` is the or of its reserved bits. -/
structure FedFrame where
  ver : Nat
  trace : Bool
  tkv : Bool
  rsv : Nat
  hop : Nat
  out : Nat
  pid : Nat
  cdly : Nat
  time : Nat
  tkid : Nat
  tkkind : Nat
  tkrep : Nat
  crc : Nat
  deriving DecidableEq, Repr

/-- The levels on the strap pins (R377). -/
structure Straps where
  boot : Nat
  lanes : Nat
  gen : Nat
  holdup : Nat
  fed : Nat
  dram : Nat
  deriving DecidableEq, Repr

/-- The fuse fields (R378). The trims decide nothing the model computes; the device root key feeds the KDF
engine alone (byte 0 lowest). The hashes are big-endian numbers, 0 where unprogrammed. -/
structure Fuses where
  trim : Nat := 0
  member : Nat := 0
  rankEn : Nat := 0
  stepping : Nat := 0
  lifecycle : Nat := 0
  warn : Nat := 0
  hot : Nat := 0
  crit : Nat := 0
  drk : Nat := 0
  hashArm0 : Nat := 0
  hashArm1 : Nat := 0
  hashFw0 : Nat := 0
  hashFw1 : Nat := 0
  armEpoch : Nat := 0
  fwFloor : Nat := 0
  deriving DecidableEq, Repr

/-- What one die answers at enumeration (R244 step 2), and its spare bytes per 16 KiB (R257). -/
structure DiePage where
  answers : Bool
  onfi : Bool
  planes : Nat
  pageKib : Nat
  pagesPerBlock : Nat
  blocksPerPlane : Nat
  supports : Bool
  spare : Nat
  deriving DecidableEq, Repr

/-- A request to the Patina recorder (R441, R442, R445). -/
structure PatReq where
  typ : Nat
  sev : Nat
  niche : Nat
  p8 : Nat := 0
  pb : Nat := 0
  pc : Nat := 0
  deriving DecidableEq, Repr

/-- What the boot flash gives at steps 9 and 10 of R385: whether it answers its SFDP read, and the read error
of each slot. -/
structure BootReads where
  silent : Bool
  readErrA : Option Nat
  readErrB : Option Nat
  readErrF1 : Bool
  readErrF2 : Bool
  deriving DecidableEq, Repr

/-- How the ladder of one codeword of a Recast copy ended before step 9: the step and what the decoder found
there (R268, R273); a codeword no entry names decodes at step 0 without correction. -/
structure LadderEnd where
  ch : Nat
  ix : Nat
  step : Nat
  r : Decoded
  deriving DecidableEq, Repr

/-- What the media show at the Plinth mount (R351, R389): whether the Plinth rows are all erased,
whether a root or mirror is readable, which key-table entries fail their unwrap, whether the band
head's final record is valid, the niches whose band units all decode, the scan time in 10 ms units, the rows (rank, row) found programmed
that no tag word attributes to a zone, the stripes (rank, row, t) with a unit that fails steps 0 to 8 of R268 or its tag
check (R353), and the factory bad blocks (channel, rank, row) of a new Plinth (R19). -/
structure MountInput where
  blank : Bool
  readable : Bool
  badKeys : List Nat
  finalOk : Bool
  bandOk : List Nat
  scan10ms : Nat
  loose : List (Nat × Nat)
  undecoded : List (Nat × Nat × Nat) := []
  factoryBad : List (Nat × Nat × Nat) := []
  deriving DecidableEq, Repr

/-- The PLLs of R395. -/
inductive Pll where
  | q | d | m | r | n (ch : Nat)
  deriving DecidableEq, Repr

/-- The islands of R14. -/
inductive Island where
  | port (p : Nat) | queue | datapath | cipher | ldpc | channel (n : Nat) | control | dram
  | housekeeping | alwaysOn
  deriving DecidableEq, Repr

/-- The rail groups in power-up order (R500). -/
inductive Rail where
  | sram | pcie | core | ana | io | ch | nand | ddr
  deriving DecidableEq, Repr

/-- What a completion timeout ends (R86). The AER errors that R86 leaves at PCIe's defaults have no row of their own and
come in here: `other` is one that function `c` detects, by its bit in the Uncorrectable Error Status, or in the Correctable
Error Status from 2^32 on. -/
inductive TimeoutOf where
  | command (id : Nat)
  | fetch (c q : Nat)
  | other (c status : Nat)
  deriving DecidableEq, Repr

/-- One requirement-table step each: the rows of spec/opcode_table.json in its order. -/
inductive Instr where
  | deleteIoSq (c cid qid : Nat)
  | deleteSqDrainComplete (c qid : Nat)
  | createIoSq (c cid qid qsize cqid : Nat) (pc : Bool)
  | getLogPage (c cid : Nat) (r : LogReq)
  | deleteIoCq (c cid qid : Nat)
  | createIoCq (c cid qid qsize : Nat) (pc ien : Bool) (iv : Nat)
  | identify (c cid cns nsid cntid csi : Nat)
  | abort (c cid sqid acid : Nat)
  | setFeatures (c cid fid : Nat) (sv : Bool) (nsid cdw11 : Nat)
  | setFeaturesNumberOfQueues (c cid nsqr ncqr : Nat)
  | setFeaturesPowerManagement (c cid ps wh : Nat)
  | setFeaturesVolatileWriteCache (c cid : Nat) (wce : Bool)
  | setFeaturesAsyncEventConfig (c cid mask : Nat)
  | setFeaturesApst (c cid : Nat) (sv enable : Bool) (entries : List ApstEntry)
  | setFeaturesNoppme (c cid : Nat) (noppme : Bool)
  | setFeaturesUrgentClassSqMapping (c cid sqid cls rsv : Nat)
  | setFeaturesThermalGraceTime (c cid : Nat) (sv : Bool) (graceMs : Nat)
  | setFeaturesHoldupTestSchedule (c cid : Nat) (sv : Bool) (periodMin firstS : Nat) (runNow : Bool)
  | getFeatures (c cid fid sel nsid cdw11 : Nat)
  | asynchronousEventRequest (c cid : Nat)
  | namespaceManagementCreate (c cid csi flbas nsze ncap dps : Nat)
  | namespaceManagementDelete (c cid nsid : Nat)
  | firmwareCommit (c cid ca fs : Nat) (readErr : Bool)
  | firmwareActivateWithoutReset (c cid fs : Nat) (readErr : Bool)
  | firmwareActivationDrained
  | firmwareActivationTimeout
  | firmwareImageDownload (c cid offset : Nat) (data : List Nat)
  | namespaceAttachment (c cid nsid : Nat) (attach : Bool) (ctrls : List Nat)
  | keepAlive (c cid : Nat)
  | formatNvm (c cid nsid lbaf pi ses : Nat)
  | sanitizeExitFailureMode (c cid : Nat) (ndas : Bool)
  | sanitizeBlockErase (c cid : Nat) (ndas : Bool)
  | sanitizeCryptoErase (c cid : Nat) (ndas : Bool)
  | sanitizeComplete (niche : Nat)
  | unsupportedOpcode (c q cid opcode nsid cdw10 cdw13 : Nat)
  | commissionOpen (c cid : Nat) (dryrun : Bool) (rsv : Nat) (d : CommDesc)
  | commissionClose (c cid handle : Nat)
  | commissionModify (c cid handle : Nat) (dryrun : Bool) (rsv rate rdecl burst prio zconc : Nat)
  | queueThaw (c cid sqid : Nat)
  | queueThawResume (c sqid : Nat)
  | keyImport (c cid action slot rsv ex ey wrapped : Nat)
  | federationControlTakeMarker (c cid tkid tkkind rsv : Nat)
  | federationControlSetTime (c cid time rsv : Nat)
  | armatureStageWrite (c cid slot offset count : Nat) (data : List Nat) (progFail : Bool)
  | armatureStageVerify (c cid slot : Nat) (readErr : Option Nat)
  | armatureStagePatch (c cid : Nat) (recs : List PatchRec)
  | armatureStageClearPatches (c cid : Nat)
  | nicheReset (c cid niche : Nat) (force : Bool) (rsv : Nat)
  | flush (c q cid nsid : Nat)
  | write (c q cid nsid slba nlb : Nat) (pi : PiArgs)
  | read (c q cid nsid slba nlb : Nat) (pi : PiArgs)
  | writeUncorrectable (c q cid nsid slba nlb : Nat)
  | compare (c q cid nsid slba nlb : Nat) (pi : PiArgs)
  | writeZeroes (c q cid nsid slba nlb : Nat) (deac : Bool) (pi : PiArgs)
  | datasetManagement (c q cid nsid : Nat) (ad : Bool) (ranges : List (Nat × Nat))
  | verify (c q cid nsid slba nlb : Nat) (pi : PiArgs)
  | zoneOpen (c q cid nsid slba : Nat) (selectAll : Bool)
  | zoneClose (c q cid nsid slba : Nat) (selectAll : Bool)
  | zoneFinish (c q cid nsid slba : Nat) (selectAll : Bool)
  | zoneReset (c q cid nsid slba : Nat) (selectAll : Bool)
  | zoneOffline (c q cid nsid slba : Nat) (selectAll : Bool)
  | zoneManagementReceive (c q cid nsid slba zra zrasf : Nat) (partialRep : Bool) (numd : Nat)
  | zoneAppend (c q cid nsid zslba nlb : Nat) (piremap : Bool) (pi : PiArgs)
  | frameAppend (c q cid nsid zslba nlb frame : Nat) (fstart : Bool) (hflags fuse : Nat)
      (piremap : Bool) (pi : PiArgs)
  | zoneSeal (c q cid nsid zslba nonce fuse rsv : Nat)
  | sqTailDoorbell (c q value : Nat)
  | cqHeadDoorbell (c q value : Nat)
  | controllerEnable (c cc aqa asq acq : Nat)
  | controllerReset (c : Nat)
  | shutdownNotification (c : Nat) (abrupt : Bool)
  | nvmSubsystemReset (port : Nat)
  | msixVectorUnmask (c : Nat) (vector : Option Nat) (mask : Bool)
  | perstAssert (port : Nat)
  | bothPerstLow
  | perstRelease (port : Nat)
  | functionLevelReset (c : Nat)
  | linkLoss (port : Nat)
  | linkLossPortReset (port : Nat)
  | linkSpeedWidthChange (port gen width : Nat)
  | pf0MpsWrite (port mps mrrs : Nat)
  | poisonedCompletion (id : Nat)
  | completionTimeout (what : TimeoutOf)
  | portInternalFault (port : Nat)
  | ptmRequest (port : Nat) (enabled : Bool)
  | ptmResponse (port master localTime : Nat)
  | aspmL1IdleEntry (port : Nat)
  | l12ExitWake (port : Nat)
  | sqFetchCompletion (c q : Nat) (entries : List IoCmd)
  | sqFetchRequest (c q : Nat)
  | hostDataTlpReceived (id : Nat) (data : List Nat)
  | arbiterGrant
  | commandStart (id : Nat)
  | cipherSegmentStart
  | writeCommitPoint (id : Nat)
  | queueFreezeLogEntry (c q : Nat)
  | readDataSentNotice (id : Nat)
  | cqePosting (c q : Nat)
  | fineMapUpdate
  | bufferAllocation (id : Nat)
  | bufferFree (niche cls index owner : Nat)
  | parkListRetry (niche : Nat)
  | commissionTokenRefill
  | standardLimitTokenRefill
  | reEvaluation
  | schedulerTick
  | stripeEligible (sid : Nat)
  | stripeGrant (rank : Nat)
  | eraseResume (rank : Nat)
  | dieOperationSelect (rank : Nat)
  | programIssued (ch rank : Nat) (ok : Bool)
  | statusPoll (ch rank : Nat) (r : Poll)
  | operationTimeout (ch rank : Nat)
  | urgentReadGrant (id : Nat)
  | programResume (ch rank : Nat)
  | channelBurstSelect (ch : Nat)
  | codewordDecode (rd : Nat) (r : Decoded)
  | scrubPass
  | rowAgeTrigger (rank row : Nat)
  | recastDeadlineMissed (rank row : Nat)
  | recastCopyStripe (rank row : Nat) (ends : List LadderEnd)
  | recastCommit (rank row : Nat)
  | frameIndexPersist (slot zone : Nat)
  | gcVictimCollect (slot : Nat)
  | gcVictimFree (slot : Nat)
  | gcBackgroundStart (slot : Nat)
  | channelEnumeration (ch : Nat) (pages : List DiePage) (eyes : List (Nat × Nat))
  | zqCalibrationShort (ch ce : Nat)
  | eyeTracking (ch ce rd wr : Nat)
  | channelGap (ch : Nat)
  | makeGap (ch : Nat)
  | quickRetrainVerify (ch rd wr : Nat)
  | channelDomainOff (d : Nat)
  | pfailInAssert
  | pfailInDeassert
  | adcFastModeReading (mv : Nat)
  | braceTimerExpiry
  | bandUnitWrite (ch rank : Nat) (fail : Bool)
  | flushHalt
  | flushHaltColdStart
  | healthTestStart
  | healthTestSample (mv : Nat)
  | healthTestTimeout
  | holdupChargeTimeout
  | checkpoint (niche : Nat)
  | journalPageProgram
  | adcScanConversion (code : Nat) (value : Int)
  | graceTimerExpiry
  | thermalCoolTimer
  | thermalHalt
  | thermalHaltRestart
  | trip (sensor : Nat)
  | federationFrameReceived (f : FedFrame) (edge : Nat)
  | federationWindowMiss (silent : Bool)
  | federationFrameOriginate
  | clockMonitorTrip (count : Option Nat) (gapNs : Nat)
  | pllLossOfLock (pll : Pll)
  | rcoFaultJudged (count : Nat)
  | rcoRetry
  | orderlyFlushComplete
  | crossingRearm (isl : Island)
  | frequencyMeasurementDone (count : Nat)
  | apstIdleTimer
  | ps3Entry
  | ps4Entry
  | ps4L12Reached
  | ps4L12Timeout
  | noppmeWindow
  | powerEstimate (est : Nat)
  | pgAonRise
  | railEnable
  | pgAssert (r : Rail)
  | pgTimeout
  | pgFall (r : Rail)
  | railFaultRetry
  | rcoStable (straps : Straps)
  | rcoStableTimeout
  | fuseLoad (first second : Fuses)
  | xoStable
  | xoStableTimeout
  | pllLock (pll : Pll)
  | pllLockTimeout (pll : Pll)
  | islandsOutOfReset (fails : List Bool)
  | firmwareAndStructureChoice (b : BootReads)
  | plinthMount (m : MountInput)
  | startUpRelease
  | startUpWatchdogExpiry
  | serviceWatchdogExpiry
  | resetFlushEnd
  | armatureMirrorWrite
  | patinaRequest (r : PatReq)
  | patinaPersist
  | drbgReseed
  | maskGeneratorReseed (engine : Nat)
  | trngHealthTestFailure (repetition : Bool)
  | transportKeyReady
  | smbusBasicManagementCommand (pecOk : Bool)
  /-- `op`: the NVMe-MI opcode of the request, 0 for this command itself; any other stands for an opcode the endpoint
  does not list (R95). `id`: the controller of structure type 3. -/
  | readNvmeMiDataStructure (pecOk : Bool) (op dtyp id : Nat)
  | nvmSubsystemHealthStatusPoll (pecOk : Bool)
  | controllerHealthStatusPoll (pecOk : Bool) (c : Nat)
  | configurationGet (pecOk : Bool) (id : Nat)
  | configurationSet (pecOk : Bool) (id value : Nat)
  | vpdRead (pecOk : Bool) (offset len : Nat)
  | tunnelledAdminCommand (pecOk : Bool) (opcode : Nat) (r : LogReq)
  | schCtrlClr (port : Nat)
  | chnCtrlClr (port ch : Nat)
  | poolCtrlClr (port : Nat)
  | xcrCtrlClr (port : Nat)
  | xcrTkselWrite (port niche : Nat)
  | hldTestRun (port : Nat)
  | hldCtrlClr (port : Nat)
  | fedCtrlClr (port : Nat)
  | fedTimeLoRead (port : Nat)
  | clkFmcStart (port sel ref n : Nat)
  | clkFaultClear (port mask : Nat)
  | pmCtrlClr (port : Nat)
  | pmOverbudgetClear (port : Nat)
  | thmCtrlClr (port : Nat)
  | thmHaltClear (port mask : Nat)
  | patCtrlClr (port : Nat)
  | glbCtrlClrAcc (port : Nat)
  | glbIstatClear (port mask : Nat)
  | glbAlertClear (port mask : Nat)
  | nchIstatClear (port niche mask : Nat)
  | bar2RegisterWrite (port offset dwords be value : Nat)
  | bar2ReadRefused (port offset dwords be : Nat)
  | pgAonFall
  | lpoStable
  | fullTrainingEnd (ch rd wr : Nat)
  | sourceStartUpTestPass
  | vfEnable (port num : Nat) (enable : Bool)
  | aggregationTimeExpiry (c vector : Nat)
  | linkPartnerL1Request (port : Nat) (l12 : Bool)
  deriving DecidableEq, Repr

end Sys2Proof
end

