-- ==== Sys2Proof/Decode.lean ====
section
/-! DEFINITION. The block decodes no instruction words: commands arrive whole, and no row of
spec/opcode_table.json gives bits (notes/assumptions/4.md). -/

namespace Sys2Proof

/-- The command a word of the opcode table spells: none, since no row gives bits. -/
def decodeTableWord (_nbits _w : Nat) : Option Instr := none

end Sys2Proof
end

