-- ==== Sys2Proof/Config.lean ====
section
/-! DEFINITION. What an implementation fixes and the spec leaves open: opaque constants with no
body. Nothing can evaluate them, so a statement that mentions one holds for every value of it.
notes/assumptions/10.md and the entries it names say where each is used. -/

namespace Sys2Proof.Config

/-- The raw bits of the noise source, 512 at a time, by a running number (R304). -/
opaque rawBits : (n : Nat) → Nat

/-- The key of the AES-256-CMAC that conditions the raw bits (R304 names none). -/
opaque condKey : Nat

/-- The 56 bytes of LDPC parity of a codeword with information part `info` (R256: the code is not in the
spec's text). -/
opaque ldpcParity : (info : Nat) → Nat

/-- Whether ONFI 5.1 defines timing mode `mode` for interface `iface`, where R49 does not show it: the list is
ONFI's. -/
opaque onfiListed : (iface mode : Nat) → Bool

/-- CRC-32 of a band head or a root record (R345, R348): the polynomial is not in the spec's text. -/
opaque crc32 : (content : Nat) → Nat

/-- The bytes the vital product data returns (R95: the spec names the read, not the content). -/
opaque vpdByte : (offset : Nat) → Nat

/-- A field (0 command identifier, 1 opcode, 2 NSID, 3 starting LBA) of the submission queue entry at
an index of a queue whose fetch timed out: the device never read it (R86). -/
opaque lostEntry : (queue index field : Nat) → Nat

/-- The duration of the n-th exit from PS3 or PS4, in 10 µs units (R426: measured by the device; the
spec gives bounds only). -/
opaque exitTime : (n : Nat) → Nat

/-- The gap of the slowest island, in ns, at a switch that the loss of lock of a PLL makes at an instant (R398: the lost
clock has no stated rate). -/
opaque lockGapNs : (pll us : Nat) → Nat

/-- The state of a mask generator bank after it has fed `blocks` blocks (R302: the feedback of the shift registers is
not in the spec's text). -/
opaque genAfter : (bank blocks : Nat) → Nat

/-- Whether the DRAM read cache holds sector `key` at an instant (R34: no rule says what fills it). -/
opaque cacheHas : (key us : Nat) → Bool

/-- Whether a Compare whose namespace goes before its host data has arrived finds that data equal (R151: it completes
normally, on data the model has not been given). -/
opaque compareEqual : (id : Nat) → Bool

/-- What the places of a fine-region tag sector past the stripe's last data sector hold (R182). -/
opaque noLba : (pos : Nat) → Nat

/-- The content of codeword `ix` of data unit `unit_` of the Plinth stripe with sequence number `seq` (R258, R348, R349:
the spec gives the records' matter, no layout of them). -/
opaque plinthSector : (seq unit_ ix : Nat) → Nat

end Sys2Proof.Config
end

