-- ==== Sys2Proof/Machine/Aes.lean ====
section
/-! DEFINITION. AES-256 (FIPS 197) and the modes that chapter 12 names: XTS with ciphertext stealing (R297 to
R299), CMAC (R304), CTR_DRBG (R306), the AES-KW unwrap and wrap (R311, R316) and GHASH (R318). The spec names these
standards and does not restate them (PRESUMED, notes/assumptions/8.md). A block and a key are numbers whose byte 0
is the low byte. -/

namespace Sys2Proof.Machine

/-! ### Bytes -/

/-- The number of a byte string, byte 0 low. -/
def leNum (l : List Nat) : Nat := l.foldr (fun b a => b % 256 + 256 * a) 0

/-- The low `n` bytes of a number, byte 0 first. -/
def leBytes : (n : Nat) → (v : Nat) → List Nat
  | 0, _ => []
  | n + 1, v => v % 256 :: leBytes n (v / 256)

/-- The number of a byte string, byte 0 high. -/
def beNum (l : List Nat) : Nat := l.foldl (fun a b => a * 256 + b % 256) 0

/-- `n` bytes of a number, high byte first. -/
def beBytes (n v : Nat) : List Nat := (leBytes n v).reverse

/-- The bytes of an `n`-byte number in the other order. -/
def byteSwap (n v : Nat) : Nat := beNum (leBytes n v)

/-! ### AES-256 -/

/-- The S-box, 32 bytes a word. -/
def sboxTab : List Nat :=
  [0xC072A49CAFA2D4ADF04759FA7DC982CA76ABD7FE2B670130C56F6BF27B777C63,
   0x75B227EBE28012079A059618C323C7041531D871F1E5A534CCF73F362693FDB7,
   0xCF584C4A39BECB6A5BB1FC20ED00D153842FE329B3D63B52A05A6E1B1A2C8309,
   0xD2F3FF1021DAB6BCF5389D928F40A351A89F3C507F02F94585334D43FBAAEFD0,
   0xDB0B5EDE14B8EE4688902A22DC4F816073195D643D7EA7C41744975FEC130CCD,
   0x08AE7A65EAF4566CA94ED58D6D37C8E779E4959162ACD3C25C2406490A3A32E0,
   0x9E1DC186B95735610EF6034866B53E708A8BBD4B1F74DDE8C6B4A61C2E2578BA,
   0x16BB54B00F2D99416842E6BF0D89A18CDF2855CEE9871E9B948ED9691198F8E1]

/-- The inverse S-box. -/
def invSboxTab : List Nat :=
  [0xCBE9DEC444438E3487FF2F9B8239E37CFBD7F3819EA340BF38A53630D56A0952,
   0x25D18B6D49A25B76B224D92866A12E084EC3FA420B954CEE3D23C2A632947B54,
   0x849D8DA75746155EDAB9EDFD5048706C92B6655DCC5CA4D41698688664F6F872,
   0x6B8A130103BDAFC1020F3FCA8F1E2CD00645B3B80558E4F70AD3BC8C00ABD890,
   0x6EDF751CE837F9E28535ADE72274AC9673E6B4F0CECFF297EADC674F4111913A,
   0xF45ACD78FEC0DB9A2079D2C64B3E56FC1BBE18AA0E62B76F89C5291D711AF147,
   0xEF9CC9939F7AE52D0D4AB519A97F51605FEC8027591012B131C7078833A8DD1F,
   0x7D0C2155631469E126D677BA7E042B17619953833CBBEBC8B0F52AAE4D3BE0A0]

def sub1 (t : List Nat) (x : Nat) : Nat := (t.getD (x / 32) 0 >>> (8 * (x % 32))) % 256

/-- SubBytes after a move of bytes: byte `i` of the result is the substitute of byte `p[i]`. -/
def subMove (t p : List Nat) (x : Nat) : Nat :=
  p.foldr (fun j a => sub1 t ((x >>> (8 * j)) % 256) + 256 * a) 0

def shiftRows : List Nat := [0, 5, 10, 15, 4, 9, 14, 3, 8, 13, 2, 7, 12, 1, 6, 11]
def invShiftRows : List Nat := [0, 13, 10, 7, 4, 1, 14, 11, 8, 5, 2, 15, 12, 9, 6, 3]
def keepBytes : List Nat := [0, 1, 2, 3]

/-- Every byte times 02h in the field of AES. -/
def xtime (x : Nat) : Nat :=
  ((x <<< 1) &&& 0xFEFEFEFEFEFEFEFEFEFEFEFEFEFEFEFE) ^^^
    (((x >>> 7) &&& 0x01010101010101010101010101010101) * 0x1B)

/-- Every column moved up by one row. -/
def rotCol (x : Nat) : Nat :=
  ((x >>> 8) &&& 0x00FFFFFF00FFFFFF00FFFFFF00FFFFFF) ||| ((x &&& 0x000000FF000000FF000000FF000000FF) <<< 24)

def mixColumns (x : Nat) : Nat :=
  let r1 := rotCol x
  let r2 := rotCol r1
  xtime (x ^^^ r1) ^^^ r1 ^^^ r2 ^^^ rotCol r2

def invMixColumns (x : Nat) : Nat := mixColumns (x ^^^ xtime (xtime (x ^^^ rotCol (rotCol x))))

/-- One more half of the key schedule: `a` eight words back, `b` four words back, `i` its number from 2 on. -/
def nextHalf (a b i : Nat) : Nat :=
  let w := b >>> 96
  let f := if i % 2 == 0 then subMove sboxTab keepBytes ((w >>> 8) ||| ((w % 256) <<< 24)) ^^^ 2 ^ (i / 2 - 1)
    else subMove sboxTab keepBytes w
  ((a ^^^ (a <<< 32) ^^^ (a <<< 64) ^^^ (a <<< 96)) % 2 ^ 128) ^^^ (f * 0x00000001000000010000000100000001)

def moreKeys : (fuel a b i : Nat) → List Nat
  | 0, _, _, _ => []
  | n + 1, a, b, i => let c := nextHalf a b i; c :: moreKeys n b c (i + 1)

/-- The 15 round keys of a 256-bit key. -/
def roundKeys (k : Nat) : List Nat :=
  let a := k % 2 ^ 128
  let b := k / 2 ^ 128 % 2 ^ 128
  a :: b :: moreKeys 13 a b 2

def encRounds : List Nat → Nat → Nat
  | [], x => x
  | [k], x => subMove sboxTab shiftRows x ^^^ k
  | k :: r, x => encRounds r (mixColumns (subMove sboxTab shiftRows x) ^^^ k)

def decRounds : List Nat → Nat → Nat
  | [], x => x
  | [k], x => subMove invSboxTab invShiftRows x ^^^ k
  | k :: r, x => decRounds r (invMixColumns (subMove invSboxTab invShiftRows x ^^^ k))

/-- The AES-256 cipher under round keys. -/
def aesEnc (ks : List Nat) (x : Nat) : Nat :=
  match ks with
  | [] => x
  | k :: r => encRounds r (x ^^^ k)

/-- The inverse cipher under round keys. -/
def aesDec (ks : List Nat) (x : Nat) : Nat :=
  match ks.reverse with
  | [] => x
  | k :: r => decRounds r (x ^^^ k)

/-! ### XTS-AES-256 (R297 to R300) -/

/-- A tweak times alpha in GF(2^128), with the polynomial of IEEE 1619 (R298). -/
def timesAlpha (t : Nat) : Nat := ((t <<< 1) % 2 ^ 128) ^^^ ((t >>> 127) * 0x87)

/-- One block of a data unit under its tweak. -/
def xtsBlock (enc : Bool) (ks : List Nat) (t x : Nat) : Nat :=
  (if enc then aesEnc ks (x ^^^ t) else aesDec ks (x ^^^ t)) ^^^ t

/-- A block with further blocks above it. -/
def catBlock (lo hi : Nat) : Nat := lo + (hi <<< 128)

/-- `n` whole blocks of `v` from tweak `t` on, and the tweak after them. -/
def xtsBlocks (enc : Bool) (ks : List Nat) : (n t v : Nat) → Nat × Nat
  | 0, t, _ => (0, t)
  | n + 1, t, v =>
    let r := xtsBlocks enc ks n (timesAlpha t) (v >>> 128)
    (catBlock (xtsBlock enc ks t (v % 2 ^ 128)) r.1, r.2)

/-- A data unit of `bytes` bytes, its sequence number the namespace LBA, under the pair (Key1, Key2) held as one
512-bit number; a partial last block is stolen from the block before it (R298, R299). -/
def xtsUnit (enc : Bool) (pair lba bytes v : Nat) : Nat :=
  let k1 := roundKeys (pair % 2 ^ 256)
  let t0 := aesEnc (roundKeys (pair / 2 ^ 256 % 2 ^ 256)) (lba % 2 ^ 64)
  let tail := bytes % 16
  let m := bytes / 16 - (if tail == 0 then 0 else 1)
  let (head, t) := xtsBlocks enc k1 m t0 v
  if tail == 0 then head
  else
    let t2 := timesAlpha t
    let whole := (v >>> (128 * m)) % 2 ^ 128
    let part := (v >>> (128 * (m + 1))) % 2 ^ (8 * tail)
    let first := xtsBlock enc k1 (if enc then t else t2) whole
    let stolen := part + ((first >>> (8 * tail)) <<< (8 * tail))
    head + (xtsBlock enc k1 (if enc then t2 else t) stolen <<< (128 * m)) +
      ((first % 2 ^ (8 * tail)) <<< (128 * (m + 1)))

/-! ### GHASH (R318, R320) -/

/-- The bits of the 16 bytes of a block in GHASH's order: bit 7 of byte 0 is the coefficient of x^0, held here as
bit 127. -/
def ghBlock (x : Nat) : Nat := byteSwap 16 x

/-- The product of two elements in GF(2^128) in GHASH's order (SP 800-38D). -/
def ghMulFrom : (n y v z : Nat) → Nat
  | 0, _, _, z => z
  | n + 1, y, v, z =>
    ghMulFrom n y (if v % 2 == 1 then (v >>> 1) ^^^ (0xE1 <<< 120) else v >>> 1)
      (if (y >>> n) % 2 == 1 then z ^^^ v else z)

def ghMul (x y : Nat) : Nat := ghMulFrom 128 y x 0

/-- `n` blocks of `v`, first block low, absorbed from state `y` under subkey `h` (R320 step 1). -/
def ghAbsorb (h : Nat) : (n y v : Nat) → Nat
  | 0, y, _ => y
  | n + 1, y, v => ghAbsorb h n (ghMul (y ^^^ ghBlock (v % 2 ^ 128)) h) (v >>> 128)

/-- The power of a subkey, one stored power for each set bit of the exponent (R320 step 2). -/
def ghPow (h : Nat) : (bits n : Nat) → Nat
  | 0, _ => 2 ^ 127
  | b + 1, n => let r := ghPow (ghMul h h) b (n / 2); if n % 2 == 1 then ghMul r h else r

/-- The fold of a segment of `n` blocks whose hash from zero is `s` (R320 step 2). -/
def ghFold (h y n s : Nat) : Nat := ghMul y (ghPow h 13 n) ^^^ s

/-- The GHASH subkey of a seal key (R308). -/
def ghKey (ks : Nat) : Nat := ghBlock (aesEnc (roundKeys ks) 0)

/-! ### CMAC and the conditioning of the entropy source (R304) -/

/-- A CMAC subkey from the one before, numbers with byte 0 high. -/
def cmacDouble (x : Nat) : Nat := ((x <<< 1) % 2 ^ 128) ^^^ ((x >>> 127) * 0x87)

/-- AES-256-CMAC of `n` whole blocks (n at least 1), first block low. -/
def cmacFrom (ks : List Nat) (k1 : Nat) : (n c v : Nat) → Nat
  | 0, c, _ => c
  | 1, c, v => aesEnc ks (c ^^^ (v % 2 ^ 128) ^^^ k1)
  | n + 2, c, v => cmacFrom ks k1 (n + 1) (aesEnc ks (c ^^^ (v % 2 ^ 128))) (v >>> 128)

def cmac (key n v : Nat) : Nat :=
  let ks := roundKeys key
  cmacFrom ks (byteSwap 16 (cmacDouble (byteSwap 16 (aesEnc ks 0)))) n 0 v

/-! ### AES-KW (SP 800-38F) -/

def kwIv : Nat := 0xA6A6A6A6A6A6A6A6

/-- One pass of the unwrap over the semiblocks, last first: `t` is the step's number. -/
def unwrapPass (ks : List Nat) : (r : List Nat) → (t a : Nat) → List Nat × Nat
  | [], _, a => ([], a)
  | x :: xs, t, a =>
    let b := aesDec ks ((a ^^^ byteSwap 8 t) + (x <<< 64))
    let r := unwrapPass ks xs (t - 1) (b % 2 ^ 64)
    (b >>> 64 :: r.1, r.2)

def unwrapPasses (ks : List Nat) (n : Nat) : (j : Nat) → (r : List Nat) → (a : Nat) → List Nat × Nat
  | 0, r, a => (r, a)
  | j + 1, r, a => let q := unwrapPass ks r (n * (j + 1)) a; unwrapPasses ks n j q.1 q.2

/-- The `n` 64-bit semiblocks of a number, low first. -/
def semiblocks : (n v : Nat) → List Nat
  | 0, _ => []
  | n + 1, v => v % 2 ^ 64 :: semiblocks n (v >>> 64)

def joinSemi (l : List Nat) : Nat := l.foldr (fun x a => x + (a <<< 64)) 0

/-- The AES-KW unwrap of `n` semiblocks of key held in `n + 1` semiblocks; none where the check fails. -/
def kwUnwrap (key n v : Nat) : Option Nat :=
  let q := unwrapPasses (roundKeys key) n 6 (semiblocks n (v >>> 64)).reverse (v % 2 ^ 64)
  if q.2 == kwIv then some (joinSemi q.1.reverse) else none

def wrapPass (ks : List Nat) : (r : List Nat) → (t a : Nat) → List Nat × Nat
  | [], _, a => ([], a)
  | x :: xs, t, a =>
    let b := aesEnc ks (a + (x <<< 64))
    let r := wrapPass ks xs (t + 1) ((b % 2 ^ 64) ^^^ byteSwap 8 t)
    (b >>> 64 :: r.1, r.2)

def wrapPasses (ks : List Nat) (n : Nat) : (j : Nat) → (r : List Nat) → (a t : Nat) → List Nat × Nat
  | 0, r, a, _ => (r, a)
  | j + 1, r, a, t => let q := wrapPass ks r t a; wrapPasses ks n j q.1 q.2 (t + n)

/-- The AES-KW wrap of `n` semiblocks of key. -/
def kwWrap (key n v : Nat) : Nat :=
  let q := wrapPasses (roundKeys key) n 6 (semiblocks n v) kwIv 1
  q.2 + (joinSemi q.1 <<< 64)

/-! ### CTR_DRBG with AES-256 and the derivation function (SP 800-90A, R306) -/

/-- The DRBG's state: key, counter block (byte 0 low) and requests since the last reseed. -/
structure Drbg where
  key : Nat := 0
  v : Nat := 0
  reqs : Nat := 0
  deriving DecidableEq, Repr

/-- The counter block after one step; the counter is the block's last bytes, high byte first. -/
def ctrNext (v : Nat) : Nat := byteSwap 16 ((byteSwap 16 v + 1) % 2 ^ 128)

/-- `n` blocks of counter output after `v`, first block low, and the counter after them. -/
def ctrBlocks (ks : List Nat) : (n v : Nat) → Nat × Nat
  | 0, v => (0, v)
  | n + 1, v =>
    let w := ctrNext v
    let r := ctrBlocks ks n w
    (catBlock (aesEnc ks w) r.1, r.2)

/-- CTR_DRBG_Update: 384 bits of counter output with `data` folded in become the key and the counter block. -/
def drbgUpdate (d : Drbg) (data : Nat) : Drbg :=
  let t := (ctrBlocks (roundKeys d.key) 3 d.v).1 ^^^ data
  { d with
    key := t % 2 ^ 256
    v := t >>> 256 }

/-- BCC of the derivation function over a number of whole blocks. -/
def bcc (ks : List Nat) : (n c v : Nat) → Nat
  | 0, c, _ => c
  | n + 1, c, v => bcc ks n (aesEnc ks (c ^^^ (v % 2 ^ 128))) (v >>> 128)

/-- `n` blocks of the derivation function's output chain from `x`. -/
def dfOut (ks : List Nat) : (n x : Nat) → Nat
  | 0, _ => 0
  | n + 1, x => let y := aesEnc ks x; catBlock y (dfOut ks n y)

/-- Block_Cipher_df of `bytes` bytes of seed material to 384 bits. -/
def drbgDf (bytes v : Nat) : Nat :=
  let len := bytes + 9
  let blocks := (len + 15) / 16
  let s := byteSwap 4 bytes + (byteSwap 4 48 <<< 32) + (v <<< 64) + (0x80 <<< (8 * (bytes + 8)))
  let k0 := roundKeys (leNum (List.range 32))
  let t := fun i => bcc k0 (blocks + 1) 0 (byteSwap 4 i + (s <<< 128))
  dfOut (roundKeys (t 0 + (t 1 <<< 128))) 3 (t 2)

/-- Instantiate from `bytes` bytes of seed material. -/
def drbgFrom (bytes v : Nat) : Drbg := drbgUpdate { key := 0, v := 0, reqs := 1 } (drbgDf bytes v)

/-- Instantiate from 384 bits of entropy and a 128-bit nonce (R306). -/
def drbgInit (entropy nonce : Nat) : Drbg := drbgFrom 64 (entropy + (nonce <<< 384))

/-- Reseed from 384 bits of entropy. -/
def drbgReseed (d : Drbg) (entropy : Nat) : Drbg :=
  { drbgUpdate d (drbgDf 48 entropy) with reqs := 1 }

/-- One generate request of `n` blocks. -/
def drbgGen (d : Drbg) (n : Nat) : Nat × Drbg :=
  let r := ctrBlocks (roundKeys d.key) n d.v
  let e := drbgUpdate { d with v := r.2 } 0
  (r.1, { e with reqs := d.reqs + 1 })

end Sys2Proof.Machine
end

