-- ==== Sys2Proof/Machine/Table.lean ====
section
/-! DEFINITION. Sparse data by number: a list of (key, value) pairs in one canonical form, keys
strictly rising and no value equal to the default that an unlisted key reads as, so that equal
contents are equal lists. Every table of the machine's state is one of these. -/

namespace Sys2Proof.Machine

/-- What key `i` of a table holds; `d` is what an unlisted key reads as. -/
def tget {α : Type} (d : α) : List (Nat × α) → Nat → α
  | [], _ => d
  | (k, v) :: r, i => if i = k then v else tget d r i

/-- The table with key `i` holding `v`; the canonical form is kept. -/
def tset {α : Type} [DecidableEq α] (d : α) : List (Nat × α) → Nat → α → List (Nat × α)
  | [], i, v => if v = d then [] else [(i, v)]
  | (k, w) :: r, i, v =>
    if i < k then (if v = d then (k, w) :: r else (i, v) :: (k, w) :: r)
    else if i = k then (if v = d then r else (i, v) :: r)
    else (k, w) :: tset d r i v

/-- Every key of the table is above `n`, keys rise strictly and no default is listed. -/
def twfFrom {α : Type} [DecidableEq α] (d : α) : Option Nat → List (Nat × α) → Bool
  | _, [] => true
  | lo, (k, v) :: r =>
    (match lo with | none => true | some n => decide (n < k)) && !(decide (v = d)) && twfFrom d (some k) r

/-- The canonical form. -/
def twf {α : Type} [DecidableEq α] (d : α) (t : List (Nat × α)) : Bool := twfFrom d none t

/-- The table with key `i`'s value changed by `f`. -/
def tmod {α : Type} [DecidableEq α] (d : α) (t : List (Nat × α)) (i : Nat) (f : α → α) :
    List (Nat × α) := tset d t i (f (tget d t i))

/-- The table with every listed entry changed by `f`, in canonical form. -/
def tmap {α : Type} [DecidableEq α] (d : α) (t : List (Nat × α)) (f : Nat → α → α) :
    List (Nat × α) := t.foldl (fun a kv => tset d a kv.1 (f kv.1 kv.2)) []

/-- The table without the entries `p` holds of. -/
def tdrop {α : Type} (t : List (Nat × α)) (p : Nat → α → Bool) : List (Nat × α) :=
  t.filter (fun kv => !(p kv.1 kv.2))

/-- The keys whose entries `p` holds of, rising. -/
def tkeys {α : Type} (t : List (Nat × α)) (p : Nat → α → Bool) : List Nat :=
  (t.filter (fun kv => p kv.1 kv.2)).map (·.1)

/-- The lowest number from `i` on, below `i + fuel`, that is not a key of the table. -/
def tfree {α : Type} (t : List (Nat × α)) : Nat → Nat → Option Nat
  | 0, _ => none
  | fuel + 1, i => if t.any (fun kv => kv.1 == i) then tfree t fuel (i + 1) else some i

end Sys2Proof.Machine
end

