-- ==== Sys2Proof/Machine/State.lean ====
section
/-! DEFINITION. Everything the spec gives the U1024, as plain data, the reasons a step could stop
(nothing in the spec stops the block) and the machine at reset. INVENTORY.md lists every piece with
its rule and reset value. Tables are in the canonical form of Machine/Table.lean; what an unlisted
key reads as is the structure with every field at its default. -/

namespace Sys2Proof.Machine

/-- Why a step could stop with a fault. Nothing raises it: the spec gives every command its effect,
and a command whose conditions do not hold leaves the machine as it stands (notes/assumptions/1.md). -/
inductive Fault where
  /-- Raised by no command; safe. -/
  | none
  deriving DecidableEq, Repr

/-- Why a command has no meaning. -/
inductive Refusal where
  /-- Raised by the dispatcher alone, for a command not modelled yet; safe. -/
  | notModelled (mnemonic : String)
  deriving DecidableEq, Repr

/-- The completion statuses the spec names (R155, R508 and the rules that return them). -/
inductive Status where
  | success | invalidOpcode | invalidField | invalidNsOrFormat | invalidQid | invalidQsize
  | invalidQdel | invalidIv | cqInvalid | cmdSeq | abortRequested | abortSqDel | abortLimit | aerLimit | dataXfer
  | internal | nsNotReady | sanInProgress | sanFailed | invalidLog | invalidFormat | nsIdUnavail
  | fwSlot | fwImage | fwProhibited | fwNeedsReset | notSaveable | lbaRange | capExceeded | unrecRead
  | compareFail | piGuard | piApp | piRef | writeProt | zBoundary | zFull | zReadOnly | zOffline
  | zInvalidWrite | zTooActive | zTooOpen | zTransition
  | queueFrozen | commRefused | commActive | nicheBoundary | nonceFormat | huDegraded | fedUnlocked
  deriving DecidableEq, Repr

/-- One field of a returned data structure: `w` bytes from byte `off` hold `v`, little-endian. Bytes
no field names are zero. -/
structure Fld where
  off : Nat
  w : Nat
  v : Nat
  deriving DecidableEq, Repr

/-- A completion queue entry (R116) with the data the command returned; `abort` marks an Abort's (R129). -/
structure Cqe where
  cid : Nat
  sq : Nat
  sqhd : Nat
  status : Status
  dnr : Bool
  dw0 : Nat := 0
  dw1 : Nat := 0
  data : List Fld := []
  abort : Bool := false
  deriving DecidableEq, Repr

/-- A Patina record (R442); `num` is the full-width event number kept for age (R445). -/
structure PatRec where
  seqa : Nat := 0
  typ : Nat := 0
  sev : Nat := 0
  premount : Bool := false
  bootcopy : Bool := false
  niche : Nat := 0
  p8 : Nat := 0
  rep : Nat := 0
  pwrcyc : Nat := 0
  hours : Nat := 0
  frac : Nat := 0
  num : Nat := 0
  pb : Nat := 0
  pc : Nat := 0
  deriving DecidableEq, Repr

/-! ### The loaded structure (R48 to R55), defaults substituted -/

structure DevCfg where
  ctrlPwrCap : Nat := 350
  icc : Nat := 0
  iccq : Nat := 0
  huCap : Nat := 0
  huVchg : Nat := 0
  huVmin : Nat := 0
  huLoad : Nat := 0
  brace : Nat := 500
  warn : Nat := 0
  hot : Nat := 0
  crit : Nat := 0
  cable : Nat := 0
  dramMode : Nat := 0
  dramGib : Nat := 0
  dramMts : Nat := 0
  deriving DecidableEq, Repr

structure GeomCfg where
  planes : Nat := 0
  pageKib : Nat := 0
  bits : Nat := 0
  buffered : Bool := false
  pages : Nat := 0
  blocks : Nat := 0
  tProg : Nat := 0
  tR : Nat := 0
  tRp : Nat := 0
  tProgP : Nat := 0
  tErs : Nat := 0
  tPs : Nat := 0
  tEs : Nat := 0
  iface : Nat := 0
  mode : Nat := 0
  rate : Nat := 0
  iProg : Nat := 0
  iRead : Nat := 0
  iErs : Nat := 0
  iXfer : Nat := 0
  deriving DecidableEq, Repr

structure NicheCfg where
  valid : Bool := false
  selfDesc : Bool := false
  urgentOk : Bool := false
  commOk : Bool := false
  weight : Nat := 0
  calShare : Nat := 0
  thermShare : Nat := 0
  bound0 : Bool := false
  fn0 : Nat := 0
  bound1 : Bool := false
  fn1 : Nat := 0
  rankSet : Nat := 0
  sharedSet : Nat := 0
  rowFirst : Nat := 0
  rowCount : Nat := 0
  qbase : Nat := 0
  qcount : Nat := 0
  vecs : Nat := 0
  maxComm : Nat := 0
  gcLow : Nat := 20
  pools : List Nat := []
  keyMask : Nat := 0
  deriving DecidableEq, Repr

structure SlotCfg where
  valid : Bool := false
  niche : Nat := 0
  nsid : Nat := 0
  zoned : Bool := false
  enc : Bool := false
  encMeta : Bool := false
  create : Bool := false
  sealEn : Bool := false
  zw : Nat := 0
  lbafMask : Nat := 0
  lbafInit : Nat := 0
  xts : Nat := 255
  sealSlot : Nat := 255
  size : Nat := 0
  maxOpen : Nat := 0
  maxActive : Nat := 0
  deriving DecidableEq, Repr

structure ArmCfg where
  dev : DevCfg := {}
  geom : GeomCfg := {}
  rankEn : Nat := 0
  spare : Nat := 0
  niches : List NicheCfg := []
  slots : List SlotCfg := []
  tick : Nat := 0
  u : Nat := 0
  rho : Nat := 0
  urgPolicy : Nat := 0
  urgMax : Nat := 0
  deriving DecidableEq, Repr

/-- The result of a slot's validation (R66, R67). -/
structure ValErr where
  code : Nat := 255
  sect : Nat := 0
  rule : Nat := 0
  off : Nat := 0
  deriving DecidableEq, Repr

/-- The Armature block: the structure in force, patches and staging (R57 to R66). `made` lists the
SEQs whose first load has created its CREATE slots (R53); `mirror` is the SEQ of the image the Plinth's mirror holds,
`mirrorDies` the dies its copies lie on (R39). -/
structure Arm where
  src : Nat := 2
  seq : Nat := 0
  structLevel : Nat := 0
  armif : Nat := 0
  epoch : Nat := 0
  errA : ValErr := {}
  errB : ValErr := {}
  stage : Option (Nat × Nat) := none
  patchCnt : Nat := 0
  patched : List (Nat × Nat × Nat) := []
  mirror : Option Nat := none
  mirrorDies : List Nat := []
  mirrorCfg : Option ArmCfg := none
  cfg : ArmCfg := {}
  base : ArmCfg := {}
  made : List Nat := []
  deriving DecidableEq, Repr

/-! ### Board, start-up and the boot flash -/

/-- Where start-up and the stops stand (R385, R389, R345, R436, R438). -/
inductive Phase where
  | off | lpo | rails | rco | fuse | xo | pll | islands | choice | mount | ready | released
  | railHold | railWait | rcoFail | fuseHold | mfg | flushing | halted | resetFlush | thermal | tripped
  deriving DecidableEq, Repr

/-- The pins the board drives or sees (R88, R330, R377, R500) and what is latched from them. -/
structure Board where
  pgAon : Bool := false
  railEn : Nat := 0
  pg : Nat := 0
  straps : Straps := ⟨0, 0, 0, 0, 0, 0⟩
  fuses : Fuses := {}
  perst0 : Bool := true
  perst1 : Bool := true
  pfail : Bool := false
  pfailLowUs : Nat := 0
  chgEn : Bool := false
  huTest : Bool := false
  thermTrip : Bool := false
  fedOut : Bool := false
  deriving DecidableEq, Repr

/-- A boot header copy (R381): its MAGIC, GEN, ACTIVE and CRC as they stand in the flash, erased where none was written. -/
structure BootHdr where
  magic : Nat := 0xFFFFFFFF
  gen : Nat := 0xFFFFFFFF
  active : Nat := 255
  crc : Nat := 0xFFFFFFFF
  deriving DecidableEq, Repr

/-- The boot flash, firmware in force and the start-up registers (R380 to R393). `flash` holds
256-byte blocks by block number; an unlisted block is erased. `dl` is the downloaded image,
`dlChk` what R383's checks found in it; `warm` marks a start-up that follows a device warm reset in PS4. -/
structure Boot where
  phase : Phase := .off
  railFails : Nat := 0
  railPend : Bool := false
  sticky : Nat := 0
  fwSlot : Nat := 0
  fwFallback : Bool := false
  armFallback : Bool := false
  restarts : Nat := 0
  evdrop : Nat := 0
  evThis : Nat := 0
  evNext : Nat := 0
  evCopied : Nat := 0
  events : List (Nat × PatRec) := []
  failed : List Nat := []
  flash : List (Nat × List Nat) := []
  hdr0 : BootHdr := {}
  hdr1 : BootHdr := {}
  dl : List (Nat × List Nat) := []
  fwVer : Nat := 0
  fwRoll : Nat := 0
  fwLevel : Nat := 0
  fwMin : Nat := 0
  fwMax : Nat := 0
  romRec : Bool := false
  maquette : Bool := false
  silent : Bool := false
  wdTimes : List Nat := []
  activation : Option (Nat × Nat × Nat) := none
  pllTried : Nat := 0
  pllDone : Nat := 0
  warm : Bool := false
  dlChk : Option Nat := none
  deriving DecidableEq, Repr

/-! ### Ports and controllers -/

/-- The link power state of a port (R85). -/
inductive LinkPm where
  | l0 | l1 | l12
  deriving DecidableEq, Repr

/-- A port (R68 to R92, GLB_PORT). An entry of `aer` is the function, the AER status it logged and the message it sent:
0 correctable (an advisory error), 1 non-fatal, 2 fatal. -/
structure Port where
  gen : Nat := 0
  width : Nat := 0
  mps : Nat := 0
  mrrs : Nat := 512
  dlup : Bool := false
  linkDown : Bool := false
  committed : Nat := 0
  discarded : Nat := 0
  link : LinkPm := .l0
  numVfs : Nat := 0
  vfOn : Bool := false
  ptmEn : Bool := false
  ptmAsk : Bool := false
  ptmM : Nat := 0
  ptmL : Nat := 0
  ptmF : Nat := 0
  ptmSeq : Nat := 0
  ptmValid : Bool := false
  aer : List (Nat × Nat × Nat) := []
  deriving DecidableEq, Repr

/-- An asynchronous event (R156, R157). -/
structure Ev where
  typ : Nat
  info : Nat
  log : Nat
  deriving DecidableEq, Repr

/-- One Error Information entry (R124, R142); `num` is its error count. -/
structure ErrEnt where
  num : Nat := 0
  sq : Nat
  cid : Nat
  status : Status
  lba : Nat
  nsid : Nat
  deriving DecidableEq, Repr

/-- A controller: its registers, features and events (R77, R98, R140, R158, R456). -/
structure Ctrl where
  en : Bool := false
  rdy : Bool := false
  shst : Nat := 0
  cc : Nat := 0
  aqa : Nat := 0
  asq : Nat := 0
  acq : Nat := 0
  allot : Nat := 0
  tempThr : Option Nat := none
  tempUnder : Nat := 0
  arbFeat : Nat := 0
  coal : Nat := 0
  ivConf : List (Nat × Nat) := []
  atomicity : Nat := 0
  aec : Nat := 0
  kato : Nat := 0
  aers : List Nat := []
  evs : List Ev := []
  waitLog : List Ev := []
  errs : List ErrEnt := []
  errCnt : Nat := 0
  changedNs : List Nat := []
  unmasked : List Nat := []
  fmask : Bool := false
  pend : List Nat := []
  coalCnt : List (Nat × Nat) := []
  msgs : Nat := 0
  frzGen : Nat := 0
  deriving DecidableEq, Repr

/-- What the Queue Freeze log holds of a frozen SQ (R125). -/
structure Frz where
  cid : Nat := 0
  status : Status := .success
  opc : Nat := 0
  nsid : Nat := 0
  slba : Nat := 0
  zslba : Nat := 0
  held : Option Nat := none
  n80 : Nat := 0
  nrun : Nat := 0
  us : Nat := 0
  fedtime : Nat := 0
  logged : Bool := false
  head : Nat := 0
  deriving DecidableEq, Repr

/-- A submission queue, keyed by controller × 65,536 + identifier (R100 to R103, R124). -/
structure Sq where
  live : Bool := false
  size : Nat := 0
  head : Nat := 0
  tail : Nat := 0
  cqid : Nat := 0
  cls : Nat := 0
  comm : Option Nat := none
  staged : List IoCmd := []
  inflight : Nat := 0
  frz : Option Frz := none
  thaw : Option Nat := none
  del : Option Nat := none
  deriving DecidableEq, Repr

/-- A completion queue: entries waiting (R118), entries in the host's ring not yet consumed. -/
structure Cq where
  live : Bool := false
  size : Nat := 0
  tail : Nat := 0
  phase : Bool := true
  iv : Nat := 0
  ien : Bool := false
  waiting : List Cqe := []
  ring : List Cqe := []
  deriving DecidableEq, Repr

/-! ### I/O commands in the pipeline -/

/-- How far a granted command is (R105). -/
inductive CmdPhase where
  | granted | started
  deriving DecidableEq, Repr

/-- Where one sector of a read stands (R34): zero without media access, waiting for its map page
(R181), waiting for codeword read `rd`, in the read buffer as stored (`info`), or lost. -/
inductive RdSt where
  | zero | page (pg : Nat) | media (rd : Nat) | ready (info : Nat) | lost
  deriving DecidableEq, Repr

/-- One sector of a read. -/
structure RdSec where
  lba : Nat
  st : RdSt
  deriving DecidableEq, Repr

/-- Who a codeword is read for: sector `sec` of a command, a unit of the rebuild of read `parent` (R268
step 9), a scrub pass (R272), the collection of LBA `lba` of a slot (R183), or map page `pg` (R181). -/
inductive Owner where
  | cmd (id sec : Nat)
  | unit (parent : Nat)
  | scrub
  | gc (slot lba : Nat)
  | page (pg : Nat)
  | sealState (slot zone : Nat)
  deriving DecidableEq, Repr

/-- How far a codeword read is: waiting for its die, in the array, in the die's page register, waiting for
or at a decoder, waiting for the other units of its stripe, decoded, or failed at step 9 (R33, R268). -/
inductive RSt where
  | wait | array | xfer | decode | rebuild | good | bad
  deriving DecidableEq, Repr

/-- A codeword read, keyed by its serial number: codeword `ix` of the unit on channel `ch` of stripe `sid`
(0 for a map page, which lies on rank `rank`). `cls` is 0 Urgent, 1 Commissioned, 2 Standard, 3 Background,
4 reserve; `step` the ladder step, `soft` the reads of step 8 done, `seq` the grant order, `pol` the
URG_POLICY at its grant (R234), `late` whether it has counted in OVER (R236), `us` the operating
time it was asked for, `val` the information part, `best` the fewest bits that a decoder found wrong at steps 0 to 7 with
the level they were found at. -/
structure Rd where
  own : Owner := .scrub
  cls : Nat := 4
  niche : Nat := 0
  sid : Nat := 0
  rank : Nat := 0
  ch : Nat := 0
  ix : Nat := 0
  step : Nat := 0
  soft : Nat := 0
  st : RSt := .wait
  seq : Nat := 0
  pol : Option Nat := none
  us : Nat := 0
  late : Bool := false
  val : Nat := 0
  best : Option (Nat × Nat) := none
  deriving DecidableEq, Repr

/-- A command granted and not yet completed, keyed by its serial number (R105 to R116). -/
structure Cmd where
  sq : Nat := 0
  io : IoCmd := { op := .flush, cid := 0, nsid := 0 }
  cls : Nat := 0
  conf : Option Nat := none
  excess : Option Nat := none
  phase : CmdPhase := .granted
  niche : Nat := 0
  slot : Nat := 0
  lo : Nat := 0
  hi : Nat := 0
  excl : Bool := false
  lock : Bool := false
  zone : Option Nat := none
  wslot : Bool := false
  want : List (Nat × Nat) := []
  got : List (Nat × Nat) := []
  parked : Bool := false
  recv : List Nat := []
  out : List Nat := []
  need : Nat := 0
  segs : Nat := 0
  segUs : Nat := 0
  order : Nat := 0
  grantUs : Nat := 0
  rds : List RdSec := []
  waits : List Nat := []
  entry : Option Nat := none
  erase : List (Nat × Nat) := []
  sids : List Nat := []
  deriving DecidableEq, Repr

/-- The arbiter (R103, R107 to R109) and the serial numbers it gives. -/
structure Arb where
  nextCmd : Nat := 1
  nextOrder : Nat := 0
  lastA : Nat := 0
  lastB : Nat := 0
  deficit : List (Nat × Nat) := []
  bgTurn : List (Nat × Nat) := []
  lastSq : List (Nat × Nat) := []
  adminRr : Nat := 0
  fetchOff : List Nat := []
  deriving DecidableEq, Repr

/-! ### Namespaces, zones and media -/

/-- A namespace slot's namespace (R53, R146 to R152). `gen` counts what raised the GEN of every zone of the slot
(R177). -/
structure Ns where
  live : Bool := false
  attr : SlotCfg := {}
  fmt : Nat := 0
  pi : Nat := 0
  ext : Bool := false
  attached : List Nat := []
  changed : List Nat := []
  hostRow : Option (Nat × Nat) := none
  gcRow : Option (Nat × Nat) := none
  nextRow : Option (Nat × Nat) := none
  fill : Option Nat := none
  gcFill : Option Nat := none
  hostWritten : Nat := 0
  hostRead : Nat := 0
  tler : Nat := 0
  gen : Nat := 0
  deriving DecidableEq, Repr

/-- The zone states (R167). -/
inductive ZSt where
  | empty | implicit | explicit | closed | full | readOnly | offline
  deriving DecidableEq, Repr

/-- One frame index entry (R178). -/
structure Frame where
  frame : Nat
  soff : Nat
  hflags : Nat
  fedstate : Nat
  cont : Bool
  fedtime : Nat
  take : Nat
  deriving DecidableEq, Repr

/-- A seal record (R324) with its trailer's fields (R319). -/
structure SealRec where
  tag : Nat
  nonce : Nat
  zslba : Nat
  nsec : Nat
  nsid : Nat
  lbaf : Nat
  encMeta : Bool
  zfc : Bool
  fedtime : Nat
  fedstate : Nat
  take : Nat
  nent : Nat
  gen : Nat
  us : Nat
  deriving DecidableEq, Repr

/-- A zone, keyed by slot × 131,072 + zone (R160 to R178, R318 to R324). `wp` and `waste` are in
sectors from the zone's start; `rows` are its (rank, row) pairs in rank-position order. -/
structure Zone where
  st : ZSt := .empty
  wp : Nat := 0
  rows : List (Nat × Nat) := []
  zcap : Nat := 0
  waste : Nat := 0
  pads : List (Nat × Nat) := []
  npad : Nat := 0
  nstripe : Nat := 0
  zfc : Bool := false
  idxFull : Bool := false
  finPend : Bool := false
  gen : Nat := 0
  frames : List Frame := []
  framesSaved : Nat := 0
  fill : Option Nat := none
  lastUs : Nat := 0
  lastComm : Bool := false
  held : List Nat := []
  sealed : Option SealRec := none
  ghash : Nat := 0
  absorbed : Nat := 0
  sealSaved : Bool := false
  deriving DecidableEq, Repr

/-- A fine-map entry (R181): the row, stripe and sector an LBA lies at, or uncorrectable. -/
structure Fine where
  state : Nat := 0
  rank : Nat := 0
  row : Nat := 0
  stripe : Nat := 0
  sector : Nat := 0
  deriving DecidableEq, Repr

/-- Where the newest committed content of an LBA lies, keyed by slot × 2^48 + LBA: the stripe and the
position in it (stripe 0: nowhere). `unc` is R135's mark. -/
structure Sector where
  sid : Nat := 0
  pos : Nat := 0
  unc : Bool := false
  deriving DecidableEq, Repr

/-- A data sector in a stripe: its LBA, what is stored of it, the data unit of R297 and the metadata
after it as one little-endian number, and its commit sequence (R344). -/
structure Cell where
  lba : Nat := 0
  val : Nat := 0
  seq : Nat := 0
  deriving DecidableEq, Repr

/-- A Plinth program (R217, R226): a page of the map-delta journal, the checkpoint of a niche, the Patina image, the
Armature mirror. -/
inductive PlJob where
  | page
  | checkpoint (niche : Nat)
  | patina
  | mirror
  deriving DecidableEq, Repr

/-- How far a stripe is (R21, R30, R221). -/
inductive SPhase where
  | filling | complete | eligible | granted | issued | done
  deriving DecidableEq, Repr

/-- A stripe of a row, keyed by its serial number (R21, R256 to R264). Masks are over channels; `cells`
holds the sectors by position; `cls` is the class of its programs, 2 Standard or 3 Background (R220);
`zoff` is the zone offset of its first data sector; `gone` are the positions lost before a Recast copied
the stripe, which hold filler since (R273); `seq` is the device sequence number of its
load, `copySeq` that of its Recast copy's (R349, R354), `ord` its place in the grant order; `tokw` says that its
grant was delayed by tokens (R230); `pl` is the Plinth program it is, on a system row, niche 0 and slot 3FFh (R20, R217). -/
structure Stripe where
  niche : Nat := 0
  slot : Nat := 0
  zone : Option Nat := none
  gc : Bool := false
  rank : Nat := 0
  row : Nat := 0
  t : Nat := 0
  chmask : Nat := 0
  p : Nat := 0
  fmt : Nat := 0
  dcap : Nat := 0
  valid : Nat := 0
  zoff : Nat := 0
  cells : List (Nat × Cell) := []
  padded : Bool := false
  interior : Bool := false
  recast : Bool := false
  gone : List Nat := []
  cls : Nat := 2
  comm : Option Nat := none
  phase : SPhase := .filling
  bytes : Nat := 0
  eligNs : Nat := 0
  dlNs : Nat := 0
  loaded : Nat := 0
  issued : Nat := 0
  ended : Nat := 0
  erased : Nat := 0
  released : Nat := 0
  seq : Nat := 0
  ord : Nat := 0
  copySeq : Nat := 0
  tokw : Bool := false
  lost : Bool := false
  pl : Option PlJob := none
  deriving DecidableEq, Repr

/-- What state a row is in (R164, R187, R353); `leaving`: unbound, with programs still running. -/
inductive RowSt where
  | erased | bound | leaving | pending | erasing | out
  deriving DecidableEq, Repr

/-- A row, keyed by rank × 8,192 + row (R19, R164, R180, R260, R271). `queuedUs` is the operating time at which it
became erase-pending or was queued for Recast, `copyPh` where the copy of its next stripe stands: 0 not begun,
1 reading, 2 read, 3 decoded and waiting for its program, 4 loading and programming. That stripe is number `copyT`, copied
on channel `copyCh` alone where a column is copied again (R275); `copyOrd` is its place in the grant order, `copyBad` the
channels whose read of it failed (R246), `cols` the columns that are copied again with the stripes each holds. `waits` are
the reads that were issued to the row's blocks before a swap (R274). -/
structure Row where
  st : RowSt := .erased
  slot : Nat := 0
  zone : Option Nat := none
  pos : Nat := 0
  chmask : Nat := 0
  p : Nat := 0
  d : Nat := 0
  splits : List (Nat × Nat × Nat) := []
  nstripe : Nat := 0
  seq : Nat := 0
  queue : Nat := 0
  queuedUs : Nat := 0
  missed : Bool := false
  reads : Nat := 0
  firstUs : Nat := 0
  dest : Option Nat := none
  copied : Nat := 0
  copyPh : Nat := 0
  copyT : Nat := 0
  copyCh : Option Nat := none
  copyOrd : Nat := 0
  copyBad : List Nat := []
  cols : List (Nat × Nat) := []
  waits : List Nat := []
  swapJ : Bool := false
  recastDst : Bool := false
  victim : Option Nat := none
  deriving DecidableEq, Repr

/-- What occupies a die (R217, R232): the load or program of a stripe (a Plinth program among them), the array read of a
codeword, an erase of a row's block or of the next spare block (R276), and of a Recast copy the array reads, the transfers
of what they read, the loads and the programs. -/
inductive DieOp where
  | idle
  | load (sid : Nat)
  | program (sid : Nat)
  | read (rd : Nat)
  | erase (row : Nat)
  | spare
  | copyRead (row : Nat)
  | copyXfer (row : Nat)
  | copyLoad (row : Nat)
  | copy (row : Nat)
  deriving DecidableEq, Repr

/-- A die, keyed by channel × 32 + rank (R17, R19, R216, R231, R276, R277). `xfer` is the read whose
codeword stands in the page register, `level` the read-retry level set (R268). `susp` is a suspended
operation under the running one with its own niche, kind and reserve mark, `below` an erase suspended under a suspended
program, `suspWait` says that the suspend has not been polled ready, `suspRd` is the read it is for, `polHeld` that a
change of URG_POLICY to 1 met the program suspended (R234); `offset` is the side of step 8's second and third read
(R268: 1 below, 2 above the level); `spareDone` counts the spare blocks erased (R276); `cal` is the calendar, newest
tick first, `sample` the entry of the tick that runs, `bursts` the codeword bursts of the load done. `remap`
gives the block of each row that does not lie at its own number, `moved` the spares a row's later stripes
went to under split records of TYPE 0 with the first stripe there, `bad` the retired blocks (R19, R262,
R276). -/
structure Die where
  used : Bool := false
  notUsed : Bool := false
  retired : Bool := false
  sparesUsed : Nat := 0
  remap : List (Nat × Option Nat) := []
  moved : List (Nat × List (Nat × Nat)) := []
  bad : List Nat := []
  op : DieOp := .idle
  opUs : Nat := 0
  niche : Nat := 0
  kind : Nat := 0
  resv : Bool := false
  xfer : Option Nat := none
  level : Nat := 0
  susp : Option DieOp := none
  suspNiche : Nat := 0
  suspKind : Nat := 0
  suspResv : Bool := false
  suspWait : Bool := false
  suspRd : Option Nat := none
  below : Option (DieOp × Nat × Nat × Bool) := none
  polHeld : Bool := false
  offset : Nat := 0
  spareDone : Nat := 0
  suspCnt : Nat := 0
  suspLimit : Nat := 0
  cal : List Nat := []
  sample : Nat := 0
  bursts : Nat := 0
  turn : Nat := 0
  spare : Nat := 0
  deriving DecidableEq, Repr

/-- A channel (R240 to R255). `startRate` is the rate trained at start-up, `degraded` says that a full training at
the lowest step has returned it to service (R249). `lastUrgent` says whether the last burst was an urgent read's (R233);
`drv` are the times the bus was driven in the last millisecond, newest first, as (µs, NCLK) (R229, R255), `ce` the CE#
last driven (R247). -/
structure Chan where
  state : Nat := 0
  degraded : Bool := false
  retrain : Bool := false
  startRate : Nat := 0
  rate : Nat := 0
  presets : List Nat := []
  rdNow : Nat := 0
  wrNow : Nat := 0
  rdStart : Nat := 0
  wrStart : Nat := 0
  zq : Nat := 0
  track : Nat := 0
  stepdowns : Nat := 0
  quick : Nat := 0
  fails : Nat := 0
  progTo : Nat := 0
  readTo : Nat := 0
  stepPend : Bool := false
  stepUs : Nat := 0
  making : Bool := false
  full : Bool := false
  target : Nat := 0
  lastQuick : Option Nat := none
  lastUrgent : Bool := false
  drv : List (Nat × Nat) := []
  ce : Nat := 0
  deriving DecidableEq, Repr

/-- The media scheduler's own registers (R236) and serial numbers, `seqNo` the device sequence number (R349),
`grantNo` the grant order (R233) and `commitNo` the commit sequence (R344); the codeword reads at the input stages of
the 16 hard decoders and at the 4 soft decoders, and those that wait for one (R266, R267); `beyond` is the flag that the
newest result of a hard decoder carries (R266). -/
structure Sched where
  peak : Nat := 0
  suspends : Nat := 0
  urgOver : Nat := 0
  miss : Nat := 0
  tokwait : Nat := 0
  minSlack : List (Nat × Nat) := []
  nextStripe : Nat := 1
  seqNo : Nat := 0
  grantNo : Nat := 0
  commitNo : Nat := 0
  scrubPass : Nat := 0
  nextRd : Nat := 1
  hard : List Nat := []
  hardQ : List Nat := []
  soft : List Nat := []
  softQ : List Nat := []
  beyond : Bool := false
  deriving DecidableEq, Repr

/-- A sanitize in progress (R153, R154). -/
inductive San where
  | none | block | crypto | failed
  deriving DecidableEq, Repr

/-- A niche: health counters (R145), credits (R184), lost sectors (R270), status bits (R490). -/
structure Nch where
  readOnly : Bool := false
  san : San := .none
  sanDone : Nat := 0
  fgGc : Bool := false
  bgGc : Bool := false
  credits : Nat := 0
  hostWritten : Nat := 0
  hostRead : Nat := 0
  mediaWritten : Nat := 0
  retryReads : Nat := 0
  softDecodes : Nat := 0
  rebuilds : Nat := 0
  unrecovered : Nat := 0
  ckptUs : Nat := 0
  sinceCkpt : Nat := 0
  lastIoUs : Nat := 0
  istat : Nat := 0
  ien : Nat := 0
  lost : List (Nat × Nat × Nat) := []
  parkConf : List Nat := []
  parkOther : List Nat := []
  deriving DecidableEq, Repr

/-! ### Commissions and buffers -/

/-- The states of a commission (R207). -/
inductive CSt where
  | live | atRisk | breached | closed
  deriving DecidableEq, Repr

/-- A commission, keyed by its handle (R189, R190, R192, R207, R214). -/
structure Comm where
  used : Bool := false
  st : CSt := .live
  nsid : Nat := 0
  slot : Nat := 0
  rate : Nat := 0
  burst : Nat := 0
  prio : Nat := 0
  zconc : Nat := 0
  rdecl : Nat := 0
  tag : Nat := 0
  sqs : List Nat := []
  port : Nat := 0
  reason : Nat := 0
  close : Nat := 0
  srate : Nat := 0
  etb : Nat := 0xFFFFFFFF
  deficit : Nat := 0
  resv : Nat := 0
  resvNew : Nat := 0
  resvEff : Nat := 0
  resident : Nat := 0
  peak : Nat := 0
  tokens : Nat := 0
  confBytes : Nat := 0
  excessBytes : Nat := 0
  excessCmds : Nat := 0
  openUs : Nat := 0
  fedtime : Nat := 0
  maxlat : Nat := 0
  seq : Nat := 0
  lastE : Option Nat := none
  deriving DecidableEq, Repr

/-- Device-wide admission state (R208, R215). -/
structure Cms where
  wTherm : Nat := 52000
  wState : Nat := 52000
  dCap : Nat := 0
  atRiskEv : Nat := 0
  breachEv : Nat := 0
  reeval : Bool := false
  again : Bool := false
  opens : Nat := 0
  gens : List (Nat × Nat) := []
  hgen : List (Nat × Nat) := []
  deriving DecidableEq, Repr

/-- The counters of one pool region, keyed by niche × 8 + class (R293). -/
structure PoolCnt where
  minFree : Option Nat := none
  fails : Nat := 0
  fallbacks : Nat := 0
  deriving DecidableEq, Repr

/-- An allocated buffer, keyed by (niche × 8 + class) × 65,536 + index: its 16-bit owner identifier (R286), the
address it was returned with (R287), and the sectors of stripes it holds (R290). -/
structure Buf where
  used : Bool := false
  owner : Nat := 0
  addr : Nat := 0
  dirty : Bool := false
  conf : Option Nat := none
  parts : List (Nat × Nat × Nat) := []
  deriving DecidableEq, Repr

/-- An admin command of controller `c` that has been executed and whose completion waits for buffers of the control
island (R289): the class of each request still to be made, its serial number. -/
structure CtlReq where
  num : Nat
  c : Nat
  niche : Nat
  want : List (Nat × Nat)
  cqe : Cqe
  deriving DecidableEq, Repr

/-- The buffer pool manager (R286 to R293). `ids` gives each owner its 16-bit identifier, `ctl` the requests of the
control island that wait. -/
structure Pool where
  cnt : List (Nat × PoolCnt) := []
  bufs : List (Nat × Buf) := []
  ids : List (Nat × Nat) := []
  ctl : List CtlReq := []
  nextCtl : Nat := 0
  badFree : Nat := 0
  badNiche : Nat := 0
  badClass : Nat := 0
  badKind : Nat := 0
  deriving DecidableEq, Repr

/-! ### Cipher, hold-up, persistence -/

/-- A key slot: 0 Empty, 1 Generated, 2 Imported; the two shares of its round keys (R301, R308), and the
serial number of the key it holds, which no step reads. An XTS slot holds the 15 round keys of Key1, then
those of Key2, a seal slot those of K_S, then the subkey H; 128 bits each, the first lowest. -/
structure Key where
  st : Nat := 0
  isSeal : Bool := false
  ser : Nat := 0
  share0 : Nat := 0
  share1 : Nat := 0
  deriving DecidableEq, Repr

/-- An entry of the key table (R311): the slot's state, its AES-KW wrap under SK, the key's serial. -/
structure KeyEnt where
  st : Nat := 0
  isSeal : Bool := false
  ser : Nat := 0
  wrapped : Nat := 0
  deriving DecidableEq, Repr

/-- A key table as a key block holds it (R311): its header's sequence number and the entries of the slots that are not
Empty. -/
structure KeyBlk where
  seq : Nat
  ents : List (Nat × KeyEnt)
  deriving DecidableEq, Repr

/-- A cipher engine (R294, R302, R329): the blocks that have entered it since its mask generator bank took a seed, the
bank's state and the seed buffered next, the longest wait of an Urgent segment in XCLK, and (instant, blocks) of the
segments of the last millisecond. -/
structure Eng where
  blocks : Nat := 0
  bank : Nat := 0
  seed : Option Nat := none
  urgWait : Nat := 0
  recent : List (Nat × Nat) := []
  deriving DecidableEq, Repr

/-- A Key Import that waits for its range-lock entry (R112, R317), with the operands of its command. -/
structure KeyImp where
  id : Nat
  c : Nat
  cid : Nat
  action : Nat
  slot : Nat
  rsv : Nat
  ex : Nat
  ey : Nat
  wrapped : Nat
  deriving DecidableEq, Repr

/-- The cipher island (R294 to R329). `segs` are (class, arrival, command) waiting for an engine; `rng` is
the DRBG's working state, `rawNo` the number of 512-bit blocks the noise source has delivered; `table` is the key table
in force with its sequence number, `tableBlk` the key block of the two that holds it, `older` what the other still
holds (R311, R312); `engs` are the six engines, `nextEng` the one that takes the next segment, `imps` the Key Imports
that wait. -/
structure Cipher where
  trng : Nat := 0
  trngFails : Nat := 0
  rawNo : Nat := 0
  drbg : Nat := 0
  rng : Drbg := ⟨0, 0, 0⟩
  reseedUs : Nat := 0
  seedSrc : Bool := false
  ktableOk : Bool := false
  tkBusy : Bool := false
  tkSel : Nat := 0
  tkX : Nat := 0
  tkY : Nat := 0
  keys : List (Nat × Key) := []
  shadow : List (Nat × KeyEnt) := []
  table : List (Nat × KeyEnt) := []
  tableSeq : Nat := 0
  tableBlk : Bool := false
  older : Option KeyBlk := none
  nextSer : Nat := 1
  rct : Nat := 0
  apt : Nat := 0
  sourceRestarts : Nat := 0
  reseeds : Nat := 0
  maskSeeds : Nat := 0
  engs : List Eng := List.replicate 6 {}
  nextEng : Nat := 0
  imps : List KeyImp := []
  generated : Nat := 0
  destroyed : Nat := 0
  imports : Nat := 0
  importFails : Nat := 0
  seals : Nat := 0
  segs : List (Nat × Nat × Nat) := []
  deriving DecidableEq, Repr

/-- Supply watch, brace and hold-up (R330 to R342, R358). `reasons` is a mask of R341's codes, `latched` those of them
that only a passed test ends. -/
structure Hold where
  brace : Bool := false
  braceTimer : Bool := false
  recovered : List Nat := []
  vin : Nat := 0
  vinMin : Nat := 65535
  huv : Nat := 0
  huvMin : Nat := 65535
  nextHu : Bool := true
  testing : Bool := false
  run : Bool := false
  v0 : Option Nat := none
  testUs : Nat := 0
  deferred : Bool := false
  cmeas : Nat := 0
  tested : Bool := false
  testedUs : Option Nat := none
  reasons : Nat := 0
  latched : Nat := 0
  braces : Nat := 0
  tests : Nat := 0
  lastFl : Nat := 0
  outcome : Nat := 0
  scan : Bool := false
  scan10 : Nat := 0
  period : Nat := 1440
  first : Nat := 30
  low : Bool := false
  chgWait : Bool := false
  braceVin : Nat := 65535
  deriving DecidableEq, Repr

/-- A unit of the emergency band (R343, R344): where it lies, and its header's fields. Kind 0 holds data, 1 a
niche's state, 2 the device's state, 3 the parity of its band stripe, 4 the band head; `sects` are (LBA, slot, commit
sequence), `data` the information parts of its header and its sectors. `failed` is 1
where its program failed and the parity of its band stripe covers it, 2 where it failed and was sent again (R345). -/
structure BandUnit where
  ch : Nat := 0
  rank : Nat := 0
  line : Nat := 0
  kind : Nat := 0
  niche : Nat := 0
  unit_ : Nat := 0
  nunits : Nat := 0
  armseq : Nat := 0
  pwrcyc : Nat := 0
  sects : List (Nat × Nat × Nat) := []
  data : List Nat := []
  failed : Nat := 0
  deriving DecidableEq, Repr

/-- The maps at one moment: what a journal page or a checkpoint carries (R348, R349). `lost` holds the lost-sector table
of each niche. -/
structure MapImg where
  zones : List (Nat × Zone) := []
  rows : List (Nat × Row) := []
  fine : List (Nat × Fine) := []
  lost : List (Nat × List (Nat × Nat × Nat)) := []
  deriving DecidableEq, Repr

/-- What the Plinth and the boot flash keep of the machine's own records (R311, R348 to R351, R447): `newest` says
which record is newest, 1 a checkpoint root, 2 a clean mark, 3 a band head; `rootArea` and `rootSeq` are the Plinth area
and the device sequence number of the newest root, `band` and `bandLeft` the band units written and still to be written,
`progFails` the programs (stripe, channel) and `copyFails` the Recast programs (rank, row, channel) that failed during a
flush (R357), and `media` the newest content of each LBA
on the media. `jobs` are the Plinth programs that wait, oldest first (R226), `openRows` the Plinth row that each rank
fills. `img` is what the persisted journal and checkpoints give, `taken` what each Plinth program under way carries
(R348, R349). -/
structure Plinth where
  exists_ : Bool := false
  mounted : Bool := false
  fmt2 : Bool := false
  newest : Nat := 0
  bandSeq : Nat := 0
  bandUnits : Nat := 0
  flushNs : Nat := 0
  bandLeft : List BandUnit := []
  band : List BandUnit := []
  progFails : List (Nat × Nat) := []
  copyFails : List (Nat × Nat × Nat) := []
  rootArea : Nat := 0
  rootSeq : Nat := 0
  jrnl : Nat := 0
  jobs : List PlJob := []
  openRows : List (Nat × Nat) := []
  img : MapImg := {}
  taken : List (Nat × MapImg × Nat) := []
  media : List (Nat × Sector) := []
  saved : List (Nat × Nat) := []
  savedApst : List ApstEntry := []
  lossAll : Bool := false
  deriving DecidableEq, Repr

/-! ### Federation, clocks, power, thermal, Patina, global -/

/-- The federation unit (R359 to R376). `run` is the candidate run of R368; `cable` FED_CABLE_NS in force (R62);
`spacing` the learned millisecond in ns of the device's own clock, with `frac` the part of a nanosecond carried on
(R365), `adj` the offset in ns that the next `adjUs` microseconds correct; `idSet` says that an ID has been computed
(R360), `badFwd` that a corrupted frame has been forwarded in this window (R363); `nextAt` the time of the next frame it originates (R362, R367); `setT` the Set Times waiting (R373). -/
structure Fed where
  unit : Bool := false
  time : Nat := 0
  locked : Bool := false
  trace : Bool := false
  ovf : Bool := false
  loss : Bool := false
  clkfb : Bool := false
  missRun : Nat := 0
  silentRun : Bool := true
  run : Nat := 0
  lastEdge : Nat := 0
  hop : Nat := 0
  hopRx : Nat := 0
  id : Nat := 0
  idValid : Bool := false
  idSet : Bool := false
  cdlyRx : Nat := 0
  lastTime : Nat := 0
  off : Int := 0
  maxOff : Nat := 0
  missed : Nat := 0
  crcErr : Nat := 0
  early : Nat := 0
  late : Nat := 0
  unlocks : Nat := 0
  steps : Nat := 0
  tkId : Nat := 0
  tkKind : Nat := 0
  tkValid : Bool := false
  tkT : Nat := 0
  wait : Option (Nat × Nat × Nat × Nat × Nat) := none
  rep : Option (Nat × Nat × Nat) := none
  setT : List (Nat × Nat × Nat × Nat) := []
  cable : Nat := 0
  spacing : Nat := 1000000
  frac : Nat := 0
  adj : Int := 0
  adjUs : Nat := 0
  nextAt : Nat := 0
  latch0 : Nat := 0
  latch1 : Nat := 0
  sent : List FedFrame := []
  hasFrame : Bool := false
  badFwd : Bool := false
  deriving DecidableEq, Repr

/-- Clocks (R394 to R406). `lock` bit order: PLL_Q, PLL_D, PLL_M, PLL_R; `live` holds XO_OK, MONOFF and LOCK of the
oscillators that run through a device reset until the islands are out of it (R10, R459), `fOn` SEL and REF of the frequency
measurement that runs (R403). -/
structure Clk where
  xoOk : Bool := false
  rcoRun : Bool := false
  fallback : Bool := false
  rcoBad : Bool := false
  monMode : Bool := false
  monOff : Bool := true
  lock : Nat := 0
  rcoFail : Bool := false
  xoTrip : Bool := false
  pllTrip : Bool := false
  retries : Nat := 0
  lastCnt : Nat := 0
  trips : Nat := 0
  gapNs : Nat := 0
  stopped : Bool := false
  fSel : Nat := 0
  fRef : Nat := 0
  fN : Nat := 4
  fRun : Bool := false
  fOn : Nat × Nat := (0, 0)
  fDone : Bool := false
  fErr : Bool := false
  fCount : Nat := 0
  gate0 : Nat := 0xC0007
  gate1 : Nat := 0
  gate2 : Nat := 0x3007
  gate3 : Nat := 0
  live : Option (Bool × Bool × Nat) := none
  fbFlush : Bool := false
  fbDone : Bool := false
  fence : List Island := []
  deriving DecidableEq, Repr

/-- The steps of an entry into PS3 or PS4 (R418, R419). -/
inductive Entry where
  | none | drain3 | drain4 | wait4
  deriving DecidableEq, Repr

/-- Power states (R407 to R426). `dramCold` says that a PS4 has lost the DRAM's map, which comes back on demand (R413,
R422); `ramp` is the supply's ramp: the instant it ends and the assist levels before it (R425). -/
structure Pm where
  ps : Nat := 0
  req : Nat := 0
  back : Nat := 0
  tcap : Nat := 0
  entry : Entry := .none
  overBudget : Bool := false
  wakeSrc : Nat := 0
  noppme : Bool := false
  window : Bool := false
  domCore : Bool := false
  domXcr : Bool := false
  domLdpc : Bool := false
  domDram : Bool := false
  domPcie : Nat := 0
  domChg : Nat := 0
  coreRet : Bool := false
  retLv : Bool := false
  dramCold : Bool := false
  vsram : Nat := 750
  rda : Nat := 1
  wra : Nat := 1
  wlud : Nat := 5
  ramp : Option (Nat × Nat × Nat × Nat) := none
  est : Nat := 0
  peak : Nat := 0
  ps2 : Nat := 0
  cnt3 : Nat := 0
  cnt4 : Nat := 0
  last : Nat := 0
  max : Nat := 0
  refused : Nat := 0
  apstSkip : Nat := 0
  stopB : Bool := false
  overMs : Nat := 0
  apstOn : Bool := false
  apst : List ApstEntry := []
  deriving DecidableEq, Repr

/-- A temperature sensor (R430): reading in kelvin, state 0 valid, 1 absent, 2 broken, 3 stale. -/
structure Sensor where
  temp : Nat := 0
  st : Nat := 0
  raw : Nat := 0
  same : Nat := 0
  okRun : Nat := 0
  comp0 : Nat := 0
  deriving DecidableEq, Repr

/-- Thermal management (R427 to R439). -/
structure Thm where
  composite : Nat := 0
  level : Nat := 0
  stage : Nat := 0
  enforced : Nat := 0
  stopping : Bool := false
  warn : Nat := 0
  hot : Nat := 0
  crit : Nat := 0
  graceMs : Nat := 2000
  graceEnd : Option Nat := none
  coolFrom : Option Nat := none
  critRun : Nat := 0
  maxK : Nat := 0
  hotUs : Nat := 0
  stageUps : Nat := 0
  halted : Bool := false
  trippedBit : Bool := false
  halts : Nat := 0
  haltTimes : List Nat := []
  stay : Bool := false
  sensors : List (Nat × Sensor) := []
  stdTokens : Nat := 0
  mode : Nat := 0
  ch : Nat := 0
  rounds : Nat := 0
  codes : List (Nat × (Nat × Nat)) := []
  deriving DecidableEq, Repr

/-- A copy of the ring with its counters: what a persist writes (R447) or the state units of a flush
carry (R345). -/
structure PatImg where
  ring : List (Nat × PatRec) := []
  events : Nat := 0
  pwr : Nat := 0
  opUs : Nat := 0
  drops : Nat := 0
  dropMax : Nat := 0
  ovwr : Nat := 0
  last : Option Nat := none
  deriving DecidableEq, Repr

/-- The Patina recorder (R441 to R453). `img` is the last persisted ring, `taken` the one a persist under way carries,
`band` the ring in the state units of the last flush. -/
structure Pat where
  ring : List (Nat × PatRec) := []
  last : Option Nat := none
  events : Nat := 0
  pwrcyc : Nat := 0xFFFFFFFF
  premount : Bool := true
  drops : Nat := 0
  dropMax : Nat := 0
  overwrites : Nat := 0
  repeats : Nat := 0
  count : Nat := 0
  persistUs : Option Nat := none
  img : Option PatImg := none
  taken : Option PatImg := none
  band : Option PatImg := none
  deriving DecidableEq, Repr

/-- The global block (R485 to R487) and the sideband's settings (R95). -/
structure Glb where
  released : Bool := false
  adminOnly : Bool := false
  reset : Nat := 0
  devwarm : Nat := 0
  wdog : Nat := 0
  istat : Nat := 0
  ien : Nat := 0
  pwrFault : Bool := false
  fuseFault : Bool := false
  bootFlash : Bool := false
  accOff : Nat := 0
  accPort : Nat := 0
  accWrite : Bool := false
  accKind : Nat := 0
  accReads : Nat := 0
  accWrites : Nat := 0
  scratch : List (Nat × Nat) := []
  miFreq : Nat := 1
  miMtu : Nat := 64
  miReplies : Nat := 0
  miLast : List Fld := []
  miFrozen : Option (Nat × Nat × Nat) := none
  deriving DecidableEq, Repr

/-! ### The machine -/

/-- The whole block. `pending` is the queue of commands, first in first out; `nowUs` and `opUs` are
the time since the always-on rail rose and the operating time, in microseconds. -/
structure State where
  pending : List Instr := []
  nowUs : Nat := 0
  opUs : Nat := 0
  board : Board := {}
  boot : Boot := {}
  arm : Arm := {}
  ports : List (Nat × Port) := []
  ctrls : List (Nat × Ctrl) := []
  sqs : List (Nat × Sq) := []
  cqs : List (Nat × Cq) := []
  cmds : List (Nat × Cmd) := []
  arb : Arb := {}
  ns : List (Nat × Ns) := []
  zones : List (Nat × Zone) := []
  fine : List (Nat × Fine) := []
  fineQ : List Nat := []
  sectors : List (Nat × Sector) := []
  reads : List (Nat × Rd) := []
  fineCache : List Nat := []
  stripes : List (Nat × Stripe) := []
  rows : List (Nat × Row) := []
  dies : List (Nat × Die) := []
  chans : List (Nat × Chan) := []
  sched : Sched := {}
  niches : List (Nat × Nch) := []
  comms : List (Nat × Comm) := []
  cms : Cms := {}
  pool : Pool := {}
  cipher : Cipher := {}
  hold : Hold := {}
  plinth : Plinth := {}
  fed : Fed := {}
  clk : Clk := {}
  pm : Pm := {}
  thm : Thm := {}
  pat : Pat := {}
  glb : Glb := {}
  deriving DecidableEq, Repr

/-- The machine before PG_AON first rises: every register at the reset value of its table, the boot
flash and the media blank, no command waiting. -/
def State.reset : State := {}

end Sys2Proof.Machine
end

