-- ==== Sys2Proof/Machine/Ops.lean ====
section
/-! DEFINITION. The operations every family shares: reading and writing the tables, the structure in
force, time stamps, asynchronous events and completions, the Patina recorder, fetch stops. -/

namespace Sys2Proof.Machine

/-- What one step answers. -/
abbrev Out := Host.Outcome State Fault Refusal

/-- A command's effect as the step's outcome: the spec stops the block nowhere. -/
def ok (s : State) : Out := .next s

/-! ### Tables -/

def getPort (s : State) (p : Nat) : Port := tget {} s.ports p
def setPort (s : State) (p : Nat) (v : Port) : State := { s with ports := tset {} s.ports p v }
def getCtrl (s : State) (c : Nat) : Ctrl := tget {} s.ctrls c
def setCtrl (s : State) (c : Nat) (v : Ctrl) : State := { s with ctrls := tset {} s.ctrls c v }
/-- The key of queue `q` of controller `c`. -/
def qk (c q : Nat) : Nat := c * 65536 + q
def getSq (s : State) (k : Nat) : Sq := tget {} s.sqs k
def setSq (s : State) (k : Nat) (v : Sq) : State := { s with sqs := tset {} s.sqs k v }
def getCq (s : State) (k : Nat) : Cq := tget {} s.cqs k
def setCq (s : State) (k : Nat) (v : Cq) : State := { s with cqs := tset {} s.cqs k v }
def getCmd (s : State) (i : Nat) : Cmd := tget {} s.cmds i
def setCmd (s : State) (i : Nat) (v : Cmd) : State := { s with cmds := tset {} s.cmds i v }
/-- Whether command `i` is granted and not completed. -/
def hasCmd (s : State) (i : Nat) : Bool := s.cmds.any (fun kv => kv.1 == i)
def delCmd (s : State) (i : Nat) : State := { s with cmds := tdrop s.cmds (fun k _ => k == i) }
def getNs (s : State) (i : Nat) : Ns := tget {} s.ns i
def setNs (s : State) (i : Nat) (v : Ns) : State := { s with ns := tset {} s.ns i v }
/-- The key of zone `z` of namespace slot `i`. -/
def zk (i z : Nat) : Nat := i * 131072 + z
def getZone (s : State) (k : Nat) : Zone := tget {} s.zones k
def setZone (s : State) (k : Nat) (v : Zone) : State := { s with zones := tset {} s.zones k v }
/-- The key of LBA `l` of namespace slot `i`. -/
def lk (i l : Nat) : Nat := i * 281474976710656 + l
def getStripe (s : State) (i : Nat) : Stripe := tget {} s.stripes i
def setStripe (s : State) (i : Nat) (v : Stripe) : State := { s with stripes := tset {} s.stripes i v }
/-- The key of row `r` of rank `k`. -/
def rk (k r : Nat) : Nat := k * 8192 + r
def getRow (s : State) (k : Nat) : Row := tget {} s.rows k
def setRow (s : State) (k : Nat) (v : Row) : State := { s with rows := tset {} s.rows k v }
/-- The key of die (ch, k). -/
def dk (ch k : Nat) : Nat := ch * 32 + k
def getDie (s : State) (k : Nat) : Die := tget {} s.dies k
def setDie (s : State) (k : Nat) (v : Die) : State := { s with dies := tset {} s.dies k v }
def getChan (s : State) (n : Nat) : Chan := tget {} s.chans n
def setChan (s : State) (n : Nat) (v : Chan) : State := { s with chans := tset {} s.chans n v }
def getNch (s : State) (i : Nat) : Nch := tget {} s.niches i
def setNch (s : State) (i : Nat) (v : Nch) : State := { s with niches := tset {} s.niches i v }
def getComm (s : State) (h : Nat) : Comm := tget {} s.comms h
def setComm (s : State) (h : Nat) (v : Comm) : State := { s with comms := tset {} s.comms h v }
def getKey (s : State) (i : Nat) : Key := tget {} s.cipher.keys i

/-! ### The structure in force -/

/-- The port and the function of a controller identifier (R77). -/
def portOf (c : Nat) : Nat := c / 64
def fnOf (c : Nat) : Nat := c % 64

/-- The entry of niche `i`; an entry the table does not have is not valid. -/
def nicheCfg (s : State) (i : Nat) : NicheCfg := s.arm.cfg.niches.getD i {}

/-- The entry of namespace slot `i`. -/
def slotCfg (s : State) (i : Nat) : SlotCfg := s.arm.cfg.slots.getD i {}

/-- Whether niche `i` is valid in the structure in force; the Maquette has niche 0 only (R65). -/
def nicheValid (s : State) (i : Nat) : Bool :=
  if s.boot.maquette then i == 0 else (nicheCfg s i).valid

/-- The numbers of the valid niches, rising. -/
def validNiches (s : State) : List Nat :=
  if s.boot.maquette then [0]
  else (List.range s.arm.cfg.niches.length).filter (fun i => (nicheCfg s i).valid)

/-- Whether niche `n` binds controller `c` (R52, R76, R79). -/
def binds (s : State) (n c : Nat) : Bool :=
  if s.boot.maquette then n == 0 && fnOf c == 0
  else
    let e := nicheCfg s n
    e.valid && (if portOf c == 0 then e.bound0 && e.fn0 == fnOf c
      else portOf c == 1 && e.bound1 && e.fn1 == fnOf c)

/-- The niche a controller serves (R77). -/
def nicheOf (s : State) (c : Nat) : Option Nat := (validNiches s).find? (fun n => binds s n c)

/-- The controllers of niche `n`: its bound functions (PF0 of both ports in the Maquette). -/
def ctrlsOf (s : State) (n : Nat) : List Nat :=
  (List.range 128).filter (fun c => binds s n c)

/-- Whether a port is present under the straps (R68) and its link has trained. -/
def portPresent (s : State) (p : Nat) : Bool :=
  p == 0 || (p == 1 && s.board.straps.lanes == 1)

/-- Whether a function of a trained port exists and is enabled (R76, R101 of the VFs: NumVFs). -/
def fnExists (s : State) (c : Nat) : Bool :=
  portPresent s (portOf c) && decide (c < 128) &&
    (fnOf c == 0 ||
      ((getPort s (portOf c)).vfOn && decide (fnOf c ≤ (getPort s (portOf c)).numVfs)))

/-- The namespace slot that holds namespace `nsid` of niche `n` (R53, R77); the Maquette shows none
(R65). -/
def slotOf (s : State) (n nsid : Nat) : Option Nat :=
  (tkeys s.ns (fun _ v => !s.boot.maquette && v.live && v.attr.niche == n && v.attr.nsid == nsid)).head?

/-- The slots of the niche's namespaces. -/
def slotsOf (s : State) (n : Nat) : List Nat :=
  tkeys s.ns (fun _ v => !s.boot.maquette && v.live && v.attr.niche == n)

/-- The ranks of a rank mask. -/
def ranksIn (m : Nat) : List Nat := (List.range 32).filter (fun k => bitOf m k)

/-- User rows per rank (R51). -/
def userRows (s : State) : Nat := s.arm.cfg.geom.blocks - s.arm.cfg.spare - 64

/-- The rows of rank `k` that niche `n` owns: first and count (R52). -/
def rowRange (s : State) (n k : Nat) : Nat × Nat :=
  let e := nicheCfg s n
  if !(bitOf e.rankSet k) then (0, 0)
  else if bitOf e.sharedSet k then (e.rowFirst, e.rowCount) else (0, userRows s)

/-- Rows owned by a niche (R52). -/
def rowsOwned (s : State) (n : Nat) : Nat :=
  sumBy (fun k => (rowRange s n k).2) (ranksIn (nicheCfg s n).rankSet)

/-- The lowest and the highest enabled rank, which carry the Plinth (R20). -/
def plinthRanks (s : State) : Nat × Nat :=
  match ranksIn s.arm.cfg.rankEn with
  | [] => (0, 31)
  | k :: r => (k, r.getLast?.getD k)

/-- Healthy dies of rank `k`: the channels whose die is used and not retired (N_k of R200). -/
def healthy (s : State) (k : Nat) : List Nat :=
  (List.range 32).filter (fun c => (getDie s (dk c k)).used && !(getDie s (dk c k)).retired)

def nk (s : State) (k : Nat) : Nat := (healthy s k).length

/-- Data sectors of a stripe with `d` data units (R21, R161, R260). -/
def stripeCap (selfDesc : Bool) (d : Nat) : Nat := d * (if selfDesc then 63 else 64)

/-- Channels of a mask. -/
def chIn (m : Nat) : List Nat := ranksIn m

/-- The mask of a list of bit numbers. -/
def maskOf (l : List Nat) : Nat := l.foldl setBit 0

/-- Stripes of a row: 576 for the reference die; in general the logical pages of a die block over
the pages of one word line (R21, R22). -/
def stripesPerRow (s : State) : Nat :=
  if s.arm.cfg.geom.bits == 0 then 576 else s.arm.cfg.geom.pages / s.arm.cfg.geom.bits

/-- ZSZE of a zone width code (R160). -/
def zsze (zw : Nat) : Nat := 2097152 * 2 ^ zw

/-- Nominal ZCAP of a slot (R160, R161). -/
def zcap0 (s : State) (sl : SlotCfg) : Nat :=
  2 ^ sl.zw * stripesPerRow s * stripeCap (nicheCfg s sl.niche).selfDesc 30

/-- The rows a conventional slot may hold (R54, R161): SIZE GiB over 7/8 of the row's data. -/
def fineRows (s : State) (sl : SlotCfg) : Nat :=
  ceilDiv (sl.size * 262144 * 8) (7 * (stripesPerRow s * stripeCap (nicheCfg s sl.niche).selfDesc 30))

/-- Whether a slot whose LBAF_MASK is `m` offers format `f`: format 2 needs the spare bytes the Plinth
records (R257). -/
def fmtOk (s : State) (m f : Nat) : Bool := decide (f ≤ 2) && bitOf m f && (f != 2 || s.plinth.fmt2)

/-- The format a creation that asks for `f` gives (R257): where format 2 cannot be used, a slot that starts
in it takes the lowest other format of its mask. -/
def createFmt (s : State) (a : SlotCfg) (f : Nat) : Option Nat :=
  if fmtOk s a.lbafMask f then some f
  else if f == 2 && bitOf a.lbafMask 2 && a.lbafInit == 2 then [0, 1].find? (fun g => bitOf a.lbafMask g)
  else none

/-- LBAs of a namespace (R54, R160). -/
def nsLbas (sl : SlotCfg) : Nat := if sl.zoned then sl.size * zsze sl.zw else sl.size * 262144

/-! ### Time -/

def hoursOf (us : Nat) : Nat := us / 3600000000
def fracOf (us : Nat) : Nat := us % 3600000000 * 65536 / 3600000000

/-- Whether the islands that leave reset at step 8 of R385 are out of reset. -/
def running (s : State) : Bool :=
  match s.boot.phase with
  | .choice | .mount | .ready | .released | .flushing | .resetFlush | .mfg => true
  | _ => false

/-- Whether the housekeeping island is out of reset: the first to leave it (R385 step 3) and, but for a stop that holds
every island, the last, so that operating time counts while it is (R444). -/
def housekeepingUp (s : State) : Bool :=
  match s.boot.phase with
  | .off | .lpo | .rails | .rco | .railHold | .railWait | .rcoFail | .halted | .thermal | .tripped => false
  | _ => true

/-- Whether the federation device is in root mode on its own time (R359). -/
def fedMode (s : State) : Nat := s.board.straps.fed

/-- Whether the device is the root (R359): its Federation ID is 0. -/
def fedRoot (s : State) : Bool := fedMode s == 2 || fedMode s == 3

/-- Whether the Federation ID is valid (R359, R360). -/
def fedIdOk (s : State) : Bool := fedRoot s || s.fed.idValid

/-- Whether the device is traced (R366, R368). -/
def fedTraced (s : State) : Bool :=
  s.fed.unit && !s.fed.clkfb && !s.fed.ovf &&
    (fedMode s == 2 || (fedMode s == 3 && s.fed.locked) ||
      (fedMode s == 1 && s.fed.locked && s.fed.trace))

/-- A federation stamp: the time and FEDSTATE (R177, R361, R368, R371). -/
def fedStamp (s : State) : Nat × Nat :=
  if fedMode s == 0 || s.fed.ovf then (0, 0)
  else if fedTraced s then (s.fed.time, 1) else (s.fed.time, 2)

/-- A federation time for a log that shows 0 while federation is off or unlocked (R125, R214). -/
def fedLogTime (s : State) : Nat :=
  if fedMode s == 0 || s.fed.ovf || s.fed.clkfb then 0
  else if fedMode s == 2 || s.fed.locked then s.fed.time else 0

/-- TAKE of a stamp: the last take marker received since start-up, or 0 (R177). -/
def takeNow (s : State) : Nat := if s.fed.tkValid then s.fed.tkId else 0

/-! ### Completions and events -/

/-- DNR of a status (R155, R508). -/
def dnrOf : Status → Bool
  | .success | .dataXfer | .internal | .abortRequested | .abortSqDel | .abortLimit | .nsNotReady
  | .sanInProgress | .queueFrozen | .commRefused | .commActive | .huDegraded | .fedUnlocked => false
  | _ => true

/-- Whether a status freezes the SQ of an I/O command (R122). -/
def freezes : Status → Bool
  | .success | .abortRequested | .abortSqDel | .queueFrozen => false
  | _ => true

/-- A completion entry for the queue `sq` of controller `c` (R105: head after the last fetched). -/
def mkCqe (s : State) (c q cid : Nat) (st : Status) (dw0 dw1 : Nat) (data : List Fld) : Cqe :=
  { cid := cid, sq := q, sqhd := (getSq s (qk c q)).head, status := st, dnr := dnrOf st
    dw0 := dw0, dw1 := dw1, data := data }

/-- Schedule a completion on the CQ of queue `q` (R116, R118: it waits until it is posted). -/
def schedule (s : State) (c q cid : Nat) (st : Status) (dw0 : Nat := 0) (dw1 : Nat := 0)
    (data : List Fld := []) : State :=
  let cqid := if q == 0 then 0 else (getSq s (qk c q)).cqid
  let v := getCq s (qk c cqid)
  setCq s (qk c cqid) { v with waiting := v.waiting ++ [mkCqe s c q cid st dw0 dw1 data] }

/-- An admin command's completion. -/
def adone (s : State) (c cid : Nat) (st : Status) (dw0 : Nat := 0) (dw1 : Nat := 0)
    (data : List Fld := []) : State := schedule s c 0 cid st dw0 dw1 data

def sameKind (a b : Ev) : Bool := a.typ == b.typ && a.info == b.info

/-- Report held events while requests are outstanding (R158): a kind whose log has not been read
since its last report stays held. `fuel` bounds the events. -/
def pumpEvs (s : State) (c : Nat) : Nat → State
  | 0 => s
  | fuel + 1 =>
    let v := getCtrl s c
    match v.aers, v.evs.find? (fun e => !(v.waitLog.any (sameKind e))) with
    | cid :: rest, some e =>
      let s1 := setCtrl s c { v with aers := rest, evs := v.evs.erase e, waitLog := v.waitLog ++ [e] }
      pumpEvs (adone s1 c cid .success (e.typ + e.info * 256 + e.log * 65536)) c fuel
    | _, _ => s

/-- An event on one controller (R158): held when it may collapse, reported when a request waits; on a controller that
is not enabled yet it waits as where no request is outstanding. -/
def raiseOn (s : State) (c : Nat) (e : Ev) : State :=
  let v := getCtrl s c
  let n := (v.evs.filter (sameKind e)).length
  let lim := if v.waitLog.any (sameKind e) then 1 else 2
  let s1 := if n < lim then setCtrl s c { v with evs := v.evs ++ [e] } else s
  pumpEvs s1 c 8

/-- An event on several controllers. -/
def raiseAll (s : State) (cs : List Nat) (e : Ev) : State := cs.foldl (fun a c => raiseOn a c e) s

/-- The controllers that exist now. -/
def allCtrls (s : State) : List Nat := tkeys s.ctrls (fun _ v => v.rdy)

/-- The vendor events of R157. -/
def vendor (info log : Nat) : Ev := ⟨7, info, log⟩

/-- A standard event, if feature 0Bh enables it (R156, R159): `bit` is its enable bit. -/
def raiseStd (s : State) (cs : List Nat) (bit : Nat) (e : Ev) : State :=
  raiseAll s (cs.filter (fun c => bitOf (getCtrl s c).aec bit)) e

/-- A Plinth program is asked for (R226). -/
def addJob (s : State) (j : PlJob) : State :=
  if s.plinth.jobs.contains j then s else { s with plinth := { s.plinth with jobs := s.plinth.jobs ++ [j] } }

/-- Set bit `b` of GLB_ISTAT (R486). -/
def glbSet (s : State) (b : Nat) : State := { s with glb := { s.glb with istat := setBit s.glb.istat b } }

/-- Set bit `b` of a niche's NCH_ISTAT (R490). -/
def nchSet (s : State) (n b : Nat) : State :=
  let v := getNch s n
  setNch s n { v with istat := setBit v.istat b }

/-- Vendor event 0x08 on a niche's controllers, with its NCH_ISTAT bit (R157, R490). -/
def mediaEvent (s : State) (n : Nat) : State :=
  nchSet (raiseAll s (ctrlsOf s n) (vendor 8 0xC5)) n 5

/-- Changed Zone List entry and Zone Descriptor Changed (R142, R156, R167). -/
def zoneChanged (s : State) (slot z : Nat) : State :=
  let v := getNs s slot
  let s1 := if v.changed.contains z then s else setNs s slot { v with changed := v.changed ++ [z] }
  raiseStd s1 v.attached 27 ⟨2, 0xEF, 0xBF⟩

/-- Namespace Attribute Changed on the controllers whose view changed (R152). -/
def nsChanged (s : State) (nsid : Nat) (cs : List Nat) : State :=
  cs.foldl (fun a c =>
    let v := getCtrl a c
    let a1 := if v.changedNs.contains nsid || !v.rdy then a
      else setCtrl a c { v with changedNs := v.changedNs ++ [nsid] }
    raiseStd a1 [c] 8 ⟨2, 0, 4⟩) s

/-! ### The Patina recorder (R441 to R446) -/

/-- Whether a record to be written matches the last one `x` (R446). -/
def patMatch (s : State) (r x : PatRec) : Bool :=
  x.typ == r.typ && x.sev == r.sev && x.niche == r.niche && x.p8 == r.p8 && x.pb == r.pb &&
    x.pc == r.pc && x.pwrcyc == s.pat.pwrcyc

/-- The slot write number after one more write (R442). -/
def nextSeqa (n : Nat) : Nat := if n = 255 then 1 else n + 1

/-- The record of a request accepted now (R442, R444). -/
def mkPat (s : State) (r : PatReq) : PatRec :=
  { typ := r.typ, sev := r.sev, premount := s.pat.premount, niche := r.niche, p8 := r.p8
    pwrcyc := s.pat.pwrcyc, hours := hoursOf s.opUs, frac := fracOf s.opUs, pb := r.pb, pc := r.pc }

/-- The slot of the oldest stored record of severity at most `sev` (R445). -/
def patVictim (ring : List (Nat × PatRec)) (sev : Nat) : Option Nat :=
  (argMin (fun kv : Nat × PatRec => kv.2.num) (ring.filter (fun kv => decide (kv.2.sev ≤ sev)))).map (·.1)

/-- What follows a new record: vendor event 0x09 and GLB_ISTAT.PAT at severity 7 (R443, R486). -/
def patNew (s : State) (sev : Nat) : State :=
  if sev = 7 then glbSet (raiseAll s [0, 64] (vendor 9 0xC0)) 3 else s

/-- Slot `k` takes the record `r` (R442, R445). -/
def patPut (p : Pat) (k : Nat) (r : PatRec) : Pat :=
  { p with
    events := p.events + 1, last := some k
    ring := tset {} p.ring k { r with seqa := nextSeqa (tget ({} : PatRec) p.ring k).seqa, num := p.events + 1 } }

/-- A repeat of the record in slot `k` (R445). -/
def patAgain (p : Pat) (k : Nat) (r : PatRec) : Pat :=
  let x := tget ({} : PatRec) p.ring k
  { p with
    events := p.events + 1, repeats := satAdd 16 p.repeats 1
    ring := tset {} p.ring k { x with
      seqa := nextSeqa x.seqa, rep := satAdd 16 x.rep (1 + r.rep), hours := r.hours, frac := r.frac
      num := p.events + 1 } }

/-- A record written where it matches no repeat: an empty slot, an overwrite or a drop (R445). -/
def patWrite (s : State) (r : PatRec) : State :=
  let p := s.pat
  match tfree p.ring 16384 0 with
  | some k => patNew { s with pat := patPut p k r } r.sev
  | none =>
    match patVictim p.ring r.sev with
    | some k => patNew { s with pat := { patPut p k r with overwrites := satAdd 32 p.overwrites 1 } } r.sev
    | none =>
      { s with pat := { p with
        events := p.events + 1, drops := satAdd 32 p.drops 1, dropMax := max p.dropMax r.sev } }

/-- A record goes to the ring (R445). -/
def patStore (s : State) (r : PatRec) : State :=
  match s.pat.last with
  | some k =>
    if patMatch s r (tget ({} : PatRec) s.pat.ring k) then { s with pat := patAgain s.pat k r } else patWrite s r
  | none => patWrite s r

/-- One request to the recorder (R445). -/
def patina (s : State) (r : PatReq) : State := patStore s (mkPat s r)

/-- A device record (NICHE = FFh). -/
def devRec (s : State) (typ sev : Nat) (p8 : Nat := 0) (pb : Nat := 0) (pc : Nat := 0) : State :=
  patina s ⟨typ, sev, 255, p8, pb, pc⟩

/-- A niche's record. -/
def nicheRec (s : State) (n typ sev : Nat) (p8 : Nat := 0) (pb : Nat := 0) (pc : Nat := 0) : State :=
  patina s ⟨typ, sev, n, p8, pb, pc⟩

/-- The record of a severity-`sev` event for the boot-flash event sector (R392): 64 per cold start. -/
def bootRec (s : State) (typ sev p8 pb pc : Nat) : State :=
  let b := s.boot
  if b.evThis ≥ 64 || b.silent then { s with boot := { b with evdrop := satAdd 8 b.evdrop 1 } }
  else
    let r : PatRec := { seqa := 1, typ := typ, sev := sev, premount := s.pat.premount, niche := 255, p8 := p8
                        pwrcyc := s.pat.pwrcyc, hours := hoursOf s.opUs, frac := fracOf s.opUs
                        num := b.evNext + 1, pb := pb, pc := pc }
    let ev := if b.evNext % 128 == 0 then
        tdrop b.events (fun k _ => k / 128 == b.evNext % 4096 / 128) else b.events
    { s with boot := { b with events := tset {} ev (b.evNext % 4096) r, evNext := b.evNext + 1
                              evThis := b.evThis + 1 } }

/-! ### Service state -/

/-- Whether a flush writes its band (R345, R459). -/
def flushing (s : State) : Bool := s.boot.phase == .flushing || s.boot.phase == .resetFlush

/-- Whether start-up has been released and no stop is in force. -/
def inService (s : State) : Bool := s.glb.released && s.boot.phase == .released

/-- Whether fetch and grants are stopped for every I/O SQ: a brace, an orderly stop, the orderly
flush and what follows it, firmware activation, or an entry into PS3 or PS4 (R333, R436, R399, R133,
R418). -/
def fetchStopped (s : State) : Bool :=
  !(inService s) || s.hold.brace || s.thm.stopping || s.clk.fbFlush || s.glb.adminOnly ||
    s.boot.activation.isSome || s.pm.entry != .none || decide (s.pm.ps ≥ 3)

/-- Whether controller `c` can serve admin commands: released, ready, not shut down, not held by a
firmware activation of another admin queue, powered, its link up, its admin CQ not full (R89, R91, R118, R131,
R133, R411). -/
def adminOpen (s : State) (c : Nat) : Bool :=
  let q := getCq s (qk c 0)
  inService s && fnExists s c && (getCtrl s c).rdy && (getCtrl s c).shst == 0 && s.pm.ps != 4 &&
    !(getPort s (portOf c)).linkDown && decide (q.ring.length + 1 < q.size) &&
    (match s.boot.activation with | some (a, _, _) => a == c | none => true)

/-- How far controller `c` is from the one served last, in the round robin of R104. -/
def turnOf (s : State) (c : Nat) : Nat := (c + 127 - s.arb.adminRr % 128) % 128

/-- Whether it is controller `c`'s turn: no other served controller nearer in the round robin has rung in an
admin entry (R104). -/
def adminTurn (s : State) (c : Nat) : Bool :=
  !(s.sqs.any (fun kv => kv.1 % 65536 == 0 && kv.2.head != kv.2.tail &&
    decide (turnOf s (kv.1 / 65536) < turnOf s c) && adminOpen s (kv.1 / 65536)))

/-- Whether controller `c`'s admin queue is served next. -/
def adminServed (s : State) (c : Nat) : Bool := adminOpen s c && adminTurn s c

/-- The admin entry is fetched: the admin SQ's head moves on by one, and with it a tail whose doorbell
the row stands for (R104, R105). -/
def adminFetch (s : State) (c : Nat) : State :=
  let q := getSq s (qk c 0)
  let h := if q.size == 0 then 0 else (q.head + 1) % q.size
  setSq { s with arb := { s.arb with adminRr := c } } (qk c 0)
    { q with head := h, tail := if q.tail == q.head then h else q.tail }

/-- An admin command: its effect where the controller serves it, nothing elsewhere
(notes/assumptions/1.md). -/
def admin (s : State) (c : Nat) (body : State → State) : Out :=
  ok (if adminServed s c then body (adminFetch s c) else s)

/-- Whether no I/O command is outstanding on any controller (R418). -/
def quiet (s : State) : Bool :=
  s.cmds.isEmpty && s.sqs.all (fun kv => kv.2.staged.isEmpty && kv.2.inflight == 0)

/-- Whether a live commission exists (R190). -/
def commLive (c : Comm) : Bool := c.used && c.st != .closed

def liveComms (s : State) : List Nat := tkeys s.comms (fun _ v => commLive v)

/-- The niche of a handle (R190). -/
def handleNiche (h : Nat) : Nat := h / 64 % 64

def liveOf (s : State) (n : Nat) : List Nat :=
  tkeys s.comms (fun h v => commLive v && handleNiche h == n)

/-- Live commissions on a namespace slot. -/
def liveOn (s : State) (slot : Nat) : List Nat :=
  tkeys s.comms (fun _ v => commLive v && v.slot == slot)

/-- Whether hold-up is degraded (R341). -/
def degraded (s : State) : Bool := s.hold.reasons != 0

/-- HLD_STATUS.REASON: the lowest reason of the mask (R341). -/
def reasonCode (m : Nat) : Nat := ((List.range 8).find? (fun i => bitOf m i)).getD 0

/-- Whether a controller is PF0 of its port. -/
def isPf0 (c : Nat) : Bool := fnOf c == 0

end Sys2Proof.Machine
end

