-- ==== Sys2Proof/Machine/Parity.lean ====
section
/-! DEFINITION. Rank parity (R259): arithmetic in GF(2^8) with the polynomial 0x11D on numbers that pack
`n` bytes each, the two parity units of a list of data units, and the data units restored from those
that are present. -/

namespace Sys2Proof.Machine

/-- The number whose `n` bytes are all 01h. -/
def gfOnes (n : Nat) : Nat := (2 ^ (8 * n) - 1) / 255

/-- Every byte of `x` times g = 02h (R259). -/
def gfX (n x : Nat) : Nat :=
  ((x &&& (gfOnes n * 127)) <<< 1) ^^^ (((x >>> 7) &&& gfOnes n) * 0x1D)

/-- Every byte of `x` times the constant `c`, over `bits` bits of it. -/
def gfScaleFrom (n : Nat) : (bits c x : Nat) → Nat
  | 0, _, _ => 0
  | b + 1, c, x => (if c % 2 = 1 then x else 0) ^^^ gfScaleFrom n b (c / 2) (gfX n x)

def gfScale (n c x : Nat) : Nat := gfScaleFrom n 8 c x

/-- g^k. -/
def gfPow : Nat → Nat
  | 0 => 1
  | k + 1 => gfX 1 (gfPow k)

/-- The inverse of a byte: its 254th power. -/
def gfInv (a : Nat) : Nat :=
  let sq := fun x => gfScale 1 x x
  let a2 := sq a
  let a4 := sq a2
  let a8 := sq a4
  let a16 := sq a8
  let a32 := sq a16
  let a64 := sq a32
  [a4, a8, a16, a32, a64, sq a64].foldl (fun x y => gfScale 1 x y) a2

/-- P of a list of data units (R259). -/
def parityP (l : List Nat) : Nat := l.foldr (fun d a => d ^^^ a) 0

/-- Q of a list of data units of `n` bytes (R259). -/
def parityQ (n : Nat) (l : List Nat) : Nat := l.foldr (fun d a => d ^^^ gfX n a) 0

/-- The numbers of the units that are missing. -/
def missing (l : List (Option Nat)) : List Nat :=
  l.zipIdx.filterMap (fun x => if x.1.isNone then some x.2 else none)

/-- The units with unit `u` put in. -/
def withUnit (l : List (Option Nat)) (u v : Nat) : List (Option Nat) := l.set u (some v)

/-- The data units with the missing ones restored (R259): one from P, or from Q where P is missing too, two
from both; none where more are missing than the parity present restores. -/
def restore (n : Nat) (l : List (Option Nat)) (p q : Option Nat) : Option (List Nat) :=
  let zeroed := l.map (·.getD 0)
  let fill := fun m : List (Option Nat) => some (m.map (·.getD 0))
  match missing l, p, q with
  | [], _, _ => some zeroed
  | [u], some a, _ => fill (withUnit l u (a ^^^ parityP zeroed))
  | [u], none, some b => fill (withUnit l u (gfScale n (gfInv (gfPow u)) (b ^^^ parityQ n zeroed)))
  | [u, v], some a, some b =>
    let x := a ^^^ parityP zeroed
    let y := b ^^^ parityQ n zeroed
    let g := gfPow (v - u)
    let k := gfInv (g ^^^ 1)
    let d := gfScale n (gfScale 1 g k) x ^^^ gfScale n (gfScale 1 (gfInv (gfPow u)) k) y
    fill (withUnit (withUnit l u d) v (x ^^^ d))
  | _, _, _ => none

end Sys2Proof.Machine
end

