-- ==== Sys2Proof/Machine/Layout.lean ====
section
/-! DEFINITION. What a stripe holds, codeword by codeword (R18, R21, R161, R162, R182, R256 to R261, R354):
which unit and codeword a position is, the information part of each codeword with its tag word, header
sectors, fine-region tags, filler, rank parity, and where on a die a codeword lies. -/

namespace Sys2Proof.Machine

/-! ### Positions (R18, R21, R162, R261) -/

/-- Whether niche `n` writes self-describing stripes. -/
def selfDescOf (s : State) (n : Nat) : Bool := (nicheCfg s n).selfDesc

/-- The channels that hold parity in a stripe (R261). -/
def parityChans (x : Stripe) : List Nat :=
  let l := chIn x.chmask
  let n := l.length
  if n == 0 then []
  else if x.p == 0 then []
  else if x.p == 1 then [l.getD (x.t % n) 0]
  else [l.getD (x.t % n) 0, l.getD ((x.t + 1) % n) 0]

/-- The channels of the data units of a stripe, rising: unit `u` lies on the `u`-th (R162). -/
def dataChans (x : Stripe) : List Nat := (chIn x.chmask).filter (fun c => !((parityChans x).contains c))

/-- The data unit of position `p` in a stripe with `d` data units (R162). -/
def unitOf (selfDesc : Bool) (d p : Nat) : Nat :=
  if d == 0 then 0
  else if selfDesc then (if p < 3 * d then p / 3 else (p - 3 * d) % (4 * d) / 4)
  else p % (4 * d) / 4

/-- The codeword of position `p` in its unit (R162): four to a slice, the header first where there is one. -/
def ixOf (selfDesc : Bool) (d p : Nat) : Nat :=
  if d == 0 then 0
  else if selfDesc then
    (if p < 3 * d then 1 + p % 3 else 4 * (1 + (p - 3 * d) / (4 * d)) + (p - 3 * d) % 4)
  else 4 * (p / (4 * d)) + p % 4

/-- The position of codeword `ix` of unit `u`; none for a header (R161, R162). -/
def posOf (selfDesc : Bool) (d u ix : Nat) : Option Nat :=
  if selfDesc then
    if ix == 0 then none
    else if ix < 4 then some (3 * u + (ix - 1))
    else some (3 * d + (ix / 4 - 1) * (4 * d) + 4 * u + ix % 4)
  else some (ix / 4 * (4 * d) + 4 * u + ix % 4)

/-- The channel that holds position `p` of a stripe. -/
def chanOfPos (s : State) (x : Stripe) (p : Nat) : Nat :=
  let dc := dataChans x
  dc.getD (unitOf (selfDescOf s x.niche) dc.length p) 0

/-- The codeword of position `p` of a stripe in its unit. -/
def ixOfPos (s : State) (x : Stripe) (p : Nat) : Nat := ixOf (selfDescOf s x.niche) (dataChans x).length p

/-- The slice of a codeword, and the logical page and the plane that hold the slice (R18). -/
def sliceOf (ix : Nat) : Nat := ix / 4
def pageOfSlice (j : Nat) : Nat := j % 4
def planeOfSlice (j : Nat) : Nat := j / 4

/-- The dies of a stripe. -/
def stripeDies (x : Stripe) : List Nat := (chIn x.chmask).map (fun c => dk c x.rank)

/-- The stripes of row (k, r). -/
def stripesOfRow (s : State) (k r : Nat) : List Nat :=
  tkeys s.stripes (fun _ x => x.rank == k && x.row == r)

/-! ### Where a codeword lies on its die (R18, R19, R242, R262) -/

/-- The block of row `r` on a die: the row's own number unless the remap table says otherwise (R19). -/
def blockOf (d : Die) (r : Nat) : Nat := (tget none d.remap r).getD r

/-- The place of a codeword on its die: CE# and LUN, block, word line, plane, logical page and the sector
of the page. -/
structure Place where
  ce : Nat
  lun : Nat
  block : Nat
  wordLine : Nat
  plane : Nat
  page : Nat
  sector : Nat
  deriving DecidableEq, Repr

/-- The block and word line of stripe `t` of row `r` on a die: under a split record of TYPE 0 the later
stripes lie on the spare from word line 0 on (R262 step 2). -/
def blockLine (d : Die) (r t : Nat) : Nat × Nat :=
  (tget [] d.moved r).foldl (fun a m => if m.1 ≤ t then (m.2, t - m.1) else a) (blockOf d r, t)

/-- Where codeword `ix` of the unit of a stripe on channel `c` lies (R18, R242). -/
def placeOf (s : State) (x : Stripe) (c ix : Nat) : Place :=
  let b := blockLine (getDie s (dk c x.rank)) x.row x.t
  { ce := x.rank / 4, lun := x.rank % 4, block := b.1, wordLine := b.2, plane := planeOfSlice (sliceOf ix)
    page := pageOfSlice (sliceOf ix), sector := ix % 4 }

/-! ### Sizes and tag words (R256 to R258, R297) -/

/-- Bytes stored of a sector in format `f`: sector and metadata (R256). -/
def storedBytes (f : Nat) : Nat := if f == 2 then 4160 else if f == 1 then 4104 else 4096

/-- Bytes of the information part in format `f` (R256). -/
def infoBytes (f : Nat) : Nat := if f == 2 then 4160 else 4104

/-- Bytes of a codeword, and NCLKn of its burst (R256, R257). -/
def codewordBytes (f : Nat) : Nat := infoBytes f + 56
def burstNclk (f : Nat) : Nat := codewordBytes f / 4

/-- Bytes of the XTS data unit (R297). -/
def dataUnitBytes (f : Nat) (encMeta : Bool) : Nat := if encMeta then storedBytes f else 4096

/-- The tag word (R258). -/
def tagWord (kind slot lba : Nat) : Nat := kind * 2 ^ 62 + slot * 2 ^ 48 + lba

/-- A sector's data with a tag word after it. -/
def withTag (data tag : Nat) : Nat := data % 2 ^ 32768 + (tag <<< 32768)

/-- The tag word of an information part. -/
def tagOf (info : Nat) : Nat := (info >>> 32768) % 2 ^ 64

/-- The little-endian number of a data structure of fields. -/
def packFlds (l : List Fld) : Nat := l.foldl (fun a f => a + ((f.v % 256 ^ f.w) <<< (8 * f.off))) 0

/-! ### Header sectors and fine-region tags (R161, R182, R354) -/

/-- A frame index entry's 32 bytes at offset `o` (R178). -/
def frameFlds (o : Nat) (e : Frame) : List Fld :=
  [⟨o, 8, e.frame⟩, ⟨o + 8, 4, e.soff⟩, ⟨o + 12, 2, e.hflags⟩,
   ⟨o + 14, 1, e.fedstate % 4 + b2n e.cont * 4⟩, ⟨o + 16, 8, e.fedtime⟩, ⟨o + 24, 4, e.take⟩]

/-- Whether the stripe is the last of its row. -/
def lastOfRow (s : State) (x : Stripe) : Bool := x.t + 1 == stripesPerRow s

/-- Frame entries a header holds at most (R354). -/
def headerFrames (summary : Bool) : Nat := if summary then 52 else 124

/-- The frame entries of a stripe: those whose command's first sector lies in it (R354). -/
def stripeFrames (s : State) (x : Stripe) : List Frame :=
  match x.zone with
  | some z => (getZone s (zk x.slot z)).frames.filter
      (fun e => decide (x.zoff ≤ e.soff) && decide (e.soff < x.zoff + x.valid))
  | none => []

/-- The frame entries in the header of unit `u`, the headers filled in unit order (R354). -/
def unitFrames (s : State) (x : Stripe) (u : Nat) : List Frame :=
  let first := headerFrames (lastOfRow s x)
  let l := stripeFrames s x
  if u == 0 then l.take first else (l.drop (first + 124 * (u - 1))).take 124

/-- The row summary's word of stripe `t`: valid sectors and whether it is an interior pad (R354). -/
def summaryWord (s : State) (x : Stripe) (t : Nat) : Nat :=
  match (stripesOfRow s x.rank x.row).find? (fun i => (getStripe s i).t == t) with
  | some i => (getStripe s i).valid % 2048 + b2n (getStripe s i).interior * 2048
  | none => 0

/-- The fields of the header of data unit `u` (R354), its CRC apart. -/
def headerFlds (s : State) (x : Stripe) (u : Nat) : List Fld :=
  let r := getRow s (rk x.rank x.row)
  let sum := u == 0 && lastOfRow s x
  let fr := unitFrames s x u
  let at0 := if sum then 2432 else 128
  [⟨0, 4, 0x52444853⟩, ⟨4, 2, u⟩, ⟨6, 2, x.slot⟩, ⟨8, 8, x.seq⟩, ⟨16, 4, x.zone.getD 0xFFFFFFFF⟩,
   ⟨20, 1, r.pos⟩, ⟨21, 1, b2n sum + 2 * b2n x.padded + 4 * b2n x.recast⟩, ⟨22, 2, x.row⟩, ⟨24, 2, x.t⟩,
   ⟨26, 2, x.valid⟩, ⟨28, 8, x.zoff⟩, ⟨36, 8, r.seq⟩, ⟨44, 2, fr.length⟩] ++
  (if sum then (List.range 576).map (fun t => ⟨128 + 4 * t, 4, summaryWord s x t⟩) else []) ++
  fr.zipIdx.flatMap (fun e => frameFlds (at0 + 32 * e.2) e.1)

/-- The header sector of data unit `u` (R354). -/
def headerSector (s : State) (x : Stripe) (u : Nat) : Nat :=
  let h := packFlds (headerFlds s x u)
  h + ((Config.crc32 h % 2 ^ 32) <<< 384)

/-- Tag sector `j` of a fine-region stripe: the LBAs of 512 of its data sectors in 8 bytes each (R182); what
the places past the last data sector hold is open. -/
def fineTagSector (x : Stripe) (j : Nat) : Nat :=
  packFlds ((List.range 512).map (fun i =>
    let p := 512 * j + i
    ⟨8 * i, 8, if p < x.valid then (tget ({} : Cell) x.cells p).lba else Config.noLba p⟩))

/-! ### The emergency band (R343, R344) -/

/-- The header sector of a band unit (R344), for KIND 0 to 2; its tag word is of KIND 11b. -/
def bandHeader (u : BandUnit) : Nat :=
  let low : List Fld := [⟨0, 4, 0x444E4142⟩, ⟨4, 4, u.pwrcyc⟩, ⟨8, 2, if u.kind == 0 then u.niche else 0xFFFF⟩, ⟨10, 1, u.kind⟩,
    ⟨11, 1, u.sects.length⟩, ⟨12, 4, u.unit_⟩, ⟨16, 4, u.nunits⟩, ⟨20, 8, u.armseq⟩] ++
    u.sects.zipIdx.map (fun xj => ⟨32 + 16 * xj.2, 16, xj.1.1 % 2 ^ 48 + xj.1.2.1 % 2 ^ 16 * 2 ^ 48 + xj.1.2.2 % 2 ^ 48 * 2 ^ 64⟩)
  let h := packFlds low
  withTag (h + ((Config.crc32 (h % 2 ^ 224 + ((h >>> 256) <<< 224)) % 2 ^ 32) <<< 224)) (tagWord 3 0x3FF 0)

/-! ### Codewords (R256, R258, R259) -/

/-- What a codeword of a data unit holds. -/
inductive Role where
  | user (pos : Nat)
  | header
  | filler
  | fineTag (j : Nat)
  | plinth
  deriving DecidableEq, Repr

/-- The role of codeword `ix` of data unit `u` (R161, R171, R182). -/
def roleOf (s : State) (x : Stripe) (u ix : Nat) : Role :=
  if x.pl.isSome then .plinth
  else match posOf (selfDescOf s x.niche) (dataChans x).length u ix with
  | none => .header
  | some p =>
    if x.gone.contains p then .filler
    else if p < x.valid then .user p else if x.zone.isNone && decide (x.dcap ≤ p) then .fineTag (p - x.dcap) else .filler

/-- The information part of codeword `ix` of data unit `u` (R256, R258). -/
def dataInfo (s : State) (x : Stripe) (u ix : Nat) : Nat :=
  match roleOf s x u ix with
  | .header => withTag (headerSector s x u) (tagWord 1 0x3FF 0)
  | .filler => withTag 0 (tagWord 2 0x3FF 0)
  | .fineTag j => withTag (fineTagSector x j) (tagWord 3 0x3FF 0)
  | .plinth => withTag (Config.plinthSector x.seq u ix) (tagWord 3 0x3FF 0)
  | .user p =>
    let c := tget ({} : Cell) x.cells p
    if x.fmt == 0 then withTag c.val (tagWord 0 x.slot c.lba) else c.val

/-- The information parts at index `ix` of the data units, in unit order. -/
def dataInfos (s : State) (x : Stripe) (ix : Nat) : List Nat :=
  (List.range (dataChans x).length).map (fun u => dataInfo s x u ix)

/-- The information part of codeword `ix` of the unit on channel `c`: data, P or Q (R259, R261). -/
def infoOf (s : State) (x : Stripe) (c ix : Nat) : Nat :=
  match parityChans x with
  | p :: q =>
    if c == p then parityP (dataInfos s x ix)
    else if q.contains c then parityQ (infoBytes x.fmt) (dataInfos s x ix)
    else dataInfo s x ((dataChans x).idxOf c) ix
  | [] => dataInfo s x ((dataChans x).idxOf c) ix

/-- The codeword itself: the information part, then 56 bytes of LDPC parity (R256). -/
def codewordOf (s : State) (x : Stripe) (c ix : Nat) : Nat :=
  let i := infoOf s x c ix
  i + ((Config.ldpcParity i % 2 ^ 448) <<< (8 * infoBytes x.fmt))

/-- Whether a decoded information part passes R269 at its place. -/
def tagGood (s : State) (x : Stripe) (c ix info : Nat) : Bool :=
  if (parityChans x).contains c then true
  else
    let kind := tagOf info / 2 ^ 62
    match roleOf s x ((dataChans x).idxOf c) ix with
    | .header => kind == 1
    | .filler => kind == 2
    | .fineTag _ | .plinth => kind == 3
    | .user p =>
      x.fmt != 0 || (kind == 0 && tagOf info / 2 ^ 48 % 1024 == x.slot &&
        tagOf info % 2 ^ 48 == (tget ({} : Cell) x.cells p).lba)

/-- The sector and metadata of a user codeword as stored. -/
def storedOf (f info : Nat) : Nat := info % 2 ^ (8 * storedBytes f)

/-- The information part of a unit restored from the others (R259): `got` gives what each present unit
decoded to. -/
def rebuildInfo (x : Stripe) (c : Nat) (got : Nat → Option Nat) : Option Nat :=
  let n := infoBytes x.fmt
  let dc := dataChans x
  let p := (parityChans x)[0]?.bind got
  let q := (parityChans x)[1]?.bind got
  match restore n (dc.map got) p q with
  | none => none
  | some l =>
    if dc.contains c then some (l.getD (dc.idxOf c) 0)
    else if (parityChans x)[0]? == some c then some (parityP l) else some (parityQ n l)

end Sys2Proof.Machine
end

