-- ==== Sys2Proof/Machine/Sha.lean ====
section
/-! DEFINITION. SHA-384 (FIPS 180-4), HMAC, the counter-mode KDF of SP 800-108 (R315) and the curve P-384 with ECDSA
and ECDH (R47, R314, R317, R327): the arithmetic of the public-key unit. The spec names these standards and does not
restate them (PRESUMED, notes/assumptions/8.md). Byte strings are lists of bytes. -/

namespace Sys2Proof.Machine

/-! ### SHA-384 -/

def shaK1 : List Nat :=
  [0x428A2F98D728AE22, 0x7137449123EF65CD, 0xB5C0FBCFEC4D3B2F,
   0xE9B5DBA58189DBBC, 0x3956C25BF348B538, 0x59F111F1B605D019,
   0x923F82A4AF194F9B, 0xAB1C5ED5DA6D8118, 0xD807AA98A3030242,
   0x12835B0145706FBE, 0x243185BE4EE4B28C, 0x550C7DC3D5FFB4E2,
   0x72BE5D74F27B896F, 0x80DEB1FE3B1696B1, 0x9BDC06A725C71235,
   0xC19BF174CF692694, 0xE49B69C19EF14AD2, 0xEFBE4786384F25E3,
   0x0FC19DC68B8CD5B5, 0x240CA1CC77AC9C65, 0x2DE92C6F592B0275,
   0x4A7484AA6EA6E483, 0x5CB0A9DCBD41FBD4, 0x76F988DA831153B5,
   0x983E5152EE66DFAB, 0xA831C66D2DB43210, 0xB00327C898FB213F,
   0xBF597FC7BEEF0EE4, 0xC6E00BF33DA88FC2, 0xD5A79147930AA725,
   0x06CA6351E003826F, 0x142929670A0E6E70, 0x27B70A8546D22FFC,
   0x2E1B21385C26C926, 0x4D2C6DFC5AC42AED, 0x53380D139D95B3DF,
   0x650A73548BAF63DE, 0x766A0ABB3C77B2A8, 0x81C2C92E47EDAEE6,
   0x92722C851482353B]

def shaK2 : List Nat :=
  [0xA2BFE8A14CF10364, 0xA81A664BBC423001, 0xC24B8B70D0F89791,
   0xC76C51A30654BE30, 0xD192E819D6EF5218, 0xD69906245565A910,
   0xF40E35855771202A, 0x106AA07032BBD1B8, 0x19A4C116B8D2D0C8,
   0x1E376C085141AB53, 0x2748774CDF8EEB99, 0x34B0BCB5E19B48A8,
   0x391C0CB3C5C95A63, 0x4ED8AA4AE3418ACB, 0x5B9CCA4F7763E373,
   0x682E6FF3D6B2B8A3, 0x748F82EE5DEFB2FC, 0x78A5636F43172F60,
   0x84C87814A1F0AB72, 0x8CC702081A6439EC, 0x90BEFFFA23631E28,
   0xA4506CEBDE82BDE9, 0xBEF9A3F7B2C67915, 0xC67178F2E372532B,
   0xCA273ECEEA26619C, 0xD186B8C721C0C207, 0xEADA7DD6CDE0EB1E,
   0xF57D4F7FEE6ED178, 0x06F067AA72176FBA, 0x0A637DC5A2C898A6,
   0x113F9804BEF90DAE, 0x1B710B35131C471B, 0x28DB77F523047D84,
   0x32CAAB7B40C72493, 0x3C9EBE0A15C9BEBC, 0x431D67C49C100D4C,
   0x4CC5D4BECB3E42B6, 0x597F299CFC657E2A, 0x5FCB6FAB3AD6FAEC,
   0x6C44198C4A475817]

def shaIv : List Nat :=
  [0xCBBB9D5DC1059ED8, 0x629A292A367CD507, 0x9159015A3070DD17,
   0x152FECD8F70E5939, 0x67332667FFC00B31, 0x8EB44A8768581511,
   0xDB0C2E0D64F98FA7, 0x47B5481DBEFA4FA4]

def w64 : Nat := 2 ^ 64

def rotr64 (x n : Nat) : Nat := (x >>> n) ||| ((x <<< (64 - n)) % w64)

def sig0 (x : Nat) : Nat := rotr64 x 1 ^^^ rotr64 x 8 ^^^ (x >>> 7)
def sig1 (x : Nat) : Nat := rotr64 x 19 ^^^ rotr64 x 61 ^^^ (x >>> 6)
def bigSig0 (x : Nat) : Nat := rotr64 x 28 ^^^ rotr64 x 34 ^^^ rotr64 x 39
def bigSig1 (x : Nat) : Nat := rotr64 x 14 ^^^ rotr64 x 18 ^^^ rotr64 x 41

/-- The eight working variables. -/
structure Sha where
  a : Nat
  b : Nat
  c : Nat
  d : Nat
  e : Nat
  f : Nat
  g : Nat
  h : Nat
  deriving DecidableEq, Repr

/-- The message schedule's next word from the window of the last sixteen, oldest first. -/
def shaNext (w : List Nat) : Nat :=
  (sig1 (w.getD 14 0) + w.getD 9 0 + sig0 (w.getD 1 0) + w.getD 0 0) % w64

/-- The rounds of one block: constants left, window, variables. -/
def shaRounds : (k w : List Nat) → Sha → Sha
  | [], _, x => x
  | k :: ks, w, x =>
    let t1 := x.h + bigSig1 x.e + ((x.e &&& x.f) ^^^ ((x.e ^^^ 0xFFFFFFFFFFFFFFFF) &&& x.g)) + k + w.headD 0
    let t2 := bigSig0 x.a + ((x.a &&& x.b) ^^^ (x.a &&& x.c) ^^^ (x.b &&& x.c))
    shaRounds ks (w.drop 1 ++ [shaNext w])
      { a := (t1 + t2) % w64, b := x.a, c := x.b, d := x.c, e := (x.d + t1) % w64, f := x.e, g := x.f, h := x.g }

/-- One 16-word block absorbed. -/
def shaBlock (x : Sha) (w : List Nat) : Sha :=
  let y := shaRounds (shaK1 ++ shaK2) w x
  { a := (x.a + y.a) % w64, b := (x.b + y.b) % w64, c := (x.c + y.c) % w64, d := (x.d + y.d) % w64
    e := (x.e + y.e) % w64, f := (x.f + y.f) % w64, g := (x.g + y.g) % w64, h := (x.h + y.h) % w64 }

/-- `n` big-endian 64-bit words of a byte string. -/
def beWords : (n : Nat) → List Nat → List Nat
  | 0, _ => []
  | n + 1, l => beNum (l.take 8) :: beWords n (l.drop 8)

/-- The state after `n` blocks of a message. -/
def shaBlocks : (n : Nat) → Sha → List Nat → Sha
  | 0, x, _ => x
  | n + 1, x, l => shaBlocks n (shaBlock x (beWords 16 (l.take 128))) (l.drop 128)

def shaStart : Sha :=
  { a := shaIv.getD 0 0, b := shaIv.getD 1 0, c := shaIv.getD 2 0, d := shaIv.getD 3 0, e := shaIv.getD 4 0
    f := shaIv.getD 5 0, g := shaIv.getD 6 0, h := shaIv.getD 7 0 }

/-- The SHA-384 digest of a byte string, as a number with byte 0 high. -/
def sha384 (l : List Nat) : Nat :=
  let len := l.length
  let z := (128 - (len + 17) % 128) % 128
  let m := l ++ [0x80] ++ List.replicate z 0 ++ beBytes 16 (8 * len)
  let x := shaBlocks (m.length / 128) shaStart m
  beNum (beBytes 8 x.a ++ beBytes 8 x.b ++ beBytes 8 x.c ++ beBytes 8 x.d ++ beBytes 8 x.e ++ beBytes 8 x.f)

/-- HMAC-SHA-384 under a key of at most 128 bytes. -/
def hmac384 (key msg : List Nat) : Nat :=
  let k := key ++ List.replicate (128 - key.length) 0
  sha384 (k.map (· ^^^ 0x5C) ++ beBytes 48 (sha384 (k.map (· ^^^ 0x36) ++ msg)))

/-- The counter-mode KDF of SP 800-108 with HMAC-SHA-384: `bits` of output as bytes (R315). -/
def kdf (key label context : List Nat) (bits : Nat) : List Nat :=
  let block := fun i => beBytes 48 (hmac384 key (beBytes 4 i ++ label ++ [0] ++ context ++ beBytes 4 bits))
  ((List.range ((bits + 383) / 384)).flatMap (fun i => block (i + 1))).take (bits / 8)

/-! ### P-384 -/

def p384 : Nat := 2 ^ 384 - 2 ^ 128 - 2 ^ 96 + 2 ^ 32 - 1
def p384n : Nat :=
  0xFFFFFFFFFFFFFFFFFFFFFFFFFFFFFFFFFFFFFFFFFFFFFFFFC7634D81F4372DDF581A0DB248B0A77AECEC196ACCC52973
def p384b : Nat :=
  0xB3312FA7E23EE7E4988E056BE3F82D19181D9C6EFE8141120314088F5013875AC656398D8A2ED19D2A85C8EDD3EC2AEF
def p384gx : Nat :=
  0xAA87CA22BE8B05378EB1C71EF320AD746E1D3B628BA79B9859F741E082542A385502F25DBF55296C3A545E3872760AB7
def p384gy : Nat :=
  0x3617DE4A96262C6F5D9E98BF9292DC29F8F41DBD289A147CE9DA3113B5F0B8C00A60B1CE1D7E819D7A431D7C90EA0E5F

/-- A point in Jacobian coordinates; `z = 0` is the point at infinity. -/
structure Pt where
  x : Nat
  y : Nat
  z : Nat
  deriving DecidableEq, Repr

def subP (a b : Nat) : Nat := (a + p384 - b % p384) % p384

/-- Twice a point. -/
def ptDouble (q : Pt) : Pt :=
  let d := q.z * q.z % p384
  let g := q.y * q.y % p384
  let b := q.x * g % p384
  let a := 3 * (subP q.x d * (q.x + d)) % p384
  let x := subP (a * a) (8 * b)
  { x := x, y := subP (a * subP (4 * b) x) (8 * g * g), z := 2 * q.y * q.z % p384 }

/-- The sum of two points. -/
def ptAdd (q r : Pt) : Pt :=
  if q.z == 0 then r
  else if r.z == 0 then q
  else
    let z1 := q.z * q.z % p384
    let z2 := r.z * r.z % p384
    let u1 := q.x * z2 % p384
    let u2 := r.x * z1 % p384
    let s1 := q.y * r.z % p384 * z2 % p384
    let s2 := r.y * q.z % p384 * z1 % p384
    let h := subP u2 u1
    let t := subP s2 s1
    if h == 0 then (if t == 0 then ptDouble q else ⟨1, 1, 0⟩)
    else
      let h2 := h * h % p384
      let h3 := h * h2 % p384
      let v := u1 * h2 % p384
      let x := subP (t * t) (h3 + 2 * v)
      { x := x, y := subP (t * subP v x) (s1 * h3), z := h * q.z % p384 * r.z % p384 }

/-- The low `n` bits of `k` times a point, high bit first. -/
def ptMulFrom (q : Pt) (k : Nat) : (n : Nat) → Pt → Pt
  | 0, acc => acc
  | n + 1, acc =>
    let d := ptDouble acc
    ptMulFrom q k n (if (k >>> n) % 2 == 1 then ptAdd d q else d)

def ptMul (k : Nat) (q : Pt) : Pt := ptMulFrom q k 384 ⟨1, 1, 0⟩

/-- `a` to the power of the low `n` bits of `e`, high bit first, modulo `m`. -/
def powModFrom (a e m : Nat) : (n r : Nat) → Nat
  | 0, r => r
  | n + 1, r =>
    let s := r * r % m
    powModFrom a e m n (if (e >>> n) % 2 == 1 then s * a % m else s)

/-- The inverse modulo a prime below 2^384. -/
def invMod (a m : Nat) : Nat := powModFrom (a % m) (m - 2) m 384 1

/-- The coordinates of a point that is not at infinity. -/
def affine (q : Pt) : Nat × Nat :=
  let i := invMod q.z p384
  let i2 := i * i % p384
  (q.x * i2 % p384, q.y * (i2 * i % p384) % p384)

def basePt : Pt := ⟨p384gx, p384gy, 1⟩

/-- The point (x, y) lies on P-384 and is not at infinity (R317, order 5). -/
def onCurve (x y : Nat) : Bool :=
  decide (x < p384) && decide (y < p384) && (y * y % p384 == (x * x * x + (p384 - 3) * x + p384b) % p384)

/-- The ECDSA verification of the signature (r, s) on a digest under a public key (R47). -/
def ecdsaOk (qx qy r s digest : Nat) : Bool :=
  onCurve qx qy && decide (0 < r) && decide (r < p384n) && decide (0 < s) && decide (s < p384n) &&
    (let w := invMod s p384n
     let q := ptAdd (ptMul (digest * w % p384n) basePt) (ptMul (r * w % p384n) ⟨qx, qy, 1⟩)
     q.z != 0 && (affine q).1 % p384n == r)

end Sys2Proof.Machine
end

