-- ==== Sys2Proof/Machine/Crypto.lean ====
section
/-! DEFINITION. The cipher island's use of its engines (R27, R297 to R301, R304, R306, R311, R314, R315, R318,
R320): keys as shares of round keys, sectors enciphered and deciphered under the tweak of their LBA, the
entropy source and the DRBG, the keys derived from the device root key, a zone's GHASH and its tag. -/

namespace Sys2Proof.Machine

/-! ### Keys in the key RAM (R301, R308) -/

/-- 128-bit words packed, the first lowest. -/
def packWords (l : List Nat) : Nat := l.foldr (fun x a => x % 2 ^ 128 + (a <<< 128)) 0

/-- The round keys a slot's shares stand for. -/
def keyWords (k : Key) : Nat := k.share0 ^^^ k.share1

/-- The expanded key of an XTS pair, Key1 in the low 256 bits (R300). -/
def expandXts (pair : Nat) : Nat := packWords (roundKeys (pair % 2 ^ 256) ++ roundKeys (pair >>> 256))

/-- The expanded seal key with its GHASH subkey (R308). -/
def expandSeal (ks : Nat) : Nat := packWords (roundKeys ks ++ [ghKey ks])

/-- The XTS pair of a slot: its first two round keys of each half are the keys. -/
def xtsPair (k : Key) : Nat := keyWords k % 2 ^ 256 + ((keyWords k >>> 1920) % 2 ^ 256 <<< 256)

/-- The seal key and the GHASH subkey of a slot. -/
def sealKey (k : Key) : Nat := keyWords k % 2 ^ 256
def subKey (k : Key) : Nat := (keyWords k >>> 1920) % 2 ^ 128

/-- The key a slot holds, and the round keys a key expands to. -/
def keyValue (k : Key) : Nat := if k.isSeal then sealKey k else xtsPair k
def expandKey (isSeal : Bool) (v : Nat) : Nat := if isSeal then expandSeal (v % 2 ^ 256) else expandXts v

/-! ### Sectors (R27, R297 to R299) -/

/-- A sector of `slot` with its metadata through an engine, in either direction: the data unit of its format
under the tweak of its LBA, metadata outside the unit as it is; unchanged without encryption. -/
def cipherSector (enc : Bool) (s : State) (slot lba v : Nat) : Nat :=
  let n := getNs s slot
  let b := dataUnitBytes n.fmt n.attr.encMeta
  if !n.attr.enc then v
  else xtsUnit enc (xtsPair (getKey s n.attr.xts)) lba b (v % 2 ^ (8 * b)) + (v >>> (8 * b) <<< (8 * b))

/-- What host data `v` is stored as (R26 step 7, R297). -/
def storedFrom (s : State) (slot lba v : Nat) : Nat :=
  cipherSector true s slot lba (v % 2 ^ (8 * storedBytes (getNs s slot).fmt))

/-- What stored content deciphers to under the namespace's key (R33 step 5, R297). -/
def plainOf (s : State) (slot lba v : Nat) : Nat := cipherSector false s slot lba v

/-! ### The entropy source and the DRBG (R304 to R306) -/

/-- A conditioned output: AES-256-CMAC over 512 raw bits (R304). -/
def conditioned (n : Nat) : Nat := cmac Config.condKey 4 (Config.rawBits n % 2 ^ 512)

/-- The next 384 bits of conditioned output (R306). -/
def entropy384 (s : State) : Nat :=
  let n := s.cipher.rawNo
  conditioned n + (conditioned (n + 1) <<< 128) + (conditioned (n + 2) <<< 256)

/-- The DRBG is instantiated from the source: 384 bits of entropy and a nonce of 128 (R306). -/
def instantiate (s : State) : State :=
  { s with cipher := { s.cipher with
    drbg := 1, rng := drbgInit (entropy384 s) (conditioned (s.cipher.rawNo + 3))
    rawNo := s.cipher.rawNo + 4, reseedUs := s.nowUs } }

/-- The DRBG takes a reseed from the source (R306). -/
def reseed (s : State) : State :=
  { s with cipher := { s.cipher with
    rng := drbgReseed s.cipher.rng (entropy384 s), rawNo := s.cipher.rawNo + 3, reseedUs := s.nowUs
    reseeds := satAdd 16 s.cipher.reseeds 1 } }

/-- `n` blocks of DRBG output. -/
def randomBlocks (s : State) (n : Nat) : Nat × State :=
  let r := drbgGen s.cipher.rng n
  (r.1, { s with cipher := { s.cipher with rng := r.2 } })

/-- An XTS pair is drawn until its halves differ (R300); should 64 draws in a row not do, the last one's
lowest bit is turned. -/
def drawPair : (fuel : Nat) → State → Nat × State
  | 0, s =>
    let r := randomBlocks s 4
    (if r.1 % 2 ^ 256 = r.1 >>> 256 then r.1 ^^^ 1 else r.1, r.2)
  | f + 1, s =>
    let r := randomBlocks s 4
    if r.1 % 2 ^ 256 = r.1 >>> 256 then drawPair f r.2 else r

/-- A slot's key as two shares under a fresh mask (R301); a stopped DRBG leaves the mask it last gave. -/
def shareKey (s : State) (st : Nat) (isSeal : Bool) (ser v : Nat) : Key × State :=
  let r := if s.cipher.drbg == 1 then randomBlocks s 30 else (s.cipher.rng.v, s)
  ({ st := st, isSeal := isSeal, ser := ser, share0 := r.1, share1 := expandKey isSeal v ^^^ r.1 }, r.2)

/-- The shares of a slot under another mask (R301). -/
def remask (m : Nat) (k : Key) : Key :=
  if k.st = 0 then k else { k with share0 := k.share0 ^^^ m, share1 := k.share1 ^^^ m }

/-! ### Keys derived from the device root key (R307, R311, R314, R315) -/

/-- The ASCII labels of the KDFs: ULUTI-KS, ULUTI-KT, ULUTI-FB, ULUTI-IK. -/
def labelKs : List Nat := [0x55, 0x4C, 0x55, 0x54, 0x49, 0x2D, 0x4B, 0x53]
def labelKt : List Nat := [0x55, 0x4C, 0x55, 0x54, 0x49, 0x2D, 0x4B, 0x54]
def labelFb : List Nat := [0x55, 0x4C, 0x55, 0x54, 0x49, 0x2D, 0x46, 0x42]
def labelIk : List Nat := [0x55, 0x4C, 0x55, 0x54, 0x49, 0x2D, 0x49, 0x4B]

/-- KDF(DRK, label, context) (R315). -/
def kdfDrk (s : State) (label context : List Nat) (bits : Nat) : List Nat :=
  kdf (leBytes 32 s.board.fuses.drk) label context bits

/-- The storage key SK (R311). -/
def storageKey (s : State) : Nat := leNum (kdfDrk s labelKs [] 256)

/-- The private scalar of niche `i`'s transport key (R314). -/
def transportScalar (s : State) (i : Nat) : Nat :=
  beNum (kdfDrk s labelKt (i :: leBytes 8 s.arm.seq) 512) % (p384n - 1) + 1

/-- Q_i (R314). -/
def transportPoint (s : State) (i : Nat) : Nat × Nat := affine (ptMul (transportScalar s i) basePt)

/-- IK of a Key Import (R315): E = (ex, ey). -/
def importKey (s : State) (i slot ex ey : Nat) : Nat :=
  let z := (affine (ptMul (transportScalar s i) ⟨ex, ey, 1⟩)).1
  leNum ((beBytes 48 (sha384 ([0, 0, 0, 1] ++ beBytes 48 z ++ labelIk ++ [i % 256, slot % 256] ++ beBytes 48 ex))).take 32)

/-- The DRBG where the source has failed at instantiation (R307): the 256 bits of KDF(DRK, "ULUTI-FB", power
cycles) (R315) are the whole seed material, the count as 4 bytes (notes/assumptions/8.md). -/
def instantiateFallback (s : State) : State :=
  { s with cipher := { s.cipher with
    drbg := 1, seedSrc := true, reseedUs := s.nowUs
    rng := drbgFrom 32 (leNum (kdfDrk s labelFb (leBytes 4 s.pat.pwrcyc) 256)) } }

/-! ### The key table (R311, R313) -/

/-- A slot's entry: the wrap of its key, slot number and state (R311). -/
def wrapEntry (s : State) (i : Nat) (k : Key) : KeyEnt :=
  { st := k.st, isSeal := k.isSeal, ser := k.ser
    wrapped := kwWrap (storageKey s) 9 (keyValue k + (i <<< 512) + (k.st <<< 520)) }

/-- The table of the slots as they are: the entries of those that are not Empty. -/
def wrapTable (s : State) : List (Nat × KeyEnt) :=
  s.cipher.keys.map (fun kv => (kv.1, wrapEntry s kv.1 kv.2))

/-- The 128 entries of a key table as they stand in a key block after its header (R311): an Empty slot's wraps zeros, its
number and its state. -/
def tableEntries (s : State) (b : KeyBlk) : List KeyEnt :=
  (List.range 128).map (fun i => tget (wrapEntry s i {}) b.ents i)

/-- What key block `blk` of either die that holds the table has: the table in force or the one before (R311, R312). -/
def keyBlock (s : State) (blk : Bool) : Option KeyBlk :=
  if blk == s.cipher.tableBlk then some ⟨s.cipher.tableSeq, s.cipher.table⟩ else s.cipher.older

/-- The 512 bits of key in an unwrapped entry of slot `i`, where it names the slot and its state `st`. -/
def entryValue (i st v : Nat) : Option Nat :=
  if (v >>> 512) % 256 = i ∧ (v >>> 520) % 256 = st then some (v % 2 ^ 512) else none

/-- An entry's unwrap (R313): the 512 bits of key, where the integrity check passes for this slot. -/
def unwrapEntry (s : State) (i : Nat) (e : KeyEnt) : Option Nat :=
  (kwUnwrap (storageKey s) 9 e.wrapped).bind (entryValue i e.st)

/-! ### Seals (R318, R320) -/

/-- The blocks β of a stored unit (R318). -/
def sealBlocks (fmt : Nat) : Nat := ceilDiv (storedBytes fmt) 16

/-- The GHASH of a segment's padded units from a zero state (R320 step 1). -/
def segHash (h beta : Nat) (l : List Nat) : Nat := l.foldl (fun y v => ghAbsorb h beta y v) 0

/-- A command's units folded into a zone's GHASH in LBA order, segment by segment (R320). -/
def foldSegs (h beta : Nat) (y : Nat) (segs : List (List Nat)) : Nat :=
  segs.foldl (fun a l => ghFold h a (l.length * beta) (segHash h beta l)) y

/-- The tag of a zone of which `absorbed` blocks have been absorbed (R318): the trailer's four blocks and the length
block, then AES_KS(J0). -/
def sealTag (k : Key) (ghash absorbed nonce trailer : Nat) : Nat :=
  let h := subKey k
  let y := ghAbsorb h 4 ghash trailer
  let bits := (absorbed + 4) * 128
  let z := ghAbsorb h 1 y (byteSwap 8 bits)
  byteSwap 16 z ^^^ aesEnc (roundKeys (sealKey k)) (nonce % 2 ^ 96 + (1 <<< 120))

end Sys2Proof.Machine
end

