-- ==== Sys2Proof/Machine/Pi.lean ====
section
/-! DEFINITION. Protection information of format 1 (R146 to R148, R186, R510): the 8 bytes after a sector on
plaintext, made and checked in the port island as the NVM command set defines PRACT, PRCHK and the tags,
which the spec names and does not restate (PRESUMED, notes/assumptions/7.md). The guard is the 16-bit CRC
with the polynomial 8BB7h; guard, application tag and reference tag stand in that order, high byte first. -/

namespace Sys2Proof.Machine

/-- The CRC after the bits of one byte. -/
def crcBits : (n c : Nat) → Nat
  | 0, c => c
  | n + 1, c => crcBits n (if c % 65536 ≥ 32768 then (2 * c % 65536) ^^^ 0x8BB7 else 2 * c % 65536)

/-- The CRC-16 of the low `n` bytes of `v`, the lowest first. -/
def crc16 : (n c v : Nat) → Nat
  | 0, c, _ => c
  | n + 1, c, v => crc16 n (crcBits 8 (c ^^^ (v % 256 * 256))) (v / 256)

/-- The guard of a sector. -/
def guardOf (v : Nat) : Nat := crc16 4096 0 (v % 2 ^ 32768)

/-- The 8 bytes of protection information as a little-endian number. -/
def piWord (guard app ref : Nat) : Nat := byteSwap 8 (guard * 2 ^ 48 + app % 65536 * 2 ^ 32 + ref % 2 ^ 32)

/-- The guard, the application tag and the reference tag of a sector with its metadata. -/
def piGuardOf (v : Nat) : Nat := byteSwap 8 (v >>> 32768) / 2 ^ 48
def piAppOf (v : Nat) : Nat := byteSwap 8 (v >>> 32768) / 2 ^ 32 % 65536
def piRefOf (v : Nat) : Nat := byteSwap 8 (v >>> 32768) % 2 ^ 32

/-- A sector with protection information put after it. -/
def withPi (v pi : Nat) : Nat := v % 2 ^ 32768 + (pi <<< 32768)

def prAct (a : PiArgs) : Bool := bitOf a.prinfo 3

/-- The reference tag expected of the `j`-th sector of a command: it rises with the LBA in types 1 and 2. -/
def refTag (typ j : Nat) (a : PiArgs) : Nat := if typ == 3 then a.ilbrt % 2 ^ 32 else (a.ilbrt + j) % 2 ^ 32

/-- Protection information made for sector `j` (PRACT = 1). -/
def makePi (typ j : Nat) (a : PiArgs) (v : Nat) : Nat := withPi v (piWord (guardOf v) a.lbat (refTag typ j a))

/-- Whether a sector's tags switch its checks off. -/
def piEscape (typ v : Nat) : Bool := piAppOf v == 0xFFFF && (typ != 3 || piRefOf v == 0xFFFFFFFF)

/-- The check of sector `j` with its protection information (R147): the first of guard, application tag and
reference tag that PRCHK asks for and that fails. -/
def checkPi (typ j : Nat) (a : PiArgs) (v : Nat) : Option Status :=
  if piEscape typ v then none
  else if bitOf a.prinfo 2 && piGuardOf v != guardOf v then some .piGuard
  else if bitOf a.prinfo 1 && (piAppOf v &&& a.lbatm) != (a.lbat &&& a.lbatm) then some .piApp
  else if bitOf a.prinfo 0 && typ != 3 && piRefOf v != refTag typ j a then some .piRef
  else none

/-- A sector with its reference tag replaced by the low 32 bits of the LBA assigned (R148, PIREMAP = 1). -/
def remapRef (typ lba v : Nat) : Nat :=
  if typ == 3 then v else withPi v (piWord (piGuardOf v) (piAppOf v) (lba % 2 ^ 32))

/-- Whether a namespace's sectors carry protection information. -/
def hasPi (n : Ns) : Bool := n.fmt == 1 && n.pi != 0

/-- Bytes of a sector with its metadata as the host and the device pass it: without the PI that the device
makes or strips (PRACT = 1). -/
def hostBytes (n : Ns) (io : IoCmd) : Nat := if hasPi n && prAct io.pi then 4096 else storedBytes n.fmt

/-- Host sector `j` of a write, as received: what goes on to the engines, or the failing check (R147, R148).
`lba` is the LBA assigned to it. -/
def hostSector (n : Ns) (io : IoCmd) (j lba v : Nat) : Nat × Option Status :=
  let d := v % 2 ^ (8 * hostBytes n io)
  if !(hasPi n) then (d, none)
  else
    let w := if prAct io.pi then makePi n.pi j io.pi d else d
    let bad := if prAct io.pi then none else checkPi n.pi j io.pi d
    (if io.piremap && (io.op == .zoneAppend || io.op == .frameAppend) then remapRef n.pi lba w else w, bad)

/-- The sector a Write Zeroes makes (R510): zeros, with protection information made under PRACT = 1 and all
ones otherwise. -/
def zeroSector (n : Ns) (io : IoCmd) (j : Nat) : Nat :=
  if !(hasPi n) then 0
  else if prAct io.pi then makePi n.pi j io.pi 0 else withPi 0 (2 ^ 64 - 1)

/-- What a sector that was never written reads as (R186). -/
def unwritten (n : Ns) : Nat := if n.fmt == 1 then withPi 0 (piWord (guardOf 0) 0xFFFF 0xFFFFFFFF) else 0

/-- A read sector on its way to the host: the check of R147 and the bytes sent. -/
def sentSector (n : Ns) (io : IoCmd) (j v : Nat) : Nat × Option Status :=
  (v % 2 ^ (8 * hostBytes n io), if hasPi n then checkPi n.pi j io.pi v else none)

end Sys2Proof.Machine
end

