-- ==== Sys2Proof/Machine/Admission.lean ====
section
/-! DEFINITION. Admission and re-evaluation (R73, R74, R200 to R208): every inequality as whole
numbers, by multiplying its denominators out, so nothing is rounded that the spec does not round. -/

namespace Sys2Proof.Machine

/-! ### Port capacity (R73, R74) -/

/-- Lane rate in bytes per second of link speed code 1 to 5. -/
def laneRate (gen : Nat) : Nat :=
  match gen with
  | 1 => 312500000 | 2 => 625000000 | 3 => 1000000000 | 4 => 2000000000 | 5 => 4000000000
  | _ => 0

/-- Max_Payload_Size in bytes of its code. -/
def mpsBytes (code : Nat) : Nat := 128 * 2 ^ code

/-- Numerator and denominator of P in bytes per second (R73). -/
def payloadFrac (gen width mps : Nat) : Nat × Nat :=
  let e := if gen ≤ 2 then (8, 10) else (128, 130)
  (width * laneRate gen * e.1 * mps * 96, e.2 * (mps + 24) * 100)

/-- Payload capacity P of a link in MB/s, rounded down (R73). -/
def payload (gen width mps : Nat) : Nat :=
  (payloadFrac gen width mps).1 / ((payloadFrac gen width mps).2 * 1000000)

/-- Commission capacity: 0.9 P in MB/s rounded down to a multiple of 100 (R74). -/
def capw (gen width mps : Nat) : Nat :=
  (payloadFrac gen width mps).1 * 9 / ((payloadFrac gen width mps).2 * 10 * 100000000) * 100

/-- The commission capacity of a port as trained; 0 with the link down or the port absent. -/
def portCapw (v : Port) : Nat := if v.dlup then capw v.gen v.width (mpsBytes v.mps) else 0

def portPayload (v : Port) : Nat := if v.dlup then payload v.gen v.width (mpsBytes v.mps) else 0

/-! ### The bus and the hold-up limit (R204, R241) -/

/-- A channel's rate in force, or the rate a pending step-down takes it to (R249). -/
def chRate (v : Chan) : Nat := if v.state != 2 then 0 else if v.stepPend then v.target else v.rate

/-- B_ch in MB/s (R241). -/
def bch (s : State) : Nat := sumBy (fun n => chRate (getChan s n)) (List.range 32)

/-- T_FL(D) less its transfer term, in µs (R204). -/
def flBase (s : State) : Nat :=
  s.arm.cfg.dev.brace + s.arm.cfg.geom.tProg + s.arm.cfg.geom.tProgP + 500

/-- T_HU in µs for a capacitance in 10 µF and a charge voltage in mV, rounded down (R204). -/
def tHu (s : State) (c v : Nat) : Nat :=
  let d := s.arm.cfg.dev
  if d.huLoad == 0 then 0 else c * (v * v - d.huVmin * d.huVmin) / (20000 * d.huLoad)

/-- The largest D ≤ 224 MiB with 1.8 T_FL(D) ≤ T_HU (R204). -/
def dCapOf (s : State) (c v : Nat) : Nat :=
  let d := s.arm.cfg.dev
  let b := bch s
  if d.huLoad == 0 then 0
  else min 224 ((10 * b * c * (v * v - d.huVmin * d.huVmin) - 360000 * d.huLoad * flBase s * b) /
    (360000 * d.huLoad * 1048576))

/-- D_CAP in MiB (R204): 0 without a bank or while hold-up is degraded. -/
def dCap (s : State) : Nat :=
  if s.board.straps.holdup == 0 || degraded s then 0
  else dCapOf s s.hold.cmeas s.arm.cfg.dev.huVchg

/-! ### Charges -/

/-- What one commission charges (R200, R202): its width, rate, declared reads and reservations for
checks 4 and 5. A rate is a rational: re-evaluation charges the unrounded SRATE (R208). -/
structure Charge where
  niche : Nat
  port : Nat
  w : Nat
  fmt2 : Bool
  r : Rat
  rd : Nat
  resv4 : Nat
  resv5 : Nat
  deriving DecidableEq, Repr

/-- The ranks a width-`w` stream of niche `n` is charged on: every rank of every aligned group of
`w` ranks in the niche's set (R200). -/
def chargedRanks (s : State) (n w : Nat) : List Nat :=
  let m := (nicheCfg s n).rankSet
  (List.range 32).filter (fun k => (List.range w).all (fun j => bitOf m (k / w * w + j)))

/-- N_c: the smallest N_k over the charged ranks (R200). -/
def ncOf (s : State) (x : Charge) : Nat := minBy (nk s) 0 (chargedRanks s x.niche x.w)

/-- The reservation in bytes (R203). -/
def resvOf (s : State) (r b zconc : Nat) : Nat :=
  ceilDiv (r * (s.arm.cfg.geom.tProg + 1000) + b * 4096 + zconc * 7864320) 4096 * 4096

/-- Bytes of a niche's bulk pool classes (R203). -/
def bulkBytes (s : State) (n : Nat) : Nat :=
  let p := (nicheCfg s n).pools
  p.getD 2 0 * 65536 + p.getD 3 0 * 262144 + p.getD 4 0 * 1048576

/-- lcm of 1 to 30: every N_c − 2 divides it. -/
def lcm30 : Nat := 2329089562800

/-- 32/(N_c − 2) of a rate, over `lcm30`. -/
def spread (s : State) (x : Charge) : Nat := 32 * (lcm30 / (ncOf s x - 2))

/-- Bytes of a codeword on the bus (R257). -/
def cwBytes (f : Bool) : Nat := if f then 4216 else 4160

/-- Geometry outside the limits of R225. -/
def slowDie (s : State) : Bool :=
  decide (500 < s.arm.cfg.geom.tEs) || decide (450 < s.arm.cfg.geom.tR)

/-- One inequality `coef * r + lhs ≤ rhs` of check `chk` (R201). -/
structure Ineq where
  chk : Nat
  rank : Nat
  coef : Nat
  lhs : Rat
  rhs : Nat
  deriving DecidableEq, Repr

def Ineq.holds (i : Ineq) (r : Rat) : Bool := decide ((i.coef : Nat) * r + i.lhs ≤ (i.rhs : Nat))

/-- A sum of rationals over a list. -/
def sumRat {α : Type} (f : α → Rat) (l : List α) : Rat := l.foldl (fun a x => a + f x) 0

/-- Σ r·16/w of a niche's charges on rank `k`. -/
def rankLoad (s : State) (l : List Charge) (p : Charge → Bool) (k : Nat) : Rat :=
  sumRat (fun c => c.r * (16 / c.w : Nat))
    (l.filter (fun c => p c && (chargedRanks s c.niche c.w).contains k))

/-- CAL_SHARE of a niche on a rank, in 1/256; 256 on an exclusive rank (R200). -/
def shareOf (s : State) (n k : Nat) : Nat :=
  if bitOf (nicheCfg s n).sharedSet k then (nicheCfg s n).calShare else 256

/-- Bytes of data per row of a niche (R200). -/
def rowBytes (s : State) (sd : Bool) : Nat := stripesPerRow s * stripeCap sd 30 * 4096

/-- Check 01h on rank `k` for charge `x` beside `l` (R201): the program and the erase inequality. -/
def check1 (s : State) (l : List Charge) (x : Charge) (k : Nat) : List Ineq :=
  let t := s.arm.cfg.geom.tProg
  let sdx := (nicheCfg s x.niche).selfDesc
  let isSd := fun c : Charge => (nicheCfg s c.niche).selfDesc
  let ra := rowBytes s false
  let rb := rowBytes s true
  let e := s.arm.cfg.geom.tErs * 2000
  [ { chk := 1, rank := k, coef := 16 / x.w * t * 256000000
      lhs := rankLoad s l (fun c => c.niche == x.niche) k * (t * 256000000 : Nat)
      rhs := 16 * (nk s k - 2) * 262144 * s.arm.cfg.u * (1000 - s.arm.cfg.rho) * shareOf s x.niche k },
    { chk := 1, rank := k, coef := e * (16 / x.w) * (if sdx then ra else rb)
      lhs := (e : Nat) * (rankLoad s l (fun c => !isSd c) k * (rb : Nat) + rankLoad s l isSd k * (ra : Nat))
      rhs := s.arm.cfg.rho * 16 * ra * rb } ]

/-- The inequalities of checks 1 to 6 in which the rate of `x` has a term, in order (R201, R202).
`left5` is what check 5 leaves to `x`, in bytes; `b` and `z` are its BURST and ZCONC. -/
def rateIneqs (s : State) (l : List Charge) (x : Charge) (b z left5 : Nat) : List Ineq :=
  let t := s.arm.cfg.geom.tProg
  let wmin := min s.cms.wState s.cms.wTherm
  let bus := fun c : Charge => c.r * (spread s c * (64 * cwBytes c.fmt2 + 256) : Nat)
  let busR := fun c : Charge => c.rd * (cwBytes c.fmt2 + 256) * 64 * lcm30
  let fixed := b * 4096 + z * 7864320
  let room4 := (bulkBytes s x.niche - sumBy (·.resv4) (l.filter (·.niche == x.niche))) / 4096 * 4096
  (chargedRanks s x.niche x.w).flatMap (check1 s l x) ++
  [ { chk := 2, rank := 0, coef := spread s x * (64 * cwBytes x.fmt2 + 256)
      lhs := sumRat bus l + (sumBy busR (x :: l) + 2000 * 262144 * lcm30 : Nat)
      rhs := bch s * 262144 * lcm30 },
    { chk := 2, rank := 0, coef := 1, lhs := sumRat (·.r) l + (sumBy (·.rd) (x :: l) : Nat), rhs := 115200 },
    { chk := 3, rank := 0, coef := 1, lhs := sumRat (·.r) (l.filter (·.port == x.port))
      rhs := portCapw (getPort s x.port) },
    { chk := 4, rank := 0, coef := t + 1000, lhs := (fixed : Nat), rhs := room4 },
    { chk := 5, rank := 0, coef := t + 1000, lhs := (fixed : Nat), rhs := left5 / 4096 * 4096 },
    { chk := 6, rank := 0, coef := 1, lhs := sumRat (·.r) l, rhs := wmin },
    { chk := 6, rank := 1, coef := 1, lhs := sumRat (·.r) (l.filter (·.niche == x.niche))
      rhs := (nicheCfg s x.niche).thermShare * wmin / 256 },
    { chk := 6, rank := 2, coef := spread s x * t * s.arm.cfg.geom.iProg * 1000
      lhs := sumRat (fun c => c.r * (spread s c * t * s.arm.cfg.geom.iProg * 1000 : Nat)) l
      rhs := s.arm.cfg.dev.icc * (1000 - s.arm.cfg.rho) * 262144 * lcm30 } ]

/-- The inequalities of declared reads (checks 2 and 3 of R201). -/
def readIneqs (s : State) (l : List Charge) (x : Charge) : List Ineq :=
  [ { chk := 2, rank := 0, coef := 1, lhs := (sumBy (·.rd) l : Nat), rhs := 62000 },
    { chk := 3, rank := 0, coef := 1, lhs := (sumBy (·.rd) (l.filter (·.port == x.port)) : Nat)
      rhs := portPayload (getPort s x.port) } ]

/-- Whether an inequality's test is waived at a Modify: none of the commission's terms in it rises
(R202). `old` is the charge it replaces. -/
def waived (old : Option Charge) (i : Ineq) (x : Charge) : Bool :=
  match old with
  | none => false
  | some o =>
    if i.chk == 4 || i.chk == 5 then decide (x.resv4 ≤ o.resv4)
    else if i.chk == 2 then decide (x.r ≤ o.r) && decide (x.rd ≤ o.rd)
    else decide (x.r ≤ o.r)

/-- The first failing check of R201 for charge `x` beside `l`, at its own rate. -/
def firstFail (s : State) (l : List Charge) (x : Charge) (b z left5 : Nat) (old : Option Charge) :
    Option Nat :=
  if slowDie s then some 1
  else if decide (s.arm.cfg.dev.icc < 32 * s.arm.cfg.geom.iProg) then some 6
  else
    let rate := (rateIneqs s l x b z left5).filter (fun i =>
      !(i.holds x.r) && !(waived old i x) || (decide (ncOf s x ≤ 2) && i.chk == 2))
    let rd := (readIneqs s l x).filter (fun i =>
      !(i.holds (x.rd : Nat)) && !((old.map (fun o => decide (x.rd ≤ o.rd))).getD false))
    let chks := (rate ++ rd).map (·.chk)
    (List.range 7).find? (fun c => chks.contains c)

/-- The largest rate up to 52,000 MB/s at which every check passes, by halving; 0 if none (R196). -/
def bestRate (s : State) (l : List Charge) (x : Charge) (b z left5 : Nat) (old : Option Charge) :
    Nat :=
  let pass := fun r =>
    (firstFail s l { x with r := (r : Nat), resv4 := resvOf s r b z, resv5 := resvOf s r b z } b z left5
      old).isNone
  go pass 17 0 52001
where
  go (pass : Nat → Bool) : Nat → Nat → Nat → Nat
    | 0, lo, _ => lo
    | f + 1, lo, hi =>
      if hi ≤ lo + 1 then lo
      else if pass ((lo + hi) / 2) then go pass f ((lo + hi) / 2) hi else go pass f lo ((lo + hi) / 2)

/-- Zone width of a namespace slot (R160). -/
def widthOf (s : State) (slot : Nat) : Nat := 2 ^ (getNs s slot).attr.zw

/-- The full charge of a live commission (R202). -/
def fullCharge (s : State) (h : Nat) : Charge :=
  let c := getComm s h
  { niche := handleNiche h, port := c.port, w := widthOf s c.slot
    fmt2 := (getNs s c.slot).fmt == 2, r := (c.rate : Nat), rd := c.rdecl, resv4 := c.resv, resv5 := c.resv }

/-- The charges of every live commission but `h`. -/
def othersOf (s : State) (h : Option Nat) : List Charge :=
  ((liveComms s).filter (fun k => some k != h)).map (fullCharge s)

/-! ### Re-evaluation (R208) -/

/-- Live commissions in the order of the walk: PRIO, then opening. -/
def walkOrder (s : State) : List Nat :=
  (liveComms s).mergeSort (fun a b =>
    let x := getComm s a
    let y := getComm s b
    decide (x.prio < y.prio) || (x.prio == y.prio && decide (x.seq ≤ y.seq)))

/-- The rate limit an inequality leaves, as a rational. -/
def Ineq.limit (i : Ineq) : Rat :=
  if (i.rhs : Nat) < i.lhs then 0 else if i.coef == 0 then 52000 else ((i.rhs : Nat) - i.lhs) / (i.coef : Nat)

/-- The least of a list of rationals, at most 52,000. -/
def minRat (l : List Rat) : Rat := l.foldl (fun a b => if b < a then b else a) 52000

def posRat (q : Rat) : Rat := if q < 0 then 0 else q

/-- DEFICIT under check 1: the largest over the aligned groups of the sum over the ranks of the
group of what each falls short of r/w (R208). -/
def deficit1 (is : List Ineq) (r w : Nat) (ranks : List Nat) : Rat :=
  let short := fun k => posRat (((r : Nat) : Rat) -
    minRat ((is.filter (fun i => i.chk == 1 && i.rank == k)).map Ineq.limit)) / (w : Nat)
  (ranks.filter (fun k => k % w == 0)).foldl (fun a g =>
    let v := (List.range w).foldl (fun b j => b + short (g + j)) 0
    if a < v then v else a) 0

/-- The state change of a commission at re-evaluation (R207): its next state and event code. -/
def nextSt (st : CSt) (good : Bool) (drained : Bool) : CSt × Nat :=
  match st with
  | .live => if good then (.live, 0) else (.atRisk, 1)
  | .atRisk => if good then (.live, 3) else (.atRisk, 0)
  | .breached => if good && drained then (.live, 3) else (.breached, 0)
  | .closed => (.closed, 0)

/-- One more state change of a commission of niche `n` (GEN of R214). -/
def countChange (s : State) (n : Nat) : State :=
  { s with cms := { s.cms with gens := tset 0 s.cms.gens n (wrapAdd 32 (tget 0 s.cms.gens n) 1) } }

/-- A state change of commission `h`: the event on its niche's controllers, the niche's and the
device's bits and counters, and the count of changes (R157, R207, R214, R215, R486, R490). -/
def commEvent (s : State) (h code : Nat) : State :=
  if code == 0 then s
  else
    let n := handleNiche h
    let c := getComm s h
    let s1 := countChange (setComm s h { c with fedtime := fedLogTime s }) n
    let s2 := { s1 with cms := { s1.cms with
      atRiskEv := if code == 1 then satAdd 16 s1.cms.atRiskEv 1 else s1.cms.atRiskEv
      breachEv := if code == 2 then satAdd 16 s1.cms.breachEv 1 else s1.cms.breachEv } }
    let s3 := if code == 3 then s2 else nchSet (glbSet s2 6) n (if code == 4 then 3 else code)
    raiseAll s3 (ctrlsOf s3 n) (vendor code 0xC1)

/-- One commission of the walk: what it receives beside the charges `l` of those before it, with
`left5` bytes of D_CAP left (R208). Answers the state and the commission's own charge. A commission whose RDECL is 0
does not fall short in the inequalities of declared reads alone (DESIGN CHOICE, notes/assumptions/21.md). -/
def reevalOne (s : State) (l : List Charge) (left5 : Nat) (h : Nat) : State × Charge :=
  let c := getComm s h
  let x := fullCharge s h
  let eff := min c.resv left5
  let is := (rateIneqs s l x c.burst c.zconc eff).filter (·.chk != 4)
  let rdBad := fun k => x.rd != 0 && (readIneqs s l x).any (fun i => i.chk == k && !(i.holds (x.rd : Nat)))
  let dead := slowDie s || decide (ncOf s x ≤ 2) || rdBad 2 || rdBad 3
  let sr : Rat := if dead then 0 else minRat (is.map Ineq.limit)
  let rq : Rat := (c.rate : Nat)
  let short := fun k => is.any (fun i => i.chk == k && !(i.holds rq))
  let d1 := deficit1 is c.rate x.w (chargedRanks s x.niche x.w)
  let d2 := if short 2 || short 3 || short 6 || dead then posRat (rq - sr) else 0
  let d5 := ((c.resv - c.burst * 4096 - eff : Nat) : Rat) / ((s.arm.cfg.geom.tProg + 1000 : Nat) : Rat)
  let d := [d1, d2, d5].foldl (fun a b => if a < b then b else a) 0
  let pst := decide (s.cms.wState < s.cms.wTherm) && is.any (fun i => i.chk == 6 && i.rank < 2 && !(i.holds rq))
  let thr := is.any (fun i => i.chk == 6 && !(i.holds rq) && (i.rank == 2 || !pst))
  let reason := (if bitOf c.reason 6 then 64 else 0) + b2n (short 1) + 2 * b2n (short 2 || rdBad 2) +
    4 * b2n (short 3 || rdBad 3) + 8 * b2n (decide (eff < c.resv)) + 16 * b2n thr + 32 * b2n pst
  let srn := sr.floor.toNat
  let good := decide (rq ≤ sr) && eff == c.resv
  let nx := nextSt c.st good (decide (c.resident + c.burst * 4096 ≤ c.resv))
  let etb := if d == 0 then 0xFFFFFFFF
    else (((eff - c.resident : Nat) : Rat) / d / 1000).floor.toNat
  let s1 := setComm s h { c with
    st := nx.1, reason := reason, srate := srn, etb := etb, deficit := d.ceil.toNat, resvEff := eff }
  (commEvent s1 h nx.2, { x with r := if sr < rq then sr else rq, resv5 := eff })

/-- The walk over the live commissions (R208). -/
def reevalWalk : List Nat → List Charge → Nat → State → State
  | [], _, _, s => s
  | h :: t, l, left, s =>
    let r := reevalOne s l left h
    reevalWalk t (r.2 :: l) (left - r.2.resv5) r.1

/-- Re-evaluation: D_CAP anew, then the walk (R208). A reservation that was to shrink does so once
RESIDENT allows it (R198). -/
def reevaluate (s : State) : State :=
  let s0 := { s with
    comms := tmap {} s.comms (fun _ c =>
      if c.resvNew < c.resv && decide (c.resident ≤ c.resvNew) then { c with resv := c.resvNew } else c)
    cms := { s.cms with dCap := dCap s } }
  reevalWalk (walkOrder s0) [] (s0.cms.dCap * 1048576) s0

/-- A trigger of R208 is raised; RE_EVALUATION handles it. One that arrives while one is pending
causes one further re-evaluation. -/
def trigger (s : State) : State :=
  if (liveComms s).isEmpty then { s with cms := { s.cms with dCap := dCap s } }
  else if s.cms.reeval then { s with cms := { s.cms with again := true } }
  else { s with cms := { s.cms with reeval := true } }

end Sys2Proof.Machine
end

