-- ==== Sys2Proof/Machine/BufOps.lean ====
section
/-! DEFINITION. The buffer pool manager's operations (R281 to R292): regions, chunks, the reserve
gates of R205, R206 and R209, allocation with its one-class fallback, and the free. -/

namespace Sys2Proof.Machine

/-- Size in bytes of pool class 0 to 4 (R281). -/
def clsBytes (c : Nat) : Nat := 4096 * 4 ^ c

/-- Sectors a buffer of a class holds at a format's stride (R285). -/
def clsSectors (fmt c : Nat) : Nat :=
  match fmt with
  | 0 => 4 ^ c
  | 1 => [0, 3, 15, 63, 255].getD c 0
  | _ => [0, 3, 15, 63, 252].getD c 0

/-- The key of buffer `i` of class `c` of niche `n`. -/
def bk (n c i : Nat) : Nat := (n * 8 + c) * 65536 + i
def bkNiche (k : Nat) : Nat := k / 65536 / 8
def bkCls (k : Nat) : Nat := k / 65536 % 8

/-- Buffers in a niche's region of a class (R282, R283). -/
def poolTotal (s : State) (n c : Nat) : Nat :=
  if s.boot.maquette then (if n == 0 && c == 0 then 512 else 0)
  else (nicheCfg s n).pools.getD c 0

/-- Buffers allocated in a region. -/
def poolUsed (s : State) (n c : Nat) : Nat :=
  (s.pool.bufs.filter (fun kv => kv.1 / 65536 == n * 8 + c)).length

def poolFree (s : State) (n c : Nat) : Nat := poolTotal s n c - poolUsed s n c

/-- Whether a niche has a pool set (R282, R283). -/
def hasPool (s : State) (n : Nat) : Bool :=
  nicheValid s n && (List.range 5).any (fun c => poolTotal s n c != 0)

/-- Pool address of a region in 4 KiB units (R282): the larger classes first, then by rising niche. -/
def poolBase (s : State) (n c : Nat) : Nat :=
  sumBy (fun d => if c < d then sumBy (fun i => poolTotal s i d * 4 ^ d) (List.range 64)
    else if d == c then sumBy (fun i => poolTotal s i d * 4 ^ d) (List.range n) else 0) (List.range 5)

/-! ### The bitmap and its summaries (R286, R287) -/

/-- Bit `i` of a region's bitmap: the buffer is free. -/
def freeBit (s : State) (n c i : Nat) : Bool :=
  decide (i < poolTotal s n c) && !(s.pool.bufs.any (fun kv => kv.1 == bk n c i))

/-- Bit `w` of the level-1 summary: bitmap word `w` has a free bit. -/
def level1 (s : State) (n c w : Nat) : Bool := (List.range 64).any (fun j => freeBit s n c (64 * w + j))

/-- Bit `v` of the level-2 summary: level-1 word `v` has a set bit. -/
def level2 (s : State) (n c v : Nat) : Bool := (List.range 64).any (fun j => level1 s n c (64 * v + j))

/-- The lowest place below `m` where a bit is set. -/
def lowestBit (m : Nat) (f : Nat → Bool) : Nat := ((List.range m).find? f).getD 0

/-- The lowest free buffer of a region, found through the summaries (R287 steps 2 to 4). -/
def lowestFree (s : State) (n c : Nat) : Nat :=
  let v := lowestBit 14 (level2 s n c)
  let w := 64 * v + lowestBit 64 (fun j => level1 s n c (64 * v + j))
  64 * w + lowestBit 64 (fun j => freeBit s n c (64 * w + j))

/-! ### Owners (R286, R290)

An owner is a command by its serial number, the Recast engine by the row it copies, a collection by its slot, the control
island by its request, or stripe assembly by the stripe. Its 16-bit identifier is the lowest that no owner of a buffer
has (DESIGN CHOICE, notes/assumptions/39.md). -/

def copyOwner (key : Nat) : Nat := 2 ^ 40 + key
def gcOwner (i : Nat) : Nat := 2 ^ 41 + i
def ctlOwner (num : Nat) : Nat := 2 ^ 42 + num
def stripeOwner (sid : Nat) : Nat := 2 ^ 43 + sid

/-- The identifier of an owner, 0 of one that owns no buffer. -/
def identOf (s : State) (owner : Nat) : Nat := tget 0 s.pool.ids owner

/-- An owner has an identifier. -/
def withIdent (s : State) (owner : Nat) : State :=
  if identOf s owner != 0 then s
  else
    let i := ((List.range' 1 65535).find? (fun i => !(s.pool.ids.any (fun kv => kv.2 == i)))).getD 0
    { s with pool := { s.pool with ids := tset 0 s.pool.ids owner i } }

/-- The identifiers of owners without a buffer are free again. -/
def pruneIds (s : State) : State :=
  { s with pool := { s.pool with
    ids := tdrop s.pool.ids (fun _ i => !(s.pool.bufs.any (fun kv => kv.2.owner == i))) } }

/-- The buffers of an owner. -/
def ownedBufs (s : State) (owner : Nat) : List Nat :=
  let i := identOf s owner
  if i == 0 then [] else tkeys s.pool.bufs (fun _ b => b.owner == i)

/-- Whether an identifier is that of a stripe. -/
def stripeIdent (s : State) (i : Nat) : Bool :=
  s.pool.ids.any (fun kv => kv.2 == i && decide (stripeOwner 0 ≤ kv.1))

/-- Buffer `k` passes to an owner, with the sectors of stripes it holds (R290). -/
def passBuf (s : State) (k owner : Nat) (parts : List (Nat × Nat × Nat)) : State :=
  let t := withIdent s owner
  pruneIds { t with pool := { t.pool with
    bufs := tset {} t.pool.bufs k { tget ({} : Buf) t.pool.bufs k with owner := identOf t owner, parts := parts } } }

/-- Free bytes of a niche's bulk classes. -/
def freeBulk (s : State) (n : Nat) : Nat :=
  poolFree s n 2 * 65536 + poolFree s n 3 * 262144 + poolFree s n 4 * 1048576

/-- max(0, RESV_EFF − RESIDENT) of a commission. -/
def unfilled (c : Comm) : Nat := c.resvEff - c.resident

/-- Σ max(0, RESV_EFF − RESIDENT) over a niche's live commissions, `skip` apart (R205, R209). -/
def outstanding (s : State) (n : Nat) (skip : Option Nat) : Nat :=
  sumBy (fun h => unfilled (getComm s h)) ((liveOf s n).filter (fun h => some h != skip))

/-- The same over the device (R206). -/
def outstandingAll (s : State) : Nat := sumBy (fun h => unfilled (getComm s h)) (liveComms s)

/-- Dirty bytes of all niches (R292). -/
def dirtyBytes (s : State) : Nat :=
  sumBy (fun kv : Nat × Buf => if kv.2.dirty then clsBytes (bkCls kv.1) else 0) s.pool.bufs

/-- The class an allocation takes: its first choice, or one class up (R287). -/
def pickClass (s : State) (n c : Nat) : Option Nat :=
  if poolFree s n c > 0 then some c
  else if c < 4 && decide (poolFree s n (c + 1) > 0) then some (c + 1) else none

/-- Whether the reserve gates let an allocation of class `c` pass (R205, R206, R209). `conf` is the
commission of a conforming write, `breached` whether it must take non-reserved space. -/
def gate (s : State) (n c : Nat) (dirty : Bool) (conf : Option Nat) (breached : Bool) : Bool :=
  let size := clsBytes c
  match conf with
  | some h => !breached || decide (outstanding s n (some h) + size ≤ freeBulk s n)
  | none =>
    (decide (c < 2) || decide (outstanding s n none + size ≤ freeBulk s n)) &&
      (!dirty || degraded s || decide (dirtyBytes s + size + outstandingAll s ≤ s.cms.dCap * 1048576))

/-- The counters of a region after its free count became `f` (R293). -/
def minFreeTo (v : PoolCnt) (f : Nat) : PoolCnt :=
  { v with minFree := some (match v.minFree with | none => f | some m => min m f) }

/-- The lowest free buffer of a region taken by an owner (R287, R290, R292). -/
def takeBuf (s : State) (n c want owner : Nat) (dirty : Bool) (conf : Option Nat) :
    State × Nat :=
  let i := lowestFree s n c
  let s0 := withIdent s owner
  let s1 := { s0 with pool := { s0.pool with
    bufs := tset {} s0.pool.bufs (bk n c i)
      { used := true, owner := identOf s0 owner, addr := poolBase s n c * 4096 + i * clsBytes c, dirty := dirty, conf := conf
        parts := [] } } }
  let v := minFreeTo (tget {} s1.pool.cnt (n * 8 + c)) (poolFree s1 n c)
  let v1 := if c == want then v else { v with fallbacks := satAdd 16 v.fallbacks 1 }
  let s2 := { s1 with pool := { s1.pool with cnt := tset {} s1.pool.cnt (n * 8 + c) v1 } }
  let s3 := match conf with
    | none => s2
    | some h =>
      let m := getComm s2 h
      setComm s2 h { m with resident := m.resident + clsBytes c
                            peak := max m.peak (m.resident + clsBytes c) }
  (s3, bk n c i)

/-- The breach of a commission: a conforming allocation of `size` would raise RESIDENT above
RESV_EFF (R207, R209). -/
def breachIf (s : State) (h size : Nat) : State :=
  let m := getComm s h
  if (m.st == .live || m.st == .atRisk) && decide (m.resvEff < m.resident + size) then
    commEvent (setComm s h { m with st := .breached }) h 2
  else s

/-- One allocation request of first-choice class `c` (R287): the buffer, or a failed request. The class the
buffer is of decides whether it would breach the commission (R209); where neither class has one free, the
first choice does. -/
def allocate (s : State) (n c owner : Nat) (dirty : Bool) (conf : Option Nat) :
    State × Option Nat :=
  let k := pickClass s n c
  let size := clsBytes (k.getD c)
  let s0 := match conf with | some h => breachIf s h size | none => s
  let past := match conf with
    | some h => decide ((getComm s0 h).resvEff < (getComm s0 h).resident + size)
    | none => false
  match k with
  | some k =>
    if gate s0 n k dirty conf past then
      let r := takeBuf s0 n k c owner dirty conf
      (r.1, some r.2)
    else (failed s0, none)
  | none => (failed s0, none)
where
  failed (s : State) : State :=
    let v := tget ({} : PoolCnt) s.pool.cnt (n * 8 + c)
    { s with pool := { s.pool with cnt := tset {} s.pool.cnt (n * 8 + c) { v with fails := satAdd 16 v.fails 1 } } }

/-- A reservation that was to shrink does so once RESIDENT has fallen to it (R198). -/
def shrinkResv (c : Comm) : Comm :=
  if c.resvNew < c.resv && decide (c.resident ≤ c.resvNew) then
    { c with resv := c.resvNew, resvEff := min c.resvEff c.resvNew } else c

/-- The free of an allocated buffer (R288, R292). -/
def releaseBuf (s : State) (k : Nat) : State :=
  let b := tget ({} : Buf) s.pool.bufs k
  if !b.used then s
  else
    let s1 := pruneIds { s with pool := { s.pool with bufs := tset {} s.pool.bufs k {} } }
    match b.conf with
    | none => s1
    | some h =>
      let m := getComm s1 h
      setComm s1 h (shrinkResv { m with resident := m.resident - clsBytes (bkCls k) })

def releaseBufs (s : State) (l : List Nat) : State := l.foldl releaseBuf s

/-- A requester parks at the end of its niche's list, that of conforming writes or the other (R289). -/
def parkOn (s : State) (n owner : Nat) (conf : Bool) : State :=
  let v := getNch s n
  if conf then setNch s n { v with parkConf := if v.parkConf.contains owner then v.parkConf else v.parkConf ++ [owner] }
  else setNch s n { v with parkOther := if v.parkOther.contains owner then v.parkOther else v.parkOther ++ [owner] }

/-- Take a requester off its niche's park lists. -/
def unpark (s : State) (n i : Nat) : State :=
  let v := getNch s n
  setNch s n { v with parkConf := v.parkConf.erase i, parkOther := v.parkOther.erase i }

/-- Every buffer of an owner is freed, and it is parked nowhere any more. -/
def freeOwned (s : State) (owner : Nat) : State :=
  let s1 := releaseBufs s (ownedBufs s owner)
  (tkeys s1.niches (fun _ v => v.parkOther.contains owner)).foldl (fun a n => unpark a n owner) s1

/-- The free port's check (R291): a double free or a foreign owner is refused and recorded; `owner` is the identifier of
the requester. -/
def freeBuf (s : State) (n c i owner : Nat) : State :=
  let b := tget ({} : Buf) s.pool.bufs (bk n c i)
  if b.used && b.owner == owner then releaseBuf s (bk n c i)
  else
    let kind := if b.used then 1 else 0
    let s1 := { s with pool := { s.pool with
      badFree := satAdd 16 s.pool.badFree 1, badNiche := n, badClass := c, badKind := kind } }
    devRec (glbSet s1 4) 0x60 6 c 0 kind

/-- Cut a piece of `m` sectors into chunks of (class, sectors) (R284, R285): the largest allowed
class that does not exceed the remainder, then the smallest that holds the rest. -/
def chunks (fmt lo : Nat) : Nat → Nat → List (Nat × Nat)
  | 0, _ => []
  | fuel + 1, m =>
    if m == 0 then []
    else
      let allowed := (List.range 5).filter (fun c => decide (lo ≤ c) && decide (0 < clsSectors fmt c))
      match (allowed.filter (fun c => decide (clsSectors fmt c ≤ m))).getLast? with
      | some c => (c, clsSectors fmt c) :: chunks fmt lo fuel (m - clsSectors fmt c)
      | none =>
        match allowed.find? (fun c => decide (m ≤ clsSectors fmt c)) with
        | some c => [(c, m)]
        | none => []

/-- The pieces of `n` sectors of a zoned command (R284): they end at stripe boundaries and after
1 MiB of data. `room` are the sectors left in the stripes the command reaches, in order. -/
def pieces : Nat → List Nat → Nat → List Nat
  | 0, _, _ => []
  | fuel + 1, room, n =>
    if n == 0 then []
    else match room with
      | [] => let p := min n 256; p :: pieces fuel [] (n - p)
      | r :: rest =>
        if r == 0 then pieces fuel rest n
        else let p := min (min n 256) r; p :: pieces fuel ((r - p) :: rest) (n - p)

/-- The allocation requests of a command's data (R284). -/
def requests (fmt : Nat) (conforming : Bool) (room : List Nat) (n : Nat) : List (Nat × Nat) :=
  (pieces (2 * n + room.length + 1) room n).flatMap
    (fun p => chunks fmt (if conforming then 2 else 0) (p + 1) p)

/-! ### Requests of the control island (R285, R289)

An admin command's data goes through buffers of its niche. Its effect stands as it is executed; where a request fails,
the completion waits for the buffers (DESIGN CHOICE, notes/assumptions/18.md). -/

/-- The requests of an owner in order, until one fails: what is left of them. -/
def ctlTake (n owner : Nat) : State → List (Nat × Nat) → State × List (Nat × Nat)
  | s, [] => (s, [])
  | s, (cls, m) :: rest =>
    let q := allocate s n cls owner false none
    if q.2.isSome then ctlTake n owner q.1 rest else (q.1, (cls, m) :: rest)

/-- Whether entry `num` of the control island is parked. -/
def ctlParked (s : State) (n num : Nat) : Bool := (getNch s n).parkOther.contains (ctlOwner num)

/-- Whether the control island may issue a request in niche `n`: fewer than 64 are in use and no head of the niche's
non-conforming list is parked (R289). -/
def mayIssue (s : State) (n : Nat) : Bool :=
  (getNch s n).parkOther.isEmpty && decide ((s.pool.ctl.filter (fun y => ctlParked s y.niche y.num)).length < 64)

/-- The requests an admin command with `len` bytes of data makes (R285); none in a niche whose pool set has no class that
could ever meet them. -/
def ctlWant (s : State) (n len : Nat) : List (Nat × Nat) :=
  let l := requests 0 false [] ((len + 4095) / 4096)
  if l.any (fun x => poolTotal s n x.1 == 0 && poolTotal s n (x.1 + 1) == 0) then [] else l

/-- An entry leaves the table: its buffers are freed. -/
def dropCtl (s : State) (r : CtlReq) : State :=
  let s1 := freeOwned s (ctlOwner r.num)
  { s1 with pool := { s1.pool with ctl := s1.pool.ctl.filter (fun y => y.num != r.num) } }

/-- A waiting entry makes its requests: met, its completion is scheduled and its buffers are freed; the one that fails
parks it. -/
def serveCtl (s : State) (r : CtlReq) : State :=
  let q := ctlTake r.niche (ctlOwner r.num) s r.want
  if q.2.isEmpty then
    let t := dropCtl q.1 r
    let k := qk r.c 0
    setCq t k { getCq t k with waiting := (getCq t k).waiting ++ [r.cqe] }
  else
    parkOn { q.1 with pool := { q.1.pool with
      ctl := q.1.pool.ctl.map (fun y => if y.num == r.num then { y with want := q.2 } else y) } } r.niche (ctlOwner r.num) false

/-- The entries of the control island that have issued no request yet do so in order (R289). -/
def issueCtl (s : State) : State :=
  s.pool.ctl.foldl (fun a r => if ctlParked a r.niche r.num || !(mayIssue a r.niche) then a else serveCtl a r) s

/-- The completion of command `cid` waits for the buffers `want` still stands for. -/
def withhold (c cid n : Nat) (want : List (Nat × Nat)) (parks : Bool) (s : State) : State :=
  let k := qk c 0
  match (getCq s k).waiting.reverse.find? (fun e => e.sq == 0 && e.cid == cid) with
  | none => freeOwned s (ctlOwner s.pool.nextCtl)
  | some e =>
    let r : CtlReq := { num := s.pool.nextCtl, c := c, niche := n, want := want, cqe := e }
    let t := setCq s k { getCq s k with waiting := (getCq s k).waiting.erase e }
    let u := { t with pool := { t.pool with ctl := t.pool.ctl ++ [r], nextCtl := t.pool.nextCtl + 1 } }
    if parks then parkOn u n (ctlOwner r.num) false else u

/-- What the control island's requests for `len` bytes of data of an admin command of controller `c` come to: the state
after them, and what is left of them. -/
def ctlAsk (s : State) (c len : Nat) : State × List (Nat × Nat) :=
  let n := (nicheOf s c).getD 0
  let want := ctlWant s n len
  if want.isEmpty then (s, [])
  else if mayIssue s n then ctlTake n (ctlOwner s.pool.nextCtl) s want
  else (s, want)

/-- Whether they are met at once. -/
def ctlMet (s : State) (c len : Nat) : Bool := (ctlAsk s c len).2.isEmpty

/-- The state once the buffers of an admin command's data have come and gone. -/
def ctlServed (s : State) (c len : Nat) : State :=
  if (ctlWant s ((nicheOf s c).getD 0) len).isEmpty then s
  else freeOwned (ctlAsk s c len).1 (ctlOwner s.pool.nextCtl)

/-- An admin command with `len` bytes of data: `body` is its effect, and its completion waits for the buffers of its data
where these are not to be had (R285, R289). -/
def ctlData (c cid len : Nat) (body : State → State) (s : State) : State :=
  let q := ctlAsk s c len
  if q.2.isEmpty then body (ctlServed s c len)
  else
    let n := (nicheOf s c).getD 0
    withhold c cid n q.2 (mayIssue s n) (body q.1)

end Sys2Proof.Machine
end

