-- ==== Sys2Proof/Machine/ZoneOps.lean ====
section
/-! DEFINITION. Zones, rows and stripes (R160 to R188, R259 to R264, R277 to R280): binding and
unbinding rows, filling stripes, pads, the ends of a zone, lost sectors, data loss, the read-only
niche, and the buffers of a stripe. -/

namespace Sys2Proof.Machine

/-- Whether a stripe counts as commissioned: a live commission writes its zone (R221). -/
def commStripe (s : State) (x : Stripe) : Bool :=
  match x.comm with | some h => commLive (getComm s h) | none => false

/-! ### Rows (R164, R165, R188) -/

/-- The rows of rank `k` owned by niche `n` whose state satisfies `p`, among those the table lists. -/
def listedRows (s : State) (n k : Nat) (p : RowSt → Bool) : List Nat :=
  let r := rowRange s n k
  (tkeys s.rows (fun key v => key / 8192 == k && decide (r.1 ≤ key % 8192) &&
    decide (key % 8192 < r.1 + r.2) && p v.st)).map (· % 8192)

/-- Erased rows of niche `n` on rank `k`; a row no entry lists is erased. -/
def erasedCount (s : State) (n k : Nat) : Nat :=
  (rowRange s n k).2 - (listedRows s n k (fun st => st != .erased)).length

/-- The lowest-numbered erased row of niche `n` on rank `k`. -/
def firstErased (s : State) (n k : Nat) : Option Nat :=
  let r := rowRange s n k
  tfree ((listedRows s n k (fun st => st != .erased)).map (fun i => (i, ()))) r.2 r.1

/-- Erase-pending rows, those whose erase runs included. -/
def pendingRows (s : State) (n k : Nat) : List Nat :=
  listedRows s n k (fun st => st == .pending || st == .erasing)

/-- The aligned groups of `w` ranks in niche `n`'s rank set, by group number (R165). -/
def groupsOf (s : State) (n w : Nat) : List Nat :=
  let m := (nicheCfg s n).rankSet
  if w == 0 then []
  else (List.range (32 / w)).filter (fun g => (List.range w).all (fun j => bitOf m (g * w + j)))

/-- What a bind finds: the rows, the erases it must wait for, or no group (R165, R188). -/
inductive Bind where
  | rows (l : List (Nat × Nat))
  | wait (l : List (Nat × Nat))
  | none
  deriving DecidableEq, Repr

/-- R165: the group with the largest least count of erased rows, lowest group number on a tie. -/
def bindPlan (s : State) (n w : Nat) : Bind :=
  let ranks := fun g => (List.range w).map (fun j => g * w + j)
  let gs := groupsOf s n w
  let most := fun g => minBy (erasedCount s n) 0 (ranks g)
  match argMin (fun g => 8192 - most g) (gs.filter (fun g => decide (0 < most g))) with
  | some g => .rows ((ranks g).map (fun k => (k, (firstErased s n k).getD 0)))
  | none =>
    match gs.find? (fun g => (ranks g).all (fun k =>
      decide (0 < erasedCount s n k + (pendingRows s n k).length))) with
    | some g => .wait (((ranks g).filter (fun k => erasedCount s n k == 0)).map
        (fun k => (k, (pendingRows s n k).headD 0)))
    | none => .none

/-- One more record waits in the map-delta journal (R179, R349). -/
def journal (s : State) : State := { s with plinth := { s.plinth with jrnl := s.plinth.jrnl + 1 } }

/-- A row is bound: its layout is fixed from the rank's healthy dies (R260). -/
def bindRow (s : State) (slot : Nat) (zone : Option Nat) (pos : Nat) (kr : Nat × Nat) : State :=
  setRow (journal s) (rk kr.1 kr.2)
    { st := .bound, slot := slot, zone := zone, pos := pos, chmask := maskOf (healthy s kr.1), p := 2
      d := nk s kr.1 - 2, seq := s.sched.seqNo }

/-- Bind the rows of a list at positions from `pos` on. -/
def bindRows (s : State) (slot : Nat) (zone : Option Nat) : Nat → List (Nat × Nat) → State
  | _, [] => s
  | pos, kr :: t => bindRows (bindRow s slot zone pos kr) slot zone (pos + 1) t

/-- Data sectors of a stripe of row (k, r) of niche `n` (R260). -/
def rowStripeCap (s : State) (n : Nat) (kr : Nat × Nat) : Nat :=
  stripeCap (selfDescOf s n) (getRow s (rk kr.1 kr.2)).d

/-- Zone `z` of slot `i` takes the rows `l` (R165, R278). -/
def zoneBind (s : State) (i z : Nat) (l : List (Nat × Nat)) : State :=
  let n := (getNs s i).attr.niche
  let s1 := bindRows s i (some z) 0 l
  let cap := sumBy (fun kr => stripesPerRow s1 * rowStripeCap s1 n kr) l
  let v := getZone s1 (zk i z)
  let s2 := setZone s1 (zk i z) { v with
    wp := 0, rows := l, zcap := cap, waste := 0, pads := [], npad := 0, nstripe := 0, fill := none }
  if cap == zcap0 s2 (getNs s2 i).attr then s2 else zoneChanged s2 i z

/-- ZCAP in force of zone `z` of slot `i` (R160, R278). -/
def zcapOf (s : State) (i z : Nat) : Nat :=
  let v := getZone s (zk i z)
  if v.rows.isEmpty then zcap0 s (getNs s i).attr else v.zcap

/-- WEND relative to the zone's start (R173). -/
def wendOf (s : State) (i z : Nat) : Nat := zcapOf s i z - (getZone s (zk i z)).waste

/-! ### Buffers of stripes (R31, R290) -/

/-- Whether every data unit that holds the sectors of a part has been released; a stripe that is
gone holds none. -/
def partReleased (s : State) (p : Nat × Nat × Nat) : Bool :=
  let x := getStripe s p.1
  (List.range p.2.2).all (fun j => bitOf x.released (chanOfPos s x (p.2.1 + j)))
    || !(s.stripes.any (fun kv => kv.1 == p.1))

/-- Free the stripe-assembly buffers whose every part is released (R290). -/
def sweepBufs (s : State) (sid : Nat) : State :=
  releaseBufs s (tkeys s.pool.bufs (fun _ b => stripeIdent s b.owner && b.parts.any (fun p => p.1 == sid) &&
    b.parts.all (partReleased s)))

/-- A stripe that will never be loaded is discarded and its buffers freed (R29, R187). -/
def discardStripe (s : State) (sid : Nat) : State :=
  let s1 := { s with stripes := tdrop s.stripes (fun k _ => k == sid) }
  sweepBufs s1 sid

/-! ### The blocks of a row (R19, R262, R274 to R276) -/

/-- The die with row `r` mapped to block `b`. -/
def withBlock (r b : Nat) (d : Die) : Die :=
  { d with remap := tset none d.remap r (if b == r then none else some b) }

/-- A row's stripes on a die from `t` on go to spare `b` (R262 step 2). -/
def splitBlock (r t b : Nat) (d : Die) : Die :=
  { d with moved := tset [] d.moved r (tget [] d.moved r ++ [(t, b)]) }

/-- Spare `b` replaces the row's block, which is retired (R275, R276). -/
def replaceBlock (r b : Nat) (d : Die) : Die := withBlock r b { d with bad := d.bad ++ [blockOf d r] }

/-- The row's block on one die is released for erase: blocks that failed under a split record are retired,
the last spare stays the row's block (R262, R274). -/
def releaseBlock (r : Nat) (d : Die) : Die :=
  match (tget [] d.moved r).reverse with
  | [] => d
  | (_, b) :: old => withBlock r b
      { d with bad := d.bad ++ blockOf d r :: old.reverse.map (·.2), moved := tset [] d.moved r [] }

/-- The remap entries of rows `r` and `f` are exchanged and `f`'s block, the former source, is released
(R274). -/
def swapBlocks (r f : Nat) (d : Die) : Die :=
  let e := withBlock f (blockOf d r) (withBlock r (blockOf d f) d)
  releaseBlock f { e with moved := tset [] (tset [] e.moved f (tget [] e.moved r)) r [] }

/-- A change of every die of rank `k`. -/
def mapRank (s : State) (k : Nat) (f : Die → Die) : State :=
  { s with dies := tmap {} s.dies (fun key d => if key % 32 == k then f d else d) }

/-- An erase-pending row, from now on (R187, R226). -/
def pendRow (s : State) : Row := { ({} : Row) with st := .pending, queuedUs := s.opUs }

/-- A row leaves its zone or region: its stripes not yet granted are discarded, those in flight end
by themselves, and its state becomes `st`; erase-pending only once every program issued to it has ended
(R164, R187). -/
def unbindRow (st : RowSt) (s : State) (kr : Nat × Nat) : State :=
  let flight := fun p : SPhase => p == .granted || p == .issued
  let s1 := ((stripesOfRow s kr.1 kr.2).filter (fun i => !(flight (getStripe s i).phase))).foldl
    discardStripe s
  let f := (getRow s1 (rk kr.1 kr.2)).dest
  let st1 := if st == .pending && !(stripesOfRow s1 kr.1 kr.2).isEmpty then .leaving else st
  let s2 := mapRank (setRow (journal s1) (rk kr.1 kr.2) { pendRow s1 with st := st1 }) kr.1 (releaseBlock kr.2)
  let s3 := if st1 == .erased then setRow s2 (rk kr.1 kr.2) {} else s2
  let s4 := freeOwned s3 (copyOwner (rk kr.1 kr.2))
  match f with
  | some g => setRow s4 (rk kr.1 g) (pendRow s4)
  | none => s4

def unbindRows (s : State) (st : RowSt) (l : List (Nat × Nat)) : State := l.foldl (unbindRow st) s

/-! ### Filling stripes -/

/-- A new filling stripe on row (k, r) at stripe number `t` (R260, R261). -/
def openStripe (s : State) (i : Nat) (zone : Option Nat) (gc : Bool) (kr : Nat × Nat) (t : Nat) :
    State × Nat :=
  let r := getRow s (rk kr.1 kr.2)
  let n := (getNs s i).attr.niche
  let out := r.splits.filter (fun x => x.2.2 == 1 && decide (x.2.1 < t))
  let m := maskOf ((chIn r.chmask).filter (fun c => !(out.any (fun x => x.1 == c))))
  let cap := stripeCap (selfDescOf s n) r.d
  let sid := s.sched.nextStripe
  let x : Stripe := { niche := n, slot := i, zone := zone, gc := gc, rank := kr.1, row := kr.2, t := t
                      chmask := m, p := r.p - out.length, fmt := (getNs s i).fmt
                      dcap := if zone.isNone then cap - 4 else cap, phase := .filling }
  (setStripe { s with sched := { s.sched with nextStripe := sid + 1 } } sid x, sid)

/-- E(s) in ns of a commissioned stripe of `bytes` bytes complete now (R221): rounded up to 1 ns; the
commission's first stripe has no predecessor. -/
def eligibility (c : Comm) (nowNs bytes : Nat) : Nat :=
  match c.lastE with
  | some e => max nowNs (e + ceilDiv (bytes * 1000) c.rate)
  | none => nowNs

/-- A stripe is complete, filled or padded (R21, R171, R221). -/
def completeStripe (s : State) (sid : Nat) (padded : Bool) : State :=
  let x := getStripe s sid
  let now := s.nowUs * 1000
  let y := { x with phase := .complete, padded := padded, bytes := x.valid * 4096 }
  match x.comm with
  | some h =>
    let c := getComm s h
    if commLive c then
      let e := eligibility c now y.bytes
      setComm (setStripe s sid { y with
        eligNs := e, dlNs := e + (s.arm.cfg.geom.tProg + 1000) * 1000 }) h { c with lastE := some e }
    else setStripe s sid y
  | none => setStripe s sid y

/-- The open row of a conventional slot, host or collection (R182). -/
def openRow (v : Ns) (gc : Bool) : Option (Nat × Nat) := if gc then v.gcRow else v.hostRow
def withOpenRow (v : Ns) (gc : Bool) (r : Option (Nat × Nat)) : Ns :=
  if gc then { v with gcRow := r } else { v with hostRow := r }
def fillOf (v : Ns) (gc : Bool) : Option Nat := if gc then v.gcFill else v.fill
def withFill (v : Ns) (gc : Bool) (f : Option Nat) : Ns :=
  if gc then { v with gcFill := f } else { v with fill := f }

/-- The rows a conventional slot holds (R164, R182). -/
def fineHeld (s : State) (i : Nat) : List Nat :=
  tkeys s.rows (fun _ r => r.st == .bound && r.slot == i && r.zone.isNone && !r.recastDst)

/-- The open rows of a conventional slot: the host's, the one it has taken to follow that, the collection's. -/
def openRows (v : Ns) : List (Nat × Nat) := v.hostRow.toList ++ v.nextRow.toList ++ v.gcRow.toList

/-- Whether the newest content of some LBA lies in a row. -/
def rowValid (s : State) (key : Nat) : Bool :=
  s.sectors.any (fun kv => kv.2.sid != 0 && rk (getStripe s kv.2.sid).rank (getStripe s kv.2.sid).row == key)

/-- H: the rows with valid data and the open rows (R182). -/
def fineH (s : State) (i : Nat) : Nat :=
  ((fineHeld s i).filter (fun key => (openRows (getNs s i)).contains (key / 8192, key % 8192) || rowValid s key)).length

/-- A conventional slot takes a new open row if one is erased (R164, R165, R182): for the host only while H is below
R_F; the row a collection fills may be one more (DEDUCED, notes/assumptions/18.md). The host's is the one to follow its open row
where it has one. -/
def takeFineRow (s : State) (i : Nat) (gc : Bool) : State :=
  let v := getNs s i
  if !gc && decide (fineRows s v.attr ≤ fineH s i) then s
  else match bindPlan s v.attr.niche 1 with
    | .rows [kr] =>
      setNs (bindRow s i none 0 kr) i
        (if !gc && v.hostRow.isSome then { v with nextRow := some kr } else withOpenRow v gc (some kr))
    | _ => s

/-- The open row a sector goes to: the host's next row follows a full one, else a new one is taken. -/
def readyRow (s : State) (i : Nat) (gc : Bool) : State :=
  let v := getNs s i
  if (openRow v gc).isSome then s
  else if !gc && v.nextRow.isSome then setNs s i { v with hostRow := v.nextRow, nextRow := none }
  else takeFineRow s i gc

/-- The filling stripe a sector of slot `i` goes to, opened when there is none. -/
def fillStripe (s : State) (i : Nat) (zone : Option Nat) (gc : Bool) : State × Option Nat :=
  match zone with
  | some z =>
    let v := getZone s (zk i z)
    match v.fill with
    | some f => (s, some f)
    | none =>
      let w := v.rows.length
      match v.rows[v.nstripe % w]? with
      | none => (s, none)
      | some kr =>
        let r := openStripe s i zone false kr (v.nstripe / w)
        (setZone r.1 (zk i z) { v with fill := some r.2 }, some r.2)
  | none =>
    let v := getNs s i
    match fillOf v gc with
    | some f => (s, some f)
    | none =>
      let s1 := readyRow s i gc
      let v1 := getNs s1 i
      match openRow v1 gc with
      | none => (s1, none)
      | some kr =>
        let r := openStripe s1 i none gc kr (stripesOfRow s1 kr.1 kr.2).length
        (setNs r.1 i (withFill v1 gc (some r.2)), some r.2)

/-- What follows the completion of the filling stripe of a zone or a fine region: the next stripe
opens with the next sector, and a full open row is closed (R182). -/
def endFill (s : State) (i : Nat) (zone : Option Nat) (gc : Bool) : State :=
  match zone with
  | some z =>
    let v := getZone s (zk i z)
    setZone s (zk i z) { v with fill := none, nstripe := v.nstripe + 1 }
  | none =>
    let v := getNs s i
    let full := match openRow v gc with
      | some kr => decide (stripesPerRow s ≤ (stripesOfRow s kr.1 kr.2).length)
      | none => false
    let v1 := withFill v gc none
    setNs s i (if full then withOpenRow v1 gc none else v1)

/-- What a command or a collection writes: the slot, the zone, whether it is a collection, the commission of
the zone's writer and the class of its programs (R220, R221). -/
structure Writer where
  slot : Nat
  zone : Option Nat
  gc : Bool := false
  comm : Option Nat := none
  cls : Nat := 2
  deriving DecidableEq, Repr

/-- The stripe with one more sector (R21, R290); the first sector fixes the stripe's zone offset and class, and
a Standard write in a Background stripe makes it Standard. -/
def addCell (w : Writer) (zs lba val seq : Nat) (x : Stripe) : Stripe :=
  { x with
    valid := x.valid + 1, comm := w.comm.orElse (fun _ => x.comm)
    cells := tset {} x.cells x.valid { lba := lba, val := val, seq := seq }
    zoff := if x.valid = 0 then (match w.zone with | some z => lba - z * zs | none => 0) else x.zoff
    cls := if x.valid = 0 then w.cls else min x.cls w.cls }

/-- One committed sector takes its place in stripe assembly (R29 step 9, R290). -/
def placeSector (s : State) (w : Writer) (lba val : Nat) : State × (Nat × Nat) :=
  let r := fillStripe s w.slot w.zone w.gc
  match r.2 with
  | none => (r.1, (0, 0))
  | some sid =>
    let x := getStripe r.1 sid
    let pos := x.valid
    let t := { r.1 with sched := { r.1.sched with commitNo := r.1.sched.commitNo + 1 } }
    let s1 := setStripe t sid (addCell w (zsze (getNs s w.slot).attr.zw) lba val t.sched.commitNo x)
    let s2 := { s1 with sectors := tset {} s1.sectors (lk w.slot lba) { sid := sid, pos := pos } }
    if pos + 1 == x.dcap then (endFill (completeStripe s2 sid false) w.slot w.zone w.gc, (sid, pos))
    else (s2, (sid, pos))

/-- The sectors of a command in order; answers the places they took. -/
def placeAll (w : Writer) : List (Nat × Nat) → State → State × List (Nat × Nat)
  | [], s => (s, [])
  | (lba, val) :: t, s =>
    let r := placeSector s w lba val
    let q := placeAll w t r.1
    (q.1, r.2 :: q.2)

/-- What is stored of a sector: its cell in the stripe it lies in. -/
def cellOf (s : State) (v : Sector) : Nat := (tget ({} : Cell) (getStripe s v.sid).cells v.pos).val

/-! ### Lost sectors, data loss (R167, R264, R270) -/

/-- An extent without the LBAs of `slot` from `lo` to `hi`. -/
def cutExtent (slot lo hi : Nat) (e : Nat × Nat × Nat) : List (Nat × Nat × Nat) :=
  if e.1 != slot || decide (e.2.2 < lo) || decide (hi < e.2.1) then [e]
  else (if e.2.1 < lo then [(e.1, e.2.1, lo - 1)] else []) ++
    (if hi < e.2.2 then [(e.1, hi + 1, e.2.2)] else [])

/-- The table of a niche without the LBAs of `slot` from `lo` to `hi`. -/
def cutLost (v : Nch) (slot lo hi : Nat) : Nch := { v with lost := v.lost.flatMap (cutExtent slot lo hi) }

/-- Whether an LBA range overlaps an extent of the table. -/
def lostHit (s : State) (slot lo hi : Nat) : Bool :=
  (getNch s (getNs s slot).attr.niche).lost.any
    (fun e => e.1 == slot && decide (lo ≤ e.2.2) && decide (e.2.1 ≤ hi))

/-- Rising LBAs as runs. -/
def runs : List Nat → List (Nat × Nat)
  | [] => []
  | a :: t =>
    match runs t with
    | (lo, hi) :: r => if a + 1 == lo then (a, hi) :: r else (a, a) :: (lo, hi) :: r
    | [] => [(a, a)]

/-! ### Closing by the device, read-only (R171, R211, R279) -/

/-- The end of a filling stripe by a terminal pad (R171). -/
def terminalPad (s : State) (i z : Nat) : State :=
  match (getZone s (zk i z)).fill with
  | some sid => endFill (completeStripe s sid true) i (some z) false
  | none => s

/-- Whether a zone's write slot is taken (R113). -/
def slotTaken (s : State) (i z : Nat) : Bool :=
  s.cmds.any (fun kv => kv.2.wslot && kv.2.slot == i && kv.2.zone == some z)

/-- Finish by the controller (R167): pad, Full, ZFC, Changed Zone List entry and event. -/
def finishByController (s : State) (i z : Nat) : State :=
  let s1 := terminalPad s i z
  let v := getZone s1 (zk i z)
  zoneChanged (setZone s1 (zk i z) { v with st := .full, zfc := true }) i z

/-- A finish by the controller takes the zone's write slot as a write does: it waits for the command that holds it
(R171). -/
def finishWhenFree (s : State) (i z : Nat) : State :=
  if slotTaken s i z then setZone s (zk i z) { getZone s (zk i z) with finPend := true } else finishByController s i z

def isOpen : ZSt → Bool
  | .implicit | .explicit => true
  | _ => false

def isActive : ZSt → Bool
  | .implicit | .explicit | .closed => true
  | _ => false

/-- An interior pad of a zone (R171, R173), or the terminal pad that replaces a fifth one in its map
unit. -/
def interiorPad (s : State) (i z : Nat) : State :=
  let v := getZone s (zk i z)
  match v.fill with
  | none => s
  | some sid =>
    let w := v.rows.length
    if (v.pads.filter (fun p => p.1 % w == v.nstripe % w)).length ≥ 4 then finishByController s i z
    else
      let x := getStripe s sid
      let s0 := setStripe s sid { x with interior := true }
      let s1 := journal (endFill (completeStripe s0 sid true) i (some z) false)
      let v1 := getZone s1 (zk i z)
      setZone s1 (zk i z) { v1 with
        pads := v1.pads ++ [(v.nstripe, x.valid)], npad := v1.npad + 1
        waste := v1.waste + (x.dcap - x.valid) }

/-- The GEN of zone `z` of slot `i` (R177, R178). -/
def genOf (s : State) (i z : Nat) : Nat := wrapAdd 32 (getNs s i).gen (getZone s (zk i z)).gen

/-- A pad of the filling stripe of a conventional region (R120). -/
def finePad (s : State) (i : Nat) (gc : Bool) : State :=
  match fillOf (getNs s i) gc with
  | some sid => endFill (completeStripe s sid true) i none gc
  | none => s

/-- The zones of slot `i` whose state satisfies `p`, rising. -/
def zonesWhere (s : State) (i : Nat) (p : Zone → Bool) : List Nat :=
  (tkeys s.zones (fun k v => k / 131072 == i && p v)).map (· % 131072)

/-- A commission is closed by the device with cause `why` (R207, R211). -/
def closeByDevice (s : State) (why h : Nat) : State :=
  let c := getComm s h
  if !(commLive c) then s
  else
    let s1 := { s with sqs := tmap {} s.sqs (fun _ q => if q.comm == some h then { q with comm := none } else q) }
    commEvent (setComm s1 h { c with st := .closed, close := why }) h 4

/-- A SMART / Health event (R156) on a niche's controllers; bit `b` of feature 0Bh enables it. -/
def smartEvent (s : State) (n b info : Nat) : State := raiseStd s (ctrlsOf s n) b ⟨1, info, 2⟩

/-- A niche becomes read-only for cause `why` of record 054h (R279). -/
def readOnlyNiche (s : State) (n why : Nat) : State :=
  if (getNch s n).readOnly then s
  else
    let s1 := (slotsOf s n).foldl (fun a i =>
      (zonesWhere a i (fun v => isActive v.st && v.fill.isSome)).foldl
        (fun b z => finishWhenFree b i z) a) s
    let s2 := (liveOf s1 n).foldl (fun a h => closeByDevice a 2 h) s1
    let s3 := nchSet (setNch s2 n { getNch s2 n with readOnly := true }) n 0
    nicheRec (smartEvent (mediaEvent s3 n) n 3 0) n 0x54 7 why

/-- A niche's lost-sector table becomes `v`'s; past 4,096 extents the table overflows: it keeps the first 4,096
and the niche goes read-only (R270, R279). -/
def putLost (s : State) (n : Nat) (v : Nch) : State :=
  if v.lost.length > 4096 then readOnlyNiche (setNch s n { v with lost := v.lost.take 4096 }) n 3
  else setNch s n v

/-- LBAs written again, reset, formatted or deleted leave the lost-sector table (R270). -/
def lostCut (s : State) (slot lo hi : Nat) : State :=
  let n := (getNs s slot).attr.niche
  putLost s n (cutLost (getNch s n) slot lo hi)

/-- LBAs enter the lost-sector table (R270). -/
def lostAdd (s : State) (slot : Nat) (lbas : List Nat) : State :=
  let n := (getNs s slot).attr.niche
  let v := (runs lbas).foldl (fun a r => let b := cutLost a slot r.1 r.2
    { b with lost := b.lost ++ [(slot, r.1, r.2)] }) (getNch s n)
  if lbas.isEmpty then s else putLost s n v

/-- The LBAs of slot `i` whose sectors lie in stripe `sid` at positions `p` holds of, rising. -/
def lbasOf (s : State) (sid : Nat) (p : Nat → Bool) : List (Nat × Nat) :=
  (tkeys s.sectors (fun _ v => v.sid == sid && p v.pos)).map
    (fun k => (k / 281474976710656, k % 281474976710656))

/-- Data of a zone is lost (R167): the filling stripe is discarded, its sectors are lost, ZSRO. -/
def zoneLost (s : State) (i z : Nat) : State :=
  let v := getZone s (zk i z)
  match v.st with
  | .implicit | .explicit | .closed | .full =>
    let s1 := match v.fill with
      | some sid => discardStripe (lostAdd s i ((lbasOf s sid (fun _ => true)).map (·.2))) sid
      | none => s
    zoneChanged (setZone s1 (zk i z) { getZone s1 (zk i z) with st := .readOnly, fill := none }) i z
  | _ => s

/-- The sectors of the missing data units of a stripe are lost (R264); those of a row that has left its zone
count for nothing. -/
def loseUnits (s : State) (sid : Nat) : State :=
  let x := getStripe s sid
  let bad := lbasOf s sid (fun p => bitOf x.erased (chanOfPos s x p))
  let s1 := setStripe s sid { x with lost := true }
  if (getRow s (rk x.rank x.row)).st != .bound then s1 else
  let s2 := lostAdd s1 x.slot (bad.map (·.2))
  match x.zone with
  | some z => zoneLost s2 x.slot z
  | none =>
    { s2 with
      sectors := bad.foldl (fun t b => tmod {} t (lk b.1 b.2) (fun v => { v with unc := true })) s2.sectors
      fine := bad.foldl (fun t b => tmod {} t (lk b.1 b.2) (fun v => { v with state := 2 })) s2.fine }

/-- An erasure in a stripe, and the loss once they exceed its parity (R262, R264). -/
def addErasure (s : State) (sid c : Nat) : State :=
  let x := getStripe s sid
  let y := { x with erased := setBit x.erased c }
  let s1 := setStripe s sid y
  if (chIn y.erased).length > y.p then loseUnits s1 sid else s1

/-! ### Collection mode of a fine region (R184) -/

/-- L (R184). -/
def gcLevel (s : State) (i : Nat) : Nat :=
  let a := (getNs s i).attr
  max 1 (ceilDiv (fineRows s a * (nicheCfg s a.niche).gcLow) 1000)

/-- Free = R_F − H (R182). -/
def fineFree (s : State) (i : Nat) : Nat := fineRows s (getNs s i).attr - fineH s i

/-- Foreground mode of a niche follows Free < L on any of its conventional slots; its credits lapse
when it ends (R184). -/
def refreshGc (s : State) (n : Nat) : State :=
  let fg := (slotsOf s n).any (fun i => !(getNs s i).attr.zoned && decide (fineFree s i < gcLevel s i))
  let v := getNch s n
  let s1 := setNch s n { v with fgGc := fg, credits := if fg then v.credits else 0 }
  if fg && !v.fgGc then nchSet s1 n 6 else s1

/-! ### The niche's zones as a host sees them -/

def openCount (s : State) (i : Nat) : Nat := (zonesWhere s i (fun v => isOpen v.st)).length
def activeCount (s : State) (i : Nat) : Nat := (zonesWhere s i (fun v => isActive v.st)).length

/-- Zone Reset's effect on one zone (R187). -/
def resetZone (s : State) (i z : Nat) : State :=
  let v := getZone s (zk i z)
  let zs := zsze (getNs s i).attr.zw
  let lo := z * zs
  let s1 := lostCut (unbindRows s .pending v.rows) i lo (lo + zs - 1)
  let inz := fun k : Nat => k / 281474976710656 == i && decide (lo ≤ k % 281474976710656) &&
    decide (k % 281474976710656 < lo + zs)
  let s2 := { s1 with
    sectors := tdrop s1.sectors (fun k _ => inz k)
    plinth := { s1.plinth with media := tdrop s1.plinth.media (fun k _ => inz k) } }
  setZone s2 (zk i z) { ({} : Zone) with gen := wrapAdd 32 v.gen 1, held := v.held }

/-- A zone is closed (R167). -/
def closeZone (s : State) (i z : Nat) : State :=
  let v := getZone s (zk i z)
  if v.wp == 0 then setZone (unbindRows s .erased v.rows) (zk i z) { ({} : Zone) with gen := v.gen, held := v.held }
  else setZone s (zk i z) { v with st := .closed }

/-- A zone is finished by the host or by a seal (R167). -/
def finishZone (s : State) (i z : Nat) : State :=
  let s1 := terminalPad s i z
  setZone s1 (zk i z) { getZone s1 (zk i z) with st := .full }

/-- The implicitly opened zone a start closes (R169): no command on it, the least recently written
first, one last written from a commission-bound SQ only if no other qualifies. -/
def implicitVictim (s : State) (i : Nat) : Option Nat :=
  let busy := fun z => s.cmds.any (fun kv => kv.2.phase == .started && kv.2.slot == i &&
    (kv.2.zone == some z || kv.2.lock && decide (z * zsze (getNs s i).attr.zw ≤ kv.2.hi ∧
      kv.2.lo < (z + 1) * zsze (getNs s i).attr.zw)))
  let zs := (zonesWhere s i (fun v => v.st == .implicit)).filter (fun z => !(busy z))
  let ofc := fun b => zs.filter (fun z => (getZone s (zk i z)).lastComm == b)
  let pick := argMin (fun z => (getZone s (zk i z)).lastUs)
  (pick (ofc false)).orElse (fun _ => pick (ofc true))

/-- The zone buffer reclaim pads (R172). -/
def reclaimVictim (s : State) (n : Nat) : Option (Nat × Nat) :=
  let busy := fun i z => s.cmds.any (fun kv => kv.2.slot == i && kv.2.zone == some z &&
    (kv.2.wslot || kv.2.phase == .granted))
  let all := (slotsOf s n).flatMap (fun i =>
    ((zonesWhere s i (fun v => v.fill.isSome && isActive v.st && decide (v.lastUs + 50000 ≤ s.nowUs))).filter
      (fun z => !(busy i z))).map (fun z => (i, z)))
  let zv := fun p : Nat × Nat => getZone s (zk p.1 p.2)
  let rank := fun p => (if (zv p).lastComm then 2 else 0) + (if (zv p).st == .closed then 0 else 1)
  argMin (fun p => rank p * 2 ^ 64 + (zv p).lastUs) all

/-- Buffer reclaim: at most one pad per park (R172). -/
def reclaim (s : State) (n : Nat) : State :=
  match reclaimVictim s n with
  | some (i, z) => interiorPad s i z
  | none => s

end Sys2Proof.Machine
end

