-- ==== Sys2Proof/Machine/Reads.lean ====
section
/-! DEFINITION. The table of codeword reads (R33, R34, R181, R266 to R268): a read enters it when its buffer is
ready, a unit that is missing is rebuilt from the others, and a codeword off the die waits for a decoder. -/

namespace Sys2Proof.Machine

def getRd (s : State) (i : Nat) : Rd := tget {} s.reads i
def setRd (s : State) (i : Nat) (v : Rd) : State := { s with reads := tset {} s.reads i v }
/-- Whether codeword read `i` goes on. -/
def hasRd (s : State) (i : Nat) : Bool := s.reads.any (fun kv => kv.1 == i)

/-- Whether the unit of a stripe on channel `c` is missing: an erasure, or its die is out of use (R259, R277). -/
def unitGone (s : State) (x : Stripe) (c : Nat) : Bool :=
  bitOf x.erased c || (getDie s (dk c x.rank)).retired || !(getDie s (dk c x.rank)).used

/-- A row whose blocks a swap has given up becomes erase-pending once the reads issued to them have ended (R274). -/
def leaveWaits (s : State) : State :=
  { s with rows := tmap {} s.rows (fun _ v =>
    if v.st == .leaving && !v.waits.isEmpty && v.waits.all (fun i => !(hasRd s i)) then pendRow s else v) }

/-- A new entry of the table, with its number. -/
def newRd (s : State) (r : Rd) : State × Nat :=
  let i := s.sched.nextRd
  (setRd { s with sched := { s.sched with nextRd := i + 1 } } i { r with us := s.opUs }, i)

/-! ### The decoders (R266, R267) -/

/-- The next codeword of a decoder queue: class order, then arrival. -/
def nextDecode (s : State) (l : List Nat) : Option Nat := argMin (fun i => (getRd s i).cls) l

/-- A free input stage takes the next codeword that waits for a hard decoder, a free soft decoder the next
that waits for one. -/
def feedOne (s : State) : State :=
  let h := s.sched
  let h1 := match (if h.hard.length < 16 then nextDecode s h.hardQ else none) with
    | some i => { h with hard := h.hard ++ [i], hardQ := h.hardQ.erase i }
    | none => h
  let h2 := match (if h1.soft.length < 4 then nextDecode s h1.softQ else none) with
    | some i => { h1 with soft := h1.soft ++ [i], softQ := h1.softQ.erase i }
    | none => h1
  { s with sched := h2 }

/-- Every free decoder is filled. -/
def feed (s : State) : State := (List.range 16).foldl (fun a _ => feedOne a) s

/-- A codeword arrives at the decoders (R266, R267): an Urgent one takes an input stage from another class, whose
codeword goes back to the head of its queue. -/
def toDecoder (s : State) (i : Nat) : State :=
  let r := getRd s i
  let s1 := setRd s i { r with st := .decode }
  let h := s1.sched
  if r.step == 8 then feed { s1 with sched := { h with softQ := h.softQ ++ [i] } }
  else match (if r.cls == 0 && decide (16 ≤ h.hard.length) then h.hard.find? (fun j => (getRd s1 j).cls != 0) else none) with
    | some j => { s1 with sched := { h with hard := h.hard.erase j ++ [i], hardQ := j :: h.hardQ } }
    | none => feed { s1 with sched := { h with hardQ := h.hardQ ++ [i] } }

/-- A codeword leaves its decoder. -/
def fromDecoder (s : State) (i : Nat) : State :=
  let h := s.sched
  feed { s with sched := { h with hard := h.hard.erase i, soft := h.soft.erase i } }

/-- The reads whose owner `p` holds of, and the reads of their rebuilds, leave the table. -/
def dropReads (s : State) (p : Owner → Bool) : State :=
  let top := tkeys s.reads (fun _ r => p r.own)
  let gone := fun i : Nat => top.contains i ||
    (match (getRd s i).own with | .unit q => top.contains q | _ => false)
  let h := s.sched
  let keep := fun l : List Nat => l.filter (fun i => !(gone i))
  if top.isEmpty then s
  else leaveWaits (feed { s with
    reads := tdrop s.reads (fun k _ => gone k)
    sched := { h with hard := keep h.hard, hardQ := keep h.hardQ, soft := keep h.soft, softQ := keep h.softQ } })

/-! ### Rebuild (R259, R268 step 9) -/

/-- The channels of the other units present in the stripe of a read. -/
def rebuildPeers (s : State) (r : Rd) : List Nat :=
  let x := getStripe s r.sid
  (chIn x.chmask).filter (fun c => c != r.ch && !(unitGone s x c))

/-- Whether the units present can restore the read's unit: those missing, it among them, are at most p. -/
def rebuildable (s : State) (r : Rd) : Bool :=
  let x := getStripe s r.sid
  r.sid != 0 && decide ((chIn x.chmask).length - (rebuildPeers s r).length ≤ x.p)

/-- Read `i` goes to step 9: the codeword at its index is read from every other unit present. -/
def startRebuild (s : State) (i : Nat) : State :=
  let r := getRd s i
  (rebuildPeers s r).foldl (fun a c => (newRd a
    { own := .unit i, cls := r.cls, niche := r.niche, sid := r.sid, rank := r.rank, ch := c, ix := r.ix }).1)
    (setRd s i { r with step := 9, st := .rebuild })

/-- A read enters the table; where its unit is missing it is rebuilt at once. -/
def addRd (s : State) (r : Rd) : State × Nat :=
  let q := newRd s r
  if r.sid != 0 && unitGone s (getStripe s r.sid) r.ch then (startRebuild q.1 q.2, q.2) else q

/-! ### Map pages (R24, R181) -/

/-- The map page of an LBA: 2,048 entries of 8 bytes in 16 KiB. -/
def pageOf (slot lba : Nat) : Nat := lk slot lba / 2048

/-- A page is the most recently used of the cache, which holds 512 (R24, R181); a DRAM holds every page read since
its contents were lost (R422). -/
def touchPage (s : State) (pg : Nat) : State :=
  let l := pg :: s.fineCache.filter (fun q => q != pg)
  { s with fineCache := if s.arm.cfg.dev.dramMode == 0 then l.take 512 else l }

/-- Whether the entries of a map page can be used without a read of the Plinth (R181, R422). -/
def pageHeld (s : State) (pg : Nat) : Bool :=
  (s.arm.cfg.dev.dramMode != 0 && !s.pm.dramCold) || s.fineCache.contains pg

/-- The fine-map entry an LBA is to have: where its newest content lies (R181). -/
def fineEntry (s : State) (k : Nat) : Fine :=
  let v := tget ({} : Sector) s.sectors k
  let x := getStripe s v.sid
  if v == {} then {} else if v.unc then { state := 2 }
  else { state := 1, rank := x.rank, row := x.row, stripe := x.t, sector := v.pos }

/-- The entry of an LBA is brought up to date, its page the one used last (R181). -/
def setFine (s : State) (k : Nat) : State := touchPage { s with fine := tset {} s.fine k (fineEntry s k) } (k / 2048)

/-- The entry of an LBA changes: at once where its page is held, else once FINE_MAP_UPDATE has its page (R181). -/
def noteFine (s : State) (k : Nat) : State :=
  if pageHeld s (k / 2048) then setFine { s with fineQ := s.fineQ.filter (fun x => x != k) } k
  else if s.fineQ.contains k then s else { s with fineQ := s.fineQ ++ [k] }

/-- The newest programmed Plinth stripe of rank `k` (R348, R349); 0 where it has none. -/
def plinthStripe (s : State) (k : Nat) : Nat :=
  (tkeys s.stripes (fun _ x => x.rank == k && x.pl.isSome && x.pl != some .mirror && x.phase == .done)).foldl max 0

/-- A read of the Plinth on rank `k`, of the unit that number `n` picks: of the newest Plinth stripe, or, where the model
holds none, of the die alone. -/
def plinthRd (s : State) (own : Owner) (k n : Nat) : Rd :=
  let sid := plinthStripe s k
  let l := if sid == 0 then healthy s k else dataChans (getStripe s sid)
  { own := own, cls := 2, sid := sid, rank := k, ch := l.getD (n % max 1 l.length) 0 }

/-- A read of the Plinth for `own`, unless one runs: Standard class; copies lie on both of the Plinth's ranks
(notes/assumptions/6.md). -/
def askPlinth (s : State) (own : Owner) (n : Nat) : State :=
  if s.reads.any (fun kv => kv.2.own == own) then s else (addRd s (plinthRd s own (plinthRanks s).1 n)).1

/-- The read of a map page (R181). -/
def askPage (s : State) (pg : Nat) : State := askPlinth s (.page pg) pg

/-- The read of the seal state of a zone that a checkpoint has moved to the Plinth (R321, R326). -/
def askSealState (s : State) (i z : Nat) : State := askPlinth s (.sealState i z) (zk i z)

end Sys2Proof.Machine
end

