-- ==== Sys2Proof/Machine/Pipe.lean ====
section
/-! DEFINITION. The life of an I/O command (R102 to R124, R169, R170, R192): fetched, granted,
started, completed; freeze-on-error, discard, range locks and the arbiter's two stages. -/

namespace Sys2Proof.Machine

/-! ### What a command is -/

/-- Opcode of an I/O command (R135). -/
def opcodeOf : IoOp → Nat
  | .flush => 0 | .write => 1 | .read => 2 | .writeUncorrectable => 4 | .compare => 5
  | .writeZeroes => 8 | .datasetManagement => 9 | .verify => 0x0C
  | .zoneOpen | .zoneClose | .zoneFinish | .zoneReset | .zoneOffline => 0x79
  | .zoneReceive => 0x7A | .zoneAppend => 0x7D | .frameAppend => 0x81 | .zoneSeal => 0x88
  | .other n => n

def isRead : IoOp → Bool
  | .read | .compare | .verify => true
  | _ => false

def isAppend : IoOp → Bool
  | .zoneAppend | .frameAppend => true
  | _ => false

/-- Commands that write sectors of a zone under its write slot (R113, R170). -/
def isZoneWrite : IoOp → Bool
  | .write | .writeZeroes | .zoneAppend | .frameAppend => true
  | _ => false

/-- Whether the command's slot holds a zoned namespace. -/
def zonedAt (s : State) (i : Nat) : Bool := (getNs s i).attr.zoned

/-- Whether a Write Zeroes deallocates (R135, R185). -/
def deallocates (s : State) (i : Nat) (io : IoCmd) : Bool :=
  io.op == .writeZeroes && io.deac && !(zonedAt s i)

/-- Whether the command's data goes into the write buffer. -/
def writesData (s : State) (i : Nat) (io : IoCmd) : Bool :=
  isZoneWrite io.op && !(deallocates s i io)

/-- Cost of a command in sectors in the niche stage (R107). -/
def costOf (s : State) (i : Nat) (io : IoCmd) : Nat :=
  if isRead io.op || writesData s i io then io.nlb + 1 else 1

/-- Bytes a command counts against the Standard limit of R432. -/
def limitBytes (s : State) (i : Nat) (io : IoCmd) : Nat :=
  if isRead io.op || writesData s i io then (io.nlb + 1) * 4096 else 0

/-- Depth of the Standard limits' buckets (R409, R432). -/
def limitDepth : Nat := 8388608

/-- Whether the command takes a range-lock entry (R111). -/
def needsLock : IoOp → Bool
  | .flush | .zoneReceive | .zoneSeal | .other _ => false
  | _ => true

/-- Commands that allocate buffers but take no range-lock entry (R289). -/
def needsParkSlot : IoOp → Bool
  | .zoneReceive | .zoneSeal => true
  | _ => false

def ctrlOfSq (k : Nat) : Nat := k / 65536
def qidOfSq (k : Nat) : Nat := k % 65536

/-- The niche an SQ serves. -/
def nicheOfSq (s : State) (k : Nat) : Nat := (nicheOf s (ctrlOfSq k)).getD 0

/-- Class codes: 0 Urgent, 1 Commissioned, 2 Standard, 3 Background. -/
structure Class where
  cls : Nat
  conf : Option Nat
  excess : Option Nat
  deriving DecidableEq, Repr

/-- The class of a command granted now from SQ `k` (R106, R192). -/
def classOf (s : State) (k : Nat) (io : IoCmd) : Class :=
  let q := getSq s k
  let n := nicheOfSq s k
  let std : Class := ⟨2, none, none⟩
  match q.comm with
  | some h =>
    let c := getComm s h
    if !(commLive c) || io.nsid != c.nsid then std
    else if isZoneWrite io.op then
      if (io.nlb + 1) * 4096 ≤ c.tokens then ⟨1, some h, none⟩ else ⟨2, none, some h⟩
    else
      match io.op with
      | .flush | .zoneOpen | .zoneClose | .zoneFinish | .zoneReset | .zoneOffline | .zoneReceive
      | .zoneSeal => ⟨1, none, none⟩
      | _ => std
  | none =>
    if q.cls == 1 then (if isRead io.op && (nicheCfg s n).urgentOk then ⟨0, none, none⟩ else std)
    else if q.cls == 2 then ⟨3, none, none⟩ else std

/-! ### Range-lock entries (R111, R112) -/

/-- Entries held by niche `n`. -/
def locksOf (s : State) (n : Nat) : Nat :=
  (s.cmds.filter (fun kv => kv.2.lock && kv.2.niche == n)).length

/-- Whether niche `n` can take an entry: its guaranteed 32, or the shared part. -/
def lockAvail (s : State) (n : Nat) : Bool :=
  let v := validNiches s
  locksOf s n < 32 ||
    decide (sumBy (fun m => locksOf s m - 32) v < 8192 - 32 * v.length)

/-- Whether a span conflicts with a held entry. -/
def conflicts (s : State) (i lo hi : Nat) (excl : Bool) : Bool :=
  s.cmds.any (fun kv => let c := kv.2
    c.lock && c.slot == i && decide (lo ≤ c.hi) && decide (c.lo ≤ hi) && (excl || c.excl))

/-! ### Buffers and segments of one command -/

/-- The buffers a command owns are freed (R29, R290). -/
def freeCmdBufs (s : State) (id : Nat) : State :=
  releaseBufs s (ownedBufs s id)

/-- The command leaves every queue of the datapath: park lists, segments, bursts. -/
def unqueueCmd (s : State) (id : Nat) : State :=
  let s1 := unpark s (getCmd s id).niche id
  { s1 with cipher := { s1.cipher with segs := s1.cipher.segs.filter (fun x => x.2.2 != id) } }

/-- The zone write slot of a command is free again: a finish by the controller that waits for it is made (R171). -/
def slotFreed (s : State) (c : Cmd) : State :=
  match c.zone with
  | some z =>
    let v := getZone s (zk c.slot z)
    if !c.wslot || !v.finPend then s
    else
      let t := setZone s (zk c.slot z) { v with finPend := false }
      if isActive v.st then finishByController t c.slot z else t
  | none => s

/-- A command is discarded: no effect on media, zone or seal (R29); its codeword reads are dropped. -/
def discard (s : State) (id : Nat) : State :=
  let s1 := dropReads s (fun o => match o with | .cmd i _ => i == id | _ => false)
  slotFreed (delCmd (freeCmdBufs (unqueueCmd s1 id) id) id) (getCmd s id)

/-- Segments of a span (R295). -/
def segCount (lo hi : Nat) : Nat := hi / 16 - lo / 16 + 1

/-- Every segment of a command waits for an engine (R295). -/
def queueSegs (s : State) (id : Nat) : State :=
  let c := getCmd s id
  let l := List.replicate (segCount c.lo c.hi) (c.cls, s.arb.nextOrder, id)
  { s with cmds := tset {} s.cmds id { c with segUs := s.nowUs }
           cipher := { s.cipher with segs := s.cipher.segs ++ l }
           arb := { s.arb with nextOrder := s.arb.nextOrder + 1 } }

/-! ### Completion and freeze (R116, R122 to R124) -/

/-- An Error Information entry, newest first, at most 64 (R142). -/
def logError (s : State) (c : Nat) (e : ErrEnt) : State :=
  let v := getCtrl s c
  setCtrl s c { v with errs := ({ e with num := v.errCnt + 1 } :: v.errs).take 64, errCnt := v.errCnt + 1 }

/-- A completion of an I/O command that was not started: the CQE alone. -/
def ioCqe (s : State) (k cid : Nat) (st : Status) : State :=
  schedule s (ctrlOfSq k) (qidOfSq k) cid st

/-- The staged commands of an SQ complete with `st`, in SQ order. -/
def completeStaged (s : State) (k : Nat) (st : Status) : State :=
  let q := getSq s k
  let s1 := q.staged.foldl (fun a io => ioCqe a k io.cid st) s
  setSq s1 k { getSq s1 k with staged := [] }

/-- Commands of an SQ granted and waiting to start, oldest first. -/
def waitingOf (s : State) (k : Nat) : List Nat :=
  tkeys s.cmds (fun _ c => c.sq == k && c.phase == .granted)

/-- Started commands of an SQ. -/
def startedOf (s : State) (k : Nat) : List Nat :=
  tkeys s.cmds (fun _ c => c.sq == k && c.phase == .started)

/-- A granted command that completes with 0x80 leaves its commission's excess count (R213). -/
def uncount (s : State) (c : Cmd) (st : Status) : State :=
  match c.excess with
  | some h =>
    if st == .queueFrozen then setComm s h { getComm s h with excessCmds := (getComm s h).excessCmds - 1 } else s
  | none => s

/-- A waiting command completes with `st`. -/
def endWaiting (k : Nat) (st : Status) (s : State) (id : Nat) : State :=
  discard (uncount (ioCqe s k (getCmd s id).io.cid st) (getCmd s id) st) id

/-- The waiting commands of an SQ complete with `st`, then its staged ones. -/
def completeUnstarted (s : State) (k : Nat) (st : Status) : State :=
  completeStaged ((waitingOf s k).foldl (endWaiting k st) s) k st

/-- SQ `k` freezes on command `c`, whose CQE is scheduled with `st` (R122 to R124). -/
def freezeSq (s : State) (k : Nat) (c : Cmd) (st : Status) : State :=
  let q := getSq s k
  let zw := isZoneWrite c.io.op && zonedAt s c.slot
  let hz := if zw then c.zone else none
  let n80 := (waitingOf s k).length + q.staged.length
  let zs := zsze (getNs s c.slot).attr.zw
  let f : Frz :=
    { cid := c.io.cid, status := st, opc := opcodeOf c.io.op, nsid := c.io.nsid, slba := c.io.slba
      zslba := match hz with | some z => z * zs | none => 0
      held := hz.map (fun z => zk c.slot z), n80 := n80, nrun := (startedOf s k).length
      us := s.opUs, fedtime := fedLogTime s }
  let s1 := match hz with
    | some z => setZone s (zk c.slot z) { getZone s (zk c.slot z) with held := (getZone s (zk c.slot z)).held ++ [k] }
    | none => s
  completeUnstarted (setSq (nchSet s1 ((nicheOf s (ctrlOfSq k)).getD 0) 4) k { getSq s1 k with frz := some f }) k .queueFrozen

/-- The CQE of command `id` is scheduled and the command leaves the pipeline; a freezing status
freezes its SQ. -/
def endCmd (s : State) (id : Nat) (st : Status) (dw0 dw1 : Nat) (data : List Fld) : State :=
  let c := getCmd s id
  let k := c.sq
  let s1 := discard (schedule s (ctrlOfSq k) (qidOfSq k) c.io.cid st dw0 dw1 data) id
  if freezes st then
    let s2 := logError s1 (ctrlOfSq k) { sq := qidOfSq k, cid := c.io.cid, status := st, lba := c.io.slba, nsid := c.io.nsid }
    if (getSq s2 k).frz.isSome then s2 else freezeSq s2 k c st
  else s1

/-- The slots a Flush covers (R120). -/
def flushSlots (s : State) (c : Cmd) : List Nat :=
  if c.io.nsid == 0xFFFFFFFF then slotsOf s c.niche else [c.slot]

/-- Stripes not programmed whole that hold data of a slot (R120). -/
def unprogrammed (s : State) (i : Nat) : List Nat :=
  tkeys s.stripes (fun _ x => x.slot == i && decide (0 < x.valid) && x.phase != .done)

/-- A stripe still filling is padded for a Flush, once the zone's write slot is free (R120, R171). -/
def padFor (s : State) (sid : Nat) : State :=
  let x := getStripe s sid
  if x.phase != .filling || x.valid == 0 then s
  else match x.zone with
    | some z => if slotTaken s x.slot z then s else interiorPad s x.slot z
    | none => finePad s x.slot x.gc

/-- One Flush whose covered commands or stripes may have ended (R120): with hold-up healthy it ends
with its commands; with hold-up degraded the stripes that hold their data are then padded where they still
fill, and waited for. -/
def settleOne (a : State) (id : Nat) : State :=
  let c := getCmd a id
  let w := c.waits.filter (hasCmd a)
  if !w.isEmpty then setCmd a id { c with waits := w }
  else if degraded a then
    let b := c.sids.foldl padFor a
    let l := c.sids.filter (fun sid => b.stripes.any (fun kv => kv.1 == sid && kv.2.phase != .done))
    if l.isEmpty then endCmd b id .success 0 0 [] else setCmd b id { c with waits := [], sids := l }
  else endCmd a id .success 0 0 []

/-- The stripes `sids` took data of command `id`: the Flush commands that cover it wait for them (R120). -/
def flushNote (s : State) (id : Nat) (sids : List Nat) : State :=
  { s with cmds := tmap {} s.cmds (fun _ c =>
    if c.io.op == .flush && c.waits.contains id then { c with sids := c.sids ++ sids.filter (fun x => !(c.sids.contains x)) }
    else c) }

/-- The Flush commands whose covered work has ended reach their commit points (R120). -/
def settle (s : State) : State :=
  (tkeys s.cmds (fun _ c => c.io.op == .flush && c.phase == .started)).foldl settleOne s

/-- A command's completion (R116). -/
def complete (s : State) (id : Nat) (st : Status) (dw0 : Nat := 0) (dw1 : Nat := 0)
    (data : List Fld := []) : State := settle (endCmd s id st dw0 dw1 data)

/-! ### Landing in the staging store (R102, R103, R105, R124) -/

/-- Staged entries of a niche. -/
def stagedOf (s : State) (n : Nat) : Nat :=
  sumBy (fun kv : Nat × Sq => if nicheOfSq s kv.1 == n then kv.2.staged.length + kv.2.inflight else 0) s.sqs

/-- Entries of the staging store free for niche `n`: its own 64 and the shared part (R103). -/
def stageFree (s : State) (n : Nat) : Nat :=
  let v := validNiches s
  (64 - stagedOf s n) + (8192 - 64 * v.length - sumBy (fun m => stagedOf s m - 64) v)

/-- Whether a CQ has no free slot (R118). -/
def cqFull (s : State) (k : Nat) : Bool :=
  let v := getCq s k
  decide (v.size ≤ v.ring.length + 1)

/-- Whether a controller's port has lost its link and its commands are being ended (R91). -/
def portLost (s : State) (c : Nat) : Bool := (getPort s (portOf c)).linkDown

/-- Whether SQ `k` may be fetched from now (R91, R101, R103, R118, R124). -/
def fetchable (s : State) (k : Nat) : Bool :=
  let q := getSq s k
  q.live && q.frz.isNone && q.del.isNone && !(fetchStopped s) && (getCtrl s (ctrlOfSq k)).rdy &&
    (getCtrl s (ctrlOfSq k)).shst == 0 && !(s.arb.fetchOff.contains (portOf (ctrlOfSq k))) &&
    !(portLost s (ctrlOfSq k)) && decide (q.staged.length + q.inflight < 8) &&
    decide (0 < stageFree s (nicheOfSq s k)) && !(cqFull s (qk (ctrlOfSq k) q.cqid))

/-- The place of an SQ in the fetcher's order: Urgent, then Commissioned by priority, then the others
(R103, R108). -/
def fetchRank (s : State) (k : Nat) : Nat :=
  let q := getSq s k
  match q.comm with
  | some h => if commLive (getComm s h) then 1 + (getComm s h).prio else 9
  | none => if q.cls == 1 then 0 else 9

/-- Entries of an SQ the host has rung in and no fetch has asked for. -/
def unfetched (q : Sq) : Nat :=
  if q.size == 0 then 0 else (q.tail + q.size - q.head) % q.size - q.inflight

/-- Whether SQ `k` is fetched from now: it may be, and no SQ ahead of it in the fetcher's order has
entries to fetch (R103). -/
def fetches (s : State) (k : Nat) : Bool :=
  fetchable s k && !(s.sqs.any (fun kv => kv.1 % 65536 != 0 && decide (0 < unfetched kv.2) &&
    decide (fetchRank s kv.1 < fetchRank s k) && fetchable s kv.1))

/-- An entry lands: staged, or completed with 0x80 in a frozen SQ (R105, R124). -/
def land (s : State) (k : Nat) (io : IoCmd) : State :=
  let q := getSq s k
  match q.frz with
  | some f => setSq (ioCqe s k io.cid .queueFrozen) k
      { getSq (ioCqe s k io.cid .queueFrozen) k with frz := some { f with n80 := f.n80 + 1 } }
  | none => setSq s k { q with staged := q.staged ++ [io] }

/-! ### The arbiter (R107 to R109) -/

/-- Granted and uncompleted Urgent commands of a niche (R109). -/
def urgents (s : State) (n : Nat) : Nat :=
  (s.cmds.filter (fun kv => kv.2.cls == 0 && kv.2.niche == n)).length

/-- The slot a command's NSID names in a niche, 0 where it names none. -/
def slotOr (s : State) (n nsid : Nat) : Nat := (slotOf s n nsid).getD 0

/-- Whether the Standard limits of R409 and R432 let a command be granted. -/
def withinLimits (s : State) (n : Nat) (cl : Class) (io : IoCmd) : Bool :=
  let i := slotOr s n io.nsid
  let b := min (limitBytes s i io) limitDepth
  if cl.cls < 2 then true
  else (decide (s.thm.stage == 0) || (cl.cls == 2 && decide (b ≤ s.thm.stdTokens))) &&
    (s.pm.ps != 2 || isRead io.op || decide (b ≤ s.pm.ps2))

/-- Whether the head of SQ `k`'s staged entries is eligible (R108, R109, R112, R289). -/
def eligible (s : State) (k : Nat) : Bool :=
  let q := getSq s k
  match q.staged with
  | [] => false
  | io :: _ =>
    let n := nicheOfSq s k
    let cl := classOf s k io
    q.live && q.frz.isNone && q.del.isNone && !(fetchStopped s) && !(portLost s (ctrlOfSq k)) &&
      (waitingOf s k).isEmpty &&
      (cl.cls != 0 || decide (urgents s n < 256)) && withinLimits s n cl io &&
      (!(needsLock io.op) || lockAvail s n) &&
      (!(needsParkSlot io.op) ||
        decide ((s.cmds.filter (fun kv => needsParkSlot kv.2.io.op)).length < 1024))

/-- Class of the head of an SQ. -/
def headClass (s : State) (k : Nat) : Class :=
  match (getSq s k).staged with | io :: _ => classOf s k io | [] => ⟨2, none, none⟩

/-- The first of a rising list after `last`, round robin. -/
def nextAfter (l : List Nat) (last : Nat) : Option Nat :=
  (l.find? (fun x => decide (last < x))).orElse (fun _ => l.head?)

/-- Priority of a commissioned head (R108). -/
def headPrio (s : State) (k : Nat) : Nat :=
  match (getSq s k).comm with | some h => (getComm s h).prio | none => 7

/-- The key of the round-robin pointer of a class, and of a priority among commissioned SQs (R108). -/
def turnKey (n cls prio : Nat) : Nat := n * 64 + cls * 16 + (if cls == 1 then prio % 16 else 0)

/-- The class stage: the SQ of niche `n` served next among the eligible ones `l` (R108). -/
def classStage (s : State) (n : Nat) (l : List Nat) : Option Nat :=
  let last := fun c p => tget 0 s.arb.lastSq (turnKey n c p)
  let ofc := fun c => l.filter (fun k => (headClass s k).cls == c)
  if !(ofc 0).isEmpty then nextAfter (ofc 0) (last 0 0)
  else if !(ofc 1).isEmpty then
    let best := minBy (headPrio s) 8 (ofc 1)
    nextAfter ((ofc 1).filter (fun k => headPrio s k == best)) (last 1 best)
  else if (!(ofc 3).isEmpty && decide (4 ≤ tget 0 s.arb.bgTurn n)) || (ofc 2).isEmpty then
    nextAfter (ofc 3) (last 3 0)
  else nextAfter (ofc 2) (last 2 0)

/-- Quantum of a niche (R107). -/
def quantum (s : State) (n : Nat) : Nat := (nicheCfg s n).weight * 16

/-- Cost of the command a tier-B niche would be granted. -/
def headCost (s : State) (n k : Nat) : Nat :=
  match (getSq s k).staged with
  | io :: _ => costOf s (slotOr s n io.nsid) io
  | [] => 1

/-- Deficit round robin from niche `cur` on (R107): a niche's turn goes on while its deficit covers
its next command; then the next niche with work gains its quantum. -/
def drr (s : State) (ns : List Nat) (pick : Nat → Option Nat) : Nat → Nat → List (Nat × Nat) →
    Option (Nat × Nat × List (Nat × Nat))
  | 0, _, _ => none
  | f + 1, cur, d =>
    let serve := if ns.contains cur then
        match pick cur with
        | some k => if headCost s cur k ≤ tget 0 d cur then some k else none
        | none => none
      else none
    match serve with
    | some k => some (cur, k, tset 0 d cur (tget 0 d cur - headCost s cur k))
    | none =>
      match nextAfter ns cur with
      | some nx => drr s ns pick f nx (tset 0 d nx (tget 0 d nx + quantum s nx))
      | none => none

/-- The SQ granted next, with the arbiter's new state (R107). -/
def arbPick (s : State) : Option (Nat × Arb) :=
  let cands := (tkeys s.sqs (fun _ _ => true)).filter (eligible s)
  let nic := (List.range 64).filter (fun n => cands.any (fun k => nicheOfSq s k == n))
  let mine := fun n => cands.filter (fun k => nicheOfSq s k == n)
  let tierA := nic.filter (fun n => (mine n).any (fun k => decide ((headClass s k).cls < 2)))
  let a := s.arb
  if !tierA.isEmpty then
    match nextAfter tierA a.lastA with
    | some n => (classStage s n (mine n)).map (fun k => (k, { a with lastA := n }))
    | none => none
  else
    let idle := { a with deficit := tdrop a.deficit (fun n _ => !(nic.contains n)) }
    match drr s nic (fun n => classStage s n (mine n)) 262144 a.lastB idle.deficit with
    | some (n, k, d) => some (k, { idle with lastB := n, deficit := d })
    | none => none

/-- What the command's grant takes from the token counters (R192, R409, R432). -/
def takeTokens (s : State) (n : Nat) (cl : Class) (io : IoCmd) : State :=
  let b := limitBytes s (slotOr s n io.nsid) io
  let s1 := match cl.conf with
    | some h => setComm s h { getComm s h with tokens := (getComm s h).tokens - (io.nlb + 1) * 4096 }
    | none => s
  let s2 := match cl.excess with
    | some h => setComm s1 h { getComm s1 h with excessCmds := satAdd 32 (getComm s1 h).excessCmds 1 }
    | none => s1
  if cl.cls < 2 then s2
  else
    let s3 := if s2.thm.stage == 0 then s2
      else { s2 with thm := { s2.thm with stdTokens := s2.thm.stdTokens - b } }
    if s3.pm.ps == 2 && !(isRead io.op) then { s3 with pm := { s3.pm with ps2 := s3.pm.ps2 - b } } else s3

/-- The head of SQ `k` is granted (R105, R106): it leaves the staging store. -/
def grantHead (s : State) (k : Nat) : State :=
  let q := getSq s k
  match q.staged with
  | [] => s
  | io :: rest =>
    let n := nicheOfSq s k
    let cl := classOf s k io
    let id := s.arb.nextCmd
    let s1 := takeTokens (setSq s k { q with staged := rest }) n cl io
    let turn := if cl.cls == 3 then 0 else min 4 (tget 0 s1.arb.bgTurn n + (if cl.cls == 2 then 1 else 0))
    let s2 := { s1 with arb := { s1.arb with
      nextCmd := id + 1, nextOrder := s1.arb.nextOrder + 1
      lastSq := tset 0 s1.arb.lastSq (turnKey n cl.cls (headPrio s k)) k
      bgTurn := tset 0 s1.arb.bgTurn n turn } }
    setCmd s2 id { sq := k, io := io, cls := cl.cls, conf := cl.conf, excess := cl.excess
                   phase := .granted, niche := n, slot := slotOr s n io.nsid
                   order := s1.arb.nextOrder, grantUs := s.nowUs, need := io.nlb + 1 }

/-- One grant of the arbiter; answers the command granted. -/
def arbGrant (s : State) : State × Option Nat :=
  match arbPick s with
  | none => (s, none)
  | some (k, a) => (grantHead { s with arb := a } k, some s.arb.nextCmd)

end Sys2Proof.Machine
end

