-- ==== Sys2Proof/Machine/Start.lean ====
section
/-! DEFINITION. The start of a granted command (R105, R111 to R113, R120, R135, R165 to R175, R184
to R188, R322 to R324): its checks, its locks, and the whole effect of a command that moves no data. -/

namespace Sys2Proof.Machine

/-! ### Checks that need no lock -/

def isConvOnly : IoOp → Bool
  | .writeUncorrectable => true
  | _ => false

def isZonedOnly : IoOp → Bool
  | .zoneOpen | .zoneClose | .zoneFinish | .zoneReset | .zoneOffline | .zoneReceive | .zoneAppend
  | .frameAppend | .zoneSeal => true
  | _ => false

def isZoneSend : IoOp → Bool
  | .zoneOpen | .zoneClose | .zoneFinish | .zoneReset | .zoneOffline => true
  | _ => false

/-- Whether the key slots a namespace needs are filled (R310); those of a Zone Seal are checked last of R323. -/
def keysReady (s : State) (a : SlotCfg) (op : IoOp) : Bool :=
  op == .zoneSeal || ((!a.enc || (getKey s a.xts).st != 0) && (!a.sealEn || (getKey s a.sealSlot).st != 0))

/-- The limits of R121 on a command's length: 512 sectors. -/
def tooLong (op : IoOp) (nlb : Nat) : Bool :=
  match op with
  | .write | .read | .compare | .writeZeroes | .writeUncorrectable | .zoneAppend | .frameAppend =>
    decide (511 < nlb)
  | _ => false

/-- Whether a command's NLB and SLBA name a span of LBAs. -/
def hasSpan : IoOp → Bool
  | .write | .read | .compare | .verify | .writeZeroes | .writeUncorrectable => true
  | _ => false

/-- A Zone Management Send whose action is none of the five that have one, Set Zone Descriptor Extension
among them (R163, R168). -/
def badSend (s : State) (c : Cmd) : Option Status :=
  match slotOf s c.niche c.io.nsid with
  | none => some .invalidNsOrFormat
  | some i =>
    if (getNch s c.niche).san == .failed then some .sanFailed
    else if (getNch s c.niche).san != .none then some .sanInProgress
    else if (getNs s i).attr.zoned then some .invalidField else some .invalidOpcode

/-- The first failing check that needs neither a lock nor the zone's state. -/
def ioCheck (s : State) (c : Cmd) : Option Status :=
  let io := c.io
  let ctl := ctrlOfSq c.sq
  match io.op with
  | .other 0x79 => badSend s c
  | .other _ => some .invalidOpcode
  | _ =>
    if io.op == .flush && io.nsid == 0xFFFFFFFF then
      (if (getNch s c.niche).san == .none then none
       else if (getNch s c.niche).san == .failed then some .sanFailed else some .sanInProgress)
    else match slotOf s c.niche io.nsid with
    | none => some .invalidNsOrFormat
    | some i =>
      let v := getNs s i
      let a := v.attr
      if (getNch s c.niche).san == .failed then some .sanFailed
      else if (getNch s c.niche).san != .none then some .sanInProgress
      else if !(v.attached.contains ctl) then some .invalidField
      else if (isZonedOnly io.op && !a.zoned) || (isConvOnly io.op && a.zoned) then some .invalidOpcode
      else if io.op == .zoneSeal && !a.sealEn then some .invalidField
      else if !(keysReady s a io.op) then some .nsNotReady
      else if tooLong io.op io.nlb then some .invalidField
      else if io.op == .frameAppend && io.fuse != 0 then some .invalidField
      else if io.op == .zoneReceive && (io.zra != 0 || decide (7 < io.zrasf)) then some .invalidField
      else if io.op == .datasetManagement && decide (256 < io.ranges.length) then some .invalidField
      else if (isAppend io.op || (isZoneSend io.op && !io.selectAll)) &&
          io.slba % zsze a.zw != 0 then some .invalidField
      else if hasSpan io.op && decide (nsLbas a < io.slba + io.nlb + 1) then some .lbaRange
      else if (isAppend io.op || io.op == .zoneReceive ||
          (isZoneSend io.op && !io.selectAll)) && decide (nsLbas a ≤ io.slba) then some .lbaRange
      else if io.op == .datasetManagement &&
          io.ranges.any (fun r => decide (nsLbas a < r.1 + r.2)) then some .lbaRange
      else none

/-! ### Starting -/

/-- The command's range-lock entry, span and state once it has started (R105). -/
def markStarted (s : State) (id lo hi : Nat) (lock excl wslot : Bool) (zone : Option Nat) : State :=
  setCmd s id { getCmd s id with
    phase := .started, lo := lo, hi := hi, lock := lock, excl := excl, wslot := wslot, zone := zone }

/-- The zone of an LBA. -/
def zoneOfLba (s : State) (i lba : Nat) : Nat := lba / zsze (getNs s i).attr.zw

/-- The rooms of the stripes `n` sectors of a zone reach (R284). -/
def rooms (s : State) (i z n : Nat) : List Nat :=
  let v := getZone s (zk i z)
  let w := v.rows.length
  let sd := selfDescOf s (getNs s i).attr.niche
  (List.range (n / 64 + 2)).map (fun j =>
    match v.rows[(v.nstripe + j) % w]? with
    | none => 0
    | some kr =>
      let cap := stripeCap sd (getRow s (rk kr.1 kr.2)).d
      if j == 0 then cap - (match v.fill with | some f => (getStripe s f).valid | none => 0) else cap)

/-- The foreground erases a bind waits for are set on the waiting command (R188). -/
def waitErase (s : State) (id : Nat) (l : List (Nat × Nat)) : State :=
  setCmd s id { getCmd s id with erase := l }

/-- Checks 2 to 7 of R170, in order; `wp` and `wend` are relative to the zone's start. -/
def zoneWriteCheck (s : State) (i z : Nat) (io : IoCmd) : Option Status :=
  let v := getZone s (zk i z)
  let zs := zsze (getNs s i).attr.zw
  if v.st == .offline then some .zOffline
  else if v.st == .readOnly then some .zReadOnly
  else if v.st == .full then some .zFull
  else if !(isAppend io.op) && io.slba != z * zs + v.wp then some .zInvalidWrite
  else if io.op == .frameAppend && !io.fstart && v.wp != 0 &&
      (match v.frames.getLast? with | some f => f.frame != io.frame | none => false) then
    some .invalidField
  else if wendOf s i z < v.wp + io.nlb + 1 then some .zBoundary
  else none

/-- What a start does about the open and active limits (R169): the status, or the zone to close. -/
def limitCheck (s : State) (i : Nat) (v : Zone) : Status × Option Nat :=
  let a := (getNs s i).attr
  if v.st == .empty && a.maxActive ≤ activeCount s i then (.zTooActive, none)
  else if (v.st == .empty || v.st == .closed) && a.maxOpen ≤ openCount s i then
    match implicitVictim s i with
    | some y => (.success, some y)
    | none => (.zTooOpen, none)
  else (.success, none)

/-- The allocation requests of a started write are laid down (R284). -/
def withRequests (s : State) (id : Nat) (room : List Nat) : State :=
  let c := getCmd s id
  setCmd s id { c with want := requests (getNs s c.slot).fmt c.conf.isSome room (c.io.nlb + 1) }

/-- A write or append to a zone (R113, R165, R167 to R170). -/
def startZoneWrite (s : State) (id : Nat) : State :=
  let c := getCmd s id
  let i := c.slot
  let z := zoneOfLba s i c.io.slba
  let v := getZone s (zk i z)
  let zs := zsze (getNs s i).attr.zw
  let lo := if isAppend c.io.op then z * zs + v.wp else c.io.slba
  if slotTaken s i z || !v.held.isEmpty || conflicts s i lo (lo + c.io.nlb) true ||
      !(lockAvail s c.niche) then s
  else
    let cz := { c with zone := some z }
    let s0 := setCmd s id cz
    if (getNch s c.niche).readOnly then complete s0 id .writeProt
    else match zoneWriteCheck s i z c.io with
    | some st => complete s0 id st
    | none =>
      match limitCheck s i v with
      | (.success, victim) =>
        let s1 := match victim with | some y => closeZone s0 i y | none => s0
        let go := fun t1 : State =>
          let v1 := getZone t1 (zk i z)
          let t2 := setZone t1 (zk i z) { v1 with
            st := if v1.st == .empty || v1.st == .closed then .implicit else v1.st }
          withRequests (markStarted t2 id lo (lo + c.io.nlb) true true true (some z)) id
            (rooms t2 i z (c.io.nlb + 1))
        if v.st == .empty then
          match bindPlan s1 c.niche (2 ^ (getNs s i).attr.zw) with
          | .rows l => go (zoneBind (waitErase s1 id []) i z l)
          | .wait l => waitErase s1 id l
          | .none => complete (nicheRec s1 c.niche 0x32 3 0 (z * zs) i) id .capExceeded
        else go s1
      | (st, _) => complete s0 id st

/-- Sectors of the host's open row, and of the row taken to follow it, that no started write is to fill (R182). -/
def fineRoom (s : State) (i : Nat) : Nat :=
  let v := getNs s i
  let n := v.attr.niche
  let cap := fun kr : Nat × Nat => rowStripeCap s n kr - 4
  let inRow := match v.hostRow with
    | some kr =>
      let opened := (stripesOfRow s kr.1 kr.2).length
      (stripesPerRow s - opened) * cap kr +
        (match v.fill with | some f => (getStripe s f).dcap - (getStripe s f).valid | none => 0)
    | none => 0
  let next := match v.nextRow with | some kr => stripesPerRow s * cap kr | none => 0
  inRow + next - sumBy (fun kv : Nat × Cmd =>
    if kv.2.phase == .started && kv.2.slot == i && writesData s i kv.2.io then kv.2.need else 0) s.cmds

/-- A write to a conventional namespace (R111, R182, R184, R188): one that the open row cannot take has the next row taken
before it starts; with R_F rows held it waits for a collection. -/
def startFineWrite (s : State) (id : Nat) : State :=
  let c := getCmd s id
  let i := c.slot
  let need := c.io.nlb + 1
  let n := getNch s c.niche
  let lo := c.io.slba
  if conflicts s i lo (lo + c.io.nlb) true || !(lockAvail s c.niche) then s
  else if n.readOnly then complete s id .writeProt
  else if n.fgGc && decide (n.credits < need) then s
  else
    let go := fun t : State =>
      let t1 := if n.fgGc then setNch t c.niche { getNch t c.niche with credits := n.credits - need } else t
      refreshGc (withRequests (markStarted (waitErase t1 id []) id lo (lo + c.io.nlb) true true false none) id []) c.niche
    if need ≤ fineRoom s i then go s
    else if (getNs s i).nextRow.isSome || decide (fineRows s (getNs s i).attr ≤ fineH s i) then s
    else
      match bindPlan s c.niche 1 with
      | .rows _ =>
        let t := takeFineRow s i false
        if need ≤ fineRoom t i then go t else t
      | .wait l => waitErase s id l
      | .none => complete (nicheRec s c.niche 0x32 3 0 lo i) id .capExceeded

/-- Sectors of a span that are lost or marked uncorrectable (R135, R270). -/
def lostIn (s : State) (i lo n : Nat) : Nat :=
  ((List.range n).filter (fun j => lostHit s i (lo + j) (lo + j) ||
    (tget ({} : Sector) s.sectors (lk i (lo + j))).unc)).length

/-- `n` sectors are reported to the host as unrecovered (R145). -/
def noteLost (s : State) (niche n : Nat) : State :=
  let v := getNch s niche
  setNch s niche { v with unrecovered := satAdd 64 v.unrecovered n }

/-- The lengths of the runs of equal numbers in a list. -/
def runLens : List Nat → List Nat
  | [] => []
  | a :: t =>
    match t, runLens t with
    | b :: _, n :: r => if a == b then (n + 1) :: r else 1 :: n :: r
    | _, r => 1 :: r

/-- How far the stripes reach that the sectors of a zoned span lie in, in order (R284). -/
def readRooms (s : State) (i lo n : Nat) : List Nat :=
  if zonedAt s i then runLens ((List.range n).map (fun j => (tget ({} : Sector) s.sectors (lk i (lo + j))).sid)) else []

/-- A Read, Compare or Verify (R163, R186, R270, R284). -/
def startRead (s : State) (id : Nat) : State :=
  let c := getCmd s id
  let i := c.slot
  let lo := c.io.slba
  let hi := lo + c.io.nlb
  if conflicts s i lo hi false || !(lockAvail s c.niche) then s
  else if zonedAt s i && zoneOfLba s i lo != zoneOfLba s i hi then complete s id .zBoundary
  else if zonedAt s i && (getZone s (zk i (zoneOfLba s i lo))).st == .offline then
    complete s id .zOffline
  else if 0 < lostIn s i lo (c.io.nlb + 1) then
    complete (noteLost s c.niche (lostIn s i lo (c.io.nlb + 1))) id .unrecRead
  else
    let s1 := markStarted s id lo hi true false false none
    let c1 := getCmd s1 id
    setCmd s1 id { c1 with want := requests (getNs s i).fmt false (readRooms s i lo (c.io.nlb + 1)) (c.io.nlb + 1) }

/-! ### Commands complete at their start -/

/-- The LBAs of a conventional span become unmapped (R185): they read as zero, those of the lost-sector table among them
(R186). -/
def unmap (s : State) (i lo n : Nat) : State :=
  let inr := fun k : Nat => k / 281474976710656 == i && decide (lo ≤ k % 281474976710656) &&
    decide (k % 281474976710656 < lo + n)
  let s1 := lostCut s i lo (lo + n - 1)
  let s2 := { s1 with
    sectors := tdrop s1.sectors (fun k _ => inr k)
    plinth := { s1.plinth with media := tdrop s1.plinth.media (fun k _ => inr k) } }
  ((tkeys s2.fine (fun k _ => inr k)) ++ s2.fineQ.filter inr).foldl noteFine s2

/-- Write Uncorrectable marks its LBAs (R135, R181). -/
def markUnc (s : State) (i lo n : Nat) : State :=
  let s1 := lostCut s i lo (lo + n - 1)
  let ks := (List.range n).map (fun j => lk i (lo + j))
  ks.foldl noteFine { s1 with
    sectors := ks.foldl (fun t k => tset {} t k { unc := true }) s1.sectors }

/-- A span under an exclusive lock, wholly done at its start. -/
def startSpan (s : State) (id lo hi : Nat) (f : State → State) (protect : Bool) : State :=
  let c := getCmd s id
  if conflicts s c.slot lo hi true || !(lockAvail s c.niche) then s
  else if protect && (getNch s c.niche).readOnly then complete s id .writeProt
  else complete (f (markStarted s id lo hi true true false none)) id .success

/-- Dataset Management, Deallocate (R111, R135, R185). -/
def startDsm (s : State) (id : Nat) : State :=
  let c := getCmd s id
  let l := c.io.ranges.filter (fun r => decide (0 < r.2))
  if !c.io.ad || l.isEmpty then complete s id .success
  else
    startSpan s id (l.foldl (fun a r => min a r.1) (2 ^ 64)) (l.foldl (fun a r => max a (r.1 + r.2 - 1)) 0)
      (fun t => if zonedAt t c.slot then t else l.foldl (fun a r => unmap a c.slot r.1 r.2) t) false

/-- The states of zones a Select All action acts on (R167, R168). -/
def selects (op : IoOp) (st : ZSt) : Bool :=
  match op, st with
  | .zoneOpen, .closed => true
  | .zoneClose, .implicit | .zoneClose, .explicit => true
  | .zoneFinish, .implicit | .zoneFinish, .explicit | .zoneFinish, .closed => true
  | .zoneReset, .implicit | .zoneReset, .explicit | .zoneReset, .closed | .zoneReset, .full => true
  | .zoneOffline, .readOnly => true
  | _, _ => false

/-- The action on one zone (R167); a status other than success changes nothing. -/
def zoneAct (s : State) (op : IoOp) (i z : Nat) : State × Status :=
  let v := getZone s (zk i z)
  let set := fun st : ZSt => setZone s (zk i z) { v with st := st }
  match op with
  | .zoneOpen =>
    match v.st with
    | .implicit | .closed => (set .explicit, .success)
    | .explicit => (s, .success)
    | .empty =>
      match bindPlan s (getNs s i).attr.niche (2 ^ (getNs s i).attr.zw) with
      | .rows l =>
        let t := zoneBind s i z l
        (setZone t (zk i z) { getZone t (zk i z) with st := .explicit }, .success)
      | _ => (s, .capExceeded)
    | _ => (s, .zTransition)
  | .zoneClose =>
    match v.st with
    | .implicit | .explicit => (closeZone s i z, .success)
    | .closed | .empty => (s, .success)
    | _ => (s, .zTransition)
  | .zoneFinish =>
    match v.st with
    | .empty => (set .full, .success)
    | .implicit | .explicit | .closed => (finishZone s i z, .success)
    | .full => (s, .success)
    | _ => (s, .zTransition)
  | .zoneReset =>
    match v.st with
    | .readOnly | .offline => (s, .zTransition)
    | _ => (resetZone s i z, .success)
  | .zoneOffline =>
    match v.st with
    | .readOnly =>
      let t := unbindRows s .pending v.rows
      (setZone t (zk i z) { v with st := .offline, rows := [] }, .success)
    | _ => (s, .zTransition)
  | _ => (s, .invalidField)

/-- The limits an Open meets (R169): too many open zones, then too many active zones. -/
def openLimits (s : State) (i : Nat) (v : Zone) : Option Status :=
  let a := (getNs s i).attr
  match v.st with
  | .empty => if a.maxOpen ≤ openCount s i then some .zTooOpen
      else if a.maxActive ≤ activeCount s i then some .zTooActive else none
  | .closed => if a.maxOpen ≤ openCount s i then some .zTooOpen else none
  | _ => none

/-- Whether a started Zone Seal, which holds no range-lock entry, is under way in a span: an action on its zone waits for
its commit (DESIGN CHOICE, notes/assumptions/18.md: R113 orders writes and seals only). -/
def sealing (s : State) (i lo hi : Nat) : Bool :=
  s.cmds.any (fun kv => kv.2.io.op == .zoneSeal && kv.2.phase == .started && kv.2.slot == i &&
    decide (lo ≤ kv.2.io.slba) && decide (kv.2.io.slba ≤ hi))

/-- A Zone Management Send action (R111, R167 to R169, R188). -/
def startZoneSend (s : State) (id : Nat) : State :=
  let c := getCmd s id
  let i := c.slot
  let zs := zsze (getNs s i).attr.zw
  let z := c.io.slba / zs
  let lo := if c.io.selectAll then 0 else z * zs
  let hi := if c.io.selectAll then nsLbas (getNs s i).attr - 1 else z * zs + zs - 1
  if conflicts s i lo hi true || !(lockAvail s c.niche) || sealing s i lo hi then s
  else if c.io.op == .zoneOpen && (getNch s c.niche).readOnly then complete s id .writeProt
  else if c.io.selectAll then
    let l := zonesWhere s i (fun v => selects c.io.op v.st)
    if c.io.op == .zoneOpen && decide ((getNs s i).attr.maxOpen < openCount s i + l.length) then
      complete s id .zTooOpen
    else
      complete (l.foldl (fun a y => (zoneAct a c.io.op i y).1)
        (markStarted s id lo hi true true false none)) id .success
  else
    let v := getZone s (zk i z)
    match (if c.io.op == .zoneOpen then openLimits s i v else none) with
    | some st => complete s id st
    | none =>
      let plan := if c.io.op == .zoneOpen && v.st == .empty then
          bindPlan s c.niche (2 ^ (getNs s i).attr.zw) else .rows []
      match plan with
      | .wait l => waitErase s id l
      | .none => complete (nicheRec s c.niche 0x32 3 0 (z * zs) i) id .capExceeded
      | .rows _ =>
        let r := zoneAct (markStarted (waitErase s id []) id lo hi true true false none) c.io.op i z
        complete r.1 id r.2

/-- Zone state as a descriptor's Zone State field gives it (R178). -/
def zsCode : ZSt → Nat
  | .empty => 1 | .implicit => 2 | .explicit => 3 | .closed => 4 | .readOnly => 0xD | .full => 0xE
  | .offline => 0xF

/-- The zones a Reporting Options value lists (R168). -/
def reports (zrasf : Nat) (st : ZSt) : Bool :=
  match zrasf with
  | 0 => true
  | 1 => st == .empty | 2 => st == .implicit | 3 => st == .explicit | 4 => st == .closed
  | 5 => st == .full | 6 => st == .readOnly | _ => st == .offline

/-- One zone descriptor at byte `o` (R163): type, state, ZFC, ZCAP, ZSLBA and write pointer. -/
def zoneDesc (s : State) (i z o : Nat) : List Fld :=
  let v := getZone s (zk i z)
  let zs := zsze (getNs s i).attr.zw
  [⟨o, 1, 2⟩, ⟨o + 1, 1, zsCode v.st * 16⟩, ⟨o + 2, 1, b2n v.zfc⟩, ⟨o + 8, 8, zcapOf s i z⟩,
   ⟨o + 16, 8, z * zs⟩, ⟨o + 24, 8, z * zs + v.wp⟩]

/-- Zone Management Receive starts: it asks for buffers for the report (R289). -/
def startZoneReceive (s : State) (id : Nat) : State :=
  let c := getCmd s id
  let m := min ((c.io.numd + 1) * 4) (64 + 64 * (getNs s c.slot).attr.size)
  setCmd s id { c with phase := .started, want := requests 0 false [] ((m + 4095) / 4096) }

/-- Report Zones (R163, R168). -/
def finishReceive (s : State) (id : Nat) : State :=
  let c := getCmd s id
  let i := c.slot
  let a := (getNs s i).attr
  let z0 := c.io.slba / zsze a.zw
  let l := ((List.range a.size).filter (fun z => decide (z0 ≤ z) &&
    reports c.io.zrasf (getZone s (zk i z)).st))
  let room := ((c.io.numd + 1) * 4 - 64) / 64
  let shown := l.take room
  let n := if c.io.partialRep then shown.length else l.length
  complete s id .success 0 0
    (⟨0, 8, n⟩ :: shown.zipIdx.flatMap (fun zi => zoneDesc s i zi.1 (64 + 64 * zi.2)))

/-- The trailer of a seal as one number, little-endian (R319). -/
def trailerNum (r : SealRec) : Nat :=
  r.zslba + r.nsec * 2 ^ 64 + r.nsid * 2 ^ 128 + r.lbaf * 2 ^ 160 +
    (b2n r.encMeta + 2 * b2n r.zfc) * 2 ^ 168 + r.fedtime * 2 ^ 192 + r.fedstate * 2 ^ 256 +
    r.take * 2 ^ 288 + r.nent * 2 ^ 320 + r.gen * 2 ^ 352

/-- The 128 bytes of a seal record (R324). -/
def sealFlds (r : SealRec) (reissue : Bool) : List Fld :=
  [⟨0, 16, r.tag⟩, ⟨16, 12, r.nonce⟩, ⟨28, 1, b2n reissue⟩, ⟨32, 64, trailerNum r⟩,
   ⟨96, 4, hoursOf r.us⟩, ⟨100, 2, fracOf r.us⟩]

/-- Zone Seal is checked and starts (R113, R123, R323); of a zone whose seal state has moved to the Plinth it waits for
the read of that state (R326). It asks for a buffer for the record (R289). -/
def startSeal (s : State) (id : Nat) : State :=
  let c := getCmd s id
  let i := c.slot
  let a := (getNs s i).attr
  let z := zoneOfLba s i c.io.slba
  let v := getZone s (zk i z)
  let go := setCmd s id { c with phase := .started, zone := some z, wslot := true, want := requests 0 false [] 1 }
  if slotTaken s i z || !v.held.isEmpty then s
  else if c.io.fuse != 0 || c.io.rsv != 0 || c.io.slba % zsze a.zw != 0 || decide (nsLbas a ≤ c.io.slba) then
    complete s id .invalidField
  else if (getNch s c.niche).readOnly then complete s id .writeProt
  else
    match v.st, v.sealed with
    | .offline, _ => complete s id .zOffline
    | .readOnly, _ => complete s id .zReadOnly
    | .empty, _ => complete s id .zTransition
    | .full, some _ => go
    | _, _ =>
      if c.io.nonce == 0 || c.io.nonce == 2 ^ 96 - 1 then complete s id .nonceFormat
      else if (getKey s a.sealSlot).st == 0 || !(keysReady s a .flush) then complete s id .nsNotReady
      else if v.st == .full && v.sealSaved then askSealState s i z
      else go

/-- A started Zone Seal reaches its commit point (R318 to R324): the record the zone holds already, or the seal, whose
record takes the place of the seal state (R321). -/
def finishSeal (s : State) (id : Nat) : State :=
  let c := getCmd s id
  let i := c.slot
  let a := (getNs s i).attr
  let z := zoneOfLba s i c.io.slba
  let v := getZone s (zk i z)
  match v.sealed with
  | some r => complete s id .success 0 0 (sealFlds r true)
  | none =>
    let s1 := if v.st == .full then s else finishZone s i z
    let v1 := getZone s1 (zk i z)
    let f := fedStamp s
    let r : SealRec :=
      { tag := 0, nonce := c.io.nonce, zslba := c.io.slba, nsec := v1.wp, nsid := c.io.nsid
        lbaf := (getNs s i).fmt, encMeta := a.encMeta, zfc := v1.zfc, fedtime := f.1
        fedstate := f.2, take := takeNow s, nent := v1.frames.length, gen := genOf s1 i z, us := s.opUs }
    let tag := sealTag (getKey s a.sealSlot) v1.ghash v1.absorbed c.io.nonce (trailerNum r)
    let r1 := { r with tag := tag }
    let s2 := setZone s1 (zk i z) { v1 with sealed := some r1, ghash := 0, absorbed := 0, sealSaved := false }
    let s3 := { s2 with cipher := { s2.cipher with seals := satAdd 32 s2.cipher.seals 1 } }
    complete s3 id .success 0 0 (sealFlds r1 false)

/-- Flush (R120): it covers every write to its namespaces started before it, those under way and the stripes
that hold the data of those committed. -/
def startFlush (s : State) (id : Nat) : State :=
  let c := getCmd s id
  let slots := flushSlots s c
  let cmds := (tkeys s.cmds (fun _ d => d.phase == .started && slots.contains d.slot &&
    writesData s d.slot d.io))
  settle (setCmd s id { c with phase := .started, waits := cmds, sids := slots.flatMap (unprogrammed s) })

/-- A zone write that fails a check before its start names the zone it was for, which its freeze holds (R123). -/
def namesZone (s : State) (id : Nat) : State :=
  let c := getCmd s id
  match slotOf s c.niche c.io.nsid with
  | some i =>
    if isZoneWrite c.io.op && zonedAt s i && decide (c.io.slba < nsLbas (getNs s i).attr) then
      setCmd s id { c with zone := some (zoneOfLba s i c.io.slba) } else s
  | none => s

/-- The start of a granted command (R112, R113): it starts if nothing holds it back, completes at
once where a check fails, and otherwise waits as it stands. -/
def startCmd (s : State) (id : Nat) : State :=
  let c := getCmd s id
  if !(hasCmd s id) then s
  else
  let t := tryStart s id
  if !(hasCmd t id) || (getCmd t id).phase == .started then
    setNch t c.niche { getNch t c.niche with lastIoUs := s.nowUs, bgGc := false }
  else t
where
  tryStart (s : State) (id : Nat) : State :=
  let c := getCmd s id
  if c.phase != .granted || fetchStopped s || (getSq s c.sq).frz.isSome || portLost s (ctrlOfSq c.sq) then s
  else match ioCheck s c with
  | some st => complete (namesZone s id) id st
  | none =>
    match c.io.op with
    | .flush => startFlush s id
    | .write | .writeZeroes | .zoneAppend | .frameAppend =>
      if zonedAt s c.slot then startZoneWrite s id
      else if deallocates s c.slot c.io then
        startSpan s id c.io.slba (c.io.slba + c.io.nlb)
          (fun t => unmap t c.slot c.io.slba (c.io.nlb + 1)) true
      else startFineWrite s id
    | .read | .compare | .verify => startRead s id
    | .writeUncorrectable =>
      startSpan s id c.io.slba (c.io.slba + c.io.nlb)
        (fun t => markUnc t c.slot c.io.slba (c.io.nlb + 1)) true
    | .datasetManagement => startDsm s id
    | .zoneOpen | .zoneClose | .zoneFinish | .zoneReset | .zoneOffline => startZoneSend s id
    | .zoneReceive => startZoneReceive s id
    | .zoneSeal => startSeal s id
    | .other _ => complete s id .invalidOpcode

/-- One entry lands in SQ (c, q), the arbiter makes one grant and the granted command starts if it
can: what an I/O row of the table stands for (notes/assumptions/3.md). -/
def submitIo (s : State) (c q : Nat) (io : IoCmd) : State :=
  let k := qk c q
  if q == 0 || !(fetches s k) || (getSq s k).inflight != 0 then s
  else
    let v := getSq s k
    let h := if v.size == 0 then 0 else (v.head + 1) % v.size
    let s1 := land (setSq s k { v with head := h, tail := if v.head == v.tail then h else v.tail }) k io
    let r := arbGrant s1
    match r.2 with
    | some id => startCmd r.1 id
    | none => r.1

end Sys2Proof.Machine
end

