-- ==== Sys2Proof/Machine/Datapath.lean ====
section
/-! DEFINITION. The steps of the queue, datapath, cipher and port islands that carry an I/O command
from fetch to completion (R26, R28, R33, R34, R84, R103 to R124, R284 to R292, R295, R509). -/

namespace Sys2Proof.Machine

/-! ### Fetch, grant, start -/

/-- Fetch Request: the fetcher asks for the entries of one SQ, at most 8, up to 8 staged, never
across the ring's wrap, past the port's Max_Read_Request_Size or past the store's free entries (R103). -/
def fetchCount (s : State) (k : Nat) : Nat :=
  let q := getSq s k
  min (min (unfetched q) (q.size - q.head)) (min (8 - q.staged.length)
    (min ((getPort s (portOf (ctrlOfSq k))).mrrs / 64) (stageFree s (nicheOfSq s k))))

/-- The fetches of a port outstanding: each is one non-posted request (R71). -/
def requestsOut (s : State) (p : Nat) : Nat :=
  (s.sqs.filter (fun kv => portOf (ctrlOfSq kv.1) == p && kv.2.inflight != 0)).length

def execSqFetchRequest (c q : Nat) (s : State) : Out :=
  let k := qk c q
  let v := getSq s k
  if q == 0 || !(fetches s k) || v.inflight != 0 || decide (768 ≤ requestsOut s (portOf c)) then ok s
  else ok (setSq s k { v with inflight := fetchCount s k })

/-- The entries of a fetch land, in order, and the head moves past them (R105, R124). Those of a queue whose
deletion was accepted meanwhile complete with Command Aborted due to SQ Deletion, and a freeze does not count them
as held (DESIGN CHOICE, notes/assumptions/38.md). -/
def execSqFetchCompletion (c q : Nat) (entries : List IoCmd) (s : State) : Out :=
  let k := qk c q
  let v := getSq s k
  if !v.live || v.inflight == 0 || entries.length != v.inflight then ok s
  else
    let h := if v.size == 0 then 0 else (v.head + v.inflight) % v.size
    let s1 := setSq s k { v with inflight := 0, head := h }
    if v.del.isSome then ok (entries.foldl (fun a io => ioCqe a k io.cid .abortSqDel) s1)
    else ok (entries.foldl (fun a io => land a k io) s1)

/-- One grant (R107, R108). -/
def execArbiterGrant (s : State) : Out := ok (arbGrant s).1

/-- The Queue Freeze log entry is made once every fetch in flight has returned (R124, R125). -/
def execQueueFreezeLogEntry (c q : Nat) (s : State) : Out :=
  let k := qk c q
  let v := getSq s k
  match v.frz with
  | some f =>
    if f.logged || v.inflight != 0 then ok s
    else
      let s1 := setSq s k { v with frz := some { f with logged := true, head := v.head } }
      let s2 := setCtrl s1 c { getCtrl s1 c with frzGen := (getCtrl s1 c).frzGen + 1 }
      ok (raiseOn s2 c (vendor 0 0xC2))
  | none => ok s

/-! ### Buffers -/

/-- Where a sector of a read stands when its buffer is ready (R34, R181, R186, R399): zero without media
access, in the write buffer or the DRAM read cache, behind its map page, lost, or on the media (read 0). -/
def sectorSource (s : State) (i lba : Nat) : RdSt :=
  let v := tget ({} : Sector) s.sectors (lk i lba)
  let z := zoneOfLba s i lba
  let beyond := zonedAt s i && decide ((getZone s (zk i z)).wp ≤ lba - z * zsze (getNs s i).attr.zw)
  if beyond || v == {} then .zero
  else if v.unc then .lost
  else
    let x := getStripe s v.sid
    let ch := chanOfPos s x v.pos
    let cached := x.phase == .done && s.arm.cfg.dev.dramMode == 2 && !s.clk.fallback &&
      Config.cacheHas (lk i lba) s.nowUs
    let mapped := zonedAt s i || s.fineQ.contains (lk i lba) || pageHeld s (pageOf i lba)
    if !(bitOf x.released ch) || cached then .ready (cellOf s v)
    else if !mapped then .page (pageOf i lba)
    else if unitGone s x ch && !(rebuildable s { sid := v.sid, ch := ch }) then .lost
    else .media 0

/-- Sector `j` of a read looks for its source; a sector on the media enters the table of reads. -/
def askSector (id : Nat) (s : State) (j : Nat) : State :=
  let c := getCmd s id
  let lba := c.lo + j
  let put := fun (a : State) (st : RdSt) =>
    let m := getCmd a id
    setCmd a id { m with rds := m.rds.set j ⟨lba, st⟩ }
  match sectorSource s c.slot lba with
  | .media _ =>
    let v := tget ({} : Sector) s.sectors (lk c.slot lba)
    let x := getStripe s v.sid
    let s0 := if zonedAt s c.slot then s else touchPage s (pageOf c.slot lba)
    let r := addRd s0 { own := .cmd id j, cls := c.cls, niche := c.niche, sid := v.sid, rank := x.rank
                        ch := chanOfPos s x v.pos, ix := ixOfPos s x v.pos }
    put r.1 (.media r.2)
  | .page pg => put (askPage s pg) (.page pg)
  | st => put s st

def rdDone : RdSt → Bool
  | .zero | .ready _ => true
  | _ => false

/-- A read or verify whose sectors all stand in its buffer goes to the cipher engines (R33); one with a lost
sector ends (R270). -/
def readArrived (s : State) (id : Nat) : State :=
  let c := getCmd s id
  let n := (c.rds.filter (fun r => r.st == .lost)).length
  if n != 0 then complete (noteLost s c.niche n) id .unrecRead
  else if c.rds.all (fun r => rdDone r.st) && c.io.op != .compare then queueSegs s id else s

/-- What follows a command's last buffer: reads look for their sources, the zeros of a Write Zeroes enter
the cipher (R34, R510). -/
def allocated (s : State) (id : Nat) : State :=
  let c := getCmd s id
  let l := List.range (c.io.nlb + 1)
  if isRead c.io.op then
    readArrived (l.foldl (askSector id) (setCmd s id { c with rds := l.map (fun j => ⟨c.lo + j, .zero⟩) })) id
  else if c.io.op == .zoneReceive then finishReceive s id
  else if c.io.op == .zoneSeal then finishSeal s id
  else if c.io.op == .writeZeroes then
    queueSegs (setCmd s id { c with recv := l.map (zeroSector (getNs s c.slot) c.io) }) id
  else s

/-- The commission a command's buffers are reserved by, while it is live. -/
def confOf (s : State) (c : Cmd) : Option Nat :=
  match c.conf with
  | some h => if commLive (getComm s h) then some h else none
  | none => none

/-- A command whose request failed parks; the park of a zone write starts buffer reclaim (R172,
R289). -/
def park (s : State) (id : Nat) : State :=
  let c := getCmd s id
  let n := c.niche
  let s1 := parkOn s n id c.conf.isSome
  let s2 := setCmd s1 id { c with parked := true }
  if !c.parked && writesData s c.slot c.io && zonedAt s c.slot then reclaim s2 n else s2

/-- One allocation request of a command (R287, R289). -/
def requestOne (s : State) (id : Nat) : State :=
  let c := getCmd s id
  match c.want with
  | [] => s
  | (cls, m) :: rest =>
    let r := allocate s c.niche cls id (writesData s c.slot c.io) (confOf s c)
    match r.2 with
    | none => park r.1 id
    | some b =>
      let s1 := setCmd r.1 id { c with want := rest, got := c.got ++ [(b, m)], parked := false }
      if rest.isEmpty then allocated (unpark s1 c.niche id) id else s1

/-- Whether a started command has a request at the allocation port: one it still wants, not parked, and no head of its
list parked (R289). -/
def atPort (s : State) (id : Nat) : Bool :=
  let c := getCmd s id
  let v := getNch s c.niche
  hasCmd s id && c.phase == .started && !c.want.isEmpty && !(v.parkConf.contains id) && !(v.parkOther.contains id) &&
    (if c.conf.isSome then v.parkConf.isEmpty else v.parkOther.isEmpty)

/-- The order in which requests are accepted (R287): conforming writes, Urgent reads, the others in arrival order. -/
def portKey (s : State) (id : Nat) : Nat :=
  let c := getCmd s id
  (if c.conf.isSome then 0 else if c.cls == 0 then 1 else 2) * 2 ^ 64 + c.order

/-- Whether a command's request is the one accepted now. -/
def portFirst (s : State) (id : Nat) : Bool :=
  !((tkeys s.cmds (fun _ _ => true)).any (fun j => atPort s j && decide (portKey s j < portKey s id)))

/-- One request is accepted (R287); one that is not at the port or not the first there waits. -/
def execBufferAllocation (id : Nat) (s : State) : Out :=
  ok (if atPort s id && portFirst s id then requestOne s id else s)

/-- A free at the free port (R288, R291). -/
def execBufferFree (niche cls index owner : Nat) (s : State) : Out := ok (freeBuf s niche cls index owner)

/-- The Recast engine's parked request is made again: one buffer more of those row `key` has not got yet (R285, R289). -/
def retryRecast (s : State) (n key : Nat) : State :=
  let o := copyOwner key
  let r := allocate s n 3 o false none
  if r.2.isNone then r.1
  else if (getRow r.1 key).d ≤ (ownedBufs r.1 o).length then unpark r.1 n o else r.1

/-- The request of a parked requester is made again (R289). -/
def retryOne (s : State) (n owner : Nat) : State :=
  if owner < copyOwner 0 then requestOne s owner
  else if owner < gcOwner 0 then retryRecast s n (owner - copyOwner 0)
  else match s.pool.ctl.find? (fun r => ctlOwner r.num == owner) with
    | some r => serveCtl s r
    | none => unpark s n owner

/-- The heads of a niche's park lists are tried again, that of the conforming writes first (R289); what the control island
has still to ask for follows. -/
def execParkListRetry (niche : Nat) (s : State) : Out :=
  let s1 := match (getNch s niche).parkConf with
    | o :: _ => retryOne s niche o
    | [] => s
  let s2 := match (getNch s1 niche).parkOther with
    | o :: _ => retryOne s1 niche o
    | [] => s1
  ok (issueCtl s2)

/-! ### Data and cipher -/

/-- Host data of a write or Compare arrives (R26 step 6, R147, R148): the port makes or checks its protection
information, and the last of it goes to the engines. -/
def execHostDataTlpReceived (id : Nat) (data : List Nat) (s : State) : Out :=
  let c := getCmd s id
  let takes := (writesData s c.slot c.io && c.io.op != .writeZeroes) || c.io.op == .compare
  if !(hasCmd s id) || c.phase != .started || !takes || !c.want.isEmpty || portLost s (ctrlOfSq c.sq) ||
      decide (c.need ≤ c.recv.length) then ok s
  else
    let k := c.recv.length
    let l := (data.take (c.need - k)).zipIdx.map
      (fun dj => hostSector (getNs s c.slot) c.io (k + dj.2) (c.lo + k + dj.2) dj.1)
    match l.findSome? (fun r => r.2) with
    | some st => ok (complete s id st)
    | none =>
      let r := c.recv ++ l.map (·.1)
      let s1 := setCmd s id { c with recv := r }
      ok (if r.length == c.need then queueSegs s1 id else s1)

/-- Order in which segments are served (R295): Urgent, Commissioned, then arrival. -/
def segKey (x : Nat × Nat × Nat) : Nat := min x.1 2 * 2 ^ 64 + x.2.1

/-- The sectors of a command's `k`-th segment: the first one's index and their number (R295). -/
def segSpan (c : Cmd) (k : Nat) : Nat × Nat :=
  let g := c.lo / 16 + k
  let a := max c.lo (g * 16)
  (a - c.lo, min c.hi (g * 16 + 15) + 1 - a)

/-- What leaves an engine for the next segment of a command (R27, R297): what is stored of host data, or the
plaintext of a read. -/
def segOut (s : State) (c : Cmd) : List Nat :=
  let r := segSpan c c.segs
  let n := getNs s c.slot
  if isRead c.io.op && c.io.op != .compare then
    ((c.rds.drop r.1).take r.2).map (fun x => match x.st with
      | .ready v => plainOf s c.slot x.lba (storedOf n.fmt v)
      | _ => unwritten n)
  else ((c.recv.drop r.1).take r.2).zipIdx.map (fun vj => storedFrom s c.slot (c.lo + r.1 + vj.2) vj.1)

/-- The 16-byte blocks a command's next segment has for an engine (R295, R297): none without encryption. -/
def segBlocks (s : State) (c : Cmd) : Nat :=
  let a := (getNs s c.slot).attr
  if a.enc then (segSpan c c.segs).2 * ceilDiv (dataUnitBytes (getNs s c.slot).fmt a.encMeta) 16 else 0

/-- `n` blocks enter an engine (R294, R302, R329) for a segment of class `cls` that has waited `wait` µs; XCLK runs at
1.2 GHz, in fallback at 400 MHz. -/
def enterEngine (s : State) (cls n wait : Nat) : State :=
  let x := s.cipher
  let v := x.engs.getD x.nextEng {}
  let w := wait * (if s.clk.fallback then 400 else 1200)
  { s with cipher := { x with
    nextEng := (x.nextEng + 1) % 6
    engs := x.engs.set x.nextEng { v with
      blocks := v.blocks + n, bank := if n == 0 then v.bank else Config.genAfter v.bank n
      urgWait := if cls == 0 then max v.urgWait w else v.urgWait
      recent := v.recent.filter (fun e => decide (s.nowUs < e.1 + 1000)) ++ [(s.nowUs, n)] } } }

/-- The next segment of command `id` passes the next engine in turn, which is free as no step leaves a segment inside one
(notes/assumptions/8.md). -/
def passSegment (s : State) (id : Nat) : State :=
  let c := getCmd s id
  enterEngine (setCmd s id { c with out := c.out ++ segOut s c, segs := c.segs + 1 }) c.cls (segBlocks s c) (s.nowUs - c.segUs)

/-- One segment passes an engine (R295 to R299). -/
def execCipherSegmentStart (s : State) : Out :=
  match argMin segKey s.cipher.segs with
  | none => ok s
  | some x => ok (passSegment { s with cipher := { s.cipher with segs := s.cipher.segs.erase x } } x.2.2)

/-- The segments of a command still to come pass the engines (R91, R130). -/
def passAll (s : State) (id : Nat) : State :=
  let c := getCmd s id
  let s1 := { s with cipher := { s.cipher with segs := s.cipher.segs.filter (fun x => x.2.2 != id) } }
  (List.range (segCount c.lo c.hi - c.segs)).foldl (fun a _ => passSegment a id) s1

/-! ### Commit (R28, R29, R167, R173, R175, R177, R320) -/

/-- Places in a row that follow one another become parts. -/
def partsOf : List (Nat × Nat) → List (Nat × Nat × Nat)
  | [] => []
  | (sid, p) :: t =>
    match partsOf t with
    | (s2, p2, n) :: r => if s2 == sid && p2 == p + 1 then (sid, p, n + 1) :: r else (sid, p, 1) :: (s2, p2, n) :: r
    | [] => [(sid, p, 1)]

/-- A write passes its buffers to its stripes, each to the first whose sectors it holds (R290). -/
def passBufs : List (Nat × Nat) → List (Nat × Nat) → State → State
  | [], _, s => s
  | (b, m) :: t, places, s =>
    let l := partsOf (places.take m)
    passBufs t (places.drop m) (passBuf s b (stripeOwner ((l.head?.map (·.1)).getD 0)) l)

/-- The frame index entry a Frame Append makes (R175, R177): the first data of a zone has CONT = 1. -/
def frameEntry (s : State) (v : Zone) (io : IoCmd) : Option Frame :=
  if io.op == .frameAppend && (io.fstart || v.wp == 0) then
    let f := fedStamp s
    some { frame := io.frame, soff := v.wp, hflags := io.hflags, fedstate := f.2
           cont := v.wp == 0, fedtime := f.1, take := takeNow s }
  else none

/-- What a command stores, segment by segment. -/
def segsOf (c : Cmd) : List (List Nat) :=
  (List.range (segCount c.lo c.hi)).map (fun k => let r := segSpan c k; (c.out.drop r.1).take r.2)

/-- The zone's part of a commit; answers the new index entry's number (R167, R173, R175, R177). -/
def commitZone (s : State) (c : Cmd) (z : Nat) : State × Option Nat :=
  let i := c.slot
  let v := getZone s (zk i z)
  let f := frameEntry s v c.io
  let fr := match f with | some e => v.frames ++ [e] | none => v.frames
  let sl := (getNs s i).attr.sealEn
  let acc := if sl then
      foldSegs (subKey (getKey s (getNs s i).attr.sealSlot)) (sealBlocks (getNs s i).fmt) v.ghash (segsOf c)
    else v.ghash
  let s1 := setZone s (zk i z) { v with
    wp := v.wp + c.need, frames := fr, lastUs := s.nowUs
    lastComm := (match (getSq s c.sq).comm with | some h => commLive (getComm s h) | none => false)
    ghash := acc, absorbed := if sl then v.absorbed + c.need * sealBlocks (getNs s i).fmt else v.absorbed }
  let w := getZone s1 (zk i z)
  let s2 := if w.wp == wendOf s1 i z then
      setZone s1 (zk i z) { w with st := .full, zfc := decide (0 < w.waste) }
    else s1
  let full := f.isSome && fr.length == 8192 * v.rows.length
  let s3 := if full && (getZone s2 (zk i z)).st != .full then
      let t := finishByController s2 i z
      setZone t (zk i z) { getZone t (zk i z) with idxFull := true }
    else s2
  (s3, f.map (fun _ => v.frames.length))

/-- The counters at a commit (R192, R214); 1 GiB written by the host since the niche's last checkpoint asks for the next
(R348). -/
def commitCounts (s : State) (c : Cmd) : State :=
  let b := c.need * 4096
  let s1 := match c.conf with
    | some h => let m := getComm s h
      setComm s h { m with confBytes := m.confBytes + b
                           maxlat := max m.maxlat ((s.nowUs - c.grantUs) * 1200) }
    | none => s
  let s2 := match c.excess with
    | some h => setComm s1 h { getComm s1 h with excessBytes := (getComm s1 h).excessBytes + b }
    | none => s1
  let s3 := setNs s2 c.slot { getNs s2 c.slot with
    hostWritten := satAdd 64 (getNs s2 c.slot).hostWritten c.need }
  let n := (getNch s3 c.niche).sinceCkpt + c.need
  let s4 := setNch s3 c.niche { getNch s3 c.niche with
    hostWritten := satAdd 64 (getNch s3 c.niche).hostWritten c.need
    sinceCkpt := if 262144 ≤ n then 0 else n }
  if 262144 ≤ n then addJob s4 (.checkpoint c.niche) else s4

/-- A write's commit (R28): every sector takes its place, the zone advances, the CQE is scheduled. -/
def commitWrite (s : State) (id : Nat) : State :=
  let c := getCmd s id
  let i := c.slot
  let w : Writer := { slot := i, zone := c.zone, comm := if c.zone.isSome then c.conf.orElse (fun _ => c.excess) else none
                      cls := if c.cls == 3 then 3 else 2 }
  let data := c.out.zipIdx.map (fun vj => (c.lo + vj.2, vj.1))
  let r := placeAll w data (lostCut s i c.lo c.hi)
  let s1 := flushNote (passBufs c.got r.2 r.1) id (r.2.map (·.1)).dedup
  match c.zone with
  | some z =>
    let q := commitZone s1 c z
    let dw0 := if c.io.op == .frameAppend then c.lo - z * zsze (getNs s i).attr.zw
      else if c.io.op == .zoneAppend then c.lo % 2 ^ 32 else 0
    let dw1 := if c.io.op == .frameAppend then q.2.getD 0xFFFFFFFF
      else if c.io.op == .zoneAppend then c.lo / 2 ^ 32 else 0
    complete (commitCounts q.1 c) id .success dw0 dw1
  | none =>
    let s2 := { s1 with fineQ := s1.fineQ ++ data.map (fun d => lk i d.1) }
    complete (refreshGc (commitCounts s2 c) c.niche) id .success

def execWriteCommitPoint (id : Nat) (s : State) : Out :=
  let c := getCmd s id
  if !(hasCmd s id) || c.phase != .started || !(writesData s c.slot c.io) || !c.want.isEmpty ||
      c.recv.length != c.need || c.segs != segCount c.lo c.hi then ok s
  else ok (commitWrite s id)

/-- What a Compare finds on the media, in the stored form its host data has (R509); a sector without stored
content compares as what it reads as. -/
def storedSec (s : State) (slot : Nat) (r : RdSec) : Nat :=
  match r.st with
  | .ready v => storedOf (getNs s slot).fmt v
  | _ => storedFrom s slot r.lba (unwritten (getNs s slot))

/-- The data a Read returns: the sectors one after another, their metadata with them where the namespace has
extended LBAs and otherwise in the second buffer, shown from offset 2^40 on (R146). -/
def readFlds (n : Ns) (io : IoCmd) (l : List Nat) : List Fld :=
  let b := hostBytes n io
  l.zipIdx.flatMap (fun vj =>
    if n.ext || b == 4096 then [⟨vj.2 * b, b, vj.1⟩]
    else [⟨vj.2 * 4096, 4096, vj.1 % 2 ^ 32768⟩, ⟨2 ^ 40 + vj.2 * (b - 4096), b - 4096, vj.1 >>> 32768⟩])

/-- Sectors a host has read are counted (R145). -/
def countRead (s : State) (c : Cmd) : State :=
  let s1 := setNch s c.niche { getNch s c.niche with hostRead := satAdd 64 (getNch s c.niche).hostRead c.need }
  setNs s1 c.slot { getNs s1 c.slot with hostRead := satAdd 64 (getNs s1 c.slot).hostRead c.need }

/-- A Read, Verify or Compare ends with its data (R33, R116, R147, R509). -/
def readSent (s : State) (id : Nat) : State :=
  let c := getCmd s id
  let n := getNs s c.slot
  if c.io.op == .compare then
    complete s id (if c.rds.map (storedSec s c.slot) == c.out then .success else .compareFail)
  else
    let l := c.out.zipIdx.map (fun vj => sentSector n c.io vj.2 vj.1)
    match l.findSome? (fun r => r.2) with
    | some st => complete s id st
    | none =>
      if c.io.op == .read then complete (countRead s c) id .success 0 0 (readFlds n c.io (l.map (·.1)))
      else complete s id .success

/-- The last data of a Read has been handed to the port, or the last sector of a Verify or Compare
has been checked: the command's commit point (R33, R116, R147, R509). -/
def execReadDataSentNotice (id : Nat) (s : State) : Out :=
  let c := getCmd s id
  if !(hasCmd s id) || c.phase != .started || !(isRead c.io.op) || !c.want.isEmpty ||
      !(c.rds.all (fun r => rdDone r.st)) || c.rds.isEmpty || c.segs != segCount c.lo c.hi then ok s
  else ok (readSent s id)

/-- The oldest fine-map update due is made (R181); a page the cache lacks is read from the Plinth first. -/
def execFineMapUpdate (s : State) : Out :=
  match s.fineQ with
  | [] => ok s
  | k :: t => ok (if pageHeld s (k / 2048) then setFine { s with fineQ := t } k else askPage s (k / 2048))

/-! ### Completion entries and interrupts (R84, R116, R118) -/

/-- A message of vector `v`: sent, or pending while masked (R84). -/
def sendMsg (s : State) (c v : Nat) : State :=
  let x := getCtrl s c
  if !x.fmask && x.unmasked.contains v then setCtrl s c { x with msgs := x.msgs + 1 }
  else setCtrl s c { x with pend := if x.pend.contains v then x.pend else x.pend ++ [v] }

/-- The interrupt of a posted entry: at once, or once the aggregation threshold is met (feature
08h); the admin CQ and a vector whose coalescing is disabled (feature 09h) are not coalesced. -/
def interrupt (s : State) (c q : Nat) : State :=
  let v := getCq s (qk c q)
  if !v.ien then s
  else
    let x := getCtrl s c
    let thr := x.coal % 256
    if q == 0 || thr == 0 || tget 0 x.ivConf v.iv != 0 then sendMsg s c v.iv
    else
      let n := tget 0 x.coalCnt v.iv + 1
      if n ≤ thr then setCtrl s c { x with coalCnt := tset 0 x.coalCnt v.iv n }
      else sendMsg (setCtrl s c { x with coalCnt := tset 0 x.coalCnt v.iv 0 }) c v.iv

/-- The oldest waiting entry of CQ (c, q) is posted, if its ring has a free slot (R115, R118); over a lost link it is
discarded unsent (R91 steps 3 and 5). -/
def execCqePosting (c q : Nat) (s : State) : Out :=
  let k := qk c q
  let v := getCq s k
  match v.waiting with
  | [] => ok s
  | e :: t =>
    if portLost s c then ok (setCq s k { v with waiting := t })
    else if !v.live || decide (v.size ≤ v.ring.length + 1) then ok s
    else
      let w := v.tail + 1 == v.size
      ok (interrupt (setCq s k { v with
        waiting := t, ring := v.ring ++ [e], tail := if w then 0 else v.tail + 1
        phase := if w then !v.phase else v.phase }) c q)

/-- The aggregation time of a vector has passed: its message is sent (R84). -/
def execAggregationTimeExpiry (c vector : Nat) (s : State) : Out :=
  let x := getCtrl s c
  if tget 0 x.coalCnt vector == 0 then ok s
  else ok (sendMsg (setCtrl s c { x with coalCnt := tset 0 x.coalCnt vector 0 }) c vector)

/-- The mask of one vector, or Function Mask, is written (R84): what is pending is sent once it is cleared. -/
def execMsixVectorUnmask (c : Nat) (vector : Option Nat) (mask : Bool) (s : State) : Out :=
  let x := getCtrl s c
  let rest := match vector with | some v => x.unmasked.filter (fun w => w != v) | none => []
  let y := match vector with
    | some v => { x with unmasked := if mask then rest else if x.unmasked.contains v then x.unmasked else x.unmasked ++ [v] }
    | none => { x with fmask := mask }
  let send := y.pend.filter (fun v => !y.fmask && y.unmasked.contains v)
  ok (setCtrl s c { y with pend := y.pend.filter (fun v => !(send.contains v)), msgs := y.msgs + send.length })

/-! ### Tokens and re-evaluation -/

/-- 1 µs of the commissions' buckets: each gains r bytes, saturating at b (R192, R194). -/
def execCommissionTokenRefill (s : State) : Out :=
  ok { s with comms := tmap {} s.comms (fun _ c =>
    if commLive c then { c with tokens := min (c.tokens + c.rate) (c.burst * 4096) } else c) }

/-- Standard-class rate limit of a thermal stage in MB/s (R432). -/
def stdLimit (st : Nat) : Nat :=
  match st with | 1 => 8000 | 2 => 4000 | 3 => 2000 | _ => 1000

/-- 1 µs of the Standard limits of R409 and R432. -/
def execStandardLimitTokenRefill (s : State) : Out :=
  let t := if s.thm.stage == 0 then s.thm
    else { s.thm with stdTokens := min (s.thm.stdTokens + stdLimit s.thm.stage) limitDepth }
  let p := if s.pm.ps == 2 then { s.pm with ps2 := min (s.pm.ps2 + 2000) limitDepth } else s.pm
  ok { s with thm := t, pm := p }

/-- Re-evaluation (R208): one that was triggered meanwhile follows. -/
def execReEvaluation (s : State) : Out :=
  if !s.cms.reeval then ok s
  else
    let r := reevaluate s
    ok { r with cms := { r.cms with reeval := s.cms.again, again := false } }

/-! ### Errors of a transfer (R86) -/

/-- AER status bits of PCIe Base: Poisoned TLP Received (12), Completion Timeout (14) and Uncorrectable Internal
Error (22). -/
def aerPoison : Nat := 4096
def aerTimeout : Nat := 16384
def aerInternal : Nat := 4194304

/-- What the port signals: correctable errors, and an advisory one, send ERR_COR; an uncorrectable one has the default
severity of its bit, fatal for those of the data link layer, flow control, receiver overflow, malformed TLPs and
internal errors (PRESUMED, PCIe Base; notes/assumptions/37.md). -/
def aerMsg (status : Nat) (advisory : Bool) : Nat :=
  if advisory || decide (2 ^ 32 ≤ status) then 0
  else if [4, 5, 13, 17, 18, 22].any (fun b => bitOf status b) then 2 else 1

/-- An AER error is logged and signalled (R86). -/
def aerLog (s : State) (c status : Nat) (advisory : Bool) : State :=
  let p := getPort s (portOf c)
  setPort s (portOf c) { p with aer := p.aer ++ [(fnOf c, status, aerMsg status advisory)] }

/-- One of the errors R86 lists, with its Patina record of port, function and status. -/
def aerRec (s : State) (c status : Nat) (advisory : Bool) : State :=
  devRec (aerLog s c status advisory) 0x21 3 (portOf c) status (fnOf c)

/-- A poisoned completion of a write's data read: Data Transfer Error, nothing committed (R86). -/
def execPoisonedCompletion (id : Nat) (s : State) : Out :=
  let c := getCmd s id
  if !(hasCmd s id) || c.phase != .started || decide (c.recv.length = c.need) then ok s
  else ok (complete (aerRec s (ctrlOfSq c.sq) aerPoison true) id .dataXfer)

/-- The entry at ring index `x` of SQ `k` that no fetch returned: its fields are free values. -/
def lostIo (k x : Nat) : IoCmd :=
  { op := .other (Config.lostEntry k x 1), cid := Config.lostEntry k x 0, nsid := Config.lostEntry k x 2
    slba := Config.lostEntry k x 3 }

/-- A fetch that timed out (R86, R124): its first command ends with Data Transfer Error and freezes
the SQ, the others complete with 0x80 as the entries of a fetch in flight at the freeze do. -/
def fetchTimeout (s : State) (c q : Nat) : State :=
  let k := qk c q
  let v := getSq s k
  let ix := (List.range v.inflight).map (fun j => (v.head + j) % v.size)
  let s1 := setSq (aerRec s c aerTimeout false) k { v with inflight := 0, head := (v.head + v.inflight) % v.size }
  match ix, v.frz with
  | x :: t, none =>
    let io := lostIo k x
    let s2 := logError (ioCqe s1 k io.cid .dataXfer) c { sq := q, cid := io.cid, status := .dataXfer, lba := io.slba, nsid := io.nsid }
    t.foldl (fun a y => land a k (lostIo k y)) (freezeSq s2 k { sq := k, io := io } .dataXfer)
  | l, _ => l.foldl (fun a y => land a k (lostIo k y)) s1

/-- A completion timeout of a data read ends its command with Data Transfer Error; one of an SQ fetch
ends the commands it was fetching; any other AER error is logged and signalled (R86). -/
def execCompletionTimeout (what : TimeoutOf) (s : State) : Out :=
  match what with
  | .command id =>
    let c := getCmd s id
    if !(hasCmd s id) || c.phase != .started || decide (c.recv.length = c.need) then ok s
    else ok (complete (aerRec s (ctrlOfSq c.sq) aerTimeout false) id .dataXfer)
  | .fetch c q =>
    let v := getSq s (qk c q)
    if q == 0 then
      ok (if adminServed s c && v.head != v.tail then
        adone (adminFetch (aerRec s c aerTimeout false) c) c (Config.lostEntry (qk c 0) v.head 0) .dataXfer else s)
    else if v.inflight == 0 then ok s else ok (fetchTimeout s c q)
  | .other c status => ok (if fnExists s c then aerLog s c status false else s)

end Sys2Proof.Machine
end

