-- ==== Sys2Proof/Machine/MediaOps.lean ====
section
/-! DEFINITION. The media scheduler's operations (R216 to R235) and what the end of a die operation
does (R30, R31, R246, R259 to R271, R276, R277): tokens, the calendar, loads, programs, erases, codeword
reads and their ladder, failures and retirement. -/

namespace Sys2Proof.Machine

/-! ### Die parameters and tokens -/

/-- s_cost in µs (R224). -/
def sCost (s : State) : Nat := s.arm.cfg.geom.tPs + s.arm.cfg.geom.tR + 10

/-- Whether no die starts an operation: a flush or a stop, or PS3 and PS4 outside a window of R417
(R345, R411, R417). -/
def mediaHeld (s : State) : Bool :=
  match s.boot.phase with
  | .mount | .ready | .released => decide (s.pm.ps ≥ 3) && !s.pm.window
  | _ => true

/-- Whether no die starts a new operation: an entry into PS3 or PS4 lets the dies come to rest as well once no command is
outstanding (R252, R418). -/
def startsHeld (s : State) : Bool := mediaHeld s || (s.pm.entry != .none && quiet s)

/-- K_c (R231). -/
def kC (s : State) : Nat := if 500 < sCost s then 0 else min s.arm.cfg.urgMax (500 / sCost s)

/-- W_D in µs (R224). -/
def wD (s : State) : Nat :=
  max (kC s * sCost s) (max s.arm.cfg.geom.tEs (s.arm.cfg.geom.tR + 50))

/-- Whether a live commission is charged on rank `k` (R219). -/
def charged (s : State) (k : Nat) : Bool :=
  (liveComms s).any (fun h => (chargedRanks s (handleNiche h) (widthOf s (getComm s h).slot)).contains k)

/-- ICC tokens an operation holds (R229). -/
def opTokens (s : State) (op : DieOp) : Nat :=
  let g := s.arm.cfg.geom
  match op with
  | .idle | .copyXfer _ | .copyLoad _ => 0
  | .load sid => if commStripe s (getStripe s sid) then g.iProg else 0
  | .program _ | .copy _ => g.iProg
  | .read _ | .copyRead _ => g.iRead
  | .erase _ | .spare => g.iErs

/-- ICC tokens one die holds: its operation's, and those of one whose suspend is under way (R229). -/
def dieTokens (s : State) (d : Die) : Nat :=
  opTokens s d.op + (if d.suspWait then opTokens s (d.susp.getD .idle) else 0)

/-- ICC tokens held now (R229), and those held once every suspend under way has taken effect. -/
def iccUsed (s : State) : Nat := sumBy (fun kv : Nat × Die => dieTokens s kv.2) s.dies
def iccAfter (s : State) : Nat := sumBy (fun kv : Nat × Die => opTokens s kv.2.op) s.dies

/-- Whether a channel drove a codeword burst in this microsecond; command cycles hold their tokens for less than one
(R229, R247). -/
def burstNow (s : State) (v : Chan) : Bool := v.drv.any (fun e => e.1 == s.nowUs && decide (256 ≤ e.2))

/-- ICCQ tokens held now (R229): one transfer on each channel that began a burst in this microsecond. -/
def iccqUsed (s : State) : Nat :=
  s.arm.cfg.geom.iXfer * (s.chans.filter (fun kv => burstNow s kv.2)).length

/-- Whether the ICCQ pool has the tokens of a burst or of command cycles for a channel: its own burst of this
microsecond counts once (R229). -/
def iccqFor (s : State) (ch : Nat) : Bool :=
  burstNow s (getChan s ch) || decide (iccqUsed s + s.arm.cfg.geom.iXfer ≤ s.arm.cfg.dev.iccq)

/-- A channel begins to drive `n` NCLK (R229, R255). -/
def drive (s : State) (ch n : Nat) : State :=
  let v := getChan s ch
  setChan s ch { v with drv := (s.nowUs, n) :: v.drv.filter (fun e => decide (s.nowUs < e.1 + 1000)) }

/-- The channel of die `d` drives `n` NCLK for it, and 16 more where the active CE# changes (R247). -/
def driveDie (s : State) (d n : Nat) : State :=
  let ce := d % 32 / 4
  let v := getChan s (d / 32)
  if v.ce == ce then drive s (d / 32) n
  else drive (setChan s (d / 32) { v with ce := ce }) (d / 32) (n + 16)

/-- Eligible commissioned stripes of rank `k` not yet granted. -/
def eligibles (s : State) (k : Nat) : List Nat :=
  tkeys s.stripes (fun _ x => x.rank == k && x.phase == .eligible && commStripe s x)

/-- The token floor F_C (R230). -/
def tokenFloor (s : State) : Nat :=
  sumBy (fun k => (eligibles s k).length * nk s k * s.arm.cfg.geom.iProg) (List.range 32)

/-- Whether an operation that is no commissioned program may take `need` tokens (R229, R230), now and once every
suspend under way has taken effect. -/
def tokensFor (s : State) (need : Nat) : Bool :=
  decide (iccUsed s + need + tokenFloor s ≤ s.arm.cfg.dev.icc)
def tokensThen (s : State) (need : Nat) : Bool :=
  decide (iccAfter s + need + tokenFloor s ≤ s.arm.cfg.dev.icc)

/-- The largest ICC use so far is kept (R236). -/
def notePeak (s : State) : State := { s with sched := { s.sched with peak := max s.sched.peak (iccUsed s) } }

def isEraseOp (o : DieOp) : Bool := match o with | .erase _ | .spare => true | _ => false
def isErasing (d : Die) : Bool := isEraseOp d.op

/-- A die with nothing running, suspended or waiting in its page register. -/
def dieFree (d : Die) : Bool := d.op == .idle && d.susp.isNone && d.xfer.isNone

/-- The program a die has suspended (R231, R232); a suspended erase is none. -/
def suspendedProgram (d : Die) : Option DieOp :=
  match d.susp with
  | some o => if isEraseOp o then none else some o
  | none => none

/-- The suspended operation of a die runs again, under its own niche, kind and reserve mark; an erase suspended before
it stays suspended. -/
def takeUp (d : Die) : Die :=
  match d.susp with
  | some o =>
    let b := d.below.getD (.idle, 0, 0, false)
    { d with op := o, kind := d.suspKind, niche := d.suspNiche, resv := d.suspResv, susp := d.below.map (·.1)
             suspNiche := b.2.1, suspKind := b.2.2.1, suspResv := b.2.2.2, below := none, suspWait := false, suspRd := none }
  | none => d

/-- A die's suspended program runs again (R229, R249, R345). -/
def resumeDie (d : Die) : Die := if d.op == .idle && (suspendedProgram d).isSome then takeUp d else d

/-- The running operation of a die is suspended, for read `rd` where it is for one. -/
def suspendOp (d : Die) (rd : Option Nat) : Die :=
  { d with op := .idle, susp := some d.op, suspNiche := d.niche, suspKind := d.kind, suspResv := d.resv
           below := d.susp.map (fun o => (o, d.suspNiche, d.suspKind, d.suspResv))
           suspWait := true, suspRd := rd, kind := 0, resv := false }

/-- The healthy dies of a rank. -/
def rankDies (s : State) (k : Nat) : List Nat := (healthy s k).map (fun c => dk c k)

/-- NCLK of the command and address cycles of an operation (R247). -/
def opNclk : DieOp → Nat
  | .erase _ | .spare => 24
  | .idle | .copyXfer _ => 0
  | _ => 64

/-- Start an operation on a die (R217: its kind, the niche charged, whether it counts as reserve), with its command and
address cycles on the channel (R247). -/
def setOp (s : State) (d : Nat) (op : DieOp) (kind niche : Nat) (resv : Bool) : State :=
  let s1 := if opNclk op == 0 then s else driveDie s d (opNclk op)
  let v := getDie s1 d
  setDie s1 d { v with op := op, opUs := s.nowUs, kind := kind, niche := niche, resv := resv, bursts := 0 }

def idleDie (s : State) (d : Nat) : State :=
  let v := getDie s d
  setDie s d { v with op := .idle, kind := 0, resv := false, bursts := 0 }

/-- A running erase of a die is suspended (R224, R230, R232); on a bus that is out of service no command is issued
(R250). -/
def suspendErase (s : State) (d : Nat) : State :=
  let v := getDie s d
  if isErasing v && v.susp.isNone && !(getChan s (d / 32)).retrain && iccqFor s (d / 32) then
    driveDie (setDie s d (suspendOp v none)) d 16
  else s

def suspendErases (s : State) (l : List Nat) : State := l.foldl suspendErase s

/-- Running erases are suspended, highest rank first, until `need` tokens come free (R230). -/
def suspendForTokens (s : State) (need : Nat) : List Nat → State
  | [] => s
  | k :: t =>
    if iccAfter s + need ≤ s.arm.cfg.dev.icc then s
    else suspendForTokens (suspendErases s (rankDies s k)) need t

/-- The next number of the grant order (R233), and the next device sequence number (R349). -/
def nextGrant (s : State) : State := { s with sched := { s.sched with grantNo := s.sched.grantNo + 1 } }
def nextSeq (s : State) : State := { s with sched := { s.sched with seqNo := s.sched.seqNo + 1 } }

/-! ### The calendar (R216 to R218, R228) -/

/-- The calendar entry for a die's present state: KIND, NICHE and RES. A die whose program is suspended is at 9h
with the program's owner. -/
def calEntry (s : State) (k : Nat) (d : Die) : Nat :=
  let held := d.op == .idle && (suspendedProgram d).isSome
  let kind := if held then 9 else if d.op == .idle then 0 else d.kind
  let niche := if held then d.suspNiche else d.niche
  let res := kind == 3 || kind == 4 || kind == 5 || kind == 7 || (kind == 8 && charged s k)
  kind + (if kind == 0 then 0 else niche * 16) + (if res then 1024 else 0)

/-- Reserve ticks R_T of a window (R218). -/
def resvTicks (s : State) : Nat := s.arm.cfg.rho * 1024 / 1000

/-- The calendar of a rank: that of its lowest healthy die (R236). -/
def calOf (s : State) (k : Nat) : List Nat :=
  match healthy s k with | c :: _ => (getDie s (dk c k)).cal | [] => []

def ticksOf (l : List Nat) (p : Nat → Bool) : Nat := (l.filter p).length

/-- Whether rank `k` is shared by more than one niche (R228). -/
def sharedRank (s : State) (k : Nat) : Bool :=
  (validNiches s).any (fun n => bitOf (nicheCfg s n).sharedSet k)

/-- Niche `n`'s part of R_T on rank `k`: all of it where the rank is not shared, else by its part of the sharing
niches' CAL_SHARE (R228). -/
def resvPart (s : State) (k n : Nat) : Nat :=
  let all := sumBy (fun m => (nicheCfg s m).calShare) ((validNiches s).filter (fun m => bitOf (nicheCfg s m).sharedSet k))
  if sharedRank s k then resvTicks s * (nicheCfg s n).calShare / max 1 all else resvTicks s

/-- Whether the reserve of die `d`, or niche `n`'s part of it, is not used up (R218, R227, R228). -/
def resvLeft (s : State) (d n : Nat) : Bool :=
  let k := d % 32
  decide (ticksOf (getDie s d).cal (fun e => e / 1024 == 1 && (!(sharedRank s k) || e / 16 % 64 == n)) < resvPart s k n)

/-- Whether niche `n` has reached its calendar share on rank `k` (R228). -/
def shareUsed (s : State) (k n : Nat) : Bool :=
  sharedRank s k && decide ((nicheCfg s n).calShare * 1024 / 256 ≤
    ticksOf (calOf s k) (fun e => e % 16 != 0 && e / 16 % 64 == n))

/-- The niche that owns row `r` of rank `k`; system rows count for niche 0. -/
def rowOwner (s : State) (k r : Nat) : Nat :=
  ((validNiches s).find? (fun n => let x := rowRange s n k
    decide (x.1 ≤ r) && decide (r < x.1 + x.2))).getD 0

/-! ### Erases (R166, R188, R226) -/

/-- The erase of row (k, r) starts on every healthy die of the rank. -/
def startErase (s : State) (k r : Nat) : State :=
  let s1 := setRow s (rk k r) { getRow s (rk k r) with st := .erasing }
  notePeak ((rankDies s1 k).foldl (fun a d => setOp a d (.erase r) 5 (rowOwner s k r) true) s1)

/-- Whether a stripe of the row is still being loaded or programmed, or its data read (R187, R274). -/
def rowBusy (s : State) (k r : Nat) : Bool :=
  s.stripes.any (fun kv => kv.2.rank == k && kv.2.row == r &&
    (kv.2.phase == .granted || kv.2.phase == .issued)) ||
  s.reads.any (fun kv => kv.2.sid != 0 && kv.2.rank == k && (getStripe s kv.2.sid).row == r)

/-- Whether any die of rank `k` still erases row `r`, running or suspended. -/
def stillErasing (s : State) (k r : Nat) : Bool :=
  s.dies.any (fun kv => kv.1 % 32 == k && (kv.2.op == .erase r || kv.2.susp == some (.erase r) ||
    kv.2.below.any (fun b => b.1 == .erase r)))

/-- The row is erased once its last die's erase has ended (R187, R276). -/
def endErase (s : State) (k r : Nat) : State :=
  if stillErasing s k r then s else setRow s (rk k r) {}

/-- The free rows of niche `n` on rank `k`, erased or pending, lowest first: the first two (R166). -/
def freeRows2 (s : State) (n k : Nat) : List Nat :=
  let r := rowRange s n k
  let busy := (listedRows s n k (fun st => st == .bound || st == .leaving || st == .out)).map (fun i => (i, ()))
  match tfree busy r.2 r.1 with
  | none => []
  | some a => match tfree busy (r.1 + r.2 - a - 1) (a + 1) with
    | none => [a]
    | some b => [a, b]

/-- The rows two further zones of width `w` would bind, pending rows counted as erased (R166). -/
def aheadOf (s : State) (n w : Nat) : List (Nat × Nat) :=
  let ranks := fun g => (List.range w).map (fun j => g * w + j)
  let cnt := fun k => erasedCount s n k + (pendingRows s n k).length
  let pick := fun c : Nat → Nat =>
    let gs := (groupsOf s n w).filter (fun g => decide (0 < minBy c 0 (ranks g)))
    argMin (fun g => 8192 - minBy c 0 (ranks g)) gs
  match pick cnt with
  | none => []
  | some g =>
    let first := (ranks g).map (fun k => (k, (freeRows2 s n k).getD 0 0))
    match pick (fun k => if (ranks g).contains k then cnt k - 1 else cnt k) with
    | none => first
    | some h => first ++ (ranks h).map (fun k =>
        (k, (freeRows2 s n k).getD (if (ranks g).contains k then 1 else 0) 0))

/-- The rows kept erased ahead of live commissions (R166). -/
def aheadRows (s : State) : List (Nat × Nat) :=
  (liveComms s).flatMap (fun h => aheadOf s (handleNiche h) (widthOf s (getComm s h).slot))

/-! ### Recast queueing (R271) -/

/-- Queue a row for Recast: 1 within 24 h, 2 at once; the earlier deadline stays (R271). -/
def queueRecast (s : State) (k r q : Nat) : State :=
  let v := getRow s (rk k r)
  if v.st != .bound || decide (q ≤ v.queue) then s
  else setRow s (rk k r) { v with queue := q, queuedUs := if v.queue == 0 then s.opUs else v.queuedUs }

/-- Niches whose rank set holds rank `k`. -/
def nichesOn (s : State) (k : Nat) : List Nat :=
  (validNiches s).filter (fun n => bitOf (nicheCfg s n).rankSet k)

/-- A running copy of row `key` ends without a swap; its buffers are freed and its destination is erased again
(R187, R275, R356). -/
def dropCopy (s : State) (key : Nat) : State :=
  let v := getRow s key
  match v.dest with
  | none => freeOwned s (copyOwner key)
  | some f => setRow (setRow (freeOwned s (copyOwner key)) key { v with
        dest := none, copied := 0, copyPh := 0, copyT := 0, copyCh := none, copyBad := [], cols := [], swapJ := false })
      (rk (key / 8192) f) (pendRow s)

/-! ### The end of a codeword read (R33, R181, R183, R264, R268 to R271) -/

/-- The counters and health triggers of a codeword that succeeded (R270, R271). -/
def decodeGood (s : State) (n k r step bits : Nat) : State :=
  let v := getNch s n
  let s1 :=
    if step == 0 then s
    else if step < 8 then setNch s n { v with retryReads := satAdd 64 v.retryReads 1 }
    else if step == 8 then setNch s n { v with softDecodes := satAdd 64 v.softDecodes 1 }
    else setNch s n { v with rebuilds := satAdd 64 v.rebuilds 1 }
  if step ≥ 9 then queueRecast s1 k r 2
  else if step ≥ 2 || (step == 0 && decide (28 < bits)) then queueRecast s1 k r 1 else s1

/-- The sectors that wait for a map page look for their source again (R181). -/
def pageCame (s : State) (pg : Nat) : State :=
  (tkeys s.cmds (fun _ _ => true)).foldl (fun a id =>
    let w := (getCmd a id).rds.zipIdx.filter (fun rj => rj.1.st == .page pg)
    if w.isEmpty then a else readArrived (w.foldl (fun b rj => askSector id b rj.2) a) id) (touchPage s pg)

/-- A zone's seal state is in the retention bank again (R321, R326); one that no copy gives is formed again from the
stored ciphertext (R355; notes/assumptions/6.md). -/
def sealStateCame (s : State) (i z : Nat) : State :=
  setZone s (zk i z) { getZone s (zk i z) with sealSaved := false }

/-- The buffer of a collection passes to its stripe once its last read has ended (R183, R290). -/
def gcBuffer (s : State) (i : Nat) (place : Option (Nat × Nat)) : State :=
  let more := s.reads.any (fun kv => match kv.2.own with | .gc j _ => j == i | _ => false)
  (ownedBufs s (gcOwner i)).foldl (fun a k =>
    let l := (tget ({} : Buf) a.pool.bufs k).parts ++ (match place with | some p => [(p.1, p.2, 1)] | none => [])
    match more, l with
    | true, _ => passBuf a k (gcOwner i) l
    | false, p :: _ => passBuf a k (stripeOwner p.1) l
    | false, [] => releaseBuf a k) s

/-- Whether the region of slot `i` is collected in foreground mode, and whether in background mode (R184). -/
def fgMode (s : State) (i : Nat) : Bool := decide (fineFree s i < gcLevel s i)
def bgMode (s : State) (i : Nat) : Bool :=
  (getNch s (getNs s i).attr.niche).bgGc && decide (fineFree s i < 2 * gcLevel s i)

/-- A sector of a victim is copied to the collection row, and its map entry follows if it still points at the
source (R183 steps 2 and 3); an entry whose page is not held waits for it (R181). -/
def gcPlace (s : State) (i lba sid : Nat) : State :=
  let v := tget ({} : Sector) s.sectors (lk i lba)
  if v.sid != sid || v.unc then gcBuffer s i none
  else
    let n := (getNs s i).attr.niche
    let r := placeSector s { slot := i, zone := none, gc := true, cls := if fgMode s i then 2 else 3 } lba (cellOf s v)
    refreshGc (gcBuffer (noteFine r.1 (lk i lba)) i (some r.2)) n

/-- The ladder of read `i` has ended: its entry goes and the die is back at read-retry level 0 (R268). -/
def endLadder (s : State) (i : Nat) : State :=
  let r := getRd s i
  let d := dk r.ch r.rank
  let s1 := leaveWaits { s with reads := tdrop s.reads (fun k v => k == i || v.own == .unit i) }
  setDie s1 d { getDie s1 d with level := 0, offset := 0 }

/-- A codeword has been decoded or restored: what its owner does with it. -/
def deliver (s : State) (i info : Nat) : State :=
  let r := getRd s i
  let s1 := endLadder s i
  match r.own with
  | .cmd id j =>
    let c := getCmd s1 id
    readArrived (setCmd s1 id { c with rds := c.rds.set j { (c.rds.getD j ⟨c.lo + j, .zero⟩) with st := .ready info } }) id
  | .gc slot lba => gcPlace s1 slot lba r.sid
  | .page pg => pageCame s1 pg
  | .sealState slot zone => sealStateCame s1 slot zone
  | .scrub => s1
  | .unit _ => setRd s i { r with st := .good, val := info }

/-- The sector at codeword `ix` of channel `c` of a stripe is lost: where it is the newest content of an LBA, that LBA
enters the lost-sector table (R270). -/
def loseSector (s : State) (sid c ix : Nat) : State :=
  let x := getStripe s sid
  match roleOf s x ((dataChans x).idxOf c) ix with
  | .user p =>
    let lba := (tget ({} : Cell) x.cells p).lba
    let v := tget ({} : Sector) s.sectors (lk x.slot lba)
    if !((parityChans x).contains c) && v.sid == sid && v.pos == p && !v.unc && !(lostHit s x.slot lba lba) then
      lostAdd s x.slot [lba]
    else s
  | _ => s

/-- Step 9 has failed, or cannot be tried: the units that are missing are erasures, the sector is lost and a
host read of it ends (R264, R268, R270). -/
def rdLost (s : State) (i : Nat) : State :=
  let r := getRd s i
  let bad := r.ch :: (s.reads.filterMap (fun kv => if kv.2.own == .unit i && kv.2.st == .bad then some kv.2.ch else none))
  let s1 := if r.sid == 0 then s else loseSector (bad.foldl (fun a c => addErasure a r.sid c) s) r.sid r.ch r.ix
  let s2 := endLadder s1 i
  match r.own with
  | .cmd id j =>
    let c := getCmd s2 id
    if hasCmd s2 id then
      readArrived (setCmd s2 id { c with rds := c.rds.set j { (c.rds.getD j ⟨c.lo + j, .zero⟩) with st := .lost } }) id
    else s2
  | .gc slot _ => gcBuffer s2 slot none
  | .scrub => s2
  | .sealState slot zone => sealStateCame s2 slot zone
  | .page pg => (tkeys s2.cmds (fun _ _ => true)).foldl (fun a id =>
      let c := getCmd a id
      if c.rds.any (fun x => x.st == .page pg) then
        readArrived (setCmd a id { c with rds := c.rds.map (fun x => if x.st == .page pg then { x with st := .lost } else x) }) id
      else a) s2
  | .unit _ => s2

/-- Every unit of the rebuild of read `p` has ended: the erasure decode, and the check of R269 on what it gives
(R259, R268 step 9). -/
def settleRebuild (s : State) (p : Nat) : State :=
  let r := getRd s p
  let kids := s.reads.filterMap (fun kv => if kv.2.own == .unit p then some kv.2 else none)
  if !(hasRd s p) || kids.any (fun k => k.st != .good && k.st != .bad) then s
  else
    let x := getStripe s r.sid
    let got := fun c : Nat => (kids.find? (fun k => k.ch == c && k.st == .good)).map (·.val)
    match rebuildInfo x r.ch got with
    | none => rdLost s p
    | some v =>
      if tagGood s x r.ch r.ix v then deliver (decodeGood s r.niche x.rank x.row 9 0) p v
      else rdLost (queueRecast (nicheRec s r.niche 0x52 6 0 (tagOf v)) x.rank x.row 2) p

/-- A codeword read has failed steps 0 to 8, or cannot be made (R264, R268): a unit of a rebuild is a further
erasure, and any other codeword goes to step 9. A map page or a seal state that cannot is read from its other copy
once. -/
def toStep9 (s : State) (i : Nat) : State :=
  let r := getRd s i
  let d := dk r.ch r.rank
  let s1 := setDie s d { getDie s d with level := 0, offset := 0 }
  match r.own with
  | .unit p => settleRebuild (setRd s1 i { r with st := .bad }) p
  | .page _ | .sealState _ _ =>
    let q := plinthRanks s1
    if rebuildable s1 r then startRebuild s1 i
    else if r.rank == q.1 && q.2 != q.1 then
      let o := plinthRd s1 r.own q.2 r.ch
      setRd s1 i { r with sid := o.sid, rank := o.rank, ch := o.ch, ix := o.ix, step := 0, soft := 0, st := .wait }
    else rdLost s1 i
  | _ => if rebuildable s1 r then startRebuild s1 i else rdLost s1 i

/-- Reads on their way to a unit that has gone missing go to step 9 (R264, R277). -/
def reroute (s : State) (p : Rd → Bool) : State :=
  (tkeys s.reads (fun _ r => p r && (r.st == .wait || r.st == .array || r.st == .xfer))).foldl (fun a i =>
    let r := getRd a i
    if !(hasRd a i) || (if r.sid == 0 then (getDie a (dk r.ch r.rank)).retired else unitGone a (getStripe a r.sid) r.ch) == false then a
    else toStep9 a i) s

/-! ### Plinth programs (R20, R39, R217, R226, R274, R348, R349, R447) -/

/-- The programmed stripes of a row. -/
def presentStripes (s : State) (k r : Nat) : List Nat :=
  (stripesOfRow s k r).filter (fun i => (getStripe s i).phase == .done)

/-- Whether the destination of row `key` holds every stripe present in the source, each column copied again included
(R274, R275). -/
def copyWhole (s : State) (key : Nat) : Bool :=
  let v := getRow s key
  let n := (presentStripes s (key / 8192) (key % 8192)).length
  v.dest.isSome && v.copied == n && v.cols.all (fun e => e.2 == n)

/-- The maps as they stand (R349). -/
def mapImg (s : State) : MapImg :=
  { zones := s.zones, rows := s.rows, fine := s.fine, lost := s.niches.map (fun kv => (kv.1, kv.2.lost)) }

/-- The entries of `new` whose key `p` holds of, those of `old` elsewhere. -/
def mixed {α : Type} (p : Nat → Bool) (new old : List (Nat × α)) : List (Nat × α) :=
  (old.filter (fun kv => !(p kv.1)) ++ new.filter (fun kv => p kv.1)).mergeSort (fun a b => decide (a.1 ≤ b.1))

/-- What the Plinth gives once a checkpoint of niche `n` is on it (R348). -/
def nicheImg (s : State) (n : Nat) : MapImg :=
  let o := s.plinth.img
  let m := mapImg s
  { zones := mixed (fun k => (getNs s (k / 131072)).attr.niche == n) m.zones o.zones
    rows := mixed (fun k => rowOwner s (k / 8192) (k % 8192) == n) m.rows o.rows
    fine := mixed (fun k => (getNs s (k / 281474976710656)).attr.niche == n) m.fine o.fine
    lost := mixed (fun k => k == n) m.lost o.lost }

/-- A niche's checkpoint is complete (R321, R348): its root, in the other of the two areas, is the newest record; the seal
states of its Full, unsealed zones have moved to the Plinth. -/
def checkpointOf (s : State) (n : Nat) : State :=
  let v := getNch s n
  let s1 := setNch s n { v with ckptUs := s.opUs, sinceCkpt := 0 }
  { s1 with
    zones := tmap {} s1.zones (fun k z =>
      if (getNs s1 (k / 131072)).attr.niche == n && z.st == .full && z.sealed.isNone then
        { z with sealSaved := true } else z)
    plinth := { s1.plinth with newest := 1, rootArea := 1 - s1.plinth.rootArea, rootSeq := s1.sched.seqNo } }

/-- A journal page that took `n` records and the maps `m` at its load is programmed (R349): those records are on the
Plinth, swaps of the copies that were whole then among them (R274). -/
def journalPage (s : State) (n : Nat) (m : MapImg) : State :=
  { s with
    plinth := { s.plinth with jrnl := s.plinth.jrnl - n, img := m }
    rows := tmap {} s.rows (fun key v =>
      let w := tget ({} : Row) m.rows key
      if copyWhole s key && w.dest == v.dest && w.copied == v.copied && w.cols == v.cols then
        { v with swapJ := true } else v) }

/-- The ring and its counters as they stand (R447). -/
def patImage (s : State) : PatImg :=
  let p := s.pat
  { ring := p.ring, events := p.events, pwr := p.pwrcyc, opUs := s.opUs, drops := p.drops
    dropMax := p.dropMax, ovwr := p.overwrites, last := p.last }

/-- Image `i` of the ring is persisted (R447). -/
def persistImage (s : State) (i : PatImg) : State :=
  let p := s.pat
  { s with pat := { p with
    img := some i, taken := none, persistUs := some s.nowUs, count := satAdd 16 p.count 1 } }

/-- The ring is persisted as it stands (R447). -/
def persistPatina (s : State) : State := persistImage s (patImage s)

/-- What a Plinth program of job `j` carries is fixed at its load: the maps, or the ring. -/
def plTake (s : State) (sid : Nat) (j : PlJob) : State :=
  let add := fun (m : MapImg) (n : Nat) =>
    { s with plinth := { s.plinth with taken := (sid, m, n) :: s.plinth.taken } }
  match j with
  | .page => add (mapImg s) s.plinth.jrnl
  | .checkpoint n => add (nicheImg s n) 0
  | .patina => { s with pat := { s.pat with taken := some (patImage s) } }
  | .mirror => s

/-- Every program of Plinth stripe `sid` has ended: what it carried is on the Plinth. -/
def plDone (s : State) (sid : Nat) (j : PlJob) : State :=
  let q := ((s.plinth.taken.find? (fun e => e.1 == sid)).map (·.2)).getD ({}, 0)
  let t := { s with plinth := { s.plinth with taken := s.plinth.taken.filter (fun e => e.1 != sid) } }
  match j with
  | .page => journalPage t q.2 q.1
  | .checkpoint n => checkpointOf { t with plinth := { t.plinth with img := q.1 } } n
  | .patina => persistImage t (t.pat.taken.getD (patImage t))
  | .mirror =>
    let x := getStripe t sid
    { t with arm := { t.arm with
      mirror := some t.arm.seq, mirrorCfg := some t.arm.base
      mirrorDies := ((chIn x.chmask).filter (fun c => !(bitOf x.erased c))).map (fun c => dk c x.rank) } }

/-- Whether rank `k` carries the Plinth. -/
def isPlinth (s : State) (k : Nat) : Bool := k == (plinthRanks s).1 || k == (plinthRanks s).2

/-- Whether a journal page is on its way to the dies. -/
def pageOn (s : State) : Bool := s.stripes.any (fun kv => kv.2.pl == some .page && kv.2.phase != .done)

/-- The Plinth programs that wait for the dies of rank `k`, oldest first: a journal page as long as a record waits and no
page is on its way, and those asked for; the mirror lies on the lower Plinth rank (R39, R226, R349). -/
def plinthJobs (s : State) (k : Nat) : List PlJob :=
  if !s.plinth.mounted || !(isPlinth s k) then []
  else
    (if s.plinth.jrnl != 0 && !(pageOn s) && !(s.plinth.jobs.contains .page) then [.page] else []) ++
      s.plinth.jobs.filter (fun j => j != .mirror || k == (plinthRanks s).1)

/-- The Plinth's rows of rank `k`: the system rows but for the last two, which hold the key blocks
(notes/assumptions/14.md; R20, R311). -/
def plinthRows (s : State) : List Nat := (List.range 62).map (· + userRows s)

/-- The row and the stripe of it that the next Plinth program of rank `k` takes: the open row's next, else the first of
the lowest erased Plinth row. -/
def plinthNext (s : State) (k : Nat) : Option (Nat × Nat) :=
  let t := fun r => (stripesOfRow s k r).foldl (fun a i => max a ((getStripe s i).t + 1)) 0
  let cur := (s.plinth.openRows.find? (fun e => e.1 == k)).map (·.2)
  match cur.filter (fun r => (getRow s (rk k r)).st == .bound && decide (t r < stripesPerRow s)) with
  | some r => some (r, t r)
  | none => ((plinthRows s).find? (fun r => (getRow s (rk k r)).st == .erased)).map (fun r => (r, 0))

/-- Whether a Plinth stripe holds the newest programmed record of its kind. -/
def plNewest (s : State) (sid : Nat) : Bool :=
  let j := (getStripe s sid).pl
  !(s.stripes.any (fun kv => decide (sid < kv.1) && kv.2.pl == j && kv.2.phase == .done))

/-- The oldest Plinth row of rank `k` that is closed and holds no newest record is given up once no erased one is left
(notes/assumptions/14.md). -/
def plinthRecycle (s : State) (k : Nat) : State :=
  let row := fun r => getRow s (rk k r)
  if (plinthRows s).any (fun r => (row r).st == .erased) then s
  else
    let old := (plinthRows s).filter (fun r => (row r).st == .bound && !(s.plinth.openRows.contains (k, r)) &&
      (stripesOfRow s k r).all (fun i => (getStripe s i).phase == .done && !(plNewest s i)))
    match argMin (fun r => (row r).seq) old with
    | some r => unbindRow .pending s (k, r)
    | none => s

/-- Row `r` of rank `k` is the Plinth's open row; an erased one is bound first. -/
def plinthOpen (s : State) (k r : Nat) : State :=
  if (getRow s (rk k r)).st == .bound then s
  else
    let s1 := setRow s (rk k r)
      { st := .bound, slot := 0x3FF, chmask := maskOf (healthy s k), p := 2, d := nk s k - 2, seq := s.sched.seqNo }
    plinthRecycle { s1 with plinth := { s1.plinth with
      openRows := (k, r) :: s1.plinth.openRows.filter (fun e => e.1 != k) } } k

/-- The stripe of a Plinth program on row (k, r): every die of the row, or the two of the mirror (R39). -/
def plinthStripeOf (s : State) (k r t : Nat) (j : PlJob) : Stripe :=
  let v := getRow s (rk k r)
  let out := v.splits.filter (fun x => x.2.2 == 1 && decide (x.2.1 < t))
  let l := (chIn v.chmask).filter (fun c => !(out.any (fun x => x.1 == c)))
  { slot := 0x3FF, rank := k, row := r, t := t, pl := some j, phase := .complete
    chmask := maskOf (if j == .mirror then l.filter (fun c => c == 0 || c == 16) else l)
    p := if j == .mirror then 0 else v.p - out.length }

/-- The dies a Plinth program of rank `k` loads on. -/
def plinthDies (s : State) (k : Nat) (j : PlJob) : List Nat :=
  if j == .mirror then (rankDies s k).filter (fun d => d / 32 == 0 || d / 32 == 16) else rankDies s k

/-! ### Release at load, end of a stripe (R30 to R32, R230, R236) -/

/-- The data units whose die and both parity units have reported program-issued (R31). -/
def releasable (x : Stripe) : Nat :=
  if (parityChans x).all (fun c => bitOf x.issued c) then
    maskOf ((dataChans x).filter (fun c => bitOf x.issued c))
  else 0

/-- A commissioned stripe is released at now: its slack, and a miss past its deadline (R230, R236). -/
def noteRelease (s : State) (x : Stripe) : State :=
  if !(commStripe s x) then s
  else
    let now := s.nowUs * 1000
    if now ≤ x.dlNs then
      let v := satTo 16 ((x.dlNs - now) / 1000)
      let old := tget 65535 s.sched.minSlack x.rank
      { s with sched := { s.sched with minSlack := tset 65535 s.sched.minSlack x.rank (min old v) } }
    else
      let s1 := { s with sched := { s.sched with
        miss := satAdd 16 s.sched.miss 1, minSlack := tset 65535 s.sched.minSlack x.rank 0 } }
      nicheRec (glbSet s1 5) x.niche 0x31 4 x.rank ((now - x.dlNs) / 1000)

/-- Die `c` of stripe `sid` reports program-issued (R30 step 4, R31, R263). -/
def issueUnit (s : State) (sid c : Nat) : State :=
  let x := getStripe s sid
  let y := { x with issued := setBit x.issued c }
  let all := y.issued == y.chmask
  let z := { y with released := releasable y, phase := if all && y.phase == .granted then .issued else y.phase }
  let s1 := sweepBufs (setStripe s sid z) sid
  if !all then s1
  else
    let v := getRow s1 (rk x.rank x.row)
    let s2 := if v.st == .bound then setRow (if x.pl.isSome then s1 else journal s1) (rk x.rank x.row)
        { v with nstripe := v.nstripe + 1, firstUs := if v.nstripe == 0 then s.opUs else v.firstUs }
      else s1
    noteRelease s2 z

/-- A row that has left its zone is erase-pending once the last program issued to it has ended (R187). -/
def leaveEnds (s : State) (k r : Nat) : State :=
  if (getRow s (rk k r)).st == .leaving && (stripesOfRow s k r).isEmpty then setRow s (rk k r) (pendRow s) else s

/-- Every program of a stripe has ended (R34, R120, R187): reads of a unit that failed are rebuilt. -/
def endStripe (s : State) (sid : Nat) : State :=
  let x := getStripe s sid
  if x.ended != x.chmask then s
  else
    let s1 := setStripe s sid { x with phase := .done }
    let s2 := if x.pl.isSome then plDone s1 sid (x.pl.getD .page)
      else if (getRow s1 (rk x.rank x.row)).st == .bound then
        let new := (tkeys s1.sectors (fun _ v => v.sid == sid))
        { s1 with plinth := { s1.plinth with
          media := new.foldl (fun t k => tset {} t k (tget {} s1.sectors k)) s1.plinth.media } }
      else leaveEnds (discardStripe s1 sid) x.rank x.row
    settle (reroute s2 (fun r => r.sid == sid))

/-! ### Failures and retirement (R262, R263, R275 to R277) -/

/-- A row would need a third split record: its zone is finished, an open fine row closes, and so does an open row of
the Plinth (R262). -/
def tooManySplits (s : State) (slot : Nat) (zone : Option Nat) (kr : Nat × Nat) : State :=
  match zone with
  | some z => if isActive (getZone s (zk slot z)).st then finishWhenFree s slot z else s
  | none =>
    if slot == 0x3FF then { s with plinth := { s.plinth with openRows := s.plinth.openRows.filter (fun e => e != kr) } }
    else [false, true].foldl (fun a gc =>
      if openRow (getNs a slot) gc == some kr then
        let b := finePad a slot gc
        setNs b slot (withOpenRow (getNs b slot) gc none)
      else a) s

/-- A split record of a row from stripe `t` + 1 on (R262 steps 2 and 3): a third is not made. -/
def addSplit (s : State) (k r c t typ : Nat) : State :=
  let v := getRow s (rk k r)
  if v.st != .bound then s
  else if v.splits.length ≥ 2 then tooManySplits s v.slot v.zone (k, r)
  else setRow s (rk k r) { v with splits := v.splits ++ [(c, t, typ)] }

/-- A row of the rank loses the retired die's unit in every stripe (R277): erasures in the stripes it
holds, a TYPE 1 split where stripes are still to come, and a Recast at once. -/
def retireInRow (s : State) (c k r : Nat) : State :=
  let v := getRow s (rk k r)
  if v.st != .bound || !(bitOf v.chmask c) then s
  else
    let s1 := (stripesOfRow s k r).foldl (fun a i =>
      if bitOf (getStripe a i).chmask c && (getStripe a i).phase != .filling then addErasure a i c else a) s
    let t := (stripesOfRow s1 k r).length
    let w := getRow s1 (rk k r)
    let known := w.splits.any (fun x => x.1 == c && x.2.2 == 1)
    let full := decide (stripesPerRow s1 ≤ t)
    queueRecast (if known || full then s1 else addSplit s1 k r c (t - 1) 1) k r 2

/-- What a retired die was doing ends (R263, R277): a load or a program of a stripe with its unit an erasure,
an erase with the others', a copy starts again. -/
def strandOp (s : State) (c k : Nat) (op : DieOp) : State :=
  match op with
  | .load sid =>
    let s1 := addErasure (issueUnit s sid c) sid c
    endStripe (setStripe s1 sid { getStripe s1 sid with ended := setBit (getStripe s1 sid).ended c }) sid
  | .program sid =>
    let s1 := addErasure s sid c
    endStripe (setStripe s1 sid { getStripe s1 sid with ended := setBit (getStripe s1 sid).ended c }) sid
  | .erase r => endErase s k r
  | _ => s

/-- Whether enumeration has ended: every channel is in service or lost (R244, R245). -/
def enumDone (s : State) : Bool :=
  (List.range 32).all (fun c => (getChan s c).state == 2 || (getChan s c).state == 3)

/-- The niches of a rank with fewer than 3 healthy dies go read-only (R279), once enumeration has counted them all. -/
def narrowRank (s : State) (k : Nat) : State :=
  if nk s k < 3 && enumDone s then (nichesOn s k).foldl (fun a n => readOnlyNiche a n 2) s else s

/-- A die is retired (R277). A copy on its rank starts again to a layout without it (R275 step 4). -/
def retireDie (s : State) (c k : Nat) : State :=
  let d := getDie s (dk c k)
  if d.retired then s
  else
    let s1 := setDie s (dk c k) { d with
      retired := true, op := .idle, susp := none, below := none, suspWait := false, suspRd := none, kind := 0, xfer := none
      level := 0, offset := 0 }
    let s2 := strandOp (strandOp (strandOp s1 c k d.op) c k (d.susp.getD .idle)) c k ((d.below.map (·.1)).getD .idle)
    let sd := (tkeys s2.rows (fun key v => key / 8192 == k && v.dest.isSome)).foldl dropCopy s2
    let rows := (tkeys sd.rows (fun key v => key / 8192 == k && v.st == .bound)).map (· % 8192)
    let s3 := rows.foldl (fun a r => retireInRow a c k r) sd
    let s4 := reroute s3 (fun r => r.ch == c && r.rank == k)
    let s5 := (nichesOn s4 k).foldl (fun a n =>
      smartEvent (mediaEvent (nicheRec a n 0x51 6 c 0 k) n) n 2 0) s4
    trigger (narrowRank s5 k)

/-- Dies of a niche's rank set that enumeration has taken into use, retired ones included. -/
def setDies (s : State) (n : Nat) : List Die :=
  (tkeys s.dies (fun k d => bitOf (nicheCfg s n).rankSet (k % 32) && (d.used || d.retired))).map (getDie s)

/-- The block of spare `i` of a die (R19). -/
def spareBlock (s : State) (i : Nat) : Nat := s.arm.cfg.geom.blocks - s.arm.cfg.spare + i

/-- The spares of a die not assigned yet, lowest first; one that failed its erase is none (R276). -/
def freeSpares (s : State) (d : Die) : List Nat :=
  ((List.range s.arm.cfg.spare).drop d.sparesUsed).filter (fun i => !(d.bad.contains (spareBlock s i)))

def spareLeft (s : State) (d : Die) : Nat := (freeSpares s d).length

/-- The erased and unassigned spares of a die (R145, R276). -/
def spareErased (s : State) (d : Die) : Nat := ((freeSpares s d).filter (fun i => decide (i < d.spareDone))).length

/-- Available Spare: the lowest remaining share in percent (R143). -/
def spareShare (s : State) (n : Nat) : Nat :=
  minBy (fun d => spareLeft s d * 100 / max 1 s.arm.cfg.spare) 100 (setDies s n)

/-- A spare of die (c, k), the lowest unassigned one, is assigned as `f` says; none left answers none
(R19, R276). An assigned spare is always erased: one whose erase is still to come counts as erased then
(notes/assumptions/14.md). A niche whose Available Spare falls below the threshold of 10 % raises the event of R156. -/
def takeSpare (s : State) (c k : Nat) (f : Nat → Die → Die) : Option State :=
  let d := getDie s (dk c k)
  match (freeSpares s d).head? with
  | some i =>
    let t := setDie s (dk c k) (f (spareBlock s i) { d with sparesUsed := i + 1, spareDone := max d.spareDone (i + 1) })
    let fell := (nichesOn t k).filter (fun n => decide (spareShare t n < 10) && decide (10 ≤ spareShare s n))
    some (fell.foldl (fun a n => smartEvent a n 0 2) t)
  | none => none

/-- A program failure of stripe `sid` on channel `c` (R262, R263). The failed block of a row that has left
its zone meanwhile is replaced at once. -/
def programFailure (s : State) (sid c : Nat) : State :=
  let x := getStripe s sid
  let k := x.rank
  let s1 := addErasure s sid c
  let keep := (getRow s1 (rk k x.row)).st == .bound
  let s2 := match takeSpare s1 c k (if keep then splitBlock x.row (x.t + 1) else replaceBlock x.row) with
    | some t => addSplit t k x.row c x.t 0
    | none => retireDie (addSplit s1 k x.row c x.t 1) c k
  nicheRec (queueRecast s2 k x.row 2) x.niche 0x50 4 c x.t (k * 65536 + x.row)

/-- The program of stripe `sid` on channel `c` has ended (R246, R262); a failure during a flush is recorded for the
mount (R357). -/
def endProgram (s : State) (sid c : Nat) (good : Bool) : State :=
  let x := getStripe s sid
  if !(s.stripes.any (fun kv => kv.1 == sid)) then s
  else
    let s1 := setStripe s sid { x with ended := setBit x.ended c }
    let s2 := if good && x.pl.isSome then s1
      else if good then setNch s1 x.niche { getNch s1 x.niche with
        mediaWritten := satAdd 64 (getNch s1 x.niche).mediaWritten 64 }
      else if flushing s1 then { s1 with plinth := { s1.plinth with progFails := s1.plinth.progFails ++ [(sid, c)] } }
      else programFailure s1 sid c
    endStripe s2 sid

/-- An erase of a block has failed: a spare takes its place, or the die is retired (R275, R276). -/
def eraseFailure (s : State) (ch k r : Nat) : State :=
  let s1 := match takeSpare s ch k (replaceBlock r) with
    | some t => t
    | none => retireDie s ch k
  endErase s1 k r

/-- The erase of the next spare block of die (ch, k) has ended; a block that fails is retired (R276). -/
def endSpare (s : State) (ch k : Nat) (good : Bool) : State :=
  let d := getDie s (dk ch k)
  setDie s (dk ch k) { d with
    spareDone := d.spareDone + 1, bad := if good then d.bad else d.bad ++ [spareBlock s d.spareDone] }

/-- Whether a channel starts new loads and transfers: its bus is in service and no gap is being made
(R249, R250). -/
def busOpen (s : State) (c : Nat) : Bool := !(getChan s c).retrain && !(getChan s c).making

/-- Whether a Plinth program can start on rank `k` (R220, R223, R226, R229); its tokens it takes die by die as it is
issued. -/
def plinthFree (s : State) (k : Nat) (j : PlJob) : Bool :=
  let l := plinthDies s k j
  !(startsHeld s) && s.plinth.mounted && isPlinth s k && !l.isEmpty && (plinthNext s k).isSome &&
    l.all (fun d => dieFree (getDie s d) && busOpen s (d / 32) && iccqFor s (d / 32)) &&
    !(charged s k && !(eligibles s k).isEmpty)

/-! ### Granting a stripe -/

/-- The dies of a stripe begin to load it (R30 step 3); after a flush that abandoned its load, those
whose program had been issued keep it (R345). -/
def loadStripe (s : State) (sid kind : Nat) : State :=
  let x := getStripe s sid
  let s0 := nextSeq (nextGrant s)
  let s1 := setStripe s0 sid { x with phase := .granted, seq := s0.sched.seqNo, ord := s0.sched.grantNo }
  let todo := (chIn x.chmask).filter (fun c => !(bitOf x.issued c))
  let live := todo.filter (fun c => !(getDie s (dk c x.rank)).retired)
  let gone := todo.filter (fun c => (getDie s (dk c x.rank)).retired)
  let s2 := live.foldl (fun a c => setOp a (dk c x.rank) (.load sid) kind x.niche (kind == 4)) s1
  notePeak (gone.foldl (fun a c => endProgram (addErasure (issueUnit a sid c) sid c) sid c true) s2)

/-- A Plinth program starts on rank `k`: its stripe takes the next place of the rank's open row and loads (R217). -/
def startPlinth (s : State) (k : Nat) (j : PlJob) : State :=
  match plinthNext s k with
  | none => s
  | some (r, t) =>
    let s1 := plinthOpen { s with plinth := { s.plinth with jobs := s.plinth.jobs.erase j } } k r
    let sid := s1.sched.nextStripe
    let s2 := setStripe { s1 with sched := { s1.sched with nextStripe := sid + 1 } } sid (plinthStripeOf s1 k r t j)
    loadStripe (plTake s2 sid j) sid 4

/-- The eligible commissioned stripe of a rank with the earliest deadline (R222). -/
def earliest (s : State) (k : Nat) : Option Nat :=
  argMin (fun i => (getStripe s i).dlNs) (eligibles s k)

end Sys2Proof.Machine
end

