-- ==== Sys2Proof/Machine/Media.lean ====
section
/-! DEFINITION. The steps of the media scheduler, the channels' transfers and the decoders (R30 to
R34, R216 to R235, R246, R262 to R272), the reads and the programs of a Recast copy among them. -/

namespace Sys2Proof.Machine

/-! ### Ticks and commissioned stripes -/

/-- A tick ends: every die in use enters the tick's entry over the oldest of its 1,024 (R216). -/
def execSchedulerTick (s : State) : Out :=
  ok { s with dies := tmap {} s.dies (fun key d =>
    if d.used then { d with cal := (d.sample :: d.cal).take 1024, sample := calEntry s (key % 32) d } else d) }

/-- A complete commissioned stripe reaches its eligibility time (R221). -/
def execStripeEligible (sid : Nat) (s : State) : Out :=
  let x := getStripe s sid
  if x.phase == .complete && commStripe s x && decide (x.eligNs ≤ s.nowUs * 1000) then
    ok (setStripe s sid { x with phase := .eligible })
  else ok s

/-- The dies a stripe loads on. -/
def loadDies (s : State) (sid : Nat) : List Nat :=
  (stripeDies (getStripe s sid)).filter (fun d => !(getDie s d).retired)

/-- Whether the dies of a stripe are free for its load: nothing runs on one, no suspend is under way and no
program is suspended (R222), and its channels have ICCQ tokens for the command cycles (R229). -/
def loadReady (s : State) (sid : Nat) : Bool :=
  (loadDies s sid).all (fun d => let v := getDie s d
    v.op == .idle && !v.suspWait && (suspendedProgram v).isNone && iccqFor s (d / 32))

/-- Whether the channels of a stripe take its load (R249, R250). -/
def loadHeld (s : State) (sid : Nat) : Bool :=
  (loadDies s sid).any (fun d => let v := getChan s (d / 32)
    v.retrain || (v.making && decide (v.stepUs * 1000 < (getStripe s sid).eligNs)))

/-- Whether a stripe of another rank competes for tokens and comes first: earlier deadline, then rank number
(R222). -/
def outranked (s : State) (rank sid : Nat) : Bool :=
  (List.range 32).any (fun k => match (if k == rank then none else earliest s k) with
    | some i =>
      let a := (getStripe s i).dlNs
      let b := (getStripe s sid).dlNs
      (decide (a < b) || (a == b && decide (k < rank))) && loadReady s i && !(loadHeld s i)
    | none => false)

/-- The grant of stripe `sid` is delayed by tokens: it counts once (R230). -/
def noteTokWait (s : State) (sid : Nat) : State :=
  let x := getStripe s sid
  if x.tokw then s
  else
    let s1 := setStripe s sid { x with tokw := true }
    { s1 with sched := { s1.sched with tokwait := satAdd 16 s1.sched.tokwait 1 } }

/-- The grant of a commissioned stripe (R222, R223, R230): erases of its rank are suspended, erases
of any rank give up tokens, and the stripe is granted once its dies and tokens are free. -/
def execStripeGrant (rank : Nat) (s : State) : Out :=
  match (if startsHeld s then none else earliest s rank) with
  | none => ok s
  | some sid =>
    if loadHeld s sid then ok s else
    let s1 := suspendErases s (loadDies s sid)
    let need := nk s rank * s.arm.cfg.geom.iProg
    if !(loadReady s1 sid) || outranked s1 rank sid then ok s1
    else if iccUsed s1 + need ≤ s.arm.cfg.dev.icc then ok (loadStripe s1 sid 1)
    else
      let s2 := suspendForTokens (noteTokWait s1 sid) need (List.range 32).reverse
      if iccUsed s2 + need ≤ s.arm.cfg.dev.icc then ok (loadStripe s2 sid 1) else ok s2

/-- Suspended erases of a rank resume (R230): no commissioned stripe of the rank waits, the channel is in
service (R250), and the free tokens exceed F_C by their need. -/
def execEraseResume (rank : Nat) (s : State) : Out :=
  if !(eligibles s rank).isEmpty || s.hold.brace || mediaHeld s then ok s
  else
    ok (notePeak ((rankDies s rank).foldl (fun a d =>
      let v := getDie a d
      if v.op == .idle && v.susp.isSome && (suspendedProgram v).isNone && !v.suspWait && v.xfer.isNone &&
          !(getChan a (d / 32)).retrain && iccqFor a (d / 32) && tokensFor a a.arm.cfg.geom.iErs then
        driveDie (setDie a d (takeUp v)) d 16
      else a) s))

/-! ### The choice of the next operation (R220, R223, R226 to R228, R235) -/

/-- An operation that waits for a rank. -/
inductive Work where
  | erase (row : Nat)
  | program (sid : Nat)
  | read (rd : Nat)
  | recast (row : Nat)
  | copy (row : Nat)
  | plinth (job : PlJob)
  | spares
  deriving DecidableEq, Repr

/-- The die a codeword read is made on. -/
def dieOfRd (s : State) (i : Nat) : Nat := dk (getRd s i).ch (getRd s i).rank

/-- The reads of class `cl` that wait for a die of rank `k`, oldest first: those whose stripe's programs have
ended (R34). -/
def waitingReads (s : State) (k cl : Nat) : List Nat :=
  tkeys s.reads (fun _ r => r.st == .wait && r.rank == k && r.cls == cl &&
    (r.sid == 0 || (getStripe s r.sid).phase == .done))

/-- The rows of rank `k` queued for Recast at queue `q` whose next stripe is not being copied, oldest first. -/
def queuedRows (s : State) (k q : Nat) : List Nat :=
  ((tkeys s.rows (fun key v => key / 8192 == k && v.st == .bound && v.queue == q && v.copyPh == 0)).map
    (· % 8192)).mergeSort (fun a b => decide ((getRow s (rk k a)).queuedUs ≤ (getRow s (rk k b)).queuedUs))

/-- The rows of rank `k` queued for Recast at queue `q` whose next stripe is read and waits for its program, oldest
first. -/
def copiesReady (s : State) (k q : Nat) : List Nat :=
  ((tkeys s.rows (fun key v => key / 8192 == k && v.st == .bound && v.queue == q && v.copyPh == 3)).map
    (· % 8192)).mergeSort (fun a b => decide ((getRow s (rk k a)).queuedUs ≤ (getRow s (rk k b)).queuedUs))

/-- The dies of rank `k` with a spare block still to be erased (R276). -/
def spareDies (s : State) (k : Nat) : List Nat :=
  (rankDies s k).filter (fun d => decide ((getDie s d).spareDone < s.arm.cfg.spare))

/-- The erase-pending rows of rank `k`, oldest first. -/
def pendingOn (s : State) (k : Nat) : List Nat :=
  ((tkeys s.rows (fun key v => key / 8192 == k && v.st == .pending)).map (· % 8192)).mergeSort
    (fun a b => decide ((getRow s (rk k a)).queuedUs ≤ (getRow s (rk k b)).queuedUs))

/-- The rows of rank `k` some waiting command needs erased (R188). -/
def foreground (s : State) (k : Nat) : List Nat :=
  s.cmds.flatMap (fun kv => kv.2.erase.filterMap (fun e => if e.1 == k then some e.2 else none))

/-- The complete stripes of rank `k` of class `cl` that are not commissioned, oldest first. -/
def otherStripes (s : State) (k cl : Nat) : List Nat :=
  tkeys s.stripes (fun _ x => x.rank == k && x.cls == cl && (x.phase == .complete || x.phase == .eligible) &&
    x.pl.isNone && !(commStripe s x))

/-- When a piece of reserve work was asked for. -/
def workUs (s : State) (k : Nat) : Work → Nat
  | .recast r | .copy r => (getRow s (rk k r)).queuedUs
  | .read i => (getRd s i).us
  | _ => 0

/-- The reserve work of rank `k` in order (R226), the oldest request first within a row of the table; the erases of spare
blocks come with the deferred ones (notes/assumptions/14.md; R276). -/
def reserveWork (s : State) (k : Nat) : List Work :=
  let pend := (pendingOn s k).filter (fun r => !((foreground s k).contains r))
  let ahead := ((aheadRows s).filter (fun e => e.1 == k)).map (·.2)
  let old := fun l : List Work => l.mergeSort (fun a b => decide (workUs s k a ≤ workUs s k b))
  (plinthJobs s k).map .plinth ++
    old ((copiesReady s k 2).map .copy ++ (queuedRows s k 2).map .recast) ++
    (pend.filter (ahead.contains ·)).map .erase ++
    old ((copiesReady s k 1).map .copy ++ (queuedRows s k 1).map .recast ++ (waitingReads s k 4).map .read) ++
    (pend.filter (fun r => !(ahead.contains r))).map .erase ++ (if (spareDies s k).isEmpty then [] else [.spares]) ++
    (if charged s k then ((waitingReads s k 1 ++ waitingReads s k 2 ++ waitingReads s k 3).mergeSort
      (fun a b => decide (a ≤ b))).map .read else [])

/-- Standard-class and Background-class work of rank `k` (R220 rows 4 and 5). -/
def standardWork (s : State) (k : Nat) : List Work :=
  ((pendingOn s k).filter ((foreground s k).contains ·)).map .erase ++
    (if charged s k then [] else (waitingReads s k 1 ++ waitingReads s k 2).map .read) ++
    (otherStripes s k 2).map .program

def backgroundWork (s : State) (k : Nat) : List Work :=
  (if charged s k then [] else (waitingReads s k 3).map .read) ++ (otherStripes s k 3).map .program

/-- The niche charged for an operation (R217). -/
def workNiche (s : State) (k : Nat) : Work → Nat
  | .erase r | .recast r | .copy r => rowOwner s k r
  | .program sid => (getStripe s sid).niche
  | .read i => if (getRd s i).cls == 4 then rowOwner s k (getStripe s (getRd s i).sid).row else (getRd s i).niche
  | .plinth _ | .spares => 0

/-- Every niche with work that waits for rank `k`: commissioned stripes and urgent reads too. -/
def waitingNiches (s : State) (k : Nat) : List Nat :=
  (reserveWork s k ++ standardWork s k ++ backgroundWork s k).map (workNiche s k) ++
    (eligibles s k).map (fun i => (getStripe s i).niche) ++ (waitingReads s k 0).map (fun i => (getRd s i).niche)

/-- Whether R228 holds a niche's work back: its share is used and another sharing niche waits; urgent reads and
Plinth programs are exempt. The erases of a niche under a block-erase Sanitize keep to its share (R154, R188). -/
def shareHolds (s : State) (k : Nat) (w : Work) : Bool :=
  let n := workNiche s k w
  let exempt := match w with | .plinth _ => true | .read i => (getRd s i).cls == 0 | _ => false
  let alone := match w with | .erase _ => (getNch s n).san == .block | _ => false
  !exempt && shareUsed s k n && (alone || (waitingNiches s k).any (fun m => m != n))

/-- Recast's destination row for row `r` of rank `k` (R273): the relocation floor's lowest erased row,
on a Plinth rank the niche's own lowest erased row, or for a row of the Plinth an erased Plinth row. -/
def recastDest (s : State) (k r : Nat) : Option Nat :=
  let u := userRows s
  if isPlinth s k && decide (u ≤ r) then (plinthRows s).find? (fun f => (getRow s (rk k f)).st == .erased)
  else if isPlinth s k then firstErased s (rowOwner s k r) k
  else (List.range 64).map (· + u) |>.find? (fun f => (getRow s (rk k f)).st == .erased)

/-- The 256 KiB buffers Recast holds on rank `k` (R285). -/
def recastHeld (s : State) (k : Nat) : Nat :=
  sumBy (fun kv : Nat × Nat => if decide (copyOwner (rk k 0) ≤ kv.1) && decide (kv.1 < copyOwner (rk (k + 1) 0)) then
    (ownedBufs s kv.1).length else 0) s.pool.ids

/-- Whether Recast has, or may ask for, the buffers of row `r`'s next stripe (R285, R287, R289): at most 64 on a rank, not
while it is parked or the niche's list has a head, nor while a command's request waits at the port. -/
def recastMay (s : State) (k r : Nat) : Bool :=
  let o := copyOwner (rk k r)
  let d := (getRow s (rk k r)).d
  let have_ := (ownedBufs s o).length
  let v := getNch s (rowOwner s k r)
  !(v.parkOther.contains o) && (decide (d ≤ have_) ||
    (decide (recastHeld s k + d ≤ 64 + have_) && v.parkOther.isEmpty &&
      !((tkeys s.cmds (fun _ _ => true)).any (atPort s))))

/-- The Recast engine takes one 256 KiB buffer of the owning niche for each data unit from non-reserved space (R285,
R287); a request that fails parks it, and it keeps what it has got (R289). -/
def recastTake (s : State) (k r : Nat) : State × Bool :=
  let n := rowOwner s k r
  let o := copyOwner (rk k r)
  (List.range ((getRow s (rk k r)).d - (ownedBufs s o).length)).foldl (fun (a : State × Bool) _ =>
    if !a.2 then a
    else
      let q := allocate a.1 n 3 o false none
      if q.2.isSome then (q.1, true) else (parkOn q.1 n o false, false)) (s, true)

/-- The present stripes of a row in order. -/
def copyOrder (s : State) (k r : Nat) : List Nat :=
  (presentStripes s k r).mergeSort (fun a b => decide ((getStripe s a).t ≤ (getStripe s b).t))

/-- The next stripe of a row's copy, and the one channel it is copied on where a column is copied again: the stripes in
order, then the columns (R273, R275). -/
def nextCopy (s : State) (k r : Nat) : Option (Nat × Option Nat) :=
  let v := getRow s (rk k r)
  let n := (copyOrder s k r).length
  if v.copied < n then some (v.copied, none)
  else (v.cols.find? (fun e => decide (e.2 < n))).map (fun e => (e.2, some e.1))

/-- Whether a queued row can go on with its copy (R273, R275): it has a destination to take, or a stripe to copy into
one, or no layout fits any more and the niche is still to learn it. -/
def recastReady (s : State) (k r : Nat) : Bool :=
  let v := getRow s (rk k r)
  if nk s k < v.d then !(getNch s (rowOwner s k r)).readOnly
  else match nextCopy s k r with
    | some _ => (v.dest.isSome || (recastDest s k r).isSome) && recastMay s k r
    | none => v.dest.isNone && (recastDest s k r).isSome

/-- The dies the program of a copied stripe runs on (R275 step 3): those of the destination but for the columns that are
copied again, or the one column. -/
def copyDies (s : State) (k r : Nat) : List Nat :=
  let v := getRow s (rk k r)
  let w := getRow s (rk k (v.dest.getD 0))
  let l := match v.copyCh with
    | some c => [c]
    | none => (chIn w.chmask).filter (fun c => !(v.cols.any (fun e => e.1 == c)))
  (l.map (fun c => dk c k)).filter (fun d => (rankDies s k).contains d)

/-- Whether an operation can start on rank `k` now (R222, R223, R229, R230); an erase waits until no
record it depends on is out of the journal's pages (R179, R349), and no erase or Recast starts during
a brace (R333). -/
def canStart (s : State) (k : Nat) (w : Work) : Bool :=
  let g := s.arm.cfg.geom
  let wait := !(eligibles s k).isEmpty
  let free := (rankDies s k).all (fun d => dieFree (getDie s d))
  let calm := !s.hold.brace
  let bus := (healthy s k).all (iccqFor s)
  !(shareHolds s k w) &&
    match w with
    | .erase r => calm && free && !wait && s.plinth.jrnl == 0 && !(rowBusy s k r) &&
        (healthy s k).all (fun c => !(getChan s c).retrain) && bus && tokensFor s (nk s k * g.iErs)
    | .program sid => free && !(charged s k && wait) && (chIn (getStripe s sid).chmask).all (busOpen s) && bus
    | .read i => busOpen s (getRd s i).ch && iccqFor s (getRd s i).ch && dieFree (getDie s (dieOfRd s i)) && !wait && tokensFor s g.iRead
    | .recast r => calm && free && !wait && (healthy s k).all (busOpen s) && bus && recastReady s k r &&
        tokensFor s (nk s k * g.iRead)
    | .copy r => calm && free && !wait && (copyDies s k r).all (fun d => busOpen s (d / 32)) && bus
    | .plinth j => plinthFree s k j
    | .spares => calm && free && !wait && (spareDies s k).all (fun d => !(getChan s (d / 32)).retrain) && bus &&
        tokensFor s ((spareDies s k).length * g.iErs)

/-- A row takes its destination `f` with the source's d (R273). -/
def takeDest (s : State) (k r f : Nat) : State :=
  let v := getRow s (rk k r)
  if v.dest.isSome then s
  else setRow (setRow s (rk k f) { ({} : Row) with
      st := .bound, slot := v.slot, recastDst := true, chmask := maskOf (healthy s k), d := v.d, p := min 2 (nk s k - v.d) })
    (rk k r) { v with dest := some f }

/-- Recast reads the next stripe of a row (R217, R273, R275 step 5): its destination is fixed if it has none yet, and
every die reads its codewords; a row with no stripe to copy only takes its destination, and its swap is recorded
(R274). -/
def beginCopy (s : State) (k r : Nat) : State :=
  let v := getRow s (rk k r)
  if nk s k < v.d then readOnlyNiche s (rowOwner s k r) 1
  else match v.dest.orElse (fun _ => recastDest s k r), nextCopy s k r with
    | some f, none => journal (takeDest s k r f)
    | some f, some (t, c) =>
      let u := recastTake s k r
      if !u.2 then u.1
      else
        let t1 := nextGrant (takeDest u.1 k r f)
        let w := getRow t1 (rk k r)
        let t2 := setRow t1 (rk k r) { w with
          copyPh := 1, copyT := t, copyCh := c, copyOrd := t1.sched.grantNo, copyBad := [], reads := w.reads + 64 * w.d }
        notePeak ((rankDies t2 k).foldl (fun a d => setOp a d (.copyRead r) 7 (rowOwner s k r) true) t2)
    | none, _ => s

/-- The dies load the stripe that a copy has read and decoded (R217, R273 step 3). -/
def beginProgram (s : State) (k r : Nat) : State :=
  let s0 := nextGrant s
  let s1 := setRow s0 (rk k r) { getRow s0 (rk k r) with copyPh := 4, copyOrd := s0.sched.grantNo }
  (copyDies s1 k r).foldl (fun a d => setOp a d (.copyLoad r) 3 (rowOwner s k r) true) s1

/-- The array read of a codeword starts on its die, at its ladder step's read-retry level, at step 8 at the best of
steps 0 to 7 and then one offset either side (R34, R217, R268, R271); an urgent read keeps the place in the grant order
that its first grant gave it (R232). -/
def startRead1 (s : State) (i kind : Nat) (resv : Bool) : State :=
  let s0 := nextGrant s
  let r := getRd s0 i
  let x := getStripe s0 r.sid
  let s1 := setRd s0 i { r with st := .array, seq := if r.pol.isSome then r.seq else s0.sched.grantNo }
  let v := getRow s1 (rk x.rank x.row)
  let s2 := if r.sid == 0 then s1
    else
      let t := setRow s1 (rk x.rank x.row) { v with reads := v.reads + 1 }
      if v.reads + 1 ≥ 400000 then queueRecast t x.rank x.row 1 else t
  let d := dk r.ch r.rank
  let s3 := setOp s2 d (.read i) kind (workNiche s r.rank (.read i)) resv
  notePeak (setDie s3 d { getDie s3 d with
    level := if r.step ≤ 7 then r.step else (r.best.map (·.2)).getD 0, offset := if r.step ≤ 7 then 0 else r.soft })

/-- An operation starts. -/
def startWork (s : State) (k : Nat) (w : Work) (resv : Bool) : State :=
  match w with
  | .erase r => startErase s k r
  | .program sid => loadStripe s sid 2
  | .read i => startRead1 s i (if (getRd s i).cls == 0 then 6 else if (getRd s i).cls == 4 then 7 else 8) resv
  | .recast r => beginCopy s k r
  | .copy r => beginProgram s k r
  | .plinth j => startPlinth s k j
  | .spares => notePeak ((spareDies s k).foldl (fun a d => setOp a d .spare 5 0 true) s)

/-- The dies an operation occupies. -/
def workDies (s : State) (k : Nat) : Work → List Nat
  | .read i => [dieOfRd s i]
  | .copy r => copyDies s k r
  | .plinth j => plinthDies s k j
  | .spares => spareDies s k
  | _ => rankDies s k

/-- Whether the turn of Background work has come on the dies of an operation: 4 Standard grants have passed on
each (R235). -/
def bgTurnOn (s : State) (k : Nat) (w : Work) : Bool :=
  (workDies s k w).all (fun d => decide (4 ≤ (getDie s d).turn))

/-- One choice for rank `k` (R220): urgent reads, reserve work while the reserve lasts, Standard, Background, then
reserve work beyond it; Standard and Background share 4 grants to 1 on each die (R235). The number tells the
row: 2 urgent, 3 reserve, 4 Standard, 5 Background, 6 reserve beyond. -/
def chooseWork (s : State) (k : Nat) : Option (Work × Nat) :=
  let go := fun l : List Work => l.find? (canStart s k)
  let urg := go ((waitingReads s k 0).map .read)
  let resv := go ((reserveWork s k).filter (fun w => (workDies s k w).all (fun d => resvLeft s d (workNiche s k w))))
  let std := go (standardWork s k)
  let bg := go (backgroundWork s k)
  match urg, resv with
  | some w, _ => some (w, 2)
  | none, some w => some (w, 3)
  | none, none =>
    match std, bg with
    | some w, some b => if bgTurnOn s k b then some (b, 5) else some (w, 4)
    | some w, none => some (w, 4)
    | none, some b => some (b, 5)
    | none, none => (go (reserveWork s k)).map (fun w => (w, 6))

/-- The dies of an operation count its class's turn (R235). -/
def countTurn (s : State) (l : List Nat) (row : Nat) : State :=
  l.foldl (fun a d =>
    let v := getDie a d
    setDie a d { v with turn := if row == 5 then 0 else if row == 4 then min 4 (v.turn + 1) else v.turn }) s

/-- The operation chosen for a rank starts, in its row of R220. -/
def selectWork (s : State) (k : Nat) : State :=
  match chooseWork s k with
  | some (w, r) => countTurn (startWork s k w (r == 3 || r == 6)) (workDies s k w) r
  | none => s

/-- The scheduler starts the next operation of a rank (R220). A commissioned stripe that is eligible
comes first: then nothing else of the rank starts here. -/
def execDieOperationSelect (rank : Nat) (s : State) : Out := ok (if startsHeld s then s else selectWork s rank)

/-! ### Recast copies (R217, R273 to R275) -/

/-- Whether a die of rank `k` still reads or programs for the copy of row `r`. -/
def copying (s : State) (k r : Nat) : Bool :=
  s.dies.any (fun kv => kv.1 % 32 == k && (kv.2.op == .copyRead r || kv.2.op == .copyXfer r || kv.2.op == .copyLoad r ||
    kv.2.op == .copy r || kv.2.susp == some (.copy r)))

/-- The destination's block on channel `c` fails during a copy (R275): a spare replaces it and the column is to be
copied again from stripe 0, which ends the copy of a stripe of that column alone; with no spare the die is retired, which starts
the copy again, and with no layout left the niche goes read-only. -/
def copyFailure (s : State) (k r c : Nat) : State :=
  let v := getRow s (rk k r)
  match takeSpare s c k (replaceBlock (v.dest.getD r)) with
  | some t => setRow t (rk k r) { getRow t (rk k r) with
      cols := v.cols.filter (fun e => e.1 != c) ++ [(c, 0)], copyPh := if v.copyCh == some c then 0 else v.copyPh }
  | none =>
    let t := retireDie s c k
    if nk t k < v.d then readOnlyNiche t (rowOwner s k r) 1 else t

/-- One more stripe of a copy, or of one of its columns, is in the destination (R273, R275); a column that failed with
this stripe stays at 0. -/
def stripeCopied (v : Row) : Row :=
  let w := { v with copyPh := 0, swapJ := false }
  match v.copyCh with
  | none => { w with copied := v.copied + 1 }
  | some c => { w with cols := v.cols.map (fun e => if e.1 == c && e.2 == v.copyT then (c, v.copyT + 1) else e) }

/-- The copy of row `r` moves on once its dies have ended what they did: read, or one more stripe in the
destination (R273); its record is in the journal once the copy is whole (R274). -/
def copyStep (s : State) (k r : Nat) : State :=
  let w := getRow s (rk k r)
  if copying s k r then s
  else if w.copyPh == 1 then setRow s (rk k r) { w with copyPh := 2 }
  else if w.copyPh == 4 then
    let n := rowOwner s k r
    let h := getNch s n
    let s1 := setNch s n { h with mediaWritten := satAdd 64 h.mediaWritten (64 * (copyDies s k r).length) }
    let s2 := freeOwned (setRow s1 (rk k r) (stripeCopied w)) (copyOwner (rk k r))
    if copyWhole s2 (rk k r) then journal s2 else s2
  else s

/-- What the ladder of codeword `ix` on channel `c` of a copied stripe gives: its step, and the information
part, none where steps 0 to 8 or the array read fail or R269's check does (R246). -/
def copyDecode (s : State) (x : Stripe) (ends : List LadderEnd) (c ix : Nat) : Nat × Nat × Option Nat :=
  if (getRow s (rk x.rank x.row)).copyBad.contains c then (0, 0, none)
  else match ends.find? (fun e => e.ch == c && e.ix == ix) with
  | none => (0, 0, some (infoOf s x c ix))
  | some e =>
    let v := e.r.found.getD (infoOf s x c ix) % 2 ^ (8 * infoBytes x.fmt)
    (min e.step 8, e.r.bits, if e.r.good && tagGood s x c ix v then some v else none)

/-- The counters, triggers and records of one codeword of a copy (R268 to R271); a unit that cannot be read is
restored from the others, what they give is checked as R269 says, and where they do not suffice its sectors are lost. -/
def copyCodeword (sid : Nat) (ends : List LadderEnd) (s : State) (e : LadderEnd) : State :=
  let x := getStripe s sid
  let q := copyDecode s x ends e.ch e.ix
  match q.2.2 with
  | some _ => decodeGood s x.niche x.rank x.row q.1 q.2.1
  | none =>
    let s1 := if e.r.good then nicheRec s x.niche 0x52 6 0 (tagOf (e.r.found.getD (infoOf s x e.ch e.ix))) else s
    let got := fun c : Nat => if c == e.ch || unitGone s x c then none else (copyDecode s x ends c e.ix).2.2
    match rebuildInfo x e.ch got with
    | some v =>
      if tagGood s x e.ch e.ix v then decodeGood s1 x.niche x.rank x.row 9 0
      else loseSector (nicheRec s1 x.niche 0x52 6 0 (tagOf v)) sid e.ch e.ix
    | none =>
      let bad := (chIn x.chmask).filter (fun c => !(unitGone s x c) && (copyDecode s x ends c e.ix).2.2.isNone)
      loseSector (bad.foldl (fun a c => addErasure a sid c) s1) sid e.ch e.ix

/-- The codewords of a copied stripe that went beyond step 0: the ladders that `ends` gives, and every codeword of the
units whose array read failed (R246). -/
def copyEnds (s : State) (x : Stripe) (ends : List LadderEnd) : List LadderEnd :=
  let bad := (getRow s (rk x.rank x.row)).copyBad.filter (fun c => bitOf x.chmask c && !(unitGone s x c))
  ends.filter (fun e => !(bad.contains e.ch)) ++
    bad.flatMap (fun c => (List.range 64).map (fun ix => { ch := c, ix := ix, step := 8, r := { good := false, bits := 0, found := none } }))

/-- Recast has decoded the stripe it read and encoded it for the destination (R268, R273 step 2): its program waits as
reserve work, and starts at once where R220 lets it. The ends of the ladders that went beyond step 0 are `ends`. -/
def execRecastCopyStripe (rank row : Nat) (ends : List LadderEnd) (s : State) : Out :=
  let v := getRow s (rk rank row)
  match (copyOrder s rank row)[v.copyT]? with
  | none => ok s
  | some sid =>
    if v.st != .bound || v.copyPh != 2 then ok s
    else
      let s0 := nextSeq s
      let x := getStripe s0 sid
      let s1 := (copyEnds s0 x ends).foldl (copyCodeword sid ends)
        (setStripe s0 sid { x with copySeq := if v.copyCh.isNone then s0.sched.seqNo else x.copySeq })
      let w := getRow s1 (rk rank row)
      if w.copyPh != 2 then ok s1
      else
        let s2 := setRow s1 (rk rank row) { w with copyPh := 3 }
        ok (if !(startsHeld s2) && (chooseWork s2 rank).map (·.1) == some (.copy row) then selectWork s2 rank else s2)

/-! ### Programs and status polls -/

/-- The codeword bursts of a unit's load: 64, or 16 in the pSLC of the Plinth (R247, R343). -/
def loadBursts (x : Stripe) : Nat := if x.pl.isSome then 16 else 64

/-- The die's program is issued now, with the count of suspends it may have (R231). -/
def issueProgram (s : State) (d k : Nat) (op : DieOp) : State :=
  setDie s d { getDie s d with
    op := op, opUs := s.nowUs, suspCnt := 0, polHeld := false
    suspLimit := if charged s k then kC s else s.arm.cfg.urgMax }

/-- A die's load is whole and its program is issued, or the issue or the load fails (R30, R229, R231, R263). A
program that is not commissioned takes its tokens now, die by die (R225); a channel that retrains takes no issue
(R250). -/
def execProgramIssued (ch rank : Nat) (ok_ : Bool) (s : State) : Out :=
  let k := dk ch rank
  let d := getDie s k
  match d.op with
  | .load sid =>
    let x := getStripe s sid
    if !ok_ then ok (endProgram (issueUnit (idleDie s k) sid ch) sid ch false)
    else if d.bursts < loadBursts x || (getChan s ch).retrain then ok s
    else if !(commStripe s x) && !(tokensFor s s.arm.cfg.geom.iProg) then ok s
    else ok (notePeak (issueUnit (issueProgram s k rank (.program sid)) sid ch))
  | .copyLoad r =>
    if (getRow s (rk rank r)).dest.isNone then ok (idleDie s k)
    else if !ok_ then ok (copyStep (copyFailure (idleDie s k) rank r ch) rank r)
    else if d.bursts < 64 || (getChan s ch).retrain || !(tokensFor s s.arm.cfg.geom.iProg) then ok s
    else ok (notePeak (issueProgram s k rank (.copy r)))
  | _ => ok s

/-- A codeword read's next step after one that failed (R268): the next read-retry level, the soft reads, then
step 9. -/
def failStep (s : State) (i : Nat) : State :=
  let r := getRd s i
  if r.step ≤ 7 then setRd s i { r with step := r.step + 1, soft := 0, st := .wait } else toStep9 s i

/-- What a poll that finds an operation ended does (R246). -/
def endOp (s : State) (ch k : Nat) (good : Bool) : State :=
  let d := dk ch k
  match (getDie s d).op with
  | .program sid => endProgram (idleDie s d) sid ch good
  | .erase r => if good then endErase (idleDie s d) k r else eraseFailure (idleDie s d) ch k r
  | .read i =>
    let s1 := idleDie s d
    if !(hasRd s1 i) then s1
    else if good then setRd (setDie s1 d { getDie s1 d with xfer := some i }) i { getRd s1 i with st := .xfer }
    else failStep s1 i
  | .spare => endSpare (idleDie s d) ch k good
  | .copyRead r =>
    let s1 := idleDie s d
    let v := getRow s1 (rk k r)
    if v.copyPh != 1 then s1
    else if good then setDie s1 d { getDie s d with op := .copyXfer r, bursts := 0 }
    else copyStep (setRow s1 (rk k r) { v with copyBad := v.copyBad ++ [ch] }) k r
  | .copy r =>
    let s1 := idleDie s d
    if good || (getRow s1 (rk k r)).dest.isNone then copyStep s1 k r
    else if flushing s1 then { s1 with plinth := { s1.plinth with copyFails := s1.plinth.copyFails ++ [(k, r, ch)] } }
    else copyStep (copyFailure s1 k r ch) k r
  | _ => s

/-- The suspend of a die has taken effect: the read it is for starts where it finds its tokens, and else with its next
grant (R230, R232, R246). -/
def suspendDone (s : State) (d : Nat) : State :=
  let v := getDie s d
  let s1 := setDie s d { v with suspWait := false }
  match v.suspRd with
  | some i =>
    if (getRd s1 i).st != .wait || !(hasRd s1 i) then setDie s1 d { v with suspWait := false, suspRd := none }
    else if tokensFor s1 s.arm.cfg.geom.iRead && iccqFor s1 (d / 32) then
      startRead1 (setDie s1 d { v with suspWait := false, suspRd := none }) i 6 false
    else s1
  | none => s1

/-- The suspend of a die fails: its operation has failed (R246). -/
def suspendFails (s : State) (ch k : Nat) : State :=
  let d := dk ch k
  let v := getDie s d
  match v.susp with
  | some o => endOp (setDie s d { takeUp v with op := o }) ch k false
  | none => s

/-- A timed status poll (R246): of a suspend under way, or of the operation that runs. It drives the bus for 32 NCLK, and
waits where the bus is out of service or ICCQ has no tokens (R229, R250). -/
def execStatusPoll (ch rank : Nat) (r : Poll) (s : State) : Out :=
  let d := dk ch rank
  let s1 := driveDie s d 32
  let w := (getDie s d).suspWait
  if (getChan s ch).retrain || !(iccqFor s ch) then ok s
  else match r with
  | .busy => ok s1
  | .ready => ok (if w then suspendDone s1 d else endOp s1 ch rank true)
  | .failed => ok (if w then suspendFails s1 ch rank else endOp s1 ch rank false)

/-- Whether an operation's timeout counts as a read's (R246): array reads and suspends. -/
def timesRead (d : Die) : Bool :=
  d.suspWait || (match d.op with | .read _ | .copyRead _ => true | _ => false)

/-- An operation's timeout is an operation failure (R246); the channel's register counts it. -/
def execOperationTimeout (ch rank : Nat) (s : State) : Out :=
  let v := getChan s ch
  let d := getDie s (dk ch rank)
  let s1 := setChan s ch (if timesRead d then { v with readTo := satAdd 16 v.readTo 1 }
    else { v with progTo := satAdd 16 v.progTo 1 })
  match d.op with
  | .idle => if d.suspWait then ok (suspendFails s1 ch rank) else ok s
  | .load _ | .copyLoad _ | .copyXfer _ => ok s
  | _ => ok (endOp s1 ch rank false)

/-! ### Urgent reads (R231 to R234, R250) -/

/-- The command a codeword read serves, through its rebuild where it is a unit of one. -/
def rootCmd (s : State) (i : Nat) : Option Nat :=
  match (getRd s i).own with
  | .cmd id _ => some id
  | .unit p => match (getRd s p).own with | .cmd id _ => some id | _ => none
  | _ => none

/-- The urgent reads of a command that wait for their dies, in order. -/
def urgentOf (s : State) (id : Nat) : List Nat :=
  tkeys s.reads (fun i r => r.cls == 0 && r.st == .wait && rootCmd s i == some id &&
    (r.sid == 0 || (getStripe s r.sid).phase == .done))

/-- A read waits outside the bound; it counts once (R232, R236). -/
def noteUrgOver (s : State) (i : Nat) : State :=
  let r := getRd s i
  if r.late then s
  else
    let s1 := setRd s i { r with late := true }
    glbSet { s1 with sched := { s1.sched with urgOver := satAdd 16 s1.sched.urgOver 1 } } 5

/-- Whether an urgent read granted under policy `pol` may suspend the program of die `v` now (R234): the policy of its
grant forbids it only while it is still in force, and a program that was suspended when URG_POLICY became 1 is not
suspended again. -/
def maySuspend (s : State) (v : Die) (pol : Option Nat) : Bool :=
  s.arm.cfg.urgPolicy == 0 || (pol == some 0 && !v.polHeld)

/-- An urgent read meets a running program: it suspends it where URG_POLICY and the count allow and tokens for
the read come free (R229, R231, R232), and waits for its end elsewhere. -/
def suspendProgram (s : State) (d i : Nat) : State :=
  let v := getDie s d
  if maySuspend s v (getRd s i).pol && decide (v.suspCnt < v.suspLimit) then
    let s1 := driveDie (setDie s d { suspendOp v (some i) with suspCnt := v.suspCnt + 1 }) d 16
    if tokensThen s1 s.arm.cfg.geom.iRead then { s1 with sched := { s1.sched with suspends := satAdd 16 s1.sched.suspends 1 } }
    else s
  else noteUrgOver s i

/-- Whether read `i` goes next on a die whose program is suspended for a read (R233). -/
def suspendedFor (s : State) (v : Die) (i : Nat) : Bool :=
  match v.suspRd with | some j => j == i || !(hasRd s j) | none => (suspendedProgram v).isNone

/-- What a die does for an urgent read that meets it (R231, R232): an idle die reads at once, a running
erase or program is suspended, and behind a read, a transfer or a load the urgent read waits. Its command cycles take
ICCQ tokens (R229). -/
def urgentAtDie (s : State) (d i : Nat) : State :=
  let v := getDie s d
  if v.suspWait || v.xfer.isSome || !(iccqFor s (d / 32)) then s
  else match v.op with
  | .idle =>
    if suspendedFor s v i && tokensFor s s.arm.cfg.geom.iRead then
      startRead1 (setDie s d { v with suspRd := none }) i 6 false
    else s
  | .erase _ | .spare =>
    let s1 := driveDie (setDie s d (suspendOp v (some i))) d 16
    if v.susp.isNone && tokensThen s1 s.arm.cfg.geom.iRead then s1 else s
  | .program _ | .copy _ => if (suspendedProgram v).isNone then suspendProgram s d i else s
  | .load _ | .read _ | .copyRead _ | .copyXfer _ | .copyLoad _ => s

/-- An urgent read's first grant fixes its policy and its place in the grant order (R232, R234). -/
def firstGrant (s : State) (i : Nat) : State :=
  let r := getRd s i
  if r.pol.isSome then s
  else
    let t := nextGrant s
    setRd t i { r with pol := some s.arm.cfg.urgPolicy, seq := t.sched.grantNo }

/-- One urgent read is offered to its die (R232 to R234, R250): reads of one die are served in grant order. -/
def offerUrgent (s : State) (i : Nat) : State :=
  let s1 := firstGrant s i
  let r := getRd s1 i
  let ch := getChan s1 r.ch
  let first := !((waitingReads s1 r.rank 0).any (fun j =>
    (getRd s1 j).ch == r.ch && (getRd s1 j).pol.isSome && decide ((getRd s1 j).seq < r.seq)))
  if ch.retrain || ch.making then noteUrgOver s1 i
  else if first then urgentAtDie s1 (dk r.ch r.rank) i
  else s1

/-- An urgent read's codewords are granted at their dies (R232). -/
def execUrgentReadGrant (id : Nat) (s : State) : Out :=
  if !(hasCmd s id) || (getCmd s id).cls != 0 || mediaHeld s then ok s
  else ok ((urgentOf s id).foldl offerUrgent s)

/-- A suspended program resumes once the read it served has left the die (R229, R233), where its channel is in
service (R250). -/
def execProgramResume (ch rank : Nat) (s : State) : Out :=
  let d := dk ch rank
  let v := getDie s d
  let waits := match v.suspRd with | some i => hasRd s i && (getRd s i).st == .wait | none => false
  if v.op != .idle || v.suspWait || v.xfer.isSome || (suspendedProgram v).isNone || waits ||
      (getChan s ch).retrain || !(iccqFor s ch) then ok s
  else if iccUsed s + s.arm.cfg.geom.iProg ≤ s.arm.cfg.dev.icc then
    ok (notePeak (driveDie (setDie s d (resumeDie v)) d 16))
  else ok s

/-! ### Bursts on a channel (R229, R233) -/

/-- The dies of a channel with a transfer waiting: urgent, commissioned loads by deadline, the rest in
grant order, as (class, order, die). -/
def burstList (s : State) (ch : Nat) : List (Nat × Nat × Nat) :=
  (List.range 32).filterMap (fun k =>
    let d := dk ch k
    let v := getDie s d
    match v.xfer, v.op with
    | some i, _ => some (if (getRd s i).cls == 0 then (0, (getRd s i).seq, d) else (2, (getRd s i).seq, d))
    | none, .load sid =>
      let x := getStripe s sid
      if loadBursts x ≤ v.bursts then none
      else if commStripe s x then some (1, x.dlNs, d) else some (2, x.ord, d)
    | none, .copyXfer r | none, .copyLoad r =>
      if 64 ≤ v.bursts then none else some (2, (getRow s (rk k r)).copyOrd, d)
    | none, _ => none)

/-- Whether a gap in the making holds the next burst of a die back (R249): no read transfer and no load begins, those
of commissioned stripes eligible before apart; what is under way goes on. -/
def gapHolds (s : State) (d : Nat) : Bool :=
  let v := getDie s d
  (getChan s (d / 32)).making && (v.xfer.isSome || match v.op with
    | .load sid => v.bursts == 0 && !(commStripe s (getStripe s sid))
    | _ => v.bursts == 0)

/-- The next burst: no two urgent bursts between consecutive bursts of a commissioned load. -/
def nextBurst (s : State) (ch : Nat) : Option (Nat × Nat × Nat) :=
  let l := (burstList s ch).filter (fun x => !(gapHolds s x.2.2))
  let pick := fun c : Nat => argMin (fun x : Nat × Nat × Nat => x.2.1) (l.filter (fun x => x.1 == c))
  let urg := pick 0
  let com := pick 1
  if (getChan s ch).lastUrgent && com.isSome then com
  else urg.orElse (fun _ => com.orElse (fun _ => pick 2))

/-- A codeword has crossed the channel (R33, R268): the second and third reads of step 8 follow the first, any
other goes to the decoders. -/
def crossed (s : State) (i : Nat) : State :=
  let r := getRd s i
  if !(hasRd s i) then s
  else if r.step == 8 && decide (r.soft < 2) then setRd s i { r with soft := r.soft + 1, st := .wait }
  else toDecoder s i

/-- NCLK of one burst of the stripe that the copy of row `r` is at. -/
def copyNclk (s : State) (d r : Nat) : Nat :=
  burstNclk (getStripe s ((copyOrder s (d % 32) r).getD (getRow s (rk (d % 32) r)).copyT 0)).fmt

/-- One codeword burst crosses a channel (R229, R233): a load or a copy's transfer comes one burst nearer its end, a
read's codeword goes to the decoders. -/
def execChannelBurstSelect (ch : Nat) (s : State) : Out :=
  let v := getChan s ch
  if v.retrain || v.state != 2 || !(iccqFor s ch) then ok s
  else match nextBurst s ch with
  | none => ok s
  | some (cl, _, d) =>
    let x := getDie s d
    let s1 := setChan s ch { v with lastUrgent := cl == 0 }
    match x.xfer, x.op with
    | some i, _ =>
      let n := burstNclk (getStripe s (getRd s i).sid).fmt
      ok (crossed (setDie (driveDie s1 d n) d { x with xfer := none }) i)
    | none, .load sid => ok (setDie (driveDie s1 d (burstNclk (getStripe s sid).fmt)) d { x with bursts := x.bursts + 1 })
    | none, .copyLoad r => ok (setDie (driveDie s1 d (copyNclk s d r)) d { x with bursts := x.bursts + 1 })
    | none, .copyXfer r =>
      let s2 := setDie (driveDie s1 d (copyNclk s d r + 64)) d { x with bursts := x.bursts + 1 }
      ok (if x.bursts + 1 < 64 then s2 else copyStep (idleDie s2 d) (d % 32) r)
    | none, _ => ok s1

/-! ### Decoding and the recovery ladder (R264, R266 to R271) -/

/-- What codeword read `r` holds where nothing else was found: its place in its stripe, or a Plinth sector the model
holds no stripe of. -/
def expectInfo (s : State) (r : Rd) : Nat :=
  if r.sid == 0 then withTag (Config.plinthSector 0 r.ch r.ix) (tagWord 3 0x3FF 0) else infoOf s (getStripe s r.sid) r.ch r.ix

/-- The check of R269 on what a decoder found. -/
def passes269 (s : State) (r : Rd) (v : Nat) : Bool :=
  if r.sid == 0 then tagOf v / 2 ^ 62 == 3 else tagGood s (getStripe s r.sid) r.ch r.ix v

/-- The fewest bits found wrong at steps 0 to 7, and the level they were found at (R268). -/
def noteBest (r : Rd) (bits : Nat) : Rd :=
  if 7 < r.step then r
  else match r.best with
    | some b => if bits < b.1 then { r with best := some (bits, r.step) } else r
    | none => { r with best := some (bits, r.step) }

/-- A decoder finishes a codeword at its ladder step (R266 to R269): a good one goes to its owner, one whose tag
is wrong straight to step 9 with a record, and any other to its next step. The result of a hard decoder carries the flag
beyond t_H for a count above 40. -/
def execCodewordDecode (rd : Nat) (q : Decoded) (s : State) : Out :=
  let r := getRd s rd
  let x := getStripe s r.sid
  if !(s.sched.hard.contains rd || s.sched.soft.contains rd) || r.st != .decode then ok s
  else
    let s0 := fromDecoder s rd
    let s1 := if r.step == 8 then s0 else { s0 with sched := { s0.sched with beyond := decide (40 < q.bits) } }
    let v := q.found.getD (expectInfo s r) % 2 ^ (8 * infoBytes x.fmt)
    if !q.good then ok (failStep (setRd s1 rd (noteBest r q.bits)) rd)
    else if !(passes269 s r v) then
      ok (toStep9 (queueRecast (nicheRec s1 x.niche 0x52 6 0 (tagOf v)) x.rank x.row 2) rd)
    else
      let s2 := if r.sid == 0 then s1 else decodeGood s1 r.niche x.rank x.row r.step q.bits
      match r.own with
      | .unit p =>
        let d := dk r.ch r.rank
        let s3 := setDie s2 d { getDie s2 d with level := 0, offset := 0 }
        ok (settleRebuild (setRd s3 rd { r with st := .good, val := v }) p)
      | _ => ok (deliver s2 rd v)

/-! ### Scrub (R272) -/

/-- One codeword of each unit of a stripe is to be read: logical page t mod 4, the first of its slice (R272). -/
def scrubStripe (s : State) (sid : Nat) : State :=
  let x := getStripe s sid
  ((chIn x.chmask).filter (fun c => !(unitGone s x c))).foldl (fun a c => (newRd a
    { own := .scrub, cls := 4, niche := x.niche, sid := sid, rank := x.rank, ch := c, ix := 4 * (x.t % 4) }).1) s

/-- A scrub pass begins (R272): every 16th programmed stripe of each bound row, from stripe (pass mod 16) on. -/
def execScrubPass (s : State) : Out :=
  let l := tkeys s.stripes (fun _ x => x.phase == .done && x.t % 16 == s.sched.scrubPass % 16 &&
    (getRow s (rk x.rank x.row)).st == .bound)
  let s1 := l.foldl scrubStripe s
  ok { s1 with sched := { s1.sched with scrubPass := s1.sched.scrubPass + 1 } }

end Sys2Proof.Machine
end

