-- ==== Sys2Proof/Machine/Channels.lean ====
section
/-! DEFINITION. The flash channels (R237 to R255): enumeration, training, tracking, step-down, and
the power domains of four channels. -/

namespace Sys2Proof.Machine

/-- The rate steps of the loaded interface not above RATE_MTS, highest first; where RATE_MTS lies
below the lowest, RATE_MTS rounded down to 25 MT/s is the only one (R240). -/
def rateSteps (s : State) : List Nat :=
  let all := if s.arm.cfg.geom.iface == 1 then [3600, 3200, 2800, 2400, 2000, 1600] else [1600, 1200, 800]
  let l := all.filter (fun r => decide (r ≤ s.arm.cfg.geom.rate))
  if l.isEmpty then [s.arm.cfg.geom.rate / 25 * 25] else l

/-- The steps below a rate, highest first. -/
def stepsBelow (s : State) (r : Nat) : List Nat := (rateSteps s).filter (fun x => decide (x < r))

/-- 0.40 UI in 1/256 UI, rounded up (R245), and 0.30 UI (R249). -/
def eyePass : Nat := 103
def eyeWarn : Nat := 77

/-- Whether a die's page matches the geometry and the spare bytes the Plinth records (R244, R257). -/
def pageFits (s : State) (p : DiePage) : Bool :=
  let g := s.arm.cfg.geom
  p.answers && p.onfi && p.planes == g.planes && p.pageKib == g.pageKib && p.pagesPerBlock == g.pages &&
    p.blocksPerPlane == g.blocks && p.supports &&
    (!s.plinth.exists_ || decide ((if s.plinth.fmt2 then 480 else 256) ≤ p.spare))

/-- CHN_STATUS.DEGRADED (R249, R255): the rate in force is below the start-up rate, a step-down is pending, or a
full training has returned the channel to service at its lowest step. -/
def chanDegraded (v : Chan) : Bool := v.degraded || v.stepPend || decide (v.rate < v.startRate)

/-- Whether the power domain of a channel is on (R252). -/
def chanOn (s : State) (ch : Nat) : Bool := bitOf s.pm.domChg (ch / 4)

/-- The last channel's enumeration counts every rank's healthy dies (R279). -/
def checkRanks (s : State) : State :=
  if s.boot.phase == .mount then (ranksIn s.arm.cfg.rankEn).foldl narrowRank s else s

/-- A channel is lost (R245): its dies retire, and re-evaluation follows (R208). -/
def channelLost (s : State) (ch : Nat) : State :=
  let v := getChan s ch
  let s0 := if chanDegraded v then s else glbSet s 12
  let s1 := setChan s0 ch { v with
    state := 3, degraded := true, retrain := false, rate := 0, presets := [], stepPend := false
    making := false, full := false }
  let s2 := (List.range 32).foldl (fun a k =>
    if (getDie a (dk ch k)).used then retireDie a ch k else a) (devRec s1 0x41 6 ch 0 0)
  trigger (checkRanks s2)

/-- Enumeration and start-up training of a channel (R244, R245). `eyes` are the smallest read and write eyes found
at the steps tried, in order. -/
def execChannelEnumeration (ch : Nat) (pages : List DiePage) (eyes : List (Nat × Nat)) (s : State) : Out :=
  if s.boot.phase != .mount || !(chanOn s ch) || (getChan s ch).state == 2 || (getChan s ch).state == 3 ||
      decide (32 ≤ ch) then ok s
  else
    let none_ : DiePage := ⟨false, false, 0, 0, 0, 0, false, 0⟩
    let en := fun k => bitOf s.arm.cfg.rankEn k
    let s1 := (List.range 32).foldl (fun a k =>
      let d := getDie a (dk ch k)
      let p := pages.getD k none_
      if !(en k) then setDie a (dk ch k) { d with used := false }
      else if pageFits s p then setDie a (dk ch k) { d with used := true, notUsed := false, spare := p.spare }
      else
        let b := setDie a (dk ch k) { d with used := false, notUsed := true }
        retireDie (devRec b 0x40 5 ch 0 k) ch k) s
    let live := (List.range 32).any (fun k => (getDie s1 (dk ch k)).used)
    let tried := (rateSteps s1).zip eyes
    let fails := (tried.takeWhile (fun re => decide (min re.2.1 re.2.2 < eyePass))).length
    let v := getChan s1 ch
    match tried.find? (fun re => decide (eyePass ≤ min re.2.1 re.2.2)) with
    | some (r, rd, wr) =>
      if !live then ok (channelLost s1 ch)
      else ok (checkRanks (setChan s1 ch { v with
        state := 2, degraded := false, retrain := false, rate := r, startRate := r
        presets := (stepsBelow s1 r).take 2, rdStart := rd, wrStart := wr
        fails := satAdd 8 v.fails fails }))
    | none => ok (channelLost (setChan s1 ch { v with fails := satAdd 8 v.fails tried.length }) ch)

/-- Whether a maintenance item of CE# `ce` takes its bus slot now (R233 order 3, R248, R251): in service, no urgent
or commissioned burst waits, and no die it addresses is being loaded or holds a suspended program. -/
def slotFor (s : State) (ch ce : Nat) : Bool :=
  let v := getChan s ch
  v.state == 2 && !v.retrain && chanOn s ch && decide (ce < 8) && inService s && iccqFor s ch &&
    (match nextBurst s ch with | some (cl, _, _) => cl == 2 | none => true) &&
    (List.range 4).all (fun l =>
      let d := getDie s (dk ch (4 * ce + l))
      (match d.op with | .load _ | .copyLoad _ => false | _ => true) && (suspendedProgram d).isNone)

/-- ZQ Calibration Short at both ends of one CE# (R248). -/
def execZqCalibrationShort (ch ce : Nat) (s : State) : Out :=
  if !(slotFor s ch ce) then ok s
  else
    let s1 := driveDie s (dk ch (4 * ce)) 1040
    ok (setChan s1 ch { getChan s1 ch with zq := satAdd 16 (getChan s1 ch).zq 1 })

/-- A tracking round of one CE# (R248): an eye below 0.30 UI starts a step-down (R249 step 1). -/
def execEyeTracking (ch ce rd wr : Nat) (s : State) : Out :=
  if !(slotFor s ch ce) then ok s
  else
    let s1 := driveDie s (dk ch (4 * ce)) 1040
    let v := getChan s1 ch
    let w := { v with track := satAdd 16 v.track 1, rdNow := rd, wrNow := wr }
    if eyeWarn ≤ min rd wr || v.stepPend then ok (setChan s1 ch w)
    else
      let t := v.presets.headD ((stepsBelow s v.rate).headD v.rate)
      let s0 := if chanDegraded v then s1 else glbSet s1 12
      ok (trigger (setChan s0 ch { w with stepPend := true, stepUs := s.nowUs, target := t }))

/-- Whether a channel has a gap now (R249 step 2): no transfer is in progress, no commissioned load is eligible or under
way, no urgent read waits and no program is suspended; in a made gap, no load or transfer is in progress and no load that
was eligible before is left. -/
def gapNow (s : State) (ch : Nat) : Bool :=
  let v := getChan s ch
  let ds := (List.range 32).map (fun k => getDie s (dk ch k))
  let moving := ds.any (fun d => match d.op with
    | .load sid => decide (0 < d.bursts) && decide (d.bursts < loadBursts (getStripe s sid))
    | .copyLoad _ | .copyXfer _ => decide (0 < d.bursts) && decide (d.bursts < 64)
    | _ => false)
  let loading := ds.any (fun d => match d.op with
    | .load sid => commStripe s (getStripe s sid) && decide (d.bursts < 64) | _ => false)
  let due := fun p : Stripe → Bool => s.stripes.any (fun kv => kv.2.phase == .eligible && bitOf kv.2.chmask ch &&
    commStripe s kv.2 && p kv.2)
  let urg := s.reads.any (fun kv => kv.2.cls == 0 && (kv.2.st == .wait || kv.2.st == .xfer) && kv.2.ch == ch)
  let susp := ds.any (fun d => (suspendedProgram d).isSome)
  if v.making then !moving && !loading && !(due (fun x => decide (x.eligNs ≤ v.stepUs * 1000)))
  else !moving && !loading && !(due (fun _ => true)) && !urg && !susp

/-- Whether a retrain or a step-down of a channel can begin: no flush or stop has suspended them (R251), and its domain
is on. -/
def mayRetrain (s : State) (ch : Nat) : Bool :=
  chanOn s ch && (s.boot.phase == .released || s.boot.phase == .ready || s.boot.phase == .mount)

/-- Whether the last quick retrain of a channel is less than 8.4 ms past (R250). -/
def quickEarly (s : State) (v : Chan) : Bool :=
  match v.lastQuick with | some t => decide (s.nowUs < t + 8400) | none => false

/-- A gap arises: the quick retrain begins, or the full training where no preset is stored (R249). -/
def execChannelGap (ch : Nat) (s : State) : Out :=
  let v := getChan s ch
  if !v.stepPend || v.retrain || !(gapNow s ch) || !(mayRetrain s ch) then ok s
  else if v.presets.isEmpty then
    ok (setChan s ch { v with retrain := true, full := true, making := false })
  else if quickEarly s v then ok s
  else ok (setChan s ch { v with retrain := true, full := false, making := false, target := v.presets.headD v.rate })

/-- The channel makes a gap 10 ms after the step-down's start (R249): suspended programs resume. -/
def execMakeGap (ch : Nat) (s : State) : Out :=
  let v := getChan s ch
  if !v.stepPend || v.retrain || v.making || !(mayRetrain s ch) then ok s
  else
    let s1 := setChan s ch { v with making := true, stepUs := s.nowUs }
    ok ((List.range 32).foldl (fun a k => setDie a (dk ch k) (resumeDie (getDie a (dk ch k)))) s1)

/-- The channel domains that are on outside PS3 and PS4: those with a channel not lost (R252, R411). -/
def chgDomains (s : State) : Nat :=
  maskOf ((List.range 8).filter (fun d => !((List.range 4).all (fun j => (getChan s (4 * d + j)).state == 3))))

/-- A channel is back in service after a retrain at rate `r` (R249 step 4); the retrain of a domain that powers up leaves
a pending step-down pending (R254), and one retrained lower is re-evaluated (R208). -/
def backInService (s : State) (ch r rd wr : Nat) (pre : List Nat) (low : Bool) : State :=
  let v := getChan s ch
  let s1 := setChan s ch { v with
    rate := r, presets := pre, retrain := false, full := false, rdStart := rd
    stepPend := v.stepPend && !v.full && r == v.rate
    wrStart := wr, degraded := low, stepdowns := if r < v.rate then satAdd 8 v.stepdowns 1 else v.stepdowns }
  if r < v.rate then trigger (devRec s1 0x41 4 ch 0 r) else s1

/-- A channel begins a quick retrain at its rate in force as its domain comes up (R254): it takes no grant until
the verify. -/
def quickAtExit (s : State) (ch : Nat) : State :=
  let v := getChan s ch
  if v.state == 2 then setChan s ch { v with retrain := true, full := false, making := false, target := v.rate } else s

/-- The verify of a quick retrain ends, ZQ Calibration Short having run on every CE# (R249 step 3, R254). One that
fails leaves the channel to its next preset, which R250 lets it try 8.4 ms later, at a gap
(notes/assumptions/13.md), or to a full training where it has none; in a flush there is no further step, and the channel
runs on at its rate in force (R251). -/
def execQuickRetrainVerify (ch rd wr : Nat) (s : State) : Out :=
  let v := getChan s ch
  if !v.retrain || v.full || quickEarly s v then ok s
  else
    let w := { v with quick := satAdd 8 v.quick 1, lastQuick := some s.nowUs, zq := satAdd 16 v.zq 8 }
    let rest := if v.target == v.rate then v.presets else v.presets.drop 1
    if eyePass ≤ min rd wr then ok (backInService (setChan s ch w) ch v.target rd wr rest v.degraded)
    else
      let x := { w with fails := satAdd 8 v.fails 1, presets := rest, stepPend := true, stepUs := s.nowUs }
      if !(mayRetrain s ch) then ok (setChan s ch { x with retrain := false, presets := v.presets, stepPend := false })
      else match rest with
      | p :: _ => ok (setChan s ch { x with retrain := false, target := p })
      | [] => ok (setChan s ch { x with full := true, target := (stepsBelow s v.rate).headD v.rate })

/-- A full training ends at one step (R249): it passes, tries the next step below, or the channel is
lost (R245). One that passes at the rate in force leaves the channel degraded. -/
def execFullTrainingEnd (ch rd wr : Nat) (s : State) : Out :=
  let v := getChan s ch
  if !v.retrain || !v.full then ok s
  else if eyePass ≤ min rd wr then
    ok (backInService s ch v.target rd wr ((stepsBelow s v.target).take 2) (v.degraded || v.target == v.rate))
  else
    let w := { v with fails := satAdd 8 v.fails 1 }
    match stepsBelow s v.target with
    | t :: _ => ok (setChan s ch { w with target := t })
    | [] => ok (channelLost (setChan s ch w) ch)

/-- A channel domain whose four channels are lost goes off in PS0 to PS2 (R252). -/
def execChannelDomainOff (d : Nat) (s : State) : Out :=
  let l := (List.range 4).map (fun j => 4 * d + j)
  if decide (d < 8) && l.all (fun c => (getChan s c).state == 3) && decide (s.pm.ps < 3) &&
      bitOf s.pm.domChg d then ok { s with pm := { s.pm with domChg := clrBit s.pm.domChg d } }
  else ok s

end Sys2Proof.Machine
end

