-- ==== Sys2Proof/Machine/AdminQueues.lean ====
section
/-! DEFINITION. Admin commands on queues (R98 to R101, R110, R124 to R129, R134, R158). -/

namespace Sys2Proof.Machine

/-- An admin command that the Maquette does not accept (R65): Invalid Command Opcode there. -/
def adminFull (s : State) (c cid : Nat) (body : State → State) : Out :=
  admin s c (fun t => if t.boot.maquette then adone t c cid .invalidOpcode else body t)

/-- An admin command that the ROM recovery firmware does not accept (R388). -/
def adminRom (s : State) (c cid : Nat) (body : State → State) : Out :=
  admin s c (fun t => if t.boot.romRec then adone t c cid .invalidOpcode else body t)

/-- An admin command that only a PF0 may issue (R134, R137): Invalid Command Opcode from a VF. -/
def adminPf0 (s : State) (c cid : Nat) (body : State → State) : Out :=
  admin s c (fun t => if isPf0 c then body t else adone t c cid .invalidOpcode)

/-- The niche of an issuing controller. -/
def myNiche (s : State) (c : Nat) : Nat := (nicheOf s c).getD 0

/-- What a sanitize of the issuing niche answers to a command that NVMe Base 2.0 does not allow meanwhile
(R154; notes/assumptions/23.md). -/
def sanStatus (s : State) (c : Nat) : Option Status :=
  if s.boot.maquette then none
  else match (getNch s (myNiche s c)).san with
  | .none => none
  | .failed => some .sanFailed
  | _ => some .sanInProgress

/-- The body of such a command, once no sanitize of the niche runs. -/
def afterSan (c cid : Nat) (body : State → State) (s : State) : State :=
  match sanStatus s c with
  | some st => adone s c cid st
  | none => body s

/-- Create I/O Completion Queue (R84, R100). -/
def createCq (s : State) (c cid qid qsize : Nat) (pc ien : Bool) (iv : Nat) : State :=
  if s.boot.maquette || qid == 0 || decide ((getCtrl s c).allot < qid) || (getCq s (qk c qid)).live then
    adone s c cid .invalidQid
  else if qsize == 0 || decide (65535 < qsize) then adone s c cid .invalidQsize
  else if !pc then adone s c cid .invalidField
  else if (nicheCfg s (myNiche s c)).vecs ≤ iv then adone s c cid .invalidIv
  else adone (setCq s (qk c qid) { live := true, size := qsize + 1, iv := iv, ien := ien }) c cid .success

def execCreateIoCq (c cid qid qsize : Nat) (pc ien : Bool) (iv : Nat) (s : State) : Out :=
  adminRom s c cid (fun t => createCq t c cid qid qsize pc ien iv)

/-- Create I/O Submission Queue (R100). The order of the checks, and the statuses of a QSIZE of 0, of an identifier in
use and of a completion queue that is absent, are not the spec's (DESIGN CHOICE, notes/assumptions/15.md). -/
def createSq (s : State) (c cid qid qsize cqid : Nat) (pc : Bool) : State :=
  let al := (getCtrl s c).allot
  if s.boot.maquette || qid == 0 || decide (al < qid) || (getSq s (qk c qid)).live then
    adone s c cid .invalidQid
  else if qsize == 0 || decide (65535 < qsize) then adone s c cid .invalidQsize
  else if !pc then adone s c cid .invalidField
  else if cqid == 0 || decide (al < cqid) then adone s c cid .invalidQid
  else if !(getCq s (qk c cqid)).live then adone s c cid .cqInvalid
  else adone (setSq s (qk c qid) { live := true, size := qsize + 1, cqid := cqid }) c cid .success

def execCreateIoSq (c cid qid qsize cqid : Nat) (pc : Bool) (s : State) : Out :=
  adminRom s c cid (fun t => createSq t c cid qid qsize cqid pc)

/-- Whether a queue's commission is live. -/
def boundLive (s : State) (q : Sq) : Bool :=
  match q.comm with | some h => commLive (getComm s h) | none => false

/-- Delete I/O Submission Queue (R101): fetch stops, staged commands complete, started ones run on. A second
one for a queue whose deletion still drains completes with Invalid Queue Identifier (DESIGN CHOICE,
notes/assumptions/38.md). -/
def deleteSq (s : State) (c cid qid : Nat) : State :=
  let k := qk c qid
  let q := getSq s k
  if s.boot.maquette || qid == 0 || !q.live || q.del.isSome then adone s c cid .invalidQid
  else if boundLive s q then adone s c cid .commActive
  else completeUnstarted (setSq s k { q with del := some cid }) k .abortSqDel

def execDeleteIoSq (c cid qid : Nat) (s : State) : Out := adminRom s c cid (fun t => deleteSq t c cid qid)

/-- The hold of a frozen SQ on its zone ends (R123). -/
def endHold (s : State) (k : Nat) : State :=
  match (getSq s k).frz.bind (·.held) with
  | some zkey => setZone s zkey { getZone s zkey with held := (getZone s zkey).held.erase k }
  | none => s

/-- The log entry of a frozen SQ is removed (R124, R125). GEN rises by one for the removal, and also where the SQ is
deleted before its entry was made (DESIGN CHOICE, notes/assumptions/38.md). -/
def endFreeze (s : State) (k : Nat) : State :=
  let c := ctrlOfSq k
  match (getSq s k).frz with
  | some _ =>
    let s1 := endHold s k
    setCtrl s1 c { getCtrl s1 c with frzGen := (getCtrl s1 c).frzGen + 1 }
  | none => s

/-- The last started command of a deleted SQ has ended: the Delete completes, and with it a Queue Thaw
that waited (R101, R124, R126). -/
def execDeleteSqDrainComplete (c qid : Nat) (s : State) : Out :=
  let k := qk c qid
  let q := getSq s k
  match q.del with
  | none => ok s
  | some cid =>
    if !(startedOf s k).isEmpty || q.inflight != 0 then ok s
    else
      let s1 := setSq (endFreeze s k) k {}
      let s2 := adone s1 c cid .success
      ok (match q.thaw with | some t => adone s2 c t .invalidQid | none => s2)

/-- Delete I/O Completion Queue (R101). -/
def deleteCq (s : State) (c cid qid : Nat) : State :=
  if s.boot.maquette || qid == 0 || !(getCq s (qk c qid)).live then adone s c cid .invalidQid
  else if s.sqs.any (fun kv => ctrlOfSq kv.1 == c && qidOfSq kv.1 != 0 && kv.2.live && kv.2.cqid == qid) then
    adone s c cid .invalidQdel
  else adone (setCq s (qk c qid) {}) c cid .success

def execDeleteIoCq (c cid qid : Nat) (s : State) : Out := adminRom s c cid (fun t => deleteCq t c cid qid)

/-- The oldest outstanding command of SQ `k` with a CID: granted or started, else staged. -/
def findCmd (s : State) (k acid : Nat) : Option Nat :=
  (tkeys s.cmds (fun _ d => d.sq == k && d.io.cid == acid)).head?

/-- An Abort completes (R129); its entry is marked until it is posted. -/
def abortDone (s : State) (c cid : Nat) (st : Status) (dw0 : Nat) : State :=
  let t := adone s c cid st dw0
  let v := getCq t (qk c 0)
  setCq t (qk c 0) { v with waiting := v.waiting.dropLast ++ v.waiting.getLast?.toList.map (fun e => { e with abort := true }) }

/-- Abort commands of a controller whose entries have not been posted (R121, R129): ACL lets 8 be out at once. -/
def abortsOut (s : State) (c : Nat) : Nat := ((getCq s (qk c 0)).waiting.filter (fun e => e.abort)).length

/-- Abort (R128, R129): staged, waiting or started commands end with Command Abort Requested; an
outstanding Asynchronous Event Request likewise. A ninth at once meets the limit. -/
def abortCmd (s : State) (c cid sqid acid : Nat) : State :=
  let k := qk c sqid
  let v := getCtrl s c
  if 8 ≤ abortsOut s c then abortDone s c cid .abortLimit 0
  else if sqid == 0 then
    if v.aers.contains acid then
      abortDone (adone (setCtrl s c { v with aers := v.aers.erase acid }) c acid .abortRequested) c cid .success 0
    else abortDone s c cid .success 1
  else match findCmd s k acid with
    | some id => abortDone (complete s id .abortRequested) c cid .success 0
    | none =>
      let q := getSq s k
      match q.staged.find? (fun io => io.cid == acid) with
      | some io =>
        let s1 := setSq s k { q with staged := q.staged.erase io }
        abortDone (ioCqe s1 k acid .abortRequested) c cid .success 0
      | none => abortDone s c cid .success 1

def execAbort (c cid sqid acid : Nat) (s : State) : Out :=
  adminFull s c cid (fun t => abortCmd t c cid sqid acid)

/-- Asynchronous Event Request (R134, R158): held until an event is reported on it; at most 8. -/
def execAsynchronousEventRequest (c cid : Nat) (s : State) : Out :=
  admin s c (fun t =>
    let v := getCtrl t c
    if 8 ≤ v.aers.length then adone t c cid .aerLimit
    else pumpEvs (setCtrl t c { v with aers := v.aers ++ [cid] }) c 8)

/-- Keep Alive (R134): it completes; the keep-alive timer is no part of the model's time. -/
def execKeepAlive (c cid : Nat) (s : State) : Out := admin s c (fun t => adone t c cid .success)

/-- Queue Thaw (R126). -/
def queueThaw (s : State) (c cid sqid : Nat) : State :=
  let k := qk c sqid
  let q := getSq s k
  if sqid == 0 || !q.live then adone s c cid .invalidQid
  else if q.frz.isNone || q.thaw.isSome then adone s c cid .cmdSeq
  else setSq s k { q with thaw := some cid }

def execQueueThaw (c cid sqid : Nat) (s : State) : Out :=
  adminFull s c cid (fun t => queueThaw t c cid sqid)

/-- A waiting Queue Thaw takes effect once no started command of the SQ remains and every fetch has
returned (R124, R126). -/
def execQueueThawResume (c sqid : Nat) (s : State) : Out :=
  let k := qk c sqid
  let q := getSq s k
  match q.thaw, q.frz with
  | some cid, some f =>
    if !(startedOf s k).isEmpty || q.inflight != 0 || !f.logged || q.del.isSome then ok s
    else
      let s1 := endFreeze s k
      ok (adone (setSq s1 k { getSq s1 k with frz := none, thaw := none }) c cid .success f.head)
  | _, _ => ok s

/-- Set Features, Number of Queues (R98). -/
def numberOfQueues (s : State) (c cid nsqr ncqr : Nat) : State :=
  let n := myNiche s c
  let a := sumBy (fun d => (getCtrl s d).allot) ((ctrlsOf s n).filter (fun d => d != c))
  let left := (nicheCfg s n).qcount - a
  let have_ := s.sqs.any (fun kv => ctrlOfSq kv.1 == c && qidOfSq kv.1 != 0 && kv.2.live) ||
    s.cqs.any (fun kv => kv.1 / 65536 == c && kv.1 % 65536 != 0 && kv.2.live)
  if s.boot.maquette || left == 0 then adone s c cid .invalidField
  else if have_ then adone s c cid .cmdSeq
  else
    let m := min (min (nsqr + 1) (ncqr + 1)) left
    adone (setCtrl s c { getCtrl s c with allot := m }) c cid .success ((m - 1) + (m - 1) * 65536)

def execSetFeaturesNumberOfQueues (c cid nsqr ncqr : Nat) (s : State) : Out :=
  adminRom s c cid (fun t => numberOfQueues t c cid nsqr ncqr)

/-- Set Features 0xC1, Urgent-class SQ mapping (R110). -/
def urgentMapping (s : State) (c cid sqid cls rsv : Nat) : State :=
  let k := qk c sqid
  let q := getSq s k
  if rsv != 0 || sqid == 0 || !q.live || cls == 3 ||
      (cls == 1 && !(nicheCfg s (myNiche s c)).urgentOk) then adone s c cid .invalidField
  else if boundLive s q && cls != q.cls then adone s c cid .commActive
  else adone (setSq s k { q with cls := cls }) c cid .success

def execSetFeaturesUrgentClassSqMapping (c cid sqid cls rsv : Nat) (s : State) : Out :=
  adminRom s c cid (fun t => urgentMapping t c cid sqid cls rsv)

end Sys2Proof.Machine
end

