-- ==== Sys2Proof/Machine/Operands.lean ====
section
/-! DEFINITION. The images and records a host hands the device, read byte by byte (R36, R40 to R56,
R61 to R63, R381 to R383): the boot flash, the Armature image with its checks in the order of R47, the
firmware header, patch records. Multi-byte fields are little-endian. -/

namespace Sys2Proof.Machine

/-! ### The boot flash (R36, R380) -/

/-- Byte `a` of a store of 256-byte blocks; a block not listed is erased and reads FFh. -/
def blkByte (t : List (Nat × List Nat)) (a : Nat) : Nat := (tget [] t (a / 256)).getD (a % 256) 255

/-- A block as it is held: 256 bytes, what is not given erased; a block all erased is not listed. -/
def blkFill (l : List Nat) : List Nat :=
  let p := ((l ++ List.replicate 256 255).take 256).map (· % 256)
  if p.all (· == 255) then [] else p

/-- Bytes written from block `b` on, 256 a block. -/
def blkWrite : Nat → List (Nat × List Nat) → Nat → List Nat → List (Nat × List Nat)
  | 0, t, _, _ => t
  | f + 1, t, b, l =>
    if l.isEmpty then t else blkWrite f (tset [] t b (blkFill l)) (b + 1) (l.drop 256)

/-- The blocks from `lo` to `hi` erased. -/
def blkErase (t : List (Nat × List Nat)) (lo hi : Nat) : List (Nat × List Nat) :=
  tdrop t (fun k _ => decide (lo ≤ k) && decide (k ≤ hi))

/-- First byte of Armature slot 0 (A) or 1 (B) (R36). -/
def armBase (slot : Nat) : Nat := if slot = 0 then 0x40000 else 0x80000

/-- First byte of firmware slot 1 or 2 (R380). -/
def fwBase (slot : Nat) : Nat := if slot = 1 then 0x100000 else 0x500000

/-- The bytes of an image. -/
abbrev Img := Nat → Nat

def armImg (s : State) (slot : Nat) : Img := fun a => blkByte s.boot.flash (armBase slot + a)
def fwImg (s : State) (slot : Nat) : Img := fun a => blkByte s.boot.flash (fwBase slot + a)

/-- A little-endian field of `w` bytes. -/
def leField (m : Img) (a : Nat) : Nat → Nat
  | 0 => 0
  | w + 1 => leField m a w + m (a + w) * 256 ^ w

def u16 (m : Img) (a : Nat) : Nat := leField m a 2
def u32 (m : Img) (a : Nat) : Nat := leField m a 4
def u64 (m : Img) (a : Nat) : Nat := leField m a 8

/-- The first non-zero byte of a run of reserved bytes. -/
def firstNonZero (m : Img) (a n : Nat) : Option Nat :=
  ((List.range n).find? (fun j => m (a + j) != 0)).map (a + ·)

def between (lo hi x : Nat) : Bool := decide (lo ≤ x) && decide (x ≤ hi)

/-! ### Sections of the image (R41, R42) -/

def dirOff (m : Img) (sec : Nat) : Nat := u32 m (0x20 + 8 * (sec - 1))
def dirLen (m : Img) (sec : Nat) : Nat := u32 m (0x24 + 8 * (sec - 1))

/-- The length rule of R42. -/
def lenOk (sec len : Nat) : Bool :=
  match sec with
  | 1 | 2 => len == 64
  | 3 | 6 => len == 32
  | 4 => len % 128 == 0 && between 1 64 (len / 128)
  | _ => len % 32 == 0 && decide (len / 32 ≤ 1024)

/-- The first fault of the directory (R41, R42): the offset of the failing field. An empty section whose offset lies
strictly inside another one overlaps it (DESIGN CHOICE, notes/assumptions/12.md). For a section out of range or one
that overlaps, the field is OFFSET of the higher-numbered section, LENGTH only for the length rule (DESIGN CHOICE,
notes/assumptions/38.md). -/
def dirFault (m : Img) : Option Nat :=
  let secs := [1, 2, 3, 4, 5, 6]
  let img := u32 m 8
  secs.findSome? (fun i =>
    let o := dirOff m i
    let n := dirLen m i
    if !(lenOk i n) then some (0x24 + 8 * (i - 1))
    else if o % 16 != 0 || decide (o < 256) || decide (img < o + n + 256) ||
        (secs.any (fun j => decide (j < i) && decide (dirOff m j < o + n) && decide (o < dirOff m j + dirLen m j))) then
      some (0x20 + 8 * (i - 1))
    else none)

/-- Defaults of R48, R52 and R55 substituted for 0. -/
def orDef (x d : Nat) : Nat := if x = 0 then d else x

def parseDev (m : Img) (o : Nat) (f : Fuses) : DevCfg :=
  { ctrlPwrCap := orDef (u16 m o) 350, icc := u16 m (o + 2), iccq := u16 m (o + 4), huCap := u16 m (o + 8)
    huVchg := u16 m (o + 0xA), huVmin := u16 m (o + 0xC), huLoad := u16 m (o + 0xE)
    brace := orDef (u16 m (o + 0x10)) 500, warn := orDef (m (o + 0x12)) f.warn
    hot := orDef (m (o + 0x13)) f.hot, crit := orDef (m (o + 0x14)) f.crit, cable := u16 m (o + 0x16)
    dramMode := m (o + 0x18), dramGib := m (o + 0x19), dramMts := u16 m (o + 0x1A) }

def parseGeom (m : Img) (o : Nat) : GeomCfg :=
  { planes := m o, pageKib := m (o + 1), bits := m (o + 2), buffered := bitOf (m (o + 3)) 1
    pages := u16 m (o + 4), blocks := u16 m (o + 6), tProg := u16 m (o + 8), tR := u16 m (o + 0xA)
    tRp := u16 m (o + 0xC), tProgP := u16 m (o + 0xE), tErs := u16 m (o + 0x10), tPs := u16 m (o + 0x12)
    tEs := u16 m (o + 0x14), iface := m (o + 0x16), mode := m (o + 0x17), rate := u16 m (o + 0x18)
    iProg := u16 m (o + 0x1A), iRead := u16 m (o + 0x1C), iErs := u16 m (o + 0x1E), iXfer := u16 m (o + 0x20) }

def parseNiche (m : Img) (o : Nat) : NicheCfg :=
  { valid := bitOf (m o) 0, selfDesc := bitOf (m o) 1, urgentOk := bitOf (m o) 2, commOk := bitOf (m o) 3
    weight := m (o + 1), calShare := m (o + 2), thermShare := m (o + 3)
    bound0 := bitOf (u16 m (o + 4)) 15, fn0 := u16 m (o + 4) % 64
    bound1 := bitOf (u16 m (o + 6)) 15, fn1 := u16 m (o + 6) % 64
    rankSet := u32 m (o + 8), sharedSet := u32 m (o + 0xC), rowFirst := u16 m (o + 0x10)
    rowCount := u16 m (o + 0x12), qbase := u16 m (o + 0x14), qcount := u16 m (o + 0x16)
    vecs := u16 m (o + 0x18), maxComm := m (o + 0x1A), gcLow := orDef (m (o + 0x1B)) 20
    pools := (List.range 5).map (fun j => u32 m (o + 0x1C + 4 * j)), keyMask := leField m (o + 0x30) 16 }

def parseSlot (m : Img) (o : Nat) : SlotCfg :=
  { valid := bitOf (m o) 7, niche := m o % 64, nsid := m (o + 1), zoned := bitOf (m (o + 2)) 0
    enc := bitOf (m (o + 2)) 1, encMeta := bitOf (m (o + 2)) 2, create := bitOf (m (o + 2)) 3
    sealEn := bitOf (m (o + 2)) 4, zw := m (o + 3), lbafMask := m (o + 4), lbafInit := m (o + 5)
    xts := m (o + 6), sealSlot := m (o + 7), size := u32 m (o + 8), maxOpen := u16 m (o + 0xC)
    maxActive := u16 m (o + 0xE) }

/-- The whole structure of an image, defaults substituted (R48 to R55). -/
def parseArm (m : Img) (f : Fuses) : ArmCfg :=
  { dev := parseDev m (dirOff m 1) f, geom := parseGeom m (dirOff m 2), rankEn := u32 m (dirOff m 3)
    spare := u16 m (dirOff m 3 + 4)
    niches := (List.range (dirLen m 4 / 128)).map (fun i => parseNiche m (dirOff m 4 + 128 * i))
    slots := (List.range (dirLen m 5 / 32)).map (fun i => parseSlot m (dirOff m 5 + 32 * i))
    tick := orDef (u16 m (dirOff m 6)) 250, u := orDef (u16 m (dirOff m 6 + 2)) 850
    rho := orDef (u16 m (dirOff m 6 + 4)) 100, urgPolicy := m (dirOff m 6 + 6)
    urgMax := orDef (m (dirOff m 6 + 7)) 4 }

/-! ### Step 5 of R47: legal ranges -/

/-- One check: it holds, or the field at `off` of section `sect` fails it. -/
structure Chk where
  good : Bool
  sect : Nat
  off : Nat
  deriving DecidableEq, Repr

/-- A run of reserved bytes must be zero (R40). -/
def rsv (m : Img) (sect o n : Nat) : List Chk :=
  match firstNonZero m o n with
  | none => []
  | some a => [⟨false, sect, a⟩]

/-- R48; `hu` is STRAP_HOLDUP. -/
def devChecks (m : Img) (o : Nat) (f : Fuses) (hu : Bool) : List Chk :=
  let c := fun (k : Nat) (b : Bool) => Chk.mk b 1 (o + k)
  let vc := u16 m (o + 0xA)
  let md := m (o + 0x18)
  let gib := m (o + 0x19)
  [ c 0 (u16 m o == 0 || between 200 350 (u16 m o)), c 2 (between 500 60000 (u16 m (o + 2))),
    c 4 (between 500 30000 (u16 m (o + 4))) ] ++ rsv m 1 (o + 6) 2 ++
  [ c 8 (if hu then u16 m (o + 8) != 0 else u16 m (o + 8) == 0),
    c 0xA (if hu then between 5000 50000 vc else vc == 0),
    c 0xC (if hu then decide (3000 ≤ u16 m (o + 0xC)) && decide (u16 m (o + 0xC) + 1000 ≤ vc) else u16 m (o + 0xC) == 0),
    c 0xE (if hu then between 100 2000 (u16 m (o + 0xE)) else u16 m (o + 0xE) == 0),
    c 0x10 (u16 m (o + 0x10) == 0 || between 100 2000 (u16 m (o + 0x10))),
    c 0x12 (m (o + 0x12) == 0 || between 70 f.warn (m (o + 0x12))),
    c 0x13 (m (o + 0x13) == 0 || between 80 f.hot (m (o + 0x13))),
    c 0x14 (m (o + 0x14) == 0 || between 90 f.crit (m (o + 0x14))) ] ++ rsv m 1 (o + 0x15) 1 ++
  [ c 0x16 (decide (u16 m (o + 0x16) ≤ 5000)), c 0x18 (decide (md ≤ 2)),
    c 0x19 (if md == 0 then gib == 0 else gib == 1 || gib == 2 || gib == 4 || gib == 8),
    c 0x1A (if md == 0 then u16 m (o + 0x1A) == 0 else between 3200 8533 (u16 m (o + 0x1A))) ] ++
  rsv m 1 (o + 0x1C) 36

/-- Highest RATE_MTS of an interface (R49). -/
def rateLimit (iface : Nat) (buffered : Bool) : Nat :=
  if iface == 1 then (if buffered then 3600 else 2400) else 1600

/-- The timing modes a geometry section may name (R49): ONFI's, of which that of R49's reference die is one
(DEDUCED, notes/assumptions/10.md). -/
def onfiMode (iface mode : Nat) : Bool := (iface == 1 && mode == 5) || Config.onfiListed iface mode

/-- R49; `tick` is TICK_US in force. -/
def geomChecks (m : Img) (o tick : Nat) : List Chk :=
  let c := fun (k : Nat) (b : Bool) => Chk.mk b 2 (o + k)
  let f := m (o + 3)
  let i := m (o + 0x16)
  [ c 0 (m o == 2 || m o == 4), c 1 ((m (o + 1) == 16 || m (o + 1) == 32) && m o * m (o + 1) * m (o + 2) == 256),
    c 2 (m (o + 2) == 4), c 3 (bitOf f 0 && decide (f < 4)),
    c 4 (between 256 4096 (u16 m (o + 4)) && u16 m (o + 4) % m (o + 2) == 0), c 6 (between 1024 8192 (u16 m (o + 6))),
    c 8 (between 500 10000 (u16 m (o + 8)) && decide (4 * tick ≤ u16 m (o + 8))), c 0xA (between 10 500 (u16 m (o + 0xA))),
    c 0xC (between 5 200 (u16 m (o + 0xC))), c 0xE (between 50 2000 (u16 m (o + 0xE))),
    c 0x10 (between 1000 50000 (u16 m (o + 0x10))), c 0x12 (between 5 500 (u16 m (o + 0x12))),
    c 0x14 (between 5 1000 (u16 m (o + 0x14))), c 0x16 (decide (i ≤ 1)),
    c 0x17 (onfiMode i (m (o + 0x17))), c 0x18 (between 400 (rateLimit i (bitOf f 1)) (u16 m (o + 0x18))),
    c 0x1A (between 1 200 (u16 m (o + 0x1A))), c 0x1C (between 1 200 (u16 m (o + 0x1C))),
    c 0x1E (between 1 200 (u16 m (o + 0x1E))), c 0x20 (between 1 400 (u16 m (o + 0x20))) ] ++
  rsv m 2 (o + 0x22) 30

/-- Whether mask `a` is a subset of mask `b`. -/
def subMask (a b : Nat) : Bool := (ranksIn a).all (fun k => bitOf b k)

/-- User rows per rank (R51). -/
def urOf (g : GeomCfg) (spare : Nat) : Nat := g.blocks - spare - 64

/-- R50, R51. -/
def rankChecks (m : Img) (o : Nat) (f : Fuses) (g : GeomCfg) : List Chk :=
  let en := u32 m o
  let fl := ranksIn f.rankEn
  let ends := bitOf en (fl.headD 0) && bitOf en ((fl.getLast?).getD 0)
  [ Chk.mk (subMask en f.rankEn && ends) 3 o,
    Chk.mk (between 32 128 (u16 m (o + 4)) && decide (512 ≤ urOf g (u16 m (o + 4)))) 3 (o + 4) ] ++
  rsv m 3 (o + 6) 26

/-- R52. -/
def nicheChecks (m : Img) (o ur : Nat) : List Chk :=
  let c := fun (k : Nat) (b : Bool) => Chk.mk b 4 (o + k)
  let e := parseNiche m o
  let sh := e.sharedSet != 0
  let pf := (e.bound0 && e.fn0 == 0) || (e.bound1 && e.fn1 == 0)
  let bindOk := fun w : Nat => w / 64 % 512 == 0
  if !e.valid then rsv m 4 o 128
  else
    [ c 0 (decide (m o < 16)), c 1 (decide (1 ≤ e.weight)), c 2 (if sh then decide (1 ≤ e.calShare) else e.calShare == 0),
      c 4 (bindOk (u16 m (o + 4))), c 6 (bindOk (u16 m (o + 6))), c 0xC (subMask e.sharedSet e.rankSet),
      c 0x10 (decide (e.rowFirst < ur)),
      c 0x12 (if sh then decide (1 ≤ e.rowCount) && decide (e.rowFirst + e.rowCount ≤ ur) else e.rowCount == 0),
      c 0x14 (decide (e.qbase ≤ 16383)), c 0x16 (decide (e.qcount ≤ 16384)),
      c 0x18 (between 1 (if pf then 2048 else 256) e.vecs), c 0x1A (decide (e.maxComm ≤ 64)),
      c 0x1B (m (o + 0x1B) == 0 || between 5 200 (m (o + 0x1B))) ] ++ rsv m 4 (o + 0x40) 64

/-- R53; `before` are the entries before this one. An entry with VALID = 0 is bound only by its reserved bit and bytes
(DESIGN CHOICE, notes/assumptions/12.md). -/
def slotChecks (m : Img) (o : Nat) (before : List SlotCfg) : List Chk :=
  let c := fun (k : Nat) (b : Bool) => Chk.mk b 5 (o + k)
  let e := parseSlot m o
  let f := m (o + 2)
  if !e.valid then c 0 (!(bitOf (m o) 6)) :: rsv m 5 (o + 0x10) 16
  else
    [ c 0 (!(bitOf (m o) 6)),
      c 1 (between 1 16 e.nsid && !(before.any (fun x => x.valid && x.niche == e.niche && x.nsid == e.nsid))),
      c 2 (decide (f < 32) && (!e.encMeta || e.enc) && (!e.sealEn || (e.zoned && e.enc))),
      c 3 (if e.zoned then decide (e.zw ≤ 4) else e.zw == 0), c 4 (between 1 7 e.lbafMask),
      c 5 (decide (e.lbafInit ≤ 2) && bitOf e.lbafMask e.lbafInit),
      c 6 (if e.enc then decide (e.xts ≤ 127) else e.xts == 255),
      c 7 (if e.sealEn then decide (e.sealSlot ≤ 127) else e.sealSlot == 255),
      c 8 (if e.zoned then decide (1 ≤ e.size) else between 1 2048 e.size),
      c 0xC (if e.zoned then between 1 e.maxActive e.maxOpen else e.maxOpen == 0),
      c 0xE (if e.zoned then between e.maxOpen e.size e.maxActive else e.maxActive == 0) ] ++ rsv m 5 (o + 0x10) 16

/-- R55. -/
def schedChecks (m : Img) (o : Nat) : List Chk :=
  let c := fun (k : Nat) (b : Bool) => Chk.mk b 6 (o + k)
  let t := u16 m o
  [ c 0 (t == 0 || t == 125 || t == 250 || t == 500), c 2 (u16 m (o + 2) == 0 || between 500 900 (u16 m (o + 2))),
    c 4 (u16 m (o + 4) == 0 || between 50 300 (u16 m (o + 4))), c 6 (decide (m (o + 6) ≤ 1)),
    c 7 (decide (m (o + 7) ≤ 8)) ] ++ rsv m 6 (o + 8) 24

/-- Every field check of R47, step 5, in section order. -/
def fieldChecks (m : Img) (f : Fuses) (hu : Bool) : List Chk :=
  let a := parseArm m f
  rsv m 0 0xE 2 ++ rsv m 0 0x1D 3 ++ rsv m 0 0x50 176 ++ devChecks m (dirOff m 1) f hu ++
    geomChecks m (dirOff m 2) a.tick ++ rankChecks m (dirOff m 3) f a.geom ++
    (List.range (dirLen m 4 / 128)).flatMap (fun i => nicheChecks m (dirOff m 4 + 128 * i) (urOf a.geom a.spare)) ++
    (List.range (dirLen m 5 / 32)).flatMap (fun i => slotChecks m (dirOff m 5 + 32 * i) (a.slots.take i)) ++
    schedChecks m (dirOff m 6)

/-! ### Step 6 of R47: the cross-section rules of R56 -/

/-- What a rule reports: the section and the offset within that section. -/
structure Cross where
  rule : Nat
  sect : Nat
  off : Nat
  deriving DecidableEq, Repr

/-- The entry numbers of the valid niches and of the valid slots. -/
def vNiches (a : ArmCfg) : List Nat := (List.range a.niches.length).filter (fun i => (a.niches.getD i {}).valid)
def vSlots (a : ArmCfg) : List Nat := (List.range a.slots.length).filter (fun i => (a.slots.getD i {}).valid)

/-- The first entry at which a running total exceeds its limit. -/
def overTotal (f : Nat → Nat) (lim : Nat) : Nat → List Nat → Option Nat
  | _, [] => none
  | acc, i :: t => if lim < acc + f i then some i else overTotal f lim (acc + f i) t

/-- The first entry at which the running total of its own group exceeds the group's limit: `grp` are the groups an
entry counts in, `w` what it counts there. -/
def overGroups (grp : Nat → List Nat) (w : Nat → Nat) (lim : Nat → Nat) (l : List Nat) : Option Nat :=
  l.find? (fun j => (grp j).any (fun g =>
    decide (lim g < sumBy w (l.filter (fun i => decide (i ≤ j) && (grp i).contains g)))))

/-- The first pair of entries in conflict, by the later entry, with what `f` says of it. -/
def pairFault (l : List Nat) (f : Nat → Nat → Option Nat) : Option (Nat × Nat) :=
  l.findSome? (fun j => (l.filter (fun i => decide (i < j))).findSome? (fun i => (f i j).map (fun o => (j, o))))

def overlap (a n b m : Nat) : Bool := decide (a < b + m) && decide (b < a + n) && decide (0 < n) && decide (0 < m)

/-- The bindings of an entry: (port, function, offset of the field). -/
def bindsOf (e : NicheCfg) : List (Nat × Nat × Nat) :=
  (if e.bound0 then [(0, e.fn0, 4)] else []) ++ (if e.bound1 then [(1, e.fn1, 6)] else [])

/-- Whether a niche's rank set holds an aligned group of `w` ranks (R54, rule 16). -/
def hasGroup (set w : Nat) : Bool :=
  (List.range (32 / w)).any (fun g => (List.range w).all (fun j => bitOf set (g * w + j)))

/-- Rows a slot counts under rule 17 (R54, R161). -/
def slotRows (a : ArmCfg) (x : SlotCfg) : Nat :=
  if x.zoned then x.size * 2 ^ x.zw
  else
    let n := a.geom.pages / a.geom.bits
    let sd := (a.niches.getD x.niche {}).selfDesc
    ceilDiv (x.size * 262144 * 8) (7 * (n * stripeCap sd 30))

/-- Rows a niche owns (R52). -/
def cfgRows (a : ArmCfg) (i : Nat) : Nat :=
  let e := a.niches.getD i {}
  sumBy (fun k => if bitOf e.sharedSet k then e.rowCount else urOf a.geom a.spare) (ranksIn e.rankSet)

/-- The rules 1 to 21 in order; `lanes` and `dram` are straps. Where the spec does not say which field conflicts, which
pair comes first or in which order the conditions of one rule are tested, notes/assumptions/12.md does (DESIGN
CHOICE). For rule 8's range past 16,383 the field is QCOUNT (DESIGN CHOICE, notes/assumptions/38.md). -/
def crossRules (a : ArmCfg) (lanes dram : Nat) : List (Option Cross) :=
  let N := fun i => a.niches.getD i {}
  let S := fun i => a.slots.getD i {}
  let ns := vNiches a
  let ss := vSlots a
  let nf := fun (r : Nat) (o : Option (Nat × Nat)) => o.map (fun p => Cross.mk r 4 (128 * p.1 + p.2))
  let sf := fun (r : Nat) (o : Option (Nat × Nat)) => o.map (fun p => Cross.mk r 5 (32 * p.1 + p.2))
  let nfind := fun (r k : Nat) (p : Nat → Bool) => nf r ((ns.find? p).map (fun i => (i, k)))
  let sfind := fun (r k : Nat) (p : Nat → Bool) => sf r ((ss.find? p).map (fun i => (i, k)))
  let ranks := List.range 32
  let ports := if lanes == 1 then [0, 1] else [0]
  let fns := fun p => ns.flatMap (fun i => ((bindsOf (N i)).filter (fun b => b.1 == p)).map (fun b => (b.2.1, i, b.2.2)))
  let keysOf := fun i => (if (S i).enc then [((S i).xts, 6)] else []) ++ (if (S i).sealEn then [((S i).sealSlot, 7)] else [])
  [ nfind 1 8 (fun i => !(subMask (N i).rankSet a.rankEn)),
    nf 2 (pairFault ns (fun i j =>
      match ranks.find? (fun k => bitOf (N i).rankSet k && bitOf (N j).rankSet k &&
          !(bitOf (N i).sharedSet k && bitOf (N j).sharedSet k)) with
      | some k => some (if bitOf (N i).sharedSet k || bitOf (N j).sharedSet k then 0xC else 8)
      | none => none)),
    (nf 3 ((overGroups (fun i => ranksIn (N i).sharedSet) (fun i => (N i).calShare) (fun _ => 256) ns).map
      (fun i => (i, 2)))).orElse (fun _ =>
        nf 3 (pairFault ns (fun i j =>
          if ranks.any (fun k => bitOf (N i).sharedSet k && bitOf (N j).sharedSet k) &&
            overlap (N i).rowFirst (N i).rowCount (N j).rowFirst (N j).rowCount then some 0x10 else none))),
    nf 4 (pairFault ns (fun i j => ((bindsOf (N j)).find? (fun b =>
      (bindsOf (N i)).any (fun x => x.1 == b.1 && x.2.1 == b.2.1))).map (·.2.2))),
    (ports.find? (fun p => !((fns p).any (fun b => b.1 == 0)))).map (fun p => Cross.mk 5 4 (4 + 2 * p)),
    [0, 1].findSome? (fun p =>
      let v := (fns p).filter (fun b => b.1 != 0)
      match (List.range 64).find? (fun n => decide (1 ≤ n) && !(v.any (fun b => b.1 == n))) with
      | some gap =>
        match argMin (fun b : Nat × Nat × Nat => b.1) (v.filter (fun b => decide (gap < b.1))) with
        | some b => some (Cross.mk 6 4 (128 * b.2.1 + b.2.2))
        | none => none
      | none => none),
    nfind 7 6 (fun i => (N i).bound1 && lanes != 1),
    (nf 8 (pairFault ns (fun i j =>
      if overlap (N i).qbase (N i).qcount (N j).qbase (N j).qcount then some 0x14 else none))).orElse (fun _ =>
        nfind 8 0x16 (fun i => decide (16384 < (N i).qbase + (N i).qcount) ||
          ((N i).qcount == 0 && ss.any (fun k => (S k).niche == i)))),
    nf 9 ((overTotal (fun i => (N i).vecs * (bindsOf (N i)).length) 16384 0 ns).map (fun i => (i, 0x18))),
    nf 10 ((overTotal (fun i => sumBy (fun j => (N i).pools.getD j 0 * 4 ^ j) (List.range 5)) 57344 0 ns).map
      (fun i => (i, 0x1C))),
    (nf 11 (pairFault ns (fun i j =>
      if (List.range 128).any (fun k => bitOf (N i).keyMask k && bitOf (N j).keyMask k) then some 0x30 else none))).orElse
      (fun _ => sf 11 (ss.findSome? (fun i => ((keysOf i).find? (fun k => !(bitOf (N (S i).niche).keyMask k.1) ||
        ss.any (fun j => decide (j < i) && (keysOf j).any (fun y => y.1 == k.1)) ||
        (k.2 == 7 && (S i).xts == k.1))).map (fun k => (i, k.2))))),
    nf 12 ((overTotal (fun i => b2n (N i).selfDesc) 4 0 ns).map (fun i => (i, 0))),
    nf 13 ((overTotal (fun i => (N i).thermShare) 256 0 ns).map (fun i => (i, 3))),
    nfind 14 0x1A (fun i => decide (0 < (N i).maxComm) && !(N i).commOk),
    sfind 15 0 (fun i => !(N (S i).niche).valid ||
      decide (16 < ((ss.filter (fun j => decide (j ≤ i))).filter (fun j => (S j).niche == (S i).niche)).length)),
    sfind 16 3 (fun i => (S i).zoned && !(hasGroup (N (S i).niche).rankSet (2 ^ (S i).zw))),
    sf 17 ((overGroups (fun i => [(S i).niche]) (fun i => slotRows a (S i)) (cfgRows a) ss).map (fun i => (i, 8))),
    sf 18 ((overGroups (fun _ => [0, 1]) (fun i => (S i).maxOpen) (fun g => if g == 0 then 4096 else 2 ^ 64) ss
      |>.map (fun i => (i, 0xC))) |> fun x => (match x, (overTotal (fun i => (S i).maxActive) 8192 0 ss) with
        | some p, some j => if j < p.1 then some (j, 0xE) else some p
        | none, some j => some (j, 0xE)
        | y, none => y)),
    sf 19 ((overTotal (fun i => (S i).size) (if a.dev.dramMode == 0 then 16 else min 2048 (256 * a.dev.dramGib)) 0
      (ss.filter (fun i => !(S i).zoned))).map (fun i => (i, 8))),
    if a.dev.dramMode != 0 && dram != 1 then some (Cross.mk 20 1 0x18) else none,
    if a.dev.hot ≤ a.dev.warn then some (Cross.mk 21 1 0x13)
    else if a.dev.crit ≤ a.dev.hot then some (Cross.mk 21 1 0x14) else none ]

/-! ### R47 -/

/-- The firmware an image must be compatible with (R44). -/
structure FwVec where
  level : Nat
  lo : Nat
  hi : Nat
  deriving DecidableEq, Repr

def pass : ValErr := { code := 0 }
def fail (code sect off : Nat) : ValErr := { code := code, sect := sect, off := off }

/-- Step 1 of R47. -/
def armStep1 (m : Img) : ValErr :=
  if u32 m 0 != 0x52414C55 then fail 1 0 0
  else if u16 m 4 / 256 != 1 then fail 2 0 4
  else if u16 m 6 != 256 then fail 2 0 6
  else if !(between 832 262144 (u32 m 8)) || u32 m 8 % 16 != 0 then fail 2 0 8
  else if u64 m 0x10 == 0 then fail 2 0 0x10
  else if 64 < u16 m 0xC then fail 2 0 0xC
  else pass

/-- `n` bytes of an image from `a` on. -/
def imgBytes (m : Img) (a n : Nat) : List Nat := (List.range n).map (fun j => m (a + j))

/-- The first field of a signature block at `o` that fails step 2 (R46, R47, R383): magic, KEY_SEL, a reserved byte,
or the public key, whose hash must be the fused one KEY_SEL selects; `h0` and `h1` are the fused hashes, and with
the owner's programmed KEY_SEL must be 1. The order of these tests is notes/assumptions/12.md's. -/
def sigFault (m : Img) (o h0 h1 : Nat) : Option Nat :=
  if u32 m o != 0x4E474953 then some o
  else if 1 < m (o + 4) || (h1 != 0 && m (o + 4) != 1) || (h1 == 0 && m (o + 4) == 1) then some (o + 4)
  else match (firstNonZero m (o + 5) 11).orElse (fun _ => firstNonZero m (o + 0xD0) 48) with
  | some a => some a
  | none => if sha384 (imgBytes m (o + 0x10) 96) != (if m (o + 4) == 1 then h1 else h0) then some (o + 0x10) else none

/-- Whether the signature in the block at `o` verifies over the bytes before it (R41, R47 step 3, R328, R382). -/
def sigVerifies (m : Img) (o : Nat) : Bool :=
  let f := fun k => beNum (imgBytes m (o + k) 48)
  ecdsaOk (f 0x10) (f 0x40) (f 0x70) (f 0xA0) (sha384 (imgBytes m 0 o))

/-- Step 4 of R47. -/
def armStep4 (m : Img) (f : Fuses) (floor : Nat) (fw : FwVec) : ValErr :=
  if u16 m 0xC < floor then fail 5 0 0xC
  else if m 0x1C != f.member then fail 6 0 0x1C
  else if u16 m 0x18 != fw.level then fail 7 0 0x18
  else if !(between fw.lo fw.hi (u16 m 0x1A)) then fail 7 0 0x1A
  else match dirFault m with
    | some o => fail 8 0 o
    | none => pass

/-- Step 5 of R47. -/
def armStep5 (m : Img) (f : Fuses) (hu : Bool) : ValErr :=
  match (fieldChecks m f hu).find? (fun c => !c.good) with
  | some c => fail 9 c.sect c.off
  | none => pass

/-- Step 6 of R47: the first rule of R56 that fails. -/
def armStep6 (m : Img) (f : Fuses) (st : Straps) : ValErr :=
  match ((crossRules (parseArm m f) st.lanes st.dram).filterMap id).head? with
  | some x => { code := 0xA, sect := x.sect, rule := x.rule, off := dirOff m x.sect + x.off }
  | none => pass

/-- Validation of a slot's image (R47): a read error at step `k` ends it there with 0x0C, SECTION 0 and OFFSET 0
(of the two fields DESIGN CHOICE, notes/assumptions/38.md). -/
def validateArm (m : Img) (f : Fuses) (st : Straps) (floor : Nat) (fw : FwVec) (readErr : Option Nat) : ValErr :=
  let sig := u32 m 8 - 256
  let steps := [ (1, fun _ : Unit => armStep1 m),
    (2, fun _ => match sigFault m sig f.hashArm0 f.hashArm1 with | none => pass | some a => fail 3 7 a),
    (3, fun _ => if sigVerifies m sig then pass else fail 4 7 (sig + 0x70)),
    (4, fun _ => armStep4 m f floor fw), (5, fun _ => armStep5 m f (st.holdup == 1)), (6, fun _ => armStep6 m f st) ]
  (steps.findSome? (fun x =>
    if readErr == some x.1 then some (fail 0xC 0 0)
    else
      let r := x.2 ()
      if r.code == 0 then none else some r)).getD pass

/-! ### Patches (R61 to R63) -/

/-- Whether one patch record is legal in the structure `a` (R62, R63). -/
def patchOk (a : ArmCfg) (f : Fuses) (r : PatchRec) : Bool :=
  let e := a.niches.getD r.index {}
  let v := r.value
  r.rsv == 0 &&
    match r.section_, r.field with
    | 1, 1 => r.index == 0 && decide (v ≤ 5000)
    | 1, 2 => r.index == 0 && (v == 0 || between 70 f.warn v) && decide (orDef v f.warn < a.dev.hot)
    | 4, 1 => e.valid && between 1 255 v
    | 4, 2 => e.valid && decide (v ≤ 64) && (v == 0 || e.commOk)
    | 4, 3 => e.valid && (v == 0 || between 5 200 v)
    | 6, 1 => r.index == 0 && decide (v ≤ 1)
    | 6, 2 => r.index == 0 && decide (v ≤ 8)
    | _, _ => false

/-- The structure with one record applied. -/
def patchOne (f : Fuses) (a : ArmCfg) (r : PatchRec) : ArmCfg :=
  let v := r.value
  let nic := fun g : NicheCfg → NicheCfg => { a with niches := a.niches.modify r.index g }
  match r.section_, r.field with
  | 1, 1 => { a with dev := { a.dev with cable := v } }
  | 1, 2 => { a with dev := { a.dev with warn := orDef v f.warn } }
  | 4, 1 => nic (fun e => { e with weight := v })
  | 4, 2 => nic (fun e => { e with maxComm := v })
  | 4, 3 => nic (fun e => { e with gcLow := orDef v 20 })
  | 6, 1 => { a with urgPolicy := v }
  | 6, 2 => { a with urgMax := orDef v 4 }
  | _, _ => a

/-! ### Firmware images (R382, R383) -/

/-- Check 1 of R383. -/
def fwCheck1 (m : Img) : Bool :=
  u32 m 0 == 0x57464C55 && u16 m 4 / 256 == 1 && u16 m 6 == 0x1000 && between 8192 4194304 (u32 m 8) &&
    u32 m 8 % 4096 == 0

/-- The first failing check of R383, 0 where all pass. -/
def fwCheck (m : Img) (f : Fuses) (floor : Nat) : Nat :=
  if !(fwCheck1 m) then 1
  else if (sigFault m (u32 m 8 - 256) f.hashFw0 f.hashFw1).isSome then 2
  else if !(sigVerifies m (u32 m 8 - 256)) then 3
  else if m 0xD != f.member then 4
  else if m 0xC < floor then 5
  else 0

def fwVec (m : Img) : FwVec := ⟨u16 m 0xE, u16 m 0x10, u16 m 0x12⟩

/-- The bytes 0x00 to 0x0F of a boot header, least significant first: the reserved bytes are 0 (R381). -/
def hdrBytes (h : BootHdr) : Nat := h.magic % 2 ^ 32 + h.gen % 2 ^ 32 * 2 ^ 32 + h.active % 256 * 2 ^ 64

/-- Whether a boot header copy is valid: its MAGIC and its CRC are correct (R381). -/
def hdrValid (h : BootHdr) : Bool := h.magic == 0x44484C55 && h.crc == Config.crc32 (hdrBytes h) % 2 ^ 32

/-- The boot header with `gen` and `active` as it is written. -/
def hdrOf (gen active : Nat) : BootHdr :=
  let h : BootHdr := { magic := 0x44484C55, gen := gen, active := active, crc := 0 }
  { h with crc := Config.crc32 (hdrBytes h) % 2 ^ 32 }

/-- Whether copy 0 is in force: valid, and copy 1 is not valid or has no higher GEN. -/
def hdr0Rules (b : Boot) : Bool := hdrValid b.hdr0 && (!(hdrValid b.hdr1) || decide (b.hdr1.gen ≤ b.hdr0.gen))

/-- The copy in force (R381): the valid one with the higher GEN, none where neither is valid. -/
def hdrInForce (b : Boot) : Option BootHdr :=
  if hdr0Rules b then some b.hdr0 else if hdrValid b.hdr1 then some b.hdr1 else none

/-- ACTIVE as it acts: 1 where no copy is valid (R381). -/
def activeSlot (b : Boot) : Nat := (hdrInForce b).elim 1 (·.active)

/-- Set ACTIVE: the other copy is written with GEN + 1 (R381), copy 0 with GEN 1 where none is valid. -/
def setActive (b : Boot) (slot : Nat) : Boot :=
  let h := hdrOf (wrapAdd 32 ((hdrInForce b).elim 0 (·.gen)) 1) slot
  if hdr0Rules b then { b with hdr1 := h } else { b with hdr0 := h }

@[simp] theorem hdrValid_hdrOf (g a : Nat) : hdrValid (hdrOf g a) = true := by
  simp [hdrValid, hdrOf, hdrBytes]

end Sys2Proof.Machine
end

