-- ==== Sys2Proof/Machine/AdminLogs.lean ====
section
/-! DEFINITION. Get Log Page and Identify (R125, R139, R142 to R146, R154, R178, R214, R375, R435,
R450): each log and data structure is the list of its fields; a byte no field names is zero. The
layouts the spec leaves to NVMe Base 2.0 are in notes/assumptions/11.md. -/

namespace Sys2Proof.Machine

/-- Status code type × 256 + status code (R155; NVMe Base 2.0 for the standard ones). -/
def statusCode : Status → Nat
  | .success => 0 | .invalidOpcode => 1 | .invalidField => 2 | .dataXfer => 4 | .internal => 6
  | .abortRequested => 7 | .abortSqDel => 8 | .invalidNsOrFormat => 0xB | .cmdSeq => 0xC
  | .sanFailed => 0x1C | .sanInProgress => 0x1D | .writeProt => 0x20 | .lbaRange => 0x80
  | .capExceeded => 0x81 | .nsNotReady => 0x82 | .cqInvalid => 0x100 | .invalidQid => 0x101
  | .invalidQsize => 0x102 | .abortLimit => 0x103 | .aerLimit => 0x105 | .fwSlot => 0x106 | .fwImage => 0x107
  | .invalidIv => 0x108 | .invalidLog => 0x109 | .invalidFormat => 0x10A | .fwNeedsReset => 0x10B
  | .invalidQdel => 0x10C | .notSaveable => 0x10D | .fwProhibited => 0x113 | .nsIdUnavail => 0x116
  | .zBoundary => 0x1B8 | .zFull => 0x1B9 | .zReadOnly => 0x1BA | .zOffline => 0x1BB
  | .zInvalidWrite => 0x1BC | .zTooActive => 0x1BD | .zTooOpen => 0x1BE | .zTransition => 0x1BF
  | .unrecRead => 0x281 | .piGuard => 0x282 | .piApp => 0x283 | .piRef => 0x284 | .compareFail => 0x285
  | .queueFrozen => 0x780 | .commRefused => 0x781 | .commActive => 0x782 | .nicheBoundary => 0x783
  | .nonceFormat => 0x784 | .huDegraded => 0x785 | .fedUnlocked => 0x786

/-- The 16 bits of a completion's status: [15] DNR, [11:1] type and code. -/
def statusWord (st : Status) : Nat := statusCode st * 2 + 32768 * b2n (dnrOf st)

/-- The part of a field that lies from byte `lo` to byte `lo + n - 1`, renumbered from `lo`. -/
def cutFld (lo n : Nat) (f : Fld) : List Fld :=
  let a := max lo f.off
  let z := min (lo + n) (f.off + f.w)
  if z ≤ a then [] else [⟨a - lo, z - a, f.v / 256 ^ (a - f.off) % 256 ^ (z - a)⟩]

/-- The bytes a read of `n` bytes from offset `lo` returns. -/
def window (l : List Fld) (lo n : Nat) : List Fld := (l.flatMap (cutFld lo n)).filter (fun f => f.v != 0)

/-! ### Device log pages -/

/-- Ranks of a niche narrower than 32 wide (R143, R145). -/
def narrowRanks (s : State) (n : Nat) : List Nat :=
  (ranksIn (nicheCfg s n).rankSet).filter (fun k => decide (nk s k < 32))

/-- The over-temperature threshold of feature 04h in force: Warn until the host sets one, as NVMe's WCTEMP
default (PRESUMED, notes/assumptions/11.md). -/
def overThr (s : State) (v : Ctrl) : Nat := v.tempThr.getD (s.thm.warn + 273)

/-- Whether the composite is at or above the threshold of feature 04h or at or above Hot (R143), once the
thresholds of the fuses are in force. -/
def tempOver (s : State) (c : Nat) : Bool :=
  s.thm.hot != 0 && (decide (overThr s (getCtrl s c) ≤ s.thm.composite) ||
    decide (s.thm.hot + 273 ≤ s.thm.composite))

/-- Event 1h/01h where the temperature bit of a controller's Critical Warning rises (R143, R156). -/
def tempEvents (old s : State) : State :=
  (allCtrls s).foldl (fun a c => if tempOver s c && !(tempOver old c) then raiseStd a [c] 1 ⟨1, 1, 2⟩ else a) s

/-- Critical Warning (R143). -/
def critWarn (s : State) (c n : Nat) : Nat :=
  b2n (decide (spareShare s n < 10)) + 2 * b2n (tempOver s c) + 4 * b2n (!(narrowRanks s n).isEmpty) +
    8 * b2n (getNch s n).readOnly + 16 * b2n (degraded s)

/-- Sectors in thousands of 512 bytes, rounded up (NVMe data units). -/
def dataUnits (sectors : Nat) : Nat := ceilDiv (sectors * 8) 1000

/-- 02h SMART / Health Information (R143). -/
def smartLog (s : State) (c n rd wr : Nat) : List Fld :=
  [⟨0, 1, critWarn s c n⟩, ⟨1, 2, s.thm.composite⟩, ⟨3, 1, spareShare s n⟩, ⟨4, 1, 10⟩,
   ⟨32, 16, dataUnits rd⟩, ⟨48, 16, dataUnits wr⟩, ⟨112, 16, s.pat.pwrcyc⟩, ⟨128, 16, hoursOf s.opUs⟩,
   ⟨160, 16, (getNch s n).unrecovered⟩, ⟨176, 16, (getCtrl s c).errCnt⟩]

/-- 01h Error Information (R142): newest first, 64 bytes each. -/
def errorLog (s : State) (c : Nat) : List Fld :=
  (getCtrl s c).errs.zipIdx.flatMap (fun ej =>
    let e := ej.1
    let o := 64 * ej.2
    [⟨o, 8, e.num⟩, ⟨o + 8, 2, e.sq⟩, ⟨o + 10, 2, e.cid⟩, ⟨o + 12, 2, statusWord e.status⟩,
     ⟨o + 16, 8, e.lba⟩, ⟨o + 24, 4, e.nsid⟩])

/-- VERSION of a firmware slot as 8 bytes; 0 where its header fails check 1 of R383 (R382), and under the ROM recovery
firmware for every slot that failed (R388). -/
def fwVersion (s : State) (slot : Nat) : Nat :=
  let m := fwImg s slot
  let failed := s.boot.failed.contains slot || fwCheck m s.board.fuses s.board.fuses.fwFloor != 0
  if fwCheck1 m && !(s.boot.romRec && failed) then u64 m 0x14 else 0

/-- 03h Firmware Slot Information (R142, R382). -/
def fwSlotLog (s : State) : List Fld :=
  [⟨0, 1, (if s.boot.romRec then 0 else s.boot.fwSlot) + 16 * activeSlot s.boot⟩,
   ⟨8, 8, fwVersion s 1⟩, ⟨16, 8, fwVersion s 2⟩]

/-- 04h Changed Namespace List. -/
def changedNsLog (s : State) (c : Nat) : List Fld :=
  (getCtrl s c).changedNs.zipIdx.map (fun nj => ⟨4 * nj.2, 4, nj.1⟩)

/-- The admin opcodes a controller accepts (R134, R137; R65 in the Maquette; R388 under the ROM recovery firmware). -/
def adminOpcodes (s : State) (c : Nat) : List Nat :=
  if s.boot.romRec then [2, 6, 0xC, 0x10, 0x11, 0x18, 0xC8]
  else if s.boot.maquette then
    [0, 1, 2, 4, 5, 6, 9, 0xA, 0xC, 0x10, 0x11, 0x18, 0x84, 0xC0, 0xC1, 0xC2, 0xC8]
  else
    [0, 1, 2, 4, 5, 6, 8, 9, 0xA, 0xC, 0xD] ++ (if isPf0 c then [0x10, 0x11] else []) ++ [0x15, 0x18, 0x80, 0x84] ++
      (if (nicheCfg s (myNiche s c)).commOk then [0xC0, 0xC1, 0xC2] else []) ++ [0xC4, 0xC5] ++
      (if isPf0 c then [0xC6, 0xC8, 0xC9] else [])

/-- The I/O opcodes (R135). -/
def ioOpcodes (s : State) : List Nat :=
  if s.boot.maquette then [] else [0, 1, 2, 4, 5, 8, 9, 0xC, 0x79, 0x7A, 0x7D, 0x81, 0x88]

/-- 05h Commands Supported and Effects: bit 0 of each supported command's entry; the Maquette accepts Sanitize only
with the media mounted (R65). -/
def effectsLog (s : State) (c : Nat) : List Fld :=
  ((adminOpcodes s c).filter (fun o => o != 0x84 || !s.boot.maquette || s.plinth.mounted)).map (fun o => ⟨4 * o, 4, 1⟩) ++ (ioOpcodes s).map (fun o => ⟨1024 + 4 * o, 4, 1⟩)

/-- Estimated block-erase time in seconds (R154), rounded up. -/
def eraseSeconds (s : State) (n : Nat) : Nat :=
  let d := (setDies s n).length
  let t := min d (s.arm.cfg.dev.icc / max 1 s.arm.cfg.geom.iErs)
  let b := (ranksIn (nicheCfg s n).rankSet).foldl (fun a k => max a (rowRange s n k).2) 0
  let sh := if (nicheCfg s n).sharedSet != 0 then (nicheCfg s n).calShare else 256
  ceilDiv (ceilDiv d (max 1 t) * b * s.arm.cfg.geom.tErs * 256) (max 1 sh * 1000000)

/-- 80h Sanitize Status (R142, R154). -/
def sanitizeLog (s : State) (n : Nat) : List Fld :=
  let v := getNch s n
  let st := match v.san with | .none => (if v.sanDone == 0 then 0 else 1) | .failed => 3 | _ => 2
  [⟨0, 2, if v.san == .none then 0xFFFF else 0⟩, ⟨2, 2, st⟩, ⟨12, 4, eraseSeconds s n⟩, ⟨16, 4, 1⟩]

/-- BFh Changed Zone List. -/
def changedZoneLog (s : State) (i : Nat) : List Fld :=
  let l := (getNs s i).changed
  ⟨0, 2, l.length⟩ :: l.zipIdx.map (fun zj => ⟨8 + 8 * zj.2, 8, zj.1 * zsze (getNs s i).attr.zw⟩)

/-! ### Vendor log pages -/

/-- The device pair of an SQ (R99). -/
def devPair (s : State) (c q : Nat) : Nat :=
  let n := myNiche s c
  let e := nicheCfg s n
  if portOf c == 1 && e.bound0 && e.bound1 then e.qbase + e.qcount - (getCtrl s c).allot + q - 1 else e.qbase + q - 1

/-- 0xC2 Queue Freeze (R125). -/
def freezeLog (s : State) (c : Nat) : List Fld :=
  let l := tkeys s.sqs (fun k v => ctrlOfSq k == c && (match v.frz with | some f => f.logged | none => false))
  [⟨0, 2, l.length⟩, ⟨4, 8, (getCtrl s c).frzGen⟩] ++ l.zipIdx.flatMap (fun kj =>
    let k := kj.1
    let o := 16 + 64 * kj.2
    let v := getSq s k
    let f := v.frz.getD {}
    [⟨o, 2, qidOfSq k⟩, ⟨o + 2, 2, v.cqid⟩, ⟨o + 4, 2, f.cid⟩, ⟨o + 6, 2, statusWord f.status⟩, ⟨o + 8, 1, f.opc⟩,
     ⟨o + 9, 1, b2n f.held.isSome + 2 * b2n (boundLive s v) + 4 * b2n (startedOf s k).isEmpty⟩,
     ⟨o + 10, 2, devPair s c (qidOfSq k)⟩, ⟨o + 12, 4, f.nsid⟩, ⟨o + 16, 8, f.slba⟩, ⟨o + 24, 8, f.zslba⟩,
     ⟨o + 32, 2, f.head⟩, ⟨o + 34, 2, f.n80⟩, ⟨o + 36, 2, f.nrun⟩, ⟨o + 40, 4, hoursOf f.us⟩, ⟨o + 44, 2, fracOf f.us⟩,
     ⟨o + 48, 8, f.fedtime⟩])

/-- State code of a commission (R214). -/
def cstCode : CSt → Nat | .live => 0 | .atRisk => 1 | .breached => 2 | .closed => 3

/-- 0xC1 Commission status (R214). -/
def commissionLog (s : State) (n : Nat) : List Fld :=
  let l := tkeys s.comms (fun h v => v.used && handleNiche h == n)
  let live := liveOf s n
  let sum := fun f : Comm → Nat => sumBy (fun h => f (getComm s h)) live
  [⟨0, 2, n⟩, ⟨2, 2, l.length⟩, ⟨4, 4, tget 0 s.cms.gens n⟩, ⟨8, 4, sum (·.rate)⟩, ⟨12, 4, sum (·.rdecl)⟩,
   ⟨16, 4, sum (·.resv) / 1024⟩, ⟨20, 4, bulkBytes s n / 1024⟩, ⟨24, 2, s.cms.dCap⟩, ⟨28, 4, s.cms.wTherm⟩,
   ⟨32, 4, s.cms.wState⟩, ⟨36, 4, portCapw (getPort s 0)⟩, ⟨40, 4, portCapw (getPort s 1)⟩] ++
  l.zipIdx.flatMap (fun hj =>
    let o := 64 + 128 * hj.2
    let c := getComm s hj.1
    [⟨o, 2, hj.1⟩, ⟨o + 2, 1, cstCode c.st⟩, ⟨o + 3, 1, c.prio⟩, ⟨o + 4, 1, c.reason⟩, ⟨o + 5, 1, c.close⟩,
     ⟨o + 6, 1, c.zconc⟩, ⟨o + 7, 1, c.sqs.length⟩, ⟨o + 8, 4, c.nsid⟩, ⟨o + 12, 4, c.rate⟩, ⟨o + 16, 4, c.rdecl⟩,
     ⟨o + 20, 4, c.srate⟩, ⟨o + 24, 4, c.burst⟩, ⟨o + 28, 4, c.etb⟩, ⟨o + 32, 8, c.resv⟩, ⟨o + 40, 8, c.resvEff⟩,
     ⟨o + 48, 8, c.resident⟩, ⟨o + 56, 8, c.peak⟩, ⟨o + 64, 8, c.tokens⟩, ⟨o + 72, 8, c.confBytes⟩,
     ⟨o + 80, 8, c.excessBytes⟩, ⟨o + 88, 4, c.excessCmds⟩, ⟨o + 92, 4, c.deficit⟩, ⟨o + 96, 4, hoursOf c.openUs⟩,
     ⟨o + 100, 2, fracOf c.openUs⟩, ⟨o + 102, 1, c.port⟩, ⟨o + 104, 8, c.fedtime⟩, ⟨o + 112, 8, c.tag⟩,
     ⟨o + 120, 4, c.maxlat⟩])

/-- W(S) in MB/s (R432). -/
def wOf (st : Nat) : Nat := 52000 - 13000 * min st 4

/-- Milliseconds to enforcement, or `idle` with no request pending (R435, R439). -/
def graceLeft (s : State) (idle : Nat) : Nat :=
  match s.thm.graceEnd with | some t => (t - s.nowUs) / 1000 | none => idle

/-- The reading a log gives for sensor `n`: 0 where absent. -/
def sensorTemp (s : State) (n : Nat) : Nat :=
  let x := tget ({} : Sensor) s.thm.sensors n
  if x.st == 1 then 0 else x.temp

def sensorMask (s : State) (st : Nat) : Nat :=
  maskOf ((List.range 28).filter (fun n => (tget ({} : Sensor) s.thm.sensors n).st == st))

/-- 0xC3 Thermal advisory (R435). -/
def thermalLog (s : State) : List Fld :=
  let t := s.thm
  [⟨0, 2, t.composite⟩, ⟨2, 1, t.level⟩, ⟨3, 1, t.stage + 16 * t.enforced⟩, ⟨4, 4, wOf t.stage⟩,
   ⟨8, 4, wOf t.enforced⟩, ⟨12, 4, graceLeft s 0xFFFFFFFF⟩, ⟨16, 1, t.warn⟩, ⟨17, 1, t.hot⟩, ⟨18, 1, t.crit⟩,
   ⟨20, 4, sensorMask s 2⟩, ⟨24, 4, sensorMask s 1⟩, ⟨28, 2, t.maxK⟩, ⟨32, 4, t.hotUs / 1000000⟩,
   ⟨36, 4, t.stageUps⟩, ⟨40, 4, t.halts⟩] ++
  (List.range 28).map (fun n => ⟨48 + 2 * n, 2, sensorTemp s n⟩)

/-- Federation STATE code: 0 off, 1 traced, 2 not traced, 3 overflow (R375). -/
def fedState (s : State) : Nat :=
  if fedMode s == 0 then 0 else if s.fed.ovf then 3 else if fedTraced s then 1 else 2

/-- HOP as the log gives it: 0 for the root, else HOP received + 1. -/
def fedHop (s : State) : Nat := if fedMode s == 1 && s.fed.hasFrame then s.fed.hopRx + 1 else 0

/-- A signed value in `w` bytes. -/
def twos (w : Nat) (x : Int) : Nat := (x % (256 ^ w : Nat)).toNat

/-- 0xC4 Federation status (R375). -/
def federationLog (s : State) : List Fld :=
  let f := s.fed
  let port := fun p => let v := getPort s p; let o := 96 + 32 * p
    [Fld.mk o 8 v.ptmM, ⟨o + 8, 8, v.ptmL⟩, ⟨o + 16, 8, v.ptmF⟩, ⟨o + 24, 4, v.ptmSeq⟩, ⟨o + 28, 1, b2n v.ptmValid⟩]
  [⟨0, 1, fedMode s⟩, ⟨1, 1, fedState s⟩, ⟨2, 1, b2n f.locked + 2 * b2n f.trace + 4 * b2n f.loss + 8 * b2n f.clkfb⟩,
   ⟨3, 1, fedHop s⟩, ⟨4, 2, if fedIdOk s then f.id else 0xFFFF⟩, ⟨6, 2, f.cable⟩,
   ⟨8, 4, f.cdlyRx + f.cable⟩, ⟨16, 8, f.time⟩, ⟨24, 4, twos 4 f.off⟩, ⟨28, 4, f.maxOff⟩,
   ⟨32, 4, f.missed⟩, ⟨36, 4, f.crcErr⟩, ⟨40, 4, f.early⟩, ⟨44, 4, f.unlocks⟩, ⟨48, 4, f.steps⟩,
   ⟨52, 4, f.tkId + f.tkKind * 2 ^ 24⟩, ⟨56, 8, f.tkT⟩, ⟨64, 4, f.late⟩] ++ port 0 ++ port 1

/-- 0xC5 Niche health of niche `n` (R145). -/
def nicheLog (s : State) (n : Nat) : List Fld :=
  let v := getNch s n
  let e := nicheCfg s n
  let ranks := ranksIn e.rankSet
  let dies := setDies s n
  let live := (liveOf s n).map (getComm s)
  let pool := sumBy (fun c => poolFree s n c * clsBytes c) (List.range 5)
  [⟨0, 2, n⟩, ⟨2, 1, b2n v.readOnly + 2 * b2n e.selfDesc + 4 * b2n (degraded s) +
     8 * b2n (v.san == .block || v.san == .crypto) + 16 * b2n v.fgGc + 32 * b2n (e.sharedSet != 0)⟩,
   ⟨4, 4, e.rankSet⟩, ⟨8, 4, maskOf (narrowRanks s n)⟩, ⟨12, 2, (dies.filter (·.retired)).length⟩,
   ⟨14, 2, minBy (spareErased s) 0 dies⟩, ⟨16, 4, sumBy (spareErased s) dies⟩, ⟨20, 4, rowsOwned s n⟩,
   ⟨24, 4, sumBy (erasedCount s n) ranks⟩, ⟨28, 4, sumBy (fun k => (pendingRows s n k).length) ranks⟩,
   ⟨32, 4, (tkeys s.rows (fun key r => r.queue != 0 && rowOwner s (key / 8192) (key % 8192) == n)).length⟩,
   ⟨36, 8, v.hostWritten⟩, ⟨44, 8, v.hostRead⟩, ⟨52, 8, v.mediaWritten⟩, ⟨60, 8, v.retryReads⟩,
   ⟨68, 8, v.softDecodes⟩, ⟨76, 8, v.rebuilds⟩, ⟨84, 8, v.unrecovered⟩, ⟨92, 1, live.length⟩,
   ⟨93, 1, (live.filter (·.st == .atRisk)).length⟩, ⟨94, 1, (live.filter (·.st == .breached)).length⟩,
   ⟨96, 4, sumBy (·.rate) live⟩, ⟨100, 4, pool / 1024⟩, ⟨104, 2, v.parkConf.length + v.parkOther.length⟩,
   ⟨108, 4, hoursOf v.ckptUs⟩, ⟨112, 2, fracOf v.ckptUs⟩]

/-- The 64-byte header and the entries of zone `z`'s frame index (R178). -/
def frameLog (s : State) (i z : Nat) : List Fld :=
  let v := getZone s (zk i z)
  let a := (getNs s i).attr
  let b := z * zsze a.zw
  [⟨0, 8, b⟩, ⟨8, 1, zsCode v.st⟩, ⟨9, 1, b2n v.sealed.isSome + 2 * b2n v.zfc + 4 * b2n v.idxFull⟩,
   ⟨12, 4, v.frames.length⟩, ⟨16, 4, 8192 * 2 ^ a.zw⟩, ⟨20, 4, genOf s i z⟩, ⟨24, 8, b + v.wp⟩, ⟨32, 8, b + wendOf s i z⟩,
   ⟨40, 2, v.npad⟩] ++
  v.frames.zipIdx.flatMap (fun fj =>
    let f := fj.1
    let o := 64 + 32 * fj.2
    [⟨o, 8, f.frame⟩, ⟨o + 8, 4, f.soff⟩, ⟨o + 12, 2, f.hflags⟩, ⟨o + 14, 1, f.fedstate + 4 * b2n f.cont⟩,
     ⟨o + 16, 8, f.fedtime⟩, ⟨o + 24, 4, f.take⟩])

/-- The 32 bytes of a Patina record from byte `o` (R442). -/
def patFlds (o : Nat) (r : PatRec) : List Fld :=
  [⟨o, 1, r.seqa⟩, ⟨o + 1, 1, r.sev + 8 * b2n r.premount + 16 * b2n r.bootcopy⟩, ⟨o + 2, 2, r.typ⟩, ⟨o + 4, 1, r.niche⟩,
   ⟨o + 5, 1, r.p8⟩, ⟨o + 6, 2, r.rep⟩, ⟨o + 8, 4, r.pwrcyc⟩, ⟨o + 12, 4, r.hours⟩, ⟨o + 16, 2, r.frac⟩,
   ⟨o + 18, 2, r.num % 65536⟩, ⟨o + 20, 8, r.pb⟩, ⟨o + 28, 3, r.pc⟩, ⟨o + 31, 1, r.seqa⟩]

/-- 0xC0 Patina in a view: 65,535 for all, else a niche (R450). -/
def patinaLog (s : State) (view : Nat) : List Fld :=
  let p := s.pat
  let l := p.ring.filter (fun kv => view == 0xFFFF || kv.2.niche == view)
  let age := match p.persistUs with | some t => satTo 32 ((s.nowUs - t) / 1000) | none => 0xFFFFFFFF
  [⟨0, 2, view⟩, ⟨2, 2, l.length⟩, ⟨4, 2, p.last.getD 0⟩, ⟨8, 4, p.events % 2 ^ 32⟩, ⟨12, 4, p.drops⟩,
   ⟨16, 1, p.dropMax⟩, ⟨20, 4, p.overwrites⟩, ⟨24, 4, p.pwrcyc⟩, ⟨28, 4, hoursOf s.opUs⟩, ⟨32, 2, fracOf s.opUs⟩,
   ⟨36, 4, age⟩] ++
  l.flatMap (fun kv => patFlds (64 + 32 * kv.1) kv.2) ++
  (if s.plinth.mounted then [] else s.boot.events.flatMap (fun kv => patFlds (524352 + 32 * kv.1) kv.2))

/-- Which niche an LSI names from controller `c` (R145, R450): its own for FFFFh. -/
def lsiNiche (s : State) (c lsi : Nat) : Status × Nat :=
  let own := myNiche s c
  if lsi == 0xFFFF then (.success, own)
  else if isPf0 c then
    (if decide (lsi < 64) && nicheValid s lsi then (.success, lsi) else (.invalidField, 0))
  else if lsi == own then (.success, own) else (.nicheBoundary, 0)

/-- A log page's status, content and whether it is cleared by the read; offset of the content's first
byte within what LPO counts (R142, R144, R178). -/
def logPage (s : State) (c : Nat) (r : LogReq) : Status × List Fld × Nat :=
  let n := myNiche s c
  let v := getNch s n
  match r.lid with
  | 0x01 => (.success, errorLog s c, 0)
  | 0x02 =>
    if r.nsid == 0 || r.nsid == 0xFFFFFFFF then (.success, smartLog s c n v.hostRead v.hostWritten, 0)
    else match slotOf s n r.nsid with
      | some i => (.success, smartLog s c n (getNs s i).hostRead (getNs s i).hostWritten, 0)
      | none => (.invalidNsOrFormat, [], 0)
  | 0x03 => (.success, fwSlotLog s, 0)
  | 0x04 => (.success, changedNsLog s c, 0)
  | 0x05 => (.success, effectsLog s c, 0)
  | 0x07 => if isPf0 c then (.success, [⟨0, 1, 7⟩], 0) else (.invalidLog, [], 0)
  | 0x80 => (.success, sanitizeLog s n, 0)
  | 0xBF =>
    match slotOf s n r.nsid with
    | some i => if zonedAt s i then (.success, changedZoneLog s i, 0) else (.invalidField, [], 0)
    | none => (.invalidNsOrFormat, [], 0)
  | 0xC0 =>
    if r.lsi == 0xFFFF then (.success, patinaLog s (if isPf0 c then 0xFFFF else n), 0)
    else match lsiNiche s c r.lsi with
      | (.success, m) => (.success, patinaLog s m, 0)
      | (st, _) => (st, [], 0)
  | 0xC1 => (.success, commissionLog s n, 0)
  | 0xC2 => (.success, freezeLog s c, 0)
  | 0xC3 => (.success, thermalLog s, 0)
  | 0xC4 => (.success, federationLog s, 0)
  | 0xC5 =>
    match lsiNiche s c r.lsi with
    | (.success, m) => (.success, nicheLog s m, 0)
    | (st, _) => (st, [], 0)
  | 0xC6 =>
    match slotOf s n r.nsid with
    | some i =>
      let a := (getNs s i).attr
      if !a.zoned || r.lsp != 0 || r.lsi != 0 || decide (4 * nsLbas a ≤ r.lpo) then (.invalidField, [], 0)
      else
        let z := r.lpo / (4 * zsze a.zw)
        (.success, frameLog s i z, 4 * z * zsze a.zw)
    | none => (if r.nsid == 0xFFFFFFFF then .invalidField else .invalidNsOrFormat, [], 0)
  | _ => (.invalidLog, [], 0)

/-- A read with RAE = 0 releases the held events of its log and empties the changed lists (R158). -/
def logRead (s : State) (c : Nat) (r : LogReq) : State :=
  let v := getCtrl s c
  let s1 := setCtrl s c { v with
    waitLog := v.waitLog.filter (fun e => e.log != r.lid)
    changedNs := if r.lid == 4 then [] else v.changedNs }
  let s2 := match r.lid, slotOf s1 (myNiche s c) r.nsid with
    | 0xBF, some i => setNs s1 i { getNs s1 i with changed := [] }
    | _, _ => s1
  pumpEvs s2 c 8

/-- Get Log Page: a snapshot of the page's bytes from LPO on. -/
def getLog (s : State) (c cid : Nat) (r : LogReq) : State :=
  match logPage s c r with
  | (.success, l, base) =>
    let s1 := adone s c cid .success 0 0 (window l (r.lpo - base) r.len)
    if r.rae || r.lid == 0xC6 then s1 else logRead s1 c r
  | (st, _, _) => adone s c cid st

def execGetLogPage (c cid : Nat) (r : LogReq) (s : State) : Out :=
  admin s c (fun t => ctlData c cid (if (logPage t c r).1 == .success then r.len else 0) (fun u => getLog u c cid r) t)

/-! ### Identify (R139) -/

/-- The controllers of a niche that exist now, rising. -/
def nicheCtrls (s : State) (n : Nat) : List Nat := (ctrlsOf s n).filter (fnExists s)

/-- Whether a niche is bound on both ports (R78): in the Maquette niche 0 is, once both are in use (R65). -/
def bothPorts (s : State) (n : Nat) : Bool :=
  if s.boot.maquette then n == 0 && portPresent s 1
  else (nicheCfg s n).bound0 && (nicheCfg s n).bound1

/-- Whether a format may be selected in a slot (R146, R257). -/
def fmtUsable (s : State) (a : SlotCfg) (f : Nat) : Bool :=
  fmtOk s a.lbafMask f

/-- The three LBA formats of R146, from byte 128, of the slot in force. -/
def lbafFlds (s : State) (a : SlotCfg) : List Fld :=
  (List.range 3).map (fun f => ⟨128 + 4 * f, 4, [0, 8, 64].getD f 0 + (if fmtUsable s a f then 12 * 65536 else 0)⟩)

/-- Identify Namespace (R78, R121, R146, R185). -/
def idNamespace (s : State) (i : Nat) : List Fld :=
  let v := getNs s i
  let a := v.attr
  let n := nsLbas a
  let use := if a.zoned then n else (tkeys s.sectors (fun k _ => k / 281474976710656 == i)).length
  [⟨0, 8, n⟩, ⟨8, 8, n⟩, ⟨16, 8, use⟩, ⟨25, 1, 2⟩, ⟨26, 1, v.fmt + 16 * b2n v.ext⟩, ⟨27, 1, 3⟩, ⟨28, 1, 0x17⟩,
   ⟨29, 1, v.pi⟩, ⟨30, 1, b2n (bothPorts s a.niche)⟩, ⟨33, 1, 0x19⟩, ⟨34, 2, 511⟩, ⟨36, 2, 511⟩] ++ lbafFlds s (slotCfg s i)

/-- Zoned namespace data structure (R139, R160, R163). -/
def idZoned (s : State) (i : Nat) : List Fld :=
  let a := (getNs s i).attr
  [⟨4, 4, a.maxActive - 1⟩, ⟨8, 4, a.maxOpen - 1⟩] ++
    (List.range 3).map (fun f => ⟨2816 + 16 * f, 8, zsze a.zw⟩)

/-- The power state descriptors of R407, from byte 2,048. -/
def idPower : List Fld :=
  [(3500, 0, 20, 20), (2000, 0, 20, 20), (1200, 0, 20, 20), (350, 1, 16000, 5000), (25, 1, 100000, 40000)].zipIdx.flatMap
    (fun xj =>
      let o := 2048 + 32 * xj.2
      [⟨o, 2, xj.1.1⟩, ⟨o + 3, 1, 2 * xj.1.2.1⟩, ⟨o + 4, 4, xj.1.2.2.1⟩, ⟨o + 8, 4, xj.1.2.2.2⟩,
       ⟨o + 12, 1, xj.2⟩, ⟨o + 13, 1, xj.2⟩, ⟨o + 14, 1, xj.2⟩, ⟨o + 15, 1, xj.2⟩])

/-- Whether Identify Controller reports a volatile write cache (R117, R119). -/
def vwc (s : State) : Nat := b2n (degraded s)

/-- Identify Controller (R72, R78, R81, R119, R121, R134, R135, R139, R153); CMIC bit 1 of a niche bound on one port
is 0 (DESIGN CHOICE, notes/assumptions/11.md). -/
def idController (s : State) (c : Nat) : List Fld :=
  let n := myNiche s c
  let m := if s.boot.maquette then 0 else 16
  [⟨0, 2, 0x1EA7⟩, ⟨2, 2, 0x1EA7⟩, ⟨64, 8, s.boot.fwVer⟩, ⟨76, 1, 3 * b2n (bothPorts s n)⟩, ⟨77, 1, 9⟩,
   ⟨78, 2, c⟩, ⟨80, 4, 0x20000⟩, ⟨88, 4, 100000⟩, ⟨92, 4, 2 ^ 8 + 2 ^ 9 + 2 ^ 27⟩, ⟨111, 1, 1⟩, ⟨256, 2, 0xE⟩,
   ⟨258, 1, 7⟩, ⟨259, 1, 7⟩, ⟨260, 1, 4 + 16⟩, ⟨262, 1, 63⟩, ⟨263, 1, 4⟩, ⟨265, 1, 1⟩, ⟨266, 2, s.thm.warn + 273⟩,
   ⟨268, 2, s.thm.crit + 273⟩, ⟨270, 2, 5⟩, ⟨319, 1, 1⟩, ⟨320, 2, 10⟩, ⟨328, 4, 3 + 2 ^ 29⟩, ⟨512, 1, 0x66⟩,
   ⟨513, 1, 0x44⟩, ⟨516, 4, m⟩, ⟨520, 2, 0x9F⟩, ⟨525, 1, vwc s⟩, ⟨526, 2, 511⟩, ⟨528, 2, 511⟩, ⟨540, 4, 16⟩] ++ idPower

/-- I/O command set specific controller data: WZSL and WUSL of the NVM set, ZASL of the zoned set (R121). -/
def idCtrlSet (csi : Nat) : List Fld := if csi == 0 then [⟨1, 1, 9⟩, ⟨2, 1, 9⟩] else [⟨0, 1, 9⟩]

/-- NSIDs above `lo` of the namespaces `p` holds of, as a list structure. -/
def nsList (s : State) (n lo : Nat) (p : Ns → Bool) : List Fld :=
  let l := ((slotsOf s n).filter (fun i => p (getNs s i))).map (fun i => (getNs s i).attr.nsid)
  let r := (l.filter (fun x => decide (lo < x))).mergeSort (fun a b => decide (a ≤ b))
  r.zipIdx.map (fun xj => ⟨4 * xj.2, 4, xj.1⟩)

/-- A controller list. -/
def ctrlList (l : List Nat) : List Fld := ⟨0, 2, l.length⟩ :: l.zipIdx.map (fun xj => ⟨2 + 2 * xj.2, 2, xj.1⟩)

/-- What a CNS answers (R139). A CNS that takes an NSID answers for a namespace of the issuing
niche; for a controller, one of the niche. The CNTID of a list is where the list starts: 0 names no controller
(DEDUCED, notes/assumptions/11.md). DESIGN CHOICE (notes/assumptions/38.md): CNS 05h with a CSI other than 00h and 02h
answers zeroes and CNS 07h an empty list; CNS 00h and 11h with NSID FFFFFFFFh complete with Invalid Namespace or
Format. -/
def identifyData (s : State) (c cns nsid cntid csi : Nat) : Status × List Fld :=
  let n := myNiche s c
  let att := fun v : Ns => v.attached.contains c
  let csiOf := fun v : Ns => if v.attr.zoned then 2 else 0
  let ofNs := fun (f : Nat → List Fld) =>
    match slotOf s n nsid with
    | some i => (Status.success, f i)
    | none => (.invalidNsOrFormat, [])
  let attached := fun (f : Nat → List Fld) =>
    match slotOf s n nsid with
    | some i => (Status.success, if att (getNs s i) then f i else [])
    | none => (.invalidNsOrFormat, [])
  let other := fnExists s cntid && !(binds s n cntid)
  let foreign := cntid != 0 && other
  match cns with
  | 0x00 | 0x11 => if cns == 0 then attached (idNamespace s) else ofNs (idNamespace s)
  | 0x01 => (.success, idController s c)
  | 0x02 => (.success, nsList s n nsid att)
  | 0x10 => (.success, nsList s n nsid (fun _ => true))
  | 0x03 => ofNs (fun i => [⟨0, 1, 4⟩, ⟨1, 1, 1⟩, ⟨4, 1, csiOf (getNs s i)⟩])
  | 0x05 => if csi == 2 then attached (fun i => if zonedAt s i then idZoned s i else []) else attached (fun _ => [])
  | 0x06 => if csi == 0 || csi == 2 then (.success, idCtrlSet csi) else (.invalidField, [])
  | 0x07 => (.success, nsList s n nsid (fun v => att v && csiOf v == csi))
  | 0x08 => ofNs (fun i => [⟨0, 1, 0⟩, ⟨1, 1, b2n (bothPorts s n)⟩, ⟨8, 4, 0⟩, ⟨14, 1, b2n (getNs s i).live⟩])
  | 0x12 =>
    if foreign then (.nicheBoundary, [])
    else ofNs (fun i => ctrlList (((getNs s i).attached).filter (fun x => decide (cntid ≤ x))))
  | 0x13 =>
    if foreign then (.nicheBoundary, [])
    else (.success, ctrlList ((nicheCtrls s n).filter (fun x => decide (cntid ≤ x))))
  | 0x1C => if other then (.nicheBoundary, []) else (.success, [⟨0, 8, 5⟩])
  | _ => (.invalidField, [])

def execIdentify (c cid cns nsid cntid csi : Nat) (s : State) : Out :=
  admin s c (fun t =>
    let r := identifyData t c cns nsid cntid csi
    ctlData c cid (if r.1 == .success then 4096 else 0) (fun u => adone u c cid r.1 0 0 (r.2.filter (fun f => f.v != 0))) t)

/-- A command that names no action of its opcode (R57, R150, R151, R153, R370): Invalid Field in Command, where the
controller accepts the opcode. -/
def badAction (opcode cdw10 : Nat) : Bool :=
  (opcode == 0xC8 && decide (3 < cdw10 % 16)) || (opcode == 0xC6 && decide (1 < cdw10 % 16)) ||
    ((opcode == 0x0D || opcode == 0x15) && decide (1 < cdw10 % 16)) ||
    (opcode == 0x84 && !([1, 2, 4].contains (cdw10 % 8)))

/-- An opcode the U1024 does not support, or does not accept from the issuing function (R134, R135, R137): on the
admin queue it completes with Invalid Command Opcode, and an action the opcode does not have with Invalid Field in
Command; on an I/O queue it goes the way of every I/O command. A word that another row stands for is not this
one: nothing happens. -/
def execUnsupportedOpcode (c q cid opcode nsid cdw10 cdw13 : Nat) (s : State) : Out :=
  if q == 0 then
    if !((adminOpcodes s c).contains opcode) then admin s c (fun t => adone t c cid .invalidOpcode)
    else if badAction opcode cdw10 then admin s c (fun t => adone t c cid .invalidField)
    else ok s
  else if !((ioOpcodes s).contains opcode) || (opcode == 0x79 && !([1, 2, 3, 4, 5].contains (cdw13 % 256))) then
    ok (submitIo s c q { op := .other opcode, cid := cid, nsid := nsid, rsv := cdw13 })
  else ok s

end Sys2Proof.Machine
end

