-- ==== Sys2Proof/Machine/Package.lean ====
section
/-! DEFINITION. The package (R492 to R498, R500): which net stands on each ball of the 46 × 46 grid, and the rails
with their nominal voltage, power-up group, sense channel, divider and fate in PS4. -/

namespace Sys2Proof.Machine

/-- The power nets that balls carry (R497, R498). -/
inductive Net where
  | vss | vccqCh | vcore | vpcieH | vpll | vsramIn | vddqDdr | vpcieA | vpcieD | vddphyDdr | vio18 | vaon | vioAon | vana
  deriving DecidableEq, Repr

/-- What a ball carries: a signal by its name, or a power net. -/
inductive Ball where
  | sig (name : String)
  | net (n : Net)
  deriving DecidableEq, Repr

/-- The names of rows 1 to 46 (R492). -/
def rowNames : List String :=
  ["A", "B", "C", "D", "E", "F", "G", "H", "J", "K", "L", "M", "N", "P", "T", "U", "V", "W", "Y",
   "AA", "AB", "AC", "AD", "AE", "AF", "AG", "AH", "AJ", "AK", "AL", "AM", "AN", "AP", "AT", "AU", "AV", "AW", "AY",
   "BA", "BB", "BC", "BD", "BE", "BF", "BG", "BH"]

/-- The name of ball (row, column), both from 1 (R492). -/
def ballName (r c : Nat) : String := rowNames.getD (r - 1) "" ++ toString c

def vssBall : Ball := .net .vss

/-- Entry (dr, dc) of a channel's tile (R493). -/
def tileOf (ch : String) (i : Nat) : Ball :=
  let s := fun n : String => Ball.sig (ch ++ n)
  let q := Ball.net .vccqCh
  [s "CE0#", s "CE1#", s "CE2#", s "CE3#", s "CE4#", s "CE5#", s "CE6#", s "CE7#", s "WP#", s "ALE", s "DQ0", s "DQ1", vssBall,
   s "DQ2", s "DQ3", s "DQS_T", s "DQS_C", q, s "RE_T", s "RE_C", s "DQ4", s "DQ5", q, s "DQ6", s "DQ7", s "WE#", s "CLE", q,
   s "ZQ", vssBall].getD i vssBall

/-- A ball of the four bands of channel tiles, columns 4 to 43 (R493): rows 1 to 12 and 35 to 46, the lower bands upside
down. -/
def channelBall (r c : Nat) : Ball :=
  let b := if r ≤ 6 then 0 else if r ≤ 12 then 1 else if r ≤ 40 then 2 else 3
  let r0 := [1, 7, 35, 41].getD b 0
  let p := (c - 4) / 5
  let dr := if b ≤ 1 then r - r0 else r0 + 5 - r
  tileOf ("CH" ++ toString (8 * b + p) ++ "_") (5 * dr + (c - 4) % 5)

/-- A ball of columns 1 to 6, rows 13 to 34: PCIe lanes, clocks and resets (R494). -/
def pcieBall (r c : Nat) : Ball :=
  let row := fun l : List Ball => l.getD (c - 1) vssBall
  if r == 13 then row [.sig "REFCLK0_P", .sig "REFCLK0_N", vssBall, .sig "REFCLK1_P", .sig "REFCLK1_N", vssBall]
  else if r == 30 then row [.sig "PERST0#", .sig "PERST1#", .sig "PE0_CLKREQ#", .sig "PE1_CLKREQ#", .sig "PE0_RCAL",
    .sig "PE1_RCAL"]
  else if 30 < r then vssBall
  else
    let pre := if r < 22 then "PE0_" else "PE1_"
    let i := toString ((r - 14) % 8)
    let s := fun n : String => Ball.sig (pre ++ n ++ i)
    row [s "TXP", s "TXN", vssBall, s "RXP", s "RXN", vssBall]

/-- A ball of columns 39 to 46, rows 13 to 34: the DRAM's sub-channels (R495). -/
def dramBall (r c : Nat) : Ball :=
  if r == 33 && c == 39 then .sig "DDR_RESET_N"
  else if r == 33 && c == 40 then .sig "DDR_ZQ"
  else if 32 < r then vssBall
  else
    let s := fun n : String => Ball.sig ("DDR_" ++ ["A", "B", "C", "D"].getD ((r - 13) / 5) "" ++ "_" ++ n)
    let q := Ball.net .vddqDdr
    [s "DQ0", s "DQ1", s "DQ2", s "DQ3", s "DQ4", s "DQ5", s "DQ6", s "DQ7",
     s "DMI0", s "WCK0_T", s "WCK0_C", s "RDQS0_T", s "RDQS0_C", q, s "CK_T", s "CK_C",
     s "DQ8", s "DQ9", s "DQ10", s "DQ11", s "DQ12", s "DQ13", s "DQ14", s "DQ15",
     s "DMI1", s "WCK1_T", s "WCK1_C", s "RDQS1_T", s "RDQS1_C", q, s "CS0", s "CS1",
     s "CA0", s "CA1", s "CA2", s "CA3", s "CA4", s "CA5", s "CA6", q].getD (8 * ((r - 13) % 5) + (c - 39)) vssBall

/-- The fill of the corner by the boot flash, straps and TAP, then of that by the supply pins, then of that by the
federation, the oscillator and the analogue inputs (R496). -/
def cornerNw : List Ball :=
  (["BOOT_SCK", "BOOT_CS#", "BOOT_DQS", "BOOT_IO0", "BOOT_IO1", "BOOT_IO2", "BOOT_IO3", "BOOT_IO4", "BOOT_IO5", "BOOT_IO6",
    "BOOT_IO7", "BOOT_RESET#", "STRAP_BOOT0", "STRAP_BOOT1", "STRAP_LANES0", "STRAP_LANES1", "STRAP_GEN", "STRAP_HOLDUP",
    "STRAP_FED0", "STRAP_FED1", "STRAP_DRAM", "TCK", "TMS", "TDI", "TDO", "TRST#"].map Ball.sig) ++
  [.net .vio18, vssBall, .net .vio18, vssBall, .net .vio18, vssBall, .net .vio18, vssBall, vssBall, vssBall]

def cornerNe : List Ball :=
  (["PG_AON", "PFAIL_IN", "HU_CHG_EN", "HU_TEST", "SMB_CLK", "SMB_DAT", "ALERT#", "THERM_TRIP#"].map Ball.sig) ++
  (["SRAM", "PCIE", "CORE", "ANA", "IO", "CH", "NAND", "DDR"].flatMap (fun x => [.sig ("RAIL_EN_" ++ x), .sig ("PG_" ++ x)])) ++
  (List.range 4).flatMap (fun _ => [.net .vaon, vssBall, .net .vioAon])

def cornerSw : List Ball :=
  (["FSYNC_IN_P", "FSYNC_IN_N", "FSYNC_OUTA_P", "FSYNC_OUTA_N", "FSYNC_OUTB_P", "FSYNC_OUTB_N", "XIN", "XOUT", "VIN_SENSE",
    "HOLDUP_V", "THERMX0", "THERMX1", "THERMX2", "THERMX3"].map Ball.sig) ++
  (List.range 18).map (fun i => .sig ("VSNS" ++ toString (30 + i))) ++ List.replicate 4 (.net .vana)

/-- A ball of a corner: three columns, filled row by row (R496). -/
def cornerBall (r c : Nat) : Ball :=
  let i := 3 * (if r ≤ 12 then r - 1 else r - 35) + (c - 1) % 43
  if r ≤ 12 then (if c ≤ 3 then cornerNw else cornerNe).getD i vssBall
  else if c ≤ 3 then cornerSw.getD i vssBall else vssBall

/-- A ball of the middle, columns 7 to 38: ground and rails in a chequer (R497). -/
def coreBall (r c : Nat) : Ball :=
  if (r + c) % 2 == 0 then vssBall
  else .net (if c ≤ 8 then .vpcieA else if c == 9 then .vpcieH else if c ≤ 11 then .vpcieD else if c ≤ 25 then .vcore
    else if c ≤ 30 then .vsramIn else if c == 31 then .vpll else if c == 32 then .vio18 else if c ≤ 34 then .vddphyDdr
    else .vddqDdr)

/-- The ball at row `r` and column `c`, both from 1 to 46 (R493 to R497). -/
def ballAt (r c : Nat) : Ball :=
  if r ≤ 12 || 35 ≤ r then (if c ≤ 3 || 44 ≤ c then cornerBall r c else channelBall r c)
  else if c ≤ 6 then pcieBall r c
  else if c ≤ 38 then coreBall r c
  else dramBall r c

/-- How many balls of the grid are as `p` says. -/
def ballCount (p : Ball → Bool) : Nat :=
  sumBy (fun r => ((List.range 46).filter (fun c => p (ballAt (r + 1) (c + 1)))).length) (List.range 46)

/-! ### Rails (R500) -/

/-- A rail: nominal voltage in mV, tolerance in percent, the index of its enable in power-up order (none: the PMIC's own),
its sense channel, its divider, and whether PS4 switches it off. -/
structure RailRow where
  name : String
  mv : Nat
  tol : Nat
  group : Option Nat
  sense : Nat
  divider : Nat
  switched : Bool
  deriving DecidableEq, Repr

/-- The divider of a nominal voltage (R500). -/
def dividerOf (mv : Nat) : Nat := if mv ≤ 1000 then 1 else if mv ≤ 2400 then 2 else 3

def railRow (name : String) (mv tol : Nat) (group : Option Nat) (sense : Nat) (switched : Bool) : RailRow :=
  ⟨name, mv, tol, group, sense, dividerOf mv, switched⟩

/-- The rails of R500, in its order; the DRAM's three board rails stand apart. -/
def railTable : List RailRow :=
  [railRow "VAON" 750 3 none 30 false, railRow "VIO_AON" 1800 5 none 31 false, railRow "VSRAM_IN" 900 3 (some 0) 32 false,
   railRow "VPCIE_D" 750 3 (some 1) 33 false, railRow "VPCIE_A" 850 3 (some 1) 34 false,
   railRow "VPCIE_H" 1200 5 (some 1) 35 false, railRow "VCORE" 750 3 (some 2) 36 true, railRow "VPLL" 900 3 (some 2) 37 true,
   railRow "VANA" 1800 3 (some 3) 38 true, railRow "VIO18" 1800 5 (some 4) 39 true, railRow "VCCQ_CH" 1200 5 (some 5) 40 true,
   railRow "Flash VCC" 2500 5 (some 6) 41 true, railRow "Flash VCCQ" 1200 5 (some 6) 42 true,
   railRow "VDDPHY_DDR" 750 3 (some 7) 43 true, railRow "VDDQ_DDR" 500 5 (some 7) 44 true,
   railRow "DRAM VDD1" 1800 5 (some 7) 45 true, railRow "DRAM VDD2H" 1050 5 (some 7) 46 true,
   railRow "DRAM VDD2L" 900 5 (some 7) 47 true]

/-- The divider before channel `ch` of the housekeeping ADC: VIN_SENSE, HOLDUP_V, or a rail's (R330, R500). -/
def adcDivider (ch : Nat) : Nat :=
  if ch == 28 then 16 else if ch == 29 then 50 else (railTable.find? (fun r => r.sense == ch)).elim 1 (·.divider)

end Sys2Proof.Machine
end

