-- ==== Sys2Proof/Machine/Upkeep.lean ====
section
/-! DEFINITION. The device's own upkeep of its media and its records: Recast (R271 to R275),
collection (R182 to R184), the frame index's and the maps' way to the Plinth (R177, R321, R348,
R349), the Patina image and the Armature mirror (R39, R447). -/

namespace Sys2Proof.Machine

/-! ### Recast -/

/-- A row's age since its first program reaches one year (R271). -/
def execRowAgeTrigger (rank row : Nat) (s : State) : Out :=
  if (getRow s (rk rank row)).nstripe == 0 then ok s else ok (queueRecast s rank row 1)

/-- The record of a queued row that has missed its 24 h (R271). -/
def recastMissed (s : State) (key : Nat) : State :=
  let v := getRow s key
  nicheRec (setRow s key { v with missed := true }) (rowOwner s (key / 8192) (key % 8192)) 0x53 4 (key / 8192) 0 (key % 8192)

/-- Whether the deadline of 24 h holds on rank `k`: fewer than 3,000 of its rows are queued (R271). -/
def deadlineHolds (s : State) (k : Nat) : Bool :=
  decide ((tkeys s.rows (fun key v => key / 8192 == k && v.queue != 0)).length < 3000)

/-- The deadlines missed in PS3 or PS4 are recorded at the exit (R417). -/
def missedLow (s : State) : State :=
  (tkeys s.rows (fun key v => v.queue == 1 && !v.missed && decide (v.queuedUs + 86400000000 ≤ s.opUs) &&
    deadlineHolds s (key / 8192))).foldl recastMissed s

/-- A queued row misses its 24 h (R271); in PS3 and PS4 that is recorded at the exit (R417). -/
def execRecastDeadlineMissed (rank row : Nat) (s : State) : Out :=
  let v := getRow s (rk rank row)
  if v.queue != 1 || v.missed || mediaHeld s || !(deadlineHolds s rank) then ok s else ok (recastMissed s (rk rank row))

/-- The positions of a stripe whose sectors are lost, which the copy holds as filler (R273). -/
def lostPositions (s : State) (sid : Nat) (x : Stripe) : List Nat :=
  x.gone ++ (x.cells.filter (fun kv =>
    let v := tget ({} : Sector) s.sectors (lk x.slot kv.2.lba)
    v.sid == sid && v.pos == kv.1 && !(x.gone.contains kv.1) && (v.unc || lostHit s x.slot kv.2.lba kv.2.lba))).map (·.1)

/-- The reads issued to the blocks of row (k, r) that have not ended: in the array or in a page register (R274). -/
def issuedReads (s : State) (k r : Nat) : List Nat :=
  tkeys s.reads (fun _ q => q.sid != 0 && q.rank == k && (getStripe s q.sid).row == r && (q.st == .array || q.st == .xfer))

/-- A read of a stripe `old` that is still to be issued follows its codeword to the layout the swap has given the stripe;
a rebuild starts anew, and a scrub read of a unit that is no more ends. -/
def readdress (s : State) (i : Nat) (old : Stripe) : State :=
  let q := getRd s i
  let x := getStripe s q.sid
  match posOf (selfDescOf s old.niche) (dataChans old).length ((dataChans old).idxOf q.ch) q.ix with
  | some p =>
    if (parityChans old).contains q.ch then s
    else setRd s i { q with ch := chanOfPos s x p, ix := ixOfPos s x p, step := 0, soft := 0, st := .wait }
  | none => s

/-- The reads of row (k, r) not issued yet, and those that wait for a rebuild, after a swap from layout `was`. -/
def readdressRow (was s : State) (k r : Nat) : State :=
  let l := tkeys s.reads (fun _ q => q.sid != 0 && q.rank == k && (getStripe s q.sid).row == r &&
    (q.st == .wait || q.st == .rebuild) && (match q.own with | .unit _ | .scrub => false | _ => true))
  let moved := l.filter (fun i => (getStripe s (getRd s i).sid).chmask != (getStripe was (getRd s i).sid).chmask)
  let s1 := { s with reads := tdrop s.reads (fun _ q => match q.own with
    | .unit p => moved.contains p | _ => false) }
  moved.foldl (fun a i => readdress a i (getStripe was (getRd a i).sid)) s1

/-- The blocks of row (k, r) and of its copy in row `f` are swapped (R274); the stripes copied are Recast's from
then on, with its headers (R354). The source blocks, now under `f`, are erase-pending once the reads issued to them have
ended. A mirror's stripe keeps its two dies (R39). -/
def recastSwap (s : State) (k r f : Nat) : State :=
  let v := getRow s (rk k r)
  let w := getRow s (rk k f)
  let l := issuedReads s k r
  let s1 := setRow s (rk k r) { v with
    chmask := w.chmask, p := w.p, splits := [], queue := 0, missed := false, reads := 0
    firstUs := s.opUs, dest := none, copied := 0, copyPh := 0, copyT := 0, copyCh := none, copyBad := [], cols := []
    swapJ := false }
  let src := if l.isEmpty then pendRow s else { pendRow s with st := .leaving, waits := l }
  let s2 := mapRank (setRow s1 (rk k f) src) k (swapBlocks r f)
  readdressRow s (journal { s2 with stripes := tmap {} s2.stripes (fun i x =>
    if x.rank == k && x.row == r then
      let on := x.phase == .done
      let m := if x.pl == some .mirror then x.chmask else w.chmask
      let all := if on then m else 0
      { x with chmask := m, p := if x.pl == some .mirror then 0 else w.p
               erased := 0, issued := all, ended := all, released := all
               recast := x.recast || on, seq := if on then x.copySeq else x.seq
               gone := if on then lostPositions s i x else x.gone }
    else x) }) k r

/-- The swap (R274): every present stripe is copied, none is being loaded, and the swap is journaled. -/
def execRecastCommit (rank row : Nat) (s : State) : Out :=
  let v := getRow s (rk rank row)
  match v.dest with
  | none => ok s
  | some f =>
    let sts := stripesOfRow s rank row
    let flight := sts.any (fun i => (getStripe s i).phase == .granted || (getStripe s i).phase == .issued)
    if !(copyWhole s (rk rank row)) || flight || !v.swapJ then ok s
    else ok (recastSwap s rank row f)

/-! ### Records on their way to the Plinth -/

/-- The frame index entries of a zone move to the Plinth (R177). -/
def execFrameIndexPersist (slot zone : Nat) (s : State) : Out :=
  let v := getZone s (zk slot zone)
  if !s.plinth.mounted then ok s
  else ok (setZone s (zk slot zone) { v with framesSaved := v.frames.length })

/-- A Plinth program is asked for; it waits in the queue of reserve work (R226) and starts at once where R220 lets
it. -/
def askJob (s : State) (j : PlJob) : State :=
  let s1 := addJob s j
  match [(plinthRanks s).1, (plinthRanks s).2].find? (fun k => (chooseWork s1 k).map (·.1) == some (.plinth j)) with
  | some k => if startsHeld s1 then s1 else selectWork s1 k
  | none => s1

/-- A checkpoint of a niche is asked for (R348). -/
def execCheckpoint (niche : Nat) (s : State) : Out :=
  if !(nicheValid s niche) then ok s else ok (askJob s (.checkpoint niche))

/-- A journal page is programmed (R349): its records are on the Plinth once its dies are done. -/
def execJournalPageProgram (s : State) : Out :=
  if s.plinth.jrnl == 0 || pageOn s then ok s else ok (askJob s .page)

def execPatinaPersist (s : State) : Out := ok (askJob s .patina)

/-- After release, the structure in force is written to the Plinth as the Armature mirror where the mirror does not
hold its SEQ: one copy on die (0, kp), one on die (16, kp), kp the lower Plinth rank (R39). -/
def execArmatureMirrorWrite (s : State) : Out :=
  if !s.glb.released || s.boot.maquette || s.arm.mirror == some s.arm.seq then ok s else ok (askJob s .mirror)

/-! ### Collection of a fine region -/

/-- Valid sectors of a row: those an LBA's newest content lies at, the lost ones apart. -/
def validIn (s : State) (k r : Nat) : List Nat :=
  let sts := stripesOfRow s k r
  tkeys s.sectors (fun _ v => sts.contains v.sid && !v.unc)

/-- The victim: the held row, neither open, with the fewest valid sectors; the lowest SEQ on a tie
(R183). -/
def gcVictim (s : State) (i : Nat) : Option Nat :=
  let v := getNs s i
  let opened := fun key => (openRows v).contains (key / 8192, key % 8192)
  argMin (fun key => (validIn s (key / 8192) (key % 8192)).length * 2 ^ 64 + (getRow s key).seq)
    ((fineHeld s i).filter (fun key => !(opened key) && (getRow s key).victim.isNone))

/-- Collection may begin in the background (R184): idle for 50 ms and Free < 2L. -/
def execGcBackgroundStart (slot : Nat) (s : State) : Out :=
  let n := (getNs s slot).attr.niche
  let v := getNch s n
  if (getNs s slot).live && !(zonedAt s slot) && decide (v.lastIoUs + 50000 ≤ s.nowUs) &&
      decide (fineFree s slot < 2 * gcLevel s slot) then ok (setNch s n { v with bgGc := true })
  else ok s

/-- Sectors the collection row can still take, a new row's included. -/
def gcRoom (s : State) (i : Nat) : Nat :=
  let v := getNs s i
  let n := v.attr.niche
  let one := fun kr : Nat × Nat => rowStripeCap s n kr - 4
  let inRow := match v.gcRow with
    | some kr => (stripesPerRow s - (stripesOfRow s kr.1 kr.2).length) * one kr +
        (match v.gcFill with | some f => (getStripe s f).dcap - (getStripe s f).valid | none => 0)
    | none => 0
  match bindPlan s n 1 with
  | .rows (kr :: _) => inRow + stripesPerRow s * (stripeCap (selfDescOf s n) (nk s kr.1 - 2) - 4)
  | _ => inRow

/-- The row being collected, or the next victim. -/
def collecting (s : State) (i : Nat) : Option Nat :=
  ((fineHeld s i).find? (fun key => (getRow s key).victim.isSome)).orElse (fun _ => gcVictim s i)

/-- The reads of a collection enter the table (R183 step 1), in the class of its mode (R184). -/
def collectReads (s : State) (i : Nat) (l : List Nat) : State :=
  let n := (getNs s i).attr.niche
  l.foldl (fun a k =>
    let v := tget ({} : Sector) a.sectors k
    let x := getStripe a v.sid
    (addRd a { own := .gc i (k % 281474976710656), cls := if fgMode s i then 2 else 3, niche := n, sid := v.sid
               rank := x.rank, ch := chanOfPos a x v.pos, ix := ixOfPos a x v.pos }).1) s

/-- The next sectors of a victim, at most 64, are read into a buffer of the niche's non-reserved space for their
copy (R183, R184); the choice of the victim records its valid count. -/
def execGcVictimCollect (slot : Nat) (s : State) : Out :=
  let n := (getNs s slot).attr.niche
  let busy := s.reads.any (fun kv => match kv.2.own with | .gc j _ => j == slot | _ => false)
  if !(getNs s slot).live || zonedAt s slot || !(fgMode s slot || bgMode s slot) || busy then ok s
  else match collecting s slot with
  | none => ok s
  | some key =>
    let all := validIn s (key / 8192) (key % 8192)
    let w := getRow s key
    let s1 := setRow s key { w with victim := some (w.victim.getD all.length) }
    if gcRoom s slot < all.length || all.isEmpty then ok (if all.isEmpty then s1 else s)
    else
      let r := allocate s1 n 3 (gcOwner slot) false none
      if r.2.isNone then ok r.1
      else ok (journal (collectReads r.1 slot (all.take (clsSectors (getNs s slot).fmt 3))))

/-- A collected victim is freed as erase-pending once its map changes are journaled and no read of it
is in flight (R183); in foreground mode it adds credits (R184, R278), and background mode ends once no region of
the niche has less than 2L rows free. -/
def execGcVictimFree (slot : Nat) (s : State) : Out :=
  let n := (getNs s slot).attr.niche
  match (fineHeld s slot).find? (fun key => (getRow s key).victim.isSome) with
  | none => ok s
  | some key =>
    let sts := stripesOfRow s (key / 8192) (key % 8192)
    let reading := s.reads.any (fun kv => kv.2.sid != 0 && sts.contains kv.2.sid)
    if reading || s.plinth.jrnl != 0 || !(validIn s (key / 8192) (key % 8192)).isEmpty then ok s
    else
      let vic := (getRow s key).victim.getD 0
      let gain := stripesPerRow s * (rowStripeCap s n (key / 8192, key % 8192) - 4) - vic
      let s0 := { s with sectors := tmap {} s.sectors (fun _ w => if sts.contains w.sid then { w with sid := 0, pos := 0 } else w) }
      let s1 := unbindRow .pending s0 (key / 8192, key % 8192)
      let v := getNch s1 n
      let ends := (slotsOf s1 n).all (fun i => (getNs s1 i).attr.zoned || decide (2 * gcLevel s1 i ≤ fineFree s1 i))
      ok (refreshGc (setNch s1 n { v with
        credits := if v.fgGc then v.credits + gain else v.credits, bgGc := v.bgGc && !ends }) n)

end Sys2Proof.Machine
end

