-- ==== Sys2Proof/Machine/ResetOps.lean ====
section
/-! DEFINITION. The operations resets, stops and the flush share (R130 to R132, R343 to R350, R454 to
R465): dropping a controller, committing what is buffered, the flush, and what each reset clears. -/

namespace Sys2Proof.Machine

/-! ### Controllers, functions and ports -/

/-- Commissions whose every bound SQ is gone are closed by the device (R211). -/
def closeGone (s : State) : State :=
  ((liveComms s).filter (fun h => (getComm s h).sqs.all (fun k => (getSq s k).comm != some h))).foldl
    (fun a h => closeByDevice a 1 h) s

/-- What a controller keeps through a controller reset (R456, R463). -/
def keptCtrl (v : Ctrl) : Ctrl :=
  { ({} : Ctrl) with
    cc := clrBit v.cc 0, aqa := v.aqa, asq := v.asq, acq := v.acq, errs := v.errs, errCnt := v.errCnt
    changedNs := v.changedNs, unmasked := v.unmasked, fmask := v.fmask, pend := v.pend, msgs := v.msgs }

/-- A controller's commands are discarded, a Federation Control and a Firmware Commit that wait among them, and its
queues deleted (R130). -/
def dropQueues (s : State) (c : Nat) : State :=
  let s0 := (s.pool.ctl.filter (fun r => r.c == c)).foldl dropCtl s
  let s1 := (tkeys s0.cmds (fun _ d => ctrlOfSq d.sq == c)).foldl discard s0
  let s2 := (tkeys s1.sqs (fun k _ => ctrlOfSq k == c)).foldl endHold s1
  { s2 with
    boot := { s2.boot with activation := s2.boot.activation.filter (fun x => x.1 != c) }
    cipher := { s2.cipher with imps := s2.cipher.imps.filter (fun x => x.c != c) }
    fed := { s2.fed with
      wait := s2.fed.wait.filter (fun x => x.1 != c), setT := s2.fed.setT.filter (fun x => x.1 != c) }
    sqs := tdrop s2.sqs (fun k _ => ctrlOfSq k == c), cqs := tdrop s2.cqs (fun k _ => k / 65536 == c) }

/-- A controller reset (R130, R456): its commissions close with its SQs. -/
def dropController (s : State) (c : Nat) : State :=
  let s1 := dropQueues s c
  settle (closeGone (setCtrl s1 c (keptCtrl (getCtrl s1 c))))

/-- A function's AER status clears (R456). -/
def dropAer (s : State) (c : Nat) : State :=
  let v := getPort s (portOf c)
  setPort s (portOf c) { v with aer := v.aer.filter (fun x => x.1 != fnOf c) }

/-- A function's reset also returns its configuration space, AER status included (R456); the Error Information log is
cleared by a device reset only (R463). -/
def dropFunction (s : State) (c : Nat) : State :=
  let s1 := dropController (dropAer s c) c
  let v := getCtrl s1 c
  setCtrl s1 c { ({} : Ctrl) with errs := v.errs, errCnt := v.errCnt, msgs := v.msgs }

/-- A staging sequence owned by the PF0 of port `p` closes (R456, R458). -/
def closeStage (s : State) (p : Nat) : State :=
  match s.arm.stage with
  | some (_, q) => if q == p then { s with arm := { s.arm with stage := none } } else s
  | none => s

/-- An FLR (R90, R456). -/
def flr (s : State) (c : Nat) : State :=
  let s1 := dropFunction s c
  if !(isPf0 c) then s1
  else
    let p := portOf c
    let s2 := ((List.range 63).map (fun i => p * 64 + i + 1)).foldl dropFunction s1
    let v := getPort s2 p
    let s3 := setPort s2 p { v with vfOn := false, numVfs := 0, mps := 0, mrrs := 512, ptmEn := false, ptmAsk := false }
    let s4 := closeStage s3 p
    if v.mps == 0 then s4 else trigger s4

/-- A port warm reset (R458), which the latest triple of the port and their count outlive (R375): the crossings of the port island are fenced (R404), its clock is gated until the link
trains (R10, R406). -/
def portReset (s : State) (p : Nat) : State :=
  let s1 := ((List.range 64).map (fun i => p * 64 + i)).foldl dropFunction s
  let v := getPort s1 p
  let s2 := closeStage (setPort s1 p { ({} : Port) with
    ptmM := v.ptmM, ptmL := v.ptmL, ptmF := v.ptmF, ptmSeq := v.ptmSeq, ptmValid := v.ptmValid }) p
  let f := s2.clk.fence
  trigger { s2 with
    arb := { s2.arb with fetchOff := s2.arb.fetchOff.erase p }
    clk := { s2.clk with gate0 := clrBit s2.clk.gate0 (15 + p), fence := if f.contains (.port p) then f else f ++ [.port p] } }

/-- The islands but the always-on island (R14). -/
def otherIslands : List Island :=
  [.port 0, .port 1, .queue, .datapath, .cipher, .ldpc, .control, .dram, .housekeeping] ++
    (List.range 32).map Island.channel

/-! ### Link loss (R91) -/

/-- Whether a command's data has fully arrived (R91 step 3). -/
def arrived (s : State) (id : Nat) : Bool :=
  let c := getCmd s id
  c.phase == .started && writesData s c.slot c.io && c.want.isEmpty && c.recv.length == c.need

/-- The commands of a port are decided: those whose data has fully arrived commit, the rest are
discarded, SQ entries staged or still being fetched are never started, and no CQE of the port is sent (R91 steps 2
to 5). -/
def decidePort (s : State) (p : Nat) : State :=
  let ids := tkeys s.cmds (fun _ d => portOf (ctrlOfSq d.sq) == p)
  let keep := ids.filter (arrived s)
  let s1 := keep.foldl (fun a i => commitWrite (passAll a i) i) s
  let s2 := (ids.filter (fun i => !(keep.contains i))).foldl discard s1
  let s3 := { s2 with
    sqs := tmap {} s2.sqs (fun k q => if portOf (k / 65536) == p then { q with staged := [], inflight := 0 } else q)
    cqs := tmap {} s2.cqs (fun k q => if portOf (k / 65536) == p then { q with waiting := [] } else q) }
  settle (setPort s3 p { getPort s3 p with
    committed := keep.length, discarded := ids.length - keep.length })

/-- The record of a link loss (R91 step 7). -/
def linkRec (s : State) (p : Nat) : State :=
  let v := getPort s p
  devRec s 0x20 4 p (v.committed + v.discarded * 2 ^ 32)

/-! ### Committing what is buffered (R131, R399, R418, R419, R436) -/

/-- One unit of a stripe reaches the media: loaded if it was not, and its program ended. -/
def forceUnit (s : State) (sid c : Nat) : State :=
  let d := dk c (getStripe s sid).rank
  let v := getDie s d
  let s1 := if v.op == .load sid || v.op == .program sid then idleDie s d
    else if v.susp == some (.program sid) then setDie s d { takeUp { v with op := .idle } with op := v.op } else s
  let s2 := if bitOf (getStripe s1 sid).issued c then s1
    else issueUnit (if v.retired then addErasure s1 sid c else s1) sid c
  if bitOf (getStripe s2 sid).ended c then s2 else endProgram s2 sid c true

/-- A stripe is loaded and programmed whole. -/
def forceStripe (s : State) (sid : Nat) : State :=
  let x := getStripe s sid
  let s1 := if x.phase == .complete || x.phase == .eligible then
      let t := nextSeq (nextGrant s)
      setStripe t sid { x with phase := .granted, seq := t.sched.seqNo, ord := t.sched.grantNo }
    else s
  (chIn x.chmask).foldl (fun a c => forceUnit a sid c) s1

/-- The namespaces of slots `l` are committed to the media as a Flush under degraded hold-up commits
them (R120, R171); a collection's own filling stripe goes with them. -/
def commitSlots (s : State) (l : List Nat) : State :=
  let s1 := l.foldl (fun a i => (unprogrammed a i).foldl padFor a) s
  (tkeys s1.stripes (fun _ x => l.contains x.slot && x.phase != .filling && x.phase != .done)).foldl forceStripe s1

/-- Every namespace's slot. -/
def allSlots (s : State) : List Nat := tkeys s.ns (fun _ v => v.live)

/-- The clean mark, where no dirty buffer remains (R350). -/
def cleanMark (s : State) : State :=
  if dirtyBytes s == 0 then { s with plinth := { s.plinth with newest := 2 } } else s

/-- Buffered data of slots `l` committed, the maps checkpointed, the ring persisted and the clean mark
written (R131, R350, R447). -/
def commitAll (s : State) (l : List Nat) : State :=
  if !s.plinth.mounted then s
  else
    let s1 := commitSlots s l
    let ns := (l.map (fun i => (getNs s1 i).attr.niche)).eraseDups
    let s2 := cleanMark (persistPatina (ns.foldl checkpointOf (journalPage s1 s1.plinth.jrnl (mapImg s1))))
    { s2 with plinth := { s2.plinth with img := mapImg s2 } }

/-! ### Shutdown (R131) -/

/-- The slots a controller's shutdown commits: namespaces of its niche that no other live controller
serves. -/
def shutdownSlots (s : State) (c : Nat) : List Nat :=
  (slotsOf s (myNiche s c)).filter (fun i => !((getNs s i).attached.any (fun d =>
    d != c && (getCtrl s d).rdy && (getCtrl s d).shst == 0)))

/-- A shutdown whose started commands have all ended is completed (R131). -/
def endShutdown (s : State) (c : Nat) : State :=
  if (getCtrl s c).shst != 1 || s.cmds.any (fun kv => ctrlOfSq kv.2.sq == c && kv.2.phase == .started) then s
  else
    let s1 := commitAll s (shutdownSlots s c)
    setCtrl s1 c { getCtrl s1 c with shst := 2 }

/-- Every controller's shutdown under way. -/
def endShutdowns (s : State) : State := (tkeys s.ctrls (fun _ v => v.shst == 1)).foldl endShutdown s

/-! ### The flush (R343 to R347) -/

/-- Whether an operation is a program. -/
def isProgramOp : DieOp → Bool
  | .program _ | .copy _ => true
  | _ => false

/-- A die at the start of a flush: loads, reads and erases stop, a suspended program resumes (R345). -/
def stopDie (d : Die) : Die :=
  let e := { d with xfer := none, level := 0, offset := 0, below := none }
  match suspendedProgram d with
  | some _ => takeUp { e with op := .idle }
  | none =>
    if isProgramOp d.op then { e with susp := none, suspWait := false, suspRd := none }
    else { e with op := .idle, kind := 0, resv := false, bursts := 0, susp := none, suspWait := false, suspRd := none }

/-- The sectors of a part of a buffer whose unit has not been released, as (LBA, slot, commit sequence). -/
def unreleased (s : State) (p : Nat × Nat × Nat) : List (Nat × Nat × Nat) :=
  let x := getStripe s p.1
  ((List.range p.2.2).filter (fun j => !(bitOf x.released (chanOfPos s x (p.2.1 + j))))).map (fun j =>
    let c := tget ({} : Cell) x.cells (p.2.1 + j)
    (c.lba, x.slot, c.seq))

/-- The sectors a niche holds in dirty buffers, in commit order (R344, R345: its data units). -/
def dirtySectors (s : State) (n : Nat) : List (Nat × Nat × Nat) :=
  ((s.pool.bufs.filter (fun kv => kv.2.dirty && bkNiche kv.1 == n)).flatMap
    (fun kv => kv.2.parts.flatMap (unreleased s))).mergeSort (fun a b => decide (a.2.2 ≤ b.2.2))

/-- A list cut into pieces of 15. -/
def cut15 : Nat → List (Nat × Nat × Nat) → List (List (Nat × Nat × Nat))
  | 0, _ => []
  | f + 1, l => if l.isEmpty then [] else l.take 15 :: cut15 f (l.drop 15)

/-- The order of the niches in a flush: self-describing niches first (R345). -/
def flushOrder (s : State) : List Nat :=
  let l := validNiches s
  l.filter (fun n => (nicheCfg s n).selfDesc) ++ l.filter (fun n => !(nicheCfg s n).selfDesc)

/-- The band units of a niche's portion: data units of 15 sectors, then one of its state (R343 to R345;
notes/assumptions/26.md). -/
def nicheUnits (s : State) (n : Nat) : List BandUnit :=
  let l := dirtySectors s n
  let d := cut15 l.length l
  let u : BandUnit := { niche := n, nunits := d.length + 1, armseq := s.arm.seq, pwrcyc := s.pat.pwrcyc }
  d.zipIdx.map (fun xj => { u with unit_ := xj.2, sects := xj.1 }) ++ [{ u with kind := 1, unit_ := d.length }]

/-- The band units a flush writes, niche by niche, then the device state unit and the band head for each rank of the
Plinth (R343, R345). -/
def flushUnits (s : State) : List BandUnit :=
  let u : BandUnit := { nunits := 1, armseq := s.arm.seq, pwrcyc := s.pat.pwrcyc }
  (flushOrder s).flatMap (nicheUnits s) ++ [{ u with kind := 2 }] ++
    ([(plinthRanks s).1, (plinthRanks s).2].eraseDups).map (fun k => { u with kind := 4, rank := k })

/-- A sector of the band as it is stored, a codeword's information part of its own format (R256, R343). -/
def bandSector (s : State) (e : Nat × Nat × Nat) : Nat :=
  match (s.stripes.filter (fun kv => kv.2.slot == e.2.1)).findSome? (fun kv =>
      (kv.2.cells.find? (fun c => c.2.lba == e.1 && c.2.seq == e.2.2)).map (fun c => (kv.2.fmt, c.2.val))) with
  | some (f, v) => if f == 0 then withTag v (tagWord 0 e.2.1 e.1) else v
  | none => 0

/-- What a band unit holds: its header sector and its data sectors (R343, R344). -/
def bandData (s : State) (u : BandUnit) : List Nat :=
  if u.kind < 3 then bandHeader u :: u.sects.map (bandSector s) else []

/-- The codewords of a unit of the band; of a parity unit, the XOR of the others of its band stripe (R343). -/
def bandContent (s : State) (u : BandUnit) : List Nat :=
  if u.kind != 3 then u.data
  else
    let l := s.plinth.band.filter (fun v => v.kind == 0 && v.rank == u.rank && v.line == u.line)
    (List.range 16).map (fun j => l.foldl (fun a v => a ^^^ v.data.getD j 0) 0)

/-- The device's own copies are given up before their programs: the reads of the table, the buffers of a Recast copy and
of collection (R183, R273). -/
def dropMoves (s : State) : State :=
  let s1 := dropReads s (fun _ => true)
  let s2 := (validNiches s1).foldl (fun a n => (slotsOf a n).foldl (fun b i => gcBuffer b i none) a) s1
  (tkeys s2.rows (fun _ r => r.copyPh != 0 || r.queue != 0)).foldl
    (fun a k => setRow (freeOwned a (copyOwner k)) k { getRow a k with copyPh := 0 }) s2

/-- A step-down whose retrain has not begun is abandoned (R251). -/
def abandonSteps (s : State) : State :=
  { s with chans := tmap {} s.chans (fun _ v =>
    if v.stepPend && !v.retrain then { v with stepPend := false, making := false } else v) }

/-- Every channel begins a quick retrain at its rate as its domain powers up (R254). -/
def quickAll (s : State) : State := (List.range 32).foldl quickAtExit s

/-- The loads under way of stripes are abandoned (R345 step 2): they are complete again, and a Plinth program's is given
up. -/
def abandonLoads (s : State) : State :=
  let back := tkeys s.stripes (fun _ x => x.phase == .granted)
  let s1 := back.foldl (fun a i =>
    if (getStripe a i).pl.isSome && (getStripe a i).issued == 0 then discardStripe a i
    else setStripe a i { getStripe a i with phase := .complete, loaded := 0 }) s
  { s1 with plinth := { s1.plinth with jobs := [] } }

/-- A flush starts (R345 steps 1 and 2); from PS3 it wakes the channels first (R423), which retrain before they take work
(R254); a step-down not begun is abandoned (R251). Before anything is mounted there is nothing to write. -/
def beginFlush (s : State) (ph : Phase) : State :=
  let s1 := (tkeys s.cmds (fun _ _ => true)).foldl discard (s.pool.ctl.foldl dropCtl s)
  let s2 := dropMoves (abandonLoads s1)
  let s3 := { s2 with
    cqs := tmap {} s2.cqs (fun _ q => { q with waiting := [] })
    sqs := tmap {} s2.sqs (fun _ q => { q with staged := [], inflight := 0 })
    dies := tmap {} s2.dies (fun _ d => stopDie d)
    rows := tmap {} s2.rows (fun _ r => if r.st == .erasing then { r with st := .pending } else r)
    cipher := { s2.cipher with imps := [] }
    boot := { s2.boot with phase := ph, activation := none }
    board := { s2.board with huTest := false, chgEn := ph == .resetFlush && !s2.board.pfail }
    hold := { s2.hold with brace := false, braceTimer := false, testing := false }
    thm := { s2.thm with stopping := false }
    pm := { s2.pm with entry := .none, domXcr := false, domDram := false, domPcie := 0, domChg := chgDomains s2 }
    plinth := { s2.plinth with
      bandLeft := if s2.plinth.mounted then flushUnits s2 else [], band := [], bandUnits := 0
      flushNs := s2.nowUs * 1000 } }
  abandonSteps (if s.pm.ps == 3 then quickAll s3 else s3)

/-- The channels of rank `k` whose die has an erased spare block for the band (R343). -/
def bandChans (s : State) (k : Nat) : List Nat :=
  (healthy s k).filter (fun c => decide (0 < spareErased s (getDie s (dk c k))))

/-- The channel that holds the parity of band stripe `line` of rank `k`, rotating as P does (R261, R343); none on a
rank with one such die. -/
def bandParity (s : State) (k line : Nat) : Option Nat :=
  let l := bandChans s k
  if l.length < 2 then none else l[line % l.length]?

/-- Whether a unit lies in a band stripe. -/
def inBody (u : BandUnit) : Bool := u.kind == 0 || u.kind == 3

/-- The band stripes (rank, line) whose parity unit is still to be written (R343). -/
def parityLeft (s : State) : List (Nat × Nat) :=
  (s.plinth.band.filter (fun u => u.kind == 0 && (bandParity s u.rank u.line).isSome &&
    !(s.plinth.band.any (fun v => v.kind == 3 && v.rank == u.rank && v.line == u.line)))).map (fun u => (u.rank, u.line))

/-- The next word line of the band body on die (c, k). -/
def bandLine (s : State) (c k : Nat) : Nat :=
  (s.plinth.band.filter (fun u => inBody u && u.ch == c && u.rank == k)).foldl (fun a u => max a (u.line + 1)) 0

/-- The units of the band body on channel `c`. -/
def bandCount (s : State) (c : Nat) : Nat := (s.plinth.band.filter (fun u => inBody u && u.ch == c)).length

/-- Whether channel `c` is among those that have carried the fewest units (R346: each channel carries as many); one with
no die that takes a unit counts for nothing. -/
def bandEven (s : State) (c : Nat) : Bool :=
  (List.range 32).all (fun e => decide (bandCount s c ≤ bandCount s e) ||
    !((ranksIn s.arm.cfg.rankEn).any (fun k => (bandChans s k).contains e)))

/-- What die (c, k) writes next, and what is left then (R343, R345, R346): a parity unit where the word line holds one, a
data unit of the list's front, or a state unit or the band head on a rank of the Plinth. -/
def bandNext (s : State) (c k : Nat) : Option (BandUnit × List BandUnit) :=
  let p := s.plinth
  let line := bandLine s c k
  let body := (bandChans s k).contains c
  let mk : BandUnit := { kind := 3, ch := c, rank := k, armseq := s.arm.seq, pwrcyc := s.pat.pwrcyc }
  match p.bandLeft with
  | u :: t =>
    if u.kind == 0 then
      if !body || !(bandEven s c) then none
      else if bandParity s k line == some c then some ({ mk with line := line }, p.bandLeft)
      else some ({ u with ch := c, rank := k, line := line }, t)
    else if isPlinth s k && (u.kind != 4 || u.rank == k) then some ({ u with ch := c, rank := k }, t)
    else none
  | [] =>
    match (parityLeft s).find? (fun x => x.1 == k && bandParity s k x.2 == some c) with
    | some x => some ({ mk with line := x.2 }, [])
    | none => none

/-- Whether the flush is complete but for its final record: every unit written, no program running. -/
def flushDone (s : State) : Bool :=
  s.plinth.bandLeft.isEmpty && (parityLeft s).isEmpty && s.dies.all (fun kv => kv.2.op == .idle)

/-- The band head: the structure, the power cycle and the count of the units (R343). -/
def bandHead (p : Plinth) (pwrcyc : Nat) : Nat := p.bandSeq + pwrcyc * 2 ^ 64 + p.bandUnits * 2 ^ 96

/-- The final record (R345 step 4): the flush is the newest record. -/
def finalRecord (s : State) : State :=
  let us := s.nowUs - s.plinth.flushNs / 1000
  let p := { s.plinth with newest := 3, bandSeq := s.arm.seq, flushNs := us * 1000 }
  let s1 := devRec { s with plinth := p } 0x83 6 0
    (Config.crc32 (bandHead p s.pat.pwrcyc) % 2 ^ 32 + p.bandUnits * 2 ^ 32) (us / 10)
  { s1 with pat := { s1.pat with band := some (patImage s1) } }

/-! ### What the resets clear (R454 to R463) -/

/-- What a niche keeps through a device reset (R145: its counters are cleared by Sanitize and Niche Reset
only; R463, R490). -/
def keptNiche (v : Nch) : Nch := { v with istat := 0, ien := 0, fgGc := false, bgGc := false, credits := 0, parkConf := [], parkOther := [] }

/-- A device reset (R455, R463): every field that a device reset or a weaker one clears, once the
islands are reset. Buffers, zones, keys, data and records stay (R352, R463), and the time of a root on its own time that
counts on the fallback clock runs on (R371). -/
def deviceClear (s : State) : State :=
  { s with
    board := { s.board with huTest := false, fedOut := false }
    boot := { s.boot with
      fwSlot := 0, fwFallback := false, armFallback := false, dl := [], fwVer := 0, fwRoll := 0, fwLevel := 0
      fwMin := 0, fwMax := 0, romRec := false, maquette := false, silent := false, activation := none
      pllTried := 0, dlChk := none }
    arm := { ({} : Arm) with mirror := s.arm.mirror, mirrorCfg := s.arm.mirrorCfg, mirrorDies := s.arm.mirrorDies, made := s.arm.made }
    ports := [], ctrls := [], sqs := [], cqs := [], cmds := [], arb := {}, reads := [], fineCache := []
    zones := tmap {} s.zones (fun _ v => { v with held := [] })
    stripes := tmap {} s.stripes (fun _ x => { x with
      comm := none, phase := if x.phase == .eligible then .complete else x.phase })
    rows := tmap {} s.rows (fun _ r =>
      if r.st == .erasing then { r with st := .pending }
      else if r.st == .leaving && !r.waits.isEmpty then pendRow s else r)
    dies := tmap {} s.dies (fun _ d => { ({} : Die) with
      retired := d.retired, sparesUsed := d.sparesUsed, spareDone := d.spareDone, remap := d.remap, moved := d.moved, bad := d.bad })
    chans := []
    sched := { ({} : Sched) with
      nextStripe := s.sched.nextStripe, seqNo := s.sched.seqNo, commitNo := s.sched.commitNo
      nextRd := s.sched.nextRd, scrubPass := s.sched.scrubPass }
    niches := tmap {} s.niches (fun _ v => keptNiche v)
    comms := [], cms := {}
    pool := { ({} : Pool) with
      bufs := tmap {} (tdrop s.pool.bufs (fun _ b => !(stripeIdent s b.owner))) (fun _ b => { b with conf := none })
      ids := tdrop s.pool.ids (fun k _ => k < stripeOwner 0) }
    cipher := { ({} : Cipher) with
      shadow := s.cipher.shadow, table := s.cipher.table, tableSeq := s.cipher.tableSeq, tableBlk := s.cipher.tableBlk, older := s.cipher.older
      nextSer := s.cipher.nextSer
      rawNo := s.cipher.rawNo, trng := s.cipher.trng, trngFails := s.cipher.trngFails, drbg := s.cipher.drbg, seedSrc := s.cipher.seedSrc }
    hold := { ({} : Hold) with
      cmeas := s.hold.cmeas, tested := s.hold.tested, testedUs := s.hold.testedUs, latched := s.hold.latched
      lastFl := s.hold.lastFl, outcome := s.hold.outcome, scan := s.hold.scan, scan10 := s.hold.scan10 }
    plinth := { s.plinth with mounted := false, bandLeft := [], jobs := [], taken := [] }
    fed := if fedMode s == 2 && s.fed.clkfb then { ({} : Fed) with time := s.fed.time, clkfb := true } else {}
    clk := { ({} : Clk) with
      rcoRun := s.clk.rcoRun
      live := some (s.clk.xoOk, s.clk.monOff, s.clk.lock)
      rcoFail := s.clk.rcoFail, xoTrip := s.clk.xoTrip, pllTrip := s.clk.pllTrip
      retries := s.clk.retries, trips := s.clk.trips, gapNs := s.clk.gapNs, fence := otherIslands }
    pm := {}
    thm := { ({} : Thm) with
      halted := s.thm.halted, trippedBit := s.thm.trippedBit, halts := s.thm.halts
      haltTimes := s.thm.haltTimes, stay := s.thm.stay
      warn := s.board.fuses.warn, hot := s.board.fuses.hot, crit := s.board.fuses.crit }
    pat := { s.pat with drops := 0, dropMax := 0, overwrites := 0, repeats := 0, count := 0, persistUs := none }
    glb := { ({} : Glb) with
      reset := s.glb.reset, devwarm := s.glb.devwarm, wdog := s.glb.wdog, pwrFault := s.glb.pwrFault
      fuseFault := s.glb.fuseFault, bootFlash := s.glb.bootFlash } }

/-- A cold reset with cause `why` of GLB_RESET (R462): the rails are down, the retention bank is lost,
straps and Cold fields are cleared, the sticky AON bits stay. -/
def coldClear (s : State) (why : Nat) : State :=
  let t := deviceClear s
  { t with
    opUs := 0
    board := { t.board with railEn := 0, pg := 0, chgEn := false, straps := ⟨0, 0, 0, 0, 0, 0⟩ }
    boot := { t.boot with
      phase := .rails, restarts := 0, evdrop := 0, evThis := 0, failed := [], wdTimes := [], pllDone := 0
      warm := false }
    hold := {}
    cipher := { t.cipher with trng := 0, trngFails := 0, drbg := 0, seedSrc := false, shadow := [] }
    plinth := { t.plinth with lossAll := t.plinth.newest != 3 }
    clk := { ({} : Clk) with rcoFail := t.clk.rcoFail, xoTrip := t.clk.xoTrip, pllTrip := t.clk.pllTrip }
    pat := { ({} : Pat) with img := t.pat.img, band := t.pat.band }
    fed := {}
    glb := { t.glb with reset := why, devwarm := 0, wdog := 0 } }

/-- A rail fails (R389 step 2, R502): every RAIL_EN_* goes low; a retry follows, up to two times. What
the last flush did not write is lost with the rails. -/
def railFault (s : State) : State :=
  let t := deviceClear s
  { t with
    board := { t.board with railEn := 0, pg := 0, chgEn := false }
    boot := { t.boot with
      phase := if 2 ≤ s.boot.railFails then .railHold else .railWait, railFails := s.boot.railFails + 1
      railPend := false }
    plinth := { t.plinth with lossAll := t.plinth.newest != 3 }
    clk := { t.clk with rcoRun := false, live := none }
    glb := { t.glb with pwrFault := true } }

/-! ### Device warm reset (R459) -/

/-- Whether a device reset is already under way or the islands are down (R455, R465). -/
def absorbs (s : State) : Bool :=
  match s.boot.phase with
  | .choice | .mount | .ready | .released => false
  | _ => true

/-- A device warm reset is recognised with cause `why`: the reset flush starts, which before the mount
has nothing to write; in PS4 the rails and the oscillators start again first, with the straps and the fuses kept (R377,
R385, R420, R459). -/
def deviceWarm (s : State) (why : Nat) : State :=
  if absorbs s then s
  else
    let s1 := { s with glb := { s.glb with reset := why, devwarm := satAdd 8 s.glb.devwarm 1 } }
    if s1.pm.ps == 4 && s1.pm.entry == .none then
      let t := deviceClear s1
      { t with
        board := { t.board with railEn := 0, pg := 0 }
        boot := { t.boot with phase := .rails, warm := true }
        clk := { t.clk with rcoRun := false, live := none }
        plinth := { t.plinth with lossAll := false } }
    else beginFlush s1 .resetFlush

/-- The islands start again after the reset flush at step 8 of R385, or at step 5 where clock fallback
was in force (R401, R459); with PFAIL_IN asserted start-up stops where it is and waits (R335). -/
def warmRestart (s : State) : State :=
  let t := deviceClear s
  if s.board.pfail then { t with boot := { t.boot with phase := .halted }, board := { t.board with chgEn := false } }
  else if s.clk.fallback then
    { t with
      boot := { t.boot with phase := .xo }
      clk := { t.clk with live := none, lock := s.clk.lock / 8 * 8 } }
  else { t with boot := { t.boot with phase := .islands } }

end Sys2Proof.Machine
end

