-- ==== Sys2Proof/Machine/PowerOps.lean ====
section
/-! DEFINITION. The power states' operations (R407 to R425): the state in force, entries into PS3 and
PS4 and the exits from them. -/

namespace Sys2Proof.Machine

/-- W_STATE of an operational state (R407). -/
def psWrite (ps : Nat) : Nat :=
  match ps with
  | 0 => 52000
  | 1 => 20000
  | _ => 0

/-- Budget in force in 0.01 W: the lower of the state's and CTRL_PWR_CAP (R407; R48 in 0.1 W). -/
def budget (s : State) : Nat :=
  match s.pm.ps with
  | 0 => min 3500 (s.arm.cfg.dev.ctrlPwrCap * 10)
  | 1 => min 2000 (s.arm.cfg.dev.ctrlPwrCap * 10)
  | 2 => min 1200 (s.arm.cfg.dev.ctrlPwrCap * 10)
  | 3 => 350
  | _ => 25

/-- The SRAM supply and the assist levels of a state, from instant `now` on (R424, R425): a change between the operational
states ramps at 2.5 mV/µs, and the levels before it hold beside the new ones until the ramp ends. -/
def withAssist (now : Nat) (p : Pm) (ps : Nat) : Pm :=
  let v := if ps == 0 then 750 else 700
  let r := if p.vsram == v || p.vsram < 700 then none
    else some (now + (max p.vsram v - min p.vsram v) * 2 / 5, p.rda, p.wra, p.wlud)
  match ps with
  | 0 => { p with vsram := v, rda := 1, wra := 1, wlud := 5, ramp := r }
  | 1 | 2 => { p with vsram := v, rda := 3, wra := 3, wlud := 10, ramp := r }
  | _ => { p with vsram := 600, rda := 0, wra := 0, wlud := 0, ramp := none }

/-- The clocks of an operational state: the RCO and PLL_R run in PS0 and on the fallback clocks, and the
monitor compares the XO with the RCO in PS0 only (R394 to R397). -/
def withClocks (c : Clk) (ps : Nat) : Clk :=
  let run := ps == 0 || c.fallback
  { c with
    rcoRun := run, monMode := ps != 0 || c.rcoBad
    lock := if run then setBit c.lock 3 else clrBit c.lock 3 }

/-- An operational state comes into force (R409, R410). -/
def setOperational (s : State) (ps : Nat) : State :=
  if s.pm.ps == ps then s
  else
    let p := { s.pm with ps := ps, ps2 := if ps == 2 then limitDepth else 0 }
    trigger { s with
      pm := withAssist s.nowUs p ps, cms := { s.cms with wState := psWrite ps }, clk := withClocks s.clk ps }

/-- The requested state and the thermal cap decide the operational state in force (R414). -/
def applyState (s : State) : State :=
  if s.pm.ps ≥ 3 || s.pm.req ≥ 3 then s else setOperational s (max s.pm.req s.pm.tcap)

/-- The state the device reports: PS4 from the first step of its entry (R419), PS3 through a window of
R417. -/
def shownPs (s : State) : Nat :=
  match s.pm.entry with
  | .drain4 | .wait4 => 4
  | _ => s.pm.ps

/-- The DRBG is instantiated: from the source, or from the fallback KDF where it has failed (R306,
R307). -/
def startDrbg (s : State) : State :=
  if s.cipher.trng == 3 then instantiateFallback s
  else
    let t := instantiate s
    { t with cipher := { t.cipher with seedSrc := false } }

/-- Slot `i` takes the key its entry unwraps to, under a fresh mask (R301, R313). -/
def restoreKey (s : State) (x : Nat × KeyEnt) : State :=
  match unwrapEntry s x.1 x.2 with
  | some v =>
    let r := shareKey s x.2.st x.2.isSeal x.2.ser v
    { r.2 with cipher := { r.2.cipher with keys := tset {} r.2.cipher.keys x.1 r.1 } }
  | none => s

/-- The key RAM, which lost its contents, is filled from the shadow (R313, R421). -/
def fromShadow (s : State) : State :=
  s.cipher.shadow.foldl restoreKey { s with cipher := { s.cipher with keys := [] } }

/-- The powered domains of an operational state (R411): a channel domain whose four channels are lost
stays off (R252). -/
def operationalDomains (s : State) (p : Pm) : Pm :=
  { p with
    domCore := true, domXcr := true, domLdpc := true
    domDram := s.arm.cfg.dev.dramMode != 0
    domPcie := (if s.board.straps.lanes == 1 || s.board.straps.lanes == 2 then 3 else 1)
    domChg := chgDomains s
    coreRet := false, retLv := false }

/-- The federation unit stops: outputs float, and it comes back Unlocked (R367, R370, R463); TRACE stands (R376). -/
def fedStop (s : State) : State :=
  let s1 := if s.fed.locked then glbSet s 8 else s
  { s1 with
    fed := { s.fed with
      unit := false, locked := false, run := 0
      unlocks := if s.fed.locked then satAdd 32 s.fed.unlocks 1 else s.fed.unlocks }
    board := { s.board with fedOut := false } }

/-- The federation unit runs (R366, R367): a root on its own time is traced at once and sends its first frame at the
next whole millisecond. -/
def fedStart (s : State) : State :=
  if fedMode s == 0 || s.fed.clkfb then s
  else
    let root := fedMode s == 2
    { s with
      fed := { s.fed with
        unit := true, trace := root || (fedMode s == 1 && s.fed.trace)
        nextAt := if root then (s.fed.time + 999999) / 1000000 * 1000000 else s.fed.time }
      board := { s.board with fedOut := true } }

/-- Whether PLL_M runs: DRAM is in use (R395). -/
def dramPll (s : State) : Nat := b2n (s.arm.cfg.dev.dramMode != 0)

/-- The exit from PS3 or PS4 with wake source `src` (R414, R420 to R422): the operational state before
entry, domains and clocks on, key slots restored from the shadow (R313). -/
def leaveLow (s : State) (src : Nat) : State :=
  let s1 := missedLow (fedStart (quickAll (fromShadow (startDrbg s))))
  let n := Config.exitTime (s.pm.cnt3 + s.pm.cnt4)
  let ps := max s1.pm.back s1.pm.tcap
  let p := { operationalDomains s1 s1.pm with
    ps := ps, req := s1.pm.back, entry := .none, wakeSrc := src, last := satTo 16 n
    max := Nat.max s1.pm.max (satTo 16 n), window := false
    ps2 := if ps == 2 then limitDepth else 0 }
  trigger { s1 with
    pm := withAssist s1.nowUs p ps
    cms := { s1.cms with wState := psWrite ps }
    clk := withClocks { s1.clk with
      monOff := false, xoOk := !s1.clk.fallback, lock := if s1.clk.fallback then 0 else 3 + 4 * dramPll s1 } ps
    board := { s1.board with railEn := 255, pg := 255 }
    boot := { s1.boot with phase := .released }
    thm := { s1.thm with mode := 0 }
    glb := { s1.glb with miFrozen := none } }

/-- An entry under way is abandoned: the state in force stays operational (R418); from the wait for
L1.2 the return follows the PS3 exit (R419). -/
def abandonEntry (s : State) (src : Nat) : State :=
  match s.pm.entry with
  | .none => s
  | .wait4 => leaveLow s src
  | _ => { s with pm := { s.pm with entry := .none, req := s.pm.back, wakeSrc := src } }

/-- The firmware image is verified again at step 6 of a PS4 exit (R383, R422); a failure becomes a
device warm reset. -/
def exitPs4 (s : State) (src : Nat) : State :=
  let m := fwImg s s.boot.fwSlot
  if fwCheck m s.board.fuses s.board.fuses.fwFloor == 0 then leaveLow s src
  else
    let s1 := bootRec (leaveLow s src) 0x02 5 (s.boot.fwSlot - 1)
      0 (fwCheck m s.board.fuses s.board.fuses.fwFloor)
    deviceWarm s1 4

/-- A wake event (R420). -/
def wake (s : State) (src : Nat) : State :=
  if s.pm.entry != .none then abandonEntry s src
  else if s.pm.ps == 3 then leaveLow s src
  else if s.pm.ps == 4 then exitPs4 s src
  else s

/-- A reset that reaches the device meets a low-power state (R420, R423): it wakes first. -/
def wakeReset (s : State) : State := wake s 4

/-- Nothing runs, is suspended or waits in a page register on any die (R252 step 1). -/
def diesQuiet (s : State) : Bool := s.dies.all (fun kv => kv.2.op == .idle && kv.2.susp.isNone && kv.2.xfer.isNone)

/-- Steps 4 to 6 of R418: channel, cipher, LDPC and DRAM domains off, key RAM and DRBG zeroed (R413), banks in
retention, clocks stopped. -/
def powerDown (s0 : State) : State :=
  let s := fedStop s0
  { s with
    pm := withAssist s.nowUs { s.pm with domChg := 0, domXcr := false, domLdpc := false, domDram := false, coreRet := true } 3
    cipher := { s.cipher with keys := [], drbg := 0, rng := ⟨0, 0, 0⟩ }
    clk := { s.clk with
      rcoRun := s.clk.fallback, monMode := true, lock := if s.clk.fallback then s.clk.lock else s.clk.lock % 4 } }

/-- Steps 3 to 7 of R418, once no die works: buffered data is committed where hold-up is degraded. -/
def enterPs3 (s : State) : State :=
  let s1 := if degraded s then commitSlots s (allSlots s) else s
  if !(diesQuiet s1) then s
  else
    let s2 := powerDown s1
    { s2 with pm := { s2.pm with ps := 3, entry := .none, cnt3 := satAdd 16 s2.pm.cnt3 1 } }

/-- The commit and the power-down of PS4 entry; the wait for L1.2 begins (R419). -/
def enterPs4 (s : State) : State :=
  let s1 := commitAll s (allSlots s)
  if !(diesQuiet s1) then s
  else
    let s2 := powerDown s1
    { s2 with pm := { s2.pm with entry := .wait4 } }

/-- Whether a port counts as ready for PS4: in L1.2, its data link layer down or its PERST# asserted
(R419). -/
def portReady (s : State) (p : Nat) : Bool :=
  let v := getPort s p
  let reset := if p == 0 then s.board.perst0 else s.board.perst1
  !(portPresent s p) || !v.dlup || reset || v.link == .l12

/-- Step 6 of R419: the banks of PD_CORE and the DRAM lose what they hold, the fine-map pages among it (R413). -/
def reachPs4 (s0 : State) : State :=
  let s := dropMoves s0
  { s with
    fineCache := []
    pm := { s.pm with ps := 4, entry := .none, domCore := false, retLv := true, dramCold := true, cnt4 := satAdd 16 s.pm.cnt4 1 }
    clk := { s.clk with xoOk := false, rcoRun := false, lock := 0, monOff := true }
    board := { s.board with railEn := 3, pg := 3 }
    thm := { s.thm with mode := 2 } }

end Sys2Proof.Machine
end

