-- ==== Sys2Proof/Machine/PowerLoss.lean ====
section
/-! DEFINITION. Supply, hold-up and power loss (R330 to R347, R351, R357): the brace, the health test,
healthy and degraded hold-up, and the flush to its halt. -/

namespace Sys2Proof.Machine

/-! ### Healthy and degraded -/

/-- N_FL, the dies that program at once in a flush (R337). -/
def nFl (a : ArmCfg) : Nat := 32 * ceilDiv (a.geom.tProgP * a.geom.rate) 66816

/-- Whether a budget of R337 is short. -/
def budgetShort (s : State) : Bool :=
  let g := s.arm.cfg.geom
  decide (s.arm.cfg.dev.icc < nFl s.arm.cfg * g.iProg) || decide (s.arm.cfg.dev.iccq < 32 * g.iXfer)

/-- Whether D_CAP computed with C_meas is below 16 MiB (R341). -/
def capShort (s : State) : Bool := decide (dCapOf s s.hold.cmeas s.arm.cfg.dev.huVchg < 16)

/-- Whether the bank's latest reading is at least 0.95 of V_CHG (R339, R341). -/
def charged95 (s : State) : Bool := decide (95 * s.arm.cfg.dev.huVchg ≤ s.hold.huv * 100)

/-- The reasons that hold now (R341): 3 to 5 stay until a test passes. -/
def reasonsNow (s : State) : Nat :=
  let m := s.hold.reasons
  let l := s.hold.latched
  maskOf ((if s.board.straps.holdup == 0 then [1] else []) ++ (if charged95 s then [] else [2]) ++
    (if bitOf l 3 then [3] else []) ++ (if bitOf m 4 || capShort s then [4] else []) ++
    (if bitOf l 5 then [5] else []) ++ (if budgetShort s then [6] else []))

/-- The reasons become `m`; a change between healthy and degraded is reported (R342). -/
def setReasons (s : State) (m : Nat) : State :=
  let s1 := { s with hold := { s.hold with reasons := m } }
  if (m == 0) == (s.hold.reasons == 0) || !s.glb.released then s1
  else
    let s2 := glbSet (raiseAll s1 (allCtrls s1) (vendor 5 0xC5)) 9
    trigger (devRec s2 0x82 5 (reasonCode m))

def refreshHold (s : State) : State := if s.glb.released then setReasons s (reasonsNow s) else s

/-- The charger is enabled; the 10 s of R341 run until the bank reads 0.95 of V_CHG. -/
def chargerOn (s : State) : State :=
  { s with
    board := { s.board with chgEn := true }
    hold := { s.hold with chgWait := s.arm.cfg.dev.huVchg == 0 || !(charged95 s) } }

/-! ### Readings of the two supply inputs (R330, R332, R358) -/

/-- The voltage before a divider of 1/`div` for a code of the 12-bit ADC whose full scale is 1.2 V, in mV, and the code of
a voltage (R330, R440; the rounding is down, DESIGN CHOICE, notes/assumptions/40.md). -/
def senseMv (div code : Nat) : Nat := code * 1200 * div / 4096
def senseCode (div mv : Nat) : Nat := min 4095 (mv * 4096 / (1200 * div))

/-- A reading of HOLDUP_V in mV at the bank. -/
def readHuv (s : State) (mv code : Nat) : State :=
  let s1 := { s with
    hold := { s.hold with huv := satTo 16 mv, huvMin := min s.hold.huvMin (satTo 16 mv) }
    thm := { s.thm with codes := tset (0, 0) s.thm.codes 29 (code, mv) } }
  let low := s1.board.chgEn && decide (s1.hold.huv * 10 < 9 * s1.arm.cfg.dev.huVchg)
  refreshHold { s1 with hold := { s1.hold with
    low := low, chgWait := s1.hold.chgWait && !(charged95 s1) } }

/-- A reading of VIN_SENSE in mV at the supply. -/
def readVin (s : State) (mv code : Nat) : State :=
  { s with
    hold := { s.hold with
      vin := satTo 16 mv, vinMin := min s.hold.vinMin (satTo 16 mv)
      braceVin := min s.hold.braceVin (satTo 16 mv) }
    thm := { s.thm with codes := tset (0, 0) s.thm.codes 28 (code, mv) } }

/-! ### The brace (R333, R334) -/

/-- The islands are held in reset after a flush, or before release (R335, R345 step 5). -/
def haltReset (s : State) : State :=
  let t := deviceClear s
  { t with boot := { t.boot with phase := .halted }, board := { t.board with chgEn := false } }

/-- A running test ends unfinished (R339). -/
def dropTest (s : State) : State :=
  { s with
    board := { s.board with huTest := false }
    hold := { s.hold with testing := false, run := false, v0 := none } }

/-- Braces recovered within the second that ends now (R334). -/
def recentBraces (s : State) : List Nat := s.hold.recovered.filter (fun t => decide (s.nowUs ≤ t + 1000000))

/-- The brace starts (R333); an entry into PS3 or PS4 is abandoned first (R423). -/
def startBrace (s : State) : State :=
  let s1 := dropTest (abandonEntry s 6)
  let s2 := (List.range 32).foldl (fun a k => suspendErases a (rankDies a k)) s1
  { s2 with
    board := { s2.board with chgEn := false }
    hold := { s2.hold with brace := true, braceTimer := true, nextHu := true, braceVin := s2.hold.vin }
    thm := { s2.thm with mode := 1 } }

/-- PFAIL_IN asserts in service, or in a stop (R333 to R335, R357, R423, R465). -/
def pfailIn (s : State) : State :=
  match s.boot.phase with
  | .released =>
    if s.pm.ps == 4 && s.pm.entry == .none then haltReset s
    else if decide (16 ≤ (recentBraces s).length) then beginFlush (dropTest (abandonEntry s 6)) .flushing
    else if s.hold.brace then s
    else startBrace s
  | .resetFlush => { s with boot := { s.boot with phase := .flushing } }
  | .rco | .rcoFail | .fuse | .fuseHold | .xo | .pll | .islands | .choice | .mount | .ready | .mfg => haltReset s
  | _ => s

/-- Whether no KCLK edge samples PFAIL_IN (R332): the RCO has not been started, or the rails are down. -/
def unsampled (s : State) : Bool :=
  match s.boot.phase with
  | .off | .lpo | .rails | .railHold | .railWait => true
  | _ => false

/-- PFAIL_IN counts as asserted (R332); HU_CHG_EN falls with it (R338). -/
def execPfailInAssert (s : State) : Out :=
  if s.board.pfail || unsampled s then ok s
  else ok (pfailIn { abandonSteps s with board := { s.board with pfail := true, chgEn := false } })

/-- PFAIL_IN reads low (R334). -/
def execPfailInDeassert (s : State) : Out :=
  if !s.board.pfail then ok s
  else ok { s with board := { s.board with pfail := false, pfailLowUs := s.nowUs } }

/-- A conversion of the fast mode (R332), HOLDUP_V and VIN_SENSE in turn, `mv` before the divider; in a brace a low bank starts
the flush at once (R334). -/
def execAdcFastModeReading (mv : Nat) (s : State) : Out :=
  if !(s.hold.brace || s.hold.testing) then ok s
  else if s.hold.nextHu then
    let s1 := readHuv s mv (senseCode 50 mv)
    let s2 := { s1 with hold := { s1.hold with nextHu := false } }
    if s2.hold.brace && decide (mv * 10 < 9 * s2.arm.cfg.dev.huVchg) then ok (beginFlush s2 .flushing) else ok s2
  else
    let s1 := readVin s mv (senseCode 16 mv)
    ok { s1 with hold := { s1.hold with nextHu := true } }

/-- Recovery from a brace (R334). -/
def recoverBrace (s : State) : State :=
  let s1 := chargerOn { s with
    hold := { s.hold with
      brace := false, braceTimer := false, braces := satAdd 16 s.hold.braces 1
      recovered := recentBraces s ++ [s.nowUs] }
    thm := { s.thm with mode := 0 } }
  devRec s1 0x80 3 0 s.hold.braceVin

/-- The brace timer expires (R334). -/
def execBraceTimerExpiry (s : State) : Out :=
  if !s.hold.brace then ok s
  else if !s.board.pfail && decide (s.board.pfailLowUs + 100 ≤ s.nowUs) && decide (9000 ≤ s.hold.vin) then
    ok (recoverBrace s)
  else ok (beginFlush s .flushing)

/-! ### The flush (R345, R347) -/

/-- Units of the band stripe of `u` whose program failed. -/
def failedWith (s : State) (u : BandUnit) : List BandUnit :=
  s.plinth.band.filter (fun v => inBody v && v.rank == u.rank && v.line == u.line && v.failed != 0)

/-- Whether the parity of its band stripe covers the failure of `u` (R345): it is the first of its stripe. -/
def bandCovers (s : State) (u : BandUnit) : Bool :=
  inBody u && (failedWith s u).isEmpty && (bandParity s u.rank u.line).isSome

/-- The units a failure of `u` sends again: with a second failure of a band stripe its lost data units, and a state unit
always. -/
def sentAgain (s : State) (u : BandUnit) : List BandUnit :=
  if bandCovers s u then []
  else (u :: (failedWith s u).filter (fun v => v.failed == 1 && inBody u)).filter (fun v => v.kind != 3)

/-- The program of band unit `u` fails (R345), `l` left: what its stripe's parity does not cover is sent again at the end
of step 3, before the device's state. -/
def bandFailed (s : State) (u : BandUnit) (l : List BandUnit) : State :=
  let p := s.plinth
  let mark := fun v : BandUnit =>
    if inBody u && inBody v && v.rank == u.rank && v.line == u.line && v.failed == 1 then { v with failed := 2 } else v
  let old := if bandCovers s u then p.band else p.band.map mark
  { s with plinth := { p with
    band := old ++ [{ u with failed := if bandCovers s u then 1 else 2 }]
    bandLeft := l.filter (fun v => v.kind != 2 && v.kind != 4) ++ (sentAgain s u).map (fun v => { v with failed := 0 }) ++
      l.filter (fun v => v.kind == 2 || v.kind == 4)
    bandUnits := p.bandUnits + 1 } }

/-- The programs that run. -/
def programsOn (s : State) : Nat := (s.dies.filter (fun kv => isProgramOp kv.2.op)).length

/-- A die that is free writes its next band unit (R31, R343, R345, R346), with at most N_FL dies programming and the
tokens of R229 (R337), on a channel that does not retrain (R250); its program may fail. -/
def execBandUnitWrite (ch rank : Nat) (fail : Bool) (s : State) : Out :=
  let d := getDie s (dk ch rank)
  if !(flushing s) || !d.used || d.retired || !(dieFree d) || (getChan s ch).retrain || !(iccqFor s ch) ||
      decide (nFl s.arm.cfg ≤ programsOn s) || decide (s.arm.cfg.dev.icc < iccUsed s + s.arm.cfg.geom.iProg) then ok s
  else match bandNext s ch rank with
  | none => ok s
  | some (u0, l) =>
    let u := { u0 with data := bandData s u0 }
    let s1 := driveDie s (dk ch rank) (if u.sects.any (fun e => (getNs s e.2.1).fmt == 2) then 16928 else 16704)
    if fail then ok (bandFailed s1 u l)
    else ok { s1 with plinth := { s1.plinth with
      bandLeft := l, band := s1.plinth.band ++ [u], bandUnits := s1.plinth.bandUnits + 1 } }

/-- The final record, where a flush wrote its units. -/
def endFlush (s : State) : State := if s.plinth.mounted then finalRecord s else s

/-- The flush is complete: every island but the always-on island is reset (R345 step 5); one that a
falling rail began ends with the rails dropped (R502). -/
def execFlushHalt (s : State) : Out :=
  if s.boot.phase != .flushing || !(flushDone s) then ok s
  else if s.boot.railPend then ok (railFault (endFlush s))
  else ok (haltReset (endFlush s))

/-- PFAIL_IN has stayed low for 100 ms after the halt: the rails drop and a cold start runs (R347). -/
def execFlushHaltColdStart (s : State) : Out :=
  if s.boot.phase != .halted || s.board.pfail then ok s else ok (coldClear s 6)

/-! ### The health test (R338 to R341) -/

/-- Whether a test may start (R339): D_TEST is D_CAP computed with V_CHG less 1 V. -/
def testReady (s : State) : Bool :=
  s.board.straps.holdup == 1 && charged95 s && !s.hold.brace &&
    decide (dirtyBytes s + outstandingAll s ≤ dCapOf s s.hold.cmeas (s.arm.cfg.dev.huVchg - 1000) * 1048576)

/-- A due or requested test starts or is deferred (R339, R423). -/
def healthTest (s : State) : State :=
  if s.pm.entry != .none then dropTest s
  else if s.pm.ps == 4 || !(testReady s) then
    { s with hold := { s.hold with deferred := true, run := false } }
  else
    { s with
      board := { s.board with chgEn := false }
      hold := { s.hold with testing := true, deferred := false, v0 := none, testUs := 0, nextHu := true }
      thm := { s.thm with mode := 1 } }

def execHealthTestStart (s : State) : Out :=
  if !(inService s) || s.hold.testing then ok s else ok (healthTest s)

/-- The pins and the ADC after a test (R339 step 3). -/
def afterTest (s : State) : State :=
  chargerOn { dropTest s with thm := { s.thm with mode := 0 } }

/-- An implausible test (R339, R341). -/
def testFailed (s : State) : State :=
  let s1 := afterTest { s with hold := { s.hold with tests := satAdd 16 s.hold.tests 1 } }
  let s2 := devRec (glbSet s1 9) 0x81 2 1 s1.hold.cmeas
  let s3 := { s2 with hold := { s2.hold with latched := setBit s2.hold.latched 5 } }
  setReasons s3 (reasonsNow s3)

/-- A passed test: C_meas = 100 mA × t / ΔV, in 10 µF rounded down (R339 step 4, R341). -/
def testPassed (s : State) (c : Nat) : State :=
  let s1 := afterTest { s with hold := { s.hold with
    tests := satAdd 16 s.hold.tests 1, cmeas := satTo 16 c, tested := true, testedUs := some s.nowUs
    reasons := clrBit (clrBit (clrBit s.hold.reasons 3) 4) 5, latched := 0 } }
  let s2 := devRec s1 0x81 2 0 (satTo 16 c)
  -- the change is judged against the reasons before the test
  let m := reasonsNow s2
  trigger (setReasons { s2 with hold := { s2.hold with reasons := s.hold.reasons } } m)

/-- A sample of the test: V0 first, then one every 64 µs (R339 steps 1 to 3). -/
def execHealthTestSample (mv : Nat) (s : State) : Out :=
  if !s.hold.testing || s.hold.brace then ok s
  else
    let s1 := readHuv s mv (senseCode 50 mv)
    match s1.hold.v0 with
    | none =>
      ok { s1 with
        board := { s1.board with huTest := true }
        hold := { s1.hold with v0 := some mv, testUs := 0 } }
    | some v0 =>
      let t := s1.hold.testUs + 64
      let s2 := { s1 with hold := { s1.hold with testUs := t } }
      if 100000 < t then ok (testFailed s2)
      else if v0 < mv + 1000 then ok s2
      else if t < 1000 then ok (testFailed s2)
      else ok (testPassed s2 (10 * t / (v0 - mv)))

/-- The 1 V drop is not reached within 100 ms (R339). -/
def execHealthTestTimeout (s : State) : Out :=
  if !s.hold.testing || s.hold.v0.isNone then ok s else ok (testFailed s)

/-- The 2 s below 0.9 of V_CHG, or the 10 s from the charger's enable, have passed (R341 REASON 3). -/
def execHoldupChargeTimeout (s : State) : Out :=
  if !s.board.chgEn || !(s.hold.low || s.hold.chgWait) then ok s
  else
    let s1 := { s with hold := { s.hold with chgWait := false, latched := setBit s.hold.latched 3 } }
    ok (setReasons s1 (setBit s1.hold.reasons 3))

end Sys2Proof.Machine
end

