-- ==== Sys2Proof/Machine/Thermal.lean ====
section
/-! DEFINITION. Thermal management (R427 to R440): the housekeeping scan, the sensors, the throttle
ladder, the orderly stop and the thermal halt, Trip. -/

namespace Sys2Proof.Machine

/-! ### Sensors (R427 to R430) -/

/-- A reading in °C as kelvin. -/
def kelvin (v : Int) : Nat := (v + 273).toNat

/-- What sensor `x` counts as in the composite (R430). -/
def countedAs (s : State) (x : Sensor) : Nat :=
  match x.st with
  | 0 => x.temp
  | 2 => s.thm.hot + 274
  | _ => 0

/-- The composite of the sensors but `skip` (R430). -/
def compositeBut (s : State) (skip : Nat) : Nat :=
  (List.range 28).foldl (fun m n => if n == skip then m else max m (countedAs s (tget {} s.thm.sensors n))) 0

/-- Whether a THERMXn input lies below 20 mV: not connected (R430). -/
def inputAbsent (n code : Nat) : Bool := decide (24 ≤ n) && decide (code * 1200 < 20 * 4096)

/-- Out of range, or an open THERMXn input (R430). -/
def inputBroken (n code : Nat) (v : Int) : Bool :=
  decide (v < -40) || decide (150 < v) || (decide (24 ≤ n) && decide (1180 * 4096 < code * 1200))

/-- Event 0x06 (R157). -/
def thermEvent (s : State) : State := raiseAll s (allCtrls s) (vendor 6 0xC3)

/-- How far two temperatures lie apart. -/
def apart (a b : Nat) : Nat := (a - b) + (b - a)

/-- A conversion of sensor `n` (R430). -/
def readSensor (s : State) (n code : Nat) (v : Int) : State :=
  let x := tget ({} : Sensor) s.thm.sensors n
  let others := compositeBut s n
  let same := if code == x.raw then x.same + 1 else 0
  let from_ := if code == x.raw then x.comp0 else others
  let absent := inputAbsent n code
  let bad := !absent && (inputBroken n code v || (decide (1024 ≤ same) && decide (3 ≤ apart others from_)))
  let okRun := if bad then 0 else x.okRun + 1
  let st := if bad then 2 else if x.st == 2 && decide (okRun < 16) then 2 else b2n absent
  let y : Sensor := { temp := kelvin v, st := st, raw := code, same := same, okRun := okRun, comp0 := from_ }
  let s1 := { s with thm := { s.thm with
    sensors := tset {} s.thm.sensors n y, codes := tset (0, 0) s.thm.codes n (code, kelvin v) } }
  if st == 2 && x.st != 2 then devRec (thermEvent (glbSet s1 2)) 0xB0 5 n else s1

/-! ### The ladder (R432, R433) -/

/-- The thermal cap of a stage (R432). -/
def capOf (e : Nat) : Nat := if e == 3 then 1 else if e == 4 then 2 else 0

/-- The enforced stage becomes `e` (R432, R433). -/
def enforce (s : State) (e : Nat) : State :=
  let s1 := { s with
    thm := { s.thm with enforced := e }
    cms := { s.cms with wTherm := wOf e }
    pm := { s.pm with tcap := capOf e } }
  trigger (applyState s1)

/-- A stage is requested: S rises by one and the grace timer starts (R433). -/
def stageUp (s : State) : State :=
  let t := s.thm
  thermEvent { s with thm := { t with
    stage := t.stage + 1, graceEnd := some (s.nowUs + t.graceMs * 1000), stageUps := satAdd 32 t.stageUps 1
    stdTokens := if t.stage == 0 then limitDepth else t.stdTokens } }

/-- The level the composite and the ladder give (R431). -/
def levelOf (s : State) (critical : Bool) : Nat :=
  let t := s.thm
  if critical then 3
  else if decide (t.hot + 273 ≤ t.composite) || t.stage != 0 || t.enforced != 0 then 2
  else if decide (t.warn + 273 ≤ t.composite) || (t.level != 0 && decide (t.warn + 270 ≤ t.composite)) then 1
  else 0

/-- The level after a round or a step of the ladder: entering Warn raises event 0x06 and entering Hot or
Critical sets GLB_ISTAT.THM (R431, R486). -/
def setLevel (s : State) (critical : Bool) : State :=
  let n := levelOf s critical
  let s1 := { s with thm := { s.thm with level := n } }
  let s2 := if s.thm.level == 0 && n != 0 then thermEvent s1 else s1
  if s.thm.level < n && decide (2 ≤ n) then glbSet s2 2 else s2

/-! ### Critical (R436, R437) -/

/-- Every live commission is breached, with a REASON bit (R207, R399, R436). -/
def breachAll (s : State) (bit : Nat) : State :=
  (liveComms s).foldl (fun a h =>
    let c := getComm a h
    let b := setComm a h { c with reason := setBit c.reason bit }
    if c.st == .breached then b else commEvent (setComm b h { getComm b h with st := .breached }) h 2) s

/-- An orderly stop starts (R436 step 1); PS3 and an entry under way end first (R423), firmware
activation is interrupted (R437). -/
def startStop (s : State) : State :=
  let s0 := if s.pm.entry != .none || s.pm.ps == 3 then wake s s.pm.wakeSrc else s
  let s1 := breachAll s0 4
  { s1 with thm := { s1.thm with stopping := true }, boot := { s1.boot with activation := none } }

/-- Critical where no orderly stop runs: an event-sector record, and the logic held in reset (R437). -/
def startUpHold (s : State) : State :=
  let t := deviceClear (bootRec s 0xB2 7 0 0 s.thm.composite)
  { t with
    boot := { t.boot with phase := .thermal }
    glb := { t.glb with miFrozen := some (s.thm.composite, setBit (critWarn s 0 0) 1, spareShare s 0) } }

/-- What Critical does now (R357, R437, R465). -/
def critical (s : State) : State :=
  match s.boot.phase with
  | .fuse | .fuseHold | .xo | .pll | .islands | .choice | .mount | .ready | .mfg => startUpHold s
  | .released =>
    if s.boot.romRec then startUpHold s
    else if s.thm.stopping || s.hold.brace || (s.clk.fbFlush && !s.clk.fbDone) then s
    else startStop s
  | _ => s

/-! ### The scan (R428) -/

/-- Whether a valid sensor reads Critical (R431). -/
def anyCritical (s : State) : Bool :=
  s.thm.sensors.any (fun kv => kv.2.st == 0 && decide (s.thm.crit + 273 ≤ kv.2.temp))

/-- Whether the thresholds are in force: the fuses are loaded. -/
def thermReady (s : State) : Bool := s.thm.hot != 0

/-- The composite and what follows from it, once per round (R430 to R433); a patched THM_WARN takes effect
(R62). -/
def endRound (s : State) : State :=
  let t := s.thm
  let k := compositeBut s 28
  let hot := decide (t.hot + 273 ≤ k)
  let cool := decide (k < t.hot + 270)
  let run := if anyCritical s then t.critRun + 1 else 0
  let s1 := { s with thm := { t with
    rounds := wrapAdd 16 t.rounds 1, composite := k, maxK := max t.maxK k, critRun := run
    warn := orDef s.arm.cfg.dev.warn t.warn
    hotUs := if hot then t.hotUs + 1536 else t.hotUs
    coolFrom := if cool then (if t.coolFrom.isSome then t.coolFrom else some s.nowUs) else none } }
  if !(thermReady s) then { s with thm := { t with rounds := wrapAdd 16 t.rounds 1, composite := k, maxK := max t.maxK k } }
  else
    let s2 := tempEvents s s1
    let s3 := if hot && !(flushing s2) && s2.thm.graceEnd.isNone && decide (s2.thm.stage < 4) then stageUp s2 else s2
    let s4 := setLevel s3 (decide (2 ≤ run))
    if 2 ≤ run then critical s4 else s4

/-- Whether the housekeeping scan runs: the housekeeping island out of reset, not in PS4, not in the fast
mode (R332, R412, R428). -/
def scanRuns (s : State) : Bool :=
  s.thm.mode == 0 &&
    (match s.boot.phase with
     | .fuse | .fuseHold | .xo | .pll | .islands | .choice | .mount | .ready | .released | .flushing
     | .resetFlush | .mfg => true
     | _ => false)

/-- The conversion of the next channel (R428): a sensor's reading in °C, which no rule derives from its code; what the
voltage inputs read follows from the code and their divider (R330, R440, R500). -/
def execAdcScanConversion (code : Nat) (value : Int) (s : State) : Out :=
  if !(scanRuns s) then ok s
  else
    let ch := s.thm.ch
    let c := code % 4096
    let s1 := if ch < 28 then readSensor s ch c value
      else if ch == 28 then readVin s (senseMv (adcDivider ch) c) c
      else if ch == 29 then readHuv s (senseMv (adcDivider ch) c) c
      else { s with thm := { s.thm with codes := tset (0, 0) s.thm.codes ch (c, senseMv (adcDivider ch) c) } }
    let s2 := { s1 with thm := { s1.thm with ch := (ch + 1) % 48 } }
    ok (if ch == 47 then endRound s2 else s2)

/-- The grace timer expires (R433). -/
def execGraceTimerExpiry (s : State) : Out :=
  if s.thm.graceEnd.isNone then ok s
  else
    let e := s.thm.stage
    let s1 := enforce { s with thm := { s.thm with graceEnd := none } } e
    let s2 := glbSet (devRec s1 0xB1 4 e) 2
    ok (if decide (s2.thm.hot + 273 ≤ s2.thm.composite) && decide (e < 4) then stageUp s2 else s2)

/-- 10 s below THM_HOT − 3 °C (R433): a request is withdrawn, or the stage falls by one. -/
def execThermalCoolTimer (s : State) : Out :=
  if s.thm.coolFrom.isNone then ok s
  else
    let t := { s.thm with coolFrom := some s.nowUs }
    if t.graceEnd.isSome then
      ok (setLevel (thermEvent { s with thm := { t with stage := t.enforced, graceEnd := none } }) (t.level == 3))
    else if t.enforced == 0 then ok { s with thm := t }
    else
      let e := t.enforced - 1
      ok (setLevel (thermEvent (enforce { s with thm := { t with stage := e } } e)) (t.level == 3))

/-! ### Thermal halt and Trip (R436, R438) -/

/-- Thermal halts within the hour of operating time that ends now (R436). -/
def recentHalts (s : State) : List Nat := s.thm.haltTimes.filter (fun t => decide (s.opUs ≤ t + 3600000000))

/-- The orderly stop has brought every started command to its commit point; everything is committed and
the islands are held in reset (R436 steps 2 to 5). -/
def execThermalHalt (s : State) : Out :=
  if !s.thm.stopping || s.boot.phase != .released || s.hold.brace ||
      s.cmds.any (fun kv => kv.2.phase == .started) then ok s
  else
    let warnTemp := s.thm.composite
    let s1 := commitAll (devRec s 0xB2 7 0 0 warnTemp) (allSlots s)
    let times := recentHalts s1 ++ [s1.opUs]
    let frozen := some (warnTemp, setBit (critWarn s1 0 0) 1, spareShare s1 0)
    let t := deviceClear s1
    ok { t with
      boot := { t.boot with phase := .thermal }
      glb := { t.glb with miFrozen := frozen }
      thm := { t.thm with
        halted := true, halts := satAdd 8 t.thm.halts 1, haltTimes := times, stay := decide (3 ≤ times.length) } }

/-- The Trip sensors have read below THM_HOT − 20 °C for 1 s: the rails drop and a cold start runs
(R436), unless three halts came within the hour. -/
def execThermalHaltRestart (s : State) : Out :=
  if s.boot.phase != .thermal || s.thm.stay then ok s else ok (coldClear s 5)

/-- A Trip sensor reaches 125 °C (R438): no flush is made. -/
def execTrip (sensor : Nat) (s : State) : Out :=
  if s.boot.phase == .off || !([0, 3, 5, 19].contains sensor) then ok s
  else
    let t := deviceClear s
    ok { t with
      board := { t.board with thermTrip := true, railEn := 0, chgEn := false }
      boot := { t.boot with phase := .tripped }
      plinth := { t.plinth with lossAll := t.plinth.newest != 3 }
      thm := { t.thm with trippedBit := true } }

end Sys2Proof.Machine
end

