-- ==== Sys2Proof/Machine/Clocks.lean ====
section
/-! DEFINITION. Clocks and crossings (R394 to R406): the monitor, the switch to fallback clocks and the
orderly flush, the RCO's failure, the frequency counter, the fences of the crossings. -/

namespace Sys2Proof.Machine

/-! ### The switch to fallback clocks (R398, R399) -/

/-- A channel on its fallback clock (R399): a quick retrain at the lower of 1,600 MT/s and its rate in force, which is
no step-down, with the presets of the steps below (R240). In PS3 the domain is off and it retrains as it powers up
(R254). -/
def slowChan (s : State) (v : Chan) : Chan :=
  if v.state != 2 then v
  else
    let r := min 1600 v.rate
    { v with
      rate := r, target := r, presets := (stepsBelow s r).take 2
      retrain := s.pm.ps != 3, full := false, stepPend := false, making := false }

/-- The federation unit stops with its clock and stamps on from its last time (R371). -/
def fedClockLost (s : State) : State :=
  if fedMode s == 0 then s
  else
    let s1 := fedStop s
    { s1 with fed := { s1.fed with clkfb := true } }

/-- Fallback comes into force for the PLLs of mask `m` (R399); `queue` says whether the queue island is
among the islands moved. -/
def enterFallback (s : State) (m : Nat) (queue : Bool) : State :=
  let s1 := glbSet { s with clk := { s.clk with
    fallback := true, stopped := false, rcoRun := true, fbFlush := s.glb.released
    lock := setBit (maskOf ((ranksIn s.clk.lock).filter (fun i => !(bitOf m i)))) 3 } } 0
  let s2 := if queue then fedClockLost s1 else s1
  let s3 := { s2 with chans := tmap {} s2.chans (fun _ v => slowChan s2 v) }
  let rises := s2.chans.any (fun kv => !(chanDegraded kv.2) && chanDegraded (slowChan s2 kv.2))
  trigger (breachAll (if rises then glbSet s3 12 else s3) 6)

/-- Whether PLL_R is ready (R395, R400). -/
def fallbackReady (s : State) : Bool := s.clk.rcoRun && bitOf s.clk.lock 3

/-- The RCO has failed (R389 step 3, R400 step 4): every other island is held in reset. -/
def rcoFailure (s : State) : State :=
  let t := deviceClear s
  { t with
    boot := { t.boot with phase := .rcoFail }
    clk := { t.clk with rcoFail := true, rcoRun := false, lock := 0, stopped := true, live := none }
    plinth := { t.plinth with lossAll := decide (t.plinth.newest < 2) } }

/-- A trip of the PLLs of mask `m`: the switch, the wait for the RCO, or its failure (R397, R398, R400). -/
def switchClocks (s : State) (m : Nat) (queue : Bool) : State :=
  if s.clk.rcoBad then rcoFailure s
  else if fallbackReady s then enterFallback s m queue
  else
    let t := { s with clk := { s.clk with stopped := true } }
    if queue then fedClockLost t else t

/-- Whether the monitor runs (R396). -/
def monitorOn (s : State) : Bool := !s.clk.monOff && s.clk.xoOk

/-- Whether a window's XO count is out of range (R396). -/
def countBad (s : State) (n : Nat) : Bool :=
  if s.clk.monMode then decide (n < 1440) || decide (1760 < n) else decide (n < 249) || decide (263 < n)

/-- A window of the clock monitor: its count, or none where the edges stopped (R396, R398). -/
def execClockMonitorTrip (count : Option Nat) (gapNs : Nat) (s : State) : Out :=
  if !(monitorOn s) then ok s
  else
    let s1 := match count with | some n => { s with clk := { s.clk with lastCnt := satTo 16 n } } | none => s
    let bad := match count with | some n => countBad s n | none => true
    if !bad then ok s1
    else
      ok (switchClocks (glbSet { s1 with clk := { s1.clk with
        xoTrip := true, xoOk := false, trips := satAdd 16 s1.clk.trips 1, gapNs := satTo 24 gapNs } } 0) 7 true)

/-- Bit of a PLL in CLK_STATUS.LOCK (R406). -/
def pllBit : Pll → Nat
  | .q => 0
  | .d => 1
  | .m => 2
  | .r => 3
  | .n _ => 4

/-- A PLL loses lock (R396): a trip for its islands, or the loss of its channel. The gap that CLK_LOST records is not fixed by
the rules, the lost clock having no stated rate (R398; DESIGN CHOICE, notes/assumptions/10.md). -/
def execPllLossOfLock (pll : Pll) (s : State) : Out :=
  match pll with
  | .n ch => if (getChan s ch).state != 2 || decide (3 ≤ s.pm.ps) then ok s else ok (channelLost s ch)
  | p =>
    if !(bitOf s.clk.lock (pllBit p)) then ok s
    else
      let s1 := { s with clk := { s.clk with lock := clrBit s.clk.lock (pllBit p) } }
      if p == .r then ok s1
      else
        ok (switchClocks (glbSet { s1 with clk := { s1.clk with
          pllTrip := true, trips := satAdd 16 s1.clk.trips 1, gapNs := Config.lockGapNs (pllBit p) s.nowUs % 2 ^ 24 } } 0) (2 ^ pllBit p) (p == .q))

/-- The check against the LPO finds the fault in the RCO (R397). -/
def execRcoFaultJudged (count : Nat) (s : State) : Out :=
  if !(monitorOn s) || s.clk.monMode then ok s
  else
    let s1 := { s with clk := { s.clk with rcoBad := true, monMode := true, lastCnt := satTo 16 count } }
    ok (devRec (glbSet s1 0) 0xA0 6 0 0 count)

/-- The RCO is started again, 10 ms after its failure (R389, R400). -/
def execRcoRetry (s : State) : Out :=
  if s.boot.phase != .rcoFail then ok s
  else ok { s with clk := { s.clk with retries := satAdd 8 s.clk.retries 1 } }

/-- Every started command has committed: the namespaces are committed, the clean mark written, every
commission closed (R399, R210). -/
def execOrderlyFlushComplete (s : State) : Out :=
  if !s.clk.fbFlush || s.clk.fbDone || !(inService s) || s.hold.brace ||
      s.cmds.any (fun kv => kv.2.phase == .started) then ok s
  else
    let s1 := commitAll s (allSlots s)
    let s2 := (liveComms s1).foldl (fun a h => closeByDevice a 3 h) s1
    let s3 := devRec s2 0xA1 7
    ok (trigger { s3 with
      clk := { s3.clk with fbDone := true }, glb := { s3.glb with adminOnly := true } })

/-! ### Crossings (R404, R405) -/

/-- Whether an island is out of reset. -/
def islandUp (s : State) (i : Island) : Bool :=
  match i with
  | .alwaysOn => s.boot.phase != .off
  | .port p => !(absorbs s) && portPresent s p && !(if p == 0 then s.board.perst0 else s.board.perst1)
  | .housekeeping => housekeepingUp s
  | _ => running s

/-- The token exchange re-arms an island's crossings and FENCE falls (R405). -/
def execCrossingRearm (i : Island) (s : State) : Out :=
  if islandUp s i then ok { s with clk := { s.clk with fence := s.clk.fence.filter (· != i) } } else ok s

/-! ### The frequency counter (R403) -/

/-- Whether a reference of the counter runs: 0 XO, 1 RCO, 2 LPO; 3 is reserved. -/
def refRuns (s : State) (ref : Nat) : Bool :=
  match ref with
  | 0 => s.clk.xoOk
  | 1 => s.clk.rcoRun
  | 2 => true
  | _ => false

/-- Whether a measured clock runs, ungated (R402, R403, R411, R412). -/
def clockRuns (s : State) (sel : Nat) : Bool :=
  let awake := decide (s.pm.ps < 3) && !s.clk.stopped
  match sel with
  | 0 => s.clk.xoOk
  | 1 => s.clk.rcoRun
  | 2 => true
  | 3 => awake && bitOf s.clk.gate0 10
  | 4 => awake && bitOf s.clk.gate0 11
  | 5 => awake && bitOf s.clk.gate0 12
  | 6 => awake && bitOf s.clk.gate0 13
  | 7 => awake && bitOf s.clk.gate0 2
  | 8 => awake && s.pm.domDram && bitOf s.clk.gate0 14
  | 9 => !s.clk.stopped
  | 10 => (getPort s 0).dlup
  | 11 => (getPort s 1).dlup
  | 12 => portPresent s 0
  | 13 => portPresent s 1
  | 14 => fallbackReady s
  | 15 => awake && bitOf s.clk.gate0 1
  | n => awake && decide (n < 48) && bitOf s.clk.gate1 (n - 16) && bitOf s.pm.domChg ((n - 16) / 4) &&
      (getChan s (n - 16)).state != 3

/-- A gate of the frequency counter ends (R403). -/
def execFrequencyMeasurementDone (count : Nat) (s : State) : Out :=
  if !s.clk.fRun then ok s
  else if !(refRuns s s.clk.fOn.2) then
    ok { s with clk := { s.clk with fRun := false, fDone := true, fErr := true } }
  else
    ok { s with clk := { s.clk with
      fRun := false, fDone := true, fErr := false
      fCount := if clockRuns s s.clk.fOn.1 then satTo 32 count else 0 } }

end Sys2Proof.Machine
end

