-- ==== Sys2Proof/Machine/PowerStates.lean ====
section
/-! DEFINITION. Power states (R407 to R425): requests, autonomous transitions, entries and exits, the
window of reserve work and the power estimate. -/

namespace Sys2Proof.Machine

/-! ### Requests (R414, R415) -/

/-- A niche whose sanitize runs. -/
def sanitizing (s : State) : Bool := s.niches.any (fun kv => kv.2.san == .block || kv.2.san == .crypto)

/-- Order 4 of R415. -/
def entryBarred (s : State) : Bool := sanitizing s || s.boot.activation.isSome

/-- An entry into PS3 or PS4 starts (R418 step 1); a hold-up test that runs is discarded (R423). -/
def beginEntry (s : State) (ps : Nat) : State :=
  let s1 := if s.hold.testing then afterTest s else s
  { s1 with pm := { s1.pm with
    back := s1.pm.ps, req := ps, entry := if ps == 3 then .drain3 else .drain4 } }

/-- A state named by an accepted request comes into force, or its entry starts; in PS3 the device wakes
first (R414, R420, R423). -/
def requestState (s : State) (ps : Nat) : State :=
  if ps == shownPs s then s
  else
    let s1 := if s.pm.ps == 3 then wake s 2 else s
    if ps < 3 then applyState { s1 with pm := { s1.pm with req := ps } } else beginEntry s1 ps

/-- A refusal of R415, orders 3 to 5. -/
def refusePs (s : State) (c cid : Nat) (st : Status) : State :=
  adone { s with pm := { s.pm with refused := satAdd 16 s.pm.refused 1 } } c cid st

/-- Set Features 02h (R415). -/
def setPower (s : State) (c cid ps wh : Nat) : State :=
  if !(isPf0 c) || s.boot.maquette then adone s c cid .invalidField
  else if decide (4 < ps) || wh != 0 then adone s c cid .invalidField
  else if decide (3 ≤ ps) && !(liveComms s).isEmpty then refusePs s c cid .commActive
  else if decide (3 ≤ ps) && entryBarred s then refusePs s c cid .cmdSeq
  else if s.pm.entry != .none then refusePs s c cid .cmdSeq
  else adone (requestState s ps) c cid .success

/-- The entry of the APST table for the state in force that names a transition (R416). -/
def apstEntry (s : State) : Option ApstEntry :=
  match s.pm.apst[s.pm.ps]? with
  | some e => if e.itpt != 0 && decide (s.pm.ps < e.itps) && decide (e.itps ≤ 4) then some e else none
  | none => none

/-- The idle time of the entry in force has passed (R416). -/
def execApstIdleTimer (s : State) : Out :=
  if !s.pm.apstOn || s.boot.maquette || !(inService s) || s.pm.entry != .none || s.pm.ps == 4 || !(quiet s) || s.hold.brace then ok s
  else match apstEntry s with
  | none => ok s
  | some e =>
    if !(liveComms s).isEmpty || entryBarred s then
      ok { s with pm := { s.pm with apstSkip := satAdd 16 s.pm.apstSkip 1 } }
    else ok (beginEntry (if s.pm.ps == 3 then wake s s.pm.wakeSrc else s) e.itps)

/-! ### Entries (R418, R419) -/

def execPs3Entry (s : State) : Out :=
  if s.pm.entry != .drain3 || !(quiet s) || !(inService s) then ok s else ok (enterPs3 s)

def execPs4Entry (s : State) : Out :=
  if s.pm.entry != .drain4 || !(quiet s) || !(inService s) then ok s else ok (enterPs4 s)

/-- Every trained port is in L1.2 or counts as ready (R419 step 6); the sideband's status block is frozen
(R96). -/
def execPs4L12Reached (s : State) : Out :=
  if s.pm.entry != .wait4 || !(portReady s 0) || !(portReady s 1) then ok s
  else
    let frozen := some (s.thm.composite, critWarn s 0 0, spareShare s 0)
    let t := reachPs4 s
    ok { t with glb := { t.glb with miFrozen := frozen } }

/-- 10 s have passed without it (R419 step 5). -/
def execPs4L12Timeout (s : State) : Out :=
  if s.pm.entry != .wait4 then ok s else ok (leaveLow s 7)

/-- A trained port leaves L1.2 (R420). -/
def execL12ExitWake (port : Nat) (s : State) : Out :=
  let v := getPort s port
  if absorbs s || !v.dlup || v.link != .l12 then ok s
  else
    let s1 := setPort s port { v with link := .l0 }
    ok (if s1.pm.ps == 4 then wake s1 3 else s1)

/-! ### The window of R417 -/

/-- Reserve work that is due in PS3: a Recast row whose deadline falls within 1 h, or the persistence of a
ring that has changed. -/
def reserveDue (s : State) : Bool :=
  s.rows.any (fun kv => kv.2.queue == 1 && decide (kv.2.queuedUs + 82800000000 ≤ s.opUs)) ||
    (s.pat.img.map (fun i => i.events != s.pat.events)).getD true

/-- The window opens on due work and closes when the work has ended (R417); the state reported stays
PS3. -/
def execNoppmeWindow (s : State) : Out :=
  if s.pm.ps != 3 || s.pm.entry != .none || !(inService s) then ok s
  else if s.pm.window then
    if reserveDue s || !(diesQuiet s) then ok s
    else
      let t := powerDown s
      ok { t with pm := { t.pm with window := false } }
  else if !s.pm.noppme || !(reserveDue s) then ok s
  else
    let t := quickAll (fromShadow (startDrbg s))
    ok { t with
      pm := withAssist t.nowUs { operationalDomains t t.pm with window := true, wakeSrc := 5 } 2
      clk := { t.clk with lock := if t.clk.fallback then t.clk.lock else t.clk.lock + 4 * dramPll t } }

/-! ### The power estimate (R408) -/

/-- The estimate of the last 1 ms slice, in 0.01 W (R408, R426): the 10 ms count slices above the budget in which Standard
and Background commands were held back already. -/
def execPowerEstimate (est : Nat) (s : State) : Out :=
  if !(inService s) || decide (3 ≤ s.pm.ps) then ok s
  else
    let b := budget s
    let run := if b < est && s.pm.stopB then s.pm.overMs + 1 else 0
    let stop := if b < est + 50 then true else if est + 100 < b then false else s.pm.stopB
    let s1 := { s with pm := { s.pm with
      est := satTo 16 est, peak := max s.pm.peak (satTo 16 est), overMs := run, stopB := stop } }
    if run == 10 then
      ok (devRec (glbSet { s1 with pm := { s1.pm with overBudget := true } } 1) 0xB3 4 0 0 est)
    else ok s1

end Sys2Proof.Machine
end

