-- ==== Sys2Proof/Machine/AdminFeatures.lean ====
section
/-! DEFINITION. Set Features and Get Features (R119, R140, R141, R159, R340, R415 to R417, R434). -/

namespace Sys2Proof.Machine

/-! ### Saved values (R141) -/

/-- The value of a saveable feature is saved in the Plinth. -/
def saveFeature (s : State) (fid v : Nat) : State :=
  { s with plinth := { s.plinth with saved := tset 0 s.plinth.saved fid v } }

/-- A saveable feature set by PF0 (R140, R141): `good` says its fields are legal, `put` sets it, `v` is the
value saved with SV. -/
def setSaveable (s : State) (c cid fid : Nat) (sv good : Bool) (v : Nat) (put : State → State) : State :=
  if !(isPf0 c) || !good then adone s c cid .invalidField
  else if sv && s.boot.maquette then adone s c cid .notSaveable
  else
    let s1 := put s
    adone (if sv then saveFeature s1 fid v else s1) c cid .success

/-! ### One operation for each feature with a row of its own -/

/-- 06h Volatile Write Cache (R119). -/
def setVwc (s : State) (c cid : Nat) (wce : Bool) : State :=
  if degraded s && !wce then adone s c cid .huDegraded else adone s c cid .success

/-- The bits of feature 0Bh that enable an event of R156. -/
def aecBits : Nat := maskOf [0, 1, 2, 3, 8, 9, 27]

/-- 0Bh Asynchronous Event Configuration (R159). -/
def setAec (s : State) (c cid mask : Nat) : State :=
  if (ranksIn mask).any (fun b => !(bitOf aecBits b)) || decide (2 ^ 32 ≤ mask) then adone s c cid .invalidField
  else adone (setCtrl s c { getCtrl s c with aec := mask }) c cid .success

/-- Whether an APST entry is legal (R416): no operational state, no idle time of 0 with a state. -/
def apstLegal (e : ApstEntry) : Bool :=
  (e.itps == 0 && e.itpt == 0) || ((e.itps == 3 || e.itps == 4) && e.itpt != 0)

/-- 0Ch Autonomous Power State Transition (R416). -/
def setApst (s : State) (c cid : Nat) (sv enable : Bool) (l : List ApstEntry) : State :=
  setSaveable s c cid 0x0C sv (l.all apstLegal && decide (l.length ≤ 32)) (b2n enable) (fun t =>
    let t1 := { t with pm := { t.pm with apstOn := enable, apst := l } }
    if sv then { t1 with plinth := { t1.plinth with savedApst := l } } else t1)

/-- 11h Non-Operational Power State Config (R417). -/
def setNoppme (s : State) (c cid : Nat) (v : Bool) : State :=
  if !(isPf0 c) then adone s c cid .invalidField
  else adone { s with pm := { s.pm with noppme := v } } c cid .success

/-- 0xC0 Thermal grace time (R434). -/
def setGrace (s : State) (c cid : Nat) (sv : Bool) (ms rsv : Nat) : State :=
  setSaveable s c cid 0xC0 sv (rsv == 0 && (ms == 0 || between 100 30000 ms)) (orDef ms 2000) (fun t =>
    { t with thm := { t.thm with graceMs := orDef ms 2000 } })

/-- 0xC2 Hold-up test schedule (R340); RUN_NOW starts a test, subject to R339. -/
def setSchedule (s : State) (c cid : Nat) (sv : Bool) (period first rsv : Nat) (runNow : Bool) : State :=
  let p := orDef period 1440
  let f := orDef first 30
  setSaveable s c cid 0xC2 sv (rsv == 0 && decide (first ≤ 255) && between 10 10080 p) (p + f * 65536) (fun t =>
    let t1 := { t with hold := { t.hold with period := p, first := f, run := t.hold.run || runNow } }
    if runNow && !t1.hold.testing then healthTest t1 else t1)

/-! ### Features without a row of their own (R140) -/

/-- 04h Temperature Threshold: the composite only; THSEL 0 the over-temperature, 1 the under-temperature
threshold; one at or below the composite raises its event (R156). -/
def setTempThr (s : State) (c cid w : Nat) : State :=
  let v := getCtrl s c
  let th := w % 65536
  let thsel := w / 1048576 % 4
  if w / 65536 % 16 != 0 || decide (1 < thsel) then adone s c cid .invalidField
  else
    let t := setCtrl s c (if thsel == 0 then { v with tempThr := some th } else { v with tempUnder := th })
    adone (tempEvents s t) c cid .success

/-- 05h Error Recovery: of one namespace, or of all with FFFFFFFFh. -/
def setRecovery (s : State) (c cid nsid w : Nat) : State :=
  let n := myNiche s c
  let put := fun (a : State) (i : Nat) => setNs a i { getNs a i with tler := w % 65536 }
  if bitOf w 16 then adone s c cid .invalidField
  else if nsid == 0xFFFFFFFF then adone ((slotsOf s n).foldl put s) c cid .success
  else match slotOf s n nsid with
  | none => adone s c cid .invalidNsOrFormat
  | some i => adone (put s i) c cid .success

/-- Interrupt vectors of a function (R65, R83). -/
def vectorsOf (s : State) (c : Nat) : Nat := if s.boot.maquette then 32 else (nicheCfg s (myNiche s c)).vecs

/-- 09h Interrupt Vector Configuration. -/
def setVector (s : State) (c cid w : Nat) : State :=
  let v := getCtrl s c
  if vectorsOf s c ≤ w % 65536 then adone s c cid .invalidField
  else adone (setCtrl s c { v with ivConf := tset 0 v.ivConf (w % 65536) (b2n (bitOf w 16)) }) c cid .success

/-- Whether feature `fid` is supported (R140, R141). -/
def featureKnown (fid : Nat) : Bool :=
  [1, 2, 4, 5, 6, 7, 8, 9, 0xA, 0xB, 0xC, 0xF, 0x11, 0xC0, 0xC1, 0xC2].contains fid

/-- Whether feature `fid` is saveable (R140, R141). -/
def featureSaved (fid : Nat) : Bool := fid == 0xC || fid == 0xC0 || fid == 0xC2

/-- Whether only a PF0 may set feature `fid` (R140, R141). -/
def featurePf (fid : Nat) : Bool := fid == 2 || fid == 0x11 || featureSaved fid

/-- Set Features of feature `fid` with CDW11 `w` (R140); a feature that has a row of its own is set as that
row sets it. -/
def setFeature (s : State) (c cid fid : Nat) (sv : Bool) (nsid w : Nat) : State :=
  let v := getCtrl s c
  if !(featureKnown fid) || (featurePf fid && !(isPf0 c)) then adone s c cid .invalidField
  else if sv && !(featureSaved fid) then adone s c cid .notSaveable
  else
    match fid with
    | 1 => adone (setCtrl s c { v with arbFeat := w }) c cid .success
    | 2 => setPower s c cid (w % 32) (w / 32 % 8)
    | 4 => setTempThr s c cid w
    | 5 => setRecovery s c cid nsid w
    | 6 => setVwc s c cid (bitOf w 0)
    | 7 => numberOfQueues s c cid (w % 65536) (w / 65536 % 65536)
    | 8 => adone (setCtrl s c { v with coal := w % 65536 }) c cid .success
    | 9 => setVector s c cid w
    | 0xA => adone (setCtrl s c { v with atomicity := w % 2 }) c cid .success
    | 0xB => setAec s c cid w
    | 0xC => setApst s c cid sv (bitOf w 0) []
    | 0xF => adone (setCtrl s c { v with kato := w }) c cid .success
    | 0x11 => setNoppme s c cid (bitOf w 0)
    | 0xC0 => setGrace s c cid sv (w % 65536) (w / 65536)
    | 0xC1 => urgentMapping s c cid (w % 65536) (w / 65536 % 4) (w / 262144)
    | _ => setSchedule s c cid sv (w % 65536) (w / 65536 % 256) (w / 16777216 % 128) (bitOf w 31)

/-! ### Get Features (R140, R141, R340, R414, R434) -/

/-- An APST table as data (R416; NVMe Base). -/
def apstFlds (l : List ApstEntry) : List Fld := l.zipIdx.map (fun ei => ⟨8 * ei.2, 8, ei.1.itps * 8 + ei.1.itpt * 256⟩)

/-- The value in force of feature `fid`, and the data returned with it. -/
def featureNow (s : State) (c fid nsid w : Nat) : Option (Nat × List Fld) :=
  let v := getCtrl s c
  match fid with
  | 1 => some (v.arbFeat, [])
  | 2 => some (shownPs s, [])
  | 4 =>
    let thsel := w / 1048576 % 4
    if w / 65536 % 16 != 0 || decide (1 < thsel) then none
    else some (if thsel == 0 then overThr s v else v.tempUnder, [])
  | 5 => (slotOf s (myNiche s c) nsid).map (fun i => ((getNs s i).tler, []))
  | 6 => some (b2n (degraded s), [])
  | 7 => some (if v.allot == 0 then 0 else (v.allot - 1) * 65537, [])
  | 8 => some (v.coal, [])
  | 9 => if vectorsOf s c ≤ w % 65536 then none else some (w % 65536 + 65536 * tget 0 v.ivConf (w % 65536), [])
  | 0xA => some (v.atomicity, [])
  | 0xB => some (v.aec, [])
  | 0xC => some (b2n s.pm.apstOn, apstFlds s.pm.apst)
  | 0xF => some (v.kato, [])
  | 0x11 => some (b2n s.pm.noppme, [])
  | 0xC0 => some (s.thm.graceMs, [])
  | 0xC1 =>
    let q := getSq s (qk c (w % 65536))
    if w % 65536 == 0 || !q.live then none else some (q.cls, [])
  | 0xC2 => some (s.hold.period + 65536 * s.hold.first, [])
  | _ => none

/-- The default of feature `fid`: its value at reset. -/
def featureDefault (s : State) (fid w : Nat) : Nat :=
  match fid with
  | 4 => if w / 1048576 % 4 == 0 then overThr s {} else 0
  | 9 => w % 65536
  | 0xC0 => 2000
  | 0xC2 => 1440 + 65536 * 30
  | _ => 0

/-- What Get Features answers for a Select (NVMe Base): 0 current, 1 default, 2 saved, 3 capabilities; the Maquette accepts
no Power Management (R65). -/
def featureGet (s : State) (c fid sel nsid w : Nat) : Option (Nat × List Fld) :=
  if !(featureKnown fid) || (fid == 2 && s.boot.maquette) then none
  else match sel with
  | 0 => featureNow s c fid nsid w
  | 1 => some (featureDefault s fid w, [])
  | 2 =>
    if featureSaved fid then
      some (tget (featureDefault s fid w) s.plinth.saved fid, if fid == 0xC then apstFlds s.plinth.savedApst else [])
    else featureNow s c fid nsid w
  | 3 => some (4 + b2n (featureSaved fid) + 2 * b2n (fid == 5), [])
  | _ => none

/-- Get Features: the status, DW0 and the data; an Error Recovery of a namespace the controller's niche does not have
names no namespace (R77). -/
def getFeature (s : State) (c fid sel nsid w : Nat) : Status × Nat × List Fld :=
  if fid == 5 && (slotOf s (myNiche s c) nsid).isNone then (.invalidNsOrFormat, 0, [])
  else match featureGet s c fid sel nsid w with
  | none => (.invalidField, 0, [])
  | some (v, data) => (.success, v, data)

/-! ### The rows -/

def execSetFeatures (c cid fid : Nat) (sv : Bool) (nsid cdw11 : Nat) (s : State) : Out :=
  adminRom s c cid (fun t => setFeature t c cid fid sv nsid cdw11)

def execSetFeaturesPowerManagement (c cid ps wh : Nat) (s : State) : Out :=
  adminRom s c cid (fun t => setPower t c cid ps wh)

def execSetFeaturesVolatileWriteCache (c cid : Nat) (wce : Bool) (s : State) : Out :=
  adminRom s c cid (fun t => setVwc t c cid wce)

def execSetFeaturesAsyncEventConfig (c cid mask : Nat) (s : State) : Out :=
  adminRom s c cid (fun t => setAec t c cid mask)

def execSetFeaturesApst (c cid : Nat) (sv enable : Bool) (entries : List ApstEntry) (s : State) : Out :=
  adminRom s c cid (ctlData c cid 256 (fun t => setApst t c cid sv enable entries))

def execSetFeaturesNoppme (c cid : Nat) (noppme : Bool) (s : State) : Out :=
  adminRom s c cid (fun t => setNoppme t c cid noppme)

def execSetFeaturesThermalGraceTime (c cid : Nat) (sv : Bool) (graceMs : Nat) (s : State) : Out :=
  adminRom s c cid (fun t => setGrace t c cid sv graceMs 0)

def execSetFeaturesHoldupTestSchedule (c cid : Nat) (sv : Bool) (periodMin firstS : Nat) (runNow : Bool)
    (s : State) : Out :=
  adminRom s c cid (fun t => setSchedule t c cid sv periodMin firstS 0 runNow)

def execGetFeatures (c cid fid sel nsid cdw11 : Nat) (s : State) : Out :=
  adminRom s c cid (fun t =>
    let r := getFeature t c fid sel nsid cdw11
    ctlData c cid (if r.2.2.isEmpty then 0 else 4096) (fun u => adone u c cid r.1 r.2.1 0 r.2.2) t)

end Sys2Proof.Machine
end

