-- ==== Sys2Proof/Machine/Keys.lean ====
section
/-! DEFINITION. The key slots, the key table and the entropy source (R301 to R317): generation, destruction, Key Import,
the restore at the mount, reseeds. No bus reads a key (R309). -/

namespace Sys2Proof.Machine

/-! ### Slots and the table (R308 to R312) -/

/-- Whether the DRBG serves a key generation: running, instantiated from the source, the source there for a reseed with
prediction resistance, the DRK not blocked (R306, R307, R310, R379). While the source restarts no output of it can serve
(R305): the command that draws a key waits, see `sourceRestarts`. -/
def canGenerate (s : State) : Bool :=
  s.cipher.drbg == 1 && !s.cipher.seedSrc && s.cipher.trng != 3 && s.board.fuses.lifecycle != 7

/-- Whether a command that draws a key for one of the namespace slots `l` waits: the reseed it needs waits for a source
that is restarting, all of whose output since the last pass is discarded (R305, R306). -/
def sourceRestarts (s : State) (l : List Nat) : Bool :=
  s.cipher.trng == 2 && s.cipher.drbg == 1 && !s.cipher.seedSrc &&
    l.any (fun i => (slotCfg s i).enc || (slotCfg s i).sealEn)

/-- Every change of a slot writes a new table to the alternate key block, and its shadow (R311); a destruction erases
the previous block (R312). -/
def saveKeys (s : State) (destroyed : Bool) : State :=
  let t := wrapTable s
  { s with cipher := { s.cipher with
    table := t, shadow := t, tableSeq := s.cipher.tableSeq + 1, tableBlk := !s.cipher.tableBlk
    older := if destroyed || s.cipher.tableSeq == 0 then none else some ⟨s.cipher.tableSeq, s.cipher.table⟩ } }

/-- The dies whose key blocks hold the table (R311): (1, kp) and (17, kh), kp the lower Plinth rank and kh the higher. -/
def keyDies (s : State) : List Nat :=
  let r := plinthRanks s
  [dk 1 (min r.1 r.2), dk 17 (max r.1 r.2)]

/-- Slot `i` takes a key. -/
def putKey (s : State) (i : Nat) (k : Key) : State :=
  { s with cipher := { s.cipher with keys := tset {} s.cipher.keys i k } }

/-- A slot is destroyed: both shares are overwritten with DRBG output where the DRBG runs, then with zeros (R312); 255
names no slot (R53). -/
def destroyKey (s : State) (i : Nat) : State :=
  if 128 ≤ i then s
  else
    let s1 := if s.cipher.drbg == 1 then (randomBlocks s 60).2 else s
    let s2 := putKey s1 i {}
    { s2 with cipher := { s2.cipher with destroyed := satAdd 8 s2.cipher.destroyed 1 } }

/-- A key of a kind drawn from the DRBG (R300, R306, R310). -/
def drawKey (s : State) (isSeal : Bool) : Nat × State := if isSeal then randomBlocks s 2 else drawPair 64 s

/-- A slot takes a key drawn from the DRBG, reseeded with prediction resistance first (R306, R310). -/
def generateKey (s : State) (ik : Nat × Bool) : State :=
  if 128 ≤ ik.1 then s
  else
    let d := drawKey (reseed s) ik.2
    let r := shareKey d.2 1 ik.2 d.2.cipher.nextSer d.1
    let s1 := putKey r.2 ik.1 r.1
    { s1 with cipher := { s1.cipher with
      nextSer := s1.cipher.nextSer + 1, generated := satAdd 8 s1.cipher.generated 1 } }

/-- The key slots a namespace names, a seal slot marked (R53): XTS where it is encrypted, seal where it is sealed. -/
def keySlots (a : SlotCfg) : List (Nat × Bool) :=
  (if a.enc then [(a.xts, false)] else []) ++ (if a.sealEn then [(a.sealSlot, true)] else [])

/-- The slots are destroyed and drawn anew within one command (R310, R312); false where the DRBG cannot
serve, and then they stay Empty. -/
def regenerate (s : State) (l : List (Nat × Bool)) : State × Bool :=
  let s1 := (l.map (·.1)).foldl destroyKey s
  if l.isEmpty then (s, true)
  else if canGenerate s1 then (saveKeys (l.foldl generateKey s1) true, true)
  else (saveKeys s1 true, false)

/-- Keys for slots that hold none are drawn (R310). -/
def generateAll (s : State) (l : List (Nat × Bool)) : State × Bool :=
  if l.isEmpty then (s, true)
  else if canGenerate s then (saveKeys (l.foldl generateKey s) false, true) else (s, false)

/-- Slots destroyed for good (R151). -/
def destroyAll (s : State) (l : List Nat) : State :=
  if l.isEmpty then s else saveKeys (l.foldl destroyKey s) true

/-- The niche whose KEY_MASK holds a slot. -/
def keyNiche (s : State) (i : Nat) : Option Nat := (validNiches s).find? (fun n => bitOf (nicheCfg s n).keyMask i)

/-- The key table is restored at the mount (R312, R313): each entry whose integrity check fails, as the media show it or
by its unwrap, and every entry while the DRK is blocked (R379), leaves its slot Empty and is recorded, the entries of Empty
slots among them; an older table in the other key block is erased. -/
def restoreKeys (s : State) (bad : List Nat) : State :=
  let dead := s.board.fuses.lifecycle == 7
  let has := tkeys s.cipher.table (fun _ _ => true)
  let fails := (s.cipher.table.filter (fun kv =>
    dead || bad.contains kv.1 || (unwrapEntry s kv.1 kv.2).isNone)).map (·.1)
  let lost := if s.cipher.tableSeq == 0 then fails
    else fails ++ (List.range 128).filter (fun i => !(has.contains i) && (dead || bad.contains i))
  let good := tdrop s.cipher.table (fun i _ => lost.contains i)
  let s1 := fromShadow { s with cipher := { s.cipher with
    keys := [], shadow := good, ktableOk := lost.isEmpty, older := none } }
  let s2 := if lost.isEmpty then s1 else glbSet s1 7
  lost.foldl (fun a i =>
    let b := devRec a 0x72 7 i
    match keyNiche b i with
    | some n => mediaEvent b n
    | none => b) s2

/-! ### Key Import (R314 to R317) -/

/-- The namespace slot whose field of the kind of ACTION names key slot `k` (R317 check 3). -/
def namedBy (s : State) (action k : Nat) : Option Nat :=
  (tkeys s.ns (fun _ v => v.live && (if action == 0 then v.attr.enc && v.attr.xts == k
    else v.attr.sealEn && v.attr.sealSlot == k))).head?

/-- Whether a namespace holds data: a zone not Empty or a mapped LBA (R317 check 4). -/
def holdsData (s : State) (i : Nat) : Bool :=
  s.zones.any (fun kv => kv.1 / 131072 == i && kv.2.st != .empty) ||
    s.sectors.any (fun kv => kv.1 / 281474976710656 == i)

/-- Whether a command of the namespace is started (R317). -/
def nsBusy (s : State) (i : Nat) : Bool :=
  s.cmds.any (fun kv => kv.2.slot == i && kv.2.phase == .started)

/-- WRAPPED under IK: 72 bytes for an XTS pair, 40 for a seal key (R316). -/
def importUnwrap (ik action wrapped : Nat) : Option Nat :=
  if action == 0 then kwUnwrap ik 8 (wrapped % 2 ^ 576) else kwUnwrap ik 4 (wrapped % 2 ^ 320)

/-- An import refused at orders 5 to 7 of R317. -/
def importFail (s : State) (c cid why : Nat) : State :=
  adone { s with cipher := { s.cipher with importFails := satAdd 8 s.cipher.importFails 1 } } c cid .invalidField why

/-- The imported key is installed, the table written (R311, R317). -/
def installKey (s : State) (slot : Nat) (isSeal : Bool) (v : Nat) : State :=
  let r := shareKey s 2 isSeal s.cipher.nextSer v
  let s1 := putKey r.2 slot r.1
  devRec (saveKeys { s1 with cipher := { s1.cipher with
    nextSer := s1.cipher.nextSer + 1, imports := satAdd 8 s1.cipher.imports 1 } } false) 0x73 2 slot

/-- Key Import (R316, R317). The zero bytes after the wrap of a seal key are checked with the reserved fields
(notes/assumptions/8.md). -/
def keyImport (s : State) (c cid action slot rsv ex ey wrapped : Nat) : State :=
  let n := myNiche s c
  let tail := action == 1 && wrapped >>> 320 != 0
  if 1 < action || rsv != 0 || tail then adone s c cid .invalidField 0
  else if !(bitOf (nicheCfg s n).keyMask slot) then adone s c cid .nicheBoundary
  else match namedBy s action slot with
  | none => adone s c cid .invalidField 4
  | some i =>
    if holdsData s i then adone s c cid .cmdSeq
    else if s.board.fuses.lifecycle == 7 then adone s c cid .internal
    else if !(onCurve ex ey) then importFail s c cid 1
    else match importUnwrap (importKey s n slot ex ey) action wrapped with
    | none => importFail s c cid 2
    | some v =>
      if action == 0 && v % 2 ^ 256 == v >>> 256 then importFail s c cid 3
      else adone (installKey s slot (action == 1) v) c cid .success

/-- The namespace whose range-lock entry a Key Import has to wait for (R111, R112, R317): that of its slot, where orders 1
to 3 do not end it before, while a command of it is started or no entry is to be had. -/
def importWaits (s : State) (c action slot rsv wrapped : Nat) : Bool :=
  !(1 < action || rsv != 0 || (action == 1 && wrapped >>> 320 != 0)) && bitOf (nicheCfg s (myNiche s c)).keyMask slot &&
    match namedBy s action slot with
    | some i => nsBusy s i || !(lockAvail s (myNiche s c))
    | none => false

/-- Key Import: one whose entry cannot be inserted waits for it; the entry is held within the step that runs it. -/
def execKeyImport (c cid action slot rsv ex ey wrapped : Nat) (s : State) : Out :=
  adminFull s c cid (ctlData c cid 168 (fun t =>
    if importWaits t c action slot rsv wrapped then
      { t with
        arb := { t.arb with nextCmd := t.arb.nextCmd + 1 }
        cipher := { t.cipher with imps := t.cipher.imps ++ [⟨t.arb.nextCmd, c, cid, action, slot, rsv, ex, ey, wrapped⟩] } }
    else keyImport t c cid action slot rsv ex ey wrapped))

/-- A Key Import that waits starts once its entry can be inserted (R112, R317). -/
def startImport (s : State) (id : Nat) : State :=
  match s.cipher.imps.find? (fun x => x.id == id) with
  | none => s
  | some x =>
    if importWaits s x.c x.action x.slot x.rsv x.wrapped then s
    else keyImport { s with cipher := { s.cipher with imps := s.cipher.imps.filter (fun y => y.id != id) } }
      x.c x.cid x.action x.slot x.rsv x.ex x.ey x.wrapped

/-- A waiting command starts if it can (R112, R113, R317). -/
def execCommandStart (id : Nat) (s : State) : Out := ok (if hasCmd s id then startCmd s id else startImport s id)

/-! ### Reseeds and the source (R302 to R307) -/

/-- Whether a scheduled reseed is due: 2^20 generate requests or 1 s after the last (R306). -/
def reseedDue (s : State) : Bool :=
  decide (1048576 < s.cipher.rng.reqs) || decide (s.cipher.reseedUs + 1000000 ≤ s.nowUs)

/-- A scheduled reseed of the DRBG (R306, R307): with the source failed since instantiation the DRBG
stops; while it restarts the reseed waits. -/
def execDrbgReseed (s : State) : Out :=
  if s.cipher.drbg != 1 || s.cipher.seedSrc || !(reseedDue s) then ok s
  else if s.cipher.trng == 1 then ok (reseed s)
  else if s.cipher.trng == 3 then
    ok (devRec (glbSet { s with cipher := { s.cipher with drbg := 2 } } 7) 0x71 6)
  else ok s

/-- Every slot's shares take a fresh mask (R301). -/
def remaskAll (s : State) : State :=
  let r := s.cipher.keys.foldl (fun (a : State × List (Nat × Key)) kv =>
    let q := randomBlocks a.1 30
    (q.2, a.2 ++ [(kv.1, remask q.1 kv.2)])) (s, [])
  { r.1 with cipher := { r.1.cipher with keys := r.2 } }

/-- An engine's 38 generators take new seeds of 256 bits from a running DRBG after 2^16 blocks (R302, R303): the buffered
one comes into force and the next is drawn; the slots are remasked (R301). -/
def execMaskGeneratorReseed (engine : Nat) (s : State) : Out :=
  let v := s.cipher.engs.getD engine {}
  if 6 ≤ engine || s.cipher.drbg != 1 || !s.pm.domXcr || decide (v.blocks < 65536) then ok s
  else
    let a := match v.seed with | some x => (x, s) | none => randomBlocks s 76
    let b := randomBlocks a.2 76
    let x := b.2.cipher
    ok (remaskAll { b.2 with cipher := { x with
      maskSeeds := satAdd 16 x.maskSeeds 1
      engs := x.engs.set engine { v with blocks := v.blocks - 65536, bank := a.1, seed := some b.1 } } })

/-- A health test fails (R305): the conditioned output since the last pass is discarded and the source restarts; after
three failures in a row it has failed. -/
def sourceFails (s : State) (repetition : Bool) : State :=
  let x := s.cipher
  let y := { x with
    rct := if repetition then satAdd 8 x.rct 1 else x.rct
    apt := if repetition then x.apt else satAdd 8 x.apt 1
    trngFails := x.trngFails + 1, rawNo := x.rawNo + 2 }
  if 3 ≤ y.trngFails then devRec (glbSet { s with cipher := { y with trng := 3 } } 7) 0x70 7
  else { s with cipher := { y with trng := 2, sourceRestarts := satAdd 8 x.sourceRestarts 1 } }

/-- The source passes its start-up test (R305): the 1,024 raw bits are discarded. -/
def sourcePasses (s : State) : State :=
  { s with cipher := { s.cipher with trng := 1, trngFails := 0, rawNo := s.cipher.rawNo + 2 } }

def execTrngHealthTestFailure (repetition : Bool) (s : State) : Out :=
  ok (if !(running s) || s.cipher.trng == 3 then s else sourceFails s repetition)

def execSourceStartUpTestPass (s : State) : Out :=
  ok (if !(running s) || s.cipher.trng == 3 || s.cipher.trng == 1 then s else sourcePasses s)

/-! ### Transport keys (R314, R329) -/

/-- The transport key of the selected niche is computed (R314, R329); an invalid niche shows 0. -/
def execTransportKeyReady (s : State) : Out :=
  if !s.cipher.tkBusy then ok s
  else
    let q := if nicheValid s s.cipher.tkSel then transportPoint s s.cipher.tkSel else (0, 0)
    ok { s with cipher := { s.cipher with tkBusy := false, tkX := q.1, tkY := q.2 } }

/-- A write of XCR_TKSEL starts the computation (R329); the register access itself is checked as any
other (R481). -/
def selectTk (s : State) (niche : Nat) : State :=
  { s with cipher := { s.cipher with tkSel := niche % 64, tkBusy := true, tkX := 0, tkY := 0 } }

end Sys2Proof.Machine
end

