-- ==== Sys2Proof/Machine/AdminNs.lean ====
section
/-! DEFINITION. Namespace Management, Namespace Attachment, Format NVM and Sanitize (R53, R149 to
R154). -/

namespace Sys2Proof.Machine

/-! ### Commands started before a namespace goes (R151) -/

/-- Where a sector of a read ends, its media access made: what is stored of it, or lost. -/
def resolved (s : State) (i lba : Nat) : RdSt :=
  match sectorSource s i lba with
  | .media _ | .page _ => .ready (cellOf s (tget ({} : Sector) s.sectors (lk i lba)))
  | st => st

/-- A started read ends with what the media hold; a Compare whose host data has not all arrived ends either way. -/
def finishRead (s : State) (id : Nat) : State :=
  let c := getCmd s id
  let l := (List.range (c.io.nlb + 1)).map (fun j => (⟨c.lo + j, resolved s c.slot (c.lo + j)⟩ : RdSec))
  let lost := (l.filter (fun r => r.st == .lost)).length
  let s1 := setCmd (dropReads s (fun o => match o with | .cmd k _ => k == id | _ => false)) id { c with want := [], rds := l }
  if lost != 0 then complete (noteLost s1 c.niche lost) id .unrecRead
  else if c.io.op == .compare && c.recv.length != c.need then
    complete s1 id (if Config.compareEqual id then .success else .compareFail)
  else readSent (passAll s1 id) id

/-- A started write commits; what of its data has not arrived goes with the namespace unread. -/
def finishWrite (s : State) (id : Nat) : State :=
  let c := getCmd s id
  commitWrite (passAll (setCmd s id { c with
    want := [], recv := c.recv ++ List.replicate (c.need - c.recv.length) 0 }) id) id

/-- The commands started on slot `i` complete normally before its content goes (R151; notes/assumptions/23.md). -/
def finishStarted (s : State) (i : Nat) : State :=
  (tkeys s.cmds (fun _ c => c.slot == i && c.phase == .started)).foldl (fun a id =>
    let c := getCmd a id
    if !(hasCmd a id) then a
    else if isRead c.io.op then finishRead a id
    else if writesData a i c.io then finishWrite a id
    else if c.io.op == .zoneReceive then finishReceive a id
    else if c.io.op == .zoneSeal then finishSeal a id
    else a) s

/-! ### Emptying a namespace -/

/-- A zone Empty again, its GEN left to the slot's count (R177). -/
def emptyZone (i : Nat) (s : State) (z : Nat) : State :=
  let g := (getZone s (zk i z)).gen
  let s1 := resetZone s i z
  setZone s1 (zk i z) { getZone s1 (zk i z) with gen := g }

/-- The content of a namespace is gone (R149, R151, R153): zones Empty, their indices and seal states
cleared, the GEN of every zone raised (R177), LBAs unmapped, rows erase-pending, lost-sector entries removed. -/
def wipeSlot (s0 : State) (i : Nat) : State :=
  let s := finishStarted s0 i
  let s1 := (zonesWhere s i (fun _ => true)).foldl (emptyZone i) (setNs s i { getNs s i with gen := wrapAdd 32 (getNs s i).gen 1 })
  let v := getNs s1 i
  let s2 := if v.attr.zoned then s1
    else unbindRows (setNs s1 i { v with hostRow := none, nextRow := none, gcRow := none, fill := none, gcFill := none }) .pending
      ((fineHeld s1 i).map (fun key => (key / 8192, key % 8192)))
  let mine := fun k : Nat => k / 281474976710656 == i
  lostCut { s2 with
    sectors := tdrop s2.sectors (fun k _ => mine k), fine := tdrop s2.fine (fun k _ => mine k)
    fineQ := s2.fineQ.filter (fun k => !(mine k))
    plinth := { s2.plinth with media := tdrop s2.plinth.media (fun k _ => mine k) } } i 0 (2 ^ 48)

/-! ### Create and delete (R150, R151) -/

/-- The free slots of a niche of the asked type, rising (R150). -/
def freeSlots (s : State) (n csi : Nat) : List Nat :=
  (List.range s.arm.cfg.slots.length).filter (fun i =>
    let a := slotCfg s i
    a.valid && a.niche == n && a.zoned == (csi == 2) && !(getNs s i).live)

/-- A new namespace in slot `i` (R150): its slot's attributes, attached to `att`. The GEN of its zones stands (R177). -/
def newNs (s : State) (i fmt pi : Nat) (ext : Bool) (att : List Nat) : State :=
  setNs s i { live := true, attr := slotCfg s i, fmt := fmt, pi := pi, ext := ext, attached := att, gen := (getNs s i).gen }

/-- Namespace Management, create (R150). Where no slot of the type is free the fourth check answers. -/
def createNs (s : State) (c cid csi flbas nsze ncap dps : Nat) : State :=
  let n := myNiche s c
  let fmt := flbas % 16
  let free := freeSlots s n csi
  let fits := free.filter (fun i => (createFmt s (slotCfg s i) fmt).isSome)
  let sized := fits.filter (fun i => (nsze == 0 && ncap == 0) ||
    (nsze == nsLbas (slotCfg s i) && ncap == nsLbas (slotCfg s i)))
  if csi != 0 && csi != 2 then adone s c cid .invalidField
  else if free.isEmpty then adone s c cid .nsIdUnavail
  else if fits.isEmpty || (fmt != 1 && dps % 8 != 0) || decide (3 < dps) then adone s c cid .invalidFormat
  else match sized with
  | [] => adone s c cid .invalidField
  | i :: _ =>
    let r := generateAll s (keySlots (slotCfg s i))
    if !r.2 then adone s c cid .internal
    else adone (journal (newNs r.1 i ((createFmt s (slotCfg s i) fmt).getD 0) dps (bitOf flbas 4) [])) c cid .success (slotCfg s i).nsid

def execNamespaceManagementCreate (c cid csi flbas nsze ncap dps : Nat) (s : State) : Out :=
  if sourceRestarts s (freeSlots s (myNiche s c) csi) then ok s
  else adminFull s c cid (afterSan c cid (ctlData c cid 4096 (fun t => createNs t c cid csi flbas nsze ncap dps)))

/-- A namespace leaves its slot (R151). -/
def deleteSlot (s : State) (i : Nat) : State :=
  let v := getNs s i
  let s1 := finishStarted (nsChanged s v.attr.nsid v.attached) i
  let s2 := wipeSlot (destroyAll s1 ((keySlots v.attr).map (·.1))) i
  setNs { s2 with zones := tmap {} s2.zones (fun k z => if k / 131072 == i then { ({} : Zone) with gen := z.gen } else z) } i
    { ({} : Ns) with gen := (getNs s2 i).gen }

/-- The slots a delete names: every namespace of the niche, or one (R151). -/
def deleteList (s : State) (n nsid : Nat) : List Nat :=
  if nsid == 0xFFFFFFFF then slotsOf s n else (slotOf s n nsid).toList

/-- Namespace Management, delete (R151). -/
def deleteNs (s : State) (c cid nsid : Nat) : State :=
  let n := myNiche s c
  let l := deleteList s n nsid
  if l.isEmpty && nsid != 0xFFFFFFFF then adone s c cid .invalidNsOrFormat
  else if l.any (fun i => !(liveOn s i).isEmpty) then adone s c cid .commActive
  else adone (refreshGc (l.foldl deleteSlot s) n) c cid .success

def execNamespaceManagementDelete (c cid nsid : Nat) (s : State) : Out :=
  adminFull s c cid (afterSan c cid (fun t => deleteNs t c cid nsid))

/-! ### Attachment (R53, R152) -/

/-- Whether the slot in force still fits the namespace it holds (R53). -/
def attachable (s : State) (i : Nat) : Bool :=
  let v := getNs s i
  let a := slotCfg s i
  a.valid && a.niche == v.attr.niche && a.nsid == v.attr.nsid && a.zoned == v.attr.zoned &&
    a.zw == v.attr.zw && a.enc == v.attr.enc && a.encMeta == v.attr.encMeta && a.sealEn == v.attr.sealEn &&
    a.xts == v.attr.xts && a.sealSlot == v.attr.sealSlot && bitOf a.lbafMask v.fmt && decide (v.attr.size ≤ a.size)

/-- Namespace Attachment (R152): the view of each controller whose attachment changes changes. Attaching an attached
controller, detaching one that is not attached and an empty list change nothing and complete with success (DESIGN
CHOICE, notes/assumptions/38.md). -/
def attachNs (s : State) (c cid nsid : Nat) (att : Bool) (l : List Nat) : State :=
  let n := myNiche s c
  if l.any (fun d => !(binds s n d)) then adone s c cid .nicheBoundary
  else match slotOf s n nsid with
  | none => adone s c cid .invalidNsOrFormat
  | some i =>
    let v := getNs s i
    if !(attachable s i) then adone s c cid .nsNotReady
    else
      let moved := (l.eraseDups).filter (fun d => v.attached.contains d != att)
      let w := if att then v.attached ++ moved else v.attached.filter (fun d => !(moved.contains d))
      adone (nsChanged (setNs s i { v with attached := w }) nsid moved) c cid .success

def execNamespaceAttachment (c cid nsid : Nat) (attach : Bool) (ctrls : List Nat) (s : State) : Out :=
  adminFull s c cid (afterSan c cid (ctlData c cid 4096 (fun t => attachNs t c cid nsid attach ctrls)))

/-! ### Format NVM (R149) -/

/-- Format NVM (R149). SES above 2 completes with Invalid Field in Command, tested after the format and before the
commissions (DESIGN CHOICE, notes/assumptions/38.md). -/
def formatNs (s : State) (c cid nsid lbaf pi ses : Nat) : State :=
  let n := myNiche s c
  if nsid == 0xFFFFFFFF then adone s c cid .invalidField
  else match slotOf s n nsid with
  | none => adone s c cid .invalidNsOrFormat
  | some i =>
    let v := getNs s i
    if !(fmtOk s (slotCfg s i).lbafMask (lbaf % 16)) || (lbaf % 16 != 1 && pi != 0) || 3 < pi then
      adone s c cid .invalidFormat
    else if 2 < ses then adone s c cid .invalidField
    else if !(liveOn s i).isEmpty then adone s c cid .commActive
    else
      let s0 := finishStarted s i
      let r := if ses == 0 then (s0, true) else regenerate s0 (keySlots v.attr)
      if !r.2 then adone r.1 c cid .internal
      else
        let s1 := wipeSlot r.1 i
        adone (refreshGc (setNs s1 i { getNs s1 i with fmt := lbaf % 16, pi := pi, ext := bitOf lbaf 4 }) n)
          c cid .success

def execFormatNvm (c cid nsid lbaf pi ses : Nat) (s : State) : Out :=
  if ses != 0 && sourceRestarts s ((slotOf s (myNiche s c) nsid).toList) then ok s
  else adminFull s c cid (afterSan c cid (fun t => formatNs t c cid nsid lbaf pi ses))

/-! ### Sanitize (R153, R154) -/

/-- The niches a Sanitize acts on: the issuing controller's; every one of the mounted structure in the
Maquette (R153). -/
def sanNiches (s : State) (c : Nat) : List Nat :=
  if s.boot.maquette then vNiches s.arm.cfg else [myNiche s c]

/-- The refusals Sanitize actions share, in R153's order. -/
def sanRefuse (s : State) (c : Nat) (ndas : Bool) : Option Status :=
  let l := sanNiches s c
  if s.boot.maquette && !s.plinth.mounted then some .sanFailed
  else if ndas then some .invalidField
  else if l.any (fun n => !(liveOf s n).isEmpty) then some .commActive
  else if l.any (fun n => (getNch s n).san == .block || (getNch s n).san == .crypto) then some .sanInProgress
  else none

/-- The key slots of a niche's KEY_MASK, each with the kind the structure names it for (R56 rule 11); a slot no entry
names counts as an XTS slot (notes/assumptions/8.md). -/
def nicheKeys (s : State) (n : Nat) : List (Nat × Bool) :=
  ((List.range 128).filter (bitOf (s.arm.cfg.niches.getD n {}).keyMask)).map (fun i =>
    (i, s.arm.cfg.slots.any (fun a => a.valid && a.sealEn && a.sealSlot == i)))

/-- The counters of R145 return to zero. -/
def clearCounters (v : Nch) : Nch :=
  { v with
    hostWritten := 0, hostRead := 0, mediaWritten := 0, retryReads := 0, softDecodes := 0, rebuilds := 0
    unrecovered := 0 }

/-- Slots of the namespaces of niche `n`, in the Maquette as well. -/
def nsOfNiche (s : State) (n : Nat) : List Nat := tkeys s.ns (fun _ v => v.live && v.attr.niche == n)

/-- What every erase action does to a niche: the buffer, zones, maps and counters (R153). -/
def sanWipe (s : State) (n : Nat) : State :=
  let s1 := (nsOfNiche s n).foldl (fun a i =>
    let b := wipeSlot a i
    setNs b i { getNs b i with hostWritten := 0, hostRead := 0 }) s
  let s2 := setNch s1 n (clearCounters (getNch s1 n))
  if s2.plinth.mounted then checkpointOf s2 n else s2

/-- The rows a niche owns on rank `k` (R52), in the Maquette as well. -/
def sanRows (s : State) (n k : Nat) : List Nat :=
  let e := s.arm.cfg.niches.getD n {}
  if !(bitOf e.rankSet k) then []
  else if bitOf e.sharedSet k then (List.range e.rowCount).map (fun j => rk k (e.rowFirst + j))
  else (List.range (userRows s)).map (rk k)

/-- Every block of the niche's owned rows is to be erased (R153), rows already erased and rows held out of service among
them. -/
def eraseOwned (s : State) (n : Nat) : State :=
  ((List.range 32).flatMap (sanRows s n)).foldl (fun a key =>
    let v := getRow a key
    if v.st == .erased || v.st == .out then setRow a key (pendRow a) else a) s

/-- The commands started on a niche complete first (R151). -/
def finishNiche (s : State) (n : Nat) : State := (nsOfNiche s n).foldl finishStarted s

/-- A block erase begins on a niche (R153). -/
def sanBlock (s : State) (n : Nat) : State :=
  let s1 := eraseOwned (sanWipe (destroyAll (finishNiche s n) ((nicheKeys s n).map (·.1))) n) n
  setNch s1 n { getNch s1 n with san := .block }

/-- A crypto erase begins on a niche (R153); where no key can be drawn the slots stay Empty and nothing else is done
(R310). -/
def sanCrypto (s : State) (n : Nat) : State × Bool :=
  let r := regenerate (finishNiche s n) (nicheKeys s n)
  if !r.2 then r
  else
    let s1 := sanWipe r.1 n
    (setNch s1 n { getNch s1 n with san := .crypto }, true)

/-- Exit Failure Mode (R153): a failed sanitize no longer holds the niche. -/
def execSanitizeExitFailureMode (c cid : Nat) (ndas : Bool) (s : State) : Out :=
  adminRom s c cid (fun t => match sanRefuse t c ndas with
    | some st => adone t c cid st
    | none => adone ((sanNiches t c).foldl (fun a n =>
        if (getNch a n).san == .failed then setNch a n { getNch a n with san := .none } else a) t) c cid .success)

def execSanitizeBlockErase (c cid : Nat) (ndas : Bool) (s : State) : Out :=
  adminRom s c cid (fun t => match sanRefuse t c ndas with
    | some st => adone t c cid st
    | none => adone ((sanNiches t c).foldl sanBlock t) c cid .success)

def execSanitizeCryptoErase (c cid : Nat) (ndas : Bool) (s : State) : Out :=
  if sourceRestarts s ((sanNiches s c).flatMap (slotsOf s)) then ok s
  else adminRom s c cid (fun t => match sanRefuse t c ndas with
    | some st => adone t c cid st
    | none =>
      let r := (sanNiches t c).foldl (fun (a : State × Bool) n => let q := sanCrypto a.1 n; (q.1, a.2 && q.2)) (t, true)
      adone r.1 c cid (if r.2 then .success else .internal))

/-- Rows of a niche still to be erased. -/
def rowsLeft (s : State) (n : Nat) : Bool :=
  s.rows.any (fun kv => (kv.2.st == .pending || kv.2.st == .leaving || kv.2.st == .erasing) &&
    decide (kv.1 % 8192 < userRows s) && rowOwner s (kv.1 / 8192) (kv.1 % 8192) == n)

/-- Whether a rank of the niche's set has fewer than 3 healthy dies, the one condition of R279 that a block erase
leaves. -/
def narrowSet (s : State) (n : Nat) : Bool :=
  (ranksIn (nicheCfg s n).rankSet).any (fun k => decide (nk s k < 3))

/-- A sanitize ends: a block erase once every owned row is erased (R154, R490); a read-only niche is writable again where
no condition of R279 is left (R280). -/
def execSanitizeComplete (niche : Nat) (s : State) : Out :=
  let v := getNch s niche
  let over_ := v.san == .crypto || (v.san == .block && !(rowsLeft s niche))
  if !over_ then ok s
  else
    let ro := v.readOnly && (v.san == .crypto || narrowSet s niche)
    ok (nchSet (setNch s niche { v with san := .none, sanDone := 1, readOnly := ro }) niche 7)

end Sys2Proof.Machine
end

