-- ==== Sys2Proof/Machine/AdminFw.lean ====
section
/-! DEFINITION. Firmware images and Armature staging (R57 to R64, R133, R381 to R384). -/

namespace Sys2Proof.Machine

/-! ### Firmware (R133, R381, R383) -/

/-- The image a download has gathered. -/
def dlImg (s : State) : Img := blkByte s.boot.dl

/-- Firmware Image Download: 4 KiB granularity, within the 4 MiB of a slot (R134, R380). The image as staged so far is
checked (R383); the rule gives Download no status for a failure, so the command completes and Firmware Commit answers
(DESIGN CHOICE, notes/assumptions/12.md). -/
def execFirmwareImageDownload (c cid offset : Nat) (data : List Nat) (s : State) : Out :=
  adminPf0 s c cid (afterSan c cid (ctlData c cid data.length (fun t =>
    if offset % 4096 != 0 || data.length % 4096 != 0 || data.isEmpty || 4194304 < offset + data.length then
      adone t c cid .invalidField
    else
      let b := { t.boot with dl := blkWrite data.length t.boot.dl (offset / 256) data }
      adone { t with boot := { b with dlChk := some (fwCheck (blkByte b.dl) t.board.fuses t.board.fuses.fwFloor) } }
        c cid .success)))

/-- Whether Armature slot `k` would load under firmware vector `v` (R44, R383). -/
def armFits (s : State) (v : FwVec) (k : Nat) : Bool :=
  (validateArm (armImg s k) s.board.fuses s.board.straps s.board.fuses.armEpoch v none).code == 0

/-- What R383's checks answer for an image that Firmware Commit names; `readErr` is a read error of the boot flash during
them, which fails the slot as checks 1 to 4 do. -/
def commitCheck (s : State) (m : Img) (readErr : Bool) : Option Status :=
  if readErr then some .fwImage
  else match fwCheck m s.board.fuses s.board.fuses.fwFloor with
  | 0 => if s.boot.maquette || armFits s (fwVec m) 0 || armFits s (fwVec m) 1 then none else some .fwProhibited
  | 5 => some .fwProhibited
  | _ => some .fwImage

/-- A slot's region takes the downloaded image (R380). -/
def writeFwSlot (s : State) (k : Nat) : State :=
  let b := fwBase k / 256
  let f := blkErase s.boot.flash b (b + 16383)
  { s with boot := { s.boot with flash := s.boot.dl.foldl (fun a kv => tset [] a (b + kv.1) (blkFill kv.2)) f } }

/-- Fields the running firmware's header gives (R44, R382, R485). -/
def runFw (b : Boot) (m : Img) (slot : Nat) : Boot :=
  { b with
    fwSlot := slot, fwVer := u64 m 0x14, fwRoll := m 0xC, fwLevel := u16 m 0xE, fwMin := u16 m 0x10
    fwMax := u16 m 0x12 }

/-- Firmware Commit with action 011b (R133): the queues are stopped and the activation waits; a second one from the same
queue while it waits is refused (DESIGN CHOICE, notes/assumptions/12.md). -/
def activate (s : State) (c cid fs : Nat) (readErr : Bool) : State :=
  if !(liveComms s).isEmpty then adone s c cid .commActive
  else if s.boot.activation.isSome then adone s c cid .cmdSeq
  else if fs != 1 && fs != 2 then adone s c cid .fwSlot
  else match commitCheck s (fwImg s fs) readErr with
  | some st => adone s c cid st
  | none =>
    raiseStd { s with boot := { s.boot with activation := some (c, cid, fs) } } (allCtrls s) 9 ⟨2, 1, 3⟩

/-- Firmware Commit (R133, R381, R383). Slot 0 lets the device choose: the slot not running. -/
def fwCommit (s : State) (c cid ca fs : Nat) (readErr : Bool) : State :=
  let k := if fs == 0 then (if s.boot.fwSlot == 1 then 2 else 1) else fs
  if ca == 3 then activate s c cid k readErr
  else if 3 < ca then adone s c cid .invalidField
  else if 2 < k then adone s c cid .fwSlot
  else
    let m := if ca == 2 then fwImg s k else dlImg s
    match commitCheck s m (ca == 2 && readErr) with
    | some st => adone s c cid st
    | none =>
      let s1 := if ca == 2 then s else writeFwSlot s k
      let s2 := if ca == 0 then s1 else { s1 with boot := setActive s1.boot k }
      adone s2 c cid .success

def execFirmwareCommit (c cid ca fs : Nat) (readErr : Bool) (s : State) : Out :=
  adminPf0 s c cid (afterSan c cid (fun t => fwCommit t c cid ca fs readErr))

def execFirmwareActivateWithoutReset (c cid fs : Nat) (readErr : Bool) (s : State) : Out :=
  adminPf0 s c cid (afterSan c cid (fun t => activate t c cid fs readErr))

/-- Whether any I/O command is started (R133 step 3). -/
def anyStarted (s : State) : Bool := s.cmds.any (fun kv => kv.2.phase == .started)

/-- The activation happens once no started command remains (R133 step 4). -/
def execFirmwareActivationDrained (s : State) : Out :=
  match s.boot.activation with
  | none => ok s
  | some (c, cid, fs) =>
    if anyStarted s then ok s
    else
      let b := setActive (runFw { s.boot with activation := none } (fwImg s fs) fs) fs
      ok (adone { s with boot := { b with fwFallback := false } } c cid .success)

/-- 500 ms have passed with started commands left (R133 step 3). -/
def execFirmwareActivationTimeout (s : State) : Out :=
  match s.boot.activation with
  | none => ok s
  | some (c, cid, _) =>
    if !(anyStarted s) then ok s
    else ok (adone { s with boot := { s.boot with activation := none } } c cid .fwNeedsReset)

/-! ### Armature Stage (R57 to R64) -/

/-- Whether the other port's PF0 owns an open sequence on a slot (R58). -/
def stageForeign (s : State) (c slot : Nat) : Bool :=
  match s.arm.stage with | some (k, p) => k == slot && p != portOf c | none => false

/-- Armature Stage, Write (R58). -/
def stageWrite (s : State) (c cid slot offset count : Nat) (data : List Nat) (progFail : Bool) : State :=
  let own := s.arm.stage == some (slot, portOf c)
  if 1 < slot || offset % 256 != 0 || count % 256 != 0 || !(between 256 65536 count) || 262144 < offset + count ||
      (!s.boot.maquette && s.arm.src == slot) then adone s c cid .invalidField
  else if stageForeign s c slot || (offset != 0 && !own) then adone s c cid .cmdSeq
  else
    let b := armBase slot / 256
    let f := if offset == 0 then blkErase s.boot.flash b (b + 1023) else s.boot.flash
    let s1 := { s with
      arm := { s.arm with stage := some (slot, portOf c) }
      boot := { s.boot with flash := f } }
    if progFail then adone (devRec s1 0x12 5 0 (armBase slot + offset)) c cid .internal
    else adone { s1 with boot := { s1.boot with
      flash := blkWrite count f (b + offset / 256) (data.take count) } } c cid .success

def execArmatureStageWrite (c cid slot offset count : Nat) (data : List Nat) (progFail : Bool) (s : State) : Out :=
  adminPf0 s c cid (ctlData c cid count (fun t => stageWrite t c cid slot offset count data progFail))

/-- The result of a validation goes to the slot's registers; GLB_ISTAT.ARM (R66, R486). -/
def noteVal (s : State) (slot : Nat) (e : ValErr) : State :=
  let s1 := { s with arm := if slot == 0 then { s.arm with errA := e } else { s.arm with errB := e } }
  if e.code == 0 || e.code == 0xB then s1 else glbSet s1 10

/-- The firmware vector in use (R44). For the ROM recovery firmware the boot state holds level 0 and the interface
range 0 to 0 (DESIGN CHOICE, notes/assumptions/38.md: R59 gives none). -/
def runVec (s : State) : FwVec := ⟨s.boot.fwLevel, s.boot.fwMin, s.boot.fwMax⟩

/-- Armature Stage, Verify (R59). It closes the sender's open sequence on this slot; one on the other slot stays open
(DESIGN CHOICE, notes/assumptions/12.md: R58 names the Verify, not which slot's). -/
def stageVerify (s : State) (c cid slot : Nat) (readErr : Option Nat) : State :=
  if 1 < slot then adone s c cid .invalidField
  else if stageForeign s c slot then adone s c cid .cmdSeq
  else
    let m := armImg s slot
    let v := validateArm m s.board.fuses s.board.straps s.board.fuses.armEpoch (runVec s) readErr
    let e := if v.code == 0 && decide (u64 m 0x10 ≤ s.arm.seq) then { v with code := 0xB } else v
    let s1 := if s.arm.stage == some (slot, portOf c) then { s with arm := { s.arm with stage := none } } else s
    adone (noteVal s1 slot e) c cid .success (e.code + e.sect * 256 + e.rule * 4096) e.off

def execArmatureStageVerify (c cid slot : Nat) (readErr : Option Nat) (s : State) : Out :=
  adminPf0 s c cid (fun t => stageVerify t c cid slot readErr)

/-- The first record of a list that fails, each checked on the structure the earlier ones give (R63). -/
def badPatch (f : Fuses) : ArmCfg → Nat → List PatchRec → Option Nat
  | _, _, [] => none
  | a, i, r :: t => if patchOk a f r then badPatch f (patchOne f a r) (i + 1) t else some i

/-- The dies as URG_POLICY becomes `p` (R234): where it rises to 1 a program that is suspended now is not suspended again;
where it falls to 0 that ends. -/
def policyDies (s : State) (p : Nat) : List (Nat × Die) :=
  if p == s.arm.cfg.urgPolicy then s.dies
  else tmap {} s.dies (fun _ d => { d with polHeld := p != 0 && (suspendedProgram d).isSome })

/-- Armature Stage, Patch: all records or none (R61 to R64). -/
def stagePatch (s : State) (c cid : Nat) (l : List PatchRec) : State :=
  if s.boot.maquette then adone s c cid .cmdSeq
  else if l.isEmpty || 64 < l.length then adone s c cid .invalidField
  else match badPatch s.board.fuses s.arm.cfg 0 l with
  | some i => adone s c cid .invalidField i
  | none =>
    let s1 := { s with
      dies := policyDies s (l.foldl (patchOne s.board.fuses) s.arm.cfg).urgPolicy
      arm := { s.arm with
      cfg := l.foldl (patchOne s.board.fuses) s.arm.cfg
      patched := s.arm.patched ++ l.map (fun r => (r.section_, r.index, r.field))
      patchCnt := satAdd 16 s.arm.patchCnt l.length } }
    let s2 := l.foldl (fun a r => devRec a 0x10 2 r.section_ r.value (r.index * 256 + r.field)) s1
    adone ((validNiches s2).foldl refreshGc s2) c cid .success

def execArmatureStagePatch (c cid : Nat) (recs : List PatchRec) (s : State) : Out :=
  adminPf0 s c cid (ctlData c cid (8 * recs.length) (fun t => stagePatch t c cid recs))

/-- Armature Stage, Clear Patches (R64). -/
def clearPatches (s : State) (c cid : Nat) : State :=
  if s.boot.maquette then adone s c cid .cmdSeq
  else
    let s1 := { s with arm := { s.arm with cfg := s.arm.base, patched := [] }, dies := policyDies s s.arm.base.urgPolicy }
    let s2 := devRec s1 0x11 2 0 0 s.arm.patched.length
    adone ((validNiches s2).foldl refreshGc s2) c cid .success

def execArmatureStageClearPatches (c cid : Nat) (s : State) : Out :=
  adminPf0 s c cid (fun t => clearPatches t c cid)

end Sys2Proof.Machine
end

