-- ==== Sys2Proof/Machine/Commissions.lean ====
section
/-! DEFINITION. Commission Open, Close and Modify (R189 to R199): the checks in their order, the
handle, the reservation and the reports. -/

namespace Sys2Proof.Machine

/-- Range check of step 3 of R196 on the parameters Open and Modify share (R189). -/
def rangesOk (rate burst prio zconc rdecl : Nat) : Bool :=
  decide (1 ≤ rate) && decide (rate ≤ 52000) && decide (512 ≤ burst) && decide (burst ≤ 262144) &&
    decide (prio ≤ 7) && decide (1 ≤ zconc) && decide (zconc ≤ 4) && decide (rdecl ≤ 57800)

/-- Whether Commission Open is refused outright (check 2 of R196). -/
def openBarred (s : State) : Bool :=
  s.boot.maquette || s.boot.activation.isSome || s.clk.fallback || s.thm.stopping

/-- ZCONC of a namespace's live commissions, `skip` apart (check 10 of R196). -/
def zconcOn (s : State) (slot : Nat) (skip : Option Nat) : Nat :=
  sumBy (fun h => (getComm s h).zconc) ((liveOn s slot).filter (fun h => some h != skip))

/-- The SQ keys a descriptor lists. -/
def descKeys (d : CommDesc) : List Nat := d.sqs.map (fun x => qk x.2 x.1)

/-- Whether an SQ of the list may be bound (R191, check 7 of R196). -/
def bindable (s : State) (k : Nat) : Bool :=
  let q := getSq s k
  qidOfSq k != 0 && q.live && q.del.isNone && q.cls == 0 && !(boundLive s q)

/-- The lowest handle index of a niche that no entry holds (R190). -/
def freeIndex (s : State) (n : Nat) : Option Nat :=
  (List.range 64).find? (fun i => !(s.comms.any (fun kv => kv.2.used && handleNiche kv.1 == n && kv.1 % 64 == i)))

/-- The charge of a commission asked for. -/
def askCharge (s : State) (n port slot rate rdecl burst zconc : Nat) : Charge :=
  let r := resvOf s rate burst zconc
  { niche := n, port := port, w := widthOf s slot, fmt2 := (getNs s slot).fmt == 2, r := (rate : Nat), rd := rdecl
    resv4 := r, resv5 := r }

/-- What D_CAP leaves, in bytes, beside the live commissions but `skip` (check 5 of R201). -/
def leftOf (s : State) (skip : Option Nat) : Nat :=
  s.cms.dCap * 1048576 - sumBy (fun h => (getComm s h).resv) ((liveComms s).filter (fun h => some h != skip))

/-- Checks 1 to 6 of R201: the failing check and the largest rate that would pass (R196). -/
def admitCheck (s : State) (x : Charge) (burst zconc : Nat) (old : Option (Nat × Charge)) : Option (Nat × Nat) :=
  let l := othersOf s (old.map (·.1))
  let left := leftOf s (old.map (·.1))
  match firstFail s l x burst zconc left (old.map (·.2)) with
  | some k => some (k, bestRate s l x burst zconc left (old.map (·.2)))
  | none => none

/-- A refusal with status 0x81 (R196). -/
def refuse (s : State) (c cid check rate : Nat) : State := adone s c cid .commRefused check rate

/-- The entry of an opened commission (R192, R197, R207, R214). -/
def openComm (s : State) (n slot port : Nat) (d : CommDesc) (idx : Nat) : State × Nat :=
  let g := tget 0 s.cms.hgen (n * 64 + idx)
  let h := g * 4096 + n * 64 + idx
  let r := resvOf s d.rate d.burst d.zconc
  let e : Comm := { used := true, st := .live, nsid := d.nsid, slot := slot, rate := d.rate, burst := d.burst
                    prio := d.prio, zconc := d.zconc, rdecl := d.rdecl, tag := d.tag, sqs := descKeys d
                    port := port, srate := d.rate, resv := r, resvNew := r, resvEff := r
                    tokens := d.burst * 4096, openUs := s.opUs, fedtime := fedLogTime s, seq := s.cms.opens }
  let s1 := setComm { s with cms := { s.cms with
    opens := s.cms.opens + 1, hgen := tset 0 s.cms.hgen (n * 64 + idx) ((g + 1) % 16) } } h e
  (countChange ((descKeys d).foldl (fun a k => setSq a k { getSq a k with comm := some h }) s1) n, h)

/-- Checks 3 to 12 of R196 and the opening (R195 to R197). -/
def commOpen (s : State) (c cid : Nat) (dry : Bool) (rsv : Nat) (d : CommDesc) : State :=
  let n := myNiche s c
  let ks := descKeys d
  if !(rangesOk d.rate d.burst d.prio d.zconc d.rdecl) || rsv != 0 || d.rsv != 0 || d.nsq == 0 ||
      decide (16 < d.nsq) || d.sqs.length != d.nsq then adone s c cid .invalidField
  else match slotOf s n d.nsid with
  | none => adone s c cid .invalidNsOrFormat
  | some i =>
    if !(zonedAt s i) then adone s c cid .invalidField
    else if d.sqs.any (fun x => !(binds s n x.2)) then adone s c cid .nicheBoundary
    else if !(ks.all (bindable s)) || ks.eraseDups.length != ks.length then adone s c cid .invalidField
    else match freeIndex s n with
    | none => refuse s c cid 0x10 0
    | some idx =>
      if (nicheCfg s n).maxComm ≤ (liveOf s n).length then refuse s c cid 0x10 0
      else if 256 ≤ (s.comms.filter (fun kv => kv.2.used)).length then refuse s c cid 0x11 0
      else if (getNs s i).attr.maxOpen < zconcOn s i none + d.zconc then refuse s c cid 0x12 0
      else
        let port := portOf ((d.sqs.headD (0, 0)).2)
        if d.sqs.any (fun x => portOf x.2 != port) then refuse s c cid 3 0
        else match admitCheck s (askCharge s n port i d.rate d.rdecl d.burst d.zconc) d.burst d.zconc none with
        | some (k, best) => refuse s c cid k best
        | none =>
          let kib := resvOf s d.rate d.burst d.zconc / 1024
          if dry then adone s c cid .success 0xFFFF kib
          else
            let r := openComm s n i port d idx
            adone r.1 c cid .success r.2 kib

def execCommissionOpen (c cid : Nat) (dryrun : Bool) (rsv : Nat) (d : CommDesc) (s : State) : Out :=
  adminRom s c cid (fun t =>
    if !t.boot.maquette && !(nicheCfg t (myNiche t c)).commOk then adone t c cid .invalidOpcode
    else if openBarred t then refuse t c cid 0x13 0
    else ctlData c cid 128 (fun u => commOpen u c cid dryrun rsv d) t)

/-- A commission's entry and bindings are removed (R199, R211). -/
def removeComm (s : State) (h : Nat) : State :=
  { countChange s (handleNiche h) with
    comms := tset {} s.comms h {}
    sqs := tmap {} s.sqs (fun _ q => if q.comm == some h then { q with comm := none } else q) }

/-- Commission Close (R199). -/
def commClose (s : State) (c cid h : Nat) : State :=
  if handleNiche h != myNiche s c then adone s c cid .nicheBoundary
  else if !(getComm s h).used then adone s c cid .invalidField
  else adone (trigger (removeComm s h)) c cid .success

def execCommissionClose (c cid handle : Nat) (s : State) : Out :=
  adminRom s c cid (fun t =>
    if t.boot.maquette then adone t c cid .invalidField
    else if !(nicheCfg t (myNiche t c)).commOk then adone t c cid .invalidOpcode
    else commClose t c cid handle)

/-- The new values of a Modify take effect (R198). -/
def modified (m : Comm) (rate rdecl burst prio zconc r : Nat) : Comm :=
  let up := decide (m.resv ≤ r)
  shrinkResv { m with
    rate := rate, rdecl := rdecl, burst := burst, prio := prio, zconc := zconc
    tokens := min m.tokens (burst * 4096), resvNew := r, resv := if up then r else m.resv
    resvEff := if up && m.resvEff == m.resv then r else m.resvEff }

/-- Commission Modify (R198). -/
def commModify (s : State) (c cid h : Nat) (dry : Bool) (rsv rate rdecl burst prio zconc : Nat) : State :=
  let m := getComm s h
  if handleNiche h != myNiche s c then adone s c cid .nicheBoundary
  else if !(commLive m) then adone s c cid .invalidField
  else if !(rangesOk rate burst prio zconc rdecl) || rsv != 0 then adone s c cid .invalidField
  else if (getNs s m.slot).attr.maxOpen < zconcOn s m.slot (some h) + zconc then refuse s c cid 0x12 0
  else
    match admitCheck s (askCharge s (handleNiche h) m.port m.slot rate rdecl burst zconc) burst zconc
        (some (h, fullCharge s h)) with
    | some (k, best) => refuse s c cid k best
    | none =>
      let r := resvOf s rate burst zconc
      if dry then adone s c cid .success 0xFFFF (r / 1024)
      else
        adone (trigger (setComm s h (modified m rate rdecl burst prio zconc r))) c cid .success h (r / 1024)

def execCommissionModify (c cid handle : Nat) (dryrun : Bool) (rsv rate rdecl burst prio zconc : Nat)
    (s : State) : Out :=
  adminRom s c cid (fun t =>
    if t.boot.maquette then adone t c cid .invalidField
    else if !(nicheCfg t (myNiche t c)).commOk then adone t c cid .invalidOpcode
    else commModify t c cid handle dryrun rsv rate rdecl burst prio zconc)

end Sys2Proof.Machine
end

