-- ==== Sys2Proof/Machine/Federation.lean ====
section
/-! DEFINITION. The federation unit (R359 to R374): frames, tracking of the input marker, take markers
and Federation Control. An `edge` is the marker's instant on the device's own QCLK count, in ns. -/

namespace Sys2Proof.Machine

/-! ### Frames (R362, R363) -/

/-- The 144 payload bits of a frame as a number, bit 0 sent first (R362). -/
def payloadOf (f : FedFrame) : Nat :=
  f.ver % 16 + b2n f.trace * 2 ^ 4 + b2n f.tkv * 2 ^ 5 + f.hop % 16 * 2 ^ 8 + f.out % 2 * 2 ^ 12 +
    f.pid % 8192 * 2 ^ 13 + f.cdly % 2 ^ 20 * 2 ^ 26 + f.time % 2 ^ 64 * 2 ^ 46 + f.tkid % 2 ^ 24 * 2 ^ 110 +
    f.tkkind % 4 * 2 ^ 134 + f.tkrep % 8 * 2 ^ 136

/-- One bit enters the CRC of polynomial 1021h. -/
def crcBit (crc : Nat) (b : Bool) : Nat :=
  let sh := crc * 2 % 65536
  if bitOf crc 15 != b then Nat.xor sh 0x1021 else sh

/-- CRC-16 over bits 0 to 143, initial value FFFFh (R362). -/
def frameCrc (p : Nat) : Nat := (List.range 144).foldl (fun c i => crcBit c (bitOf p i)) 0xFFFF

/-- Whether a received frame is good: its CRC, VER and reserved bits (R362). -/
def goodFrame (f : FedFrame) : Bool := f.ver == 1 && f.rsv == 0 && f.crc == frameCrc (payloadOf f)

/-- A frame with the CRC of its own payload. -/
def sealFrame (f : FedFrame) : FedFrame := { f with crc := frameCrc (payloadOf f) }

/-- A forwarded frame: the CRC of what is sent, with the difference between the received and the computed CRC of
what was received (R363). -/
def regenFrame (rx f : FedFrame) : FedFrame :=
  { f with crc := Nat.xor (frameCrc (payloadOf f)) (Nat.xor rx.crc (frameCrc (payloadOf rx))) }

/-! ### The line (R362) -/

/-- A bit in Manchester code, as two half-bit levels: 0 falls at mid-bit, 1 rises. -/
def manchester (b : Bool) : List Bool := if b then [false, true] else [true, false]

/-- The sync marker: high for 3 half-bit periods, then low for 3; the fall between them is the marker edge. -/
def syncMarker : List Bool := [true, true, true, false, false, false]

/-- The levels of a frame on the line, one a half-bit period of 10 ns: 16 zero bits, the sync marker, the payload with its
reserved bits at 0 and the CRC, each field least significant bit first. -/
def frameLine (f : FedFrame) : List Bool :=
  (List.replicate 16 false).flatMap manchester ++ syncMarker ++
    ((List.range 144).map (bitOf (payloadOf f)) ++ (List.range 16).map (bitOf f.crc)).flatMap manchester

/-- The level of a running transmitter `n` half-bit periods after it began frame `f`: idle, high, after the frame. -/
def lineLevel (f : FedFrame) (n : Nat) : Bool := (frameLine f).getD n true

/-- The two frames an instant sends, one an output; in overflow both outputs stay at idle (R361). -/
def sendWith (s : State) (f : FedFrame) (crc : FedFrame → FedFrame) : State :=
  if s.fed.ovf then s
  else { s with fed := { s.fed with sent := [crc { f with out := 0 }, crc { f with out := 1 }] } }

/-- Frames the device originates (R362). -/
def sendBoth (s : State) (f : FedFrame) : State := sendWith s f sealFrame

/-- Federation event 0x07 on every controller (R157). -/
def fedEvent (s : State) : State := raiseAll s (allCtrls s) (vendor 7 0xC4)

/-- A patch of FED_CABLE_NS acts from the next frame received (R62); the Maquette has none (R65). -/
def takeCable (s : State) : State :=
  { s with fed := { s.fed with cable := if s.boot.maquette then 0 else s.arm.cfg.dev.cable } }

/-! ### Time, identity and take markers (R360, R361, R369, R372) -/

/-- The device's time becomes `t`: a difference above 1 µs is a step, counted and recorded (R369). -/
def setFedTime (s : State) (t : Nat) : State :=
  let d : Int := (t : Int) - (s.fed.time : Int)
  let s1 := { s with fed := { s.fed with time := t, adj := 0, adjUs := 0 } }
  if d.natAbs ≤ 1000 then s1
  else devRec { s1 with fed := { s1.fed with steps := satAdd 32 s1.fed.steps 1 } } 0x92 4 0
    (d % ((2 ^ 64 : Nat) : Int)).toNat

/-- The time follows the `t_in` of an accepted marker: by rate adjustment over the next millisecond, by a step where the
difference is above 1 µs (R365, R369). -/
def trackTime (s : State) (t : Nat) : State :=
  let d : Int := (t : Int) - (s.fed.time : Int)
  if d.natAbs ≤ 1000 then { s with fed := { s.fed with adj := d, adjUs := 1000 } } else setFedTime s t

/-- A take marker is accepted (R372). -/
def takeAccept (s : State) (id kind tk : Nat) : State :=
  if s.fed.ovf || (s.fed.tkValid && s.fed.tkId == id && s.fed.tkKind == kind) then s
  else devRec { s with fed := { s.fed with tkId := id, tkKind := kind, tkValid := true, tkT := tk } } 0x93 2 kind tk id

/-- The ID a frame gives (R360, R361): a change of it is an event and a record, overflow an event. -/
def setId (s : State) (f : FedFrame) : State :=
  if fedMode s != 1 then s
  else
    let id := 2 * f.pid + 1 + f.out
    let over_ := decide (8190 < id)
    let changed := s.fed.idSet && s.fed.id != id
    let s1 := { s with fed := { s.fed with id := id, idSet := true, idValid := !over_, ovf := over_ } }
    let s2 := if changed then devRec (fedEvent s1) 0x91 3 0 0 id else s1
    if over_ && !s.fed.ovf then glbSet (if changed then s2 else fedEvent s2) 8 else s2

/-- What an accepted frame sets (R364, R365, R368), `set` how the time follows it. TRACE is the frame's; a root on a
reference originates it as 1 while it is locked (R366, R376). -/
def takeFrame (set : State → Nat → State) (s : State) (f : FedFrame) (edge : Nat) : State :=
  let tin := f.time + 400 * f.hop + f.cdly + s.fed.cable
  let s1 := set (setId s f) tin
  let s2 := { s1 with fed := { s1.fed with
    trace := f.trace || fedMode s == 3, hopRx := f.hop, cdlyRx := f.cdly, lastTime := f.time, lastEdge := edge, missRun := 0
    silentRun := true, hasFrame := true, badFwd := false } }
  if f.tkv && fedMode s == 1 then takeAccept s2 f.tkid f.tkkind (f.time - f.tkrep * 1000000) else s2

/-! ### Frames of the root (R366, R372, R373) -/

/-- The take marker of the next frame (R372, R373): the one repeating, or a waiting one whose 100 µs
have passed. Answers the marker's fields and the state after it. -/
def nextMarker (s : State) (time : Nat) : Option (Nat × Nat × Nat) × State :=
  match s.fed.rep with
  | some (id, kind, r) =>
    (some (id, kind, r), { s with fed := { s.fed with rep := if r ≥ 7 then none else some (id, kind, r + 1) } })
  | none => match s.fed.wait with
    | some (c, cid, id, kind, from_) =>
      if s.nowUs < from_ + 100 then (none, s)
      else
        let s1 := { s with fed := { s.fed with wait := none, rep := some (id, kind, 1) } }
        let s2 := adone (takeAccept s1 id kind time) c cid .success (time % 2 ^ 32) (time / 2 ^ 32)
        (some (id, kind, 0), s2)
    | none => (none, s)

/-- The Set Times whose 2 ms have passed are applied at the marker edge, in their order (R373). -/
def applySetTime (s : State) : State :=
  let due := s.fed.setT.filter (fun x => decide (x.2.2.2 + 2000 ≤ s.nowUs))
  let s1 := { s with fed := { s.fed with setT := s.fed.setT.filter (fun x => !decide (x.2.2.2 + 2000 ≤ s.nowUs)) } }
  due.foldl (fun t x => adone (setFedTime t x.2.2.1) x.1 x.2.1 .success (x.2.2.1 % 2 ^ 32) (x.2.2.1 / 2 ^ 32)) s1

/-- A root sends its frames with TIME `t` (R366). -/
def rootSend (s : State) (t : Nat) (trace : Bool) : State :=
  let r := nextMarker s t
  let m := r.1.getD (0, 0, 0)
  sendBoth r.2 ⟨1, trace, r.1.isSome, 0, 0, 0, 0, 0, t, m.1, m.2.1, m.2.2, 0⟩

/-! ### The input (R364, R366, R368) -/

/-- The next expected edge: 1 ms at the learned rate after the last accepted or extrapolated one (R368). -/
def expected (s : State) : Nat := s.fed.lastEdge + s.fed.spacing

/-- A locked member forwards an accepted frame (R363, R364); a root on a reference sends its own (R366). -/
def forward (s : State) (f : FedFrame) : State :=
  if fedMode s == 3 then rootSend s (f.time + 400 * f.hop + f.cdly + s.fed.cable + 400) true
  else sendWith s { f with hop := f.hop + 1, cdly := f.cdly + s.fed.cable, pid := s.fed.id } (regenFrame f)

/-- The rate is learned from the spacing of two accepted markers (R365, R368). -/
def learn (s : State) (edge : Nat) : Nat := if s.fed.missRun == 0 then edge - s.fed.lastEdge else s.fed.spacing

/-- A good marker in the window (R368). -/
def acceptMarker (s : State) (f : FedFrame) (edge : Nat) : State :=
  let d : Int := (edge : Int) - (expected s : Int)
  let s1 := takeFrame trackTime { s with fed := { s.fed with spacing := learn s edge } } f edge
  forward { s1 with fed := { s1.fed with off := d, maxOff := max s1.fed.maxOff d.natAbs } } f

/-- A run of three relocks (R368, R370). -/
def relock (s : State) (f : FedFrame) (edge : Nat) : State :=
  let s1 := takeFrame setFedTime { s with fed := { s.fed with
    locked := true, loss := false, run := 0, spacing := edge - s.fed.lastEdge } } f edge
  fedEvent s1

/-- A corrupted frame in the window of a locked member is on its way before its CRC is known: it leaves corrupted (R363,
R364). -/
def forwardBad (s : State) (f : FedFrame) : State :=
  if fedMode s != 1 then s else forward { s with fed := { s.fed with badFwd := true } } f

/-- A frame's marker reaches the input (R368). -/
def markerIn (s : State) (f : FedFrame) (edge : Nat) : State :=
  let v := s.fed
  let good := goodFrame f
  let s0 := if good then s else { s with fed := { v with crcErr := satAdd 32 v.crcErr 1 } }
  let e := expected s
  if v.locked then
    if edge + 40 < e then
      if good && v.missRun != 0 then { s0 with fed := { s0.fed with late := satAdd 32 v.late 1 } }
      else { s0 with fed := { s0.fed with early := satAdd 32 v.early 1 } }
    else if !good then (if e + 40 < edge then s0 else forwardBad s0 f)
    else if e + 40 < edge then { s0 with fed := { s0.fed with late := satAdd 32 v.late 1 } }
    else acceptMarker s0 f edge
  else if !good then { s0 with fed := { s0.fed with run := 0 } }
  else
    let near := decide (v.lastEdge + 1000000 ≤ edge + 40) && decide (edge ≤ v.lastEdge + 1000040) && v.run != 0
    let r := if near then v.run + 1 else 1
    if 3 ≤ r then relock s0 f edge
    else { s0 with fed := { s0.fed with run := r, lastEdge := edge } }

def execFederationFrameReceived (f : FedFrame) (edge : Nat) (s : State) : Out :=
  if !s.fed.unit || (fedMode s != 1 && fedMode s != 3) then ok s else ok (markerIn (takeCable s) f edge)

/-- A frame sent from the device's own or extrapolated time (R366, R368): TRACE and TKV 0, HOP and CDLY
from those last received; a root sends its own zeros. -/
def freeFrame (s : State) (t : Nat) : FedFrame :=
  if fedMode s == 1 then ⟨1, false, false, 0, s.fed.hopRx + 1, 0, s.fed.id, s.fed.cdlyRx + s.fed.cable, t, 0, 0, 0, 0⟩
  else ⟨1, false, false, 0, 0, 0, 0, 0, t, 0, 0, 0, 0⟩

/-- TIME of the frame of a missed marker: the previous one plus 1 ms (R368); a root's TIME is 400 ns
after its extrapolated edge (R366). -/
def missedTime (s : State) : Nat :=
  let t := s.fed.lastTime + 1000000
  if fedMode s == 1 then t else t + 400 * s.fed.hopRx + s.fed.cdlyRx + s.fed.cable + 400

/-- What leaves in place of a missed marker (R366, R368, R372): nothing more where a corrupted frame has been forwarded;
a root's frames go on, a take marker's repeats among them. -/
def missSend (s : State) (f : FedFrame) (t : Nat) : State :=
  if s.fed.badFwd then { s with fed := { s.fed with badFwd := false } }
  else if fedMode s == 3 then rootSend s t false
  else sendBoth s f

/-- No good marker came by E + 40 ns (R368, R370). -/
def missMarker (s : State) (silent : Bool) : State :=
  let v := s.fed
  let m := v.missRun + 1
  let quiet := v.silentRun && silent
  let s1 := { s with fed := { v with
    missed := satAdd 32 v.missed 1, missRun := m, lastEdge := expected s, lastTime := v.lastTime + 1000000
    silentRun := quiet } }
  let s2 := missSend s1 (freeFrame s (missedTime s)) (missedTime s)
  if m < 4 then s2
  else
    let s3 := { s2 with fed := { s2.fed with
      locked := false, run := 0, trace := s2.fed.trace && fedMode s != 3, nextAt := s2.fed.time + 1000000, unlocks := satAdd 32 s2.fed.unlocks 1, loss := quiet } }
    devRec (fedEvent (glbSet s3 8)) 0x90 4 0 s3.fed.time

def execFederationWindowMiss (silent : Bool) (s : State) : Out :=
  if !s.fed.unit || !s.fed.locked then ok s else ok (missMarker s silent)

/-- The instant of federation time an originated frame is due at: a whole number of milliseconds after the one before
(R362, R367), or the time a Set Time has just set (R373). -/
def dueTime (s t : State) : Nat :=
  if t.fed.setT.length != s.fed.setT.length then t.fed.time else s.fed.time - (s.fed.time - s.fed.nextAt) % 1000000

/-- TIME of an originated frame that is due at `due` (R366, R368): a root's is that instant; a member sends the previous
TIME plus 1 ms, and its own time where it has never had a frame. -/
def sentTime (s : State) (due : Nat) : Nat :=
  if fedMode s == 1 && s.fed.hasFrame then s.fed.lastTime + 1000000 else due

/-- A root on its own time, or a device that is not locked, originates a frame each millisecond (R362, R366 to
R368). -/
def execFederationFrameOriginate (s : State) : Out :=
  if !s.fed.unit || fedMode s == 0 || (fedMode s != 2 && s.fed.locked) || s.fed.time < s.fed.nextAt then ok s
  else
    let t := applySetTime s
    let due := dueTime s t
    let x := sentTime s due
    let s1 := { t with fed := { t.fed with nextAt := due + 1000000, lastTime := if fedMode s == 1 then x else t.fed.lastTime } }
    if fedMode s == 1 then ok (sendBoth s1 (freeFrame s1 x)) else ok (rootSend s1 x (fedMode s == 2))

/-! ### Federation Control (R373) -/

/-- Federation Control is an admin command of the PF0s that the Maquette does not accept. -/
def adminFed (s : State) (c cid : Nat) (body : State → State) : Out :=
  adminPf0 s c cid (fun t => if t.boot.maquette then adone t c cid .invalidOpcode else body t)

/-- Federation Control, take marker: the checks in their order; the command waits for its frame. -/
def takeMarker (s : State) (c cid tkid tkkind rsv : Nat) : State :=
  if rsv != 0 || tkid % 2 ^ 24 == 0 || 3 ≤ tkkind then adone s c cid .invalidField
  else if fedMode s != 2 && fedMode s != 3 then adone s c cid .cmdSeq
  else if !(fedTraced s) then adone s c cid .fedUnlocked
  else if s.fed.wait.isSome then adone s c cid .cmdSeq
  else { s with fed := { s.fed with wait := some (c, cid, tkid, tkkind, s.nowUs) } }

def execFederationControlTakeMarker (c cid tkid tkkind rsv : Nat) (s : State) : Out :=
  adminFed s c cid (fun t => takeMarker t c cid tkid tkkind rsv)

/-- Federation Control, set time. -/
def setTimeCmd (s : State) (c cid time rsv : Nat) : State :=
  if rsv != 0 then adone s c cid .invalidField
  else if fedMode s != 2 && fedMode s != 3 then adone s c cid .cmdSeq
  else if fedMode s == 3 then adone s c cid .invalidField
  else { s with fed := { s.fed with setT := s.fed.setT ++ [(c, cid, time % 2 ^ 64, s.nowUs)] } }

def execFederationControlSetTime (c cid time rsv : Nat) (s : State) : Out :=
  adminFed s c cid (fun t => setTimeCmd t c cid time rsv)

end Sys2Proof.Machine
end

