-- ==== Sys2Proof/Machine/Io.lean ====
section
/-! DEFINITION. The I/O commands of R135: each row is one entry that lands in its SQ's staging
store, followed by one grant and the granted command's start (notes/assumptions/3.md). -/

namespace Sys2Proof.Machine

/-- Flush, 00h (R120). -/
def execFlush (c q cid nsid : Nat) (s : State) : Out :=
  ok (submitIo s c q { op := .flush, cid := cid, nsid := nsid })

/-- Write, 01h (R135, R170). -/
def execWrite (c q cid nsid slba nlb : Nat) (pi : PiArgs) (s : State) : Out :=
  ok (submitIo s c q { op := .write, cid := cid, nsid := nsid, slba := slba, nlb := nlb, pi := pi })

/-- Read, 02h (R33, R34, R186). -/
def execRead (c q cid nsid slba nlb : Nat) (pi : PiArgs) (s : State) : Out :=
  ok (submitIo s c q { op := .read, cid := cid, nsid := nsid, slba := slba, nlb := nlb, pi := pi })

/-- Write Uncorrectable, 04h (R135, R181). -/
def execWriteUncorrectable (c q cid nsid slba nlb : Nat) (s : State) : Out :=
  ok (submitIo s c q { op := .writeUncorrectable, cid := cid, nsid := nsid, slba := slba, nlb := nlb })

/-- Compare, 05h (R509). -/
def execCompare (c q cid nsid slba nlb : Nat) (pi : PiArgs) (s : State) : Out :=
  ok (submitIo s c q { op := .compare, cid := cid, nsid := nsid, slba := slba, nlb := nlb, pi := pi })

/-- Write Zeroes, 08h (R185, R510). -/
def execWriteZeroes (c q cid nsid slba nlb : Nat) (deac : Bool) (pi : PiArgs) (s : State) : Out :=
  ok (submitIo s c q
    { op := .writeZeroes, cid := cid, nsid := nsid, slba := slba, nlb := nlb, deac := deac, pi := pi })

/-- Dataset Management, 09h (R135, R185). -/
def execDatasetManagement (c q cid nsid : Nat) (ad : Bool) (ranges : List (Nat × Nat)) (s : State) :
    Out :=
  ok (submitIo s c q { op := .datasetManagement, cid := cid, nsid := nsid, ad := ad, ranges := ranges })

/-- Verify, 0Ch (R135). -/
def execVerify (c q cid nsid slba nlb : Nat) (pi : PiArgs) (s : State) : Out :=
  ok (submitIo s c q { op := .verify, cid := cid, nsid := nsid, slba := slba, nlb := nlb, pi := pi })

/-- Zone Management Send, Open (R167 to R169). -/
def execZoneOpen (c q cid nsid slba : Nat) (selectAll : Bool) (s : State) : Out :=
  ok (submitIo s c q { op := .zoneOpen, cid := cid, nsid := nsid, slba := slba, selectAll := selectAll })

/-- Zone Management Send, Close (R167). -/
def execZoneClose (c q cid nsid slba : Nat) (selectAll : Bool) (s : State) : Out :=
  ok (submitIo s c q { op := .zoneClose, cid := cid, nsid := nsid, slba := slba, selectAll := selectAll })

/-- Zone Management Send, Finish (R167, R171). -/
def execZoneFinish (c q cid nsid slba : Nat) (selectAll : Bool) (s : State) : Out :=
  ok (submitIo s c q { op := .zoneFinish, cid := cid, nsid := nsid, slba := slba, selectAll := selectAll })

/-- Zone Management Send, Reset (R187). -/
def execZoneReset (c q cid nsid slba : Nat) (selectAll : Bool) (s : State) : Out :=
  ok (submitIo s c q { op := .zoneReset, cid := cid, nsid := nsid, slba := slba, selectAll := selectAll })

/-- Zone Management Send, Offline (R167). -/
def execZoneOffline (c q cid nsid slba : Nat) (selectAll : Bool) (s : State) : Out :=
  ok (submitIo s c q { op := .zoneOffline, cid := cid, nsid := nsid, slba := slba, selectAll := selectAll })

/-- Zone Management Receive, Report Zones (R163, R168). -/
def execZoneManagementReceive (c q cid nsid slba zra zrasf : Nat) (partialRep : Bool) (numd : Nat)
    (s : State) : Out :=
  ok (submitIo s c q { op := .zoneReceive, cid := cid, nsid := nsid, slba := slba, zra := zra
                       zrasf := zrasf, partialRep := partialRep, numd := numd })

/-- Zone Append, 7Dh (R113, R148, R170). -/
def execZoneAppend (c q cid nsid zslba nlb : Nat) (piremap : Bool) (pi : PiArgs) (s : State) : Out :=
  ok (submitIo s c q
    { op := .zoneAppend, cid := cid, nsid := nsid, slba := zslba, nlb := nlb, piremap := piremap, pi := pi })

/-- Frame Append, 0x81 (R174 to R176). -/
def execFrameAppend (c q cid nsid zslba nlb frame : Nat) (fstart : Bool) (hflags fuse : Nat)
    (piremap : Bool) (pi : PiArgs) (s : State) : Out :=
  ok (submitIo s c q
    { op := .frameAppend, cid := cid, nsid := nsid, slba := zslba, nlb := nlb, frame := frame
      fstart := fstart, hflags := hflags, fuse := fuse, piremap := piremap, pi := pi })

/-- Zone Seal, 0x88 (R318 to R326). -/
def execZoneSeal (c q cid nsid zslba nonce fuse rsv : Nat) (s : State) : Out :=
  ok (submitIo s c q
    { op := .zoneSeal, cid := cid, nsid := nsid, slba := zslba, nonce := nonce, fuse := fuse, rsv := rsv })

end Sys2Proof.Machine
end

