-- ==== Sys2Proof/Machine/Flags.lean ====
section
/-! DEFINITION. What the status and summary registers show of the state (R66, R215, R236, R255, R293,
R329, R358, R376, R393, R406, R426, R439, R440, R453, R485 to R490), ALERT# among them. A register is
packed from its fields; a field wider than its place keeps its low bits, and a counter that the table
makes saturate does. -/

namespace Sys2Proof.Machine

/-- A register packed from fields (lowest bit, width, value). -/
def pk (l : List (Nat × Nat × Nat)) : Nat := sumBy (fun f : Nat × Nat × Nat => f.2.2 % 2 ^ f.2.1 * 2 ^ f.1) l

/-- Two halves of 16 bits, each saturating. -/
def halves (lo hi : Nat) : Nat := satTo 16 lo + satTo 16 hi * 65536

/-! ### Status aggregation (R485 to R490) -/

/-- Bit j of GLB_NCHSUM0 and GLB_NCHSUM1 as one mask of 64 niches. -/
def nchSum (s : State) : Nat :=
  maskOf ((List.range 64).filter (fun n => (List.range 8).any (fun b =>
    bitOf (getNch s n).istat b && bitOf (getNch s n).ien b)))

/-- GLB_CHNSUM: channels that are degraded or lost. -/
def chnSum (s : State) : Nat :=
  maskOf ((List.range 32).filter (fun n => chanDegraded (getChan s n) || (getChan s n).state == 3))

/-- GLB_ISTAT: the latched bits, and bit 13 as a level (R486). -/
def istatView (s : State) : Nat :=
  if nchSum s == 0 then clrBit s.glb.istat 13 else setBit s.glb.istat 13

/-- GLB_ALERT.MASKED (R487, R488): 0 while the control island is in reset. -/
def masked (s : State) : Bool :=
  islandUp s .control && (List.range 15).any (fun b => bitOf (istatView s) b && bitOf s.glb.ien b)

/-- ALERT# (R488): BOOTFLASH does not assert it. -/
def alertPin (s : State) : Bool :=
  s.glb.pwrFault || s.glb.fuseFault || s.clk.rcoFail || s.thm.halted || s.thm.trippedBit || masked s

/-- GLB_ALERT (R487). -/
def alertView (s : State) : Nat :=
  pk [(0, 1, b2n s.glb.pwrFault), (1, 1, b2n s.glb.fuseFault), (2, 1, b2n s.glb.bootFlash), (3, 1, b2n s.clk.rcoFail),
    (4, 1, b2n s.thm.halted), (5, 1, b2n s.thm.trippedBit), (6, 1, b2n (masked s)), (7, 1, b2n (alertPin s))]

/-- GLB_STATUS. -/
def glbStatus (s : State) : Nat :=
  pk [(0, 1, b2n s.glb.released), (1, 1, b2n s.boot.maquette), (2, 1, b2n s.boot.romRec), (3, 1, b2n s.clk.fallback),
    (4, 1, b2n s.glb.adminOnly), (5, 1, b2n s.thm.stopping), (6, 1, b2n s.hold.brace), (7, 1, b2n (degraded s)),
    (8, 3, shownPs s), (11, 2, s.board.straps.lanes)]

/-- One half of GLB_PORT. -/
def portView (s : State) (p : Nat) : Nat :=
  let v := getPort s p
  if v.dlup then pk [(0, 3, v.gen), (3, 5, v.width), (8, 2, v.mps), (10, 1, 1)] else pk [(8, 2, v.mps)]

/-- The registers of the GLB block. -/
def readGlb (s : State) (o : Nat) : Nat :=
  let g := s.glb
  match o with
  | 0x00 => pk [(0, 8, s.board.fuses.member), (8, 4, s.board.fuses.stepping), (16, 16, 0x0A24)]
  | 0x04 => pk [(0, 6, 32), (6, 6, 32), (12, 10, 256), (22, 5, 16), (27, 5, (ranksIn s.board.fuses.rankEn).length - 1)]
  | 0x08 => if s.boot.romRec then 0 else s.boot.fwVer % 2 ^ 32
  | 0x0C => if s.boot.romRec then 0 else s.boot.fwVer / 2 ^ 32 % 2 ^ 32
  | 0x10 => glbStatus s
  | 0x14 => portView s 0 + portView s 1 * 65536
  | 0x18 => pk [(0, 4, g.reset), (8, 8, g.devwarm), (16, 8, g.wdog)]
  | 0x20 => istatView s
  | 0x24 => g.ien
  | 0x28 => alertView s
  | 0x30 => nchSum s % 2 ^ 32
  | 0x34 => nchSum s / 2 ^ 32
  | 0x38 => chnSum s
  | 0x40 => pk [(0, 22, g.accOff), (22, 1, g.accPort), (23, 1, b2n g.accWrite), (24, 3, g.accKind)]
  | 0x44 => halves g.accReads g.accWrites
  | 0x50 => tget 0 g.scratch 0
  | 0x54 => tget 0 g.scratch 1
  | 0x58 => tget 0 g.scratch 2
  | 0x5C => tget 0 g.scratch 3
  | _ => 0

/-- The window of niche `n` (R489, R490); a niche not valid reads 0. -/
def readNch (s : State) (n o : Nat) : Nat :=
  let e := nicheCfg s n
  let v := getNch s n
  let live := (liveOf s n).map (getComm s)
  let allot := fun p => ((ctrlsOf s n).find? (fun c => portOf c == p)).elim 0 (fun c => (getCtrl s c).allot)
  let ranks := ranksIn e.rankSet
  if !(nicheValid s n) then 0
  else match o with
  | 0x00 => pk [(0, 1, 1), (1, 1, b2n v.readOnly), (2, 1, b2n e.selfDesc), (3, 1, b2n (v.san == .block || v.san == .crypto)),
      (4, 1, b2n v.fgGc), (5, 1, b2n (e.sharedSet != 0)), (6, 1, b2n e.urgentOk), (7, 1, b2n e.commOk),
      (8, 1, b2n e.bound0), (9, 1, b2n e.bound1), (10, 6, e.fn0), (16, 6, e.fn1)]
  | 0x04 => pk [(0, 14, e.qbase), (14, 15, e.qcount)]
  | 0x08 => pk [(0, 15, allot 0), (15, 15, allot 1)]
  | 0x0C => halves (tkeys s.sqs (fun k q => nicheOfSq s k == n && q.frz.isSome)).length
      (tkeys s.zones (fun k z => (getNs s (k / 131072)).attr.niche == n && !z.held.isEmpty)).length
  | 0x10 => pk [(0, 7, live.length), (7, 7, (live.filter (·.st == .atRisk)).length),
      (14, 7, (live.filter (·.st == .breached)).length),
      (21, 7, (tkeys s.comms (fun h c => c.used && c.st == .closed && handleNiche h == n)).length)]
  | 0x14 => halves (sumBy (·.rate) live) (sumBy (·.rdecl) live)
  | 0x18 => pk [(0, 11, ((setDies s n).filter (·.retired)).length), (11, 6, minBy (nk s) 0 ranks)]
  | 0x1C => maskOf (narrowRanks s n)
  | 0x20 => sumBy (erasedCount s n) ranks
  | 0x24 => sumBy (fun k => (pendingRows s n k).length) ranks
  | 0x30 => v.istat
  | 0x34 => v.ien
  | _ => 0

/-! ### Control island: ARM and CMS -/

def errView (e : ValErr) : Nat := pk [(0, 8, e.code), (8, 4, e.sect), (12, 8, e.rule)]

/-- The ARM block (R66). -/
def readArm (s : State) (o : Nat) : Nat :=
  let a := s.arm
  match o with
  | 0x00 => pk [(0, 2, a.src), (2, 1, b2n (!a.patched.isEmpty)), (3, 1, b2n (a.src != 2 && a.mirror == some a.seq)),
      (4, 1, b2n a.stage.isSome), (5, 1, (a.stage.getD (0, 0)).2), (6, 1, (a.stage.getD (0, 0)).1),
      (8, 7, (validNiches s).length), (16, 11, (a.cfg.slots.filter (·.valid)).length)]
  | 0x04 => a.seq % 2 ^ 32
  | 0x08 => a.seq / 2 ^ 32 % 2 ^ 32
  | 0x0C => pk [(0, 16, a.structLevel), (16, 16, a.armif)]
  | 0x10 => errView a.errA
  | 0x14 => errView a.errB
  | 0x18 => pk [(0, 18, a.errA.off)]
  | 0x1C => pk [(0, 18, a.errB.off)]
  | 0x20 => satTo 16 a.patchCnt
  | 0x24 => pk [(0, 16, a.epoch), (16, 16, s.board.fuses.armEpoch)]
  | _ => 0

/-- The left side of the check 2 bus sum in units of 10 MB/s, rounded down (R201, R215). -/
def busDemand (s : State) : Nat :=
  let l := othersOf s none
  let w := sumRat (fun c : Charge => c.r * (spread s c * (64 * cwBytes c.fmt2 + 256) : Nat)) l
  let r := sumBy (fun c : Charge => c.rd * (cwBytes c.fmt2 + 256) * 64 * lcm30) l
  if !s.glb.released then 0 else (w.floor.toNat + r + 2000 * 262144 * lcm30) / (10 * 262144 * lcm30)

/-- The CMS block (R215). -/
def readCms (s : State) (o : Nat) : Nat :=
  let live := (liveComms s).map (getComm s)
  match o with
  | 0x00 => pk [(0, 9, live.length), (9, 9, (live.filter (·.st == .atRisk)).length),
      (18, 9, (live.filter (·.st == .breached)).length), (27, 1, b2n s.cms.reeval)]
  | 0x04 => halves (sumBy (·.rate) live) (sumBy (·.rdecl) live)
  | 0x08 => halves (portCapw (getPort s 0)) (portCapw (getPort s 1))
  | 0x0C => halves s.cms.wTherm s.cms.wState
  | 0x10 => pk [(0, 8, s.cms.dCap),
      (16, 16, if s.board.straps.holdup == 0 then 0 else satTo 16 (tHu s s.hold.cmeas s.arm.cfg.dev.huVchg / 10))]
  | 0x14 => halves (busDemand s) (bch s / 10)
  | 0x18 => halves s.cms.atRiskEv s.cms.breachEv
  | _ => 0

/-! ### Datapath: SCH, POOL, PAT -/

/-- The rank registers of the SCH block (R236). -/
def readRank (s : State) (k o : Nat) : Nat :=
  let cal := calOf s k
  match o with
  | 0 => pk [(0, 6, nk s k), (6, 1, b2n (charged s k)), (7, 1, b2n ((plinthRanks s).1 == k || (plinthRanks s).2 == k)),
      (8, 8, satTo 8 (eligibles s k).length)]
  | 4 => pk [(0, 11, ticksOf cal (fun e => e % 16 == 1)), (11, 11, ticksOf cal (fun e => e / 1024 == 1))]
  | 8 => pk [(0, 11, ticksOf cal (fun e => e / 1024 == 0 && (e % 16 == 2 || e % 16 == 6 || e % 16 == 8 || e % 16 == 9))),
      (11, 11, ticksOf cal (fun e => e % 16 == 0))]
  | _ => satTo 16 (tget 65535 s.sched.minSlack k)

/-- The SCH block (R236): what the Armature gives it is taken at release, and reads 0 before. -/
def readSch (s : State) (o : Nat) : Nat :=
  let c := s.arm.cfg
  let d := s.sched
  if !s.glb.released then
    (if decide (0x100 ≤ o) && decide (o < 0x300) && o % 16 == 12 then 65535 else 0)
  else match o with
  | 0x00 => pk [(0, 10, c.tick), (10, 10, c.u), (20, 10, c.rho), (30, 1, b2n (slowDie s))]
  | 0x04 => pk [(0, 1, c.urgPolicy), (1, 4, c.urgMax), (5, 4, kC s), (9, 10, satTo 10 (sCost s)), (19, 10, satTo 10 (wD s))]
  | 0x08 => halves c.dev.icc (iccUsed s)
  | 0x0C => halves c.dev.iccq (iccqUsed s)
  | 0x10 => halves (tokenFloor s) d.peak
  | 0x14 => halves d.suspends d.urgOver
  | 0x18 => halves d.miss d.tokwait
  | _ => if decide (0x100 ≤ o) && decide (o < 0x300) then readRank s ((o - 0x100) / 16) (o % 16) else 0

/-- The class a parked requester's request has as its first choice (R287, R289). -/
def firstChoice (s : State) (owner : Nat) : Option Nat :=
  if owner < copyOwner 0 then (getCmd s owner).want.head?.map (·.1)
  else if owner < gcOwner 0 then some 3
  else (s.pool.ctl.find? (fun r => ctlOwner r.num == owner)).bind (fun r => r.want.head?.map (·.1))

/-- POOL_* of niche `n`, class `c` (R293). -/
def readRegion (s : State) (n c o : Nat) : Nat :=
  let v := tget {} s.pool.cnt (n * 8 + c)
  let x := getNch s n
  match o with
  | 0 => halves (poolBase s n c) (poolTotal s n c)
  | 4 => halves (poolFree s n c) (v.minFree.getD 65535)
  | 8 => halves ((x.parkConf ++ x.parkOther).filter (fun i => firstChoice s i == some c)).length v.fails
  | _ => satTo 16 v.fallbacks

/-- The registers of niche `n` in the POOL block. -/
def readPoolNiche (s : State) (n o : Nat) : Nat :=
  let x := getNch s n
  if !(hasPool s n) then 0
  else if o < 0x50 then readRegion s n (o / 16) (o % 16)
  else if o == 0x50 then halves (outstanding s n none / 4096) (freeBulk s n / 4096)
  else if o == 0x54 then pk [(0, 16, x.parkConf.length + x.parkOther.length), (16, 1, b2n (!x.parkOther.isEmpty))]
  else 0

/-- Pool space in 4 KiB units, carved and free. -/
def carved (s : State) : Nat :=
  sumBy (fun n => sumBy (fun c => poolTotal s n c * 4 ^ c) (List.range 5)) (validNiches s)

def poolFreeAll (s : State) : Nat :=
  sumBy (fun n => sumBy (fun c => poolFree s n c * 4 ^ c) (List.range 5)) (validNiches s)

/-- The dirty ceiling of R206 in 4 KiB units; 0xFFFF while hold-up is degraded. -/
def dirtyLimit (s : State) : Nat :=
  if degraded s then 65535 else (s.cms.dCap * 1048576 - outstandingAll s) / 4096

/-- The POOL block (R293). -/
def readPool (s : State) (o : Nat) : Nat :=
  let p := s.pool
  match o with
  | 0x00 => pk [(0, 16, carved s), (16, 7, ((validNiches s).filter (hasPool s)).length), (23, 1, b2n s.boot.maquette)]
  | 0x04 => halves (poolFreeAll s) (dirtyBytes s / 4096)
  | 0x08 => satTo 16 (dirtyLimit s)
  | 0x0C => pk [(0, 16, satTo 16 p.badFree), (16, 6, p.badNiche), (22, 3, p.badClass), (25, 1, p.badKind)]
  | _ => if decide (0x1000 ≤ o) && decide (o < 0x3000) then readPoolNiche s ((o - 0x1000) / 128) (o % 128) else 0

/-- Whether a persist of the ring waits or runs (R447, R453). -/
def persisting (s : State) : Bool :=
  s.plinth.jobs.any (fun j => j == .patina) ||
    s.stripes.any (fun kv => kv.2.pl == some .patina && kv.2.phase != .done)

/-- The PAT block (R453). -/
def readPat (s : State) (o : Nat) : Nat :=
  let p := s.pat
  match o with
  | 0x00 => pk [(0, 15, p.ring.length), (15, 1, b2n (decide (16384 ≤ p.ring.length))), (16, 1, b2n p.premount),
      (17, 1, b2n (persisting s))]
  | 0x04 => pk [(0, 14, p.last.getD 0)]
  | 0x08 => p.events % 2 ^ 32
  | 0x0C => p.pwrcyc % 2 ^ 32
  | 0x10 => hoursOf s.opUs % 2 ^ 32
  | 0x14 => fracOf s.opUs
  | 0x18 => pk [(0, 16, satTo 16 p.drops), (16, 3, p.dropMax)]
  | 0x1C => halves p.overwrites p.repeats
  | 0x20 => halves (p.persistUs.elim 65535 (fun t => (s.nowUs - t) / 1000)) p.count
  | _ => 0

/-! ### Cipher, channels, federation -/

/-- A mask of 32 key slots from `32 m` on. -/
def keyMask32 (s : State) (m : Nat) (p : Key → Bool) : Nat :=
  maskOf ((List.range 32).filter (fun j => p (getKey s (32 * m + j))))

/-- A word of the transport key shown, big-endian: Q.x, then Q.y (R329). -/
def tkWord (x : Cipher) (i : Nat) : Nat :=
  (if i < 12 then x.tkX else x.tkY) / 2 ^ (32 * (11 - i % 12)) % 2 ^ 32

/-- XCR_ENGUTILe (R329): the share of the last millisecond's XCLK in which a block entered, and the longest wait of an
Urgent segment. -/
def engUtil (s : State) (e : Nat) : Nat :=
  let v := s.cipher.engs.getD e {}
  let n := sumBy (fun r : Nat × Nat => if s.nowUs < r.1 + 1000 then r.2 else 0) v.recent
  halves (satTo 16 (n * 65536 / (if s.clk.fallback then 400000 else 1200000))) (satTo 16 v.urgWait)

/-- The XCR block (R329). -/
def readXcr (s : State) (o : Nat) : Nat :=
  let x := s.cipher
  match o with
  | 0x00 => pk [(0, 6, if s.pm.domXcr && x.drbg != 0 then 63 else 0), (6, 2, x.trng), (8, 2, x.drbg), (10, 1, b2n x.seedSrc),
      (11, 1, b2n x.ktableOk), (12, 1, b2n x.tkBusy)]
  | 0x30 => pk [(0, 8, satTo 8 x.rct), (8, 8, satTo 8 x.apt), (16, 8, satTo 8 x.sourceRestarts)]
  | 0x34 => halves x.reseeds x.maskSeeds
  | 0x38 => pk [(0, 8, x.generated), (8, 8, x.destroyed), (16, 8, x.imports), (24, 8, x.importFails)]
  | 0x3C => satTo 32 x.seals
  | 0x70 => x.tkSel
  | _ =>
    if decide (0x10 ≤ o) && decide (o < 0x20) then keyMask32 s ((o - 0x10) / 4) (fun k => k.st != 0)
    else if decide (0x20 ≤ o) && decide (o < 0x30) then keyMask32 s ((o - 0x20) / 4) (fun k => k.st == 2)
    else if decide (0x40 ≤ o) && decide (o < 0x58) then engUtil s ((o - 0x40) / 4)
    else if decide (0x80 ≤ o) && decide (o < 0xE0) then
      (if x.tkBusy then 0 else tkWord x ((o - 0x80) / 4))
    else 0

/-- CHN_STATUS.STATE: a channel that is powered and not yet enumerated is in training (R244, R255). -/
def chanState (s : State) (n : Nat) : Nat :=
  let v := getChan s n
  if v.state == 0 && running s && chanOn s n then 1 else v.state

/-- CHN_UTIL.BUSY: the burst cycles of the last millisecond, of its 250 NCLK for each MT/s (R239, R255). -/
def chanBusy (s : State) (v : Chan) : Nat :=
  let used := sumBy (fun e : Nat × Nat => if s.nowUs < e.1 + 1000 then e.2 else 0) v.drv
  satTo 16 (used * 65536 / (250 * v.rate))

/-- The window of channel `n` (R255). -/
def readChn (s : State) (n o : Nat) : Nat :=
  let g := s.arm.cfg.geom
  let v := getChan s n
  let dies := fun p : Die → Bool => maskOf ((List.range 32).filter (fun k => p (getDie s (dk n k))))
  match o with
  | 0x00 => pk [(0, 1, g.iface), (1, 1, b2n g.buffered), (8, 8, g.mode), (16, 12, g.rate)]
  | 0x04 => pk [(0, 2, chanState s n), (2, 1, b2n (chanDegraded v)), (3, 1, b2n v.retrain), (4, 12, v.rate),
      (16, 3, v.presets.length)]
  | 0x08 => dies (·.used)
  | 0x0C => dies (·.notUsed)
  | 0x10 => pk [(0, 8, satTo 8 v.rdNow), (8, 8, satTo 8 v.wrNow), (16, 8, satTo 8 v.rdStart), (24, 8, satTo 8 v.wrStart)]
  | 0x14 => halves v.zq v.track
  | 0x18 => pk [(0, 8, satTo 8 v.stepdowns), (8, 8, satTo 8 v.quick), (16, 8, satTo 8 v.fails)]
  | 0x1C => halves v.progTo v.readTo
  | 0x20 => chanBusy s v
  | _ => 0

/-- The FED block as the reader's port sees it (R376, R484). -/
def readFed (s : State) (port o : Nat) : Nat :=
  let f := s.fed
  match o with
  | 0x00 => pk [(0, 2, fedMode s), (2, 2, fedState s), (4, 1, b2n f.locked), (5, 1, b2n f.trace), (6, 1, b2n f.loss),
      (7, 1, b2n f.clkfb), (8, 3, f.missRun), (11, 4, fedHop s)]
  | 0x04 => pk [(0, 13, f.id % 8192), (13, 1, b2n (fedIdOk s))]
  | 0x08 => f.time % 2 ^ 32
  | 0x0C => if port == 0 then f.latch0 else f.latch1
  | 0x10 => pk [(0, 16, twos 2 f.off), (16, 16, satTo 16 f.maxOff)]
  | 0x14 => halves f.missed f.crcErr
  | 0x18 => pk [(0, 16, satTo 16 f.early), (16, 8, satTo 8 f.unlocks), (24, 8, satTo 8 f.steps)]
  | 0x1C => pk [(0, 24, f.tkId), (24, 2, f.tkKind), (26, 1, b2n f.tkValid)]
  | 0x20 => f.tkT % 2 ^ 32
  | 0x24 => f.tkT / 2 ^ 32 % 2 ^ 32
  | 0x2C => satTo 16 f.late
  | _ => 0

/-! ### Housekeeping: HLD, THM, HK, FUSE -/

/-- HLD_STATUS.STATE: absent, testing, charging before release, then healthy or degraded (R341, R358). -/
def holdState (s : State) : Nat :=
  if s.board.straps.holdup == 0 then 0
  else if s.hold.testing then 4
  else if !s.glb.released then (if s.board.chgEn then 1 else 0)
  else if degraded s then 3 else 2

/-- The HLD block (R358). -/
def readHld (s : State) (o : Nat) : Nat :=
  let h := s.hold
  let b := bch s
  match o with
  | 0x00 => pk [(0, 3, holdState s), (3, 1, b2n h.brace), (4, 3, reasonCode h.reasons), (7, 1, b2n h.deferred),
      (8, 1, b2n s.board.chgEn), (9, 1, b2n s.board.pfail)]
  | 0x04 => halves h.vin h.vinMin
  | 0x08 => halves h.huv h.huvMin
  | 0x0C => halves h.cmeas (h.testedUs.elim 65535 (fun t => (s.nowUs - t) / 60000000))
  | 0x10 => halves (if b == 0 then 0 else (flBase s * b + 224 * 1048576) / (10 * b)) h.lastFl
  | 0x14 => halves h.braces h.tests
  | 0x18 => pk [(0, 2, h.outcome), (2, 1, b2n h.scan), (16, 16, satTo 16 h.scan10)]
  | 0x1C => pk [(0, 16, h.period), (16, 8, h.first), (24, 1, b2n h.run)]
  | _ => 0

/-- The THM block (R439); in the fast mode every sensor's reading is stale (R428). -/
def readThm (s : State) (o : Nat) : Nat :=
  let t := s.thm
  match o with
  | 0x00 => pk [(0, 10, t.composite), (10, 2, t.level), (12, 3, t.stage), (15, 3, t.enforced), (18, 1, b2n t.stopping)]
  | 0x04 => pk [(0, 8, t.warn), (8, 8, t.hot), (16, 8, t.crit), (24, 8, 125)]
  | 0x08 => halves (wOf t.enforced) (wOf t.stage)
  | 0x0C => halves t.graceMs (graceLeft s 65535)
  | 0x10 => sensorMask s 2
  | 0x14 => pk [(0, 1, b2n t.halted), (1, 1, b2n t.trippedBit), (8, 8, t.halts)]
  | 0x18 => pk [(0, 10, t.maxK), (16, 16, satTo 16 (t.hotUs / 1000000))]
  | _ =>
    if decide (0x100 ≤ o) && decide (o < 0x170) then
      let x := tget ({} : Sensor) t.sensors ((o - 0x100) / 4)
      pk [(0, 10, x.temp), (10, 2, if t.mode == 1 then 3 else x.st)]
    else 0

/-- The HK block (R440). -/
def readHk (s : State) (o : Nat) : Nat :=
  if o == 0 then pk [(0, 2, s.thm.mode), (2, 6, s.thm.ch), (16, 16, s.thm.rounds)]
  else if decide (0x100 ≤ o) && decide (o < 0x1C0) then
    let x := tget (0, 0) s.thm.codes ((o - 0x100) / 4)
    pk [(0, 12, x.1), (16, 16, x.2)]
  else 0

/-- A word of one of the four key hashes, byte 0 of the hash in the top bits of word 0 (R393). -/
def hashWord (s : State) (i : Nat) : Nat :=
  let f := s.board.fuses
  [f.hashArm0, f.hashArm1, f.hashFw0, f.hashFw1].getD (i / 12) 0 / 2 ^ (32 * (11 - i % 12)) % 2 ^ 32

/-- LIFECYCLE as the register encodes the thermometer code of the fuses (R378, R393). -/
def lifecycleCode (l : Nat) : Nat := if l == 7 then 3 else if l == 3 then 2 else l % 2

/-- The FUSE block (R393). -/
def readFuse (s : State) (o : Nat) : Nat :=
  let f := s.board.fuses
  let x := s.board.straps
  match o with
  | 0x00 => pk [(0, 8, f.member), (8, 2, lifecycleCode f.lifecycle), (10, 1, b2n (f.hashArm1 != 0)),
      (11, 1, b2n (f.hashFw1 != 0)), (12, 4, f.stepping)]
  | 0x04 => f.rankEn
  | 0x08 => pk [(0, 8, f.warn), (8, 8, f.hot), (16, 8, f.crit)]
  | 0x0C => pk [(0, 8, f.fwFloor), (8, 7, f.armEpoch)]
  | 0x10 => pk [(0, 2, x.boot), (2, 2, x.lanes), (4, 1, x.gen), (5, 1, x.holdup), (6, 2, x.fed), (8, 1, x.dram)]
  | 0x14 => pk [(0, 2, s.boot.fwSlot), (2, 1, b2n s.boot.fwFallback), (3, 1, b2n s.boot.armFallback), (4, 4, s.boot.restarts),
      (8, 8, s.boot.evdrop)]
  | _ => if decide (0x100 ≤ o) && decide (o < 0x1C0) then hashWord s ((o - 0x100) / 4) else 0

/-! ### Always-on: CLK and PM -/

/-- The CLK block (R406). -/
def readClk (s : State) (o : Nat) : Nat :=
  let c := s.clk
  match o with
  | 0x00 => pk [(0, 1, b2n c.xoOk), (1, 1, b2n c.rcoRun), (2, 1, b2n c.fallback), (3, 1, b2n c.rcoBad), (4, 1, b2n c.monMode),
      (5, 1, b2n c.monOff), (6, 4, c.lock)]
  | 0x04 => pk [(0, 1, b2n c.rcoFail), (1, 1, b2n c.xoTrip), (2, 1, b2n c.pllTrip), (8, 8, c.retries)]
  | 0x08 => halves c.lastCnt c.trips
  | 0x0C => pk [(0, 24, c.gapNs)]
  | 0x10 => pk [(0, 6, c.fSel), (6, 2, c.fRef), (8, 5, c.fN), (13, 1, b2n c.fRun), (14, 1, b2n c.fDone), (15, 1, b2n c.fErr)]
  | 0x14 => c.fCount
  | 0x20 => c.gate0
  | 0x24 => c.gate1
  | 0x28 => c.gate2
  | 0x2C => c.gate3
  | _ => 0

/-- The PM block (R426). -/
def readPm (s : State) (o : Nat) : Nat :=
  let p := s.pm
  match o with
  | 0x00 => pk [(0, 3, shownPs s), (3, 3, p.req), (6, 2, p.tcap), (8, 1, b2n (p.entry != .none)),
      (9, 1, b2n (p.entry == .wait4)), (10, 1, b2n p.overBudget), (11, 3, p.wakeSrc), (14, 1, b2n p.noppme)]
  | 0x04 => pk [(0, 1, 1), (1, 1, b2n p.domCore), (2, 1, b2n p.domXcr), (3, 1, b2n p.domLdpc), (4, 1, b2n p.domDram),
      (5, 2, p.domPcie), (7, 8, p.domChg), (15, 1, b2n p.coreRet), (16, 1, b2n p.retLv)]
  | 0x08 =>
    let q := p.ramp.filter (fun r => decide (s.nowUs < r.1))
    let o := q.getD (0, p.rda, p.wra, p.wlud)
    pk [(0, 10, p.vsram), (10, 2, max p.rda o.2.1), (12, 2, max p.wra o.2.2.1), (14, 5, max p.wlud o.2.2.2), (19, 1, b2n (q.isSome))]
  | 0x0C => halves p.est p.peak
  | 0x10 => halves (budget s) (p.ps2 / 4096)
  | 0x14 => halves p.cnt3 p.cnt4
  | 0x18 => halves p.last p.max
  | 0x1C => halves p.refused p.apstSkip
  | _ => 0

end Sys2Proof.Machine
end

