-- ==== Sys2Proof/Machine/Resets.lean ====
section
/-! DEFINITION. Doorbells, controllers, ports and the resets that reach them (R74, R80 to R92, R102,
R130 to R132, R454 to R459). -/

namespace Sys2Proof.Machine

/-- Whether the host reaches function `c`: structure chosen, no reset or stop in force, link up, and
not held in PS4 (R387, R420). -/
def hostCan (s : State) (c : Nat) : Bool :=
  !(absorbs s) && s.boot.phase != .choice && fnExists s c && (getPort s (portOf c)).dlup

/-- A write of the host reaches port `p`: its link is in L0, and in PS4, which that ends, the write waits in the wake
queue until the exit is complete (R420, R422). -/
def reached (s : State) (p : Nat) : State :=
  let v := getPort s p
  let s1 := if v.link == .l0 then s else setPort s p { v with link := .l0 }
  if s1.pm.ps == 4 && s1.pm.entry == .none then wake s1 3 else s1

/-- A write of the host has its effect, unless the exit from PS4 became a device warm reset (R422). -/
def hostWrite (s : State) (p : Nat) (body : State → State) : Out :=
  let t := reached s p
  if absorbs t then ok t else ok (body t)

/-! ### Doorbells (R80, R102, R416, R420) -/

/-- A doorbell write: an entry into a low-power state, or PS3, ends (R416, R418, R420). -/
def doorbellWake (s : State) : State := wake s 1

/-- A completion queue doorbell wakes PS3 but abandons no entry (R418, R420). -/
def headWake (s : State) : State := if s.pm.entry == .none then doorbellWake s else s

/-- An illegal doorbell write is ignored and raises its event: 0 for a queue that does not exist, 1 for
an illegal value (R80, R102, R156). -/
def badDoorbell (s : State) (c info : Nat) : State := raiseOn s c ⟨0, info, 1⟩

/-- A submission queue tail doorbell (R102). -/
def tailDoorbell (s : State) (c q v : Nat) : State :=
  let k := qk c q
  let x := getSq s k
  if !x.live then badDoorbell s c 0
  else if x.size ≤ v then badDoorbell s c 1
  else
    let moved := (v + x.size - x.tail) % x.size
    let held := (x.tail + x.size - x.head) % x.size
    if x.size ≤ moved + held then badDoorbell s c 1 else setSq s k { x with tail := v }

def execSqTailDoorbell (c q value : Nat) (s : State) : Out :=
  if !(hostCan s c) then ok s
  else hostWrite s (portOf c) (fun t => tailDoorbell (doorbellWake t) c q value)

/-- A completion queue head doorbell: the entries before it are the host's again (R102, R118). -/
def headDoorbell (s : State) (c q v : Nat) : State :=
  let k := qk c q
  let x := getCq s k
  if !x.live then badDoorbell s c 0
  else if x.size ≤ v then badDoorbell s c 1
  else
    let head := (x.tail + x.size - x.ring.length) % x.size
    let used := (v + x.size - head) % x.size
    if x.ring.length < used then badDoorbell s c 1 else setCq s k { x with ring := x.ring.drop used }

def execCqHeadDoorbell (c q value : Nat) (s : State) : Out :=
  if !(hostCan s c) then ok s
  else hostWrite s (portOf c) (fun t => headDoorbell (headWake t) c q value)

/-! ### Controllers (R89, R130, R131, R456) -/

/-- The admin queues of an enabled controller: AQA gives their sizes, 0's based. -/
def adminQueues (s : State) (c aqa : Nat) : State :=
  setCq (setSq s (qk c 0) { live := true, size := aqa % 4096 + 1 }) (qk c 0)
    { live := true, size := aqa / 65536 % 4096 + 1, ien := true }

/-- CC.EN written to 1 (R89): ready at once after release, or at release. -/
def execControllerEnable (c cc aqa asq acq : Nat) (s : State) : Out :=
  if !(hostCan s c) || (getCtrl s c).en then ok s
  else hostWrite s (portOf c) (fun t =>
    adminQueues (setCtrl t c { getCtrl t c with
      en := true, rdy := t.glb.released, shst := 0, cc := setBit cc 0, aqa := aqa, asq := asq, acq := acq }) c aqa)

/-- CC.EN written from 1 to 0 (R130, R456). -/
def execControllerReset (c : Nat) (s : State) : Out :=
  if !(hostCan s c) || !(getCtrl s c).en then ok s else ok (dropController (wakeReset s) c)

/-- CC.SHN written, normal or abrupt (R131): fetch stops; where started commands remain the shutdown
completes with the last of them. -/
def execShutdownNotification (c : Nat) (_abrupt : Bool) (s : State) : Out :=
  let v := getCtrl s c
  if !(hostCan s c) || !v.rdy || v.shst != 0 then ok s
  else hostWrite s (portOf c) (fun t => endShutdown (setCtrl t c { getCtrl t c with shst := 1 }) c)

/-- A Function Level Reset (R90, R132, R456). -/
def execFunctionLevelReset (c : Nat) (s : State) : Out :=
  if !(hostCan s c) then ok s else ok (flr (wakeReset s) c)

/-- VFs bound on a port (R76, R79). -/
def totalVfs (s : State) (p : Nat) : Nat :=
  if s.boot.maquette then 0
  else ((validNiches s).filter (fun n => let e := nicheCfg s n
    if p == 0 then e.bound0 && e.fn0 != 0 else e.bound1 && e.fn1 != 0)).length

/-- VF Enable of a port's PF0 written with NumVFs (R76, R90): VFs that are disabled are reset. -/
def execVfEnable (port num : Nat) (enable : Bool) (s : State) : Out :=
  let on := (getPort s port).vfOn
  if !(hostCan s (port * 64)) || 2 ≤ port || on == enable || (enable && totalVfs s port < num) then ok s
  else hostWrite s port (fun t =>
    if enable then setPort t port { getPort t port with vfOn := true, numVfs := num }
    else
      let s1 := ((List.range 63).map (fun i => port * 64 + i + 1)).foldl dropFunction t
      setPort s1 port { getPort s1 port with vfOn := false })

/-! ### Niche Reset (R138, R457) -/

/-- Niche Reset with FORCE removes the niche's commissions and their entries without an event, with one record for each
(R211). -/
def forceComms (s : State) (n : Nat) : State :=
  (tkeys s.comms (fun h v => v.used && handleNiche h == n)).foldl (fun a h =>
    nicheRec (removeComm a h) n 0x30 3 0 (getComm s h).tag h) s

/-- The niche reset itself (R457, R490). Reserved fields of the command are ignored (R9). -/
def resetNiche (s : State) (n : Nat) (force : Bool) : State :=
  let s1 := if force then forceComms s n else s
  let s2 := (ctrlsOf s1 n).foldl dropController s1
  setNch s2 n { clearCounters (getNch s2 n) with istat := 0 }

def execNicheReset (c cid niche : Nat) (force : Bool) (_rsv : Nat) (s : State) : Out :=
  adminPf0 s c cid (fun t =>
    if t.boot.maquette then adone t c cid .invalidOpcode
    else if !(nicheValid t niche) || nicheOf t c == some niche then adone t c cid .invalidField
    else if !force && !(liveOf t niche).isEmpty then adone t c cid .commActive
    else adone (resetNiche t niche force) c cid .success)

/-! ### Ports (R68, R74, R85 to R92, R458) -/

def perstOf (s : State) (p : Nat) : Bool := if p == 0 then s.board.perst0 else s.board.perst1
def setPerst (s : State) (p : Nat) (v : Bool) : State :=
  { s with board := if p == 0 then { s.board with perst0 := v } else { s.board with perst1 := v } }

/-- A port warm reset that meets commands in flight (R91, R458): they are decided first, and a link loss not yet
recorded is (R91 step 7). -/
def warmPort (s : State) (p : Nat) : State :=
  let t := wakeReset s
  portReset (decidePort (if (getPort t p).linkDown then linkRec t p else t) p) p

/-- PERST# of a port is asserted (R88, R91). -/
def execPerstAssert (port : Nat) (s : State) : Out :=
  if !(portPresent s port) then ok s
  else
    let s1 := setPerst s port true
    if absorbs s then ok s1 else ok (warmPort s1 port)

/-- Both PERST# low together in the two-port configuration (R88): a device warm reset. -/
def execBothPerstLow (s : State) : Out :=
  if s.board.straps.lanes == 1 && s.board.perst0 && s.board.perst1 then ok (deviceWarm s 1) else ok s

/-- Whether a port's configuration space answers (R89, R387): PERST# released, the structure chosen. -/
def cfgReady (s : State) (p : Nat) : Bool :=
  portPresent s p && !(perstOf s p) && !(absorbs s) && s.boot.phase != .choice

/-- The clock of a port island runs (R406). -/
def portClock (s : State) (p : Nat) : State := { s with clk := { s.clk with gate0 := setBit s.clk.gate0 (15 + p) } }

/-- PERST# of a port is released (R89). -/
def execPerstRelease (port : Nat) (s : State) : Out :=
  if !(portPresent s port) then ok s
  else
    let t := setPerst s port false
    ok (if cfgReady t port then portClock t port else t)

/-- NSSR written through a PF0 (R81, R459). -/
def execNvmSubsystemReset (port : Nat) (s : State) : Out :=
  if hostCan s (port * 64) && decide (port < 2) then ok (deviceWarm s 2) else ok s

/-- DL_Down with PERST# high (R91). -/
def execLinkLoss (port : Nat) (s : State) : Out :=
  if absorbs s || !(portPresent s port) || perstOf s port || !(getPort s port).dlup then ok s
  else
    let s1 := { s with arb := { s.arb with
      fetchOff := if s.arb.fetchOff.contains port then s.arb.fetchOff else s.arb.fetchOff ++ [port] } }
    let s2 := decidePort s1 port
    ok (setPort s2 port { getPort s2 port with dlup := false, linkDown := true })

/-- No command of the lost port is left: the record, the port warm reset, and training again (R91). -/
def execLinkLossPortReset (port : Nat) (s : State) : Out :=
  if absorbs s || !(getPort s port).linkDown || s.cmds.any (fun kv => portOf (ctrlOfSq kv.2.sq) == port) then ok s
  else
    ok (portReset (linkRec (wakeReset s) port) port)

/-- Widest link of a port under the straps (R68). -/
def maxWidth (s : State) : Nat := if s.board.straps.lanes == 2 then 16 else 8

/-- The link trains, or its speed or width changes (R69, R74): CAPW follows, and the clock of the port island runs
(R406). -/
def execLinkSpeedWidthChange (port gen width : Nat) (s : State) : Out :=
  let v := getPort s port
  let legal := decide (1 ≤ gen) && decide (gen ≤ (if s.board.straps.gen == 1 then 4 else 5)) &&
    [1, 2, 4, 8, 16].contains width && decide (width ≤ maxWidth s)
  if absorbs s || !(portPresent s port) || perstOf s port || v.linkDown || !legal then ok s
  else
    let s1 := setPort s port { v with gen := gen, width := width, dlup := true, link := .l0 }
    ok (trigger (portClock s1 port))

/-- Device Control of a PF0 written: Max_Payload_Size 0, 1 or 2 for 128, 256 or 512 B, and Max_Read_Request_Size 0 to 5
for 128 B to 4 KiB (R71, R74). -/
def execPf0MpsWrite (port mps mrrs : Nat) (s : State) : Out :=
  if !(hostCan s (port * 64)) || 2 ≤ port || 2 < mps || 5 < mrrs then ok s
  else hostWrite s port (fun t => trigger (setPort t port { getPort t port with mps := mps, mrrs := 128 * 2 ^ mrrs }))

/-- An uncorrectable fault of a port island (R86): the record, then a port warm reset. -/
def execPortInternalFault (port : Nat) (s : State) : Out :=
  if absorbs s || !(portPresent s port) then ok s
  else ok (warmPort (aerRec s (port * 64) aerInternal false) port)

/-! ### PTM and link power (R85, R87) -/

/-- The 10 ms of a PTM request have passed: with `enabled`, PTM Enable as the host's last write of the PF0 left it, the
request is issued (R87). -/
def execPtmRequest (port : Nat) (enabled : Bool) (s : State) : Out :=
  if !(hostCan s (port * 64)) || 2 ≤ port then ok s
  else
    let v := getPort s port
    ok (setPort s port { v with ptmEn := enabled, ptmAsk := enabled })

/-- A PTM dialogue completes: the triple is latched (R87, R374). -/
def execPtmResponse (port master localTime : Nat) (s : State) : Out :=
  let v := getPort s port
  if !v.ptmAsk then ok s
  else ok (setPort s port { v with
    ptmAsk := false, ptmM := master, ptmL := localTime, ptmF := (fedStamp s).1
    ptmSeq := satAdd 32 v.ptmSeq 1, ptmValid := fedTraced s })

/-- Whether a live commission is charged to a port. -/
def portCharged (s : State) (p : Nat) : Bool := (liveComms s).any (fun h => (getComm s h).port == p)

/-- 64 µs without a TLP: the device initiates L1, never while a commission is charged (R85). -/
def execAspmL1IdleEntry (port : Nat) (s : State) : Out :=
  let v := getPort s port
  if absorbs s || !v.dlup || v.link != .l0 || portCharged s port then ok s
  else ok (setPort s port { v with link := .l1 })

/-- The link partner's request for L1, or its move on to L1.2, is accepted (R85). -/
def execLinkPartnerL1Request (port : Nat) (l12 : Bool) (s : State) : Out :=
  let v := getPort s port
  if absorbs s || !v.dlup then ok s
  else ok (setPort s port { v with link := if l12 then .l12 else .l1 })

end Sys2Proof.Machine
end

