-- ==== Sys2Proof/Machine/Registers.lean ====
section
/-! DEFINITION. The management window (R480 to R484): the map, the access check in the order of R481, the
refusal, and what a write does to each register. -/

namespace Sys2Proof.Machine

/-! ### The map and the check (R480, R481) -/

/-- Whether an offset lies in an absent range. -/
def absent (o : Nat) : Bool :=
  between 0xE0000 0xFFFFF o || between 0x120000 0x1FFFFF o || decide (0x240000 ≤ o)

/-- Whether the power domain of the block is off: PD_XCR, or the channel's. -/
def domainOff (s : State) (o : Nat) : Bool :=
  if o / 0x10000 == 8 then !s.pm.domXcr
  else if between 0x100000 0x11FFFF o then !(bitOf s.pm.domChg ((o - 0x100000) / 0x1000 / 4))
  else false

/-- The bit of CLK_GATE0 that gates the island of a block (R402, R480). -/
def islandGate (b : Nat) : Option Nat :=
  match b with
  | 4 => some 11
  | 5 => some 11
  | 6 => some 11
  | 8 => some 12
  | 9 => some 10
  | _ => none

/-- Whether the block is gated. -/
def gated (s : State) (o : Nat) : Bool :=
  if between 0x100000 0x11FFFF o then !(bitOf s.clk.gate1 ((o - 0x100000) / 0x1000))
  else if between 0x30000 0xBFFFF o then
    !(bitOf s.clk.gate2 (o / 0x10000)) || (islandGate (o / 0x10000)).elim false (fun i => !(bitOf s.clk.gate0 i))
  else false

/-- The first condition of R481 that holds, as its KIND: 3, 2, 1 or 0. No register has an RWL field, so
order 6 never holds. -/
def accKind (s : State) (o dwords be : Nat) (write : Bool) : Option Nat :=
  if 1 < dwords then some 3
  else if write && be != 15 then some 3
  else if absent o then some 2
  else if domainOff s o then some 1
  else if gated s o then some 0
  else none

/-- A refused access is logged (R481): a dropped write in Patina also. -/
def refuseAcc (s : State) (port o kind : Nat) (write : Bool) : State :=
  let g := s.glb
  let s1 := glbSet { s with glb := { g with
    accOff := o, accPort := port, accWrite := write, accKind := kind
    accReads := if write then g.accReads else satAdd 16 g.accReads 1
    accWrites := if write then satAdd 16 g.accWrites 1 else g.accWrites } } 14
  if write then devRec s1 0xA2 4 1 o else s1

/-- An access by the host of a port (R481, R483): in PS4 the device wakes first; then the check, and the
effect where it passes. -/
def access (s : State) (port o dwords be : Nat) (write : Bool) (body : State → State) : State :=
  if !(hostCan s (port * 64)) then s
  else
    let s1 := reached s port
    if !(hostCan s1 (port * 64)) then s1
    else match accKind s1 o dwords be write with
    | some k => refuseAcc s1 port o k write
    | none => body s1

/-- An aligned write of one 32-bit word. -/
def regWrite (s : State) (port o : Nat) (body : State → State) : Out := ok (access s port o 1 15 true body)

/-! ### What a write of each register does -/

/-- SCH_CTRL.CLR (R236): PEAK starts again at what is in use. -/
def schClear (s : State) : State :=
  { s with sched := { s.sched with
    peak := iccUsed s, suspends := 0, urgOver := 0, miss := 0, tokwait := 0, minSlack := [] } }

def execSchCtrlClr (port : Nat) (s : State) : Out := regWrite s port 0x6001C schClear

/-- CHN_CTRL.CLR of channel `n` (R255). -/
def chnClear (n : Nat) (s : State) : State :=
  let v := getChan s n
  setChan s n { v with zq := 0, track := 0, stepdowns := 0, quick := 0, fails := 0, progTo := 0, readTo := 0 }

/-- CHN_CTRL.CLR; the device has channels 0 to 31. -/
def execChnCtrlClr (port ch : Nat) (s : State) : Out :=
  if 32 ≤ ch then ok s else regWrite s port (0x100024 + 0x1000 * ch) (chnClear ch)

/-- POOL_CTRL.CLR (R293): MINFREE of every region becomes its COUNT. -/
def poolClear (s : State) : State :=
  let regions := (validNiches s).flatMap (fun n => (List.range 5).map (fun c => (n, c)))
  { s with pool := { s.pool with
    badFree := 0
    cnt := regions.foldl (fun t nc => tset {} t (nc.1 * 8 + nc.2)
      { minFree := some (poolFree s nc.1 nc.2) }) [] } }

def execPoolCtrlClr (port : Nat) (s : State) : Out := regWrite s port 0x50010 poolClear

/-- XCR_CTRL.CLR (R329). -/
def xcrClear (s : State) : State :=
  { s with cipher := { s.cipher with
    rct := 0, apt := 0, sourceRestarts := 0, reseeds := 0, maskSeeds := 0, generated := 0, destroyed := 0
    imports := 0, importFails := 0, seals := 0
    engs := s.cipher.engs.map (fun v => { v with urgWait := 0 }) } }

def execXcrCtrlClr (port : Nat) (s : State) : Out := regWrite s port 0x800E0 xcrClear

/-- XCR_TKSEL (R329). -/
def execXcrTkselWrite (port niche : Nat) (s : State) : Out :=
  regWrite s port 0x80070 (fun t => selectTk t niche)

/-- HLD_TEST.RUN (R339, R358): a test is requested, unless one runs. -/
def hldRun (s : State) : State :=
  if s.hold.testing then s
  else if !(inService s) then { s with hold := { s.hold with deferred := true } }
  else healthTest s

def execHldTestRun (port : Nat) (s : State) : Out := regWrite s port 0xA001C hldRun

/-- HLD_CTRL.CLR (R358). -/
def hldClear (s : State) : State :=
  { s with hold := { s.hold with vinMin := 65535, huvMin := 65535, braces := 0, tests := 0 } }

def execHldCtrlClr (port : Nat) (s : State) : Out := regWrite s port 0xA0020 hldClear

/-- FED_CTRL.CLR (R376). -/
def fedClear (s : State) : State :=
  { s with
    ports := tmap {} s.ports (fun _ v => { v with ptmSeq := 0 })
    fed := { s.fed with
    off := 0, maxOff := 0, missed := 0, crcErr := 0, early := 0, late := 0, unlocks := 0, steps := 0 } }

def execFedCtrlClr (port : Nat) (s : State) : Out := regWrite s port 0x90028 fedClear

/-- A read of FED_TIME_LO latches FED_TIME_HI for the reading port (R376, R484). -/
def fedLatch (port : Nat) (s : State) : State :=
  let hi := s.fed.time / 2 ^ 32 % 2 ^ 32
  if port == 0 then { s with fed := { s.fed with latch0 := hi } }
  else { s with fed := { s.fed with latch1 := hi } }

def execFedTimeLoRead (port : Nat) (s : State) : Out := ok (access s port 0x90008 1 15 false (fedLatch port))

/-- CLK_FMC_CTRL (R403, R406): the fields are written; START begins a measurement unless one runs, and
ends at once with ERR on a stopped or reserved reference or N outside 4 to 20. -/
def fmcWrite (sel ref n : Nat) (start : Bool) (s : State) : State :=
  let c := { s.clk with fSel := sel % 64, fRef := ref % 4, fN := n % 32 }
  if !start || c.fRun then { s with clk := c }
  else if !(refRuns s c.fRef) || !(between 4 20 c.fN) then
    { s with clk := { c with fDone := true, fErr := true } }
  else { s with clk := { c with fRun := true, fOn := (c.fSel, c.fRef), fDone := false, fErr := false } }

def execClkFmcStart (port sel ref n : Nat) (s : State) : Out :=
  regWrite s port 0x10010 (fmcWrite sel ref n true)

/-- CLK_FAULT, write 1 to clear (R406, R487): RCO_FAIL with its copies. -/
def clkFaultClear (m : Nat) (s : State) : State :=
  { s with
    clk := { s.clk with
      rcoFail := s.clk.rcoFail && !(bitOf m 0), xoTrip := s.clk.xoTrip && !(bitOf m 1)
      pllTrip := s.clk.pllTrip && !(bitOf m 2) }
    boot := { s.boot with sticky := if bitOf m 0 then clrBit s.boot.sticky 1 else s.boot.sticky } }

def execClkFaultClear (port mask : Nat) (s : State) : Out := regWrite s port 0x10004 (clkFaultClear mask)

/-- PM_CTRL.CLR (R426). -/
def pmClear (s : State) : State :=
  { s with pm := { s.pm with peak := 0, cnt3 := 0, cnt4 := 0, max := 0, refused := 0, apstSkip := 0 } }

def execPmCtrlClr (port : Nat) (s : State) : Out := regWrite s port 0x20020 pmClear

/-- PM_STATUS.OVERBUDGET, write 1 to clear (R426). -/
def overClear (s : State) : State := { s with pm := { s.pm with overBudget := false } }

def execPmOverbudgetClear (port : Nat) (s : State) : Out := regWrite s port 0x20000 overClear

/-- THM_CTRL.CLR (R435, R439). -/
def thmClear (s : State) : State := { s with thm := { s.thm with maxK := 0, hotUs := 0, stageUps := 0 } }

def execThmCtrlClr (port : Nat) (s : State) : Out := regWrite s port 0x3001C thmClear

/-- THM_HALT, write 1 to clear (R439, R487). -/
def haltClear (m : Nat) (s : State) : State :=
  { s with thm := { s.thm with
    halted := s.thm.halted && !(bitOf m 0), trippedBit := s.thm.trippedBit && !(bitOf m 1) } }

def execThmHaltClear (port mask : Nat) (s : State) : Out := regWrite s port 0x30014 (haltClear mask)

/-- PAT_CTRL.CLR (R453): no record is changed. -/
def patClear (s : State) : State :=
  { s with pat := { s.pat with drops := 0, dropMax := 0, overwrites := 0, repeats := 0, count := 0 } }

def execPatCtrlClr (port : Nat) (s : State) : Out := regWrite s port 0x40024 patClear

/-- GLB_CTRL.CLR_ACC (R485). -/
def accClear (s : State) : State := { s with glb := { s.glb with accReads := 0, accWrites := 0 } }

def execGlbCtrlClrAcc (port : Nat) (s : State) : Out := regWrite s port 0x48 accClear

/-- GLB_ISTAT, write 1 to clear; bit 13 is a level (R486). -/
def istatClear (m : Nat) (s : State) : State :=
  { s with glb := { s.glb with istat := clrMask 15 s.glb.istat m } }

def execGlbIstatClear (port mask : Nat) (s : State) : Out := regWrite s port 0x20 (istatClear mask)

/-- GLB_ALERT, write 1 to clear bits 2 to 0 (R487). -/
def alertClear (m : Nat) (s : State) : State :=
  let c := fun (b i x : Nat) => if bitOf m b then clrBit x i else x
  { s with
    glb := { s.glb with
      pwrFault := s.glb.pwrFault && !(bitOf m 0), fuseFault := s.glb.fuseFault && !(bitOf m 1)
      bootFlash := s.glb.bootFlash && !(bitOf m 2) }
    boot := { s.boot with sticky := c 0 0 (c 1 2 (c 2 3 s.boot.sticky)) } }

def execGlbAlertClear (port mask : Nat) (s : State) : Out := regWrite s port 0x28 (alertClear mask)

/-- NCH_ISTAT of niche `n`, write 1 to clear; a window of a niche not valid ignores writes (R489,
R490). -/
def nchClear (n m : Nat) (s : State) : State :=
  let v := getNch s n
  if nicheValid s n then setNch s n { v with istat := clrMask 8 v.istat m } else s

/-- NCH_ISTAT; there are windows for niches 0 to 63. -/
def execNchIstatClear (port niche mask : Nat) (s : State) : Out :=
  if 64 ≤ niche then ok s else regWrite s port (0x200030 + 0x1000 * niche) (nchClear niche mask)

/-- NCH_IEN. -/
def nchEnable (n x : Nat) (s : State) : State :=
  let v := getNch s n
  if nicheValid s n then setNch s n { v with ien := x % 256 } else s

/-- GLB_IEN. -/
def istatEnable (x : Nat) (s : State) : State := { s with glb := { s.glb with ien := x % 32768 } }

/-- GLB_SCRATCH `i`. -/
def scratchWrite (i x : Nat) (s : State) : State :=
  { s with glb := { s.glb with scratch := tset 0 s.glb.scratch i (x % 2 ^ 32) } }

/-- A write to a window of NCH or CHN. -/
def writeWindow (o x : Nat) (s : State) : State :=
  if between 0x100000 0x11FFFF o then
    (if o % 0x1000 == 0x24 && x % 2 == 1 then chnClear ((o - 0x100000) / 0x1000) s else s)
  else if between 0x200000 0x23FFFF o then
    let n := (o - 0x200000) / 0x1000
    if o % 0x1000 == 0x30 then nchClear n x s else if o % 0x1000 == 0x34 then nchEnable n x s else s
  else s

/-- What a write of `x` to the register at an offset does; a read-only register, a reserved bit and an
offset no register occupies ignore it (R9, R480, R481). -/
def writeReg (o x : Nat) (s : State) : State :=
  let cl := fun f : State → State => if x % 2 == 1 then f s else s
  match o with
  | 0x20 => istatClear x s
  | 0x24 => istatEnable x s
  | 0x28 => alertClear x s
  | 0x48 => cl accClear
  | 0x50 => scratchWrite 0 x s
  | 0x54 => scratchWrite 1 x s
  | 0x58 => scratchWrite 2 x s
  | 0x5C => scratchWrite 3 x s
  | 0x10004 => clkFaultClear x s
  | 0x10010 => fmcWrite (x % 64) (x / 64 % 4) (x / 256 % 32) (bitOf x 13) s
  | 0x20000 => if bitOf x 10 then overClear s else s
  | 0x20020 => cl pmClear
  | 0x30014 => haltClear x s
  | 0x3001C => cl thmClear
  | 0x40024 => cl patClear
  | 0x50010 => cl poolClear
  | 0x6001C => cl schClear
  | 0x80070 => selectTk s x
  | 0x800E0 => cl xcrClear
  | 0x90028 => cl fedClear
  | 0xA001C => if bitOf x 24 then hldRun s else s
  | 0xA0020 => cl hldClear
  | _ => writeWindow o x s

/-- A write TLP to the window (R481). -/
def execBar2RegisterWrite (port offset dwords be value : Nat) (s : State) : Out :=
  ok (access s port offset dwords be true (writeReg (offset / 4 * 4) value))

/-- A read TLP that the check refuses (R481); one that it passes has no effect (R484). -/
def execBar2ReadRefused (port offset dwords be : Nat) (s : State) : Out :=
  ok (access s port offset dwords be false id)

/-- The register at an offset as port `port` reads it (R480); absent offsets and reserved ones read 0. -/
def readReg (s : State) (port o : Nat) : Nat :=
  if between 0x100000 0x11FFFF o then readChn s ((o - 0x100000) / 0x1000) (o % 0x1000)
  else if between 0x200000 0x23FFFF o then readNch s ((o - 0x200000) / 0x1000) (o % 0x1000)
  else
    let r := o % 0x10000
    match o / 0x10000 with
    | 0 => readGlb s r
    | 1 => readClk s r
    | 2 => readPm s r
    | 3 => readThm s r
    | 4 => readPat s r
    | 5 => readPool s r
    | 6 => readSch s r
    | 7 => readCms s r
    | 8 => readXcr s r
    | 9 => readFed s port r
    | 10 => readHld s r
    | 11 => readArm s r
    | 12 => readHk s r
    | 13 => readFuse s r
    | _ => 0

end Sys2Proof.Machine
end

