-- ==== Sys2Proof/Machine/Sideband.lean ====
section
/-! DEFINITION. The SMBus sideband (R94 to R96) and the recorder's requests (R445). The reply of a command
is kept as its fields; their layout is NVMe-MI 1.2's (notes/assumptions/11.md). -/

namespace Sys2Proof.Machine

/-- A request to the Patina recorder, once the datapath island is out of reset (R441). -/
def execPatinaRequest (r : PatReq) (s : State) : Out := if running s then ok (patina s r) else ok s

/-- A transaction is answered. -/
def reply (s : State) (l : List Fld) : State :=
  { s with glb := { s.glb with miReplies := s.glb.miReplies + 1, miLast := l.filter (fun f => f.v != 0) } }

/-- Whether the MCTP endpoint answers: the housekeeping island serves it, not in PS4 (R96) nor in manufacturing test, which
serves only the TAP (R379). -/
def mctpUp (s : State) : Bool :=
  islandUp s .housekeeping && s.boot.phase != .mfg && !(s.pm.ps == 4 && s.pm.entry == .none)

/-- Whether the Basic Management Command is answered: also from the block frozen in PS4 and in a thermal
halt (R96, R436). -/
def basicUp (s : State) : Bool := mctpUp s || s.glb.miFrozen.isSome

/-- Temperature in kelvin, critical warning and remaining spare: of the current scan, or frozen (R96). DESIGN CHOICE
(notes/assumptions/11.md): the block is one of the device, the warning and the spare belong to a niche; the block shows
those of controller 0 and niche 0. -/
def miHealth (s : State) : Nat × Nat × Nat :=
  if mctpUp s then (s.thm.composite, critWarn s 0 0, spareShare s 0) else s.glb.miFrozen.getD (0, 0, 0)

/-- Status Flags: [6] ready, [5] drive functional, [3] and [2] the links of ports 0 and 1. In the block frozen at PS4
entry ready and both link bits are 0 (R96; of the links DESIGN CHOICE, notes/assumptions/38.md). -/
def miFlags (s : State) : Nat :=
  32 + (if mctpUp s then 64 * b2n s.glb.released + 8 * b2n (getPort s 0).dlup + 4 * b2n (getPort s 1).dlup else 0)

/-- The status block: flags, warnings (inverted), temperature in °C, drive life used in percent. -/
def miBlock (s : State) : List Fld :=
  let h := miHealth s
  [⟨0, 1, 6⟩, ⟨1, 1, miFlags s⟩, ⟨2, 1, 255 - h.2.1 % 256⟩, ⟨3, 1, min 126 (h.1 - 273)⟩, ⟨4, 1, 100 - h.2.2⟩]

def execSmbusBasicManagementCommand (pecOk : Bool) (s : State) : Out :=
  if !pecOk || !(basicUp s) then ok s else ok (reply s (miBlock s))

/-- An MCTP command: with a good PEC and the endpoint up it is answered (R94). -/
def mctp (pecOk : Bool) (s : State) (body : State → State) : Out :=
  if !pecOk || !(mctpUp s) then ok s else ok (body s)

/-- An answer with an NVMe-MI status: 0 success, 3 Invalid Command Opcode, 4 Invalid Parameter. -/
def miAnswer (s : State) (st : Nat) (l : List Fld) : State :=
  reply s (⟨0, 1, st⟩ :: l.map (fun f => { f with off := f.off + 4 }))

/-- The functions that exist on either port. -/
def liveFns (s : State) : List Nat := (List.range 128).filter (fnExists s)

/-- Vendor ID, Device ID, class code, Revision ID, Subsystem Vendor ID and Subsystem ID of function `c` (R72). -/
def identity (s : State) (c : Nat) : Nat × Nat × Nat × Nat × Nat × Nat :=
  (if isPf0 c then 0x1EA7 else 0xFFFF, if isPf0 c then 0x0A24 else 0x0A25, 0x010802, s.board.fuses.stepping, 0x1EA7,
    0x0024)

/-- The Controller Information structure of function `c`: its port and identifiers; no routing identifier is valid. -/
def miController (s : State) (c : Nat) : List Fld :=
  let p := identity s c
  [⟨0, 1, portOf c⟩, ⟨8, 2, p.1⟩, ⟨10, 2, p.2.1⟩, ⟨12, 2, p.2.2.2.2.1⟩, ⟨14, 2, p.2.2.2.2.2⟩]

/-- Read NVMe-MI Data Structure: 0 subsystem, 1 port, 2 controller list, 3 controller, 4 optional commands (none). A
request with an opcode of no listed command gets Invalid Command Opcode (R95). -/
def execReadNvmeMiDataStructure (pecOk : Bool) (op dtyp id : Nat) (s : State) : Out :=
  mctp pecOk s (fun t =>
    if op != 0 then miAnswer t 3 []
    else match dtyp with
    | 3 => if fnExists t id then miAnswer t 0 (miController t id) else miAnswer t 4 []
    | 0 => miAnswer t 0 [⟨0, 1, b2n (portPresent t 1)⟩, ⟨1, 1, 1⟩, ⟨2, 1, 2⟩]
    | 1 => miAnswer t 0 [⟨0, 1, 1⟩, ⟨2, 2, t.glb.miMtu⟩]
    | 2 => miAnswer t 0 (ctrlList (liveFns t))
    | 4 => miAnswer t 0 []
    | _ => miAnswer t 4 [])

def execNvmSubsystemHealthStatusPoll (pecOk : Bool) (s : State) : Out :=
  mctp pecOk s (fun t =>
    let h := miHealth t
    miAnswer t 0 [⟨0, 1, miFlags t⟩, ⟨1, 1, 255 - h.2.1 % 256⟩, ⟨2, 1, min 126 (h.1 - 273)⟩, ⟨3, 1, 100 - h.2.2⟩])

/-- Controller Health Status Poll of one controller. -/
def execControllerHealthStatusPoll (pecOk : Bool) (c : Nat) (s : State) : Out :=
  mctp pecOk s (fun t =>
    if !(fnExists t c) then miAnswer t 4 []
    else
      let n := myNiche t c
      let v := getCtrl t c
      miAnswer t 0 [⟨0, 2, c⟩, ⟨2, 2, b2n v.rdy + 4 * v.shst⟩, ⟨4, 2, t.thm.composite⟩, ⟨6, 1, 100 - spareShare t n⟩,
        ⟨7, 1, spareShare t n⟩, ⟨8, 1, critWarn t c n⟩])

/-- Configuration Get: 1 SMBus frequency, 3 MCTP transmission unit (R95). -/
def execConfigurationGet (pecOk : Bool) (id : Nat) (s : State) : Out :=
  mctp pecOk s (fun t =>
    match id with
    | 1 => miAnswer t 0 [⟨0, 1, t.glb.miFreq⟩]
    | 3 => miAnswer t 0 [⟨0, 2, t.glb.miMtu⟩]
    | _ => miAnswer t 4 [])

/-- Configuration Set: the frequency is 1, 2 or 3 for 100 kHz, 400 kHz and 1 MHz; the unit 64 to 250 bytes
(R94, R95). -/
def execConfigurationSet (pecOk : Bool) (id value : Nat) (s : State) : Out :=
  mctp pecOk s (fun t =>
    match id with
    | 1 =>
      if between 1 3 value then miAnswer { t with glb := { t.glb with miFreq := value } } 0 [] else miAnswer t 4 []
    | 3 =>
      if between 64 250 value then miAnswer { t with glb := { t.glb with miMtu := value } } 0 [] else miAnswer t 4 []
    | _ => miAnswer t 4 [])

/-- VPD Read: the content is not stated (notes/assumptions/10.md). -/
def execVpdRead (pecOk : Bool) (offset len : Nat) (s : State) : Out :=
  mctp pecOk s (fun t => miAnswer t 0 ((List.range len).map (fun j => ⟨j, 1, Config.vpdByte (offset + j)⟩)))

/-- A tunnelled admin command in the view of PF0 of port 0: Identify (CNS, CNTID, CSI in the fields `lid`,
`lsi`, `lsp`), Get Log Page, Get Features (FID, SEL, CDW11 in `lid`, `lsp`, `lpo`). Nothing else is served, and
nothing is cleared by the read (R95). -/
def execTunnelledAdminCommand (pecOk : Bool) (opcode : Nat) (r : LogReq) (s : State) : Out :=
  mctp pecOk s (fun t =>
    match opcode with
    | 0x02 =>
      let p := logPage t 0 r
      miAnswer t 0 (⟨0, 2, statusWord p.1⟩ :: (window p.2.1 (r.lpo - p.2.2) r.len).map (fun f => { f with off := f.off + 12 }))
    | 0x06 =>
      let p := identifyData t 0 r.lid r.nsid r.lsi r.lsp
      miAnswer t 0 (⟨0, 2, statusWord p.1⟩ :: p.2.map (fun f => { f with off := f.off + 12 }))
    | 0x0A =>
      let p := getFeature t 0 r.lid r.lsp r.nsid r.lpo
      miAnswer t 0 ([⟨0, 2, statusWord p.1⟩, ⟨4, 4, p.2.1⟩] ++ p.2.2.map (fun f => { f with off := f.off + 12 }))
    | _ => miAnswer t 3 [])

end Sys2Proof.Machine
end

