-- ==== Sys2Proof/Machine/Recovery.lean ====
section
/-! DEFINITION. The Plinth mount (R53, R257, R310, R313, R351 to R356, R449): what the newest record says,
recovery after a complete and after a failed flush, the ring, and the namespaces an image creates. -/

namespace Sys2Proof.Machine

/-! ### What the newest record gives (R351) -/

/-- HLD_LASTPL.OUTCOME: 0 clean, 1 flush complete, 2 flush failed. A clean mark that buffered data followed
without a flush is no longer the state of the media. -/
def outcomeOf (s : State) (m : MountInput) : Nat :=
  if s.plinth.newest == 2 && (!s.plinth.lossAll || dirtyBytes s == 0) then 0
  else if s.plinth.newest == 3 && m.finalOk && !s.plinth.lossAll then 1
  else 2

/-! ### After a complete flush (R352) -/

/-- The zones of every namespace whose filling stripe was restored are finished by the controller. -/
def finishRestored (s : State) (i : Nat) : State :=
  (zonesWhere s i (fun v => isActive v.st && v.fill.isSome)).foldl (fun a z => finishByController a i z) s

/-- The structure loaded is another than the one the flush ran under: everything restored is loaded before
the new pools are carved. -/
def loadRestored (s : State) : State :=
  let l := allSlots s
  let s1 := commitSlots (l.foldl finishRestored s) l
  { s1 with pool := { s1.pool with bufs := [], ids := [] } }

/-! ### After a failed flush (R353, R355) -/

/-- Stripe `n` of a zone in the order of its fill. -/
def zoneStripe (s : State) (v : Zone) (n : Nat) : Option Nat :=
  match v.rows[n % v.rows.length]? with
  | some kr => (stripesOfRow s kr.1 kr.2).find? (fun i => (getStripe s i).t == n / v.rows.length)
  | none => none

/-- Whether a stripe counts as programmed (R353): its programs have ended, and every unit the row descriptor does not
record as missing decodes. -/
def programmed (m : MountInput) (x : Stripe) : Bool :=
  x.phase == .done && !x.lost && !(m.undecoded.contains (x.rank, x.row, x.t))

/-- The length of the run of programmed stripes of a zone, from stripe `n` on. -/
def runLen (m : MountInput) (s : State) (v : Zone) : Nat → Nat → Nat
  | 0, n => n
  | f + 1, n =>
    match zoneStripe s v n with
    | some i => if programmed m (getStripe s i) then runLen m s v f (n + 1) else n
    | none => n

/-- Stripes of a zone, the filling one included. -/
def zoneLen (v : Zone) : Nat := v.nstripe + b2n v.fill.isSome

/-- A zone cut back to its longest run of programmed stripes; a seal state that covers more is read anew from what is
stored (R320, R355). -/
def recutZone (m : MountInput) (s : State) (i z : Nat) (st : ZSt) : State :=
  let v := getZone s (zk i z)
  let n := runLen m s v (zoneLen v) 0
  let ids := (List.range (zoneLen v)).filterMap (zoneStripe s v)
  let keep := ids.take n
  let wp := sumBy (fun x => (getStripe s x).valid) keep
  let pads := v.pads.filter (fun p => decide (p.1 < n))
  let padOf := fun p : Nat × Nat => match zoneStripe s v p.1 with | some x => (getStripe s x).dcap - p.2 | none => 0
  let lo := z * zsze (getNs s i).attr.zw
  let inz := fun k : Nat => k / 281474976710656 == i && decide (lo ≤ k % 281474976710656) &&
    decide (k % 281474976710656 < lo + zsze (getNs s i).attr.zw)
  let s1 := (ids.drop n).foldl discardStripe s
  let s2 := { s1 with sectors := tdrop s1.sectors (fun k _ => inz k && decide (lo + wp ≤ k % 281474976710656)) }
  let k := getKey s (getNs s i).attr.sealSlot
  let vals := (s2.sectors.filter (fun kv => inz kv.1)).map (fun kv => cellOf s2 kv.2)
  let fr := v.frames.filter (fun f => decide (f.soff < wp))
  let beta := sealBlocks (getNs s i).fmt
  setZone s2 (zk i z) { v with
    st := st, wp := wp, fill := none, nstripe := n, pads := pads, npad := pads.length, waste := sumBy padOf pads
    frames := fr, framesSaved := min v.framesSaved fr.length
    absorbed := min v.absorbed (wp * beta)
    ghash := if v.absorbed ≤ wp * beta then v.ghash else segHash (subKey k) beta vals }

/-- The zone as the replay of the journal shows it (R351, R353): a zone never journaled is empty; one that has been reset
since stands as it is (notes/assumptions/26.md). -/
def replayed (s : State) (key : Nat) : Zone :=
  let v := getZone s key
  let w := tget ({} : Zone) s.plinth.img.zones key
  if v.gen == w.gen then w else v

/-- The rows of a zone that the replay shows erased: those that hold a programmed stripe stay for `keep`, the others are
to be erased again. -/
def looseRows (m : MountInput) (keep : State → Nat × Nat → State) (s : State) (l : List (Nat × Nat)) : State :=
  l.foldl (fun a kr =>
    if (stripesOfRow a kr.1 kr.2).any (fun i => programmed m (getStripe a i)) then keep a kr
    else unbindRow .pending a kr) s

/-- A row found programmed that no tag word attributes stays out of service, with its record (R353 step 2). -/
def holdRow (s : State) (kr : Nat × Nat) : State :=
  let s1 := (stripesOfRow s kr.1 kr.2).foldl discardStripe s
  nicheRec (setRow s1 (rk kr.1 kr.2) { ({} : Row) with st := .out }) (rowOwner s kr.1 kr.2) 0x55 7 kr.1 0 kr.2

/-- A zone of an ordinary niche that is open or full now, where the replay shows none (R353 step 2): its rows that read as
programmed are attributed through the tag words of format 0, and the zone becomes read-only; sectors of the other formats
carry no LBA, and their rows are held out. -/
def attributeZone (m : MountInput) (s : State) (i z : Nat) : State :=
  let v := getZone s (zk i z)
  let some_ := v.rows.any (fun kr => (stripesOfRow s kr.1 kr.2).any (fun x => programmed m (getStripe s x)))
  if (getNs s i).fmt == 0 && some_ then zoneChanged (recutZone m s i z .readOnly) i z
  else
    let t := recutZone m s i z .empty
    setZone (looseRows m holdRow t v.rows) (zk i z) { ({} : Zone) with gen := v.gen, held := v.held }

/-- A zone of an ordinary niche (R353 step 1): one active after the replay, and one Full whose run ends early, become
read-only; what the replay does not know of its frame index is lost. -/
def recoverZone (m : MountInput) (s : State) (i z : Nat) : State :=
  let v := getZone s (zk i z)
  let w := replayed s (zk i z)
  let short := decide (runLen m s v (zoneLen v) 0 < zoneLen v)
  if w.rows.isEmpty && !v.rows.isEmpty then attributeZone m s i z
  else
    let s1 := setZone s (zk i z) { v with
      st := if isActive w.st || w.st == .full then w.st else v.st, frames := v.frames.take (max w.frames.length v.framesSaved) }
    if isActive w.st || (w.st == .full && short) then zoneChanged (recutZone m s1 i z .readOnly) i z else s1

/-- A zone of a self-describing niche whose scan finds less than it held (R355): read-only where the band
held data of it that does not decode; with no band the scan alone decides. -/
def rescanZone (m : MountInput) (band : Bool) (s : State) (i z : Nat) : State :=
  let v := getZone s (zk i z)
  if !(isActive v.st || v.st == .full) || zoneLen v ≤ runLen m s v (zoneLen v) 0 then s
  else if band then zoneChanged (recutZone m s i z .readOnly) i z
  else
    let t := recutZone m s i z (if v.st == .full then .closed else v.st)
    if (getZone t (zk i z)).wp == 0 then closeZone t i z else t

/-- A conventional namespace keeps what is programmed; the other LBAs read the older data (R353 step 3,
R355). Its open rows close. -/
def recoverFine (s : State) (i : Nat) : State :=
  let mine := fun k : Nat => k / 281474976710656 == i
  let old := s.plinth.media.filter (fun kv => mine kv.1)
  let gone := tkeys s.stripes (fun _ x => x.slot == i && x.phase != .done)
  let s1 := gone.foldl discardStripe s
  let place := fun (t : List (Nat × Fine)) (kv : Nat × Sector) =>
    let x := getStripe s1 kv.2.sid
    tset {} t kv.1 { state := if kv.2.unc then 2 else 1, rank := x.rank, row := x.row, stripe := x.t, sector := kv.2.pos }
  let sec := fun (t : List (Nat × Sector)) (kv : Nat × Sector) => tset {} t kv.1 kv.2
  setNs { s1 with
    sectors := old.foldl sec (tdrop s1.sectors (fun k _ => mine k))
    fine := old.foldl place (tdrop s1.fine (fun k _ => mine k))
    fineQ := s1.fineQ.filter (fun k => !(mine k)) } i
    { getNs s1 i with hostRow := none, nextRow := none, gcRow := none, fill := none, gcFill := none }

/-- Whether every unit of niche `n`'s portion of the band is on the media (R344: NUNITS; R345): written, and where its
program failed covered by its stripe's parity or sent again. -/
def bandWhole (s : State) (n : Nat) : Bool :=
  let l := s.plinth.band.filter (fun u => (u.kind == 0 || u.kind == 1) && u.niche == n && u.failed != 2)
  match l with
  | [] => false
  | u :: _ => (List.range u.nunits).all (fun j => l.any (fun v => v.unit_ == j))

/-- Whether a niche's part of the band is applied (R355 step 4): all its units are there and decode. -/
def bandApplied (s : State) (m : MountInput) (n : Nat) : Bool :=
  (s.arm.cfg.niches.getD n {}).selfDesc && m.bandOk.contains n && bandWhole s n && !s.plinth.lossAll

/-- Where two rows claim one zone and rank position, the higher SEQ wins; the other is erase-pending (R355 step 2). -/
def claims (s : State) (i : Nat) : State :=
  let mine := tkeys s.rows (fun _ v => v.st == .bound && v.slot == i && v.zone.isSome && !v.recastDst)
  let loses := fun k => mine.any (fun j => (getRow s j).zone == (getRow s k).zone &&
    (getRow s j).pos == (getRow s k).pos && decide ((getRow s k).seq < (getRow s j).seq))
  (mine.filter loses).foldl (fun a k => unbindRow .pending a (k / 8192, k % 8192)) s

/-- A namespace after a failed flush. -/
def recoverSlot (m : MountInput) (s : State) (i : Nat) : State :=
  let v := getNs s i
  let n := v.attr.niche
  if bandApplied s m n then s
  else if !v.attr.zoned then recoverFine s i
  else
    let zs := zonesWhere s i (fun _ => true)
    if (s.arm.cfg.niches.getD n {}).selfDesc then
      zs.foldl (fun a z => rescanZone m (s.plinth.newest == 3 || !s.plinth.band.isEmpty) a i z) (claims s i)
    else zs.foldl (fun a z => recoverZone m a i z) s

/-- A row found programmed that the replay shows erased and no tag word attributes stays out of service
(R353 step 2). -/
def holdOut (s : State) (kr : Nat × Nat) : State :=
  if (getRow s (rk kr.1 kr.2)).st != .erased then s
  else
    nicheRec (setRow s (rk kr.1 kr.2) { ({} : Row) with st := .out }) (rowOwner s kr.1 kr.2) 0x55 7 kr.1 0 kr.2

/-- The record of lost conventional writes (R353 step 3), for an ordinary niche that has a conventional
namespace. -/
def lostWrites (s : State) (n : Nat) : State :=
  if (s.arm.cfg.niches.getD n {}).selfDesc || !((allSlots s).any (fun i =>
      (getNs s i).attr.niche == n && !(getNs s i).attr.zoned)) then s
  else
    let t := (getNch s n).ckptUs
    nicheRec s n 0x56 7 0 (hoursOf t + fracOf t * 2 ^ 32)

/-- Recovery after a failed flush. -/
def recoverFailed (m : MountInput) (s : State) : State :=
  let s1 := (allSlots s).foldl (recoverSlot m) s
  let s2 := pruneIds { s1 with pool := { s1.pool with
    bufs := tdrop s1.pool.bufs (fun k _ => !(bandApplied s m (bkNiche k))) } }
  (vNiches s2.arm.cfg).foldl lostWrites (m.loose.foldl holdOut s2)

/-- A Recast that a cut ended (R356): the destination of a running copy returns, a journaled swap
stands. -/
def recoverRecast (s : State) : State :=
  (tkeys s.rows (fun _ v => v.dest.isSome)).foldl (fun a key =>
    let v := getRow a key
    match v.dest with
    | none => a
    | some f =>
      if v.swapJ then recastSwap a (key / 8192) (key % 8192) f
      else dropCopy a key) s

/-- The Recast programs that failed during a flush (R275, R357): a spare takes the place of the destination's block. -/
def flushCopies (s : State) : State :=
  s.plinth.copyFails.foldl (fun a x =>
    match (getRow a (rk x.1 x.2.1)).dest with
    | none => a
    | some f => match takeSpare a x.2.2 x.1 (replaceBlock f) with
      | some t => t
      | none => retireDie a x.2.2 x.1) { s with plinth := { s.plinth with copyFails := [] } }

/-- Recovery of a Plinth that is found (R351, R352). -/
def recover (m : MountInput) (s : State) : State :=
  let o := outcomeOf s m
  let s1 := if o == 1 then (if s.plinth.bandSeq == s.arm.seq then s else loadRestored s)
    else if o == 2 then recoverFailed m s else s
  let scan := o == 2 && (vNiches s.arm.cfg).any (fun n => (s.arm.cfg.niches.getD n {}).selfDesc)
  let s2 := recoverRecast (flushCopies s1)
  { s2 with
    hold := { s2.hold with
      outcome := o, scan := scan, scan10 := if scan then satTo 16 m.scan10ms else 0
      lastFl := if o == 1 then satTo 16 (s.plinth.flushNs / 10000) else s2.hold.lastFl }
    plinth := { s2.plinth with lossAll := false } }

/-! ### A new Plinth (R257, R389) -/

/-- Whether every die in use has the spare bytes of format 2. -/
def spareFor2 (s : State) : Bool := s.dies.all (fun kv => !kv.2.used || decide (480 ≤ kv.2.spare))

/-- A factory bad block of row `r` is replaced by a spare of its die (R19); a die that has none left is retired. -/
def replaceFactory (s : State) (x : Nat × Nat × Nat) : State :=
  match takeSpare s x.1 x.2.1 (replaceBlock x.2.2) with
  | some t => t
  | none => setDie s (dk x.1 x.2.1) { getDie s (dk x.1 x.2.1) with retired := true }

/-- Both Plinth ranks are blank: a new, empty Plinth over the row map of manufacture (R19). -/
def newPlinth (m : MountInput) (s : State) : State :=
  m.factoryBad.foldl replaceFactory { s with
    plinth := { ({} : Plinth) with exists_ := true, fmt2 := spareFor2 s, newest := 1 }
    arm := { s.arm with made := [], mirror := none, mirrorCfg := none }
    ns := [], zones := [], fine := [], fineQ := [], sectors := [], stripes := [], rows := [], niches := []
    dies := tmap {} s.dies (fun k d =>
      { d with retired := d.notUsed || (getChan s (k / 32)).state == 3, sparesUsed := 0, spareDone := 0, remap := [], moved := [], bad := [] })
    pool := { s.pool with bufs := [], ids := [] }
    cipher := { s.cipher with table := [], shadow := [], tableSeq := 0, tableBlk := false, older := none }
    pat := { s.pat with img := none, band := none }
    hold := { s.hold with outcome := 0, scan := false, scan10 := 0 } }

/-! ### The ring (R449) -/

/-- The operating time of a record, in microseconds. -/
def recUs (r : PatRec) : Nat := r.hours * 3600000000 + r.frac * 3600000000 / 65536

/-- A record set aside is written again, its time rebased on `base`. -/
def rebase (base : Nat) (s : State) (r : PatRec) : State :=
  let t := recUs r + base
  patStore s { r with premount := false, pwrcyc := s.pat.pwrcyc, hours := hoursOf t, frac := fracOf t }

/-- The records of a ring in the order they were written. -/
def inOrder (ring : List (Nat × PatRec)) : List PatRec :=
  (ring.map (·.2)).mergeSort (fun a b => decide (a.num ≤ b.num))

/-- The ring is restored at the mount of a cold start from image `i`, of source `src` (R449, R452). -/
def restoreRing (s : State) (i : Option PatImg) (src : Nat) : State :=
  let g := i.getD {}
  let aside := inOrder s.pat.ring
  let p : Pat := { s.pat with
    ring := g.ring, last := g.last, events := g.events, pwrcyc := wrapAdd 32 g.pwr 1, premount := false
    drops := g.drops, dropMax := g.dropMax, overwrites := g.ovwr }
  let s1 := { s with pat := p, opUs := g.opUs + s.opUs }
  devRec (aside.foldl (rebase g.opUs) s1) 0xC0 (if src == 3 then 6 else 2) src

/-- The ring at the mount: kept after a device warm reset, else from the band of a complete flush or the
last persisted image. -/
def mountRing (s : State) (o : Nat) : State :=
  if !s.pat.premount then devRec s 0xC0 2 0
  else if o == 1 && s.pat.band.isSome then restoreRing s s.pat.band 1
  else if s.pat.img.isSome then restoreRing s s.pat.img 2
  else restoreRing s none 3

/-! ### Namespaces of the image (R53, R257, R310) -/

/-- A namespace whose slot no longer fits is detached from every controller. -/
def detachUnfit (s : State) (i : Nat) : State :=
  if attachable s i then s else setNs s i { getNs s i with attached := [] }

/-- The namespace of slot `i` is created, attached to every controller of its niche; where the DRBG cannot
serve, its key slots stay Empty. -/
def createSlot (s : State) (i : Nat) : State :=
  let a := slotCfg s i
  match createFmt s a a.lbafInit with
  | none => s
  | some f =>
    if !a.valid || !a.create || (getNs s i).live then s
    else journal (newNs (generateAll s (keySlots a)).1 i f 0 false (ctrlsOf s a.niche))

/-- The first load of an image creates its namespaces. -/
def firstLoad (s : State) : State :=
  if s.arm.made.contains s.arm.seq then s
  else
    let s1 := (List.range s.arm.cfg.slots.length).foldl createSlot s
    { s1 with arm := { s1.arm with made := s1.arm.made ++ [s1.arm.seq] } }

/-- Namespaces follow the structure loaded; the Maquette has none (R65). -/
def mountNs (s : State) : State :=
  if s.boot.maquette then s else firstLoad ((allSlots s).foldl detachUnfit s)

/-- The program failures a flush has recorded are handled (R357). -/
def flushFailures (s : State) : State :=
  s.plinth.progFails.foldl (fun a x =>
    if a.stripes.any (fun kv => kv.1 == x.1) then programFailure a x.1 x.2 else a) { s with plinth := { s.plinth with progFails := [] } }

/-- The media are mounted, the keys having come back: the band's blocks erased (R351), ring and namespaces (R449, R53); the
device sequence
number resumes 2^32 above the highest (R349), and what was recovered is what the Plinth gives from now on. -/
def finishMount (s : State) : State :=
  let s1 := { s with
    plinth := { s.plinth with exists_ := true, mounted := true, jrnl := 0, band := [] }
    sched := { s.sched with seqNo := s.sched.seqNo + 2 ^ 32 } }
  let s2 := mountNs (flushFailures (mountRing s1 s1.hold.outcome))
  { s2 with plinth := { s2.plinth with img := mapImg s2 } }

end Sys2Proof.Machine
end

