-- ==== Sys2Proof/Machine/Startup.lean ====
section
/-! DEFINITION. Start-up (R377 to R393, R460): rails, oscillators, fuses, the islands' release, the choice
of firmware and structure, the mount, start-up release and the two watchdogs. -/

namespace Sys2Proof.Machine

/-- Start-up moves on to phase `p`. -/
def goto_ (s : State) (p : Phase) : State := { s with boot := { s.boot with phase := p } }

/-! ### Rails (R385 steps 1 and 2, R389, R500 to R502) -/

/-- Place of a rail group in power-up order (R500). -/
def railBit : Rail → Nat
  | .sram => 0
  | .pcie => 1
  | .core => 2
  | .ana => 3
  | .io => 4
  | .ch => 5
  | .nand => 6
  | .ddr => 7

/-- PG_AON rises: the always-on island leaves reset and the LPO starts. -/
def execPgAonRise (s : State) : Out :=
  if s.boot.phase != .off then ok s
  else ok { goto_ s .lpo with
    nowUs := 0, board := { s.board with pgAon := true, pfail := false, pfailLowUs := 0 }, glb := { s.glb with reset := 0 } }

/-- PG_AON falls (R10): every AON field returns to its reset value; the media, the boot flash and the fuses
stay. -/
def execPgAonFall (s : State) : Out :=
  if s.boot.phase == .off then ok s
  else
    let t := coldClear s 0
    ok { t with
      board := { t.board with pgAon := false, thermTrip := false }
      boot := { t.boot with phase := .off, railFails := 0, railPend := false, sticky := 0 }
      clk := {}
      thm := {}
      glb := {} }

/-- The LPO is stable: the first RAIL_EN_* is asserted. -/
def execLpoStable (s : State) : Out :=
  if s.boot.phase != .lpo then ok s
  else ok { goto_ s .rails with board := { s.board with railEn := 1 } }

/-- How many rails are enabled in the power-up sequence. -/
def railsOn (s : State) : Nat := (chIn s.board.railEn).length

/-- The next RAIL_EN_* follows the PG_* of the rail before. -/
def execRailEnable (s : State) : Out :=
  let n := railsOn s
  if s.boot.phase != .rails || !(decide (n < 8)) || !(n == 0 || bitOf s.board.pg (n - 1)) then ok s
  else ok { s with board := { s.board with railEn := setBit s.board.railEn n } }

/-- A PG_* asserts; with the last of them the RCO starts. -/
def execPgAssert (r : Rail) (s : State) : Out :=
  if !(bitOf s.board.railEn (railBit r)) then ok s
  else
    let t := { s with board := { s.board with pg := setBit s.board.pg (railBit r) } }
    if s.boot.phase == .rails && t.board.pg == 255 then
      ok { t with boot := { t.boot with phase := .rco, railFails := 0 } }
    else ok t

/-- Whether the device stands in PS4, where a wake raises the rails and starts the oscillators again (R422). -/
def inPs4 (s : State) : Bool := s.boot.phase == .released && s.pm.ps == 4 && s.pm.entry == .none

/-- A PG_* is absent at its timeout: in the power-up sequence, or in an exit from PS4 (R389 step 2, R422). -/
def execPgTimeout (s : State) : Out :=
  if inPs4 s then ok (railFault s)
  else if s.boot.phase != .rails || s.board.railEn == s.board.pg then ok s else ok (railFault s)

/-- Whether the flush of R345 runs without a rail group (R502). -/
def flushSpares : Rail → Bool
  | .pcie | .io | .ddr => true
  | _ => false

/-- A PG_* falls while its rail is enabled (R389, R502): a flush first where it can run and something may
be buffered. -/
def execPgFall (r : Rail) (s : State) : Out :=
  if !(bitOf s.board.railEn (railBit r)) || !(bitOf s.board.pg (railBit r)) then ok s
  else
    let t := { s with board := { s.board with pg := clrBit s.board.pg (railBit r) } }
    let pend := { t with boot := { t.boot with railPend := true } }
    if !(flushSpares r) then ok (railFault t)
    else match s.boot.phase with
    | .released =>
      if s.pm.ps == 4 && s.pm.entry == .none then ok (railFault t)
      else ok (beginFlush (dropTest (abandonEntry pend 6)) .flushing)
    | .flushing => ok pend
    | .resetFlush => ok (goto_ pend .flushing)
    | _ => ok (railFault t)

/-- The power-up sequence is tried again (R389). -/
def execRailFaultRetry (s : State) : Out := if s.boot.phase != .railWait then ok s else ok (coldClear s 7)

/-! ### Oscillators, fuses, PLLs (R385 steps 3 to 6, R389, R394, R395) -/

/-- The housekeeping island leaves reset: in a cold start the straps are sampled and the fuses load next; after a device
warm reset in PS4 both stay and the XO starts (R377, R385). HU_CHG_EN rises (R338); with PFAIL_IN asserted the device halts
instead (R335). -/
def takeStraps (s : State) (st : Straps) : State :=
  let t := { s with
    board := { s.board with straps := if s.boot.warm then s.board.straps else st }
    clk := { s.clk with rcoRun := true } }
  if s.board.pfail then haltReset t
  else
    let u := if t.board.chgEn then t else chargerOn t
    if s.boot.warm then { u with boot := { u.boot with phase := .xo, warm := false } } else goto_ u .fuse

/-- The RCO is stable: in start-up, after a retry of R400, or for a switch that waited for it. -/
def execRcoStable (straps : Straps) (s : State) : Out :=
  match s.boot.phase with
  | .rco => ok (takeStraps s straps)
  | .rcoFail =>
    if s.clk.stopped then
      ok { goto_ s .islands with clk := { s.clk with rcoRun := true, stopped := false, fallback := true, lock := 8 } }
    else ok (takeStraps s straps)
  | _ => if s.clk.stopped then ok (enterFallback s 7 true) else ok s

/-- The RCO is not stable within 64 µs (R389 step 3, R400 step 4). -/
def execRcoStableTimeout (s : State) : Out :=
  match s.boot.phase with
  | .rco => ok { goto_ s .rcoFail with clk := { s.clk with rcoFail := true } }
  | .rcoFail => ok s
  | _ => if s.clk.stopped then ok (rcoFailure s) else ok s

/-- The fuse array after it has been read as `b`, `a` being what it held before: a bit only changes from 0 to 1 (R378), so
that a thermometer code, held as its count, only rises (R45, R384). -/
def fuseRise (a b : Fuses) : Fuses where
  trim := a.trim ||| b.trim
  member := a.member ||| b.member
  rankEn := a.rankEn ||| b.rankEn
  stepping := a.stepping ||| b.stepping
  lifecycle := max a.lifecycle b.lifecycle
  warn := a.warn ||| b.warn
  hot := a.hot ||| b.hot
  crit := a.crit ||| b.crit
  drk := a.drk ||| b.drk
  hashArm0 := a.hashArm0 ||| b.hashArm0
  hashArm1 := a.hashArm1 ||| b.hashArm1
  hashFw0 := a.hashFw0 ||| b.hashFw0
  hashFw1 := a.hashFw1 ||| b.hashFw1
  armEpoch := max a.armEpoch b.armEpoch
  fwFloor := max a.fwFloor b.fwFloor

/-- The fuse block has read its array twice (R378). -/
def execFuseLoad (first second : Fuses) (s : State) : Out :=
  if s.boot.phase != .fuse then ok s
  else if first == second then
    let f := fuseRise s.board.fuses first
    ok { goto_ s .xo with
      board := { s.board with fuses := f }, thm := { s.thm with warn := f.warn, hot := f.hot, crit := f.crit } }
  else ok { goto_ s .fuseHold with glb := { s.glb with fuseFault := true } }

/-- The XO is stable: the PLLs start and the monitor runs (R396). -/
def execXoStable (s : State) : Out :=
  if s.boot.phase != .xo then ok s
  else
    let b := { s.boot with phase := .pll, pllTried := 0, pllDone := 0 }
    ok { s with boot := b, clk := { s.clk with xoOk := true, monOff := false } }

/-- An exit from PS4 whose XO does not start: it goes on with fallback clocks (R389 step 5, R422). -/
def exitOnFallback (s : State) : State :=
  let t := exitPs4 s 3
  if absorbs t then { t with clk := { t.clk with fallback := true } }
  else enterFallback { t with clk := { t.clk with xoOk := false } } 7 true

/-- The XO is not stable in time: start-up, or the exit from PS4, continues on fallback clocks (R389, R422). -/
def execXoStableTimeout (s : State) : Out :=
  if inPs4 s then ok (exitOnFallback s)
  else if s.boot.phase != .xo then ok s
  else
    let b := { s.boot with phase := .islands }
    ok (glbSet { s with boot := b, clk := { s.clk with fallback := true, lock := setBit s.clk.lock 3 } } 0)

/-- PLL_Q and PLL_D have locked or been given up: the islands may leave reset (R385 step 6). PLL_M and PLL_Nn take their
rates from the structure (R239, R395), which step 9 loads, so step 6 waits for neither (DEDUCED, notes/assumptions/12.md). -/
def pllsDone (s : State) : State :=
  if bitOf s.boot.pllDone 0 && bitOf s.boot.pllDone 1 then goto_ s .islands else s

/-- Whether PLL_M can lock outside step 6: its XO runs, the DRAM is used and the device is not in PS3 or PS4. -/
def mayLockM (s : State) : Bool :=
  !(absorbs s) && s.clk.xoOk && !s.clk.fallback && decide (s.pm.ps < 3) && s.arm.cfg.dev.dramMode != 0

/-- A PLL has locked and counted (R395). PLL_R locks whenever the RCO runs, PLL_M also once the structure uses the DRAM; no
register shows the lock of a PLL_Nn, whose channel trains on it (R244, R406). -/
def execPllLock (pll : Pll) (s : State) : Out :=
  match pll with
  | .n _ => ok s
  | .r => if s.clk.rcoRun then ok { s with clk := { s.clk with lock := setBit s.clk.lock 3 } } else ok s
  | p =>
    if s.boot.phase == .pll && !(bitOf s.boot.pllDone (pllBit p)) then
      ok (pllsDone { s with
        boot := { s.boot with pllDone := setBit s.boot.pllDone (pllBit p) }
        clk := { s.clk with lock := setBit s.clk.lock (pllBit p) } })
    else if p == .m && mayLockM s then ok { s with clk := { s.clk with lock := setBit s.clk.lock 2 } }
    else ok s

/-- A PLL has not locked: it is tried once more, then its islands continue on fallback clocks (R389). -/
def execPllLockTimeout (pll : Pll) (s : State) : Out :=
  match pll with
  | .n _ | .r => ok s
  | p =>
    if s.boot.phase != .pll || bitOf s.boot.pllDone (pllBit p) then ok s
    else if !(bitOf s.boot.pllTried (pllBit p)) then
      ok { s with boot := { s.boot with pllTried := setBit s.boot.pllTried (pllBit p) } }
    else
      ok (pllsDone (glbSet { s with
        boot := { s.boot with pllDone := setBit s.boot.pllDone (pllBit p) }
        clk := { s.clk with fallback := true, lock := setBit s.clk.lock 3 } } 0))

/-! ### Islands out of reset (R385 step 8, R305 to R307) -/

/-- The entropy source's start-up test (R305): `fails` are the failures before it passes, up to three, each of the
repetition count test or of the other; a failed source stays failed until a cold reset. -/
def testSource (s : State) (fails : List Bool) : State :=
  if s.cipher.trng == 3 then s
  else
    let t := (fails.take 3).foldl (fun a r => if a.cipher.trng == 3 then a else sourceFails a r) s
    if t.cipher.trng == 3 then t else sourcePasses t

/-- The clocks of an island leaving reset: those of the oscillators and PLLs that ran on through a device reset. -/
def liveClocks (c : Clk) : Clk :=
  match c.live with
  | some (x, m, l) => { c with xoOk := x, monOff := m, lock := l, live := none, fence := [] }
  | none => { c with fence := [] }

/-- The islands leave reset: the entropy source is tested, the DRBG starts (R305 to R307), and HU_CHG_EN is high from here
on at the latest (R338). -/
def execIslandsOutOfReset (fails : List Bool) (s : State) : Out :=
  if s.boot.phase != .islands then ok s
  else
    let t := startDrbg (testSource (if s.board.chgEn then s else chargerOn s) fails)
    ok { goto_ t .choice with pm := operationalDomains t t.pm, clk := liveClocks t.clk }

/-! ### The choice of firmware and structure (R37, R38, R379, R388) -/

/-- STRAP_BOOT as it acts (R379): 11b counts as 10b where the part is deployed or decommissioned. -/
def bootStrap (s : State) : Nat := if s.board.straps.boot == 3 then 2 else s.board.straps.boot

/-- Whether the part stands in manufacturing test (R379). -/
def mfgTest (s : State) : Bool :=
  s.board.fuses.lifecycle == 0 || (s.board.fuses.lifecycle == 1 && s.board.straps.boot == 3)

def readErrOf (b : BootReads) (slot : Nat) : Option Nat := if slot == 0 then b.readErrA else b.readErrB

/-- The SEQ in an Armature slot's header, where it can be read: no read error at the header and its MAGIC
right (R38). -/
def seqOf (s : State) (b : BootReads) (slot : Nat) : Option Nat :=
  if readErrOf b slot == some 1 || u32 (armImg s slot) 0 != 0x52414C55 then none
  else some (u64 (armImg s slot) 0x10)

/-- The Armature slots in the order they are tried (R38). -/
def armOrder (s : State) (b : BootReads) : List Nat :=
  match bootStrap s with
  | 0 =>
    (match seqOf s b 0, seqOf s b 1 with
     | some x, some y => if x < y then [1, 0] else [0, 1]
     | none, some _ => [1, 0]
     | _, _ => [0, 1])
  | 1 => [1]
  | _ => []

/-- What the choice has found: failed slots as (P8, code) of record 002h, the last validation of each
Armature slot, what runs, and the firmware that could run the Maquette. -/
structure Choice where
  recs : List (Nat × Nat) := []
  errs : List (Nat × ValErr) := []
  run : Option (Nat × Nat) := none
  spare : Option Nat := none
  deriving DecidableEq, Repr

/-- A failure is recorded once. -/
def Choice.note (c : Choice) (p8 code : Nat) : Choice :=
  if c.recs.contains (p8, code) then c else { c with recs := c.recs ++ [(p8, code)] }

/-- The Armature slots tried against a firmware header, up to the first that passes R47. -/
def tryArms (s : State) (b : BootReads) (v : FwVec) : List Nat → Choice → Choice × Option Nat
  | [], c => (c, none)
  | k :: t, c =>
    let e := validateArm (armImg s k) s.board.fuses s.board.straps s.board.fuses.armEpoch v (readErrOf b k)
    let d := { c with errs := c.errs ++ [(k, e)] }
    if e.code == 0 then (d, some k) else tryArms s b v t (d.note (2 + k) e.code)

/-- One firmware slot of R388's loop. -/
def tryFw (s : State) (b : BootReads) (c : Choice) (f : Nat) : Choice :=
  let m := fwImg s f
  let bad := if f == 1 then b.readErrF1 else b.readErrF2
  let chk := fwCheck m s.board.fuses s.board.fuses.fwFloor
  if c.run.isSome || s.boot.failed.contains f then c
  else if bad || chk == 1 then c.note (f - 1) 1
  else
    let r := tryArms s b (fwVec m) (armOrder s b) c
    if chk != 0 then r.1.note (f - 1) chk
    else match r.2 with
    | some k => { r.1 with run := some (f, k) }
    | none => { r.1 with spare := r.1.spare.orElse (fun _ => some f) }

/-- The firmware slots, the active one first (R381). -/
def fwOrder (s : State) : List Nat := if activeSlot s.boot == 2 then [2, 1] else [1, 2]

def choose (s : State) (b : BootReads) : Choice := (fwOrder s).foldl (tryFw s b) {}

/-- Niche 0 of the Maquette (R65): bound to PF0 of every port, no I/O queues, commissions allowed but none; its media are
those of the mirror's niche 0. -/
def maquetteNiche (s : State) (e : NicheCfg) : NicheCfg :=
  { e with
    commOk := true, maxComm := 0, urgentOk := false, qbase := 0, qcount := 0
    bound0 := portPresent s 0, fn0 := 0, bound1 := portPresent s 1, fn1 := 0 }

/-- Thresholds and brace of the Maquette; the media's geometry is that of a valid mirror (R65). -/
def maquetteCfg (s : State) : ArmCfg :=
  let c := s.arm.mirrorCfg.getD {}
  let f := s.board.fuses
  { ({} : ArmCfg) with
    dev := { warn := f.warn, hot := f.hot, crit := f.crit }
    geom := c.geom, rankEn := c.rankEn, spare := c.spare
    niches := maquetteNiche s (c.niches.getD 0 {}) :: c.niches.drop 1 }

/-- The structure in force is `c`; thresholds, C_meas, the 10 s of the charger and the domains follow it (R48, R341), and the firmware sets the clock
enables: a port island stays gated while it is in reset, and port 1's where the straps give it no lanes (R68, R402). -/
def takeCfg (s : State) (c : ArmCfg) : State :=
  let t := { s with
    arm := { s.arm with cfg := c, base := c }
    thm := { s.thm with warn := c.dev.warn, hot := c.dev.hot, crit := c.dev.crit }
    hold := { s.hold with
      cmeas := if s.hold.tested then s.hold.cmeas else c.dev.huCap * 80 / 100
      chgWait := s.board.chgEn && decide (s.hold.huv * 100 < 95 * c.dev.huVchg) } }
  { t with
    pm := { t.pm with domDram := t.arm.cfg.dev.dramMode != 0 }
    clk := { t.clk with
      gate0 := maskOf ((List.range 20).filter (fun b => (b != 14 || c.dev.dramMode != 0) && (b != 15 || !t.board.perst0) &&
        (b != 16 || (portPresent t 1 && !t.board.perst1))))
      gate1 := 0xFFFFFFFF, gate2 := 0x3FFF
      gate3 := 0xFFFF } }

/-- An Armature slot is loaded (R37). -/
def loadArm (s : State) (k : Nat) : State :=
  let m := armImg s k
  takeCfg { s with arm := { s.arm with
    src := k, seq := u64 m 0x10, structLevel := u16 m 0x18, armif := u16 m 0x1A, epoch := u16 m 0xC } }
    (parseArm m s.board.fuses)

/-- The Maquette (R65). -/
def loadMaquette (s : State) : State :=
  takeCfg { s with boot := { s.boot with maquette := true }, arm := { s.arm with src := 2 } } (maquetteCfg s)

/-- The ROM recovery firmware runs (R388). -/
def loadRom (s : State) : State :=
  let t := loadMaquette s
  { t with boot := { t.boot with romRec := true, fwSlot := 3 } }

/-- The sticky bits of R389: power, clock, fuse, boot flash. -/
def stickyMask (s : State) : Nat :=
  maskOf ((if s.glb.pwrFault then [0] else []) ++ (if s.clk.rcoFail then [1] else []) ++
    (if s.glb.fuseFault then [2] else []) ++ (if s.glb.bootFlash then [3] else []))

/-- Each sticky bit is copied once into the event sector (R389, R392). -/
def copySticky (s : State) : State :=
  let m := stickyMask s
  let t := ((ranksIn m).filter (fun i => !(bitOf s.boot.sticky i))).foldl (fun a i => bootRec a 0x04 6 i 0 0) s
  { t with boot := { t.boot with sticky := m } }

/-- The record of a fallback in force (R388): PC 1 firmware, 2 Armature, 3 both. -/
def fallbackRec (s : State) : State :=
  let pc := b2n s.boot.fwFallback + 2 * b2n s.boot.armFallback
  if pc == 0 then s else bootRec s 0x03 5 s.boot.fwSlot 0 pc

/-- The result of the choice takes effect. -/
def applyChoice (s : State) (b : BootReads) (c : Choice) : State :=
  let s1 := c.recs.foldl (fun a r => bootRec a 0x02 5 r.1 0 r.2) s
  let s2 := c.errs.foldl (fun a ke => noteVal a ke.1 ke.2) s1
  let first := (fwOrder s).headD 1
  let order := armOrder s b
  match c.run, c.spare with
  | some (f, k), _ =>
    let t := loadArm { s2 with boot := runFw s2.boot (fwImg s f) f } k
    fallbackRec { t with boot := { t.boot with
      fwFallback := f != first, armFallback := order.head? != some k } }
  | none, some f =>
    let t := loadMaquette { s2 with boot := runFw s2.boot (fwImg s f) f }
    fallbackRec { t with boot := { t.boot with fwFallback := f != first, armFallback := !order.isEmpty } }
  | none, none =>
    let t := loadRom s2
    fallbackRec { t with boot := { t.boot with fwFallback := true, armFallback := !order.isEmpty } }

/-- Boot flash silent, or four watchdog restarts: the ROM recovery firmware without a choice (R389,
R391). -/
def romOnly (s : State) (silent : Bool) : State :=
  let t := loadRom { s with
    boot := { s.boot with silent := silent }, glb := { s.glb with bootFlash := s.glb.bootFlash || silent } }
  fallbackRec { t with boot := { t.boot with fwFallback := true, armFallback := true } }

/-- Steps 9 and 10 of R385. -/
def execFirmwareAndStructureChoice (b : BootReads) (s : State) : Out :=
  if s.boot.phase != .choice then ok s
  else if mfgTest s then ok (goto_ s .mfg)
  else
    let s0 := { s with boot := { s.boot with silent := b.silent } }
    let s1 := copySticky s0
    let s2 := if s.board.straps.boot == 3 then bootRec s1 0x06 4 0 0 0 else s1
    let s3 := if b.silent then romOnly s2 true
      else if decide (4 ≤ s.boot.restarts) then romOnly s2 false
      else applyChoice s2 b (choose s2 b)
    ok (goto_ s3 .mount)

/-! ### The mount (R351, R385 step 11, R389) -/

/-- Whether every channel has been enumerated and trained, or lost (R244). -/
def channelsUp (s : State) : Bool :=
  (List.range 32).all (fun n => (getChan s n).state == 2 || (getChan s n).state == 3)

/-- No checkpoint root or mirror can be read: the Maquette with the media not mounted, recorded (R389). -/
def mountFailed (s : State) : State :=
  let t := loadMaquette { s with arm := { s.arm with mirrorCfg := none, seq := 0, structLevel := 0, armif := 0, epoch := 0 } }
  let u := bootRec { t with boot := { t.boot with armFallback := true } } 0x03 5 t.boot.fwSlot 0
    (2 + b2n t.boot.fwFallback)
  goto_ { u with arm := { u.arm with mirrorCfg := s.arm.mirrorCfg } } .ready

def execPlinthMount (m : MountInput) (s : State) : Out :=
  if s.boot.phase != .mount then ok s
  else if s.boot.romRec || (s.boot.maquette && s.arm.mirrorCfg.isNone) then ok (goto_ s .ready)
  else if !(channelsUp s) then ok s
  else if m.blank then
    ok (goto_ (if s.boot.maquette then s else finishMount (restoreKeys (newPlinth m s) m.badKeys)) .ready)
  else if !m.readable then ok (mountFailed s)
  else ok (goto_ (finishMount (recover m (restoreKeys s m.badKeys))) .ready)

/-! ### Start-up release (R89, R390) -/

/-- The floors are raised (R45, R384). -/
def raiseFloors (s : State) : State :=
  let f := s.board.fuses
  { s with board := { s.board with fuses := { f with
    armEpoch := if s.boot.maquette then f.armEpoch else max f.armEpoch s.arm.epoch
    fwFloor := if s.boot.romRec then f.fwFloor else max f.fwFloor s.boot.fwRoll } } }

/-- The saved features are restored (R141). -/
def restoreSaved (s : State) : State :=
  if !s.plinth.mounted then s
  else
    let t := s.plinth.saved
    let w := tget (1440 + 65536 * 30) t 0xC2
    { s with
      pm := { s.pm with apstOn := tget 0 t 0x0C == 1, apst := s.plinth.savedApst }
      thm := { s.thm with graceMs := orDef (tget 0 t 0xC0) 2000 }
      hold := { s.hold with period := w % 65536, first := w / 65536 } }

/-- The event sector's records that are not yet in the ring go there (R392, R449). -/
def copyEvents (s : State) : State :=
  let l := (inOrder s.boot.events).filter (fun r => decide (s.boot.evCopied < r.num))
  let t := l.foldl (fun a r => patStore a { r with bootcopy := true }) s
  { t with boot := { t.boot with evCopied := s.boot.evNext } }

/-- Enabled controllers become ready (R89). -/
def readyAll (s : State) : State := { s with ctrls := tmap {} s.ctrls (fun _ v => { v with rdy := v.en }) }

/-- Release (R390): a band head that was restored is superseded by a root. -/
def release (s : State) : State :=
  let s1 := restoreSaved (raiseFloors s)
  let s2 := { s1 with
    glb := { s1.glb with released := true }, boot := { s1.boot with phase := .released }
    plinth := { s1.plinth with newest := if s1.plinth.mounted && s1.plinth.newest == 3 then 1 else s1.plinth.newest }
    clk := { s1.clk with fbFlush := s1.clk.fallback }
    fed := { s1.fed with time := if s1.fed.clkfb then s1.fed.time else 0, cable := if s1.boot.maquette then 0 else s1.arm.cfg.dev.cable, clkfb := fedMode s1 != 0 && s1.clk.fallback && !(bitOf s1.clk.lock 0) } }
  let s3 := fedStart { s2 with hold := { s2.hold with reasons := reasonsNow s2 } }
  let s4 := copyEvents (readyAll s3)
  let s5 := if s4.boot.fwFallback || s4.boot.armFallback || s4.boot.restarts != 0 then glbSet s4 11 else s4
  trigger (devRec s5 0x01 1 0 s5.boot.fwVer (s5.arm.seq % 2 ^ 24))

def execStartUpRelease (s : State) : Out := if s.boot.phase != .ready then ok s else ok (release s)

/-! ### Watchdogs (R391, R460) and the end of the reset flush (R459) -/

/-- A start-up progress report is missed (R391): start-up repeats from step 8 without that slot. -/
def execStartUpWatchdogExpiry (s : State) : Out :=
  if s.boot.phase != .mount && s.boot.phase != .ready then ok s
  else
    let n := satAdd 4 s.boot.restarts 1
    let s1 := bootRec { s with boot := { s.boot with
      restarts := n
      failed := if s.boot.romRec || s.boot.failed.contains s.boot.fwSlot then s.boot.failed
        else s.boot.failed ++ [s.boot.fwSlot] } } 0x05 6 n 0 0
    let t := deviceClear s1
    ok { goto_ t .islands with clk := { t.clk with fallback := s.clk.fallback, xoTrip := s.clk.xoTrip } }

/-- Whether the service watchdog is armed (R460). -/
def watchdogArmed (s : State) : Bool :=
  inService s && !s.hold.brace && !s.thm.stopping && (!s.clk.fbFlush || s.clk.fbDone) && decide (s.pm.ps < 3) &&
    s.pm.entry == .none

/-- 2 s have passed without a firmware report (R460). -/
def execServiceWatchdogExpiry (s : State) : Out :=
  if !(watchdogArmed s) then ok s
  else
    let n := satAdd 8 s.glb.wdog 1
    let times := s.boot.wdTimes.filter (fun t => decide (s.opUs ≤ t + 3600000000)) ++ [s.opUs]
    let bad := decide (3 ≤ times.length) && !s.boot.romRec && !(s.boot.failed.contains s.boot.fwSlot)
    let s1 := { s with
      glb := { s.glb with wdog := n }
      boot := { s.boot with
        wdTimes := times, failed := if bad then s.boot.failed ++ [s.boot.fwSlot] else s.boot.failed } }
    ok (deviceWarm (devRec s1 0x05 6 n) 3)

/-- The reset flush has ended: the islands enter reset and start-up runs again (R459). -/
def execResetFlushEnd (s : State) : Out :=
  if s.boot.phase != .resetFlush || !(flushDone s) then ok s else ok (warmRestart (endFlush s))

end Sys2Proof.Machine
end

