-- ==== Sys2Proof/Machine/Dispatch.lean ====
section
/-! DEFINITION. The dispatcher: one arm per command. -/

namespace Sys2Proof.Machine

def exec (i : Instr) (s : State) : Host.Outcome State Fault Refusal :=
  match i with
  | .deleteIoSq c cid qid => Sys2Proof.Machine.execDeleteIoSq c cid qid s
  | .deleteSqDrainComplete c qid => Sys2Proof.Machine.execDeleteSqDrainComplete c qid s
  | .createIoSq c cid qid qsize cqid pc => Sys2Proof.Machine.execCreateIoSq c cid qid qsize cqid pc s
  | .getLogPage c cid r => Sys2Proof.Machine.execGetLogPage c cid r s
  | .deleteIoCq c cid qid => Sys2Proof.Machine.execDeleteIoCq c cid qid s
  | .createIoCq c cid qid qsize pc ien iv => Sys2Proof.Machine.execCreateIoCq c cid qid qsize pc ien iv s
  | .identify c cid cns nsid cntid csi => Sys2Proof.Machine.execIdentify c cid cns nsid cntid csi s
  | .abort c cid sqid acid => Sys2Proof.Machine.execAbort c cid sqid acid s
  | .setFeatures c cid fid sv nsid cdw11 => Sys2Proof.Machine.execSetFeatures c cid fid sv nsid cdw11 s
  | .setFeaturesNumberOfQueues c cid nsqr ncqr => Sys2Proof.Machine.execSetFeaturesNumberOfQueues c cid nsqr ncqr s
  | .setFeaturesPowerManagement c cid ps wh => Sys2Proof.Machine.execSetFeaturesPowerManagement c cid ps wh s
  | .setFeaturesVolatileWriteCache c cid wce => Sys2Proof.Machine.execSetFeaturesVolatileWriteCache c cid wce s
  | .setFeaturesAsyncEventConfig c cid mask => Sys2Proof.Machine.execSetFeaturesAsyncEventConfig c cid mask s
  | .setFeaturesApst c cid sv enable entries => Sys2Proof.Machine.execSetFeaturesApst c cid sv enable entries s
  | .setFeaturesNoppme c cid noppme => Sys2Proof.Machine.execSetFeaturesNoppme c cid noppme s
  | .setFeaturesUrgentClassSqMapping c cid sqid cls rsv => Sys2Proof.Machine.execSetFeaturesUrgentClassSqMapping c cid sqid cls rsv s
  | .setFeaturesThermalGraceTime c cid sv graceMs => Sys2Proof.Machine.execSetFeaturesThermalGraceTime c cid sv graceMs s
  | .setFeaturesHoldupTestSchedule c cid sv periodMin firstS runNow => Sys2Proof.Machine.execSetFeaturesHoldupTestSchedule c cid sv periodMin firstS runNow s
  | .getFeatures c cid fid sel nsid cdw11 => Sys2Proof.Machine.execGetFeatures c cid fid sel nsid cdw11 s
  | .asynchronousEventRequest c cid => Sys2Proof.Machine.execAsynchronousEventRequest c cid s
  | .namespaceManagementCreate c cid csi flbas nsze ncap dps => Sys2Proof.Machine.execNamespaceManagementCreate c cid csi flbas nsze ncap dps s
  | .namespaceManagementDelete c cid nsid => Sys2Proof.Machine.execNamespaceManagementDelete c cid nsid s
  | .firmwareCommit c cid ca fs readErr => Sys2Proof.Machine.execFirmwareCommit c cid ca fs readErr s
  | .firmwareActivateWithoutReset c cid fs readErr => Sys2Proof.Machine.execFirmwareActivateWithoutReset c cid fs readErr s
  | .firmwareActivationDrained => Sys2Proof.Machine.execFirmwareActivationDrained s
  | .firmwareActivationTimeout => Sys2Proof.Machine.execFirmwareActivationTimeout s
  | .firmwareImageDownload c cid offset data => Sys2Proof.Machine.execFirmwareImageDownload c cid offset data s
  | .namespaceAttachment c cid nsid attach ctrls => Sys2Proof.Machine.execNamespaceAttachment c cid nsid attach ctrls s
  | .keepAlive c cid => Sys2Proof.Machine.execKeepAlive c cid s
  | .formatNvm c cid nsid lbaf pi_ ses => Sys2Proof.Machine.execFormatNvm c cid nsid lbaf pi_ ses s
  | .sanitizeExitFailureMode c cid ndas => Sys2Proof.Machine.execSanitizeExitFailureMode c cid ndas s
  | .sanitizeBlockErase c cid ndas => Sys2Proof.Machine.execSanitizeBlockErase c cid ndas s
  | .sanitizeCryptoErase c cid ndas => Sys2Proof.Machine.execSanitizeCryptoErase c cid ndas s
  | .sanitizeComplete niche => Sys2Proof.Machine.execSanitizeComplete niche s
  | .unsupportedOpcode c q cid opcode nsid cdw10 cdw13 => Sys2Proof.Machine.execUnsupportedOpcode c q cid opcode nsid cdw10 cdw13 s
  | .commissionOpen c cid dryrun rsv d => Sys2Proof.Machine.execCommissionOpen c cid dryrun rsv d s
  | .commissionClose c cid handle => Sys2Proof.Machine.execCommissionClose c cid handle s
  | .commissionModify c cid handle dryrun rsv rate rdecl burst prio zconc => Sys2Proof.Machine.execCommissionModify c cid handle dryrun rsv rate rdecl burst prio zconc s
  | .queueThaw c cid sqid => Sys2Proof.Machine.execQueueThaw c cid sqid s
  | .queueThawResume c sqid => Sys2Proof.Machine.execQueueThawResume c sqid s
  | .keyImport c cid action slot rsv ex ey wrapped => Sys2Proof.Machine.execKeyImport c cid action slot rsv ex ey wrapped s
  | .federationControlTakeMarker c cid tkid tkkind rsv => Sys2Proof.Machine.execFederationControlTakeMarker c cid tkid tkkind rsv s
  | .federationControlSetTime c cid time rsv => Sys2Proof.Machine.execFederationControlSetTime c cid time rsv s
  | .armatureStageWrite c cid slot offset count data progFail => Sys2Proof.Machine.execArmatureStageWrite c cid slot offset count data progFail s
  | .armatureStageVerify c cid slot readErr => Sys2Proof.Machine.execArmatureStageVerify c cid slot readErr s
  | .armatureStagePatch c cid recs => Sys2Proof.Machine.execArmatureStagePatch c cid recs s
  | .armatureStageClearPatches c cid => Sys2Proof.Machine.execArmatureStageClearPatches c cid s
  | .nicheReset c cid niche force rsv => Sys2Proof.Machine.execNicheReset c cid niche force rsv s
  | .flush c q cid nsid => Sys2Proof.Machine.execFlush c q cid nsid s
  | .write c q cid nsid slba nlb pi_ => Sys2Proof.Machine.execWrite c q cid nsid slba nlb pi_ s
  | .read c q cid nsid slba nlb pi_ => Sys2Proof.Machine.execRead c q cid nsid slba nlb pi_ s
  | .writeUncorrectable c q cid nsid slba nlb => Sys2Proof.Machine.execWriteUncorrectable c q cid nsid slba nlb s
  | .compare c q cid nsid slba nlb pi_ => Sys2Proof.Machine.execCompare c q cid nsid slba nlb pi_ s
  | .writeZeroes c q cid nsid slba nlb deac pi_ => Sys2Proof.Machine.execWriteZeroes c q cid nsid slba nlb deac pi_ s
  | .datasetManagement c q cid nsid ad ranges => Sys2Proof.Machine.execDatasetManagement c q cid nsid ad ranges s
  | .verify c q cid nsid slba nlb pi_ => Sys2Proof.Machine.execVerify c q cid nsid slba nlb pi_ s
  | .zoneOpen c q cid nsid slba selectAll => Sys2Proof.Machine.execZoneOpen c q cid nsid slba selectAll s
  | .zoneClose c q cid nsid slba selectAll => Sys2Proof.Machine.execZoneClose c q cid nsid slba selectAll s
  | .zoneFinish c q cid nsid slba selectAll => Sys2Proof.Machine.execZoneFinish c q cid nsid slba selectAll s
  | .zoneReset c q cid nsid slba selectAll => Sys2Proof.Machine.execZoneReset c q cid nsid slba selectAll s
  | .zoneOffline c q cid nsid slba selectAll => Sys2Proof.Machine.execZoneOffline c q cid nsid slba selectAll s
  | .zoneManagementReceive c q cid nsid slba zra zrasf partialRep numd => Sys2Proof.Machine.execZoneManagementReceive c q cid nsid slba zra zrasf partialRep numd s
  | .zoneAppend c q cid nsid zslba nlb piremap pi_ => Sys2Proof.Machine.execZoneAppend c q cid nsid zslba nlb piremap pi_ s
  | .frameAppend c q cid nsid zslba nlb frame fstart hflags fuse piremap pi_ => Sys2Proof.Machine.execFrameAppend c q cid nsid zslba nlb frame fstart hflags fuse piremap pi_ s
  | .zoneSeal c q cid nsid zslba nonce fuse rsv => Sys2Proof.Machine.execZoneSeal c q cid nsid zslba nonce fuse rsv s
  | .sqTailDoorbell c q value => Sys2Proof.Machine.execSqTailDoorbell c q value s
  | .cqHeadDoorbell c q value => Sys2Proof.Machine.execCqHeadDoorbell c q value s
  | .controllerEnable c cc aqa asq acq => Sys2Proof.Machine.execControllerEnable c cc aqa asq acq s
  | .controllerReset c => Sys2Proof.Machine.execControllerReset c s
  | .shutdownNotification c abrupt => Sys2Proof.Machine.execShutdownNotification c abrupt s
  | .nvmSubsystemReset port => Sys2Proof.Machine.execNvmSubsystemReset port s
  | .msixVectorUnmask c vector mask => Sys2Proof.Machine.execMsixVectorUnmask c vector mask s
  | .perstAssert port => Sys2Proof.Machine.execPerstAssert port s
  | .bothPerstLow => Sys2Proof.Machine.execBothPerstLow s
  | .perstRelease port => Sys2Proof.Machine.execPerstRelease port s
  | .functionLevelReset c => Sys2Proof.Machine.execFunctionLevelReset c s
  | .linkLoss port => Sys2Proof.Machine.execLinkLoss port s
  | .linkLossPortReset port => Sys2Proof.Machine.execLinkLossPortReset port s
  | .linkSpeedWidthChange port gen width => Sys2Proof.Machine.execLinkSpeedWidthChange port gen width s
  | .pf0MpsWrite port mps mrrs => Sys2Proof.Machine.execPf0MpsWrite port mps mrrs s
  | .poisonedCompletion id => Sys2Proof.Machine.execPoisonedCompletion id s
  | .completionTimeout what => Sys2Proof.Machine.execCompletionTimeout what s
  | .portInternalFault port => Sys2Proof.Machine.execPortInternalFault port s
  | .ptmRequest port enabled => Sys2Proof.Machine.execPtmRequest port enabled s
  | .ptmResponse port master localTime => Sys2Proof.Machine.execPtmResponse port master localTime s
  | .aspmL1IdleEntry port => Sys2Proof.Machine.execAspmL1IdleEntry port s
  | .l12ExitWake port => Sys2Proof.Machine.execL12ExitWake port s
  | .sqFetchCompletion c q entries => Sys2Proof.Machine.execSqFetchCompletion c q entries s
  | .sqFetchRequest c q => Sys2Proof.Machine.execSqFetchRequest c q s
  | .hostDataTlpReceived id data => Sys2Proof.Machine.execHostDataTlpReceived id data s
  | .arbiterGrant => Sys2Proof.Machine.execArbiterGrant s
  | .commandStart id => Sys2Proof.Machine.execCommandStart id s
  | .cipherSegmentStart => Sys2Proof.Machine.execCipherSegmentStart s
  | .writeCommitPoint id => Sys2Proof.Machine.execWriteCommitPoint id s
  | .queueFreezeLogEntry c q => Sys2Proof.Machine.execQueueFreezeLogEntry c q s
  | .readDataSentNotice id => Sys2Proof.Machine.execReadDataSentNotice id s
  | .cqePosting c q => Sys2Proof.Machine.execCqePosting c q s
  | .fineMapUpdate => Sys2Proof.Machine.execFineMapUpdate s
  | .bufferAllocation id => Sys2Proof.Machine.execBufferAllocation id s
  | .bufferFree niche cls index owner => Sys2Proof.Machine.execBufferFree niche cls index owner s
  | .parkListRetry niche => Sys2Proof.Machine.execParkListRetry niche s
  | .commissionTokenRefill => Sys2Proof.Machine.execCommissionTokenRefill s
  | .standardLimitTokenRefill => Sys2Proof.Machine.execStandardLimitTokenRefill s
  | .reEvaluation => Sys2Proof.Machine.execReEvaluation s
  | .schedulerTick => Sys2Proof.Machine.execSchedulerTick s
  | .stripeEligible sid => Sys2Proof.Machine.execStripeEligible sid s
  | .stripeGrant rank => Sys2Proof.Machine.execStripeGrant rank s
  | .eraseResume rank => Sys2Proof.Machine.execEraseResume rank s
  | .dieOperationSelect rank => Sys2Proof.Machine.execDieOperationSelect rank s
  | .programIssued ch rank ok => Sys2Proof.Machine.execProgramIssued ch rank ok s
  | .statusPoll ch rank r => Sys2Proof.Machine.execStatusPoll ch rank r s
  | .operationTimeout ch rank => Sys2Proof.Machine.execOperationTimeout ch rank s
  | .urgentReadGrant id => Sys2Proof.Machine.execUrgentReadGrant id s
  | .programResume ch rank => Sys2Proof.Machine.execProgramResume ch rank s
  | .channelBurstSelect ch => Sys2Proof.Machine.execChannelBurstSelect ch s
  | .codewordDecode rd r => Sys2Proof.Machine.execCodewordDecode rd r s
  | .scrubPass => Sys2Proof.Machine.execScrubPass s
  | .rowAgeTrigger rank row => Sys2Proof.Machine.execRowAgeTrigger rank row s
  | .recastDeadlineMissed rank row => Sys2Proof.Machine.execRecastDeadlineMissed rank row s
  | .recastCopyStripe rank row ends => Sys2Proof.Machine.execRecastCopyStripe rank row ends s
  | .recastCommit rank row => Sys2Proof.Machine.execRecastCommit rank row s
  | .frameIndexPersist slot zone => Sys2Proof.Machine.execFrameIndexPersist slot zone s
  | .gcVictimCollect slot => Sys2Proof.Machine.execGcVictimCollect slot s
  | .gcVictimFree slot => Sys2Proof.Machine.execGcVictimFree slot s
  | .gcBackgroundStart slot => Sys2Proof.Machine.execGcBackgroundStart slot s
  | .channelEnumeration ch pages eyes => Sys2Proof.Machine.execChannelEnumeration ch pages eyes s
  | .zqCalibrationShort ch ce => Sys2Proof.Machine.execZqCalibrationShort ch ce s
  | .eyeTracking ch ce rd wr => Sys2Proof.Machine.execEyeTracking ch ce rd wr s
  | .channelGap ch => Sys2Proof.Machine.execChannelGap ch s
  | .makeGap ch => Sys2Proof.Machine.execMakeGap ch s
  | .quickRetrainVerify ch rd wr => Sys2Proof.Machine.execQuickRetrainVerify ch rd wr s
  | .channelDomainOff d => Sys2Proof.Machine.execChannelDomainOff d s
  | .pfailInAssert => Sys2Proof.Machine.execPfailInAssert s
  | .pfailInDeassert => Sys2Proof.Machine.execPfailInDeassert s
  | .adcFastModeReading mv => Sys2Proof.Machine.execAdcFastModeReading mv s
  | .braceTimerExpiry => Sys2Proof.Machine.execBraceTimerExpiry s
  | .bandUnitWrite ch rank fail => Sys2Proof.Machine.execBandUnitWrite ch rank fail s
  | .flushHalt => Sys2Proof.Machine.execFlushHalt s
  | .flushHaltColdStart => Sys2Proof.Machine.execFlushHaltColdStart s
  | .healthTestStart => Sys2Proof.Machine.execHealthTestStart s
  | .healthTestSample mv => Sys2Proof.Machine.execHealthTestSample mv s
  | .healthTestTimeout => Sys2Proof.Machine.execHealthTestTimeout s
  | .holdupChargeTimeout => Sys2Proof.Machine.execHoldupChargeTimeout s
  | .checkpoint niche => Sys2Proof.Machine.execCheckpoint niche s
  | .journalPageProgram => Sys2Proof.Machine.execJournalPageProgram s
  | .adcScanConversion code value => Sys2Proof.Machine.execAdcScanConversion code value s
  | .graceTimerExpiry => Sys2Proof.Machine.execGraceTimerExpiry s
  | .thermalCoolTimer => Sys2Proof.Machine.execThermalCoolTimer s
  | .thermalHalt => Sys2Proof.Machine.execThermalHalt s
  | .thermalHaltRestart => Sys2Proof.Machine.execThermalHaltRestart s
  | .trip sensor => Sys2Proof.Machine.execTrip sensor s
  | .federationFrameReceived f edge => Sys2Proof.Machine.execFederationFrameReceived f edge s
  | .federationWindowMiss silent => Sys2Proof.Machine.execFederationWindowMiss silent s
  | .federationFrameOriginate => Sys2Proof.Machine.execFederationFrameOriginate s
  | .clockMonitorTrip count gapNs => Sys2Proof.Machine.execClockMonitorTrip count gapNs s
  | .pllLossOfLock pll => Sys2Proof.Machine.execPllLossOfLock pll s
  | .rcoFaultJudged count => Sys2Proof.Machine.execRcoFaultJudged count s
  | .rcoRetry => Sys2Proof.Machine.execRcoRetry s
  | .orderlyFlushComplete => Sys2Proof.Machine.execOrderlyFlushComplete s
  | .crossingRearm isl => Sys2Proof.Machine.execCrossingRearm isl s
  | .frequencyMeasurementDone count => Sys2Proof.Machine.execFrequencyMeasurementDone count s
  | .apstIdleTimer => Sys2Proof.Machine.execApstIdleTimer s
  | .ps3Entry => Sys2Proof.Machine.execPs3Entry s
  | .ps4Entry => Sys2Proof.Machine.execPs4Entry s
  | .ps4L12Reached => Sys2Proof.Machine.execPs4L12Reached s
  | .ps4L12Timeout => Sys2Proof.Machine.execPs4L12Timeout s
  | .noppmeWindow => Sys2Proof.Machine.execNoppmeWindow s
  | .powerEstimate est => Sys2Proof.Machine.execPowerEstimate est s
  | .pgAonRise => Sys2Proof.Machine.execPgAonRise s
  | .railEnable => Sys2Proof.Machine.execRailEnable s
  | .pgAssert r => Sys2Proof.Machine.execPgAssert r s
  | .pgTimeout => Sys2Proof.Machine.execPgTimeout s
  | .pgFall r => Sys2Proof.Machine.execPgFall r s
  | .railFaultRetry => Sys2Proof.Machine.execRailFaultRetry s
  | .rcoStable straps => Sys2Proof.Machine.execRcoStable straps s
  | .rcoStableTimeout => Sys2Proof.Machine.execRcoStableTimeout s
  | .fuseLoad first second => Sys2Proof.Machine.execFuseLoad first second s
  | .xoStable => Sys2Proof.Machine.execXoStable s
  | .xoStableTimeout => Sys2Proof.Machine.execXoStableTimeout s
  | .pllLock pll => Sys2Proof.Machine.execPllLock pll s
  | .pllLockTimeout pll => Sys2Proof.Machine.execPllLockTimeout pll s
  | .islandsOutOfReset fails => Sys2Proof.Machine.execIslandsOutOfReset fails s
  | .firmwareAndStructureChoice b => Sys2Proof.Machine.execFirmwareAndStructureChoice b s
  | .plinthMount m => Sys2Proof.Machine.execPlinthMount m s
  | .startUpRelease => Sys2Proof.Machine.execStartUpRelease s
  | .startUpWatchdogExpiry => Sys2Proof.Machine.execStartUpWatchdogExpiry s
  | .serviceWatchdogExpiry => Sys2Proof.Machine.execServiceWatchdogExpiry s
  | .resetFlushEnd => Sys2Proof.Machine.execResetFlushEnd s
  | .armatureMirrorWrite => Sys2Proof.Machine.execArmatureMirrorWrite s
  | .patinaRequest r => Sys2Proof.Machine.execPatinaRequest r s
  | .patinaPersist => Sys2Proof.Machine.execPatinaPersist s
  | .drbgReseed => Sys2Proof.Machine.execDrbgReseed s
  | .maskGeneratorReseed engine => Sys2Proof.Machine.execMaskGeneratorReseed engine s
  | .trngHealthTestFailure repetition => Sys2Proof.Machine.execTrngHealthTestFailure repetition s
  | .transportKeyReady => Sys2Proof.Machine.execTransportKeyReady s
  | .smbusBasicManagementCommand pecOk => Sys2Proof.Machine.execSmbusBasicManagementCommand pecOk s
  | .readNvmeMiDataStructure pecOk op dtyp id => Sys2Proof.Machine.execReadNvmeMiDataStructure pecOk op dtyp id s
  | .nvmSubsystemHealthStatusPoll pecOk => Sys2Proof.Machine.execNvmSubsystemHealthStatusPoll pecOk s
  | .controllerHealthStatusPoll pecOk c => Sys2Proof.Machine.execControllerHealthStatusPoll pecOk c s
  | .configurationGet pecOk id => Sys2Proof.Machine.execConfigurationGet pecOk id s
  | .configurationSet pecOk id value => Sys2Proof.Machine.execConfigurationSet pecOk id value s
  | .vpdRead pecOk offset len => Sys2Proof.Machine.execVpdRead pecOk offset len s
  | .tunnelledAdminCommand pecOk opcode r => Sys2Proof.Machine.execTunnelledAdminCommand pecOk opcode r s
  | .schCtrlClr port => Sys2Proof.Machine.execSchCtrlClr port s
  | .chnCtrlClr port ch => Sys2Proof.Machine.execChnCtrlClr port ch s
  | .poolCtrlClr port => Sys2Proof.Machine.execPoolCtrlClr port s
  | .xcrCtrlClr port => Sys2Proof.Machine.execXcrCtrlClr port s
  | .xcrTkselWrite port niche => Sys2Proof.Machine.execXcrTkselWrite port niche s
  | .hldTestRun port => Sys2Proof.Machine.execHldTestRun port s
  | .hldCtrlClr port => Sys2Proof.Machine.execHldCtrlClr port s
  | .fedCtrlClr port => Sys2Proof.Machine.execFedCtrlClr port s
  | .fedTimeLoRead port => Sys2Proof.Machine.execFedTimeLoRead port s
  | .clkFmcStart port sel ref n => Sys2Proof.Machine.execClkFmcStart port sel ref n s
  | .clkFaultClear port mask => Sys2Proof.Machine.execClkFaultClear port mask s
  | .pmCtrlClr port => Sys2Proof.Machine.execPmCtrlClr port s
  | .pmOverbudgetClear port => Sys2Proof.Machine.execPmOverbudgetClear port s
  | .thmCtrlClr port => Sys2Proof.Machine.execThmCtrlClr port s
  | .thmHaltClear port mask => Sys2Proof.Machine.execThmHaltClear port mask s
  | .patCtrlClr port => Sys2Proof.Machine.execPatCtrlClr port s
  | .glbCtrlClrAcc port => Sys2Proof.Machine.execGlbCtrlClrAcc port s
  | .glbIstatClear port mask => Sys2Proof.Machine.execGlbIstatClear port mask s
  | .glbAlertClear port mask => Sys2Proof.Machine.execGlbAlertClear port mask s
  | .nchIstatClear port niche mask => Sys2Proof.Machine.execNchIstatClear port niche mask s
  | .bar2RegisterWrite port offset dwords be value => Sys2Proof.Machine.execBar2RegisterWrite port offset dwords be value s
  | .bar2ReadRefused port offset dwords be => Sys2Proof.Machine.execBar2ReadRefused port offset dwords be s
  | .pgAonFall => Sys2Proof.Machine.execPgAonFall s
  | .lpoStable => Sys2Proof.Machine.execLpoStable s
  | .fullTrainingEnd ch rd wr => Sys2Proof.Machine.execFullTrainingEnd ch rd wr s
  | .sourceStartUpTestPass => Sys2Proof.Machine.execSourceStartUpTestPass s
  | .vfEnable port num enable => Sys2Proof.Machine.execVfEnable port num enable s
  | .aggregationTimeExpiry c vector => Sys2Proof.Machine.execAggregationTimeExpiry c vector s
  | .linkPartnerL1Request port l12 => Sys2Proof.Machine.execLinkPartnerL1Request port l12 s

end Sys2Proof.Machine
end

