-- ==== Sys2Proof/Machine/Time.lean ====
section
/-! DEFINITION. What the passing of one microsecond does where no command waits
(notes/assumptions/2.md): the operating time, the federation time, the time since power-on, and the end
of a shutdown whose started commands have ended. -/

namespace Sys2Proof.Machine

/-- Whether the federation time counts: its unit runs, or it counts on the fallback clock, or a root's unit is stopped for
a low power state (R364, R367, R371). -/
def fedCounts (s : State) : Bool :=
  !s.clk.stopped && (s.fed.unit || s.fed.clkfb || (fedMode s == 2 && s.glb.released))

/-- The federation time counts one microsecond of the device's own clock at the learned rate (R365, R368), with its part of
the offset that is being corrected (R365). -/
def fedTick (f : Fed) : Fed :=
  let x := 1000000000 + f.frac
  let d := if f.adjUs == 0 then 0 else f.adj.tdiv f.adjUs
  { f with time := ((f.time + x / f.spacing : Nat) + d : Int).toNat, frac := x % f.spacing, adj := f.adj - d, adjUs := f.adjUs - 1 }

/-- The clocks count one microsecond on (R444: no operating time in PS4). -/
def countUs (s : State) : State :=
  { s with
    nowUs := s.nowUs + 1
    opUs := if housekeepingUp s && s.pm.ps != 4 then s.opUs + 1 else s.opUs
    fed := if fedCounts s then fedTick s.fed else s.fed }

/-- One microsecond. -/
def tickUs (s : State) : State := endShutdowns (countUs s)

end Sys2Proof.Machine
end

