-- ==== Sys2Proof/Machine/Step.lean ====
section
/-! DEFINITION. One step: the command at the front of the queue, or, with nothing waiting, the
passing of one microsecond. -/

namespace Sys2Proof.Machine

/-- One microsecond with no command waiting: the clocks the spec names count on
(notes/assumptions/2.md). -/
def idle (s : State) : State := Sys2Proof.Machine.tickUs s

/-- Take the command at the front of the queue and run it with the queue's rest. -/
def step (s : State) : Host.Outcome State Fault Refusal :=
  match s.pending with
  | [] => .next (idle s)
  | i :: rest => exec i { s with pending := rest }

/-- The state with the command a table word spells put at the front of its queue; no row of the
table gives bits, so no word spells a command and the state stands as it is. -/
def State.withFetchWord (s : State) (nbits w : Nat) : State :=
  match Sys2Proof.decodeTableWord nbits w with
  | some i => { s with pending := i :: s.pending }
  | none => s

end Sys2Proof.Machine
end

