-- ==== Sys2Proof/Safety.lean ====
section
/-! DEFINITION. What the statements say of a run: what the device guards (key RAM, boot flash, fuses),
the invariant of its keys, and small words for what a command does. -/

namespace Sys2Proof.Machine

/-- What the device guards: the key slots with their shadow and saved table and the next key's number, the
boot flash with its headers, and the fuses. -/
structure Guarded where
  keys : List (Nat × Key)
  shadow : List (Nat × KeyEnt)
  table : List (Nat × KeyEnt)
  nextSer : Nat
  flash : List (Nat × List Nat)
  hdr0 : BootHdr
  hdr1 : BootHdr
  fuses : Fuses
  deriving DecidableEq, Repr

def guarded (s : State) : Guarded :=
  { keys := s.cipher.keys, shadow := s.cipher.shadow, table := s.cipher.table, nextSer := s.cipher.nextSer
    flash := s.boot.flash, hdr0 := s.boot.hdr0, hdr1 := s.boot.hdr1, fuses := s.board.fuses }

/-- Every key of a table, given by the keys' numbers, was drawn before number `n`, and no two slots of it hold the
same key. -/
def freshBelow (n : Nat) (t : List Nat) : Prop := (∀ k ∈ t, k < n) ∧ t.Pairwise (fun a b => a ≠ b)

def Guarded.fresh (g : Guarded) : Prop :=
  freshBelow g.nextSer (g.keys.map (·.2.ser)) ∧ freshBelow g.nextSer (g.shadow.map (·.2.ser)) ∧
    freshBelow g.nextSer (g.table.map (·.2.ser))

/-- No key ever comes back: in the key RAM, its shadow and the saved table every key was drawn before the
next number to be drawn, and no two slots of one table hold the same key (R310, R312). -/
def KeysFresh (s : State) : Prop := (guarded s).fresh

/-- The boot flash is in canonical form: blocks by rising number, each of 256 bytes, no erased block listed
(R36). -/
def FlashCanonical (s : State) : Prop :=
  twf [] s.boot.flash = true ∧ ∀ kv ∈ s.boot.flash, blkFill kv.2 = kv.2

/-- What the boot flash and the fuses hold: images, headers, floors. -/
def nonvolatile (s : State) : List (Nat × List Nat) × BootHdr × BootHdr × Fuses :=
  (s.boot.flash, s.boot.hdr0, s.boot.hdr1, s.board.fuses)

/-! ### What a row stands for -/

/-- The I/O entry a row submits, with its controller and queue. -/
def ioRow : Instr → Option (Nat × Nat × IoCmd)
  | .flush c q cid nsid => some (c, q, { op := .flush, cid := cid, nsid := nsid })
  | .write c q cid nsid slba nlb p =>
    some (c, q, { op := .write, cid := cid, nsid := nsid, slba := slba, nlb := nlb, pi := p })
  | .read c q cid nsid slba nlb p =>
    some (c, q, { op := .read, cid := cid, nsid := nsid, slba := slba, nlb := nlb, pi := p })
  | .writeUncorrectable c q cid nsid slba nlb =>
    some (c, q, { op := .writeUncorrectable, cid := cid, nsid := nsid, slba := slba, nlb := nlb })
  | .compare c q cid nsid slba nlb p =>
    some (c, q, { op := .compare, cid := cid, nsid := nsid, slba := slba, nlb := nlb, pi := p })
  | .writeZeroes c q cid nsid slba nlb deac p =>
    some (c, q, { op := .writeZeroes, cid := cid, nsid := nsid, slba := slba, nlb := nlb, deac := deac, pi := p })
  | .datasetManagement c q cid nsid ad ranges =>
    some (c, q, { op := .datasetManagement, cid := cid, nsid := nsid, ad := ad, ranges := ranges })
  | .verify c q cid nsid slba nlb p =>
    some (c, q, { op := .verify, cid := cid, nsid := nsid, slba := slba, nlb := nlb, pi := p })
  | .zoneOpen c q cid nsid slba a => some (c, q, { op := .zoneOpen, cid := cid, nsid := nsid, slba := slba, selectAll := a })
  | .zoneClose c q cid nsid slba a => some (c, q, { op := .zoneClose, cid := cid, nsid := nsid, slba := slba, selectAll := a })
  | .zoneFinish c q cid nsid slba a => some (c, q, { op := .zoneFinish, cid := cid, nsid := nsid, slba := slba, selectAll := a })
  | .zoneReset c q cid nsid slba a => some (c, q, { op := .zoneReset, cid := cid, nsid := nsid, slba := slba, selectAll := a })
  | .zoneOffline c q cid nsid slba a => some (c, q, { op := .zoneOffline, cid := cid, nsid := nsid, slba := slba, selectAll := a })
  | .zoneManagementReceive c q cid nsid slba zra zrasf p numd =>
    some (c, q, { op := .zoneReceive, cid := cid, nsid := nsid, slba := slba, zra := zra, zrasf := zrasf
                  partialRep := p, numd := numd })
  | .zoneAppend c q cid nsid zslba nlb r p =>
    some (c, q, { op := .zoneAppend, cid := cid, nsid := nsid, slba := zslba, nlb := nlb, piremap := r, pi := p })
  | .frameAppend c q cid nsid zslba nlb frame fstart hflags fuse r p =>
    some (c, q, { op := .frameAppend, cid := cid, nsid := nsid, slba := zslba, nlb := nlb, frame := frame
                  fstart := fstart, hflags := hflags, fuse := fuse, piremap := r, pi := p })
  | .zoneSeal c q cid nsid zslba nonce fuse rsv =>
    some (c, q, { op := .zoneSeal, cid := cid, nsid := nsid, slba := zslba, nonce := nonce, fuse := fuse, rsv := rsv })
  | _ => none

/-- The I/O entry a row submits in state `s`: an opcode or a Zone Management Send action that the controller does
not list has one too. -/
def ioEntry (s : State) (i : Instr) : Option (Nat × Nat × IoCmd) :=
  match i with
  | .unsupportedOpcode c q cid opcode nsid _ cdw13 =>
    if (ioOpcodes s).contains opcode && (opcode != 0x79 || [1, 2, 3, 4, 5].contains (cdw13 % 256)) then none
    else some (c, q, { op := .other opcode, cid := cid, nsid := nsid, rsv := cdw13 })
  | _ => ioRow i

/-- The state in which the entry `io` has landed in SQ (c, q)'s staging store (R105). -/
def landed (s : State) (c q : Nat) (io : IoCmd) : State :=
  let v := getSq s (qk c q)
  let h := if v.size == 0 then 0 else (v.head + 1) % v.size
  land (setSq s (qk c q) { v with head := h, tail := if v.head == v.tail then h else v.tail }) (qk c q) io

/-- `u` is the state in which the entry `io` that has just landed in SQ (c, q) is granted as command `id`
(R105, R107); no fetch of its SQ is in flight, no stop is in force, the SQ's port has its link, the SQ is not frozen and no other Flush waits. -/
structure Granted (s : State) (c q : Nat) (io : IoCmd) (u : State) (id : Nat) : Prop where
  ioQueue : q ≠ 0
  fetched : fetches s (qk c q) = true
  quiet : (getSq s (qk c q)).inflight = 0
  granted : arbGrant (landed s c q io) = (u, some id)
  has : hasCmd u id = true
  waits : (getCmd u id).phase = .granted
  entry : (getCmd u id).io = io
  from_ : (getCmd u id).sq = qk c q
  port_ : c < 128
  queue_ : q < 65536
  goes : fetchStopped u = false
  up : portLost u c = false
  thawed : (getSq u (qk c q)).frz = none
  noFlush : ∀ kv ∈ u.cmds, kv.2.io.op = .flush → kv.1 = id

/-- A completion of command `cid` of SQ (c, q) with status `st` waits on the SQ's completion queue. -/
def CqeWaits (t : State) (c q cid : Nat) (st : Status) : Prop :=
  ∃ e ∈ (getCq t (qk c (if q == 0 then 0 else (getSq t (qk c q)).cqid))).waiting,
    e.cid = cid ∧ e.sq = q ∧ e.status = st

/-- No entry into a low-power state runs and none is in force. -/
def Awake (s : State) : Prop := s.pm.entry = .none ∧ s.pm.ps < 3

/-- No Flush has started and waits for other commands. -/
def NoFlushWaits (s : State) : Prop := ∀ kv ∈ s.cmds, kv.2.io.op ≠ .flush

/-- No finish by the controller waits for a zone's write slot (R171). -/
def NoFinishWaits (s : State) : Prop := ∀ kv ∈ s.zones, kv.2.finPend = false

/-- What the media hold, the namespaces on them and what the device guards are as they were; of the rows only one that
reads still hold may become erase-pending as they go (R274). -/
structure MediaKept (s t : State) : Prop where
  sectors : t.sectors = s.sectors
  stripes : t.stripes = s.stripes
  rows : twf {} s.rows = true → ∀ k, (getRow s k).st ≠ .leaving → getRow t k = getRow s k
  leaving : twf {} s.rows = true → ∀ k, (getRow s k).st = .leaving → (getRow t k).st = .leaving ∨ (getRow t k).st = .pending
  fine_ : t.fine = s.fine
  ns : t.ns = s.ns
  guards : guarded t = guarded s

/-- Controller `c` has no queue and no command (R130, R456). -/
structure NoQueues (t : State) (c : Nat) : Prop where
  sqs : ∀ q, q < 65536 → (getSq t (qk c q)).live = false
  cqs : ∀ q, q < 65536 → (getCq t (qk c q)).live = false
  cmds : ∀ kv ∈ t.cmds, ctrlOfSq kv.2.sq ≠ c

/-- A flush has begun in phase `ph` (R333, R345 steps 1 and 2): no command and no staged entry is left, and the
data, the zones but one whose finish waited for its write slot (R171), and what the device guards are where they were. -/
structure FlushBegun (s t : State) (ph : Phase) : Prop where
  phase : t.boot.phase = ph
  cmds : t.cmds = []
  staged : ∀ k, (getSq t k).staged = []
  noBrace : t.hold.brace = false
  noEntry : t.pm.entry = .none
  sectors : t.sectors = s.sectors
  zones : NoFinishWaits s → t.zones = s.zones
  ns : t.ns = s.ns
  guards : guarded t = guarded s

/-- The islands have been reset (R13, R455): no port, controller, queue, command or commission is left and the key
RAM is empty, while the data, the zones, released from the holds of frozen queues (R123), the saved key table, the
boot flash and the fuses stay. -/
structure IslandsReset (s t : State) : Prop where
  ports : t.ports = []
  ctrls : t.ctrls = []
  sqs : t.sqs = []
  cqs : t.cqs = []
  cmds : t.cmds = []
  comms : t.comms = []
  keys : t.cipher.keys = []
  table : t.cipher.table = s.cipher.table
  sectors : t.sectors = s.sectors
  zones : t.zones = tmap {} s.zones (fun _ v => { v with held := [] })
  ns : t.ns = s.ns
  store : nonvolatile t = nonvolatile s

/-- Every entry of the retained shadow that unwraps is a slot of the key RAM again, its key in two shares (R301,
R313). -/
def KeysBack (s t : State) : Prop :=
  ∀ i e v, (i, e) ∈ s.cipher.shadow → (∀ d, (i, d) ∈ s.cipher.shadow → d = e) → e.st ≠ 0 →
    unwrapEntry s i e = some v →
    (getKey t i).st = e.st ∧ (getKey t i).ser = e.ser ∧
      (getKey t i).share0 ^^^ (getKey t i).share1 = expandKey e.isSeal v

end Sys2Proof.Machine
end

