-- ==== Sys2Proof/WellFormed.lean ====
section
/-! DEFINITION. What makes a command well formed: every numeric operand fits the field the manual gives
it. A command of the wire cannot be otherwise, and the meanings never depend on it: they are total. Serial
numbers the model itself gives (of commands and stripes) have no width. -/

namespace Sys2Proof

def LogReq.fields (r : LogReq) : List (Nat × Nat) :=
  [(r.lid, 8), (r.nsid, 32), (r.lsp, 7), (r.lsi, 16), (r.len, 35), (r.lpo, 64)]

def CommDesc.fields (d : CommDesc) : List (Nat × Nat) :=
  [(d.nsid, 32), (d.rate, 32), (d.burst, 32), (d.prio, 3), (d.zconc, 8), (d.nsq, 8), (d.rdecl, 32), (d.tag, 64)] ++
    d.sqs.flatMap (fun x => [(x.1, 16), (x.2, 16)])

def PatchRec.fields (r : PatchRec) : List (Nat × Nat) :=
  [(r.section_, 8), (r.index, 8), (r.field, 8), (r.rsv, 8), (r.value, 32)]

def ApstEntry.fields (e : ApstEntry) : List (Nat × Nat) := [(e.itps, 5), (e.itpt, 24)]

def FedFrame.fields (f : FedFrame) : List (Nat × Nat) :=
  [(f.ver, 4), (f.hop, 4), (f.out, 1), (f.pid, 13), (f.cdly, 20), (f.time, 64), (f.tkid, 24), (f.tkkind, 2),
    (f.tkrep, 3), (f.crc, 16)]

def Straps.fields (x : Straps) : List (Nat × Nat) :=
  [(x.boot, 2), (x.lanes, 2), (x.gen, 1), (x.holdup, 1), (x.fed, 2), (x.dram, 1)]

/-- The floors are counts of a thermometer code. -/
def Fuses.fields (f : Fuses) : List (Nat × Nat) :=
  [(f.member, 8), (f.rankEn, 32), (f.stepping, 4), (f.lifecycle, 3), (f.warn, 8), (f.hot, 8), (f.crit, 8),
    (f.hashArm0, 384), (f.hashArm1, 384), (f.hashFw0, 384), (f.hashFw1, 384), (f.armEpoch, 7), (f.fwFloor, 8)]

def PiArgs.fields (x : PiArgs) : List (Nat × Nat) :=
  [(x.prinfo, 4), (x.ilbrt, 32), (x.lbat, 16), (x.lbatm, 16)]

def IoCmd.fields (x : IoCmd) : List (Nat × Nat) :=
  [(x.cid, 16), (x.nsid, 32), (x.slba, 64), (x.nlb, 16), (x.zra, 8), (x.zrasf, 8), (x.numd, 32), (x.frame, 64),
    (x.hflags, 16), (x.fuse, 2), (x.nonce, 96)] ++ x.pi.fields ++ x.ranges.flatMap (fun r => [(r.1, 64), (r.2, 32)])


/-- The numeric operands of a command with the width in bits of the field each is carried in. -/
def Instr.fields : Instr → List (Nat × Nat)
  | .deleteIoSq c cid qid => [(c, 7), (cid, 16), (qid, 16)]
  | .deleteSqDrainComplete c qid => [(c, 7), (qid, 16)]
  | .createIoSq c cid qid qsize cqid _ => [(c, 7), (cid, 16), (qid, 16), (qsize, 16), (cqid, 16)]
  | .getLogPage c cid r => [(c, 7), (cid, 16)] ++ r.fields
  | .deleteIoCq c cid qid => [(c, 7), (cid, 16), (qid, 16)]
  | .createIoCq c cid qid qsize _ _ iv => [(c, 7), (cid, 16), (qid, 16), (qsize, 16), (iv, 16)]
  | .identify c cid cns nsid cntid csi => [(c, 7), (cid, 16), (cns, 8), (nsid, 32), (cntid, 16), (csi, 8)]
  | .abort c cid sqid acid => [(c, 7), (cid, 16), (sqid, 16), (acid, 16)]
  | .setFeatures c cid fid _ nsid cdw11 => [(c, 7), (cid, 16), (fid, 8), (nsid, 32), (cdw11, 32)]
  | .setFeaturesNumberOfQueues c cid nsqr ncqr => [(c, 7), (cid, 16), (nsqr, 16), (ncqr, 16)]
  | .setFeaturesPowerManagement c cid ps wh => [(c, 7), (cid, 16), (ps, 5), (wh, 3)]
  | .setFeaturesVolatileWriteCache c cid _ => [(c, 7), (cid, 16)]
  | .setFeaturesAsyncEventConfig c cid mask => [(c, 7), (cid, 16), (mask, 32)]
  | .setFeaturesApst c cid _ _ entries => [(c, 7), (cid, 16)] ++ entries.flatMap ApstEntry.fields
  | .setFeaturesNoppme c cid _ => [(c, 7), (cid, 16)]
  | .setFeaturesUrgentClassSqMapping c cid sqid cls _ => [(c, 7), (cid, 16), (sqid, 16), (cls, 3)]
  | .setFeaturesThermalGraceTime c cid _ graceMs => [(c, 7), (cid, 16), (graceMs, 16)]
  | .setFeaturesHoldupTestSchedule c cid _ periodMin firstS _ => [(c, 7), (cid, 16), (periodMin, 16), (firstS, 8)]
  | .getFeatures c cid fid sel nsid cdw11 => [(c, 7), (cid, 16), (fid, 8), (sel, 3), (nsid, 32), (cdw11, 32)]
  | .asynchronousEventRequest c cid => [(c, 7), (cid, 16)]
  | .namespaceManagementCreate c cid csi flbas nsze ncap dps => [(c, 7), (cid, 16), (csi, 8), (flbas, 8), (nsze, 64), (ncap, 64), (dps, 8)]
  | .namespaceManagementDelete c cid nsid => [(c, 7), (cid, 16), (nsid, 32)]
  | .firmwareCommit c cid ca fs _ => [(c, 7), (cid, 16), (ca, 3), (fs, 3)]
  | .firmwareActivateWithoutReset c cid fs _ => [(c, 7), (cid, 16), (fs, 3)]
  | .firmwareActivationDrained => []
  | .firmwareActivationTimeout => []
  | .firmwareImageDownload c cid offset _ => [(c, 7), (cid, 16), (offset, 32)]
  | .namespaceAttachment c cid nsid _ _ => [(c, 7), (cid, 16), (nsid, 32)]
  | .keepAlive c cid => [(c, 7), (cid, 16)]
  | .formatNvm c cid nsid lbaf pi_ ses => [(c, 7), (cid, 16), (nsid, 32), (lbaf, 6), (pi_, 3), (ses, 3)]
  | .sanitizeExitFailureMode c cid _ => [(c, 7), (cid, 16)]
  | .sanitizeBlockErase c cid _ => [(c, 7), (cid, 16)]
  | .sanitizeCryptoErase c cid _ => [(c, 7), (cid, 16)]
  | .sanitizeComplete niche => [(niche, 6)]
  | .unsupportedOpcode c q cid opcode nsid cdw10 cdw13 => [(c, 7), (q, 16), (cid, 16), (opcode, 8), (nsid, 32), (cdw10, 32), (cdw13, 32)]
  | .commissionOpen c cid _ _ d => [(c, 7), (cid, 16)] ++ d.fields
  | .commissionClose c cid handle => [(c, 7), (cid, 16), (handle, 16)]
  | .commissionModify c cid handle _ _ rate rdecl burst prio zconc => [(c, 7), (cid, 16), (handle, 16), (rate, 32), (rdecl, 32), (burst, 32), (prio, 3), (zconc, 3)]
  | .queueThaw c cid sqid => [(c, 7), (cid, 16), (sqid, 16)]
  | .queueThawResume c sqid => [(c, 7), (sqid, 16)]
  | .keyImport c cid action slot _ ex ey wrapped => [(c, 7), (cid, 16), (action, 32), (slot, 8), (ex, 384), (ey, 384), (wrapped, 576)]
  | .federationControlTakeMarker c cid tkid tkkind _ => [(c, 7), (cid, 16), (tkid, 24), (tkkind, 2)]
  | .federationControlSetTime c cid time _ => [(c, 7), (cid, 16), (time, 64)]
  | .armatureStageWrite c cid slot offset count _ _ => [(c, 7), (cid, 16), (slot, 8), (offset, 32), (count, 32)]
  | .armatureStageVerify c cid slot _ => [(c, 7), (cid, 16), (slot, 8)]
  | .armatureStagePatch c cid recs => [(c, 7), (cid, 16)] ++ recs.flatMap PatchRec.fields
  | .armatureStageClearPatches c cid => [(c, 7), (cid, 16)]
  | .nicheReset c cid niche _ _ => [(c, 7), (cid, 16), (niche, 6)]
  | .flush c q cid nsid => [(c, 7), (q, 16), (cid, 16), (nsid, 32)]
  | .write c q cid nsid slba nlb pi_ => [(c, 7), (q, 16), (cid, 16), (nsid, 32), (slba, 64), (nlb, 16)] ++ pi_.fields
  | .read c q cid nsid slba nlb pi_ => [(c, 7), (q, 16), (cid, 16), (nsid, 32), (slba, 64), (nlb, 16)] ++ pi_.fields
  | .writeUncorrectable c q cid nsid slba nlb => [(c, 7), (q, 16), (cid, 16), (nsid, 32), (slba, 64), (nlb, 16)]
  | .compare c q cid nsid slba nlb pi_ => [(c, 7), (q, 16), (cid, 16), (nsid, 32), (slba, 64), (nlb, 16)] ++ pi_.fields
  | .writeZeroes c q cid nsid slba nlb _ pi_ => [(c, 7), (q, 16), (cid, 16), (nsid, 32), (slba, 64), (nlb, 16)] ++ pi_.fields
  | .datasetManagement c q cid nsid _ ranges => [(c, 7), (q, 16), (cid, 16), (nsid, 32)] ++ ranges.flatMap (fun r => [(r.1, 64), (r.2, 32)])
  | .verify c q cid nsid slba nlb pi_ => [(c, 7), (q, 16), (cid, 16), (nsid, 32), (slba, 64), (nlb, 16)] ++ pi_.fields
  | .zoneOpen c q cid nsid slba _ => [(c, 7), (q, 16), (cid, 16), (nsid, 32), (slba, 64)]
  | .zoneClose c q cid nsid slba _ => [(c, 7), (q, 16), (cid, 16), (nsid, 32), (slba, 64)]
  | .zoneFinish c q cid nsid slba _ => [(c, 7), (q, 16), (cid, 16), (nsid, 32), (slba, 64)]
  | .zoneReset c q cid nsid slba _ => [(c, 7), (q, 16), (cid, 16), (nsid, 32), (slba, 64)]
  | .zoneOffline c q cid nsid slba _ => [(c, 7), (q, 16), (cid, 16), (nsid, 32), (slba, 64)]
  | .zoneManagementReceive c q cid nsid slba zra zrasf _ numd => [(c, 7), (q, 16), (cid, 16), (nsid, 32), (slba, 64), (zra, 8), (zrasf, 8), (numd, 32)]
  | .zoneAppend c q cid nsid zslba nlb _ pi_ => [(c, 7), (q, 16), (cid, 16), (nsid, 32), (zslba, 64), (nlb, 16)] ++ pi_.fields
  | .frameAppend c q cid nsid zslba nlb frame _ hflags fuse _ pi_ => [(c, 7), (q, 16), (cid, 16), (nsid, 32), (zslba, 64), (nlb, 16), (frame, 64), (hflags, 16), (fuse, 2)] ++ pi_.fields
  | .zoneSeal c q cid nsid zslba nonce fuse _ => [(c, 7), (q, 16), (cid, 16), (nsid, 32), (zslba, 64), (nonce, 96), (fuse, 2)]
  | .sqTailDoorbell c q value => [(c, 7), (q, 16), (value, 16)]
  | .cqHeadDoorbell c q value => [(c, 7), (q, 16), (value, 16)]
  | .controllerEnable c cc aqa asq acq => [(c, 7), (cc, 32), (aqa, 32), (asq, 64), (acq, 64)]
  | .controllerReset c => [(c, 7)]
  | .shutdownNotification c _ => [(c, 7)]
  | .nvmSubsystemReset port => [(port, 1)]
  | .msixVectorUnmask c _ _ => [(c, 7)]
  | .perstAssert port => [(port, 1)]
  | .bothPerstLow => []
  | .perstRelease port => [(port, 1)]
  | .functionLevelReset c => [(c, 7)]
  | .linkLoss port => [(port, 1)]
  | .linkLossPortReset port => [(port, 1)]
  | .linkSpeedWidthChange port gen width => [(port, 1), (gen, 3), (width, 5)]
  | .pf0MpsWrite port mps mrrs => [(port, 1), (mps, 3), (mrrs, 3)]
  | .poisonedCompletion _ => []
  | .completionTimeout _ => []
  | .portInternalFault port => [(port, 1)]
  | .ptmRequest port _ => [(port, 1)]
  | .ptmResponse port master localTime => [(port, 1), (master, 64), (localTime, 64)]
  | .aspmL1IdleEntry port => [(port, 1)]
  | .l12ExitWake port => [(port, 1)]
  | .sqFetchCompletion c q entries => [(c, 7), (q, 16)] ++ entries.flatMap IoCmd.fields
  | .sqFetchRequest c q => [(c, 7), (q, 16)]
  | .hostDataTlpReceived _ _ => []
  | .arbiterGrant => []
  | .commandStart _ => []
  | .cipherSegmentStart => []
  | .writeCommitPoint _ => []
  | .queueFreezeLogEntry c q => [(c, 7), (q, 16)]
  | .readDataSentNotice _ => []
  | .cqePosting c q => [(c, 7), (q, 16)]
  | .fineMapUpdate => []
  | .bufferAllocation _ => []
  | .bufferFree niche cls index _ => [(niche, 6), (cls, 3), (index, 16)]
  | .parkListRetry niche => [(niche, 6)]
  | .commissionTokenRefill => []
  | .standardLimitTokenRefill => []
  | .reEvaluation => []
  | .schedulerTick => []
  | .stripeEligible _ => []
  | .stripeGrant rank => [(rank, 5)]
  | .eraseResume rank => [(rank, 5)]
  | .dieOperationSelect rank => [(rank, 5)]
  | .programIssued ch rank _ => [(ch, 5), (rank, 5)]
  | .statusPoll ch rank _ => [(ch, 5), (rank, 5)]
  | .operationTimeout ch rank => [(ch, 5), (rank, 5)]
  | .urgentReadGrant _ => []
  | .programResume ch rank => [(ch, 5), (rank, 5)]
  | .channelBurstSelect ch => [(ch, 5)]
  | .codewordDecode _ _ => []
  | .scrubPass => []
  | .rowAgeTrigger rank row => [(rank, 5), (row, 13)]
  | .recastDeadlineMissed rank row => [(rank, 5), (row, 13)]
  | .recastCopyStripe rank row ends => [(rank, 5), (row, 13)] ++ ends.flatMap (fun e => [(e.ch, 5), (e.step, 4)])
  | .recastCommit rank row => [(rank, 5), (row, 13)]
  | .frameIndexPersist slot zone => [(slot, 10), (zone, 17)]
  | .gcVictimCollect slot => [(slot, 10)]
  | .gcVictimFree slot => [(slot, 10)]
  | .gcBackgroundStart slot => [(slot, 10)]
  | .channelEnumeration ch _ eyes => [(ch, 5)] ++ eyes.flatMap (fun e => [(e.1, 8), (e.2, 8)])
  | .zqCalibrationShort ch ce => [(ch, 5), (ce, 3)]
  | .eyeTracking ch ce rd wr => [(ch, 5), (ce, 3), (rd, 8), (wr, 8)]
  | .channelGap ch => [(ch, 5)]
  | .makeGap ch => [(ch, 5)]
  | .quickRetrainVerify ch rd wr => [(ch, 5), (rd, 8), (wr, 8)]
  | .channelDomainOff d => [(d, 3)]
  | .pfailInAssert => []
  | .pfailInDeassert => []
  | .adcFastModeReading mv => [(mv, 16)]
  | .braceTimerExpiry => []
  | .bandUnitWrite ch rank _ => [(ch, 5), (rank, 5)]
  | .flushHalt => []
  | .flushHaltColdStart => []
  | .healthTestStart => []
  | .healthTestSample mv => [(mv, 16)]
  | .healthTestTimeout => []
  | .holdupChargeTimeout => []
  | .checkpoint niche => [(niche, 6)]
  | .journalPageProgram => []
  | .adcScanConversion code _ => [(code, 12)]
  | .graceTimerExpiry => []
  | .thermalCoolTimer => []
  | .thermalHalt => []
  | .thermalHaltRestart => []
  | .trip sensor => [(sensor, 5)]
  | .federationFrameReceived f edge => [(edge, 64)] ++ f.fields
  | .federationWindowMiss _ => []
  | .federationFrameOriginate => []
  | .clockMonitorTrip _ gapNs => [(gapNs, 24)]
  | .pllLossOfLock _ => []
  | .rcoFaultJudged count => [(count, 32)]
  | .rcoRetry => []
  | .orderlyFlushComplete => []
  | .crossingRearm _ => []
  | .frequencyMeasurementDone count => [(count, 32)]
  | .apstIdleTimer => []
  | .ps3Entry => []
  | .ps4Entry => []
  | .ps4L12Reached => []
  | .ps4L12Timeout => []
  | .noppmeWindow => []
  | .powerEstimate est => [(est, 16)]
  | .pgAonRise => []
  | .railEnable => []
  | .pgAssert _ => []
  | .pgTimeout => []
  | .pgFall _ => []
  | .railFaultRetry => []
  | .rcoStable straps => straps.fields
  | .rcoStableTimeout => []
  | .fuseLoad first second => first.fields ++ second.fields
  | .xoStable => []
  | .xoStableTimeout => []
  | .pllLock _ => []
  | .pllLockTimeout _ => []
  | .islandsOutOfReset _ => []
  | .firmwareAndStructureChoice _ => []
  | .plinthMount _ => []
  | .startUpRelease => []
  | .startUpWatchdogExpiry => []
  | .serviceWatchdogExpiry => []
  | .resetFlushEnd => []
  | .armatureMirrorWrite => []
  | .patinaRequest _ => []
  | .patinaPersist => []
  | .drbgReseed => []
  | .maskGeneratorReseed engine => [(engine, 3)]
  | .trngHealthTestFailure _ => []
  | .transportKeyReady => []
  | .smbusBasicManagementCommand _ => []
  | .readNvmeMiDataStructure _ op dtyp _ => [(op, 8), (dtyp, 8)]
  | .nvmSubsystemHealthStatusPoll _ => []
  | .controllerHealthStatusPoll _ c => [(c, 7)]
  | .configurationGet _ _ => []
  | .configurationSet _ _ value => [(value, 32)]
  | .vpdRead _ offset _ => [(offset, 16)]
  | .tunnelledAdminCommand _ opcode r => [(opcode, 8)] ++ r.fields
  | .schCtrlClr port => [(port, 1)]
  | .chnCtrlClr port ch => [(port, 1), (ch, 5)]
  | .poolCtrlClr port => [(port, 1)]
  | .xcrCtrlClr port => [(port, 1)]
  | .xcrTkselWrite port niche => [(port, 1), (niche, 6)]
  | .hldTestRun port => [(port, 1)]
  | .hldCtrlClr port => [(port, 1)]
  | .fedCtrlClr port => [(port, 1)]
  | .fedTimeLoRead port => [(port, 1)]
  | .clkFmcStart port sel ref n => [(port, 1), (sel, 6), (ref, 2), (n, 5)]
  | .clkFaultClear port mask => [(port, 1), (mask, 32)]
  | .pmCtrlClr port => [(port, 1)]
  | .pmOverbudgetClear port => [(port, 1)]
  | .thmCtrlClr port => [(port, 1)]
  | .thmHaltClear port mask => [(port, 1), (mask, 32)]
  | .patCtrlClr port => [(port, 1)]
  | .glbCtrlClrAcc port => [(port, 1)]
  | .glbIstatClear port mask => [(port, 1), (mask, 32)]
  | .glbAlertClear port mask => [(port, 1), (mask, 32)]
  | .nchIstatClear port niche mask => [(port, 1), (niche, 6), (mask, 32)]
  | .bar2RegisterWrite port offset dwords be value => [(port, 1), (offset, 22), (dwords, 10), (be, 4), (value, 32)]
  | .bar2ReadRefused port offset dwords be => [(port, 1), (offset, 22), (dwords, 10), (be, 4)]
  | .pgAonFall => []
  | .lpoStable => []
  | .fullTrainingEnd ch rd wr => [(ch, 5), (rd, 8), (wr, 8)]
  | .sourceStartUpTestPass => []
  | .vfEnable port num _ => [(port, 1), (num, 16)]
  | .aggregationTimeExpiry c vector => [(c, 7), (vector, 11)]
  | .linkPartnerL1Request port _ => [(port, 1)]

/-- Every operand fits its field. -/
def Instr.wellFormed (i : Instr) : Bool := i.fields.all (fun f => decide (f.1 < 2 ^ f.2))

end Sys2Proof
end

