-- ==== Sys2Proof/Certificates/Slice0/Obligations.lean ====
section
/-! DEFINITION. What is stated of the U1024, from the numbered rules of spec/: for every command, where it
completes and what it then leaves; and the rules that hold of every step. -/

open Sys2Proof Sys2Proof.Machine

/-! ### I/O commands (R102 to R124, R135, R160 to R188, R318 to R326) -/

/-- R113, R169, R170: a Write, Zone Append or Frame Append to an open or closed zone that meets its checks starts,
holding the zone's write slot and its range exclusively; an append starts at the write pointer. R165: on an Empty
zone the rows of the group it chooses are bound to it first. R111, R182: a write to a conventional namespace that
meets its checks and finds room, or an erased row to open, starts, holding its range exclusively. Not of the rules:
that the row is the landing, the grant and the start of the command is the model's choice (notes/assumptions/3.md). -/
def Obligations.WritesStart : Prop :=
  (∀ (i : Instr) (s u : State) (c q id z : Nat) (io : IoCmd),
     ioRow i = some (c, q, io) → isZoneWrite io.op = true → Granted s c q io u id →
     ioCheck u (getCmd u id) = none → zonedAt u (getCmd u id).slot = true →
     z = zoneOfLba u (getCmd u id).slot io.slba →
     let m := getCmd u id
     let v := getZone u (zk m.slot z)
     let lo := if isAppend io.op then z * zsze (getNs u m.slot).attr.zw + v.wp else io.slba
     v.st ≠ .empty → slotTaken u m.slot z = false → v.held = [] →
     conflicts u m.slot lo (lo + io.nlb) true = false → lockAvail u m.niche = true →
     (getNch u m.niche).readOnly = false → zoneWriteCheck u m.slot z io = none →
     limitCheck u m.slot v = (.success, none) →
     ∃ t, exec i s = .next t ∧ (getCmd t id).phase = .started ∧
       (getCmd t id).lo = lo ∧ (getCmd t id).hi = lo + io.nlb ∧ (getCmd t id).lock = true ∧
       (getCmd t id).excl = true ∧ (getCmd t id).wslot = true ∧ (getCmd t id).zone = some z ∧
       t.zones = tset {} s.zones (zk m.slot z)
         { v with st := if v.st = .closed then .implicit else v.st } ∧
       t.sectors = s.sectors ∧ t.stripes = s.stripes ∧ t.pool = s.pool ∧ guarded t = guarded s) ∧
  (∀ (i : Instr) (s u : State) (c q id z : Nat) (io : IoCmd) (l : List (Nat × Nat)),
     ioRow i = some (c, q, io) → isZoneWrite io.op = true → Granted s c q io u id →
     ioCheck u (getCmd u id) = none → zonedAt u (getCmd u id).slot = true →
     z = zoneOfLba u (getCmd u id).slot io.slba →
     let m := getCmd u id
     let k := zk m.slot z
     let v := getZone u k
     let lo := if isAppend io.op then z * zsze (getNs u m.slot).attr.zw + v.wp else io.slba
     v.st = .empty → slotTaken u m.slot z = false → v.held = [] →
     conflicts u m.slot lo (lo + io.nlb) true = false → lockAvail u m.niche = true →
     (getNch u m.niche).readOnly = false → zoneWriteCheck u m.slot z io = none →
     limitCheck u m.slot v = (.success, none) →
     bindPlan u m.niche (2 ^ (getNs u m.slot).attr.zw) = .rows l →
     ∃ t, exec i s = .next t ∧ (getCmd t id).phase = .started ∧ (getCmd t id).lo = lo ∧
       (getCmd t id).hi = lo + io.nlb ∧ (getCmd t id).lock = true ∧ (getCmd t id).wslot = true ∧
       (getZone t k).st = .implicit ∧ (getZone t k).rows = l ∧ (getZone t k).wp = 0 ∧
       (∀ kr ∈ l, (getRow t (rk kr.1 kr.2)).st = .bound ∧ (getRow t (rk kr.1 kr.2)).slot = m.slot) ∧
       t.plinth.jrnl = s.plinth.jrnl + l.length ∧ t.sectors = s.sectors ∧ guarded t = guarded s) ∧
  (∀ (i : Instr) (s u : State) (c q id : Nat) (io : IoCmd),
     ioRow i = some (c, q, io) → Granted s c q io u id → ioCheck u (getCmd u id) = none →
     let m := getCmd u id
     zonedAt u m.slot = false → writesData u m.slot io = true →
     conflicts u m.slot io.slba (io.slba + io.nlb) true = false → lockAvail u m.niche = true →
     (getNch u m.niche).readOnly = false → (getNch u m.niche).fgGc = false →
     io.nlb + 1 ≤ fineRoom u m.slot →
     ∃ t, exec i s = .next t ∧ (getCmd t id).phase = .started ∧
       (getCmd t id).lo = io.slba ∧ (getCmd t id).hi = io.slba + io.nlb ∧ (getCmd t id).lock = true ∧
       (getCmd t id).excl = true ∧ (getCmd t id).wslot = false ∧
       (getCmd t id).want = requests (getNs u m.slot).fmt m.conf.isSome [] (io.nlb + 1) ∧
       t.zones = s.zones ∧ t.sectors = s.sectors ∧ t.pool = s.pool ∧ guarded t = guarded s) ∧
  (∀ (i : Instr) (s u : State) (c q id : Nat) (io : IoCmd) (kr : Nat × Nat),
     ioRow i = some (c, q, io) → Granted s c q io u id → ioCheck u (getCmd u id) = none →
     let m := getCmd u id
     zonedAt u m.slot = false → writesData u m.slot io = true →
     conflicts u m.slot io.slba (io.slba + io.nlb) true = false → lockAvail u m.niche = true →
     (getNch u m.niche).readOnly = false → (getNch u m.niche).fgGc = false →
     fineRoom u m.slot < io.nlb + 1 → (getNs u m.slot).hostRow = none → (getNs u m.slot).nextRow = none →
     fineH u m.slot < fineRows u (getNs u m.slot).attr →
     (getNs u m.slot).attr.niche = m.niche → bindPlan u m.niche 1 = .rows [kr] →
     io.nlb + 1 ≤ fineRoom (takeFineRow u m.slot false) m.slot →
     ∃ t, exec i s = .next t ∧ (getCmd t id).phase = .started ∧ (getCmd t id).lo = io.slba ∧
       (getCmd t id).hi = io.slba + io.nlb ∧ (getCmd t id).lock = true ∧
       (getNs t m.slot).hostRow = some kr ∧ (getRow t (rk kr.1 kr.2)).st = .bound ∧
       (getRow t (rk kr.1 kr.2)).slot = m.slot ∧ (getRow t (rk kr.1 kr.2)).zone = none ∧
       t.zones = s.zones ∧ t.sectors = s.sectors ∧ guarded t = guarded s)

/-- R111, R163, R186, R284: a Read, Compare or Verify that meets its checks starts, holding its range shared, and
its buffers are to be requested, in a zoned namespace piece by piece of the stripes it lies in. Not of the rules: that the row is the landing, the grant and the start of the
command is the model's choice (notes/assumptions/3.md). -/
def Obligations.ReadsStart : Prop :=
  ∀ (i : Instr) (s u : State) (c q id : Nat) (io : IoCmd),
    ioRow i = some (c, q, io) → isRead io.op = true → Granted s c q io u id →
    ioCheck u (getCmd u id) = none →
    let m := getCmd u id
    conflicts u m.slot io.slba (io.slba + io.nlb) false = false → lockAvail u m.niche = true →
    (zonedAt u m.slot = true → zoneOfLba u m.slot io.slba = zoneOfLba u m.slot (io.slba + io.nlb) ∧
      (getZone u (zk m.slot (zoneOfLba u m.slot io.slba))).st ≠ .offline) →
    lostIn u m.slot io.slba (io.nlb + 1) = 0 →
    ∃ t, exec i s = .next t ∧ (getCmd t id).phase = .started ∧
      (getCmd t id).lo = io.slba ∧ (getCmd t id).hi = io.slba + io.nlb ∧ (getCmd t id).lock = true ∧
      (getCmd t id).excl = false ∧
      (getCmd t id).want = requests (getNs u m.slot).fmt false (readRooms u m.slot io.slba (io.nlb + 1)) (io.nlb + 1) ∧
      t.zones = s.zones ∧ t.sectors = s.sectors ∧ t.pool = s.pool ∧ guarded t = guarded s

/-- R135, R181, R185: on a conventional namespace, Write Uncorrectable marks its LBAs, a Write Zeroes with DEAC and
a Deallocate unmap theirs; no other LBA changes and the command completes with Success. A Deallocate of a zoned
namespace, and a Dataset Management without it, change nothing and complete with Success. Not of the rules: that the
row is the landing, the grant and the start of the command is the model's choice (notes/assumptions/3.md). -/
def Obligations.SpanCommandsComplete : Prop :=
  ∀ (i : Instr) (s u : State) (c q id : Nat) (io : IoCmd),
    ioRow i = some (c, q, io) → Granted s c q io u id → ioCheck u (getCmd u id) = none →
    let m := getCmd u id
    lockAvail u m.niche = true → (getNch u m.niche).readOnly = false →
    (zonedAt u m.slot = false → io.op = .writeUncorrectable ∨ (io.op = .writeZeroes ∧ io.deac = true) →
      conflicts u m.slot io.slba (io.slba + io.nlb) true = false →
      io.slba + io.nlb < 281474976710656 →
      ∃ t, exec i s = .next t ∧ CqeWaits t c q io.cid .success ∧ guarded t = guarded s ∧
        (∀ j, j ≤ io.nlb → tget ({} : Sector) t.sectors (lk m.slot (io.slba + j)) =
          if io.op = .writeUncorrectable then { unc := true } else {}) ∧
        (∀ j l, l < 281474976710656 → (j ≠ m.slot ∨ l < io.slba ∨ io.slba + io.nlb < l) →
          tget ({} : Sector) t.sectors (lk j l) = tget {} s.sectors (lk j l))) ∧
    (∀ lo n, io.op = .datasetManagement → (io.ad = false ∨ (zonedAt u m.slot = true ∧ io.ranges = [(lo, n + 1)] ∧
        conflicts u m.slot lo (lo + n) true = false)) →
      ∃ t, exec i s = .next t ∧ CqeWaits t c q io.cid .success ∧ t.sectors = s.sectors ∧ t.zones = s.zones ∧
        guarded t = guarded s) ∧
    (∀ lo n, zonedAt u m.slot = false → io.op = .datasetManagement → io.ad = true → io.ranges = [(lo, n + 1)] →
      conflicts u m.slot lo (lo + n) true = false → lo + n < 281474976710656 →
      ∃ t, exec i s = .next t ∧ CqeWaits t c q io.cid .success ∧ guarded t = guarded s ∧
        (∀ j, j ≤ n → tget ({} : Sector) t.sectors (lk m.slot (lo + j)) = {}) ∧
        (∀ j l, l < 281474976710656 → (j ≠ m.slot ∨ l < lo ∨ lo + n < l) →
          tget ({} : Sector) t.sectors (lk j l) = tget {} s.sectors (lk j l)))

/-- R167, R168, R187: the five Zone Management Send actions on one zone take it to the state R167 gives, complete with
Success, and touch no other zone; on a zone already in that state they change nothing; with Select All they take
every zone in the states R168 names there, and no other. A Zone Seal that has started comes first, and the reset of a
zone may cut the lost-sector table, which holds 4,096 extents (R270). Not of the rules: that the row is the landing, the grant and the start of the
command is the model's choice (notes/assumptions/3.md), the zone order PRESUMED (notes/assumptions/16.md). -/
def Obligations.ZoneActionsComplete : Prop :=
  ∀ (i : Instr) (s u : State) (c q id : Nat) (io : IoCmd),
    ioRow i = some (c, q, io) → Granted s c q io u id → ioCheck u (getCmd u id) = none →
    let m := getCmd u id
    let zs := zsze (getNs u m.slot).attr.zw
    let z := io.slba / zs
    let k := zk m.slot z
    let v := getZone u k
    (io.selectAll = false → conflicts u m.slot (z * zs) (z * zs + zs - 1) true = false →
    lockAvail u m.niche = true → sealing u m.slot (z * zs) (z * zs + zs - 1) = false →
    ((io.op = .zoneOpen ∧ (getNch u m.niche).readOnly = false ∧ openLimits u m.slot v = none ∧
        (v.st = .implicit ∨ v.st = .closed)) ∨
      (io.op = .zoneClose ∧ (v.st = .implicit ∨ v.st = .explicit) ∧ v.wp ≠ 0) ∨
      (io.op = .zoneFinish ∧ (v.st = .empty ∨ ((v.st = .implicit ∨ v.st = .explicit ∨ v.st = .closed) ∧ v.fill = none))) ∨
      (io.op = .zoneReset ∧ v.st ≠ .readOnly ∧ v.st ≠ .offline ∧
        (cutLost (getNch u (getNs u m.slot).attr.niche) m.slot (z * zs) (z * zs + zs - 1)).lost.length ≤ 4096) ∨
      (io.op = .zoneOffline ∧ v.st = .readOnly)) →
     ∃ t, exec i s = .next t ∧ CqeWaits t c q io.cid .success ∧ guarded t = guarded s ∧
      t.zones = tset {} s.zones k
        (match io.op with
          | .zoneOpen => { v with st := .explicit }
          | .zoneClose => { v with st := .closed }
          | .zoneFinish => { v with st := .full }
          | .zoneReset => { ({} : Zone) with gen := wrapAdd 32 v.gen 1, held := v.held }
          | _ => { v with st := .offline, rows := [] })) ∧
    (io.selectAll = false → conflicts u m.slot (z * zs) (z * zs + zs - 1) true = false →
      lockAvail u m.niche = true → sealing u m.slot (z * zs) (z * zs + zs - 1) = false →
      ((io.op = .zoneOpen ∧ (getNch u m.niche).readOnly = false ∧ v.st = .explicit) ∨
        (io.op = .zoneClose ∧ (v.st = .closed ∨ v.st = .empty)) ∨ (io.op = .zoneFinish ∧ v.st = .full)) →
      ∃ t, exec i s = .next t ∧ CqeWaits t c q io.cid .success ∧ t.zones = s.zones ∧ guarded t = guarded s) ∧
    (∀ l, io.op = .zoneOpen → io.selectAll = false → v.st = .empty →
      conflicts u m.slot (z * zs) (z * zs + zs - 1) true = false → lockAvail u m.niche = true →
      sealing u m.slot (z * zs) (z * zs + zs - 1) = false →
      (getNch u m.niche).readOnly = false → openLimits u m.slot v = none → (getNs u m.slot).attr.niche = m.niche →
      bindPlan u m.niche (2 ^ (getNs u m.slot).attr.zw) = .rows l →
      ∃ t, exec i s = .next t ∧ CqeWaits t c q io.cid .success ∧ (getZone t k).st = .explicit ∧
        (getZone t k).rows = l ∧ (getZone t k).wp = 0 ∧
        (∀ kr ∈ l, (getRow t (rk kr.1 kr.2)).st = .bound ∧ (getRow t (rk kr.1 kr.2)).slot = m.slot) ∧
        t.sectors = s.sectors ∧ guarded t = guarded s) ∧
    (io.selectAll = true → conflicts u m.slot 0 (nsLbas (getNs u m.slot).attr - 1) true = false →
      lockAvail u m.niche = true → twf {} u.zones = true → sealing u m.slot 0 (nsLbas (getNs u m.slot).attr - 1) = false →
      (io.op = .zoneReset → (getNch u (getNs u m.slot).attr.niche).lost.length ≤ 4096 ∧
        ∀ e ∈ (getNch u (getNs u m.slot).attr.niche).lost, e.1 ≠ m.slot) →
      io.op = .zoneClose ∨ io.op = .zoneFinish ∨ io.op = .zoneReset ∨ io.op = .zoneOffline ∨
        (io.op = .zoneOpen ∧ (getNch u m.niche).readOnly = false ∧ openCount u m.slot +
          (zonesWhere u m.slot (fun v => v.st == .closed)).length ≤ (getNs u m.slot).attr.maxOpen) →
      ∃ t, exec i s = .next t ∧ CqeWaits t c q io.cid .success ∧ guarded t = guarded s ∧
        (∀ y, y < 131072 → selects io.op (getZone u (zk m.slot y)).st = true →
          (getZone t (zk m.slot y)).st = (match io.op with
            | .zoneOpen => .explicit
            | .zoneClose => if (getZone u (zk m.slot y)).wp = 0 then .empty else .closed
            | .zoneFinish => .full
            | .zoneReset => .empty
            | _ => .offline)) ∧
        (∀ j y, y < 131072 → (j = m.slot → selects io.op (getZone u (zk j y)).st = false) →
          getZone t (zk j y) = getZone s (zk j y)))

/-- R168, R178, R285: a Zone Management Receive that meets its checks starts and asks for the buffers its report needs;
with the last of them Report Zones returns the number of zones of the chosen state from its zone on (with Partial Report,
of those its buffer holds), and no zone changes. R319, R323, R324: a Zone Seal of a Full unsealed zone, and one of a sealed
zone, starts, holding the zone write slot; with its buffer it makes the seal record, whose tag is the seal key's tag of the
zone's accumulator, nonce and trailer, which then takes the accumulator's place, or returns the record there is; R326: one
whose state has moved to the Plinth waits for the read of it. R120: a Flush with no write of its namespaces started before it
completes at once with Success; otherwise it waits for exactly those writes, and with hold-up degraded then for the
stripes that hold the data of those committed before it. Not of the rules: the row's boundary is
the model's choice (notes/assumptions/3.md), the report's layout ZNS's, PRESUMED (notes/assumptions/11.md), and the tag's
GHASH and AES those of the standards, PRESUMED (notes/assumptions/8.md). -/
def Obligations.ReportsSealsAndFlushes : Prop :=
  (∀ (i : Instr) (s u : State) (c q id : Nat) (io : IoCmd),
     ioRow i = some (c, q, io) → Granted s c q io u id → ioCheck u (getCmd u id) = none →
     let m := getCmd u id
     let a := (getNs u m.slot).attr
     (io.op = .zoneReceive →
       ∃ t, exec i s = .next t ∧ (getCmd t id).phase = .started ∧
         (getCmd t id).want = requests 0 false [] ((min ((io.numd + 1) * 4) (64 + 64 * a.size) + 4095) / 4096) ∧
         t.zones = s.zones ∧ t.sectors = s.sectors ∧ guarded t = guarded s) ∧
     (io.op = .zoneSeal →
       let z := zoneOfLba u m.slot io.slba
       let v := getZone u (zk m.slot z)
       slotTaken u m.slot z = false → v.held = [] → io.fuse = 0 → io.rsv = 0 → io.slba % zsze a.zw = 0 →
       io.slba < nsLbas a → (getNch u m.niche).readOnly = false → v.st = .full →
       (v.sealed = none → io.nonce ≠ 0 → io.nonce ≠ 2 ^ 96 - 1 → (getKey u a.sealSlot).st ≠ 0 →
         keysReady u a .flush = true → v.sealSaved = true →
         ∃ t, exec i s = .next t ∧ (getCmd t id).phase = .granted ∧ t.zones = s.zones ∧
           ∃ kv ∈ t.reads, kv.2.own = .sealState m.slot z) ∧
       (v.sealed ≠ none ∨ (io.nonce ≠ 0 ∧ io.nonce ≠ 2 ^ 96 - 1 ∧ (getKey u a.sealSlot).st ≠ 0 ∧
           keysReady u a .flush = true ∧ v.sealSaved = false) →
         ∃ t, exec i s = .next t ∧ (getCmd t id).phase = .started ∧ (getCmd t id).wslot = true ∧
           (getCmd t id).zone = some z ∧ (getCmd t id).want = requests 0 false [] 1 ∧ t.zones = s.zones ∧
           t.sectors = s.sectors ∧ guarded t = guarded s))) ∧
  (∀ (s : State) (id b cls n : Nat),
     let m := getCmd s id
     let a := (getNs s m.slot).attr
     atPort s id = true → portFirst s id = true → m.want = [(cls, n)] → NoFlushWaits s →
     (allocate s m.niche cls id (writesData s m.slot m.io) (confOf s m)).2 = some b → qidOfSq m.sq ≠ 0 →
     (m.io.op = .zoneReceive → m.wslot = false →
       let l := (List.range a.size).filter (fun z =>
         decide (m.io.slba / zsze a.zw ≤ z) && reports m.io.zrasf (getZone s (zk m.slot z)).st)
       ∃ t, exec (.bufferAllocation id) s = .next t ∧ t.zones = s.zones ∧ t.sectors = s.sectors ∧ guarded t = guarded s ∧
         hasCmd t id = false ∧ ∃ e ∈ (getCq t (qk (ctrlOfSq m.sq) (getSq t m.sq).cqid)).waiting, e.cid = m.io.cid ∧
           e.status = .success ∧ e.data.head? = some ⟨0, 8,
             if m.io.partialRep then (l.take (((m.io.numd + 1) * 4 - 64) / 64)).length else l.length⟩) ∧
     (m.io.op = .zoneSeal →
       let z := zoneOfLba s m.slot m.io.slba
       let k := zk m.slot z
       let v := getZone s k
       v.st = .full → v.finPend = false → m.zone = some z →
       (v.sealed = none →
         ∃ t r, exec (.bufferAllocation id) s = .next t ∧
           CqeWaits t (ctrlOfSq m.sq) (qidOfSq m.sq) m.io.cid .success ∧ hasCmd t id = false ∧
           t.zones = tset {} s.zones k { v with sealed := some r, ghash := 0, absorbed := 0, sealSaved := false } ∧
           r.nonce = m.io.nonce ∧ r.zslba = m.io.slba ∧ r.nsec = v.wp ∧ r.nsid = m.io.nsid ∧
           r.gen = genOf s m.slot z ∧ r.zfc = v.zfc ∧ r.nent = v.frames.length ∧
           r.tag = sealTag (getKey s a.sealSlot) v.ghash v.absorbed m.io.nonce (trailerNum r) ∧
           t.cipher.seals = satAdd 32 s.cipher.seals 1 ∧ t.cipher.keys = s.cipher.keys) ∧
       (∀ r, v.sealed = some r →
         ∃ t, exec (.bufferAllocation id) s = .next t ∧ t.zones = s.zones ∧ t.cipher.seals = s.cipher.seals ∧
           hasCmd t id = false ∧ ∃ e ∈ (getCq t (qk (ctrlOfSq m.sq) (getSq t m.sq).cqid)).waiting,
             e.cid = m.io.cid ∧ e.status = .success ∧ e.data = sealFlds r true))) ∧
  (∀ (s u : State) (c q id cid nsid : Nat),
     Granted s c q { op := .flush, cid := cid, nsid := nsid } u id → ioCheck u (getCmd u id) = none →
     let m := getCmd u id
     let w := tkeys u.cmds (fun _ d => d.phase == .started && (flushSlots u m).contains d.slot &&
       writesData u d.slot d.io)
     (w = [] → degraded u = false → ∃ t, exec (.flush c q cid nsid) s = .next t ∧ CqeWaits t c q cid .success ∧
       t.zones = s.zones ∧ t.sectors = s.sectors ∧ guarded t = guarded s) ∧
     (w ≠ [] → ∃ t, exec (.flush c q cid nsid) s = .next t ∧ (getCmd t id).phase = .started ∧
       (getCmd t id).waits = w ∧ (getCmd t id).sids = (flushSlots u m).flatMap (unprogrammed u) ∧
       t.cqs = s.cqs ∧ t.zones = s.zones))

/-- R122, R124, R135: an I/O command that a check turns away with a status that freezes completes with that status,
its SQ is frozen with the command and its status in the log entry, and nothing of the SQ stays staged; an
unsupported opcode is turned away with Invalid Command Opcode, on the admin queue too. R86: a poisoned completion or
a completion timeout of a write's data ends the command with Data Transfer Error, nothing committed, and freezes its
SQ, the poisoned completion being logged as an advisory error and the timeout as a non-fatal one; a fetch that times
out freezes its SQ too. Not of the rules: the row's boundary is the model's choice
(notes/assumptions/3.md), and what a fetch timeout leaves is DEDUCED (notes/assumptions/15.md). -/
def Obligations.ErrorsFreezeQueues : Prop :=
  ((∀ (i : Instr) (s u : State) (c q id : Nat) (io : IoCmd) (st : Status),
     ioEntry s i = some (c, q, io) → Granted s c q io u id → ioCheck u (getCmd u id) = some st →
     freezes st = true →
     ∃ t f, exec i s = .next t ∧ CqeWaits t c q io.cid st ∧ (getSq t (qk c q)).frz = some f ∧
       f.cid = io.cid ∧ f.status = st ∧ f.nsid = io.nsid ∧ f.slba = io.slba ∧ f.opc = opcodeOf io.op ∧
       (getSq t (qk c q)).staged = [] ∧ t.sectors = s.sectors ∧ guarded t = guarded s) ∧
   (∀ (u : State) (m : Cmd) (n : Nat), m.io.op = .other n →
     (n ≠ 0x79 → ioCheck u m = some .invalidOpcode) ∧
     (∀ j, n = 0x79 → slotOf u m.niche m.io.nsid = some j → (getNch u m.niche).san = .none →
       (getNs u j).attr.zoned = true → ioCheck u m = some .invalidField)) ∧
   (∀ (s : State) (c cid n nsid w d : Nat), adminServed s c = true →
     (((adminOpcodes s c).contains n = false →
        exec (.unsupportedOpcode c 0 cid n nsid w d) s = .next (adone (adminFetch s c) c cid .invalidOpcode)) ∧
      ((adminOpcodes s c).contains n = true → badAction n w = true →
        exec (.unsupportedOpcode c 0 cid n nsid w d) s = .next (adone (adminFetch s c) c cid .invalidField))))) ∧
  ((∀ (i : Instr) (s : State) (id : Nat),
     let c := getCmd s id
     (i = .poisonedCompletion id ∨ i = .completionTimeout (.command id)) →
     hasCmd s id = true → c.phase = .started → c.recv.length ≠ c.need → qidOfSq c.sq ≠ 0 →
     (getSq s c.sq).frz = none → NoFlushWaits s →
     ∃ t f, exec i s = .next t ∧ CqeWaits t (ctrlOfSq c.sq) (qidOfSq c.sq) c.io.cid .dataXfer ∧
       hasCmd t id = false ∧ (getSq t c.sq).frz = some f ∧ f.cid = c.io.cid ∧ f.status = .dataXfer ∧
       t.sectors = s.sectors ∧ guarded t = guarded s ∧
       (getPort t (portOf (ctrlOfSq c.sq))).aer = (getPort s (portOf (ctrlOfSq c.sq))).aer ++
         [(fnOf (ctrlOfSq c.sq), (if i = .poisonedCompletion id then (4096, 0) else (16384, 1)))]) ∧
   (∀ (s : State) (c q : Nat),
     let v := getSq s (qk c q)
     v.inflight ≠ 0 → v.frz = none → c < 128 → 0 < q → q < 65536 →
     ∃ t f, exec (.completionTimeout (.fetch c q)) s = .next t ∧ (getSq t (qk c q)).frz = some f ∧
       f.status = .dataXfer ∧ (getSq t (qk c q)).inflight = 0 ∧ (getSq t (qk c q)).staged = [] ∧
       t.sectors = s.sectors ∧ guarded t = guarded s))
/-! ### Fetch, grant, data and completion (R26 to R34, R84, R86, R103 to R124, R284 to R295) -/

/-- R103, R105: a fetch request asks for the entries waiting before the ring's wrap, at most eight with those staged,
at most what one read request of the port's Max_Read_Request_Size brings and what the staging store has room for,
while the port has fewer than 768 requests outstanding (R71);
the entries of its completion are staged in order and the head moves past them; R101: those of an SQ being deleted
complete instead. -/
def Obligations.FetchesBringEntries : Prop :=
  (∀ (s : State) (c q : Nat), q ≠ 0 → q < 65536 → fetches s (qk c q) = true → (getSq s (qk c q)).inflight = 0 →
    (getSq s (qk c q)).size ≠ 0 → requestsOut s (portOf c) < 768 →
    let v := getSq s (qk c q)
    let n := min (min ((v.tail + v.size - v.head) % v.size) (v.size - v.head))
      (min (8 - v.staged.length) (min ((getPort s (portOf c)).mrrs / 64) (stageFree s (nicheOfSq s (qk c q)))))
    exec (.sqFetchRequest c q) s = .next { s with sqs := tset {} s.sqs (qk c q) { v with inflight := n } }) ∧
  (∀ (s : State) (c q : Nat) (l : List IoCmd),
    let v := getSq s (qk c q)
    let e := { v with inflight := 0, head := (v.head + v.inflight) % v.size }
    v.live = true → v.inflight ≠ 0 → l.length = v.inflight → v.size ≠ 0 →
    (v.frz = none → v.del = none →
      exec (.sqFetchCompletion c q l) s = .next
        { s with sqs := tset {} s.sqs (qk c q) { e with staged := v.staged ++ l } }) ∧
    (v.del.isSome = true →
      ∃ t, exec (.sqFetchCompletion c q l) s = .next t ∧ t.sqs = tset {} s.sqs (qk c q) e ∧
        t.cmds = s.cmds ∧ t.zones = s.zones ∧ guarded t = guarded s ∧
        (q ≠ 0 → q < 65536 → ∀ io ∈ l, CqeWaits t c q io.cid .abortSqDel)))

/-- R105, R107: a grant takes the head of the chosen SQ out of the staging store and gives it the next command number;
R112: a waiting read whose range is free starts. Not of the rules: which queue the arbiter may choose is DEDUCED
(notes/assumptions/15.md). -/
def Obligations.GrantsAndStarts : Prop :=
  (∀ (s : State) (k : Nat) (a : Arb) (io : IoCmd) (r : List IoCmd),
    arbPick s = some (k, a) → (getSq s k).staged = io :: r → (getSq s k).live = true →
    ∃ t, exec .arbiterGrant s = .next t ∧ (getSq t k).staged = r ∧
      (getCmd t s.arb.nextCmd).io = io ∧ (getCmd t s.arb.nextCmd).sq = k ∧
      (getCmd t s.arb.nextCmd).phase = .granted ∧ (getCmd t s.arb.nextCmd).need = io.nlb + 1 ∧
      t.arb.nextCmd = s.arb.nextCmd + 1 ∧ t.zones = s.zones ∧ t.sectors = s.sectors ∧ t.cqs = s.cqs ∧
      t.pool = s.pool ∧ guarded t = guarded s) ∧
  (∀ (u : State) (id : Nat),
    let m := getCmd u id
    hasCmd u id = true → m.phase = .granted → fetchStopped u = false → (getSq u m.sq).frz = none →
    portLost u (ctrlOfSq m.sq) = false → ioCheck u m = none → isRead m.io.op = true → zonedAt u m.slot = false →
    lockAvail u m.niche = true → conflicts u m.slot m.io.slba (m.io.slba + m.io.nlb) false = false →
    lostIn u m.slot m.io.slba (m.io.nlb + 1) = 0 →
    ∃ t, exec (.commandStart id) u = .next t ∧ (getCmd t id).phase = .started ∧ (getCmd t id).lock = true ∧
      (getCmd t id).excl = false ∧ (getCmd t id).lo = m.io.slba ∧ (getCmd t id).hi = m.io.slba + m.io.nlb ∧
      t.sqs = u.sqs ∧ t.zones = u.zones ∧ t.sectors = u.sectors)

/-- R287 to R291: the request of a started command that is the first at the allocation port takes the lowest free buffer
of its class, any other waits, and the head of a park list takes one when it is tried again; with its last buffer a Read
finds where each sector stands (R34, R181, R186), and one on the media enters the table of reads; a free of its owner
gives a buffer back, and any other free leaves every buffer and every command as it was, is counted with its niche, class
and kind, and leaves a Patina record of severity 6 (R291). -/
def Obligations.BuffersTakenAndFreed : Prop :=
  (∀ (s : State) (id cls n : Nat) (r : List (Nat × Nat)) (m : Nat),
    let c := getCmd s id
    let i := lowestFree s n cls
    let b : Buf := { used := true, owner := identOf (withIdent s id) id, addr := poolBase s n cls * 4096 + i * clsBytes cls
                     dirty := writesData s c.slot c.io, conf := none, parts := [] }
    c.conf = none → n = c.niche → c.want = (cls, m) :: r →
    0 < poolFree s n cls → gate s n cls (writesData s c.slot c.io) none false = true →
    (r ≠ [] ∨ (isZoneWrite c.io.op = true ∧ c.io.op ≠ .writeZeroes)) →
    (atPort s id = true → portFirst s id = true →
      ∃ t, exec (.bufferAllocation id) s = .next t ∧ (getCmd t id).want = r ∧
        (getCmd t id).got = c.got ++ [(bk n cls i, m)] ∧ t.pool.bufs = tset {} s.pool.bufs (bk n cls i) b ∧
        t.zones = s.zones ∧ t.sectors = s.sectors ∧ t.cqs = s.cqs) ∧
    (∀ l, (getNch s n).parkConf = [] → (getNch s n).parkOther = id :: l → id < copyOwner 0 → s.pool.ctl = [] →
      ∃ t, exec (.parkListRetry n) s = .next t ∧ (getCmd t id).want = r ∧ (getCmd t id).parked = false ∧
        (getCmd t id).got = c.got ++ [(bk n cls i, m)] ∧ t.pool.bufs = tset {} s.pool.bufs (bk n cls i) b ∧
        t.zones = s.zones ∧ t.sectors = s.sectors ∧ t.cqs = s.cqs)) ∧
  (∀ (s : State) (id : Nat), atPort s id = false ∨ portFirst s id = false →
    exec (.bufferAllocation id) s = .next s) ∧
  (∀ (s : State) (id cls m : Nat),
    let c := getCmd s id
    let n := c.niche
    atPort s id = true → portFirst s id = true → c.conf = none → c.want = [(cls, m)] → isRead c.io.op = true →
    0 < poolFree s n cls → gate s n cls false none false = true →
    ((∀ j, j ≤ c.io.nlb → rdDone (sectorSource s c.slot (c.lo + j)) = true) →
      ∃ t, exec (.bufferAllocation id) s = .next t ∧ (getCmd t id).want = [] ∧
        (getCmd t id).rds = (List.range (c.io.nlb + 1)).map (fun j => ⟨c.lo + j, sectorSource s c.slot (c.lo + j)⟩) ∧
        (c.io.op ≠ .compare → t.cipher.segs = s.cipher.segs ++
          List.replicate (segCount c.lo c.hi) (c.cls, s.arb.nextOrder, id)) ∧
        t.zones = s.zones ∧ t.sectors = s.sectors ∧ t.cqs = s.cqs) ∧
    (let v := tget ({} : Sector) s.sectors (lk c.slot c.lo)
     let x := getStripe s v.sid
     c.io.nlb = 0 → sectorSource s c.slot c.lo = .media 0 → unitGone s x (chanOfPos s x v.pos) = false →
      ∃ t, exec (.bufferAllocation id) s = .next t ∧ (getCmd t id).want = [] ∧
        (getCmd t id).rds = [⟨c.lo, .media s.sched.nextRd⟩] ∧
        (let r := getRd t s.sched.nextRd
         r.own = .cmd id 0 ∧ r.cls = c.cls ∧ r.sid = v.sid ∧ r.rank = x.rank ∧ r.ch = chanOfPos s x v.pos ∧
           r.ix = ixOfPos s x v.pos ∧ r.st = .wait ∧ r.step = 0) ∧
        t.zones = s.zones ∧ t.sectors = s.sectors ∧ t.cqs = s.cqs)) ∧
  (∀ (s : State) (n cls i o : Nat),
    let b := tget ({} : Buf) s.pool.bufs (bk n cls i)
    let bad := { s.pool with badFree := satAdd 16 s.pool.badFree 1, badNiche := n, badClass := cls,
                             badKind := if b.used = true then 1 else 0 }
    (b.used = true → b.owner = o →
      ∃ t, exec (.bufferFree n cls i o) s = .next t ∧ t.pool.bufs = tset {} s.pool.bufs (bk n cls i) {} ∧
        t.pool.cnt = s.pool.cnt ∧ t.pool.badFree = s.pool.badFree ∧ t.cmds = s.cmds ∧ t.niches = s.niches ∧
        guarded t = guarded s) ∧
    (b.used = false ∨ b.owner ≠ o →
      ∃ t, exec (.bufferFree n cls i o) s = .next t ∧ t.pool = bad ∧
        t.pat = (devRec s 0x60 6 cls 0 (if b.used = true then 1 else 0)).pat ∧
        bitOf t.glb.istat 4 = true ∧ t.cmds = s.cmds ∧ t.niches = s.niches ∧ guarded t = guarded s))

/-- R26, R147, R148, R295: data of a started write or Compare comes in up to its length, each sector with the
protection information the port makes or has checked, and the last of it puts every segment of the command in the
engines' queue; the segment first in order then passes the next engine in turn, whose blocks and longest wait of an Urgent
segment are counted (R302, R329); a sector whose check fails ends the command with the check's status, nothing committed.
R148: with PIREMAP an append's reference tag becomes the low 32 bits of the
LBA assigned. Not of the rules: the place of the fields of the protection information is PRESUMED
(notes/assumptions/7.md), and the order of the engines the model's choice (notes/assumptions/8.md). -/
def Obligations.DataReachesTheEngines : Prop :=
  (∀ (s : State) (id : Nat) (data : List Nat),
    let c := getCmd s id
    let sec := fun j d => hostSector (getNs s c.slot) c.io (c.recv.length + j) (c.lo + c.recv.length + j) d
    hasCmd s id = true → c.phase = .started →
    ((writesData s c.slot c.io = true ∧ c.io.op ≠ .writeZeroes) ∨ c.io.op = .compare) →
    c.want = [] → c.recv.length < c.need → portLost s (ctrlOfSq c.sq) = false →
    ((∀ j d, j < c.need - c.recv.length → data[j]? = some d → (sec j d).2 = none) →
      let r := c.recv ++ (data.take (c.need - c.recv.length)).zipIdx.map (fun dj => (sec dj.2 dj.1).1)
      exec (.hostDataTlpReceived id data) s = .next
        (if r.length = c.need then
          { s with
            cmds := tset {} s.cmds id { c with recv := r, segUs := s.nowUs }
            cipher := { s.cipher with
              segs := s.cipher.segs ++ List.replicate (c.hi / 16 - c.lo / 16 + 1) (c.cls, s.arb.nextOrder, id) }
            arb := { s.arb with nextOrder := s.arb.nextOrder + 1 } }
         else { s with cmds := tset {} s.cmds id { c with recv := r } })) ∧
    (∀ d l st, data = d :: l → (sec 0 d).2 = some st → qidOfSq c.sq ≠ 0 → NoFlushWaits s → NoFinishWaits s →
      ∃ t, exec (.hostDataTlpReceived id data) s = .next t ∧
        CqeWaits t (ctrlOfSq c.sq) (qidOfSq c.sq) c.io.cid st ∧ hasCmd t id = false ∧ t.sectors = s.sectors ∧
        t.stripes = s.stripes ∧ guarded t = guarded s)) ∧
  (∀ (n : Ns) (io : IoCmd) (j lba v : Nat), hasPi n = false →
    hostSector n io j lba v = (v % 2 ^ (8 * storedBytes n.fmt), none)) ∧
  (∀ (n : Ns) (io : IoCmd) (j lba v : Nat), hasPi n = true → n.pi ≠ 3 → io.piremap = true →
    (io.op = .zoneAppend ∨ io.op = .frameAppend) → piRefOf (hostSector n io j lba v).1 = lba % 2 ^ 32) ∧
  (∀ (s : State) (x : Nat × Nat × Nat), argMin segKey s.cipher.segs = some x →
    let m := getCmd s x.2.2
    let n := segBlocks s m
    let e := s.cipher.engs.getD s.cipher.nextEng {}
    let wait := (s.nowUs - m.segUs) * (if s.clk.fallback = true then 400 else 1200)
    exec .cipherSegmentStart s = .next { s with
      cmds := tset {} s.cmds x.2.2 { m with out := m.out ++ segOut s m, segs := m.segs + 1 }
      cipher := { s.cipher with
        segs := s.cipher.segs.erase x
        nextEng := (s.cipher.nextEng + 1) % 6
        engs := s.cipher.engs.set s.cipher.nextEng { e with
          blocks := e.blocks + n, bank := if n = 0 then e.bank else Config.genAfter e.bank n
          urgWait := if m.cls = 0 then max e.urgWait wait else e.urgWait
          recent := e.recent.filter (fun r => decide (s.nowUs < r.1 + 1000)) ++ [(s.nowUs, n)] } } }) ∧
  (∀ s : State, s.cipher.segs = [] → exec .cipherSegmentStart s = .next s)

/-- R28, R116, R167, R175: the commit of a zone write puts every sector as it left its engine at its LBA, in the next
places of the stripe its zone fills, moves the write pointer past them, makes the zone Full where it reaches the
end, and completes with Success; an append answers the LBA it was given, and a Frame Append that starts a frame
or is the zone's first data makes its index entry and answers its number. Not of the rules: that stored content is kept sector by sector beside its codewords is the
model's choice (notes/assumptions/8.md). -/
def Obligations.WritesCommit : Prop :=
  ∀ (s : State) (id z : Nat),
    let c := getCmd s id
    let k := zk c.slot z
    hasCmd s id = true → c.phase = .started → writesData s c.slot c.io = true → c.want = [] →
    c.recv.length = c.need → 0 < c.need → c.segs = segCount c.lo c.hi → c.zone = some z → c.out.length = c.need →
    qidOfSq c.sq ≠ 0 → NoFlushWaits s → twf {} s.cmds = true → (getZone s k).finPend = false →
    (cutLost (getNch s (getNs s c.slot).attr.niche) c.slot c.lo c.hi).lost.length ≤ 4096 →
    ∃ t, exec (.writeCommitPoint id) s = .next t ∧
      CqeWaits t (ctrlOfSq c.sq) (qidOfSq c.sq) c.io.cid .success ∧ hasCmd t id = false ∧
      (c.io.op = .zoneAppend → ∃ e ∈ (getCq t (qk (ctrlOfSq c.sq) (getSq t (qk (ctrlOfSq c.sq) (qidOfSq c.sq))).cqid)).waiting,
        e.cid = c.io.cid ∧ e.dw0 = c.lo % 2 ^ 32 ∧ e.dw1 = c.lo / 2 ^ 32) ∧
      (c.io.op = .frameAppend → ∃ e ∈ (getCq t (qk (ctrlOfSq c.sq) (getSq t (qk (ctrlOfSq c.sq) (qidOfSq c.sq))).cqid)).waiting,
        e.cid = c.io.cid ∧ e.dw0 = c.lo - z * zsze (getNs s c.slot).attr.zw ∧
          e.dw1 = if c.io.fstart = true ∨ (getZone s k).wp = 0 then (getZone s k).frames.length else 0xFFFFFFFF) ∧
      (getZone t k).wp = (getZone s k).wp + c.need ∧
      (getNs t c.slot).hostWritten = satAdd 64 (getNs s c.slot).hostWritten c.need ∧
      ((getZone s k).rows ≠ [] → (getZone s k).wp + c.need = wendOf s c.slot z → (getZone t k).st = .full) ∧
      (c.io.op = .frameAppend → c.io.fstart = true ∨ (getZone s k).wp = 0 → ∃ e,
        (getZone t k).frames = (getZone s k).frames ++ [e] ∧
        e.frame = c.io.frame ∧ e.soff = (getZone s k).wp ∧ e.hflags = c.io.hflags ∧ e.cont = decide ((getZone s k).wp = 0)) ∧
      (c.io.op ≠ .frameAppend ∨ (c.io.fstart = false ∧ (getZone s k).wp ≠ 0) → (getZone t k).frames = (getZone s k).frames) ∧
      (∀ sid, (getZone s k).fill = some sid → sid ≠ 0 →
        (getStripe s sid).valid + c.need ≤ (getStripe s sid).dcap → ∀ j d, c.out[j]? = some d →
          tget ({} : Sector) t.sectors (lk c.slot (c.lo + j)) = { sid := sid, pos := (getStripe s sid).valid + j } ∧
          cellOf t (tget ({} : Sector) t.sectors (lk c.slot (c.lo + j))) = d) ∧
      guarded t = guarded s

/-- R33, R116, R145, R147, R509: when the last data of a Read has gone out it completes with the sectors as they left
their engines, checked and counted; a Verify completes, and a Compare completes by what it finds; a sector whose
check fails ends the command with the check's status. R181: the oldest fine-map update due makes the entry of its
LBA, or, where no entry of its map page can be used yet, reads that page. Not of the rules: where the data buffers lie in what a Read shows is the model's choice
(notes/assumptions/11.md). -/
def Obligations.ReadsComplete : Prop :=
  (∀ (s : State) (id : Nat),
    let c := getCmd s id
    let n := getNs s c.slot
    hasCmd s id = true → c.phase = .started → isRead c.io.op = true → c.want = [] → c.rds ≠ [] →
    (∀ r ∈ c.rds, rdDone r.st = true) → c.segs = segCount c.lo c.hi → qidOfSq c.sq ≠ 0 →
    c.wslot = false → NoFlushWaits s →
    ((c.io.op ≠ .compare → ∀ j v, c.out[j]? = some v → (sentSector n c.io j v).2 = none) →
      (c.io.op = .compare → c.rds.map (storedSec s c.slot) = c.out) →
      ∃ t, exec (.readDataSentNotice id) s = .next t ∧
        CqeWaits t (ctrlOfSq c.sq) (qidOfSq c.sq) c.io.cid .success ∧ hasCmd t id = false ∧
        (c.io.op = .read → ∃ e ∈ (getCq t (qk (ctrlOfSq c.sq) (getSq t (qk (ctrlOfSq c.sq) (qidOfSq c.sq))).cqid)).waiting,
          e.cid = c.io.cid ∧ e.data = readFlds n c.io (c.out.zipIdx.map (fun vj => (sentSector n c.io vj.2 vj.1).1))) ∧
        t.sectors = s.sectors ∧ t.zones = s.zones ∧ guarded t = guarded s) ∧
    (c.io.op = .compare → c.rds.map (storedSec s c.slot) ≠ c.out →
      ∃ t, exec (.readDataSentNotice id) s = .next t ∧
        CqeWaits t (ctrlOfSq c.sq) (qidOfSq c.sq) c.io.cid .compareFail ∧ hasCmd t id = false ∧
        t.sectors = s.sectors ∧ guarded t = guarded s) ∧
    (∀ v l st, c.io.op ≠ .compare → c.out = v :: l → (sentSector n c.io 0 v).2 = some st →
      ∃ t, exec (.readDataSentNotice id) s = .next t ∧
        CqeWaits t (ctrlOfSq c.sq) (qidOfSq c.sq) c.io.cid st ∧ hasCmd t id = false ∧
        t.sectors = s.sectors ∧ guarded t = guarded s)) ∧
  (∀ (s : State) (k : Nat) (l : List Nat), s.fineQ = k :: l →
    let v := tget ({} : Sector) s.sectors k
    let x := getStripe s v.sid
    let cache := (k / 2048) :: s.fineCache.filter (fun q => q != k / 2048)
    (pageHeld s (k / 2048) = true → exec .fineMapUpdate s = .next { s with
      fineQ := l
      fineCache := if s.arm.cfg.dev.dramMode = 0 then cache.take 512 else cache
      fine := tset {} s.fine k (if v = {} then {} else if v.unc = true then { state := 2 } else { state := 1, rank := x.rank, row := x.row, stripe := x.t, sector := v.pos }) }) ∧
    (pageHeld s (k / 2048) = false → ∃ t, exec .fineMapUpdate s = .next t ∧ t.fine = s.fine ∧ t.fineQ = s.fineQ ∧
      (∃ kv ∈ t.reads, kv.2.own = .page (k / 2048)) ∧ t.sectors = s.sectors ∧ t.cmds = s.cmds)) ∧
  (∀ s : State, s.fineQ = [] → exec .fineMapUpdate s = .next s)

/-- R84, R91, R115, R118: the oldest waiting entry of a completion queue goes to its ring, its phase turning with the wrap,
and its vector is signalled, or counted towards the aggregation threshold; a full ring holds it back, and a lost link
discards it. A signalled vector is sent a message unless it or the function is masked; a masked one stays pending until
the mask that holds it is cleared; an aggregation time that ends signals what was counted. R124, R125: once every fetch
of a frozen SQ has returned, its log entry is made with the head it then has. Not of the rules: when an aggregation
threshold is reached is the model's choice (notes/assumptions/17.md). -/
def Obligations.EntriesPostedAndSignalled : Prop :=
  let signal := fun (x : Ctrl) (n : Nat) =>
    if x.fmask = false ∧ x.unmasked.contains n = true then { x with msgs := x.msgs + 1 }
    else { x with pend := if x.pend.contains n then x.pend else x.pend ++ [n] }
  (∀ (s : State) (c q : Nat),
    let v := getCq s (qk c q)
    let x := getCtrl s c
    (v.waiting = [] → exec (.cqePosting c q) s = .next s) ∧
    (∀ (e : Cqe) (r : List Cqe), v.waiting = e :: r →
      let w : Cq := { v with
        waiting := r, ring := v.ring ++ [e], tail := if v.tail + 1 = v.size then 0 else v.tail + 1
        phase := if v.tail + 1 = v.size then !v.phase else v.phase }
      let n := tget 0 x.coalCnt v.iv + 1
      (portLost s c = true →
        exec (.cqePosting c q) s = .next { s with cqs := tset {} s.cqs (qk c q) { v with waiting := r } }) ∧
      (portLost s c = false → v.live = false ∨ v.size ≤ v.ring.length + 1 → exec (.cqePosting c q) s = .next s) ∧
      (portLost s c = false → v.live = true → v.ring.length + 1 < v.size →
        (v.ien = false → exec (.cqePosting c q) s = .next { s with cqs := tset {} s.cqs (qk c q) w }) ∧
        (v.ien = true → (q = 0 ∨ x.coal % 256 = 0 ∨ tget 0 x.ivConf v.iv ≠ 0) →
          exec (.cqePosting c q) s = .next { s with
            cqs := tset {} s.cqs (qk c q) w, ctrls := tset {} s.ctrls c (signal x v.iv) }) ∧
        (v.ien = true → q ≠ 0 → x.coal % 256 ≠ 0 → tget 0 x.ivConf v.iv = 0 →
          (n ≤ x.coal % 256 → exec (.cqePosting c q) s = .next { s with
            cqs := tset {} s.cqs (qk c q) w
            ctrls := tset {} s.ctrls c { x with coalCnt := tset 0 x.coalCnt v.iv n } }) ∧
          (x.coal % 256 < n → exec (.cqePosting c q) s = .next { s with
            cqs := tset {} s.cqs (qk c q) w
            ctrls := tset {} s.ctrls c (signal { x with coalCnt := tset 0 x.coalCnt v.iv 0 } v.iv) }))))) ∧
  (∀ (s : State) (c n : Nat), twf {} s.ctrls = true →
    let x := getCtrl s c
    (tget 0 x.coalCnt n = 0 → exec (.aggregationTimeExpiry c n) s = .next s) ∧
    (tget 0 x.coalCnt n ≠ 0 → exec (.aggregationTimeExpiry c n) s = .next { s with
      ctrls := tset {} s.ctrls c (signal { x with coalCnt := tset 0 x.coalCnt n 0 } n) })) ∧
  (∀ (s : State) (c : Nat) (b : Bool),
    let x := getCtrl s c
    let sent := fun (y : Ctrl) =>
      let l := y.pend.filter (fun n => !y.fmask && y.unmasked.contains n)
      { y with pend := y.pend.filter (fun n => !(l.contains n)), msgs := y.msgs + l.length }
    (∀ n, exec (.msixVectorUnmask c (some n) b) s = .next { s with ctrls := tset {} s.ctrls c (sent { x with
      unmasked := if b = true then x.unmasked.filter (fun k => k != n)
        else if x.unmasked.contains n then x.unmasked else x.unmasked ++ [n] }) }) ∧
    exec (.msixVectorUnmask c none b) s = .next { s with ctrls := tset {} s.ctrls c (sent { x with fmask := b }) } ∧
    (∀ n, x.fmask = false → x.unmasked.contains n = false → x.pend = [n] →
      ∃ t, exec (.msixVectorUnmask c (some n) false) s = .next t ∧ (getCtrl t c).msgs = x.msgs + 1 ∧
        (getCtrl t c).pend = [] ∧ (getCtrl t c).unmasked = x.unmasked ++ [n] ∧ t.cqs = s.cqs)) ∧
  (∀ (s : State) (c q : Nat),
    let v := getSq s (qk c q)
    ((∀ f, v.frz = some f → f.logged = true ∨ v.inflight ≠ 0) → exec (.queueFreezeLogEntry c q) s = .next s) ∧
    (∀ f, v.frz = some f → f.logged = false → v.inflight = 0 →
      ∃ t, exec (.queueFreezeLogEntry c q) s = .next t ∧
        t.sqs = tset {} s.sqs (qk c q) { v with frz := some { f with logged := true, head := v.head } } ∧
        (getCtrl t c).frzGen = (getCtrl s c).frzGen + 1 ∧
        t.cmds = s.cmds ∧ t.zones = s.zones ∧ guarded t = guarded s))

/-- R192, R208, R409, R432: each microsecond refills the buckets of the live commissions and of the Standard limits
in force; a re-evaluation sets the dirty-data limit anew and leaves one pending only if triggered meanwhile. Not of
the rules: what a grant costs in tokens is the model's choice (notes/assumptions/17.md). -/
def Obligations.TokensAndReevaluation : Prop :=
  (∀ s : State, exec .commissionTokenRefill s = .next { s with comms := tmap {} s.comms (fun _ c =>
    if c.used = true ∧ c.st ≠ .closed then { c with tokens := min (c.tokens + c.rate) (c.burst * 4096) } else c) }) ∧
  (∀ s : State, s.thm.stage ≠ 0 → s.pm.ps = 2 → exec .standardLimitTokenRefill s = .next { s with
    thm := { s.thm with stdTokens := min (s.thm.stdTokens + stdLimit s.thm.stage) 8388608 }
    pm := { s.pm with ps2 := min (s.pm.ps2 + 2000) 8388608 } }) ∧
  (∀ s : State, s.thm.stage = 0 → s.pm.ps ≠ 2 → exec .standardLimitTokenRefill s = .next s) ∧
  (∀ s : State, exec .standardLimitTokenRefill s = .next { s with
    thm := if s.thm.stage = 0 then s.thm else { s.thm with stdTokens := min (s.thm.stdTokens + stdLimit s.thm.stage) 8388608 }
    pm := if s.pm.ps = 2 then { s.pm with ps2 := min (s.pm.ps2 + 2000) 8388608 } else s.pm }) ∧
  (∀ s : State, s.cms.reeval = false → exec .reEvaluation s = .next s) ∧
  (∀ s : State, s.cms.reeval = true → ∃ t, exec .reEvaluation s = .next t ∧ t.cms.dCap = dCap s ∧
    t.cms.reeval = s.cms.again ∧ t.cms.again = false ∧ t.zones = s.zones ∧ t.sectors = s.sectors ∧
    t.pool = s.pool ∧ guarded t = guarded s)


/-! ### The media scheduler (R216 to R236, R246, R262 to R274) -/

/-- R216, R221, R229, R230, R233: a tick enters each die's state in its calendar; a complete commissioned stripe
becomes eligible at its time; a suspended program or erase resumes on its die when its tokens are free, under its own
kind and niche. R231, R232, R234: an urgent read meets its die: an idle one reads at once; a running erase is
suspended for it, and a running program, one over a suspended erase too, while its suspensions last. -/
def Obligations.SuspensionsAndUrgentReads : Prop :=
  ((∀ s : State, exec .schedulerTick s = .next { s with dies := tmap {} s.dies (fun key d =>
     if d.used = true then { d with cal := (d.sample :: d.cal).take 1024, sample := calEntry s (key % 32) d } else d) }) ∧
   (∀ (s : State) (sid : Nat), (getStripe s sid).phase = .complete → commStripe s (getStripe s sid) = true →
     (getStripe s sid).eligNs ≤ s.nowUs * 1000 →
     exec (.stripeEligible sid) s = .next { s with stripes := tset {} s.stripes sid { getStripe s sid with phase := .eligible } }) ∧
   (∀ (s : State) (ch k : Nat) (o : DieOp),
     let v := getDie s (dk ch k)
     let b := v.below.getD (.idle, 0, 0, false)
     let e := { v with op := o, kind := v.suspKind, niche := v.suspNiche, resv := v.suspResv, susp := v.below.map (·.1),
                       suspNiche := b.2.1, suspKind := b.2.2.1, suspResv := b.2.2.2, below := none, suspWait := false,
                       suspRd := none }
     v.op = .idle → v.susp = some o → isEraseOp o = false → v.suspWait = false → v.xfer = none →
     (∀ i, v.suspRd = some i → hasRd s i = false ∨ (getRd s i).st ≠ .wait) →
     (getChan s ch).retrain = false → iccqFor s ch = true → iccUsed s + s.arm.cfg.geom.iProg ≤ s.arm.cfg.dev.icc →
     ∃ t, exec (.programResume ch k) s = .next t ∧ t.dies = tset {} s.dies (dk ch k) e ∧
       t.sched.peak ≥ s.sched.peak ∧ t.stripes = s.stripes ∧ t.cmds = s.cmds) ∧
   (∀ (s : State) (k c r : Nat) (l : List Nat),
     let v := getDie s (dk c k)
     eligibles s k = [] → s.hold.brace = false → mediaHeld s = false → healthy s k = c :: l →
     v.op = .idle → v.susp = some (.erase r) → v.below = none → v.suspWait = false → v.xfer = none →
     (getChan s c).retrain = false → iccqFor s c = true → k < 32 → tokensFor s s.arm.cfg.geom.iErs = true →
     ∃ t, exec (.eraseResume k) s = .next t ∧ (getDie t (dk c k)).op = .erase r ∧
       (getDie t (dk c k)).susp = none ∧ (getDie t (dk c k)).niche = v.suspNiche ∧
       t.rows = s.rows ∧ t.stripes = s.stripes ∧ t.cmds = s.cmds)) ∧
  (∀ (s : State) (id i : Nat),
     let r := getRd s i
     let d := dk r.ch r.rank
     let v := getDie s d
     let e := suspendOp v (some i)
     hasCmd s id = true → (getCmd s id).cls = 0 → mediaHeld s = false → urgentOf s id = [i] → r.rank < 32 →
     (getChan s r.ch).retrain = false → (getChan s r.ch).making = false → iccqFor s r.ch = true →
     (∀ j ∈ waitingReads s r.rank 0, j ≠ i → (getRd s j).ch = r.ch → (getRd s j).pol = none) →
     v.suspWait = false → v.xfer = none →
     (v.op = .idle → suspendedFor s v i = true → tokensFor s s.arm.cfg.geom.iRead = true →
       ∃ t, exec (.urgentReadGrant id) s = .next t ∧ (getDie t d).op = .read i ∧ (getDie t d).susp = v.susp ∧
         (getRd t i).st = .array ∧ t.stripes = s.stripes ∧ t.zones = s.zones ∧ t.sectors = s.sectors) ∧
     (isEraseOp v.op = true → v.susp = none → tokensThen (setDie s d e) s.arm.cfg.geom.iRead = true →
       ∃ t, exec (.urgentReadGrant id) s = .next t ∧ getDie t d = e ∧ t.sched.suspends = s.sched.suspends ∧
         t.stripes = s.stripes ∧ t.zones = s.zones ∧ t.sectors = s.sectors) ∧
     (∀ sid, v.op = .program sid → suspendedProgram v = none → s.arm.cfg.urgPolicy = 0 → v.suspCnt < v.suspLimit →
       tokensThen (setDie s d { e with suspCnt := v.suspCnt + 1 }) s.arm.cfg.geom.iRead = true →
       ∃ t, exec (.urgentReadGrant id) s = .next t ∧ getDie t d = { e with suspCnt := v.suspCnt + 1 } ∧
         t.sched.suspends = satAdd 16 s.sched.suspends 1 ∧
         t.stripes = s.stripes ∧ t.zones = s.zones ∧ t.sectors = s.sectors))

/-- R222, R223, R230: the commissioned stripe with the earliest deadline is granted once its dies and tokens are
free and no stripe of another rank comes first, and its dies begin to load it. R217, R220, R226, R227, R273: the
operation the scheduler chooses for a rank starts: an erase of a row or of spare blocks on the dies, a stripe's load, a
codeword's array read on its die, a program of the Plinth, or the reads or the program of a stripe that Recast copies. Not
of the rules: the size of a load and its steps are DEDUCED (notes/assumptions/18.md), and the rows of the Plinth the
model's choice (notes/assumptions/14.md). -/
def Obligations.StripesAndWorkGranted : Prop :=
  (∀ (s : State) (rank sid : Nat),
     let x := getStripe s sid
     rank < 32 → startsHeld s = false → earliest s rank = some sid → x.rank = rank → loadHeld s sid = false →
     loadReady s sid = true → outranked s rank sid = false →
     (∀ c ∈ chIn x.chmask, (getDie s (dk c rank)).retired = false ∧ bitOf x.issued c = false) →
     iccUsed s + nk s rank * s.arm.cfg.geom.iProg ≤ s.arm.cfg.dev.icc →
     ∃ t, exec (.stripeGrant rank) s = .next t ∧ (getStripe t sid).phase = .granted ∧
       (getStripe t sid).seq = s.sched.seqNo + 1 ∧ (∀ c ∈ chIn x.chmask, (getDie t (dk c rank)).op = .load sid) ∧
       t.rows = s.rows ∧ t.cmds = s.cmds ∧ t.zones = s.zones ∧ t.sectors = s.sectors) ∧
  (∀ (s : State) (rank : Nat) (w : Work) (n : Nat), rank < 32 → startsHeld s = false →
     chooseWork s rank = some (w, n) →
     (∀ row, w = .erase row → ∃ t, exec (.dieOperationSelect rank) s = .next t ∧
       (getRow t (rk rank row)).st = .erasing ∧
       (∀ c ∈ healthy s rank, (getDie t (dk c rank)).op = .erase row) ∧
       t.cmds = s.cmds ∧ t.zones = s.zones ∧ t.stripes = s.stripes) ∧
     (∀ sid, w = .program sid → (getStripe s sid).rank = rank →
       (∀ c ∈ chIn (getStripe s sid).chmask, (getDie s (dk c rank)).retired = false ∧
         bitOf (getStripe s sid).issued c = false) →
       ∃ t, exec (.dieOperationSelect rank) s = .next t ∧ (getStripe t sid).phase = .granted ∧
         (∀ c ∈ chIn (getStripe s sid).chmask, (getDie t (dk c rank)).op = .load sid) ∧
         t.cmds = s.cmds ∧ t.zones = s.zones ∧ t.rows = s.rows) ∧
     (∀ i, w = .read i → ∃ t, exec (.dieOperationSelect rank) s = .next t ∧
       (getDie t (dieOfRd s i)).op = .read i ∧ (getRd t i).st = .array ∧
       t.stripes = s.stripes ∧ t.zones = s.zones) ∧
     (∀ j r tt, w = .plinth j → plinthNext s rank = some (r, tt) → twf {} s.dies = true →
       (∀ c, bitOf (getRow s (rk rank r)).chmask c = true → (getDie s (dk c rank)).retired = false) →
       ∃ t, exec (.dieOperationSelect rank) s = .next t ∧
         (let x := getStripe t s.sched.nextStripe
          x.pl = some j ∧ x.phase = .granted ∧ x.rank = rank ∧ x.row = r ∧ x.t = tt ∧
            ∀ c ∈ chIn x.chmask, (getDie t (dk c rank)).op = .load s.sched.nextStripe) ∧
         t.plinth.jobs = s.plinth.jobs.erase j ∧ t.cmds = s.cmds ∧ t.zones = s.zones ∧ t.sectors = s.sectors) ∧
     (∀ row f tc, w = .recast row →
       let v := getRow s (rk rank row)
       v.d ≤ nk s rank → (v.dest = some f ∨ (v.dest = none ∧ recastDest s rank row = some f)) → f ≠ row →
       nextCopy s rank row = some tc → (recastTake s rank row).2 = true →
       ∃ t, exec (.dieOperationSelect rank) s = .next t ∧ (getRow t (rk rank row)).copyPh = 1 ∧
         (getRow t (rk rank row)).copyT = tc.1 ∧ (getRow t (rk rank row)).copyCh = tc.2 ∧
         (getRow t (rk rank row)).dest = some f ∧ (getRow t (rk rank row)).reads = v.reads + 64 * v.d ∧
         (∀ c ∈ healthy s rank, (getDie t (dk c rank)).op = .copyRead row) ∧
         t.pool = (recastTake s rank row).1.pool ∧ t.stripes = s.stripes ∧ t.zones = s.zones ∧ t.sectors = s.sectors) ∧
     (∀ row, w = .copy row → ∃ t, exec (.dieOperationSelect rank) s = .next t ∧
       (getRow t (rk rank row)).copyPh = 4 ∧ (∀ d ∈ copyDies s rank row, (getDie t d).op = .copyLoad row) ∧
       t.stripes = s.stripes ∧ t.zones = s.zones ∧ t.sectors = s.sectors) ∧
     (w = .spares → ∃ t, exec (.dieOperationSelect rank) s = .next t ∧
       (∀ d ∈ spareDies s rank, (getDie t d).op = .spare) ∧ t.rows = s.rows ∧ t.stripes = s.stripes ∧ t.zones = s.zones)) ∧
  (∀ (s : State) (rank : Nat), startsHeld s = true →
    exec (.dieOperationSelect rank) s = .next s ∧ exec (.stripeGrant rank) s = .next s)

/-- R30, R31, R229, R233, R247, R268: a burst brings a load or a transfer of a Recast copy one codeword nearer its end, or
takes a read's codeword from the die's page register to the decoders, its channel driving for it, and 16 NCLK more where
its CE# changes; the first two of the three soft reads of step 8 are followed by the next. A whole load is issued as a
program, and its die reports it. Not of the rules: 64 bursts a load, and 16 a load of the Plinth, is DEDUCED
(notes/assumptions/18.md). -/
def Obligations.BurstsAndIssue : Prop :=
  (∀ (s : State) (ch cl o d : Nat),
    let v := getChan s ch
    let x := getDie s d
    let ce := d % 32 / 4
    let e := fun n : Nat => { v with lastUrgent := cl == 0, ce := ce,
                                     drv := (s.nowUs, if v.ce = ce then n else n + 16) ::
                                       v.drv.filter (fun p => decide (s.nowUs < p.1 + 1000)) }
    let f := fun i : Nat => burstNclk (getStripe s (getRd s i).sid).fmt
    d / 32 = ch → v.retrain = false → v.state = 2 → iccqFor s ch = true → nextBurst s ch = some (cl, o, d) →
    (∀ sid, x.xfer = none → x.op = .load sid → ∃ t, exec (.channelBurstSelect ch) s = .next t ∧
      getChan t ch = e (burstNclk (getStripe s sid).fmt) ∧
      t.dies = tset {} s.dies d { x with bursts := x.bursts + 1 } ∧
      t.stripes = s.stripes ∧ t.cmds = s.cmds ∧ t.reads = s.reads ∧ t.sched = s.sched) ∧
    (∀ r, x.xfer = none → x.op = .copyLoad r → ∃ t, exec (.channelBurstSelect ch) s = .next t ∧
      getChan t ch = e (copyNclk s d r) ∧ t.dies = tset {} s.dies d { x with bursts := x.bursts + 1 } ∧
      t.rows = s.rows ∧ t.stripes = s.stripes ∧ t.reads = s.reads ∧ t.sched = s.sched) ∧
    (∀ r, x.xfer = none → x.op = .copyXfer r → x.bursts + 1 < 64 → ∃ t, exec (.channelBurstSelect ch) s = .next t ∧
      getChan t ch = e (copyNclk s d r + 64) ∧ t.dies = tset {} s.dies d { x with bursts := x.bursts + 1 } ∧
      t.rows = s.rows ∧ t.stripes = s.stripes ∧ t.reads = s.reads ∧ t.sched = s.sched) ∧
    (∀ i, x.xfer = some i → hasRd s i = true →
      let r := getRd s i
      (r.step = 8 → r.soft < 2 → ∃ t, exec (.channelBurstSelect ch) s = .next t ∧
        getChan t ch = e (f i) ∧ t.dies = tset {} s.dies d { x with xfer := none } ∧
        getRd t i = { r with soft := r.soft + 1, st := .wait } ∧
        t.stripes = s.stripes ∧ t.cmds = s.cmds ∧ t.sched = s.sched) ∧
      (r.step ≠ 8 ∨ 2 ≤ r.soft → ∃ t, exec (.channelBurstSelect ch) s = .next t ∧
        getChan t ch = e (f i) ∧ t.dies = tset {} s.dies d { x with xfer := none } ∧
        getRd t i = { r with st := .decode } ∧
        (i ∈ t.sched.hard ++ t.sched.hardQ ++ t.sched.soft ++ t.sched.softQ) ∧
        t.stripes = s.stripes ∧ t.cmds = s.cmds))) ∧
  (∀ (s : State) (ch rank sid : Nat),
    let d := getDie s (dk ch rank)
    d.op = .load sid → loadBursts (getStripe s sid) ≤ d.bursts → (getChan s ch).retrain = false →
    (commStripe s (getStripe s sid) = true ∨ tokensFor s s.arm.cfg.geom.iProg = true) →
    ∃ t, exec (.programIssued ch rank true) s = .next t ∧ (getDie t (dk ch rank)).op = .program sid ∧
      (getDie t (dk ch rank)).suspCnt = 0 ∧
      (getDie t (dk ch rank)).suspLimit = (if charged s rank = true then kC s else s.arm.cfg.urgMax) ∧
      (getStripe t sid).issued = setBit (getStripe s sid).issued ch ∧
      t.zones = s.zones ∧ t.sectors = s.sectors ∧ t.cmds = s.cmds) ∧
  (∀ (s : State) (ch rank r : Nat),
    let d := getDie s (dk ch rank)
    d.op = .copyLoad r → (getRow s (rk rank r)).dest ≠ none → 64 ≤ d.bursts → (getChan s ch).retrain = false →
    tokensFor s s.arm.cfg.geom.iProg = true →
    ∃ t, exec (.programIssued ch rank true) s = .next t ∧ (getDie t (dk ch rank)).op = .copy r ∧
      (getDie t (dk ch rank)).suspCnt = 0 ∧
      (getDie t (dk ch rank)).suspLimit = (if charged s rank = true then kC s else s.arm.cfg.urgMax) ∧
      t.rows = s.rows ∧ t.stripes = s.stripes ∧ t.zones = s.zones ∧ t.sectors = s.sectors)

/-- R187, R230, R232, R246, R250, R268: a poll drives the bus for 32 NCLK, and waits where the bus is out of service or has
no tokens; one that finds a program, an erase or a read ended takes the die out of it; the last die's erase leaves the row
erased; a poll that finds a suspend done starts the read it is for, where that finds its tokens; a timeout counts on the
channel and fails the operation: a read goes on to the next step of its ladder. Not of the rules: which spare a failed
block takes is the model's choice (notes/assumptions/14.md). -/
def Obligations.OperationsEnd : Prop :=
  (∀ (s : State) (ch rank : Nat) (r : Poll), (getChan s ch).retrain = true ∨ iccqFor s ch = false →
    exec (.statusPoll ch rank r) s = .next s) ∧
  (∀ (s : State) (ch rank : Nat), rank < 32 → twf {} s.chans = true → twf {} s.dies = true →
    (getChan s ch).retrain = false → iccqFor s ch = true →
    let v := getChan s ch
    let u := { s with chans := tset {} s.chans ch { v with
      ce := rank / 4, drv := (s.nowUs, if v.ce = rank / 4 then 32 else 48) ::
        v.drv.filter (fun p => decide (s.nowUs < p.1 + 1000)) } }
    let d := getDie s (dk ch rank)
    let idle := { d with op := .idle, kind := 0, resv := false, bursts := 0 }
    (exec (.statusPoll ch rank .busy) s = .next u) ∧
    (∀ sid, let x := getStripe s sid
      let h := getNch s x.niche
      let e := { u with
        dies := tset {} s.dies (dk ch rank) idle
        stripes := tset {} s.stripes sid { x with ended := setBit x.ended ch } }
      d.suspWait = false → d.op = .program sid → s.stripes.any (fun kv => kv.1 == sid) = true →
      setBit x.ended ch ≠ x.chmask →
      (x.pl = none → exec (.statusPoll ch rank .ready) s = .next
        { e with niches := tset {} s.niches x.niche { h with mediaWritten := satAdd 64 h.mediaWritten 64 } }) ∧
      (x.pl ≠ none → exec (.statusPoll ch rank .ready) s = .next e)) ∧
    (∀ row, d.suspWait = false → d.op = .erase row →
      stillErasing (setDie s (dk ch rank) idle) rank row = false →
      exec (.statusPoll ch rank .ready) s = .next
        { u with dies := tset {} s.dies (dk ch rank) idle, rows := tset {} s.rows (rk rank row) {} }) ∧
    (d.suspWait = false → d.op = .spare → exec (.statusPoll ch rank .ready) s = .next
      { u with dies := tset {} s.dies (dk ch rank) { idle with spareDone := d.spareDone + 1 } }) ∧
    (∀ row, d.suspWait = false → d.op = .copyRead row → (getRow s (rk rank row)).copyPh = 1 →
      exec (.statusPoll ch rank .ready) s = .next
        { u with dies := tset {} s.dies (dk ch rank) { d with op := .copyXfer row, bursts := 0 } }) ∧
    (∀ i, d.suspWait = false → d.op = .read i → hasRd s i = true →
      ∃ t, exec (.statusPoll ch rank .ready) s = .next t ∧ (getDie t (dk ch rank)).op = .idle ∧
        (getDie t (dk ch rank)).xfer = some i ∧ t.reads = tset {} s.reads i { getRd s i with st := .xfer } ∧
        t.stripes = s.stripes ∧ t.rows = s.rows ∧ t.cmds = s.cmds ∧ t.sched = s.sched) ∧
    (∀ i, d.suspWait = true → d.suspRd = some i → hasRd s i = true → (getRd s i).st = .wait →
      (tokensFor (setDie s (dk ch rank) { d with suspWait := false }) s.arm.cfg.geom.iRead = true →
        ∃ t, exec (.statusPoll ch rank .ready) s = .next t ∧ (getDie t (dieOfRd s i)).op = .read i ∧
          (getRd t i).st = .array ∧ t.stripes = s.stripes ∧ t.cmds = s.cmds ∧ t.zones = s.zones) ∧
      (tokensFor (setDie s (dk ch rank) { d with suspWait := false }) s.arm.cfg.geom.iRead = false →
        exec (.statusPoll ch rank .ready) s = .next
          { u with dies := tset {} s.dies (dk ch rank) { d with suspWait := false } }))) ∧
  (∀ (s : State) (ch rank : Nat),
    let d := getDie s (dk ch rank)
    let idle := { d with op := .idle, kind := 0, resv := false, bursts := 0 }
    (∀ i, d.op = .read i → hasRd s i = true → (getRd s i).step ≤ 7 →
      exec (.operationTimeout ch rank) s = .next
        { s with
          chans := tset {} s.chans ch { getChan s ch with readTo := satAdd 16 (getChan s ch).readTo 1 }
          dies := tset {} s.dies (dk ch rank) idle
          reads := tset {} s.reads i { getRd s i with step := (getRd s i).step + 1, soft := 0, st := .wait } }) ∧
    (∀ sid, d.suspWait = false → d.op = .program sid →
      ∃ t, exec (.operationTimeout ch rank) s = .next t ∧
        (getChan t ch).progTo = satAdd 16 (getChan s ch).progTo 1 ∧ guarded t = guarded s))

/-- R258, R264, R266 to R269, R271, R272: a codeword that decodes and whose tag is right puts its sector in the read
buffer and its ladder ends; one that fails goes to the next step, the level with the fewest bits found wrong kept for
step 8, and the result of a hard decoder flagged where it is beyond 40 bits; one whose tag is wrong goes to the rebuild from the
other units, with a record. A scrub pass counts and reads one codeword of each unit of each stripe it chooses, and a
codeword with more than 28 bits queues its row. Not of the rules: which codeword of a unit a pass reads is DEDUCED
(notes/assumptions/18.md). -/
def Obligations.DecodesAndScrubs : Prop :=
  (∀ (s : State) (rd : Nat) (q : Decoded),
    let r := getRd s rd
    let x := getStripe s r.sid
    let v := q.found.getD (expectInfo s r) % 2 ^ (8 * infoBytes x.fmt)
    (rd ∈ s.sched.hard ∨ rd ∈ s.sched.soft) → r.st = .decode →
    (q.good = false → r.step ≤ 7 →
      ∃ t, exec (.codewordDecode rd q) s = .next t ∧ getRd t rd = { noteBest r q.bits with step := r.step + 1, soft := 0, st := .wait } ∧
        (r.step ≠ 8 → t.sched.beyond = decide (40 < q.bits)) ∧
        t.cmds = s.cmds ∧ t.sectors = s.sectors ∧ t.zones = s.zones ∧ t.stripes = s.stripes) ∧
    (∀ id j w, q.good = true → passes269 s r v = true → r.own = .cmd id j → hasCmd s id = true →
      (getCmd s id).rds[j]? = some w → (∀ k y, k ≠ j → (getCmd s id).rds[k]? = some y → y.st ≠ .lost) →
      ∃ t, exec (.codewordDecode rd q) s = .next t ∧
        (getCmd t id).rds = (getCmd s id).rds.set j { w with st := .ready v } ∧ hasRd t rd = false ∧
        t.sectors = s.sectors ∧ t.zones = s.zones ∧ t.stripes = s.stripes) ∧
    (∀ id j, q.good = true → passes269 s r v = false → r.own = .cmd id j → rebuildable s r = true →
      rd < s.sched.nextRd →
      ∃ t, exec (.codewordDecode rd q) s = .next t ∧ (getRd t rd).step = 9 ∧ (getRd t rd).st = .rebuild ∧
        t.pat = (nicheRec s x.niche 0x52 6 0 (tagOf v)).pat ∧
        t.sectors = s.sectors ∧ t.zones = s.zones ∧ t.stripes = s.stripes) ∧
    (let w := getRow s (rk x.rank x.row)
     q.good = true → passes269 s r v = true → r.own = .scrub → r.sid ≠ 0 → r.step = 0 → 28 < q.bits →
      w.st = .bound → w.queue = 0 → twf {} s.rows = true →
      ∃ t, exec (.codewordDecode rd q) s = .next t ∧ hasRd t rd = false ∧
        getRow t (rk x.rank x.row) = { w with queue := 1, queuedUs := s.opUs } ∧
        t.sectors = s.sectors ∧ t.zones = s.zones ∧ t.stripes = s.stripes)) ∧
  (∀ s : State, ∃ t, exec .scrubPass s = .next t ∧ t.sched.scrubPass = s.sched.scrubPass + 1 ∧
    t.rows = s.rows ∧ t.stripes = s.stripes ∧ t.cmds = s.cmds ∧ t.sectors = s.sectors ∧
    ∀ sid c, let x := getStripe s sid
      (sid, x) ∈ s.stripes → sid ≠ 0 → x.phase = .done → x.t % 16 = s.sched.scrubPass % 16 →
      (getRow s (rk x.rank x.row)).st = .bound → c ∈ chIn x.chmask → unitGone s x c = false →
      ∃ i, s.sched.nextRd ≤ i ∧ (getRd t i).own = .scrub ∧ (getRd t i).sid = sid ∧ (getRd t i).ch = c ∧
        (getRd t i).rank = x.rank ∧ (getRd t i).ix = 4 * (x.t % 4) ∧ (getRd t i).st = .wait)

/-! ### Upkeep of the media and the records (R39, R177, R182 to R184, R271 to R275, R321, R348, R349, R447) -/

/-- R271, R273 to R275: a row a year old is queued for Recast; one that misses its 24 hours is recorded; a stripe read
is encoded for the destination and programmed when R220 lets it, the last die's program of it counts it copied, a
destination block that fails on the way is retired for a spare and its column is copied again, and the swap leaves the row
on the copied blocks and the old ones to be erased once the reads issued to them have ended. R182 to
R184: collection begins in the background after 50 ms of idleness; it reads the victim's valid sectors, and a collected
victim with its map changes on the Plinth becomes erase-pending. Not of the rules: the spare block's number is the
model's choice (notes/assumptions/14.md), the victim's moment DEDUCED (notes/assumptions/18.md). -/
def Obligations.RowsRecastAndCollected : Prop :=
  ((∀ (s : State) (k r : Nat),
     let v := getRow s (rk k r)
     (v.nstripe ≠ 0 → v.st = .bound → v.queue = 0 → exec (.rowAgeTrigger k r) s = .next { s with
       rows := tset {} s.rows (rk k r) { v with queue := 1, queuedUs := s.opUs } }) ∧
     (v.nstripe = 0 → exec (.rowAgeTrigger k r) s = .next s) ∧
     (v.queue = 1 → v.missed = false → mediaHeld s = false → deadlineHolds s k = true → ∃ t, exec (.recastDeadlineMissed k r) s = .next t ∧
       t.rows = tset {} s.rows (rk k r) { v with missed := true } ∧
       t.pat.events = s.pat.events + 1 ∧ t.zones = s.zones ∧ t.sectors = s.sectors) ∧
     (∀ sid, (copyOrder s k r)[v.copyT]? = some sid → v.st = .bound → v.copyPh = 2 → v.copyBad = [] →
       ∃ t, exec (.recastCopyStripe k r []) s = .next t ∧
         ((getRow t (rk k r)).copyPh = 3 ∨
           ((getRow t (rk k r)).copyPh = 4 ∧ ∀ d ∈ copyDies s k r, (getDie t d).op = .copyLoad r)) ∧
         (v.copyCh = none → (getStripe t sid).copySeq = s.sched.seqNo + 1) ∧
         t.zones = s.zones ∧ t.sectors = s.sectors ∧ t.cmds = s.cmds) ∧
     (∀ c, let d := getDie s (dk c k)
       (getChan s c).retrain = false → iccqFor s c = true →
       d.op = .copy r → d.suspWait = false → v.copyPh = 4 → v.copyCh = none →
       copying (setDie s (dk c k) { d with op := .idle, kind := 0, resv := false, bursts := 0 }) k r = false →
       ∃ t, exec (.statusPoll c k .ready) s = .next t ∧
         t.rows = tset {} s.rows (rk k r) { v with copied := v.copied + 1, copyPh := 0, swapJ := false } ∧
         t.stripes = s.stripes ∧ t.zones = s.zones ∧ t.sectors = s.sectors) ∧
     (∀ c f i, let d := getDie s (dk c k)
       (getChan s c).retrain = false → iccqFor s c = true → flushing s = false →
       d.op = .copy r → d.suspWait = false → v.dest = some f → (freeSpares s d).head? = some i →
       ∃ t, exec (.statusPoll c k .failed) s = .next t ∧ (getDie t (dk c k)).sparesUsed = i + 1 ∧
         (getDie t (dk c k)).bad = d.bad ++ [blockOf d f] ∧ (getDie t (dk c k)).op = .idle ∧
         (c, 0) ∈ (getRow t (rk k r)).cols ∧
         t.stripes = s.stripes ∧ t.zones = s.zones ∧ t.sectors = s.sectors) ∧
     (∀ f, v.st = .bound → v.dest = some f → f ≠ r → v.copied = (presentStripes s k r).length →
       (∀ e ∈ v.cols, e.2 = v.copied) → v.swapJ = true →
       (∀ i ∈ stripesOfRow s k r, (getStripe s i).phase ≠ .granted ∧ (getStripe s i).phase ≠ .issued) →
       ∃ t, exec (.recastCommit k r) s = .next t ∧ (getRow t (rk k r)).st = .bound ∧
         (getRow t (rk k r)).chmask = (getRow s (rk k f)).chmask ∧ (getRow t (rk k r)).queue = 0 ∧
         (getRow t (rk k r)).dest = none ∧ (getRow t (rk k r)).reads = 0 ∧
         (issuedReads s k r = [] → (getRow t (rk k f)).st = .pending) ∧
         (issuedReads s k r ≠ [] → (getRow t (rk k f)).st = .leaving ∧ (getRow t (rk k f)).waits = issuedReads s k r) ∧
         t.plinth.jrnl = s.plinth.jrnl + 1 ∧ t.zones = s.zones ∧ t.sectors = s.sectors))) ∧
  ((∀ (s : State) (i : Nat),
     let n := (getNs s i).attr.niche
     (getNs s i).live = true → zonedAt s i = false → (getNch s n).lastIoUs + 50000 ≤ s.nowUs →
     fineFree s i < 2 * gcLevel s i →
     exec (.gcBackgroundStart i) s = .next { s with niches := tset {} s.niches n { getNch s n with bgGc := true } }) ∧
   (∀ (s : State) (i key lba : Nat) (l : List Nat),
     let n := (getNs s i).attr.niche
     let all := validIn s (key / 8192) (key % 8192)
     let w := getRow s key
     let e := { w with victim := some (w.victim.getD all.length) }
     (getNs s i).live = true → zonedAt s i = false → (fgMode s i || bgMode s i) = true →
     (∀ kv ∈ s.reads, ∀ b, kv.2.own ≠ .gc i b) → collecting s i = some key → all.length ≤ gcRoom s i →
     all = lk i lba :: l → lba < 281474976710656 →
     (allocate (setRow s key e) n 3 (gcOwner i) false none).2.isSome = true →
     ∃ t, exec (.gcVictimCollect i) s = .next t ∧ t.rows = tset {} s.rows key e ∧
       (getRd t s.sched.nextRd).own = .gc i lba ∧ t.plinth.jrnl = s.plinth.jrnl + 1 ∧
       t.cmds = s.cmds ∧ t.zones = s.zones ∧ guarded t = guarded s) ∧
   (∀ (s : State) (i key : Nat) (l : List Nat), fineHeld s i = key :: l → (getRow s key).victim.isSome = true →
     (∀ kv ∈ s.reads, kv.2.sid ∉ stripesOfRow s (key / 8192) (key % 8192) ∨ kv.2.sid = 0) → s.plinth.jrnl = 0 →
     validIn s (key / 8192) (key % 8192) = [] → (getRow s key).dest = none →
     (∀ j ∈ stripesOfRow s (key / 8192) (key % 8192), (getStripe s j).phase ≠ .granted ∧ (getStripe s j).phase ≠ .issued) →
     ∃ t, exec (.gcVictimFree i) s = .next t ∧ (getRow t key).st = .pending ∧
       t.plinth.jrnl = s.plinth.jrnl + 1 ∧ t.zones = s.zones ∧ t.cmds = s.cmds ∧ guarded t = guarded s))

/-- R20, R39, R177, R226, R348, R349, R447: with the Plinth mounted, a zone's frame entries reach it; a niche's
checkpoint, a journal page, the Patina image and the Armature mirror, once asked for, are programs of the Plinth: one
starts at once where it is the next operation of a Plinth rank, and waits in the queue elsewhere. When the last die of the
program has ended, what it carried is on the Plinth: the records its page took count no longer as waiting, the checkpoint
is the newest record in the other root area, the image and the mirror stand. Not of the rules: which rows the programs
take is the model's choice (notes/assumptions/14.md). -/
def Obligations.RecordsReachThePlinth : Prop :=
  (∀ (s : State) (slot z : Nat),
    (s.plinth.mounted = true → exec (.frameIndexPersist slot z) s = .next
      { s with zones := tset {} s.zones (zk slot z) { getZone s (zk slot z) with framesSaved := (getZone s (zk slot z)).frames.length } }) ∧
    (s.plinth.mounted = false → exec (.frameIndexPersist slot z) s = .next s)) ∧
  (∀ (s : State) (i : Instr) (j : PlJob),
    (∃ n, i = .checkpoint n ∧ j = .checkpoint n ∧ nicheValid s n = true) ∨
    (i = .journalPageProgram ∧ j = .page ∧ s.plinth.jrnl ≠ 0 ∧ pageOn s = false) ∨
    (i = .patinaPersist ∧ j = .patina) ∨
    (i = .armatureMirrorWrite ∧ j = .mirror ∧ s.glb.released = true ∧ s.boot.maquette = false ∧
      s.arm.mirror ≠ some s.arm.seq) →
    let u := addJob s j
    j ∈ u.plinth.jobs ∧
    (startsHeld u = true ∨ ((chooseWork u (plinthRanks s).1).map (·.1) ≠ some (.plinth j) ∧
        (chooseWork u (plinthRanks s).2).map (·.1) ≠ some (.plinth j)) →
      exec i s = .next u) ∧
    (∀ r tt, let k := (plinthRanks s).1
      startsHeld u = false → (chooseWork u k).map (·.1) = some (.plinth j) → plinthNext u k = some (r, tt) →
      twf {} s.dies = true → k < 32 →
      (∀ c, bitOf (getRow s (rk k r)).chmask c = true → (getDie s (dk c k)).retired = false) →
      ∃ t, exec i s = .next t ∧
        (let x := getStripe t s.sched.nextStripe
         x.pl = some j ∧ x.phase = .granted ∧ x.rank = k ∧ x.row = r ∧ x.t = tt ∧
           ∀ c ∈ chIn x.chmask, (getDie t (dk c k)).op = .load s.sched.nextStripe) ∧
        t.plinth.jobs = u.plinth.jobs.erase j ∧ t.cmds = s.cmds ∧ t.zones = s.zones ∧ t.sectors = s.sectors)) ∧
  (∀ (s : State) (c k sid : Nat) (j : PlJob), (getChan s c).retrain = false → iccqFor s c = true →
    let d := getDie s (dk c k)
    let x := getStripe s sid
    d.op = .program sid → d.suspWait = false → s.stripes.any (fun kv => kv.1 == sid) = true → x.pl = some j →
    setBit x.ended c = x.chmask → (∀ kv ∈ s.reads, kv.2.sid ≠ sid) → NoFlushWaits s →
    ∃ t, exec (.statusPoll c k .ready) s = .next t ∧ (getStripe t sid).phase = .done ∧
      t.sectors = s.sectors ∧ t.cmds = s.cmds ∧
      (∀ m n, j = .page → s.plinth.taken.find? (fun e => e.1 == sid) = some (sid, m, n) →
        t.plinth.jrnl = s.plinth.jrnl - n ∧ t.plinth.img = m ∧ t.zones = s.zones) ∧
      (∀ m n q, j = .checkpoint q → s.plinth.taken.find? (fun e => e.1 == sid) = some (sid, m, n) →
        t.plinth.img = m ∧ t.plinth.newest = 1 ∧ t.plinth.rootArea = 1 - s.plinth.rootArea ∧
        t.plinth.rootSeq = s.sched.seqNo ∧ t.niches = tset {} s.niches q { getNch s q with ckptUs := s.opUs, sinceCkpt := 0 }) ∧
      (∀ g, j = .patina → s.pat.taken = some g →
        t.pat.img = some g ∧ t.pat.ring = s.pat.ring ∧ t.pat.count = satAdd 16 s.pat.count 1 ∧ t.zones = s.zones) ∧
      (j = .mirror → t.arm = { s.arm with
        mirror := some s.arm.seq, mirrorCfg := some s.arm.base
        mirrorDies := ((chIn x.chmask).filter (fun ch => !(bitOf x.erased ch))).map (fun ch => dk ch x.rank) } ∧
        t.zones = s.zones))

/-! ### Channels (R240 to R255) -/

/-- R244, R245: a channel whose dies answer as the geometry says and whose eyes pass at the first step is in service at
that rate, its dies in use. R248, R249, R252: calibration and tracking of a CE# count; a low eye starts a step-down,
which retrains in a gap and ends at the next rate below; a channel with no step left is lost, and a domain of four lost
channels goes off. R251, R254: none begins in a flush, and the retrain of a domain that has come up keeps the rate.
R250: a quick retrain comes no sooner than 8.4 ms after the last. Not of the rules: what follows a
quick retrain whose verify fails is DEDUCED (notes/assumptions/13.md). -/
def Obligations.ChannelsTrainAndStepDown : Prop :=
  (∀ (s : State) (ch r rd wr : Nat) (rs : List Nat) (eyes : List (Nat × Nat)) (pages : List DiePage),
     s.boot.phase = .mount → chanOn s ch = true → ch < 32 → (getChan s ch).state ≠ 2 → (getChan s ch).state ≠ 3 →
     (∀ k, k < 32 → bitOf s.arm.cfg.rankEn k = true →
       pageFits s (pages.getD k ⟨false, false, 0, 0, 0, 0, false, 0⟩) = true) →
     (∃ k, k < 32 ∧ bitOf s.arm.cfg.rankEn k = true) → rateSteps s = r :: rs → 103 ≤ min rd wr →
     ∃ t, exec (.channelEnumeration ch pages ((rd, wr) :: eyes)) s = .next t ∧ (getChan t ch).state = 2 ∧
       (getChan t ch).rate = r ∧ (getChan t ch).startRate = r ∧
       (getChan t ch).presets = ((rateSteps s).filter (fun x => decide (x < r))).take 2 ∧
       chanDegraded (getChan t ch) = (getChan s ch).stepPend ∧ (getChan t ch).rdStart = rd ∧ (getChan t ch).wrStart = wr ∧
       (∀ k, k < 32 → bitOf s.arm.cfg.rankEn k = true → (getDie t (dk ch k)).used = true) ∧
       ((∀ k, k < 32 → bitOf s.arm.cfg.rankEn k = true → 3 ≤ nk s k) → t.cmds = s.cmds ∧ t.zones = s.zones)) ∧
  (∀ (s : State) (ch : Nat),
     let v := getChan s ch
     let e := fun ce : Nat => { v with
       ce := ce, drv := (s.nowUs, if v.ce = ce then 1040 else 1056) :: v.drv.filter (fun p => decide (s.nowUs < p.1 + 1000)) }
     (∀ ce, slotFor s ch ce = true → ∃ t, exec (.zqCalibrationShort ch ce) s = .next t ∧
       getChan t ch = { e ce with zq := satAdd 16 v.zq 1 } ∧ (∀ c, c ≠ ch → getChan t c = getChan s c) ∧
       t.dies = s.dies ∧ t.cmds = s.cmds) ∧
     (∀ ce rd wr, slotFor s ch ce = true → 77 ≤ min rd wr → ∃ t, exec (.eyeTracking ch ce rd wr) s = .next t ∧
       getChan t ch = { e ce with track := satAdd 16 v.track 1, rdNow := rd, wrNow := wr } ∧
       (∀ c, c ≠ ch → getChan t c = getChan s c) ∧ t.dies = s.dies ∧ t.cmds = s.cmds) ∧
     (∀ ce rd wr p l, slotFor s ch ce = true → min rd wr < 77 → v.stepPend = false → v.presets = p :: l →
       ∃ t, exec (.eyeTracking ch ce rd wr) s = .next t ∧ chanDegraded (getChan t ch) = true ∧
         (getChan t ch).stepPend = true ∧ (getChan t ch).target = p ∧ (getChan t ch).stepUs = s.nowUs ∧
         (getChan t ch).rate = v.rate ∧ t.cmds = s.cmds ∧ t.dies = s.dies) ∧
     (∀ p l, v.stepPend = true → v.retrain = false → gapNow s ch = true → mayRetrain s ch = true →
       v.presets = p :: l → quickEarly s v = false →
       exec (.channelGap ch) s = .next { s with chans := tset {} s.chans ch { v with retrain := true, full := false, making := false, target := p } }) ∧
     (v.stepPend = true → v.retrain = false → gapNow s ch = true → mayRetrain s ch = true → v.presets = [] →
       exec (.channelGap ch) s = .next { s with chans := tset {} s.chans ch { v with retrain := true, full := true, making := false } }) ∧
     (mayRetrain s ch = false → exec (.channelGap ch) s = .next s ∧ exec (.makeGap ch) s = .next s) ∧
     (v.stepPend = true → v.retrain = false → v.making = false → mayRetrain s ch = true → ∃ t, exec (.makeGap ch) s = .next t ∧
       t.chans = tset {} s.chans ch { v with making := true, stepUs := s.nowUs } ∧ t.cmds = s.cmds) ∧
     (∀ rd wr, v.retrain = true → v.full = false → quickEarly s v = false →
       (103 ≤ min rd wr → v.target < v.rate → ∃ t, exec (.quickRetrainVerify ch rd wr) s = .next t ∧
         (getChan t ch).rate = v.target ∧ (getChan t ch).retrain = false ∧ (getChan t ch).stepPend = false ∧
         (getChan t ch).quick = satAdd 8 v.quick 1 ∧ (getChan t ch).stepdowns = satAdd 8 v.stepdowns 1 ∧
         (getChan t ch).zq = satAdd 16 v.zq 8 ∧ (getChan t ch).lastQuick = some s.nowUs ∧
         (getChan t ch).presets = v.presets.drop 1 ∧ t.dies = s.dies) ∧
       (103 ≤ min rd wr → v.target = v.rate → ∃ t, exec (.quickRetrainVerify ch rd wr) s = .next t ∧
         t.chans = tset {} (tset {} s.chans ch { v with
             quick := satAdd 8 v.quick 1, lastQuick := some s.nowUs, zq := satAdd 16 v.zq 8 }) ch { v with
           quick := satAdd 8 v.quick 1, lastQuick := some s.nowUs, zq := satAdd 16 v.zq 8, retrain := false
           rdStart := rd, wrStart := wr } ∧ t.dies = s.dies) ∧
       (min rd wr < 103 → mayRetrain s ch = false → exec (.quickRetrainVerify ch rd wr) s = .next { s with
         chans := tset {} s.chans ch { v with
           quick := satAdd 8 v.quick 1, lastQuick := some s.nowUs, zq := satAdd 16 v.zq 8, fails := satAdd 8 v.fails 1
           stepUs := s.nowUs, retrain := false, stepPend := false } }) ∧
       (min rd wr < 103 → mayRetrain s ch = true → v.presets = [v.target] → v.target ≠ v.rate →
         ∃ t, exec (.quickRetrainVerify ch rd wr) s = .next t ∧ (getChan t ch).rate = v.rate ∧
           (getChan t ch).retrain = true ∧ (getChan t ch).full = true ∧ (getChan t ch).presets = [] ∧
           (getChan t ch).target = (stepsBelow s v.rate).headD v.rate ∧ t.dies = s.dies) ∧
       (∀ p l, min rd wr < 103 → mayRetrain s ch = true → v.presets = [v.target] ++ p :: l → v.target ≠ v.rate →
         ∃ t, exec (.quickRetrainVerify ch rd wr) s = .next t ∧ (getChan t ch).rate = v.rate ∧
           (getChan t ch).retrain = false ∧ (getChan t ch).stepPend = true ∧ (getChan t ch).target = p ∧
           (getChan t ch).fails = satAdd 8 v.fails 1 ∧ t.dies = s.dies)) ∧
     (∀ rd wr, v.retrain = true → v.full = true → 103 ≤ min rd wr →
       ∃ t, exec (.fullTrainingEnd ch rd wr) s = .next t ∧ (getChan t ch).rate = v.target ∧
         (getChan t ch).retrain = false ∧ (getChan t ch).full = false ∧ (getChan t ch).stepPend = false ∧
         (getChan t ch).presets = (stepsBelow s v.target).take 2 ∧ t.dies = s.dies) ∧
     (∀ rd wr r l, v.retrain = true → v.full = true → min rd wr < 103 → stepsBelow s v.target = r :: l →
       exec (.fullTrainingEnd ch rd wr) s = .next { s with
         chans := tset {} s.chans ch { v with fails := satAdd 8 v.fails 1, target := r } }) ∧
     (∀ rd wr, v.retrain = true → v.full = true → min rd wr < 103 → stepsBelow s v.target = [] →
       ∃ t, exec (.fullTrainingEnd ch rd wr) s = .next t ∧ (getChan t ch).state = 3 ∧ (getChan t ch).rate = 0) ∧
     (∀ d, d < 8 → (∀ j, j < 4 → (getChan s (4 * d + j)).state = 3) → s.pm.ps < 3 → bitOf s.pm.domChg d = true →
       exec (.channelDomainOff d) s = .next { s with pm := { s.pm with domChg := clrBit s.pm.domChg d } }))

/-! ### Admin commands (R98 to R101, R110, R119, R124 to R129, R134 to R141, R158, R189 to R199, R415 to R417) -/

/-- R104, R105, R116: what every admin command begins and ends with: the admin queue's head moves past its entry, and
one completion entry with its status and results waits on completion queue 0, nothing else touched. R128, R129,
R134, R158: an Abort of a staged command ends it with Command Abort Requested; an Asynchronous Event Request is
held; Keep Alive completes. R101, R126: a deletion whose commands have ended removes its queue and completes; a
thaw whose commands have ended unfreezes its queue and answers with the head of the freeze. -/
def Obligations.AdminCommandsBeginAndEnd : Prop :=
  ((∀ (s : State) (c : Nat), (getSq s (qk c 0)).size ≠ 0 →
     let q := getSq s (qk c 0)
     let h := (q.head + 1) % q.size
     adminFetch s c = { s with
       sqs := tset {} s.sqs (qk c 0) { q with head := h, tail := if q.tail = q.head then h else q.tail }
       arb := { s.arb with adminRr := c } }) ∧
   (∀ (s : State) (c cid d0 d1 : Nat) (st : Status) (data : List Fld),
     let v := getCq s (qk c 0)
     adone s c cid st d0 d1 data = { s with cqs := tset {} s.cqs (qk c 0) { v with waiting := v.waiting ++
       [{ cid := cid, sq := 0, sqhd := (getSq s (qk c 0)).head, status := st, dnr := dnrOf st
          dw0 := d0, dw1 := d1, data := data }] } })) ∧
  (∀ (s : State) (c cid : Nat), adminServed s c = true →
     let f := adminFetch s c
     (∀ sqid acid io l, s.boot.maquette = false → abortsOut s c < 8 → sqid ≠ 0 → c < 128 → sqid < 65536 → findCmd s (qk c sqid) acid = none →
       (getSq f (qk c sqid)).live = true → (getSq f (qk c sqid)).staged = io :: l → io.cid = acid →
       ∃ t, exec (.abort c cid sqid acid) s = .next t ∧ CqeWaits t c sqid acid .abortRequested ∧
         CqeWaits t c 0 cid .success ∧ (getSq t (qk c sqid)).staged = l ∧ t.cmds = s.cmds ∧
         t.zones = s.zones ∧ t.sectors = s.sectors ∧ guarded t = guarded s) ∧
     ((getCtrl s c).aers.length < 8 → (getCtrl s c).evs = [] →
       exec (.asynchronousEventRequest c cid) s = .next { f with
         ctrls := tset {} s.ctrls c { getCtrl s c with aers := (getCtrl s c).aers ++ [cid] } }) ∧
     exec (.keepAlive c cid) s = .next (adone f c cid .success)) ∧
  ((∀ (s : State) (c qid cid : Nat),
     let q := getSq s (qk c qid)
     q.del = some cid → startedOf s (qk c qid) = [] → q.inflight = 0 → q.frz = none → q.thaw = none →
     exec (.deleteSqDrainComplete c qid) s = .next (adone { s with sqs := tset {} s.sqs (qk c qid) {} } c cid .success)) ∧
   (∀ (s : State) (c sqid cid : Nat) (f : Frz),
     let k := qk c sqid
     let q := getSq s k
     c < 128 → sqid < 65536 → q.live = true → q.thaw = some cid → q.frz = some f → f.held = none → f.logged = true →
     startedOf s k = [] → q.inflight = 0 → q.del = none →
     exec (.queueThawResume c sqid) s = .next (adone { s with
       ctrls := tset {} s.ctrls c { getCtrl s c with frzGen := (getCtrl s c).frzGen + 1 }
       sqs := tset {} s.sqs k { q with frz := none, thaw := none } } c cid .success f.head)) ∧
   (∀ (s : State) (c cid sqid : Nat), adminServed s c = true → s.boot.maquette = false →
     let f := adminFetch s c
     let q := getSq f (qk c sqid)
     sqid ≠ 0 → q.live = true → q.frz.isSome = true → q.thaw = none →
     exec (.queueThaw c cid sqid) s = .next { f with sqs := tset {} f.sqs (qk c sqid) { q with thaw := some cid } }))

/-- R98, R100, R101, R110: queues are created within the function's allotment and deleted, a submission queue after
its commands have ended; the allotment and the Urgent class are set by their features. Not of the rules: the values
of the generic feature commands are DEDUCED (notes/assumptions/20.md). -/
def Obligations.QueuesManaged : Prop :=
  ∀ (s : State) (c cid qid : Nat), adminServed s c = true → s.boot.romRec = false → s.boot.maquette = false →
    let f := adminFetch s c
    let k := qk c qid
    (∀ qsize iv ien, qid ≠ 0 → qid ≤ (getCtrl s c).allot → (getCq s k).live = false → qsize ≠ 0 → qsize ≤ 65535 →
      iv < (nicheCfg s (myNiche s c)).vecs →
      exec (.createIoCq c cid qid qsize true ien iv) s = .next (adone { f with
        cqs := tset {} s.cqs k { live := true, size := qsize + 1, iv := iv, ien := ien } } c cid .success)) ∧
    (∀ qsize cqid, qid ≠ 0 → qid ≤ (getCtrl s c).allot → (getSq f k).live = false → qsize ≠ 0 → qsize ≤ 65535 →
      cqid ≠ 0 → cqid ≤ (getCtrl s c).allot → (getCq s (qk c cqid)).live = true →
      exec (.createIoSq c cid qid qsize cqid true) s = .next (adone { f with
        sqs := tset {} f.sqs k { live := true, size := qsize + 1, cqid := cqid } } c cid .success)) ∧
    (qid ≠ 0 → (getCq s k).live = true → (∀ kv ∈ f.sqs, kv.2.cqid ≠ qid) →
      exec (.deleteIoCq c cid qid) s = .next (adone { f with cqs := tset {} s.cqs k {} } c cid .success)) ∧
    (qid ≠ 0 → (getSq f k).live = true → (getSq f k).del = none → (getSq f k).comm = none → NoFinishWaits s →
      ∃ t, exec (.deleteIoSq c cid qid) s = .next t ∧ (getSq t k).del = some cid ∧ (getSq t k).staged = [] ∧
        t.zones = s.zones ∧ t.sectors = s.sectors ∧ guarded t = guarded s) ∧
    (∀ nsqr ncqr,
      let left := (nicheCfg s (myNiche s c)).qcount -
        sumBy (fun d => (getCtrl s d).allot) ((ctrlsOf s (myNiche s c)).filter (fun d => d != c))
      let m := min (min (nsqr + 1) (ncqr + 1)) left
      left ≠ 0 → (∀ kv ∈ f.sqs, kv.1 / 65536 = c → kv.1 % 65536 = 0) → (∀ kv ∈ s.cqs, kv.1 / 65536 = c → kv.1 % 65536 = 0) →
      exec (.setFeaturesNumberOfQueues c cid nsqr ncqr) s = .next (adone { f with
        ctrls := tset {} s.ctrls c { getCtrl s c with allot := m } } c cid .success ((m - 1) + (m - 1) * 65536))) ∧
    (∀ cls, qid ≠ 0 → cls < 3 → (cls = 1 → (nicheCfg s (myNiche s c)).urgentOk = true) →
      (getSq f k).live = true → (getSq f k).comm = none →
      exec (.setFeaturesUrgentClassSqMapping c cid qid cls 0) s = .next (adone { f with
        sqs := tset {} f.sqs k { getSq f k with cls := cls } } c cid .success))

/-- R119, R140, R159, R415 to R417, R434: each feature's set puts its value in force and completes; feature 0xC0
takes 100 to 30,000 ms, 0 for 2,000, from PF0 alone, turns any other value away with Invalid Field and is read back
as it is in force; a power state below the one in force is accepted from PF0 where no commission is live. Not of the
rules: which features a generic Set Features carries is DEDUCED (notes/assumptions/20.md), and the fields of the
standard features are NVMe's, PRESUMED (notes/assumptions/11.md). -/
def Obligations.FeaturesSet : Prop :=
  ∀ (s : State) (c cid : Nat), adminServed s c = true → s.boot.romRec = false →
    let f := adminFetch s c
    (∀ nsid w, exec (.setFeatures c cid 0xA false nsid w) s = .next (adone { f with
      ctrls := tset {} s.ctrls c { getCtrl s c with atomicity := w % 2 } } c cid .success)) ∧
    (∀ nsid w, exec (.setFeatures c cid 8 false nsid w) s = .next (adone { f with
      ctrls := tset {} s.ctrls c { getCtrl s c with coal := w % 65536 } } c cid .success)) ∧
    (∀ w, degraded s = false ∨ w = true →
      exec (.setFeaturesVolatileWriteCache c cid w) s = .next (adone f c cid .success)) ∧
    (degraded s = true → exec (.setFeaturesVolatileWriteCache c cid false) s = .next (adone f c cid .huDegraded)) ∧
    (∀ m, m < 2 ^ 32 → (∀ b, b < 32 → bitOf m b = true → b ∈ [0, 1, 2, 3, 8, 9, 27]) →
      exec (.setFeaturesAsyncEventConfig c cid m) s = .next (adone { f with
        ctrls := tset {} s.ctrls c { getCtrl s c with aec := m } } c cid .success)) ∧
    (∀ en l, isPf0 c = true → l.length ≤ 32 → ctlMet f c 256 = true →
      (∀ e ∈ l, (e.itps = 0 ∧ e.itpt = 0) ∨ ((e.itps = 3 ∨ e.itps = 4) ∧ e.itpt ≠ 0)) →
      exec (.setFeaturesApst c cid false en l) s = .next (adone { ctlServed f c 256 with
        pm := { s.pm with apstOn := en, apst := l } } c cid .success)) ∧
    (∀ v, isPf0 c = true → exec (.setFeaturesNoppme c cid v) s = .next (adone { f with
      pm := { s.pm with noppme := v } } c cid .success)) ∧
    (∀ ms, isPf0 c = true → ms = 0 ∨ (100 ≤ ms ∧ ms ≤ 30000) →
      exec (.setFeaturesThermalGraceTime c cid false ms) s = .next (adone { f with
        thm := { s.thm with graceMs := if ms = 0 then 2000 else ms } } c cid .success)) ∧
    (∀ sv ms, isPf0 c = false ∨ (0 < ms ∧ ms < 100) ∨ 30000 < ms →
      exec (.setFeaturesThermalGraceTime c cid sv ms) s = .next (adone f c cid .invalidField)) ∧
    (∀ nsid w, exec (.getFeatures c cid 0xC0 0 nsid w) s = .next (adone f c cid .success s.thm.graceMs 0 [])) ∧
    (∀ p o, isPf0 c = true → 10 ≤ p → p ≤ 10080 → 0 < o → o ≤ 255 → s.hold.run = false →
      exec (.setFeaturesHoldupTestSchedule c cid false p o false) s = .next (adone { f with
        hold := { s.hold with period := p, first := o } } c cid .success)) ∧
    (∀ ps, isPf0 c = true → s.boot.maquette = false → (ps = 3 ∨ ps = 4) → liveComms s = [] → entryBarred s = false →
      s.pm.entry = .none → s.pm.ps < 3 → s.hold.testing = false → ∃ t,
      exec (.setFeaturesPowerManagement c cid ps 0) s = .next t ∧ t.pm.req = ps ∧ t.pm.back = s.pm.ps ∧
        t.pm.entry = (if ps = 3 then .drain3 else .drain4) ∧ CqeWaits t c 0 cid .success ∧ t.zones = s.zones)

/-- R139, R140, R145, R152: Get Features returns the value in force, Identify the active namespaces of the niche,
and Get Log Page the bytes of the page asked for, each with its data in buffers of its own (R285) and at once where
they are to be had; reading one changes nothing of the media. Not of the rules: the
layouts of standard data are NVMe's, PRESUMED (notes/assumptions/11.md), and what an unnamed page answers is the
model's choice (notes/assumptions/22.md). -/
def Obligations.ReportsReturn : Prop :=
  ∀ (s : State) (c cid : Nat), adminServed s c = true → s.boot.romRec = false →
    let f := adminFetch s c
    (∀ nsid w, exec (.getFeatures c cid 0xC0 0 nsid w) s = .next (adone f c cid .success s.thm.graceMs 0 [])) ∧
    (∀ nsid w, exec (.getFeatures c cid 0xC2 0 nsid w) s = .next
      (adone f c cid .success (s.hold.period + 65536 * s.hold.first) 0 [])) ∧
    (let ident := fun (cns nsid cntid csi : Nat) (st : Status) (d : List Fld) =>
       (st = .success → ctlMet f c 4096 = true) →
       exec (.identify c cid cns nsid cntid csi) s = .next
         (adone (if st = .success then ctlServed f c 4096 else f) c cid st 0 0 (d.filter (fun x => x.v != 0)))
     let n := myNiche f c
     ∀ nsid cntid csi,
      ident 1 nsid cntid csi .success (idController f c) ∧
      ident 2 nsid cntid csi .success (nsList f n nsid (fun v => v.attached.contains c)) ∧
      ident 0x10 nsid cntid csi .success (nsList f n nsid (fun _ => true)) ∧
      (csi = 0 ∨ csi = 2 → ident 6 nsid cntid csi .success (idCtrlSet csi)) ∧
      ident 7 nsid cntid csi .success
        (nsList f n nsid (fun v => v.attached.contains c && (if v.attr.zoned then 2 else 0) == csi)) ∧
      ident 0x13 nsid 0 csi .success (ctrlList ((nicheCtrls f n).filter (fun _ => true))) ∧
      (fnExists f cntid = true → binds f n cntid = false →
        ident 0x1C nsid cntid csi .nicheBoundary [] ∧
        (cntid ≠ 0 → ident 0x12 nsid cntid csi .nicheBoundary [] ∧ ident 0x13 nsid cntid csi .nicheBoundary [])) ∧
      (binds f n cntid = true → ident 0x1C nsid cntid csi .success [⟨0, 8, 5⟩]) ∧
      (slotOf f n nsid = none → ∀ cns ∈ [0, 3, 5, 8, 0x11], ident cns nsid cntid csi .invalidNsOrFormat []) ∧
      (∀ i, slotOf f n nsid = some i →
        ((getNs f i).attached.contains c = true → ident 0 nsid cntid csi .success (idNamespace f i)) ∧
        ((getNs f i).attached.contains c = true → zonedAt f i = true → ident 5 nsid cntid 2 .success (idZoned f i)) ∧
        ((getNs f i).attached.contains c = false → ident 0 nsid cntid csi .success []) ∧
        ident 0x11 nsid cntid csi .success (idNamespace f i) ∧
        ident 0x12 nsid 0 csi .success (ctrlList ((getNs f i).attached.filter (fun _ => true)))) ∧
      (∀ cns, cns ∉ [0, 1, 2, 3, 5, 6, 7, 8, 0x10, 0x11, 0x12, 0x13, 0x1C] → ident cns nsid cntid csi .invalidField [])) ∧
    (∀ r : LogReq,
      let g := ctlServed f c r.len
      let page := fun (d : List Fld) => ctlMet f c r.len = true → exec (.getLogPage c cid r) s = .next
        (let u := adone g c cid .success 0 0 (window d r.lpo r.len)
         if r.rae = true then u else logRead u c r)
      let refused := fun (st : Status) => exec (.getLogPage c cid r) s = .next (adone f c cid st)
      let n := myNiche f c
      (r.lid = 1 → page (errorLog g c)) ∧
      (r.lid = 2 → r.nsid = 0 ∨ r.nsid = 0xFFFFFFFF → page (smartLog g c n (getNch g n).hostRead (getNch g n).hostWritten)) ∧
      (r.lid = 3 → page (fwSlotLog g)) ∧
      (r.lid = 4 → page (changedNsLog g c)) ∧
      (r.lid = 5 → page (effectsLog g c)) ∧
      (r.lid = 7 → isPf0 c = false → refused .invalidLog) ∧
      (r.lid = 0x80 → page (sanitizeLog g n)) ∧
      (r.lid = 0xC0 → r.lsi = 0xFFFF → page (patinaLog g (if isPf0 c then 0xFFFF else n))) ∧
      (r.lid = 0xC1 → page (commissionLog g n)) ∧
      (r.lid = 0xC2 → page (freezeLog g c)) ∧
      (r.lid = 0xC3 → page (thermalLog g)) ∧
      (r.lid = 0xC4 → page (federationLog g)) ∧
      (r.lid = 0xC5 → r.lsi = 0xFFFF → page (nicheLog g n)) ∧
      (r.lid ∈ [0xC0, 0xC5] → r.lsi ≠ 0xFFFF → isPf0 c = false → r.lsi ≠ n → refused .nicheBoundary) ∧
      (∀ i, slotOf f n r.nsid = some i →
        (r.lid = 0xBF → zonedAt f i = true → page (changedZoneLog g i)) ∧
        (r.lid = 0xBF → zonedAt f i = false → refused .invalidField)) ∧
      (r.lid ∈ [0xBF, 0xC6] → r.nsid ≠ 0xFFFFFFFF → slotOf f n r.nsid = none → refused .invalidNsOrFormat) ∧
      (r.lid ∉ [1, 2, 3, 4, 5, 7, 0x80, 0xBF, 0xC0, 0xC1, 0xC2, 0xC3, 0xC4, 0xC5, 0xC6] → refused .invalidLog))

/-- R190, R192, R195 to R199, R203: an Open that passes its checks makes a live commission with the reservation of
R203, a full bucket and its SQs bound, its descriptor read into a buffer of its own (R285); a dry run reports and changes nothing; a Modify puts the new values in force;
a Close removes the entry. Not of the rules: the choice of handle and generation is the model's
(notes/assumptions/21.md). -/
def Obligations.CommissionsManaged : Prop :=
  ∀ (s : State) (c cid : Nat), adminServed s c = true → s.boot.romRec = false → s.boot.maquette = false →
    (nicheCfg s (myNiche s c)).commOk = true →
    let f := adminFetch s c
    let n := myNiche s c
    (∀ (d : CommDesc) (i idx : Nat), openBarred s = false → ctlMet f c 128 = true →
      let g := ctlServed f c 128
      rangesOk d.rate d.burst d.prio d.zconc d.rdecl = true → d.rsv = 0 → d.nsq ≠ 0 → d.nsq ≤ 16 →
      d.sqs.length = d.nsq → slotOf s n d.nsid = some i → zonedAt s i = true →
      (∀ x ∈ d.sqs, binds s n x.2 = true ∧ portOf x.2 = portOf ((d.sqs.headD (0, 0)).2)) →
      (∀ k ∈ descKeys d, bindable g k = true) → (descKeys d).eraseDups = descKeys d →
      freeIndex g n = some idx → (liveOf g n).length < (nicheCfg s n).maxComm →
      (g.comms.filter (fun kv => kv.2.used)).length < 256 →
      zconcOn g i none + d.zconc ≤ (getNs s i).attr.maxOpen →
      admitCheck g (askCharge g n (portOf ((d.sqs.headD (0, 0)).2)) i d.rate d.rdecl d.burst d.zconc) d.burst d.zconc none = none →
      let h := tget 0 s.cms.hgen (n * 64 + idx) * 4096 + n * 64 + idx
      let r := ceilDiv (d.rate * (s.arm.cfg.geom.tProg + 1000) + d.burst * 4096 + d.zconc * 7864320) 4096 * 4096
      exec (.commissionOpen c cid true 0 d) s = .next (adone g c cid .success 0xFFFF (r / 1024)) ∧
      ∃ t, exec (.commissionOpen c cid false 0 d) s = .next t ∧ CqeWaits t c 0 cid .success ∧
        (getComm t h).used = true ∧ (getComm t h).st = .live ∧ (getComm t h).rate = d.rate ∧
        (getComm t h).burst = d.burst ∧ (getComm t h).resv = r ∧ (getComm t h).tokens = d.burst * 4096 ∧
        (getComm t h).slot = i ∧ (∀ k ∈ descKeys d, (getSq t k).comm = some h) ∧
        t.zones = s.zones ∧ t.sectors = s.sectors ∧ guarded t = guarded s) ∧
    (∀ h, handleNiche h = n → (getComm s h).used = true → ∃ t, exec (.commissionClose c cid h) s = .next t ∧
      CqeWaits t c 0 cid .success ∧ t.comms = tset {} s.comms h {} ∧ t.zones = s.zones ∧ t.pool = s.pool) ∧
    (∀ h rate rdecl burst prio zconc, handleNiche h = n → commLive (getComm s h) = true →
      rangesOk rate burst prio zconc rdecl = true →
      zconcOn s (getComm s h).slot (some h) + zconc ≤ (getNs s (getComm s h).slot).attr.maxOpen →
      admitCheck f (askCharge f n (getComm s h).port (getComm s h).slot rate rdecl burst zconc) burst zconc
        (some (h, fullCharge f h)) = none →
      ∃ t, exec (.commissionModify c cid h false 0 rate rdecl burst prio zconc) s = .next t ∧
        CqeWaits t c 0 cid .success ∧ (getComm t h).rate = rate ∧ (getComm t h).burst = burst ∧
        (getComm t h).prio = prio ∧ (getComm t h).zconc = zconc ∧
        (getComm t h).tokens = min (getComm s h).tokens (burst * 4096) ∧ t.zones = s.zones ∧ t.sqs = f.sqs)

/-! ### Namespaces, Format, Sanitize (R53, R149 to R154, R310) -/

/-- R53, R149 to R152, R310: Create gives the lowest slot that fits a namespace with its slot's attributes and keys
of their own; Attachment attaches a controller; Format sets the format and Delete frees the slot, and neither leaves a
mapped LBA, whatever of it is started (R151). A command with data has buffers for it (R285), and keys are drawn while
the source is not restarting (R305). Not of the rules: the order of the checks and one step for the whole
work are the model's choice (notes/assumptions/23.md). -/
def Obligations.NamespacesManaged : Prop :=
  ∀ (s : State) (c cid : Nat), adminServed s c = true → s.boot.maquette = false → sanStatus s c = none →
    let n := myNiche s c
    (∀ csi flbas i fmt, (csi = 0 ∨ csi = 2) → createFmt s (slotCfg s i) (flbas % 16) = some fmt →
      ((freeSlots s n csi).filter (fun j => (createFmt s (slotCfg s j) (flbas % 16)).isSome)).head? = some i →
      (keySlots (slotCfg s i) = [] ∨ canGenerate s = true) → sourceRestarts s (freeSlots s n csi) = false →
      ctlMet (adminFetch s c) c 4096 = true →
      ∃ t, exec (.namespaceManagementCreate c cid csi flbas 0 0 0) s = .next t ∧ CqeWaits t c 0 cid .success ∧
        (getNs t i).live = true ∧ (getNs t i).attr = slotCfg s i ∧ (getNs t i).fmt = fmt ∧
        (getNs t i).attached = [] ∧ (∀ k ∈ keySlots (slotCfg s i), k.1 < 128 → (getKey t k.1).st = 1) ∧
        t.plinth.jrnl = s.plinth.jrnl + 1 ∧ t.sectors = s.sectors ∧ t.cmds = s.cmds) ∧
    (∀ nsid i, slotOf s n nsid = some i → nsid ≠ 0xFFFFFFFF → liveOn s i = [] →
      ∃ t, exec (.namespaceManagementDelete c cid nsid) s = .next t ∧ CqeWaits t c 0 cid .success ∧
        (∀ l, l < 281474976710656 → tget ({} : Sector) t.sectors (lk i l) = {}) ∧
        (∀ kv ∈ t.zones, kv.1 / 131072 = i → kv.2 = { ({} : Zone) with gen := kv.2.gen }) ∧
        (nsBusy s i = false → t.cmds = s.cmds ∧ nonvolatile t = nonvolatile s ∧
          (twf {} s.ns = true → (getNs t i).live = false))) ∧
    (∀ nsid i d, slotOf s n nsid = some i → binds s n d = true → attachable s i = true →
      (getNs s i).attached.contains d = false → ctlMet (adminFetch s c) c 4096 = true →
      ∃ t, exec (.namespaceAttachment c cid nsid true [d]) s = .next t ∧ CqeWaits t c 0 cid .success ∧
        t.ns = tset {} s.ns i { getNs s i with attached := (getNs s i).attached ++ [d] } ∧
        t.zones = s.zones ∧ t.sectors = s.sectors ∧ guarded t = guarded s) ∧
    (∀ nsid i lbaf, slotOf s n nsid = some i → nsid ≠ 0xFFFFFFFF → fmtOk s (slotCfg s i).lbafMask (lbaf % 16) = true →
      liveOn s i = [] → (getNs s i).live = true →
      ∃ t, exec (.formatNvm c cid nsid lbaf 0 0) s = .next t ∧ CqeWaits t c 0 cid .success ∧
        (∀ l, l < 281474976710656 → tget ({} : Sector) t.sectors (lk i l) = {}) ∧
        (nsBusy s i = false → (getNs t i).live = true ∧ (getNs t i).fmt = lbaf % 16 ∧ (getNs t i).pi = 0 ∧
          (getNs t i).ext = bitOf lbaf 4 ∧ t.cmds = s.cmds ∧ guarded t = guarded s))

/-- R153, R154, R280, R312: a block or crypto erase of a niche begins with its counters cleared and no mapped LBA left; it
ends with the niche's bit, and a block erase with a read-only niche writable again where none of its ranks is narrow;
Exit Failure Mode lets a failed niche go. Not of the rules: the order of the checks and
when the work is done are the model's choice (notes/assumptions/23.md). -/
def Obligations.SanitizeRuns : Prop :=
  (∀ (s : State) (c cid : Nat) (i : Instr), adminServed s c = true → s.boot.maquette = false → s.boot.romRec = false →
    let n := myNiche s c
    liveOf s n = [] → (getNch s n).san = .none ∨ (getNch s n).san = .failed →
    (i = .sanitizeBlockErase c cid false ∨ (i = .sanitizeCryptoErase c cid false ∧ canGenerate s = true ∧
      sourceRestarts s ((sanNiches s c).flatMap (slotsOf s)) = false)) →
    ∃ t, exec i s = .next t ∧ CqeWaits t c 0 cid .success ∧
      (getNch t n).san = (if i = .sanitizeBlockErase c cid false then .block else .crypto) ∧
      ((∀ kv ∈ s.cmds, kv.2.phase ≠ .started) →
        (twf {} s.niches = true → (getNch t n).hostWritten = 0 ∧ (getNch t n).unrecovered = 0) ∧
        (∀ j l, j ∈ nsOfNiche s n → l < 281474976710656 → tget ({} : Sector) t.sectors (lk j l) = {}) ∧
        t.cmds = s.cmds ∧ nonvolatile t = nonvolatile s)) ∧
  (∀ (s : State) (c cid : Nat), adminServed s c = true → s.boot.maquette = false → s.boot.romRec = false →
    let n := myNiche s c
    liveOf s n = [] → (getNch s n).san = .failed →
    exec (.sanitizeExitFailureMode c cid false) s = .next (adone { adminFetch s c with
      niches := tset {} s.niches n { getNch s n with san := .none } } c cid .success)) ∧
  (∀ (s : State) (n : Nat), ((getNch s n).san = .crypto ∨ ((getNch s n).san = .block ∧ rowsLeft s n = false)) →
    ∃ t, exec (.sanitizeComplete n) s = .next t ∧ (getNch t n).san = .none ∧ (getNch t n).sanDone = 1 ∧
      (getNch t n).istat = setBit (getNch s n).istat 7 ∧
      (getNch t n).readOnly = ((getNch s n).readOnly && ((getNch s n).san == .crypto || narrowSet s n)) ∧ t.zones = s.zones ∧ t.sectors = s.sectors)

/-! ### Firmware and Armature staging (R57 to R64, R133, R380 to R383) -/

/-- R133, R380, R381, R383: an image is downloaded in 4 KiB pieces, each with buffers for its data (R285), and checked; a commit of a slot whose checks pass makes it
active, one whose slot cannot be read is turned away; an activation without reset waits for started commands and then runs the slot, or after 500 ms is turned
away. Not of the rules: the order of the checks is the model's choice (notes/assumptions/12.md,
notes/assumptions/19.md). -/
def Obligations.FirmwareManaged : Prop :=
  (∀ (s : State) (c cid : Nat), adminServed s c = true → isPf0 c = true → sanStatus s c = none →
    let f := adminFetch s c
    (∀ offset data, offset % 4096 = 0 → data.length % 4096 = 0 → data ≠ [] → offset + data.length ≤ 4194304 →
      ctlMet f c data.length = true →
      let dl := blkWrite data.length s.boot.dl (offset / 256) data
      exec (.firmwareImageDownload c cid offset data) s = .next (adone { ctlServed f c data.length with
        boot := { s.boot with
          dl := dl, dlChk := some (fwCheck (blkByte dl) s.board.fuses s.board.fuses.fwFloor) } } c cid .success)) ∧
    (∀ k rd, (k = 1 ∨ k = 2) → commitCheck s (fwImg s k) rd = none →
      exec (.firmwareCommit c cid 2 k rd) s = .next (adone { f with boot := setActive s.boot k } c cid .success)) ∧
    (∀ k, (k = 1 ∨ k = 2) →
      exec (.firmwareCommit c cid 2 k true) s = .next (adone f c cid .fwImage)) ∧
    (∀ k rd, (k = 1 ∨ k = 2) → liveComms s = [] → s.boot.activation = none → commitCheck s (fwImg s k) rd = none →
      ∃ t, exec (.firmwareActivateWithoutReset c cid k rd) s = .next t ∧ t.boot.activation = some (c, cid, k) ∧
        t.boot.fwSlot = s.boot.fwSlot ∧ t.cmds = s.cmds ∧ t.zones = s.zones ∧ guarded t = guarded s)) ∧
  (∀ (s : State) (c cid k : Nat), s.boot.activation = some (c, cid, k) →
    (anyStarted s = false → ∃ t, exec .firmwareActivationDrained s = .next t ∧ t.boot.activation = none ∧
      t.boot.fwSlot = k ∧ t.boot.fwFallback = false ∧ CqeWaits t c 0 cid .success ∧ t.boot.flash = s.boot.flash ∧
      t.zones = s.zones) ∧
    (anyStarted s = true → exec .firmwareActivationTimeout s = .next (adone { s with
      boot := { s.boot with activation := none } } c cid .fwNeedsReset)))

/-- R57 to R64, R66, R234: staging writes bytes into an idle slot, erasing it first at offset 0; Verify notes what it
finds in the slot's registers; patches that all pass take effect together, and Clear Patches puts the loaded
structure back in force; a command with data has buffers for it (R285). Not of the rules: which field a check reports and the order of checks are the model's
choice (notes/assumptions/12.md). -/
def Obligations.ArmatureStaged : Prop :=
  ∀ (s : State) (c cid : Nat), adminServed s c = true → isPf0 c = true →
    let f := adminFetch s c
    (∀ slot count data, slot ≤ 1 → count % 256 = 0 → 256 ≤ count → count ≤ 65536 →
      (s.boot.maquette = true ∨ s.arm.src ≠ slot) → s.arm.stage = none →
      ctlMet f c count = true →
      exec (.armatureStageWrite c cid slot 0 count data false) s = .next (adone { ctlServed f c count with
        arm := { s.arm with stage := some (slot, portOf c) }
        boot := { s.boot with flash := blkWrite count (blkErase s.boot.flash (armBase slot / 256) (armBase slot / 256 + 1023)) (armBase slot / 256) (data.take count) } }
        c cid .success)) ∧
    (∀ slot rd, slot ≤ 1 → s.arm.stage = none →
      let v := validateArm (armImg s slot) s.board.fuses s.board.straps s.board.fuses.armEpoch (runVec s) rd
      v.code ≠ 0 → ∃ t, exec (.armatureStageVerify c cid slot rd) s = .next t ∧ CqeWaits t c 0 cid .success ∧
        (slot = 0 → t.arm.errA = v ∧ t.arm.errB = s.arm.errB) ∧ (slot = 1 → t.arm.errB = v ∧ t.arm.errA = s.arm.errA) ∧
        t.arm.cfg = s.arm.cfg ∧ guarded t = guarded s) ∧
    (∀ l : List PatchRec, s.boot.maquette = false → l ≠ [] → l.length ≤ 64 → badPatch s.board.fuses s.arm.cfg 0 l = none →
      ctlMet f c (8 * l.length) = true →
      ∃ t, exec (.armatureStagePatch c cid l) s = .next t ∧ CqeWaits t c 0 cid .success ∧
        t.arm.cfg = l.foldl (patchOne s.board.fuses) s.arm.cfg ∧ t.arm.base = s.arm.base ∧
        t.dies = policyDies s (l.foldl (patchOne s.board.fuses) s.arm.cfg).urgPolicy ∧
        t.arm.patchCnt = satAdd 16 s.arm.patchCnt l.length ∧ t.pat.events = s.pat.events + l.length ∧
        guarded t = guarded s) ∧
    (s.boot.maquette = false → ∃ t, exec (.armatureStageClearPatches c cid) s = .next t ∧ CqeWaits t c 0 cid .success ∧
      t.arm.cfg = s.arm.base ∧ t.arm.patched = [] ∧ t.arm.patchCnt = s.arm.patchCnt ∧ guarded t = guarded s)

/-! ### Keys and entropy (R301 to R317, R329) -/

/-- R302 to R317, R329: a Key Import that passes its checks fills its slot with a key never held before, saves the
table and its shadow, and completes, and one whose namespace is busy waits for its range-lock entry; reseeds that are
due count while the source and the DRBG run, and a mask generator's after 65,536 blocks; a failed health test restarts
the source, and the third in a row fails it; a start-up test that passes puts it in service; the transport key of
the selected niche is shown. Not of the rules: fresh serial numbers for keys are the model's choice
(notes/assumptions/8.md, notes/assumptions/24.md). -/
def Obligations.KeysAndEntropy : Prop :=
  (∀ (s : State) (c cid action slot i ex ey wrapped v : Nat),
    adminServed s c = true → s.boot.maquette = false → action ≤ 1 → (action = 1 → wrapped < 2 ^ 320) →
    bitOf (nicheCfg s (myNiche s c)).keyMask slot = true → namedBy s action slot = some i → nsBusy s i = false →
    lockAvail s (myNiche s c) = true → holdsData s i = false → s.board.fuses.lifecycle ≠ 7 → onCurve ex ey = true →
    importUnwrap (importKey s (myNiche s c) slot ex ey) action wrapped = some v →
    (action = 0 → v % 2 ^ 256 ≠ v >>> 256) → ctlMet (adminFetch s c) c 168 = true →
    ∃ t, exec (.keyImport c cid action slot 0 ex ey wrapped) s = .next t ∧ CqeWaits t c 0 cid .success ∧
      (getKey t slot).st = 2 ∧ (getKey t slot).ser = s.cipher.nextSer ∧
      (getKey t slot).share0 ^^^ (getKey t slot).share1 = expandKey (action == 1) v ∧
      t.cipher.nextSer = s.cipher.nextSer + 1 ∧ (∀ j, j ≠ slot → getKey t j = getKey s j) ∧
      t.cipher.shadow = t.cipher.table ∧ t.cipher.tableSeq = s.cipher.tableSeq + 1 ∧
      t.cipher.imports = satAdd 8 s.cipher.imports 1 ∧ nonvolatile t = nonvolatile s ∧ t.zones = s.zones) ∧
  (∀ (s : State) (c cid action slot i ex ey wrapped : Nat),
    adminServed s c = true → s.boot.maquette = false → action ≤ 1 → (action = 1 → wrapped < 2 ^ 320) →
    bitOf (nicheCfg s (myNiche s c)).keyMask slot = true → namedBy s action slot = some i →
    nsBusy s i = true ∨ lockAvail s (myNiche s c) = false → ctlMet (adminFetch s c) c 168 = true →
    let g := ctlServed (adminFetch s c) c 168
    exec (.keyImport c cid action slot 0 ex ey wrapped) s = .next { g with
      arb := { g.arb with nextCmd := g.arb.nextCmd + 1 }
      cipher := { s.cipher with imps := s.cipher.imps ++
        [⟨s.arb.nextCmd, c, cid, action, slot, 0, ex, ey, wrapped⟩] } }) ∧
  (∀ s : State,
    (s.cipher.drbg = 1 → s.cipher.seedSrc = false → reseedDue s = true → s.cipher.trng = 1 → ∃ t, exec .drbgReseed s = .next t ∧
      t.cipher.reseeds = satAdd 16 s.cipher.reseeds 1 ∧ t.cipher.reseedUs = s.nowUs ∧
      t.cipher.rng = drbgReseed s.cipher.rng (entropy384 s) ∧ guarded t = guarded s ∧ t.zones = s.zones) ∧
    (s.cipher.drbg = 1 → s.cipher.seedSrc = false → reseedDue s = true → s.cipher.trng = 3 → ∃ t, exec .drbgReseed s = .next t ∧
      t.cipher = { s.cipher with drbg := 2 } ∧ t.glb.istat = setBit s.glb.istat 7 ∧ t.pat.events = s.pat.events + 1) ∧
    (reseedDue s = false ∨ s.cipher.drbg ≠ 1 ∨ s.cipher.seedSrc = true ∨ s.cipher.trng = 2 →
      exec .drbgReseed s = .next s) ∧
    (∀ e, e < 6 → s.cipher.drbg = 1 → s.pm.domXcr = true → 65536 ≤ (s.cipher.engs.getD e {}).blocks → twf {} s.cipher.keys = true →
      ∃ t, exec (.maskGeneratorReseed e) s = .next t ∧ t.cipher.maskSeeds = satAdd 16 s.cipher.maskSeeds 1 ∧
        (∀ i, (getKey t i).share0 ^^^ (getKey t i).share1 = (getKey s i).share0 ^^^ (getKey s i).share1 ∧
          (getKey t i).st = (getKey s i).st ∧ (getKey t i).ser = (getKey s i).ser) ∧
        t.cipher.table = s.cipher.table ∧ t.zones = s.zones ∧ t.sectors = s.sectors) ∧
    (running s = true → s.cipher.trng ≠ 3 → s.cipher.trngFails < 2 → exec (.trngHealthTestFailure true) s = .next { s with
      cipher := { s.cipher with
        trng := 2, rct := satAdd 8 s.cipher.rct 1, trngFails := s.cipher.trngFails + 1, rawNo := s.cipher.rawNo + 2
        sourceRestarts := satAdd 8 s.cipher.sourceRestarts 1 } }) ∧
    (running s = true → s.cipher.trng ≠ 3 → 2 ≤ s.cipher.trngFails → ∃ t, exec (.trngHealthTestFailure false) s = .next t ∧
      t.cipher.trng = 3 ∧ t.cipher.sourceRestarts = s.cipher.sourceRestarts ∧ bitOf t.glb.istat 7 = true ∧ t.cipher.apt = satAdd 8 s.cipher.apt 1 ∧ t.pat.events = s.pat.events + 1) ∧
    (running s = true → s.cipher.trng ≠ 1 → s.cipher.trng ≠ 3 → exec .sourceStartUpTestPass s = .next { s with
      cipher := { s.cipher with trng := 1, trngFails := 0, rawNo := s.cipher.rawNo + 2 } }) ∧
    (s.cipher.tkBusy = true → nicheValid s s.cipher.tkSel = true → exec .transportKeyReady s = .next { s with
      cipher := { s.cipher with tkBusy := false, tkX := (transportPoint s s.cipher.tkSel).1, tkY := (transportPoint s s.cipher.tkSel).2 } }) ∧
    (s.cipher.tkBusy = true → nicheValid s s.cipher.tkSel = false → exec .transportKeyReady s = .next { s with
      cipher := { s.cipher with tkBusy := false, tkX := 0, tkY := 0 } }))

/-! ### Federation (R359 to R374) -/

/-- R362 to R366, R368, R369, R372, R373: a locked member follows a good marker in its window, by rate adjustment or by a
step above 1 µs, and forwards the frame; a corrupted one leaves corrupted; a miss counts, frames go on, and the fourth
unlocks; a root sends its two frames of a whole millisecond; take marker and Set Time wait for
their frame. Not of the rules: how a frame is timed and numbered is DEDUCED (notes/assumptions/31.md). -/
def Obligations.FederationKeepsTime : Prop :=
  (∀ (s : State) (f : FedFrame) (edge : Nat), s.fed.unit = true → fedMode s = 1 → s.fed.locked = true →
    s.fed.ovf = false → goodFrame f = true → f.tkv = false → 2 * f.pid + 1 + f.out ≤ 8190 →
    s.boot.maquette = false → expected s ≤ edge + 40 → edge ≤ expected s + 40 →
    let cable := s.arm.cfg.dev.cable
    let tin := f.time + 400 * f.hop + f.cdly + cable
    let d : Int := (tin : Int) - (s.fed.time : Int)
    ∃ t, exec (.federationFrameReceived f edge) s = .next t ∧
      (d.natAbs ≤ 1000 → t.fed.time = s.fed.time ∧ t.fed.adj = d ∧ t.fed.adjUs = 1000 ∧ t.fed.steps = s.fed.steps) ∧
      (1000 < d.natAbs → t.fed.time = tin ∧ t.fed.adj = 0 ∧ t.fed.steps = satAdd 32 s.fed.steps 1) ∧ t.fed.lastEdge = edge ∧ t.fed.missRun = 0 ∧
      t.fed.spacing = (if s.fed.missRun = 0 then edge - s.fed.lastEdge else s.fed.spacing) ∧
      t.fed.id = 2 * f.pid + 1 + f.out ∧ t.fed.locked = true ∧ t.fed.sent.length = 2 ∧
      (∀ g ∈ t.fed.sent, g.hop = f.hop + 1 ∧ g.cdly = f.cdly + cable ∧ g.pid = t.fed.id ∧ g.time = f.time ∧ goodFrame g = true) ∧
      t.zones = s.zones ∧ t.cmds = s.cmds ∧ guarded t = guarded s) ∧
  (∀ (s : State) (f : FedFrame) (edge : Nat), s.fed.unit = true → fedMode s = 1 → s.fed.locked = true →
    s.fed.ovf = false → goodFrame f = false → expected s ≤ edge + 40 → edge ≤ expected s + 40 →
    ∃ t, exec (.federationFrameReceived f edge) s = .next t ∧ t.fed.crcErr = satAdd 32 s.fed.crcErr 1 ∧
      t.fed.time = s.fed.time ∧ t.fed.lastEdge = s.fed.lastEdge ∧ t.fed.sent.length = 2 ∧
      (∀ g ∈ t.fed.sent, goodFrame g = false) ∧ t.zones = s.zones ∧ t.cqs = s.cqs) ∧
  (∀ (s : State) (q : Bool), s.fed.unit = true → s.fed.locked = true →
    ∃ t, exec (.federationWindowMiss q) s = .next t ∧ t.fed.missed = satAdd 32 s.fed.missed 1 ∧
      t.fed.missRun = s.fed.missRun + 1 ∧ t.fed.locked = decide (s.fed.missRun + 1 < 4) ∧
      t.fed.lastEdge = s.fed.lastEdge + s.fed.spacing ∧ t.fed.time = s.fed.time ∧
      (fedMode s = 1 → s.fed.ovf = false → s.fed.badFwd = false → t.fed.sent.length = 2 ∧
        ∀ g ∈ t.fed.sent, g.time = s.fed.lastTime + 1000000 ∧ g.trace = false ∧ g.tkv = false ∧
          g.hop = s.fed.hopRx + 1 ∧ g.cdly = s.fed.cdlyRx + s.fed.cable) ∧
      (4 ≤ s.fed.missRun + 1 → t.fed.unlocks = satAdd 32 s.fed.unlocks 1 ∧ bitOf t.glb.istat 8 = true) ∧
      t.zones = s.zones ∧ t.cmds = s.cmds) ∧
  (∀ s : State, s.fed.unit = true → fedMode s = 2 → s.fed.ovf = false → s.fed.setT = [] → s.fed.wait = none →
    s.fed.rep = none → s.fed.nextAt ≤ s.fed.time → let due := s.fed.time - (s.fed.time - s.fed.nextAt) % 1000000
    ∃ t, exec .federationFrameOriginate s = .next t ∧ t.fed.sent.length = 2 ∧
      (∀ g ∈ t.fed.sent, g.time = due ∧ g.hop = 0 ∧ g.cdly = 0 ∧ g.trace = true ∧ g.tkv = false) ∧
      t.fed.time = s.fed.time ∧ t.fed.nextAt = due + 1000000 ∧ t.cqs = s.cqs) ∧
  (∀ (s : State) (c cid id kind : Nat), adminServed s c = true → isPf0 c = true → s.boot.maquette = false →
    id % 2 ^ 24 ≠ 0 → kind < 3 → fedMode s = 2 → fedTraced s = true → s.fed.wait = none →
    exec (.federationControlTakeMarker c cid id kind 0) s = .next { adminFetch s c with
      fed := { s.fed with wait := some (c, cid, id, kind, s.nowUs) } }) ∧
  (∀ (s : State) (c cid time : Nat), adminServed s c = true → isPf0 c = true → s.boot.maquette = false →
    fedMode s = 2 →
    exec (.federationControlSetTime c cid time 0) s = .next { adminFetch s c with
      fed := { s.fed with setT := s.fed.setT ++ [(c, cid, time % 2 ^ 64, s.nowUs)] } })

/-! ### The host's registers, the resets and the ports (R74 to R92, R102, R118, R130 to R132, R138, R454 to R459) -/

/-- R80, R102, R118, R416, R418, R420: a tail doorbell moves its queue's tail and a head doorbell frees the entries
before it, with the link back in L0; in PS3, in PS4 and during an entry they act once the device is awake, which a tail
doorbell brings about there and a head doorbell in PS3 and PS4. A doorbell of a queue that does not exist, or with a value
beyond its queue, past the device's head or past the entries posted, changes no queue and is reported by its event, which
is held or answers a waiting request. Where no register of the function can be reached nothing happens. -/
def Obligations.DoorbellsMoveQueues : Prop :=
  ∀ (s : State) (c q v : Nat),
    let k := qk c q
    let w := getPort s (portOf c)
    let u := if w.link = .l0 then s else { s with ports := tset {} s.ports (portOf c) { w with link := .l0 } }
    let r := reached s (portOf c)
    let passes := fun x : Sq => x.size ≤ (v + x.size - x.tail) % x.size + (x.tail + x.size - x.head) % x.size
    let used := fun y : Cq => (v + y.size - (y.tail + y.size - y.ring.length) % y.size) % y.size
    (hostCan s c = false →
      exec (.sqTailDoorbell c q v) s = .next s ∧ exec (.cqHeadDoorbell c q v) s = .next s) ∧
    (hostCan s c = true → absorbs r = true →
      exec (.sqTailDoorbell c q v) s = .next r ∧ exec (.cqHeadDoorbell c q v) s = .next r) ∧
    (∀ a, hostCan s c = true → (Awake s ∧ a = u) ∨ (absorbs r = false ∧ a = doorbellWake r) →
      let x := getSq a k
      a.pm.entry = .none ∧
      (x.live = true → v < x.size → ¬ passes x →
        exec (.sqTailDoorbell c q v) s = .next { a with sqs := tset {} a.sqs k { x with tail := v } }) ∧
      (x.live = false → exec (.sqTailDoorbell c q v) s = .next (raiseOn a c ⟨0, 0, 1⟩)) ∧
      (x.live = true → x.size ≤ v → exec (.sqTailDoorbell c q v) s = .next (raiseOn a c ⟨0, 1, 1⟩)) ∧
      (x.live = true → passes x → exec (.sqTailDoorbell c q v) s = .next (raiseOn a c ⟨0, 1, 1⟩))) ∧
    (∀ a, hostCan s c = true →
      (Awake s ∧ a = u) ∨ (absorbs r = false ∧ a = (if r.pm.entry = .none then doorbellWake r else r)) →
      let y := getCq a k
      (y.live = true → v < y.size → used y ≤ y.ring.length →
        exec (.cqHeadDoorbell c q v) s = .next { a with cqs := tset {} a.cqs k { y with ring := y.ring.drop (used y) } }) ∧
      (y.live = false → exec (.cqHeadDoorbell c q v) s = .next (raiseOn a c ⟨0, 0, 1⟩)) ∧
      (y.live = true → y.size ≤ v → exec (.cqHeadDoorbell c q v) s = .next (raiseOn a c ⟨0, 1, 1⟩)) ∧
      (y.live = true → y.ring.length < used y → exec (.cqHeadDoorbell c q v) s = .next (raiseOn a c ⟨0, 1, 1⟩))) ∧
    (∀ a info, (getCtrl a c).evs = [] → (getCtrl a c).waitLog = [] →
      let x := getCtrl a c
      let e : Ev := ⟨0, info, 1⟩
      let held := tset {} a.ctrls c { x with evs := [e] }
      (x.aers = [] → raiseOn a c e = { a with ctrls := held }) ∧
      (∀ cid l, x.aers = cid :: l → raiseOn a c e = adone { a with
        ctrls := tset {} held c { x with aers := l, waitLog := [e] } } c cid .success (info * 256 + 65536))) ∧
    (hostCan s c = true → s.pm.entry ≠ .none ∨ s.pm.ps = 3 →
      let a := doorbellWake r
      a.sqs = s.sqs ∧ a.cqs = s.cqs ∧ a.cmds = s.cmds ∧ a.zones = s.zones ∧ a.sectors = s.sectors ∧
        a.ports = u.ports)

/-- R89, R130, R131, R456: enabling a controller makes its admin queues and, once the device is released, makes it
ready; a controller reset discards its commands and deletes its queues; a shutdown is complete when no started
command of the controller is left. Not of the rules: when a shutdown is complete is DEDUCED
(notes/assumptions/25.md). -/
def Obligations.ControllersRun : Prop :=
  ∀ (s : State) (c : Nat), hostCan s c = true → Awake s →
    let v := getCtrl s c
    let w := getPort s (portOf c)
    let u := if w.link = .l0 then s else { s with ports := tset {} s.ports (portOf c) { w with link := .l0 } }
    (∀ cc aqa asq acq, v.en = false → exec (.controllerEnable c cc aqa asq acq) s = .next { u with
      ctrls := tset {} s.ctrls c { v with
        en := true, rdy := s.glb.released, shst := 0, cc := setBit cc 0, aqa := aqa, asq := asq, acq := acq }
      sqs := tset {} s.sqs (qk c 0) { live := true, size := aqa % 4096 + 1 }
      cqs := tset {} s.cqs (qk c 0) { live := true, size := aqa / 65536 % 4096 + 1, ien := true } }) ∧
    (v.en = true → NoFlushWaits s → NoFinishWaits s → twf {} s.ctrls = true →
      ∃ t, exec (.controllerReset c) s = .next t ∧ NoQueues t c ∧ (getCtrl t c).en = false ∧
        (getCtrl t c).rdy = false ∧ (getCtrl t c).allot = 0 ∧ (getCtrl t c).aers = [] ∧ (getCtrl t c).aqa = v.aqa ∧
        (getCtrl t c).asq = v.asq ∧ (getCtrl t c).acq = v.acq ∧ (getCtrl t c).errs = v.errs ∧
        t.ports = s.ports ∧ MediaKept s t) ∧
    (∀ a, v.rdy = true → v.shst = 0 →
      ((∃ kv ∈ s.cmds, ctrlOfSq kv.2.sq = c ∧ kv.2.phase = .started) →
        exec (.shutdownNotification c a) s = .next { u with ctrls := tset {} s.ctrls c { v with shst := 1 } }) ∧
      ((∀ kv ∈ s.cmds, ctrlOfSq kv.2.sq = c → kv.2.phase ≠ .started) →
        ∃ t, exec (.shutdownNotification c a) s = .next t ∧ (getCtrl t c).shst = 2 ∧ guarded t = guarded s))

/-- R81, R88, R377, R455, R459: NSSR written through a PF0, and both PERST# low in the two-port configuration, are a
device warm reset: its cause is recorded, every command is discarded and the reset flush begins, with data, zones
and keys where they were, or in PS4 the rails rise again under the same straps; a PERST# pin follows the board, and its release starts the port island's clock once the
structure is chosen (R89, R406). Not of the rules: what a reset in each phase does is
DEDUCED (notes/assumptions/25.md). -/
def Obligations.DeviceWarmResets : Prop :=
  ∀ s : State,
    (∀ (port why : Nat) (i : Instr),
      (i = .nvmSubsystemReset port ∧ port < 2 ∧ hostCan s (port * 64) = true ∧ why = 2) ∨
      (i = .bothPerstLow ∧ s.board.straps.lanes = 1 ∧ s.board.perst0 = true ∧ s.board.perst1 = true ∧
        absorbs s = false ∧ why = 1) →
      (s.pm.ps < 4 ∨ s.pm.entry ≠ .none) →
      ∃ t, exec i s = .next t ∧ FlushBegun s t .resetFlush ∧ t.glb.reset = why ∧
        t.glb.devwarm = satAdd 8 s.glb.devwarm 1) ∧
    (∀ port, port < 2 → hostCan s (port * 64) = true → s.pm.ps = 4 → s.pm.entry = .none →
      ∃ t, exec (.nvmSubsystemReset port) s = .next t ∧ IslandsReset s t ∧ t.boot.phase = .rails ∧
        t.boot.warm = true ∧ t.board.railEn = 0 ∧ t.board.straps = s.board.straps ∧
        t.board.fuses = s.board.fuses ∧ t.glb.reset = 2 ∧ t.glb.devwarm = satAdd 8 s.glb.devwarm 1) ∧
    (absorbs s = true → exec .bothPerstLow s = .next s) ∧
    (let clocked := fun (p : Nat) (t : State) => if absorbs s = true ∨ s.boot.phase = .choice then t
       else { t with clk := { s.clk with gate0 := setBit s.clk.gate0 (15 + p) } }
     exec (.perstRelease 0) s = .next (clocked 0 { s with board := { s.board with perst0 := false } }) ∧
     (s.board.straps.lanes = 1 →
       exec (.perstRelease 1) s = .next (clocked 1 { s with board := { s.board with perst1 := false } })))

/-- R90, R91, R132, R456, R458: a Function Level Reset, PERST# and a lost link delete the queues of the functions they
reach and discard their commands without a completion; the data on the media and the keys stay. A PF0's Function
Level Reset disables its VFs, a VF's reaches no other function, and neither resets a port island or the other port. -/
def Obligations.FunctionAndPortResets : Prop :=
  ∀ s : State, Awake s → NoFlushWaits s → NoFinishWaits s → twf {} s.ctrls = true → twf {} s.ports = true →
    (∀ c, hostCan s c = true → ∃ t, exec (.functionLevelReset c) s = .next t ∧ NoQueues t c ∧
      (getCtrl t c).en = false ∧ (getCtrl t c).aqa = 0 ∧ (getCtrl t c).errs = (getCtrl s c).errs ∧ MediaKept s t ∧
      t.clk.fence = s.clk.fence ∧ (∀ p, p ≠ portOf c → getPort t p = getPort s p) ∧
      (getPort t (portOf c)).dlup = (getPort s (portOf c)).dlup ∧
      (getPort t (portOf c)).gen = (getPort s (portOf c)).gen ∧
      (getPort t (portOf c)).width = (getPort s (portOf c)).width ∧
      (isPf0 c = true → (getPort t (portOf c)).vfOn = false ∧ (getPort t (portOf c)).numVfs = 0 ∧
        (getPort t (portOf c)).mps = 0 ∧ (getPort t (portOf c)).mrrs = 512 ∧ ∀ i, i < 63 → NoQueues t (portOf c * 64 + i + 1)) ∧
      (isPf0 c = false → (getPort t (portOf c)).vfOn = (getPort s (portOf c)).vfOn ∧ (∀ d, d ≠ c → (getCtrl t d).en = (getCtrl s d).en) ∧
        (twf {} s.sqs = true → twf {} s.cmds = true →
          (∀ d q, d ≠ c → q < 65536 → (getSq t (qk d q)).live = (getSq s (qk d q)).live) ∧
          ∀ kv ∈ s.cmds, ctrlOfSq kv.2.sq ≠ c → hasCmd t kv.1 = true))) ∧
    (∀ port, portPresent s port = true → absorbs s = false →
      (∀ i, (∀ kv ∈ s.cmds, arrived s kv.1 = false) →
        (i = .perstAssert port ∨ i = .portInternalFault port) →
        ∃ t, exec i s = .next t ∧ (∀ j, j < 64 → NoQueues t (port * 64 + j)) ∧ (getPort t port).dlup = false ∧
          .port port ∈ t.clk.fence ∧ MediaKept s t) ∧
      (perstOf s port = false → (getPort s port).dlup = true →
        (∀ kv ∈ s.cmds, arrived s kv.1 = false) →
        ∃ t, exec (.linkLoss port) s = .next t ∧ port ∈ t.arb.fetchOff ∧
          t.ports = tset {} s.ports port { getPort s port with
            dlup := false, linkDown := true, committed := 0
            discarded := (tkeys s.cmds (fun _ d => portOf (ctrlOfSq d.sq) == port)).length } ∧
          (∀ kv ∈ t.cmds, portOf (ctrlOfSq kv.2.sq) ≠ port) ∧
          (∀ k, portOf (k / 65536) = port → (getSq t k).staged = [] ∧ (getSq t k).inflight = 0) ∧ t.zones = s.zones ∧ MediaKept s t)) ∧
    (∀ port, absorbs s = false → (getPort s port).linkDown = true →
      (∀ kv ∈ s.cmds, portOf (ctrlOfSq kv.2.sq) ≠ port) →
      ∃ t, exec (.linkLossPortReset port) s = .next t ∧ (∀ j, j < 64 → NoQueues t (port * 64 + j)) ∧
        (getPort t port).linkDown = false ∧ t.pat.events = s.pat.events + 1 ∧ MediaKept s t)

/-- R76, R79, R138, R211, R457, R490: a Niche Reset from another niche's PF0 resets every controller of the niche and
clears its counters and status bits; VF Enable makes NumVFs functions exist, and clearing it resets them. -/
def Obligations.NicheResetAndFunctions : Prop :=
  (∀ (s : State) (c cid n : Nat) (force : Bool), adminServed s c = true → isPf0 c = true → s.boot.maquette = false →
    nicheValid s n = true → nicheOf s c ≠ some n → (force = true ∨ liveOf s n = []) → NoFlushWaits s → NoFinishWaits s →
    twf {} s.ctrls = true → twf {} s.niches = true →
    ∃ t, exec (.nicheReset c cid n force 0) s = .next t ∧ CqeWaits t c 0 cid .success ∧
      (∀ d, binds s n d = true → d < 128 → d ≠ c → NoQueues t d ∧ (getCtrl t d).en = false) ∧
      (getNch t n).istat = 0 ∧ (getNch t n).hostWritten = 0 ∧ (getNch t n).hostRead = 0 ∧
      (getNch t n).mediaWritten = 0 ∧ (getNch t n).unrecovered = 0 ∧ MediaKept s t) ∧
  (∀ (s : State) (port num : Nat), hostCan s (port * 64) = true → port < 2 → Awake s →
    ((getPort s port).vfOn = false → num ≤ totalVfs s port → exec (.vfEnable port num true) s = .next { s with
      ports := tset {} s.ports port { getPort s port with link := .l0, vfOn := true, numVfs := num } }) ∧
    ((getPort s port).vfOn = true → NoFlushWaits s → NoFinishWaits s → twf {} s.ctrls = true →
      ∃ t, exec (.vfEnable port num false) s = .next t ∧
        (getPort t port).vfOn = false ∧ (getPort t port).dlup = true ∧ (getPort t port).gen = (getPort s port).gen ∧
        (∀ i, i < 63 → NoQueues t (port * 64 + i + 1)) ∧ MediaKept s t))

/-- R69, R71, R74, R85, R87, R374, R420: a trained link's speed and width, the payload and read request sizes, a PTM dialogue and the
link's power states are the port's new state; the capacity they give is looked at again (R208). -/
def Obligations.PortsFollowTheirLinks : Prop :=
  ∀ (s : State) (port : Nat),
    let v := getPort s port
    (∀ gen width, absorbs s = false → portPresent s port = true → perstOf s port = false → v.linkDown = false →
      1 ≤ gen → gen ≤ (if s.board.straps.gen = 1 then 4 else 5) → width ∈ [1, 2, 4, 8, 16] → width ≤ maxWidth s →
      exec (.linkSpeedWidthChange port gen width) s = .next (trigger { s with
        ports := tset {} s.ports port { v with gen := gen, width := width, dlup := true, link := .l0 }
        clk := { s.clk with gate0 := setBit s.clk.gate0 (15 + port) } })) ∧
    (hostCan s (port * 64) = true → port < 2 →
      (∀ mps mrrs, Awake s → mps ≤ 2 → mrrs ≤ 5 → exec (.pf0MpsWrite port mps mrrs) s = .next (trigger { s with
        ports := tset {} s.ports port { v with link := .l0, mps := mps, mrrs := 128 * 2 ^ mrrs } })) ∧
      (∀ mps mrrs, 2 < mps ∨ 5 < mrrs → exec (.pf0MpsWrite port mps mrrs) s = .next s) ∧
      (∀ en, exec (.ptmRequest port en) s = .next { s with
        ports := tset {} s.ports port { v with ptmEn := en, ptmAsk := en } })) ∧
    (∀ m l, v.ptmAsk = true → exec (.ptmResponse port m l) s = .next { s with
      ports := tset {} s.ports port { v with
        ptmAsk := false, ptmM := m, ptmL := l, ptmF := (fedStamp s).1, ptmSeq := satAdd 32 v.ptmSeq 1
        ptmValid := fedTraced s } }) ∧
    (absorbs s = false → v.dlup = true →
      (v.link = .l0 → (∀ h ∈ liveComms s, (getComm s h).port ≠ port) →
        exec (.aspmL1IdleEntry port) s = .next { s with ports := tset {} s.ports port { v with link := .l1 } }) ∧
      (v.link = .l0 → (∃ h ∈ liveComms s, (getComm s h).port = port) → exec (.aspmL1IdleEntry port) s = .next s) ∧
      (∀ b, exec (.linkPartnerL1Request port b) s = .next { s with
        ports := tset {} s.ports port { v with link := if b then .l12 else .l1 } }) ∧
      (v.link = .l12 → s.pm.ps ≠ 4 → exec (.l12ExitWake port) s = .next { s with
        ports := tset {} s.ports port { v with link := .l0 } }))

/-! ### Supply and power loss (R332 to R347, R357, R459) -/

/-- R332 to R335, R357, R423, R465: PFAIL_IN opens a brace in service, turns a reset flush into a flush, holds the
islands before release, and after sixteen recoveries within a second starts the flush at once; its pin and the
charger follow it, and where the RCO does not run it is not sampled. -/
def Obligations.SupplyFailureBraces : Prop :=
  ∀ s : State,
    (s.board.pfail = true → exec .pfailInDeassert s = .next { s with
      board := { s.board with pfail := false, pfailLowUs := s.nowUs } }) ∧
    (s.board.pfail = true → exec .pfailInAssert s = .next s) ∧
    (s.board.pfail = false → exec .pfailInDeassert s = .next s) ∧
    (s.board.pfail = false →
      (s.boot.phase ∈ [.off, .lpo, .rails, .railHold, .railWait] → exec .pfailInAssert s = .next s) ∧
      (s.boot.phase = .released → (s.pm.ps ≠ 4 ∨ s.pm.entry ≠ .none) → (recentBraces s).length < 16 →
        s.hold.brace = true →
        exec .pfailInAssert s = .next { abandonSteps s with board := { s.board with pfail := true, chgEn := false } }) ∧
      (s.boot.phase = .released → s.pm.entry = .none → s.pm.ps ≠ 4 → (recentBraces s).length < 16 →
        s.hold.brace = false →
        ∃ t, exec .pfailInAssert s = .next t ∧ t.hold.brace = true ∧ t.hold.braceTimer = true ∧
          t.hold.testing = false ∧ t.board.pfail = true ∧ t.board.chgEn = false ∧ fetchStopped t = true ∧
          t.cmds = s.cmds ∧ t.zones = s.zones ∧ t.sectors = s.sectors ∧ guarded t = guarded s) ∧
      (s.boot.phase = .released → (s.pm.ps ≠ 4 ∨ s.pm.entry ≠ .none) → s.pm.entry ≠ .wait4 →
        16 ≤ (recentBraces s).length →
        ∃ t, exec .pfailInAssert s = .next t ∧ t.board.pfail = true ∧ FlushBegun s t .flushing) ∧
      (s.boot.phase = .released → s.pm.ps = 4 → s.pm.entry = .none →
        ∃ t, exec .pfailInAssert s = .next t ∧ t.boot.phase = .halted ∧ t.board.chgEn = false ∧ IslandsReset s t) ∧
      (s.boot.phase ∈ [.rco, .rcoFail, .fuse, .fuseHold, .xo, .pll, .islands, .choice, .mount, .ready, .mfg] →
        ∃ t, exec .pfailInAssert s = .next t ∧ t.boot.phase = .halted ∧ t.board.chgEn = false ∧ IslandsReset s t) ∧
      (s.boot.phase = .resetFlush → ∃ t, exec .pfailInAssert s = .next t ∧ t.boot.phase = .flushing ∧
        t.plinth = s.plinth ∧ t.sectors = s.sectors ∧ t.zones = s.zones ∧ guarded t = guarded s))

/-- R334: when the brace timer expires with the supply back the brace ends, is counted and recorded, and the charger
runs; otherwise the flush begins. A low bank within the brace begins it at once. Not of the rules: the code shown of a reading is rounded by the model's
choice (notes/assumptions/40.md). -/
def Obligations.BraceEndsOrFlushes : Prop :=
  ∀ s : State, s.hold.brace = true →
    (s.board.pfail = false → s.board.pfailLowUs + 100 ≤ s.nowUs → 9000 ≤ s.hold.vin →
      ∃ t, exec .braceTimerExpiry s = .next t ∧ t.hold.brace = false ∧ t.hold.braceTimer = false ∧
        t.hold.braces = satAdd 16 s.hold.braces 1 ∧ t.board.chgEn = true ∧ t.thm.mode = 0 ∧
        t.pat.events = s.pat.events + 1 ∧ t.cmds = s.cmds ∧ t.zones = s.zones ∧ t.sectors = s.sectors ∧
        guarded t = guarded s) ∧
    ((s.board.pfail = true ∨ s.nowUs < s.board.pfailLowUs + 100 ∨ s.hold.vin < 9000) →
      ∃ t, exec .braceTimerExpiry s = .next t ∧ FlushBegun s t .flushing) ∧
    (∀ mv, s.hold.nextHu = true → mv * 10 < 9 * s.arm.cfg.dev.huVchg →
      ∃ t, exec (.adcFastModeReading mv) s = .next t ∧ FlushBegun s t .flushing) ∧
    (∀ mv, s.hold.nextHu = true → 9 * s.arm.cfg.dev.huVchg ≤ mv * 10 →
      ∃ t, exec (.adcFastModeReading mv) s = .next t ∧ t.hold.huv = satTo 16 mv ∧ t.hold.nextHu = false ∧
        t.hold.brace = true ∧ t.cmds = s.cmds ∧ t.zones = s.zones ∧ t.sectors = s.sectors) ∧
    (∀ mv, s.hold.nextHu = false → exec (.adcFastModeReading mv) s = .next { s with
      hold := { s.hold with
        vin := satTo 16 mv, vinMin := min s.hold.vinMin (satTo 16 mv), braceVin := min s.hold.braceVin (satTo 16 mv)
        nextHu := true }
      thm := { s.thm with codes := tset (0, 0) s.thm.codes 28 (senseCode 16 mv, mv) } })

/-- R31, R229, R250, R335, R337, R343 to R347, R459, R462, R502: a flush writes its band unit by unit, each on a die that
is free within the budgets and on a channel that serves, data before the device's state, a line's parity where its place
comes; a failed program is covered by its band stripe's parity or what it loses is sent again; when all are written the
flush's record is the newest of the Plinth and the islands are reset; the halt ends in a cold start and a reset flush in a
start-up, or in the halt where PFAIL_IN is high, with everything committed still there. Not of the rules: how many units a
flush writes and their order are the model's choice (notes/assumptions/26.md). -/
def Obligations.FlushWritesAndHalts : Prop :=
  ∀ s : State,
    (∀ ch rank,
      let d := getDie s (dk ch rank)
      let line := bandLine s ch rank
      let whole := fun u : BandUnit => { u with data := bandData s u }
      let bus := fun u : BandUnit =>
        driveDie s (dk ch rank) (if u.sects.any (fun e => (getNs s e.2.1).fmt == 2) then 16928 else 16704)
      let put := fun (u : BandUnit) (l : List BandUnit) => exec (.bandUnitWrite ch rank false) s = .next
        { bus u with plinth := { s.plinth with
            bandLeft := l, band := s.plinth.band ++ [whole u], bandUnits := s.plinth.bandUnits + 1 } }
      let parity : BandUnit := { kind := 3, ch := ch, rank := rank, armseq := s.arm.seq, pwrcyc := s.pat.pwrcyc }
      let last := fun v : BandUnit => v.kind == 2 || v.kind == 4
      let ready := flushing s = true ∧ d.used = true ∧ d.retired = false ∧ dieFree d = true ∧
        (getChan s ch).retrain = false ∧ iccqFor s ch = true ∧ programsOn s < nFl s.arm.cfg ∧
        iccUsed s + s.arm.cfg.geom.iProg ≤ s.arm.cfg.dev.icc
      (¬ ready → ∀ f, exec (.bandUnitWrite ch rank f) s = .next s) ∧
      (bandNext s ch rank = none → ∀ f, exec (.bandUnitWrite ch rank f) s = .next s) ∧
      (ready → ∀ u l, s.plinth.bandLeft = u :: l →
        (u.kind = 0 → (bandChans s rank).contains ch = true → bandEven s ch = true →
          (bandParity s rank line ≠ some ch → put { u with ch := ch, rank := rank, line := line } l) ∧
          (bandParity s rank line = some ch → put { parity with line := line } (u :: l))) ∧
        (u.kind ≠ 0 → isPlinth s rank = true → (u.kind ≠ 4 ∨ u.rank = rank) →
          put { u with ch := ch, rank := rank } l)) ∧
      (ready → ∀ x, s.plinth.bandLeft = [] →
        (parityLeft s).find? (fun y => y.1 == rank && bandParity s rank y.2 == some ch) = some x →
        put { parity with line := x.2 } []) ∧
      (ready → ∀ u0 l, bandNext s ch rank = some (u0, l) →
        let u := whole u0
        let fails := fun (old again : List BandUnit) (n : Nat) => exec (.bandUnitWrite ch rank true) s = .next
          { bus u0 with plinth := { s.plinth with
              band := old ++ [{ u with failed := n }]
              bandLeft := l.filter (fun v => !(last v)) ++ again.map (fun v => { v with failed := 0 }) ++ l.filter last
              bandUnits := s.plinth.bandUnits + 1 } }
        let covered := inBody u = true ∧ failedWith s u = [] ∧ (bandParity s u.rank u.line).isSome = true
        (covered → fails s.plinth.band [] 1) ∧
        (¬ covered → fails (s.plinth.band.map (fun v =>
            if inBody u && inBody v && v.rank == u.rank && v.line == u.line && v.failed == 1 then { v with failed := 2 }
            else v)) (sentAgain s u) 2 ∧
          ∀ v, v ∈ sentAgain s u ↔
            v.kind ≠ 3 ∧ (v = u ∨ (inBody u = true ∧ v ∈ failedWith s u ∧ v.failed = 1))))) ∧
    (s.boot.phase = .flushing → flushDone s = true →
      ∃ t, exec .flushHalt s = .next t ∧ IslandsReset s t ∧
        t.boot.phase = (if s.boot.railPend = false then .halted else if 2 ≤ s.boot.railFails then .railHold
          else .railWait) ∧
        (s.plinth.mounted = true → t.plinth.newest = 3 ∧ t.plinth.bandSeq = s.arm.seq ∧
          t.pat.band = some (patImage (finalRecord s)) ∧ t.plinth.media = s.plinth.media)) ∧
    (s.boot.phase ≠ .halted ∨ s.board.pfail = true → exec .flushHaltColdStart s = .next s) ∧
    (s.boot.phase = .halted → s.board.pfail = false →
      ∃ t, exec .flushHaltColdStart s = .next t ∧ t.boot.phase = .rails ∧ t.board.railEn = 0 ∧ t.glb.reset = 6 ∧
        t.opUs = 0 ∧ IslandsReset s t) ∧
    (flushDone s = false → exec .flushHalt s = .next s ∧ exec .resetFlushEnd s = .next s) ∧
    (s.boot.phase = .resetFlush → flushDone s = true →
      ∃ t, exec .resetFlushEnd s = .next t ∧ IslandsReset s t ∧
        t.boot.phase = (if s.board.pfail then .halted else if s.clk.fallback then .xo else .islands) ∧
        (s.board.pfail = true → t.board.chgEn = false) ∧
        (s.plinth.mounted = true → t.plinth.newest = 3 ∧ t.plinth.bandSeq = s.arm.seq ∧
          t.pat.band = some (patImage (finalRecord s)) ∧ t.plinth.media = s.plinth.media))

/-- R338 to R341: a health test starts on a charged bank, draws from it from its first sample, and ends with the
capacitance measured from the time of its 1 V drop, or as failed where that is implausible or does not come; a bank
that does not charge in time degrades hold-up. Not of the rules: how a test is measured is the model's choice
(notes/assumptions/27.md). -/
def Obligations.HoldupTestsAndCharge : Prop :=
  ∀ s : State,
    (inService s = true → s.hold.testing = false → s.pm.entry = .none → s.pm.ps ≠ 4 →
      (testReady s = true → exec .healthTestStart s = .next { s with
        board := { s.board with chgEn := false }
        hold := { s.hold with testing := true, deferred := false, v0 := none, testUs := 0, nextHu := true }
        thm := { s.thm with mode := 1 } }) ∧
      (testReady s = false → exec .healthTestStart s = .next { s with
        hold := { s.hold with deferred := true, run := false } })) ∧
    (s.hold.testing = true → s.hold.brace = false →
      (∀ mv, s.hold.v0 = none → ∃ t, exec (.healthTestSample mv) s = .next t ∧ t.board.huTest = true ∧
        t.hold.v0 = some mv ∧ t.hold.testUs = 0 ∧ t.hold.testing = true ∧ t.hold.cmeas = s.hold.cmeas ∧
        t.cmds = s.cmds ∧ t.zones = s.zones ∧ t.sectors = s.sectors) ∧
      (∀ mv v0, s.hold.v0 = some v0 → s.hold.testUs + 64 ≤ 100000 → v0 < mv + 1000 → ∃ t, exec (.healthTestSample mv) s = .next t ∧
        t.hold.testUs = s.hold.testUs + 64 ∧ t.hold.testing = true ∧ t.hold.v0 = some v0 ∧
        t.hold.cmeas = s.hold.cmeas) ∧
      (∀ mv v0, s.hold.v0 = some v0 → s.hold.testUs + 64 ≤ 100000 → mv + 1000 ≤ v0 → 1000 ≤ s.hold.testUs + 64 →
        ∃ t, exec (.healthTestSample mv) s = .next t ∧
          t.hold.cmeas = satTo 16 (10 * (s.hold.testUs + 64) / (v0 - mv)) ∧ t.hold.tested = true ∧
          t.hold.testing = false ∧ t.hold.tests = satAdd 16 s.hold.tests 1 ∧ bitOf t.hold.reasons 3 = false ∧
          bitOf t.hold.reasons 5 = false ∧ t.board.huTest = false ∧ t.board.chgEn = true ∧
          t.cmds = s.cmds ∧ t.zones = s.zones ∧ t.sectors = s.sectors) ∧
      (∀ mv v0, s.hold.v0 = some v0 → (mv + 1000 ≤ v0 ∧ s.hold.testUs + 64 < 1000) ∨ 100000 < s.hold.testUs + 64 →
        ∃ t, exec (.healthTestSample mv) s = .next t ∧ bitOf t.hold.reasons 5 = true ∧ t.hold.testing = false ∧
          t.hold.cmeas = s.hold.cmeas ∧ t.board.huTest = false) ∧
      (s.hold.v0 ≠ none → ∃ t, exec .healthTestTimeout s = .next t ∧ bitOf t.hold.reasons 5 = true ∧
        t.hold.testing = false ∧ t.hold.cmeas = s.hold.cmeas ∧ t.board.huTest = false ∧
        t.hold.tests = satAdd 16 s.hold.tests 1)) ∧
    (s.board.chgEn = true → (s.hold.low = true ∨ s.hold.chgWait = true) →
      ∃ t, exec .holdupChargeTimeout s = .next t ∧ t.hold.reasons = setBit s.hold.reasons 3 ∧
        t.hold.chgWait = false ∧ t.cmds = s.cmds ∧ t.zones = s.zones ∧ t.sectors = s.sectors)

/-! ### Thermal management (R428 to R438) -/

/-- R330, R332, R428, R430: a conversion takes the next channel of the scan: a valid sensor's reading, a supply's
voltage through its divider;
the last channel ends the round with the composite of the sensors. Not of the rules: how a code becomes a value is
DEDUCED (notes/assumptions/28.md), its rounding the model's choice (notes/assumptions/40.md). -/
def Obligations.TemperaturesScanned : Prop :=
  ∀ (s : State) (code : Nat) (v : Int), scanRuns s = true →
    let ch := s.thm.ch
    let c := code % 4096
    let x := tget ({} : Sensor) s.thm.sensors ch
    (ch < 28 → inputAbsent ch c = false → inputBroken ch c v = false → c ≠ x.raw → x.st ≠ 2 →
      exec (.adcScanConversion code v) s = .next { s with thm := { s.thm with
        ch := ch + 1
        sensors := tset {} s.thm.sensors ch
          { temp := kelvin v, st := 0, raw := c, same := 0, okRun := x.okRun + 1, comp0 := compositeBut s ch }
        codes := tset (0, 0) s.thm.codes ch (c, kelvin v) } }) ∧
    (ch < 28 → inputAbsent ch c = false → inputBroken ch c v = true → x.st ≠ 2 →
      ∃ t, exec (.adcScanConversion code v) s = .next t ∧ (tget ({} : Sensor) t.thm.sensors ch).st = 2 ∧
        t.thm.ch = ch + 1 ∧ t.pat.events = s.pat.events + 1 ∧ bitOf t.glb.istat 2 = true ∧
        t.zones = s.zones ∧ t.sectors = s.sectors) ∧
    (ch = 28 → exec (.adcScanConversion code v) s = .next { s with
      hold := { s.hold with
        vin := satTo 16 (senseMv 16 c), vinMin := min s.hold.vinMin (satTo 16 (senseMv 16 c))
        braceVin := min s.hold.braceVin (satTo 16 (senseMv 16 c)) }
      thm := { s.thm with ch := 29, codes := tset (0, 0) s.thm.codes 28 (c, senseMv 16 c) } }) ∧
    (ch = 29 → ∃ t, exec (.adcScanConversion code v) s = .next t ∧ t.hold.huv = satTo 16 (senseMv 50 c) ∧ t.thm.ch = 30 ∧
      t.zones = s.zones ∧ t.sectors = s.sectors) ∧
    (30 ≤ ch → ch < 47 → exec (.adcScanConversion code v) s = .next { s with thm := { s.thm with
      ch := ch + 1, codes := tset (0, 0) s.thm.codes ch (c, senseMv (adcDivider ch) c) } }) ∧
    (ch = 47 → anyCritical s = false → ∃ t, exec (.adcScanConversion code v) s = .next t ∧ t.thm.ch = 0 ∧
      t.thm.rounds = wrapAdd 16 s.thm.rounds 1 ∧ t.thm.composite = compositeBut s 28 ∧
      t.thm.maxK = max s.thm.maxK (compositeBut s 28) ∧ t.zones = s.zones ∧ t.sectors = s.sectors)

/-- R432, R433: the grace timer puts the requested stage in force with its write limit and power cap; ten cool
seconds withdraw a request, or lower the stage by one. R436, R438, R462: an orderly stop whose started commands have
ended halts the device with its state block frozen; it starts again cold once cool, unless it stays; a Trip sensor
drops the rails at once. Not of the rules: when the ladder acts is DEDUCED (notes/assumptions/28.md). -/
def Obligations.ThermalLadderHaltAndTrip : Prop :=
  (∀ s : State,
     (s.thm.graceEnd ≠ none → ∃ t, exec .graceTimerExpiry s = .next t ∧ t.thm.enforced = s.thm.stage ∧
       t.cms.wTherm = wOf s.thm.stage ∧ t.pm.tcap = capOf s.thm.stage ∧
       (s.pm.ps < 3 → s.pm.req < 3 → t.pm.ps = max s.pm.req (capOf s.thm.stage)) ∧
       (s.thm.composite < s.thm.hot + 273 ∨ 4 ≤ s.thm.stage → t.thm.graceEnd = none ∧ t.thm.stage = s.thm.stage) ∧
       (s.thm.hot + 273 ≤ s.thm.composite → s.thm.stage < 4 → t.thm.stage = s.thm.stage + 1 ∧
         t.thm.graceEnd = some (s.nowUs + s.thm.graceMs * 1000)) ∧
       t.pat.events = s.pat.events + 1 ∧ bitOf t.glb.istat 2 = true ∧
       t.cmds = s.cmds ∧ t.zones = s.zones ∧ t.sectors = s.sectors) ∧
     (s.thm.coolFrom ≠ none →
       (s.thm.graceEnd ≠ none → ∃ t, exec .thermalCoolTimer s = .next t ∧ t.thm.stage = s.thm.enforced ∧
         t.thm.graceEnd = none ∧ t.thm.enforced = s.thm.enforced ∧ t.thm.coolFrom = some s.nowUs ∧
         t.cms = s.cms ∧ t.pm = s.pm ∧ t.zones = s.zones ∧ t.sectors = s.sectors) ∧
       (s.thm.graceEnd = none → s.thm.enforced = 0 → exec .thermalCoolTimer s = .next { s with
         thm := { s.thm with coolFrom := some s.nowUs } }) ∧
       (s.thm.graceEnd = none → s.thm.enforced ≠ 0 → ∃ t, exec .thermalCoolTimer s = .next t ∧
         t.thm.enforced = s.thm.enforced - 1 ∧ t.thm.stage = s.thm.enforced - 1 ∧
         t.cms.wTherm = wOf (s.thm.enforced - 1) ∧ t.pm.tcap = capOf (s.thm.enforced - 1) ∧
         t.thm.coolFrom = some s.nowUs ∧ t.zones = s.zones ∧ t.sectors = s.sectors))) ∧
  (∀ s : State,
     (s.thm.stopping = true → s.boot.phase = .released → s.hold.brace = false →
       (∀ kv ∈ s.cmds, kv.2.phase ≠ .started) →
       ∃ t, exec .thermalHalt s = .next t ∧ t.boot.phase = .thermal ∧ t.thm.halted = true ∧
         t.thm.stay = decide (3 ≤ t.thm.haltTimes.length) ∧ t.thm.haltTimes ≠ [] ∧ t.glb.miFrozen ≠ none ∧
         t.cmds = [] ∧ t.ctrls = [] ∧ t.sqs = [] ∧ t.comms = [] ∧ t.cipher.keys = [] ∧
         nonvolatile t = nonvolatile s) ∧
     (s.boot.phase = .thermal → s.thm.stay = false → ∃ t, exec .thermalHaltRestart s = .next t ∧
       t.boot.phase = .rails ∧ t.glb.reset = 5 ∧ t.board.railEn = 0 ∧ t.opUs = 0 ∧ IslandsReset s t) ∧
     (s.boot.phase = .thermal → s.thm.stay = true → exec .thermalHaltRestart s = .next s) ∧
     (∀ n, n ∈ [0, 3, 5, 19] → s.boot.phase ≠ .off → ∃ t, exec (.trip n) s = .next t ∧
       t.board.thermTrip = true ∧ t.board.railEn = 0 ∧ t.boot.phase = .tripped ∧ t.thm.trippedBit = true ∧
       IslandsReset s t))

/-! ### Clocks (R394 to R406) -/

/-- R396 to R400: a window in range is only counted; one out of range, or a PLL of the islands that loses lock, puts
the fallback clocks in force where the RCO can, holds the device where it cannot, and breaches the live commissions;
the orderly flush that follows leaves admin commands alone served. Not of the rules: which losses mean fallback is
DEDUCED (notes/assumptions/29.md). -/
def Obligations.ClocksFallBack : Prop :=
  ∀ s : State,
    (∀ n gap, monitorOn s = true → countBad s n = false → exec (.clockMonitorTrip (some n) gap) s = .next { s with
      clk := { s.clk with lastCnt := satTo 16 n } }) ∧
    (∀ (i : Instr),
      ((∃ n gap, i = .clockMonitorTrip (some n) gap ∧ monitorOn s = true ∧ countBad s n = true) ∨
        (∃ gap, i = .clockMonitorTrip none gap ∧ monitorOn s = true) ∨
        (∃ p, i = .pllLossOfLock p ∧ p ∈ [.q, .d, .m] ∧ bitOf s.clk.lock (pllBit p) = true)) →
      (s.clk.rcoBad = false → fallbackReady s = true →
        ∃ t, exec i s = .next t ∧ t.clk.fallback = true ∧ t.clk.trips = satAdd 16 s.clk.trips 1 ∧
          t.clk.fbFlush = s.glb.released ∧ bitOf t.glb.istat 0 = true ∧
          (∀ h ∈ liveComms s, (getComm t h).st = .breached) ∧ t.cmds = s.cmds ∧ t.zones = s.zones ∧
          t.sectors = s.sectors ∧ guarded t = guarded s) ∧
      (s.clk.rcoBad = false → fallbackReady s = false →
        ∃ t, exec i s = .next t ∧ t.clk.stopped = true ∧ t.clk.fallback = s.clk.fallback ∧ t.cmds = s.cmds ∧
          t.zones = s.zones ∧ t.sectors = s.sectors) ∧
      (s.clk.rcoBad = true →
        ∃ t, exec i s = .next t ∧ t.boot.phase = .rcoFail ∧ t.clk.rcoFail = true ∧ IslandsReset s t)) ∧
    (bitOf s.clk.lock 3 = true → exec (.pllLossOfLock .r) s = .next { s with
      clk := { s.clk with lock := clrBit s.clk.lock 3 } }) ∧
    (∀ ch, (getChan s ch).state = 2 → s.pm.ps < 3 →
      ∃ t, exec (.pllLossOfLock (.n ch)) s = .next t ∧ (getChan t ch).state = 3 ∧ guarded t = guarded s) ∧
    (s.clk.fbFlush = true → s.clk.fbDone = false → inService s = true → s.hold.brace = false →
      (∀ kv ∈ s.cmds, kv.2.phase ≠ .started) →
      ∃ t, exec .orderlyFlushComplete s = .next t ∧ t.clk.fbDone = true ∧ t.glb.adminOnly = true ∧
        fetchStopped t = true ∧ guarded t = guarded s)

/-- R389, R397, R400, R403 to R405: a fault found in the RCO leaves the XO to the monitor's other mode; the RCO is
tried again; a crossing is re-armed once its island is out of reset; a frequency measurement gives its count. Not of
the rules: what each stop leaves is DEDUCED (notes/assumptions/29.md). -/
def Obligations.ClockServicesRun : Prop :=
  ∀ s : State,
    (∀ n, monitorOn s = true → s.clk.monMode = false → ∃ t, exec (.rcoFaultJudged n) s = .next t ∧
      t.clk = { s.clk with rcoBad := true, monMode := true, lastCnt := satTo 16 n } ∧
      bitOf t.glb.istat 0 = true ∧ t.pat.events = s.pat.events + 1 ∧ t.cmds = s.cmds ∧ t.zones = s.zones ∧
      t.sectors = s.sectors) ∧
    (s.boot.phase = .rcoFail → exec .rcoRetry s = .next { s with
      clk := { s.clk with retries := satAdd 8 s.clk.retries 1 } }) ∧
    (∀ i, islandUp s i = true → exec (.crossingRearm i) s = .next { s with
      clk := { s.clk with fence := s.clk.fence.filter (· != i) } }) ∧
    (∀ n, s.clk.fRun = true →
      (refRuns s s.clk.fOn.2 = true → exec (.frequencyMeasurementDone n) s = .next { s with clk := { s.clk with
        fRun := false, fDone := true, fErr := false
        fCount := if clockRuns s s.clk.fOn.1 = true then satTo 32 n else 0 } }) ∧
      (refRuns s s.clk.fOn.2 = false → exec (.frequencyMeasurementDone n) s = .next { s with clk := { s.clk with
        fRun := false, fDone := true, fErr := true } }))

/-! ### Power states (R408, R416 to R422) -/

/-- R313, R416, R418, R419, R420, R422: an idle device enters the state its table names; once quiet it powers its
domains down with the key RAM emptied and its wrapped shadow retained, and PS4 is reached when the links sleep; the exit
gives every key back and the operational state from before. Not of the rules: when an entry begins and what ends it
are DEDUCED (notes/assumptions/30.md). -/
def Obligations.LowPowerStatesEntered : Prop :=
  ∀ s : State,
    (∀ e, s.pm.apstOn = true → s.boot.maquette = false → inService s = true → s.pm.entry = .none → s.pm.ps < 3 → quiet s = true →
      s.hold.brace = false → apstEntry s = some e →
      (liveComms s = [] → entryBarred s = false → s.hold.testing = false →
        exec .apstIdleTimer s = .next { s with pm := { s.pm with
          back := s.pm.ps, req := e.itps, entry := if e.itps = 3 then .drain3 else .drain4 } }) ∧
      ((liveComms s ≠ [] ∨ entryBarred s = true) → exec .apstIdleTimer s = .next { s with pm := { s.pm with
        apstSkip := satAdd 16 s.pm.apstSkip 1 } })) ∧
    (s.pm.entry = .drain3 → quiet s = true → inService s = true → degraded s = false → diesQuiet s = true →
      ∃ t, exec .ps3Entry s = .next t ∧ t.pm.ps = 3 ∧ t.pm.entry = .none ∧ t.pm.cnt3 = satAdd 16 s.pm.cnt3 1 ∧
        t.pm.domXcr = false ∧ t.pm.domChg = 0 ∧ t.cipher.keys = [] ∧ t.cipher.shadow = s.cipher.shadow ∧
        t.zones = s.zones ∧ t.sectors = s.sectors ∧ t.pool = s.pool) ∧
    (s.pm.entry = .drain4 → quiet s = true → inService s = true → diesQuiet (commitAll s (allSlots s)) = true →
      ∃ t, exec .ps4Entry s = .next t ∧ t.pm.entry = .wait4 ∧ t.pm.domXcr = false ∧ t.cipher.keys = [] ∧
        t.cipher.shadow = s.cipher.shadow ∧ nonvolatile t = nonvolatile s) ∧
    (s.pm.entry = .wait4 → portReady s 0 = true → portReady s 1 = true →
      ∃ t, exec .ps4L12Reached s = .next t ∧ t.pm.ps = 4 ∧ t.pm.entry = .none ∧ t.pm.domCore = false ∧
        t.pm.cnt4 = satAdd 16 s.pm.cnt4 1 ∧ t.clk.lock = 0 ∧ t.clk.xoOk = false ∧ t.glb.miFrozen ≠ none ∧
        t.cipher = s.cipher ∧ t.zones = s.zones ∧ t.sectors = s.sectors) ∧
    (∀ i src, (s.pm.entry = .wait4 ∧ i = .ps4L12Timeout ∧ src = 7) ∨
      (s.pm.entry = .none ∧ s.pm.ps = 4 ∧ src = 3 ∧
        fwCheck (fwImg s s.boot.fwSlot) s.board.fuses s.board.fuses.fwFloor = 0 ∧
        ∃ p, i = .l12ExitWake p ∧ absorbs s = false ∧ (getPort s p).dlup = true ∧ (getPort s p).link = .l12) →
      ∃ t, exec i s = .next t ∧ t.pm.ps = max s.pm.back s.pm.tcap ∧ t.pm.entry = .none ∧ t.pm.wakeSrc = src ∧
        t.pm.domXcr = true ∧ KeysBack s t ∧ t.boot.phase = .released ∧ t.glb.miFrozen = none ∧
        t.cmds = s.cmds ∧ t.zones = s.zones ∧ t.sectors = s.sectors)

/-- R408, R417, R426: each estimate is the register's value and raises its peak, and ten slices over the budget in a
row are recorded; in PS3 reserve work that is due opens a window and its end closes it, the state reported staying
PS3. Not of the rules: what the registers show meanwhile is DEDUCED (notes/assumptions/30.md). -/
def Obligations.PowerWatchedAndWindows : Prop :=
  ∀ s : State,
    (∀ e, inService s = true → s.pm.ps < 3 →
      ∃ t, exec (.powerEstimate e) s = .next t ∧ t.pm.est = satTo 16 e ∧ t.pm.peak = max s.pm.peak (satTo 16 e) ∧
        t.pm.overMs = (if budget s < e ∧ s.pm.stopB = true then s.pm.overMs + 1 else 0) ∧
        t.pm.stopB = (if budget s < e + 50 then true else if e + 100 < budget s then false else s.pm.stopB) ∧
        (t.pm.overMs = 10 → t.pm.overBudget = true ∧ bitOf t.glb.istat 1 = true ∧
          t.pat.events = s.pat.events + 1) ∧
        (t.pm.overMs ≠ 10 → t.pm.overBudget = s.pm.overBudget ∧ t.glb = s.glb ∧ t.pat = s.pat) ∧
        t.pm.ps = s.pm.ps ∧ t.cmds = s.cmds ∧ t.zones = s.zones ∧ t.sectors = s.sectors) ∧
    (s.pm.ps = 3 → s.pm.entry = .none → inService s = true →
      (s.pm.window = false → s.pm.noppme = true → reserveDue s = true →
        ∃ t, exec .noppmeWindow s = .next t ∧ t.pm.window = true ∧ t.pm.ps = 3 ∧ t.pm.wakeSrc = 5 ∧
          t.pm.domXcr = true ∧ KeysBack s t ∧ t.zones = s.zones ∧ t.sectors = s.sectors) ∧
      (s.pm.window = true → reserveDue s = false → diesQuiet s = true →
        ∃ t, exec .noppmeWindow s = .next t ∧ t.pm.window = false ∧ t.pm.ps = 3 ∧ t.pm.domXcr = false ∧
          t.cipher.keys = [] ∧ t.cipher.shadow = s.cipher.shadow ∧ t.zones = s.zones ∧ t.sectors = s.sectors) ∧
      (s.pm.window = false → (s.pm.noppme = false ∨ reserveDue s = false) → exec .noppmeWindow s = .next s))

/-! ### Start-up (R377 to R393, R460, R500 to R502) -/

/-- R385, R389, R500, R501, R502, R10: the always-on rail starts the LPO; each rail is enabled after the one before
it is good and the last starts the RCO; a rail that is late, in an exit from PS4 too (R422), or fails drops them all, after a flush where one can
run, and the sequence is tried again; the fall of the always-on rail clears everything but what is stored. Not of
the rules: what is left before the always-on rail is good is the model's choice (notes/assumptions/5.md). -/
def Obligations.RailsRiseAndFail : Prop :=
  ∀ s : State,
    (s.boot.phase = .off → exec .pgAonRise s = .next { s with
      nowUs := 0, board := { s.board with pgAon := true, pfail := false, pfailLowUs := 0 }
      boot := { s.boot with phase := .lpo }
      glb := { s.glb with reset := 0 } }) ∧
    (s.boot.phase = .lpo → exec .lpoStable s = .next { s with
      board := { s.board with railEn := 1 }, boot := { s.boot with phase := .rails } }) ∧
    (s.boot.phase = .rails → railsOn s < 8 → (railsOn s = 0 ∨ bitOf s.board.pg (railsOn s - 1) = true) →
      exec .railEnable s = .next { s with board := { s.board with railEn := setBit s.board.railEn (railsOn s) } }) ∧
    (∀ r, bitOf s.board.railEn (railBit r) = true →
      let pg := setBit s.board.pg (railBit r)
      (s.boot.phase ≠ .rails ∨ pg ≠ 255 → exec (.pgAssert r) s = .next { s with board := { s.board with pg := pg } }) ∧
      (s.boot.phase = .rails → pg = 255 → exec (.pgAssert r) s = .next { s with
        board := { s.board with pg := pg }, boot := { s.boot with phase := .rco, railFails := 0 } })) ∧
    (∀ i, (i = .pgTimeout ∧ (s.boot.phase = .rails ∧ s.board.railEn ≠ s.board.pg ∨ inPs4 s = true)) ∨
      (∃ r, i = .pgFall r ∧ bitOf s.board.railEn (railBit r) = true ∧ bitOf s.board.pg (railBit r) = true ∧
        (flushSpares r = false ∨ s.boot.phase = .rails ∨ s.boot.phase = .mount ∨ s.boot.phase = .ready)) →
      ∃ t, exec i s = .next t ∧ t.board.railEn = 0 ∧ t.board.pg = 0 ∧ t.glb.pwrFault = true ∧
        t.boot.railFails = s.boot.railFails + 1 ∧
        t.boot.phase = (if 2 ≤ s.boot.railFails then .railHold else .railWait) ∧ IslandsReset s t) ∧
    (∀ r, bitOf s.board.railEn (railBit r) = true → bitOf s.board.pg (railBit r) = true → flushSpares r = true →
      s.boot.phase = .released → s.pm.entry = .none → s.pm.ps ≠ 4 →
      ∃ t, exec (.pgFall r) s = .next t ∧ FlushBegun s t .flushing ∧ t.boot.railPend = true) ∧
    (s.boot.phase = .railWait → ∃ t, exec .railFaultRetry s = .next t ∧ t.boot.phase = .rails ∧ t.glb.reset = 7 ∧
      t.board.railEn = 0 ∧ t.boot.railFails = s.boot.railFails ∧ IslandsReset s t) ∧
    (s.boot.phase ≠ .off → ∃ t, exec .pgAonFall s = .next t ∧ t.boot.phase = .off ∧ t.board.pgAon = false ∧
      t.glb = {} ∧ t.clk = {} ∧ t.thm = {} ∧ IslandsReset s t)

/-- R305 to R307, R335, R338, R377, R378, R384, R385, R389, R394 to R400: with the RCO stable the straps are sampled and
the charger runs, and after a device warm reset in PS4 the straps and fuses stand; two equal readings of the fuses are in
force with no bit of them lowered; the XO and the PLLs
lock, or start-up or the exit from PS4 (R422) goes on with fallback clocks; the islands leave reset with the
entropy source tested and the DRBG seeded from it, or from the fallback seed where it has failed. -/
def Obligations.ClocksStartAndIslandsLeaveReset : Prop :=
  ∀ s : State,
    (∀ st, s.boot.phase = .rco ∨ (s.boot.phase = .rcoFail ∧ s.clk.stopped = false) →
      (s.board.pfail = false → ∃ t, exec (.rcoStable st) s = .next t ∧
        (s.boot.warm = false → t.boot.phase = .fuse ∧ t.board.straps = st) ∧
        (s.boot.warm = true → t.boot.phase = .xo ∧ t.board.straps = s.board.straps ∧ t.boot.warm = false) ∧
        t.board.fuses = s.board.fuses ∧ t.board.chgEn = true ∧ t.clk = { s.clk with rcoRun := true } ∧
        t.sectors = s.sectors ∧ guarded t = guarded s) ∧
      (s.board.pfail = true → ∃ t, exec (.rcoStable st) s = .next t ∧ t.boot.phase = .halted ∧
        t.board.chgEn = false ∧ IslandsReset s t)) ∧
    (∀ st, s.boot.phase = .rcoFail → s.clk.stopped = true → exec (.rcoStable st) s = .next { s with
      boot := { s.boot with phase := .islands }
      clk := { s.clk with rcoRun := true, stopped := false, fallback := true, lock := 8 } }) ∧
    (∀ st, s.boot.phase = .released → s.clk.stopped = true → ∃ t, exec (.rcoStable st) s = .next t ∧
      t.clk.fallback = true ∧ t.clk.stopped = false ∧ t.cmds = s.cmds ∧ t.sectors = s.sectors ∧
      guarded t = guarded s) ∧
    (s.boot.phase = .rco → exec .rcoStableTimeout s = .next { s with
      boot := { s.boot with phase := .rcoFail }, clk := { s.clk with rcoFail := true } }) ∧
    (s.boot.phase = .released → s.clk.stopped = true → ∃ t, exec .rcoStableTimeout s = .next t ∧
      t.boot.phase = .rcoFail ∧ t.clk.rcoFail = true ∧ IslandsReset s t) ∧
    (∀ f g : Fuses, s.boot.phase = .fuse →
      (f = g → exec (.fuseLoad f g) s = .next { s with
        boot := { s.boot with phase := .xo }
        board := { s.board with fuses := fuseRise s.board.fuses f }
        thm := { s.thm with
          warn := s.board.fuses.warn ||| f.warn, hot := s.board.fuses.hot ||| f.hot
          crit := s.board.fuses.crit ||| f.crit } }) ∧
      (fuseRise s.board.fuses f).armEpoch = max s.board.fuses.armEpoch f.armEpoch ∧
      (fuseRise s.board.fuses f).fwFloor = max s.board.fuses.fwFloor f.fwFloor ∧
      (fuseRise s.board.fuses f).lifecycle = max s.board.fuses.lifecycle f.lifecycle ∧
      (∀ b, bitOf s.board.fuses.rankEn b = true → bitOf (fuseRise s.board.fuses f).rankEn b = true) ∧
      (f ≠ g → exec (.fuseLoad f g) s = .next { s with
        boot := { s.boot with phase := .fuseHold }, glb := { s.glb with fuseFault := true } })) ∧
    (s.boot.phase = .xo →
      exec .xoStable s = .next { s with
        boot := { s.boot with phase := .pll, pllTried := 0, pllDone := 0 }
        clk := { s.clk with xoOk := true, monOff := false } } ∧
      exec .xoStableTimeout s = .next { s with
        boot := { s.boot with phase := .islands }, glb := { s.glb with istat := setBit s.glb.istat 0 }
        clk := { s.clk with fallback := true, lock := setBit s.clk.lock 3 } }) ∧
    (inPs4 s = true → fwCheck (fwImg s s.boot.fwSlot) s.board.fuses s.board.fuses.fwFloor = 0 →
      ∃ t, exec .xoStableTimeout s = .next t ∧ t.boot.phase = .released ∧ t.pm.entry = .none ∧ t.clk.fallback = true ∧
        t.clk.xoOk = false) ∧
    (∀ p, p ∈ [.q, .d, .m] → s.boot.phase = .pll → bitOf s.boot.pllDone (pllBit p) = false →
      let done := setBit s.boot.pllDone (pllBit p)
      let ph : Phase := if bitOf done 0 = true ∧ bitOf done 1 = true then .islands else .pll
      exec (.pllLock p) s = .next { s with
        boot := { s.boot with phase := ph, pllDone := done }
        clk := { s.clk with lock := setBit s.clk.lock (pllBit p) } } ∧
      (bitOf s.boot.pllTried (pllBit p) = false → exec (.pllLockTimeout p) s = .next { s with
        boot := { s.boot with pllTried := setBit s.boot.pllTried (pllBit p) } }) ∧
      (bitOf s.boot.pllTried (pllBit p) = true → exec (.pllLockTimeout p) s = .next { s with
        boot := { s.boot with phase := ph, pllDone := done }, glb := { s.glb with istat := setBit s.glb.istat 0 }
        clk := { s.clk with fallback := true, lock := setBit s.clk.lock 3 } })) ∧
    (s.clk.rcoRun = true → exec (.pllLock .r) s = .next { s with
      clk := { s.clk with lock := setBit s.clk.lock 3 } }) ∧
    (mayLockM s = true → exec (.pllLock .m) s = .next { s with clk := { s.clk with lock := setBit s.clk.lock 2 } }) ∧
    (∀ ch, exec (.pllLock (.n ch)) s = .next s ∧ exec (.pllLockTimeout (.n ch)) s = .next s) ∧
    (∀ fails : List Bool, s.boot.phase = .islands → ∃ t, exec (.islandsOutOfReset fails) s = .next t ∧
      t.boot.phase = .choice ∧ t.cipher.drbg = 1 ∧ t.board.chgEn = true ∧ t.clk.fence = [] ∧ t.pm.domCore = true ∧
      t.pm.domXcr = true ∧
      (s.cipher.trng ≠ 3 → fails = [] ∨ s.cipher.trngFails + fails.length < 3 →
        t.cipher.trng = 1 ∧ t.cipher.trngFails = 0 ∧ t.cipher.seedSrc = false ∧ t.pat = s.pat) ∧
      (s.cipher.trng ≠ 3 → fails ≠ [] → 3 ≤ s.cipher.trngFails + fails.length →
        t.cipher.trng = 3 ∧ t.cipher.seedSrc = true ∧ t.pat.events = s.pat.events + 1 ∧ bitOf t.glb.istat 7 = true) ∧
      (s.cipher.trng = 3 → t.cipher.trng = 3 ∧ t.cipher.seedSrc = true ∧ t.pat = s.pat) ∧ t.sectors = s.sectors ∧
      guarded t = guarded s)

/-- R37, R38, R45, R65, R89, R351, R379, R384, R385, R388 to R391, R459, R460: the choice runs the first firmware
slot that has a structure it can load, or the Maquette; the mount gives back what the media and the saved key table
hold; release raises the floors and makes enabled controllers ready; a missed report starts the islands again and a
silent firmware in service is a device warm reset. Not of the rules: what counts as a fallback is DEDUCED
(notes/assumptions/32.md), what makes the outcome of the mount too (notes/assumptions/33.md). -/
def Obligations.SystemIsChosenMountedReleased : Prop :=
  ∀ s : State,
    (∀ b, s.boot.phase = .choice →
      (mfgTest s = true → exec (.firmwareAndStructureChoice b) s = .next { s with
        boot := { s.boot with phase := .mfg } }) ∧
      (mfgTest s = false → b.silent = false → s.boot.restarts < 4 →
        (∀ f k, (choose s b).run = some (f, k) → ∃ t, exec (.firmwareAndStructureChoice b) s = .next t ∧
          t.boot.phase = .mount ∧ t.boot.fwSlot = f ∧ t.boot.fwRoll = fwImg s f 0xC ∧ t.arm.src = k ∧
          t.arm.seq = u64 (armImg s k) 0x10 ∧ t.arm.cfg = parseArm (armImg s k) s.board.fuses ∧
          t.boot.maquette = s.boot.maquette ∧ t.sectors = s.sectors ∧ guarded t = guarded s) ∧
        ((choose s b).run = none → ∃ t, exec (.firmwareAndStructureChoice b) s = .next t ∧
          t.boot.phase = .mount ∧ t.boot.maquette = true ∧ t.arm.src = 2 ∧ t.sectors = s.sectors ∧
          guarded t = guarded s)) ∧
      (mfgTest s = false → b.silent = true ∨ 4 ≤ s.boot.restarts →
        ∃ t, exec (.firmwareAndStructureChoice b) s = .next t ∧ t.boot.phase = .mount ∧ t.boot.romRec = true ∧
          t.boot.maquette = true ∧ t.boot.fwSlot = 3 ∧ guarded t = guarded s)) ∧
    (∀ m, s.boot.phase = .mount →
      ((s.boot.romRec = true ∨ (s.boot.maquette = true ∧ s.arm.mirrorCfg = none)) →
        exec (.plinthMount m) s = .next { s with boot := { s.boot with phase := .ready } }) ∧
      (s.boot.romRec = false → s.boot.maquette = false → channelsUp s = true → m.blank = false →
        (m.readable = true → (outcomeOf s m = 0 ∨ (outcomeOf s m = 1 ∧ s.plinth.bandSeq = s.arm.seq)) →
          (∀ kv ∈ s.rows, kv.2.dest = none) → s.plinth.progFails = [] → m.badKeys = [] → s.board.fuses.lifecycle ≠ 7 →
          (∀ kv ∈ s.cipher.table, (unwrapEntry s kv.1 kv.2).isSome = true) → s.arm.made.contains s.arm.seq = true →
          ∃ t, exec (.plinthMount m) s = .next t ∧ t.boot.phase = .ready ∧ t.plinth.mounted = true ∧
            t.cipher.shadow = s.cipher.table ∧ KeysBack t t ∧
            t.hold.outcome = outcomeOf s m ∧ t.zones = s.zones ∧ t.sectors = s.sectors ∧ t.rows = s.rows ∧
            t.stripes = s.stripes ∧ nonvolatile t = nonvolatile s) ∧
        (m.readable = false → ∃ t, exec (.plinthMount m) s = .next t ∧ t.boot.phase = .ready ∧
          t.boot.maquette = true ∧ t.plinth = s.plinth ∧ t.sectors = s.sectors ∧ guarded t = guarded s)) ∧
      (s.boot.romRec = false → s.boot.maquette = false → channelsUp s = true → m.blank = true →
        ∃ t, exec (.plinthMount m) s = .next t ∧ t.boot.phase = .ready ∧ t.plinth.mounted = true ∧
          t.sectors = [] ∧ t.zones = [] ∧ nonvolatile t = nonvolatile s)) ∧
    (s.boot.phase = .ready → twf {} s.ctrls = true →
      ∃ t, exec .startUpRelease s = .next t ∧ t.boot.phase = .released ∧ t.glb.released = true ∧
        (∀ c, (getCtrl s c).en = true → (getCtrl t c).rdy = true) ∧
        t.board.fuses.armEpoch = (if s.boot.maquette then s.board.fuses.armEpoch
          else max s.board.fuses.armEpoch s.arm.epoch) ∧
        t.board.fuses.fwFloor = (if s.boot.romRec then s.board.fuses.fwFloor
          else max s.board.fuses.fwFloor s.boot.fwRoll) ∧
        t.boot.flash = s.boot.flash ∧ t.cipher = s.cipher ∧ t.zones = s.zones ∧ t.sectors = s.sectors) ∧
    ((s.boot.phase = .mount ∨ s.boot.phase = .ready) → ∃ t, exec .startUpWatchdogExpiry s = .next t ∧
      t.boot.phase = .islands ∧ t.boot.restarts = satAdd 4 s.boot.restarts 1 ∧
      (s.boot.romRec = false → s.boot.fwSlot ∈ t.boot.failed) ∧ IslandsReset s t) ∧
    (watchdogArmed s = true → ∃ t, exec .serviceWatchdogExpiry s = .next t ∧ FlushBegun s t .resetFlush ∧
      t.glb.reset = 3 ∧ t.glb.wdog = satAdd 8 s.glb.wdog 1 ∧ t.glb.devwarm = satAdd 8 s.glb.devwarm 1 ∧
      t.pat.events = s.pat.events + 1)

/-! ### The sideband (R93 to R96) -/

/-- R94, R95, R96: a transaction with a bad PEC is dropped; the status block is answered also in PS4 and in a thermal
halt, from the frozen values; every MCTP command is answered while its endpoint is up, and only Configuration Set
changes more than the answer. The layout of the answers is NVMe-MI's (notes/assumptions/11.md). -/
def Obligations.SidebandAnswers : Prop :=
  ∀ s : State,
    let ans := fun (t : State) (l : List Fld) => { t with glb := { t.glb with
      miReplies := t.glb.miReplies + 1, miLast := l.filter (fun f => f.v != 0) } }
    let mi := fun (t : State) (st : Nat) (l : List Fld) =>
      ans t (⟨0, 1, st⟩ :: l.map (fun f => { f with off := f.off + 4 }))
    (∀ i, (i = .smbusBasicManagementCommand false ∨ (∃ o d c, i = .readNvmeMiDataStructure false o d c) ∨
        i = .nvmSubsystemHealthStatusPoll false ∨ (∃ c, i = .controllerHealthStatusPoll false c) ∨
        (∃ d, i = .configurationGet false d) ∨ (∃ d v, i = .configurationSet false d v) ∨
        (∃ o l, i = .vpdRead false o l) ∨ (∃ o r, i = .tunnelledAdminCommand false o r)) →
      exec i s = .next s) ∧
    (basicUp s = true → exec (.smbusBasicManagementCommand true) s = .next (ans s (miBlock s))) ∧
    (mctpUp s = true →
      (∀ o d c, o ≠ 0 → exec (.readNvmeMiDataStructure true o d c) s = .next (mi s 3 [])) ∧
      (∀ c, exec (.readNvmeMiDataStructure true 0 0 c) s = .next
        (mi s 0 [⟨0, 1, b2n (portPresent s 1)⟩, ⟨1, 1, 1⟩, ⟨2, 1, 2⟩])) ∧
      (∀ c, exec (.readNvmeMiDataStructure true 0 2 c) s = .next (mi s 0 (ctrlList ((List.range 128).filter (fnExists s))))) ∧
      (∀ c, fnExists s c = true → exec (.readNvmeMiDataStructure true 0 3 c) s = .next (mi s 0 [⟨0, 1, c / 64⟩,
        ⟨8, 2, if c % 64 = 0 then 0x1EA7 else 0xFFFF⟩, ⟨10, 2, if c % 64 = 0 then 0x0A24 else 0x0A25⟩, ⟨12, 2, 0x1EA7⟩,
        ⟨14, 2, 0x0024⟩])) ∧
      (∀ c, fnExists s c = false → exec (.readNvmeMiDataStructure true 0 3 c) s = .next (mi s 4 [])) ∧
      exec (.nvmSubsystemHealthStatusPoll true) s = .next (mi s 0 [⟨0, 1, miFlags s⟩,
        ⟨1, 1, 255 - critWarn s 0 0 % 256⟩, ⟨2, 1, min 126 (s.thm.composite - 273)⟩,
        ⟨3, 1, 100 - spareShare s 0⟩]) ∧
      (∀ c, fnExists s c = true → ∃ l, exec (.controllerHealthStatusPoll true c) s = .next (mi s 0 l) ∧
        ⟨4, 2, s.thm.composite⟩ ∈ l ∧ ⟨2, 2, b2n (getCtrl s c).rdy + 4 * (getCtrl s c).shst⟩ ∈ l) ∧
      (∀ c, fnExists s c = false → exec (.controllerHealthStatusPoll true c) s = .next (mi s 4 [])) ∧
      exec (.configurationGet true 1) s = .next (mi s 0 [⟨0, 1, s.glb.miFreq⟩]) ∧
      exec (.configurationGet true 3) s = .next (mi s 0 [⟨0, 2, s.glb.miMtu⟩]) ∧
      (∀ v, 1 ≤ v → v ≤ 3 → exec (.configurationSet true 1 v) s =
        .next (mi { s with glb := { s.glb with miFreq := v } } 0 [])) ∧
      (∀ v, 64 ≤ v → v ≤ 250 → exec (.configurationSet true 3 v) s =
        .next (mi { s with glb := { s.glb with miMtu := v } } 0 [])) ∧
      (∀ d v, d ≠ 1 → d ≠ 3 → exec (.configurationSet true d v) s = .next (mi s 4 [])) ∧
      (∀ o l, exec (.vpdRead true o l) s = .next
        (mi s 0 ((List.range l).map (fun j => ⟨j, 1, Config.vpdByte (o + j)⟩)))) ∧
      (∀ o r, ∃ st l, exec (.tunnelledAdminCommand true o r) s = .next (mi s st l) ∧
        (o ∉ [2, 6, 0xA] → st = 3 ∧ l = []) ∧ (o ∈ [2, 6, 0xA] → st = 0 ∧ l ≠ [])))

/-! ### The management window (R236, R255, R293, R329, R358, R376, R403, R406, R426, R439, R453, R480 to R490) -/

/-- R236, R255, R293, R329, R358, R376, R426, R439, R453, R485: each block's CLR bit returns that block's counters to
their reset values and touches nothing else. -/
def Obligations.CountersCleared : Prop :=
  ∀ (s : State) (port : Nat), hostCan s (port * 64) = true →
    let u := reached s port
    hostCan u (port * 64) = true →
    ((getPort s port).link = .l0 → s.pm.ps ≠ 4 → u = s) ∧
    (accKind u 0x6001C 1 15 true = none → exec (.schCtrlClr port) s = .next { u with sched := { u.sched with
      peak := iccUsed u, suspends := 0, urgOver := 0, miss := 0, tokwait := 0, minSlack := [] } }) ∧
    (∀ ch, ch < 32 → accKind u (0x100024 + 0x1000 * ch) 1 15 true = none →
      exec (.chnCtrlClr port ch) s = .next { u with chans := tset {} u.chans ch { getChan u ch with
        zq := 0, track := 0, stepdowns := 0, quick := 0, fails := 0, progTo := 0, readTo := 0 } }) ∧
    (accKind u 0x50010 1 15 true = none → ∃ t, exec (.poolCtrlClr port) s = .next t ∧ t.pool.badFree = 0 ∧
      t.pool.bufs = u.pool.bufs ∧
      (∀ n c, n ∈ validNiches u → n < 64 → c < 5 → (tget {} t.pool.cnt (n * 8 + c) : PoolCnt) =
        { minFree := some (poolFree u n c) }) ∧
      t.cmds = u.cmds ∧ t.zones = u.zones ∧ t.sectors = u.sectors) ∧
    (accKind u 0x800E0 1 15 true = none → exec (.xcrCtrlClr port) s = .next { u with cipher := { u.cipher with
      rct := 0, apt := 0, sourceRestarts := 0, reseeds := 0, maskSeeds := 0, generated := 0, destroyed := 0
      imports := 0, importFails := 0, seals := 0
      engs := u.cipher.engs.map (fun v => { v with urgWait := 0 }) } }) ∧
    (accKind u 0xA0020 1 15 true = none → exec (.hldCtrlClr port) s = .next { u with hold := { u.hold with
      vinMin := 65535, huvMin := 65535, braces := 0, tests := 0 } }) ∧
    (accKind u 0x90028 1 15 true = none → exec (.fedCtrlClr port) s = .next { u with
      ports := tmap {} u.ports (fun _ v => { v with ptmSeq := 0 })
      fed := { u.fed with
        off := 0, maxOff := 0, missed := 0, crcErr := 0, early := 0, late := 0, unlocks := 0, steps := 0 } }) ∧
    (accKind u 0x20020 1 15 true = none → exec (.pmCtrlClr port) s = .next { u with pm := { u.pm with
      peak := 0, cnt3 := 0, cnt4 := 0, max := 0, refused := 0, apstSkip := 0 } }) ∧
    (accKind u 0x3001C 1 15 true = none → exec (.thmCtrlClr port) s = .next { u with thm := { u.thm with
      maxK := 0, hotUs := 0, stageUps := 0 } }) ∧
    (accKind u 0x40024 1 15 true = none → exec (.patCtrlClr port) s = .next { u with pat := { u.pat with
      drops := 0, dropMax := 0, overwrites := 0, repeats := 0, count := 0 } }) ∧
    (accKind u 0x48 1 15 true = none → exec (.glbCtrlClrAcc port) s = .next { u with glb := { u.glb with
      accReads := 0, accWrites := 0 } })

/-- R329, R339, R376, R403, R406, R426, R439, R445, R481, R484, R486, R487, R490: a written 1 clears its bit and a
written 0 leaves it; a latch, a selection and a request take effect; a refused access is logged with its kind, and a
dropped write recorded; a request to the recorder takes a slot. Not of the rules: views the rules leave to the
reader are DEDUCED (notes/assumptions/34.md). -/
def Obligations.RegistersWrittenAndRefused : Prop :=
  (∀ (s : State) (port : Nat), hostCan s (port * 64) = true →
    let u := reached s port
    hostCan u (port * 64) = true →
    (∀ m, accKind u 0x20 1 15 true = none → ∃ t, exec (.glbIstatClear port m) s = .next t ∧
      (∀ b, b < 15 → bitOf t.glb.istat b = (bitOf u.glb.istat b && !(bitOf m b))) ∧ t.cmds = u.cmds ∧
      t.zones = u.zones ∧ t.glb = { u.glb with istat := t.glb.istat }) ∧
    (∀ m, accKind u 0x28 1 15 true = none → ∃ t, exec (.glbAlertClear port m) s = .next t ∧
      t.glb = { u.glb with
        pwrFault := u.glb.pwrFault && !(bitOf m 0), fuseFault := u.glb.fuseFault && !(bitOf m 1)
        bootFlash := u.glb.bootFlash && !(bitOf m 2) } ∧ t.cmds = u.cmds ∧ t.zones = u.zones) ∧
    (∀ n m, n < 64 → nicheValid u n = true → accKind u (0x200030 + 0x1000 * n) 1 15 true = none →
      exec (.nchIstatClear port n m) s = .next { u with niches := tset {} u.niches n { getNch u n with istat := clrMask 8 (getNch u n).istat m } }) ∧
    (∀ m, accKind u 0x10004 1 15 true = none → ∃ t, exec (.clkFaultClear port m) s = .next t ∧
      t.clk = { u.clk with
        rcoFail := u.clk.rcoFail && !(bitOf m 0), xoTrip := u.clk.xoTrip && !(bitOf m 1)
        pllTrip := u.clk.pllTrip && !(bitOf m 2) } ∧ t.cmds = u.cmds ∧ t.zones = u.zones) ∧
    (∀ m, accKind u 0x30014 1 15 true = none → exec (.thmHaltClear port m) s = .next { u with thm := { u.thm with
      halted := u.thm.halted && !(bitOf m 0), trippedBit := u.thm.trippedBit && !(bitOf m 1) } }) ∧
    (accKind u 0x20000 1 15 true = none → exec (.pmOverbudgetClear port) s = .next { u with
      pm := { u.pm with overBudget := false } }) ∧
    (∀ n, accKind u 0x80070 1 15 true = none → exec (.xcrTkselWrite port n) s = .next (selectTk u n)) ∧
    (accKind u 0xA001C 1 15 true = none → inService u = true → u.hold.testing = false → u.pm.entry = .none →
      testReady u = true → exec (.hldTestRun port) s = .next { u with
        board := { u.board with chgEn := false }
        hold := { u.hold with testing := true, deferred := false, v0 := none, testUs := 0, nextHu := true }
        thm := { u.thm with mode := 1 } }) ∧
    (accKind u 0x90008 1 15 false = none → exec (.fedTimeLoRead port) s = .next { u with fed :=
      if port = 0 then { u.fed with latch0 := u.fed.time / 2 ^ 32 % 2 ^ 32 }
      else { u.fed with latch1 := u.fed.time / 2 ^ 32 % 2 ^ 32 } }) ∧
    (∀ sel ref n, accKind u 0x10010 1 15 true = none → sel < 64 → ref < 4 → n < 32 → u.clk.fRun = false →
      (refRuns u ref = true → 4 ≤ n → n ≤ 20 → exec (.clkFmcStart port sel ref n) s = .next { u with clk := { u.clk with
        fSel := sel, fRef := ref, fN := n, fRun := true, fOn := (sel, ref), fDone := false, fErr := false } }) ∧
      ((refRuns u ref = false ∨ n < 4 ∨ 20 < n) → exec (.clkFmcStart port sel ref n) s = .next { u with
        clk := { u.clk with fSel := sel, fRef := ref, fN := n, fDone := true, fErr := true } })) ∧
    (∀ x, accKind u 0x24 1 15 true = none → exec (.bar2RegisterWrite port 0x24 1 15 x) s = .next { u with
      glb := { u.glb with ien := x % 32768 } }) ∧
    (∀ j x, j < 4 → accKind u (0x50 + 4 * j) 1 15 true = none →
      exec (.bar2RegisterWrite port (0x50 + 4 * j) 1 15 x) s = .next { u with
        glb := { u.glb with scratch := tset 0 u.glb.scratch j (x % 2 ^ 32) } }) ∧
    (∀ o dw be, accKind u o dw be false = none → exec (.bar2ReadRefused port o dw be) s = .next u) ∧
    (∀ o dw be kind, accKind u o dw be false = some kind → ∃ t, exec (.bar2ReadRefused port o dw be) s = .next t ∧
      t = { u with glb := t.glb } ∧ t.glb.accOff = o ∧ t.glb.accKind = kind ∧ t.glb.accWrite = false ∧
      t.glb.accReads = satAdd 16 u.glb.accReads 1 ∧ bitOf t.glb.istat 14 = true) ∧
    (∀ o dw be x kind, accKind u o dw be true = some kind →
      ∃ t, exec (.bar2RegisterWrite port o dw be x) s = .next t ∧ t.glb.accOff = o ∧ t.glb.accKind = kind ∧
        t.glb.accWrite = true ∧ t.glb.accWrites = satAdd 16 u.glb.accWrites 1 ∧ bitOf t.glb.istat 14 = true ∧
        t.pat.events = u.pat.events + 1 ∧ t.cmds = u.cmds ∧ t.zones = u.zones ∧ t.sectors = u.sectors) ∧
    (∀ o dw be w, accKind u o dw be w = (if 1 < dw ∨ (w = true ∧ be ≠ 15) then some 3
      else if absent o = true then some 2 else if domainOff u o = true then some 1
      else if gated u o = true then some 0 else none))) ∧
  (∀ (s : State) (r : PatReq), running s = true → r.sev ≠ 7 → s.pat.last = none →
    ∀ k, tfree s.pat.ring 16384 0 = some k →
    exec (.patinaRequest r) s = .next { s with pat := { s.pat with
      events := s.pat.events + 1, last := some k
      ring := tset {} s.pat.ring k { mkPat s r with
        seqa := nextSeqa (tget ({} : PatRec) s.pat.ring k).seqa, num := s.pat.events + 1 } } })

/-! ### Every step -/

/-- A step with a command at the front of the queue runs that command with the queue's rest; with nothing waiting one
microsecond passes (notes/assumptions/2.md). -/
def Obligations.StepRunsTheFrontCommand : Prop :=
  (∀ (s : State) (i : Instr) (rest : List Instr), s.pending = i :: rest →
    step s = exec i { s with pending := rest }) ∧
  (∀ s : State, s.pending = [] →
    ((∀ kv ∈ s.ctrls, kv.2.shst ≠ 1) → step s = .next { s with
      nowUs := s.nowUs + 1
      opUs := if housekeepingUp s = true ∧ s.pm.ps ≠ 4 then s.opUs + 1 else s.opUs
      fed := if fedCounts s = true then
          let d : Int := if s.fed.adjUs = 0 then 0 else s.fed.adj.tdiv s.fed.adjUs
          { s.fed with
            time := (((s.fed.time + (1000000000 + s.fed.frac) / s.fed.spacing : Nat) : Int) + d).toNat
            frac := (1000000000 + s.fed.frac) % s.fed.spacing, adj := s.fed.adj - d, adjUs := s.fed.adjUs - 1 }
        else s.fed }) ∧
    ∃ t, step s = .next t ∧ guarded t = guarded s)

/-- No command stops the machine: every command, in every state, has a next state (notes/assumptions/1.md). -/
def Obligations.EveryCommandHasANextState : Prop :=
  ∀ (i : Instr) (s : State), ∃ t, exec i s = .next t

/-- R36, R310, R312, R313: an invariant of every step. No key ever comes back: every key in the key RAM, in its
shadow and in the saved table was drawn before the next number and no two slots of one of them hold the same key;
and the boot flash stays in canonical form. Not of the rules: that the keys are numbered as they are drawn is the model's choice
(notes/assumptions/8.md). -/
def Obligations.KeysStayFresh : Prop :=
  ∀ s t : State, KeysFresh s → FlashCanonical s → step s = .next t → KeysFresh t ∧ FlashCanonical t

/-- Of all commands, Armature Stage Write and Firmware Commit alone write the boot flash, Firmware Commit and the end of an
activation alone its headers, and the fuse load and start-up release alone the fuses; and no command lowers a floor
that the fuses hold (R36, R44, R45, R58, R133, R378, R381, R384, R390). -/
def Obligations.StoredImagesChangeOnlyByTheirCommands : Prop :=
  ∀ (i : Instr) (s t : State), exec i s = .next t →
    (t.boot.flash ≠ s.boot.flash → (∃ c cid slot o n d f, i = .armatureStageWrite c cid slot o n d f) ∨
      ∃ c cid ca fs rd, i = .firmwareCommit c cid ca fs rd) ∧
    ((t.boot.hdr0 ≠ s.boot.hdr0 ∨ t.boot.hdr1 ≠ s.boot.hdr1) →
      i = .firmwareActivationDrained ∨ ∃ c cid ca fs rd, i = .firmwareCommit c cid ca fs rd) ∧
    (t.board.fuses ≠ s.board.fuses → i = .startUpRelease ∨ ∃ f g, i = .fuseLoad f g) ∧
    s.board.fuses.armEpoch ≤ t.board.fuses.armEpoch ∧ s.board.fuses.fwFloor ≤ t.board.fuses.fwFloor

/-- The machine at reset meets the invariants: no key, nothing in the boot flash, and no command waits. Not of the
rules: the blank state before power is the model's choice (notes/assumptions/5.md). -/
def Obligations.ResetMeetsTheInvariants : Prop :=
  KeysFresh State.reset ∧ FlashCanonical State.reset ∧ State.reset.pending = [] ∧ State.reset.boot.phase = .off ∧
    State.reset.board.perst0 = true ∧ State.reset.board.perst1 = true
end

