-- ==== Sys2Proof/Laws/Guarded.lean ====
section
/-! SUPPORT. Every shared operation and command that leaves the keys and the stored images alone, one lemma
each: `guarded` is what they hold together. -/

set_option linter.unreachableTactic false
set_option linter.unusedTactic false
set_option linter.unnecessarySeqFocus false

namespace Sys2Proof.Machine

@[simp] theorem guarded_mk (x0 x1 x2 x3 x4 x5 x6 x7 x8 x9 x10 x11 x12 x13 x14 x15 x16 x17 x18 x19 x20 x21 x22 x23 x24 x25 x26 x27 x28 x29 x30 x31 x32 x33 x34 x35 x36) :
    guarded (State.mk x0 x1 x2 x3 x4 x5 x6 x7 x8 x9 x10 x11 x12 x13 x14 x15 x16 x17 x18 x19 x20 x21 x22 x23 x24 x25 x26 x27 x28 x29 x30 x31 x32 x33 x34 x35 x36) =
      ⟨x28.keys, x28.shadow, x28.table, x28.nextSer, x4.flash, x4.hdr0, x4.hdr1, x3.fuses⟩ := rfl

@[simp] theorem guarded_fold (s : State) :
    (⟨s.cipher.keys, s.cipher.shadow, s.cipher.table, s.cipher.nextSer, s.boot.flash, s.boot.hdr0, s.boot.hdr1,
      s.board.fuses⟩ : Guarded) = guarded s := rfl

@[simp] theorem guarded_ite (c : Prop) [Decidable c] (a b : State) :
    guarded (if c then a else b) = if c then guarded a else guarded b := apply_ite _ _ _ _

@[simp] theorem guarded_foldl {α : Type} (f : State → α → State) (l : List α) (s : State)
    (h : ∀ a x, guarded (f a x) = guarded a) : guarded (l.foldl f s) = guarded s := by
  induction l generalizing s with
  | nil => rfl
  | cons x t ih => simp [ih, h]

/-- A property of the state an outcome goes on to. -/
def OutAll (p : State → Prop) : Out → Prop
  | .next t => p t
  | _ => True


@[simp] theorem OutAll_ok (p : State → Prop) (s : State) : OutAll p (ok s) = p s := rfl

@[simp] theorem OutAll_ite (p : State → Prop) (c : Prop) [Decidable c] (a b : Out) :
    OutAll p (if c then a else b) = if c then OutAll p a else OutAll p b := apply_ite _ _ _ _

@[simp] theorem ok_guarded (s : State) : OutAll (guarded · = guarded s) (ok s) := by rfl

@[simp] theorem setPort_guarded (s : State) (p : Nat) (v : Port) : guarded (setPort s p v) = guarded s := by rfl

@[simp] theorem setCtrl_guarded (s : State) (c : Nat) (v : Ctrl) : guarded (setCtrl s c v) = guarded s := by rfl

@[simp] theorem setSq_guarded (s : State) (k : Nat) (v : Sq) : guarded (setSq s k v) = guarded s := by rfl

@[simp] theorem setCq_guarded (s : State) (k : Nat) (v : Cq) : guarded (setCq s k v) = guarded s := by rfl

@[simp] theorem setCmd_guarded (s : State) (i : Nat) (v : Cmd) : guarded (setCmd s i v) = guarded s := by rfl

@[simp] theorem delCmd_guarded (s : State) (i : Nat) : guarded (delCmd s i) = guarded s := by rfl

@[simp] theorem setNs_guarded (s : State) (i : Nat) (v : Ns) : guarded (setNs s i v) = guarded s := by rfl

@[simp] theorem setZone_guarded (s : State) (k : Nat) (v : Zone) : guarded (setZone s k v) = guarded s := by rfl

@[simp] theorem setStripe_guarded (s : State) (i : Nat) (v : Stripe) : guarded (setStripe s i v) = guarded s := by rfl

@[simp] theorem setRow_guarded (s : State) (k : Nat) (v : Row) : guarded (setRow s k v) = guarded s := by rfl

@[simp] theorem setDie_guarded (s : State) (k : Nat) (v : Die) : guarded (setDie s k v) = guarded s := by rfl

@[simp] theorem setChan_guarded (s : State) (n : Nat) (v : Chan) : guarded (setChan s n v) = guarded s := by rfl

@[simp] theorem setNch_guarded (s : State) (i : Nat) (v : Nch) : guarded (setNch s i v) = guarded s := by rfl

@[simp] theorem setComm_guarded (s : State) (h : Nat) (v : Comm) : guarded (setComm s h v) = guarded s := by rfl

@[simp] theorem schedule_guarded (s : State) (c : Nat) (q : Nat) (cid : Nat) (st : Status) (dw0 : Nat) (dw1 : Nat) (data : List Fld) : guarded (schedule s c q cid st dw0 dw1 data) = guarded s := by rfl

@[simp] theorem adone_guarded (s : State) (c : Nat) (cid : Nat) (st : Status) (dw0 : Nat) (dw1 : Nat) (data : List Fld) : guarded (adone s c cid st dw0 dw1 data) = guarded s := by rfl

@[simp] theorem pumpEvs_guarded (s : State) (c fuel : Nat) : guarded (pumpEvs s c fuel) = guarded s := by
  induction fuel generalizing s with
  | zero => rfl
  | succ n ih => unfold pumpEvs; dsimp only; split <;> simp [ih]

@[simp] theorem raiseOn_guarded (s : State) (c : Nat) (e : Ev) : guarded (raiseOn s c e) = guarded s := by
  unfold raiseOn; dsimp only; simp only [pumpEvs_guarded]; split <;> simp

@[simp] theorem raiseAll_guarded (s : State) (cs : List Nat) (e : Ev) : guarded (raiseAll s cs e) = guarded s := by simp [raiseAll]

@[simp] theorem raiseStd_guarded (s : State) (cs : List Nat) (bit : Nat) (e : Ev) : guarded (raiseStd s cs bit e) = guarded s := by simp [raiseStd]

@[simp] theorem addJob_guarded (s : State) (j : PlJob) : guarded (addJob s j) = guarded s := by unfold addJob; (repeat' split) <;> first | rfl | (simp; done) | (simp_all; done) | (dsimp only; (repeat' split) <;> first | rfl | (simp; done) | (simp_all; done))

@[simp] theorem glbSet_guarded (s : State) (b : Nat) : guarded (glbSet s b) = guarded s := by simp [glbSet]

@[simp] theorem nchSet_guarded (s : State) (n : Nat) (b : Nat) : guarded (nchSet s n b) = guarded s := by rfl

@[simp] theorem mediaEvent_guarded (s : State) (n : Nat) : guarded (mediaEvent s n) = guarded s := by simp [mediaEvent]

@[simp] theorem zoneChanged_guarded (s : State) (slot : Nat) (z : Nat) : guarded (zoneChanged s slot z) = guarded s := by simp [zoneChanged]

@[simp] theorem nsChanged_guarded (s : State) (nsid : Nat) (cs : List Nat) : guarded (nsChanged s nsid cs) = guarded s := by simp [nsChanged]

@[simp] theorem patNew_guarded (s : State) (sev : Nat) : guarded (patNew s sev) = guarded s := by simp [patNew]

@[simp] theorem patWrite_guarded (s : State) (r : PatRec) : guarded (patWrite s r) = guarded s := by unfold patWrite; dsimp only; (repeat' split) <;> first | rfl | simp

@[simp] theorem patStore_guarded (s : State) (r : PatRec) : guarded (patStore s r) = guarded s := by
  unfold patStore; (try dsimp only); (repeat' split) <;> first | rfl | (simp; done) | (simp; rfl) | (simp; intros; (repeat' split) <;> first | rfl | (simp; done) | (simp; rfl)) | (intros; (repeat' split) <;> first | rfl | (simp_all; done) | (simp_all; rfl))

@[simp] theorem patina_guarded (s : State) (r : PatReq) : guarded (patina s r) = guarded s := by unfold patina; (repeat' split) <;> first | rfl | simp

@[simp] theorem devRec_guarded (s : State) (typ : Nat) (sev : Nat) (p8 : Nat) (pb : Nat) (pc : Nat) : guarded (devRec s typ sev p8 pb pc) = guarded s := by simp [devRec]

@[simp] theorem nicheRec_guarded (s : State) (n : Nat) (typ : Nat) (sev : Nat) (p8 : Nat) (pb : Nat) (pc : Nat) : guarded (nicheRec s n typ sev p8 pb pc) = guarded s := by simp [nicheRec]

@[simp] theorem bootRec_guarded (s : State) (typ : Nat) (sev : Nat) (p8 : Nat) (pb : Nat) (pc : Nat) : guarded (bootRec s typ sev p8 pb pc) = guarded s := by simp [bootRec]

@[simp] theorem adminFetch_guarded (s : State) (c : Nat) : guarded (adminFetch s c) = guarded s := by simp [adminFetch]

@[simp] theorem admin_guarded (s : State) (c : Nat) (body : State → State) (h : ∀ t, guarded (body t) = guarded t) :
    OutAll (guarded · = guarded s) (admin s c body) := by
  unfold admin; split
  · simp [h, adminFetch, setSq]
  · rfl

@[simp] theorem countChange_guarded (s : State) (n : Nat) : guarded (countChange s n) = guarded s := by rfl

@[simp] theorem commEvent_guarded (s : State) (h : Nat) (code : Nat) : guarded (commEvent s h code) = guarded s := by simp [commEvent]

@[simp] theorem reevalOne_guarded (s : State) (l : List Charge) (left5 : Nat) (h : Nat) : guarded (reevalOne s l left5 h).1 = guarded s := by simp [reevalOne]

@[simp] theorem reevalWalk_guarded (l : List Nat) (x : List Charge) (n : Nat) (s : State) :
    guarded (reevalWalk l x n s) = guarded s := by
  induction l generalizing x n s with
  | nil => rfl
  | cons h t ih => simp [reevalWalk, ih]

@[simp] theorem reevaluate_guarded (s : State) : guarded (reevaluate s) = guarded s := by
  unfold reevaluate; dsimp only; simp only [reevalWalk_guarded]; simp

@[simp] theorem trigger_guarded (s : State) : guarded (trigger s) = guarded s := by simp [trigger]

@[simp] theorem withIdent_guarded (s : State) (owner : Nat) : guarded (withIdent s owner) = guarded s := by unfold withIdent; (repeat' split) <;> first | rfl | (simp; done) | (simp_all; done) | (dsimp only; (repeat' split) <;> first | rfl | (simp; done) | (simp_all; done))

@[simp] theorem pruneIds_guarded (s : State) : guarded (pruneIds s) = guarded s := by unfold pruneIds; (repeat' split) <;> first | rfl | (simp; done) | (simp_all; done) | (dsimp only; (repeat' split) <;> first | rfl | (simp; done) | (simp_all; done))

@[simp] theorem passBuf_guarded (s : State) (k : Nat) (owner : Nat) (parts : List (Nat × Nat × Nat)) : guarded (passBuf s k owner parts) = guarded s := by unfold passBuf; (repeat' split) <;> first | rfl | (simp; done) | (simp_all; done) | (dsimp only; (repeat' split) <;> first | rfl | (simp; done) | (simp_all; done))

@[simp] theorem takeBuf_guarded (s : State) (n : Nat) (c : Nat) (want : Nat) (owner : Nat) (dirty : Bool) (conf : Option Nat) : guarded (takeBuf s n c want owner dirty conf).1 = guarded s := by unfold takeBuf; (repeat' split) <;> first | rfl | simp

@[simp] theorem breachIf_guarded (s : State) (h : Nat) (size : Nat) : guarded (breachIf s h size) = guarded s := by unfold breachIf; (repeat' split) <;> first | rfl | simp

@[simp] theorem allocate_failed_guarded (c n : Nat) (t : State) : guarded (allocate.failed n c t) = guarded t := by
  unfold allocate.failed; simp

@[simp] theorem allocate_guarded (s : State) (n c owner : Nat) (dirty : Bool) (conf : Option Nat) :
    guarded (allocate s n c owner dirty conf).1 = guarded s := by
  cases conf <;> unfold allocate <;> dsimp only <;> (repeat' split) <;> simp

@[simp] theorem releaseBuf_guarded (s : State) (k : Nat) : guarded (releaseBuf s k) = guarded s := by unfold releaseBuf; dsimp only; (repeat' split) <;> first | rfl | simp

@[simp] theorem releaseBufs_guarded (s : State) (l : List Nat) : guarded (releaseBufs s l) = guarded s := by
  unfold releaseBufs; (try dsimp only); (repeat' split) <;> first | rfl | (simp; done) | (simp; rfl) | (simp; intros; (repeat' split) <;> first | rfl | (simp; done) | (simp; rfl)) | (intros; (repeat' split) <;> first | rfl | (simp_all; done) | (simp_all; rfl))

@[simp] theorem parkOn_guarded (s : State) (n : Nat) (owner : Nat) (conf : Bool) : guarded (parkOn s n owner conf) = guarded s := by unfold parkOn; (repeat' split) <;> first | rfl | (simp; done) | (simp_all; done) | (dsimp only; (repeat' split) <;> first | rfl | (simp; done) | (simp_all; done))

@[simp] theorem unpark_guarded (s : State) (n : Nat) (i : Nat) : guarded (unpark s n i) = guarded s := by simp [unpark]

@[simp] theorem freeOwned_guarded (s : State) (owner : Nat) : guarded (freeOwned s owner) = guarded s := by simp [freeOwned]

@[simp] theorem freeBuf_guarded (s : State) (n : Nat) (c : Nat) (i : Nat) (owner : Nat) : guarded (freeBuf s n c i owner) = guarded s := by simp [freeBuf]

@[simp] theorem ctlTake_guarded (n owner : Nat) (s : State) (l : List (Nat × Nat)) :
    guarded (ctlTake n owner s l).1 = guarded s := by
  induction l generalizing s with
  | nil => rfl
  | cons x t ih => unfold ctlTake; dsimp only; split <;> simp [ih]

@[simp] theorem dropCtl_guarded (s : State) (r : CtlReq) : guarded (dropCtl s r) = guarded s := by
  simp [dropCtl]

@[simp] theorem serveCtl_guarded (s : State) (r : CtlReq) : guarded (serveCtl s r) = guarded s := by
  unfold serveCtl; dsimp only; split <;> simp

@[simp] theorem issueCtl_guarded (s : State) : guarded (issueCtl s) = guarded s := by unfold issueCtl; (repeat' split) <;> first | rfl | (simp; done) | (simp_all; done) | (dsimp only; (repeat' split) <;> first | rfl | (simp; done) | (simp_all; done))

@[simp] theorem withhold_guarded (c cid n : Nat) (want : List (Nat × Nat)) (parks : Bool) (s : State) :
    guarded (withhold c cid n want parks s) = guarded s := by
  unfold withhold; dsimp only; split
  · simp
  · split <;> simp

@[simp] theorem ctlAsk_guarded (s : State) (c len : Nat) : guarded (ctlAsk s c len).1 = guarded s := by
  unfold ctlAsk; dsimp only; split
  · rfl
  · split <;> simp

@[simp] theorem ctlServed_guarded (s : State) (c len : Nat) : guarded (ctlServed s c len) = guarded s := by
  unfold ctlServed; split <;> simp

@[simp] theorem ctlData_guarded (c cid len : Nat) (body : State → State) (s : State)
    (h : ∀ t, guarded (body t) = guarded t) : guarded (ctlData c cid len body s) = guarded s := by
  unfold ctlData; dsimp only; split <;> simp [h]

@[simp] theorem instantiate_guarded (s : State) : guarded (instantiate s) = guarded s := by rfl

@[simp] theorem reseed_guarded (s : State) : guarded (reseed s) = guarded s := by rfl

@[simp] theorem instantiateFallback_guarded (s : State) : guarded (instantiateFallback s) = guarded s := by rfl

@[simp] theorem journal_guarded (s : State) : guarded (journal s) = guarded s := by rfl

@[simp] theorem bindRow_guarded (s : State) (slot : Nat) (zone : Option Nat) (pos : Nat) (kr : Nat × Nat) : guarded (bindRow s slot zone pos kr) = guarded s := by rfl

@[simp] theorem bindRows_guarded (s : State) (slot : Nat) (zone : Option Nat) (n : Nat) (l : List (Nat × Nat)) :
    guarded (bindRows s slot zone n l) = guarded s := by
  induction l generalizing s n with
  | nil => rfl
  | cons x t ih => simp [bindRows, ih, bindRow, setRow, journal]

@[simp] theorem zoneBind_guarded (s : State) (i : Nat) (z : Nat) (l : List (Nat × Nat)) : guarded (zoneBind s i z l) = guarded s := by simp [zoneBind]

@[simp] theorem sweepBufs_guarded (s : State) (sid : Nat) : guarded (sweepBufs s sid) = guarded s := by simp [sweepBufs]

@[simp] theorem discardStripe_guarded (s : State) (sid : Nat) : guarded (discardStripe s sid) = guarded s := by simp [discardStripe]

@[simp] theorem mapRank_guarded (s : State) (k : Nat) (f : Die → Die) : guarded (mapRank s k f) = guarded s := by simp [mapRank]

@[simp] theorem unbindRow_guarded (st : RowSt) (s : State) (kr : Nat × Nat) :
    guarded (unbindRow st s kr) = guarded s := by
  have h1 : ∀ l : List Nat, guarded (l.foldl discardStripe s) = guarded s := fun l => by simp
  unfold unbindRow; dsimp only
  generalize hs : List.foldl discardStripe s _ = s1
  have h2 : guarded s1 = guarded s := by rw [← hs]; simp
  rw [← h2]; clear hs h1 h2
  generalize hm : mapRank _ kr.1 _ = s2
  have h3 : guarded s2 = guarded s1 := by rw [← hm]; simp
  rw [← h3]; clear hm h3
  split
  · split <;> simp
  · split <;> simp

@[simp] theorem unbindRows_guarded (s : State) (st : RowSt) (l : List (Nat × Nat)) : guarded (unbindRows s st l) = guarded s := by
  unfold unbindRows; (try dsimp only); (repeat' split) <;> first | rfl | (simp; done) | (simp; rfl) | (simp; intros; (repeat' split) <;> first | rfl | (simp; done) | (simp; rfl)) | (intros; (repeat' split) <;> first | rfl | (simp_all; done) | (simp_all; rfl))

@[simp] theorem openStripe_guarded (s : State) (i : Nat) (zone : Option Nat) (gc : Bool) (kr : Nat × Nat) (t : Nat) : guarded (openStripe s i zone gc kr t).1 = guarded s := by simp [openStripe]

@[simp] theorem completeStripe_guarded (s : State) (sid : Nat) (padded : Bool) : guarded (completeStripe s sid padded) = guarded s := by unfold completeStripe; dsimp only; (repeat' split) <;> first | rfl | simp

@[simp] theorem takeFineRow_guarded (s : State) (i : Nat) (gc : Bool) : guarded (takeFineRow s i gc) = guarded s := by unfold takeFineRow; dsimp only; (repeat' split) <;> first | rfl | simp

@[simp] theorem readyRow_guarded (s : State) (i : Nat) (gc : Bool) : guarded (readyRow s i gc) = guarded s := by unfold readyRow; (repeat' split) <;> first | rfl | (simp; done) | (simp_all; done) | (dsimp only; (repeat' split) <;> first | rfl | (simp; done) | (simp_all; done))

@[simp] theorem fillStripe_guarded (s : State) (i : Nat) (zone : Option Nat) (gc : Bool) : guarded (fillStripe s i zone gc).1 = guarded s := by unfold fillStripe; dsimp only; (repeat' split) <;> first | rfl | simp

@[simp] theorem endFill_guarded (s : State) (i : Nat) (zone : Option Nat) (gc : Bool) : guarded (endFill s i zone gc) = guarded s := by unfold endFill; dsimp only; (repeat' split) <;> first | rfl | simp

@[simp] theorem placeSector_guarded (s : State) (w : Writer) (lba : Nat) (val : Nat) : guarded (placeSector s w lba val).1 = guarded s := by unfold placeSector; dsimp only; (repeat' split) <;> first | rfl | simp

@[simp] theorem placeAll_guarded (w : Writer) (l : List (Nat × Nat)) (s : State) :
    guarded (placeAll w l s).1 = guarded s := by
  induction l generalizing s with
  | nil => rfl
  | cons h t ih => simp [placeAll, ih]

@[simp] theorem terminalPad_guarded (s : State) (i : Nat) (z : Nat) : guarded (terminalPad s i z) = guarded s := by unfold terminalPad; split <;> simp

@[simp] theorem finishByController_guarded (s : State) (i : Nat) (z : Nat) : guarded (finishByController s i z) = guarded s := by unfold finishByController; (repeat' split) <;> first | rfl | simp

@[simp] theorem finishWhenFree_guarded (s : State) (i : Nat) (z : Nat) : guarded (finishWhenFree s i z) = guarded s := by unfold finishWhenFree; (repeat' split) <;> first | rfl | (simp; done) | (simp_all; done) | (dsimp only; (repeat' split) <;> first | rfl | (simp; done) | (simp_all; done))

@[simp] theorem interiorPad_guarded (s : State) (i : Nat) (z : Nat) : guarded (interiorPad s i z) = guarded s := by unfold interiorPad; dsimp only; (repeat' split) <;> first | rfl | simp

@[simp] theorem finePad_guarded (s : State) (i : Nat) (gc : Bool) : guarded (finePad s i gc) = guarded s := by
  unfold finePad; (try dsimp only); (repeat' split) <;> first | rfl | (simp; done) | (simp; rfl) | (simp; intros; (repeat' split) <;> first | rfl | (simp; done) | (simp; rfl)) | (intros; (repeat' split) <;> first | rfl | (simp_all; done) | (simp_all; rfl))

@[simp] theorem closeByDevice_guarded (s : State) (why : Nat) (h : Nat) : guarded (closeByDevice s why h) = guarded s := by unfold closeByDevice; (repeat' split) <;> first | rfl | simp

@[simp] theorem smartEvent_guarded (s : State) (n : Nat) (b : Nat) (info : Nat) : guarded (smartEvent s n b info) = guarded s := by simp [smartEvent]

@[simp] theorem readOnlyNiche_guarded (s : State) (n : Nat) (why : Nat) : guarded (readOnlyNiche s n why) = guarded s := by simp [readOnlyNiche]

@[simp] theorem putLost_guarded (s : State) (n : Nat) (v : Nch) : guarded (putLost s n v) = guarded s := by simp [putLost]

@[simp] theorem lostCut_guarded (s : State) (slot : Nat) (lo : Nat) (hi : Nat) : guarded (lostCut s slot lo hi) = guarded s := by simp [lostCut]

@[simp] theorem lostAdd_guarded (s : State) (slot : Nat) (lbas : List Nat) : guarded (lostAdd s slot lbas) = guarded s := by simp [lostAdd]

@[simp] theorem zoneLost_guarded (s : State) (i : Nat) (z : Nat) : guarded (zoneLost s i z) = guarded s := by unfold zoneLost; dsimp only; (repeat' split) <;> first | rfl | simp

@[simp] theorem loseUnits_guarded (s : State) (sid : Nat) : guarded (loseUnits s sid) = guarded s := by unfold loseUnits; dsimp only; (repeat' split) <;> first | rfl | simp

@[simp] theorem addErasure_guarded (s : State) (sid : Nat) (c : Nat) : guarded (addErasure s sid c) = guarded s := by unfold addErasure; dsimp only; (repeat' split) <;> first | rfl | simp

@[simp] theorem refreshGc_guarded (s : State) (n : Nat) : guarded (refreshGc s n) = guarded s := by simp [refreshGc]

@[simp] theorem resetZone_guarded (s : State) (i : Nat) (z : Nat) : guarded (resetZone s i z) = guarded s := by simp [resetZone]

@[simp] theorem closeZone_guarded (s : State) (i : Nat) (z : Nat) : guarded (closeZone s i z) = guarded s := by simp [closeZone]

@[simp] theorem finishZone_guarded (s : State) (i : Nat) (z : Nat) : guarded (finishZone s i z) = guarded s := by simp [finishZone]

@[simp] theorem reclaim_guarded (s : State) (n : Nat) : guarded (reclaim s n) = guarded s := by unfold reclaim; split <;> simp

@[simp] theorem setRd_guarded (s : State) (i : Nat) (v : Rd) : guarded (setRd s i v) = guarded s := by unfold setRd; (repeat' split) <;> first | rfl | simp

@[simp] theorem leaveWaits_guarded (s : State) : guarded (leaveWaits s) = guarded s := by unfold leaveWaits; (repeat' split) <;> first | rfl | (simp; done) | (simp_all; done) | (dsimp only; (repeat' split) <;> first | rfl | (simp; done) | (simp_all; done))

@[simp] theorem newRd_guarded (s : State) (r : Rd) : guarded (newRd s r).1 = guarded s := by rfl

@[simp] theorem feedOne_guarded (s : State) : guarded (feedOne s) = guarded s := by rfl

@[simp] theorem feed_guarded (s : State) : guarded (feed s) = guarded s := by
  unfold feed; apply guarded_foldl; intro a x; simp

@[simp] theorem toDecoder_guarded (s : State) (i : Nat) : guarded (toDecoder s i) = guarded s := by
  unfold toDecoder; dsimp only; split
  · simp
  · split <;> simp

@[simp] theorem fromDecoder_guarded (s : State) (i : Nat) : guarded (fromDecoder s i) = guarded s := by
  unfold fromDecoder; simp

@[simp] theorem dropReads_guarded (s : State) (p : Owner → Bool) : guarded (dropReads s p) = guarded s := by
  unfold dropReads; dsimp only; split
  · rfl
  · simp

@[simp] theorem startRebuild_guarded (s : State) (i : Nat) : guarded (startRebuild s i) = guarded s := by simp [startRebuild]

@[simp] theorem addRd_guarded (s : State) (r : Rd) : guarded (addRd s r).1 = guarded s := by unfold addRd; split <;> simp

@[simp] theorem touchPage_guarded (s : State) (pg : Nat) : guarded (touchPage s pg) = guarded s := by unfold touchPage; split <;> simp

@[simp] theorem setFine_guarded (s : State) (k : Nat) : guarded (setFine s k) = guarded s := by unfold setFine; (repeat' split) <;> first | rfl | (simp; done) | (simp_all; done) | (dsimp only; (repeat' split) <;> first | rfl | (simp; done) | (simp_all; done))

@[simp] theorem noteFine_guarded (s : State) (k : Nat) : guarded (noteFine s k) = guarded s := by unfold noteFine; (repeat' split) <;> first | rfl | (simp; done) | (simp_all; done) | (dsimp only; (repeat' split) <;> first | rfl | (simp; done) | (simp_all; done))

@[simp] theorem askPlinth_guarded (s : State) (own : Owner) (n : Nat) : guarded (askPlinth s own n) = guarded s := by simp [askPlinth]

@[simp] theorem askPage_guarded (s : State) (pg : Nat) : guarded (askPage s pg) = guarded s := by simp [askPage]

@[simp] theorem askSealState_guarded (s : State) (i z : Nat) : guarded (askSealState s i z) = guarded s := by simp [askSealState]

@[simp] theorem freeCmdBufs_guarded (s : State) (id : Nat) : guarded (freeCmdBufs s id) = guarded s := by simp [freeCmdBufs]

@[simp] theorem unqueueCmd_guarded (s : State) (id : Nat) : guarded (unqueueCmd s id) = guarded s := by simp [unqueueCmd]

@[simp] theorem slotFreed_guarded (s : State) (c : Cmd) : guarded (slotFreed s c) = guarded s := by unfold slotFreed; (repeat' split) <;> first | rfl | (simp; done) | (simp_all; done) | (dsimp only; (repeat' split) <;> first | rfl | (simp; done) | (simp_all; done))

@[simp] theorem discard_guarded (s : State) (id : Nat) : guarded (discard s id) = guarded s := by
  unfold discard; simp

@[simp] theorem queueSegs_guarded (s : State) (id : Nat) : guarded (queueSegs s id) = guarded s := by rfl

@[simp] theorem logError_guarded (s : State) (c : Nat) (e : ErrEnt) : guarded (logError s c e) = guarded s := by rfl

@[simp] theorem ioCqe_guarded (s : State) (k : Nat) (cid : Nat) (st : Status) : guarded (ioCqe s k cid st) = guarded s := by rfl

@[simp] theorem completeStaged_guarded (s : State) (k : Nat) (st : Status) : guarded (completeStaged s k st) = guarded s := by simp [completeStaged]

@[simp] theorem uncount_guarded (s : State) (c : Cmd) (st : Status) : guarded (uncount s c st) = guarded s := by unfold uncount; split <;> simp

@[simp] theorem endWaiting_guarded (k : Nat) (st : Status) (s : State) (id : Nat) : guarded (endWaiting k st s id) = guarded s := by unfold endWaiting; (repeat' split) <;> first | rfl | simp

@[simp] theorem completeUnstarted_guarded (s : State) (k : Nat) (st : Status) : guarded (completeUnstarted s k st) = guarded s := by simp [completeUnstarted]

@[simp] theorem freezeSq_guarded (s : State) (k : Nat) (c : Cmd) (st : Status) : guarded (freezeSq s k c st) = guarded s := by unfold freezeSq; dsimp only; (repeat' split) <;> first | rfl | simp

@[simp] theorem endCmd_guarded (s : State) (id : Nat) (st : Status) (dw0 : Nat) (dw1 : Nat) (data : List Fld) : guarded (endCmd s id st dw0 dw1 data) = guarded s := by unfold endCmd; dsimp only; (repeat' split) <;> first | rfl | simp

@[simp] theorem padFor_guarded (s : State) (sid : Nat) : guarded (padFor s sid) = guarded s := by unfold padFor; dsimp only; (repeat' split) <;> first | rfl | simp

@[simp] theorem settleOne_guarded (a : State) (id : Nat) : guarded (settleOne a id) = guarded a := by unfold settleOne; dsimp only; (repeat' split) <;> first | rfl | simp

@[simp] theorem flushNote_guarded (s : State) (id : Nat) (sids : List Nat) : guarded (flushNote s id sids) = guarded s := by simp [flushNote]

@[simp] theorem settle_guarded (s : State) : guarded (settle s) = guarded s := by simp [settle]

@[simp] theorem complete_guarded (s : State) (id : Nat) (st : Status) (dw0 : Nat) (dw1 : Nat) (data : List Fld) : guarded (complete s id st dw0 dw1 data) = guarded s := by simp [complete]

@[simp] theorem land_guarded (s : State) (k : Nat) (io : IoCmd) : guarded (land s k io) = guarded s := by unfold land; dsimp only; (repeat' split) <;> first | rfl | simp

@[simp] theorem takeTokens_guarded (s : State) (n : Nat) (cl : Class) (io : IoCmd) : guarded (takeTokens s n cl io) = guarded s := by unfold takeTokens; dsimp only; (repeat' split) <;> first | rfl | simp

@[simp] theorem grantHead_guarded (s : State) (k : Nat) : guarded (grantHead s k) = guarded s := by unfold grantHead; dsimp only; (repeat' split) <;> first | rfl | simp

@[simp] theorem arbGrant_guarded (s : State) : guarded (arbGrant s).1 = guarded s := by
  unfold arbGrant; (try dsimp only); (repeat' split) <;> first | rfl | (simp; done) | (simp; rfl) | (simp; intros; (repeat' split) <;> first | rfl | (simp; done) | (simp; rfl)) | (intros; (repeat' split) <;> first | rfl | (simp_all; done) | (simp_all; rfl))

@[simp] theorem markStarted_guarded (s : State) (id : Nat) (lo : Nat) (hi : Nat) (lock : Bool) (excl : Bool) (wslot : Bool) (zone : Option Nat) : guarded (markStarted s id lo hi lock excl wslot zone) = guarded s := by unfold markStarted; (repeat' split) <;> first | rfl | simp

@[simp] theorem waitErase_guarded (s : State) (id : Nat) (l : List (Nat × Nat)) : guarded (waitErase s id l) = guarded s := by rfl

@[simp] theorem withRequests_guarded (s : State) (id : Nat) (room : List Nat) : guarded (withRequests s id room) = guarded s := by rfl

@[simp] theorem startZoneWrite_guarded (s : State) (id : Nat) : guarded (startZoneWrite s id) = guarded s := by
  unfold startZoneWrite; dsimp only; (repeat' split) <;> simp <;> (repeat' split) <;> simp

@[simp] theorem startFineWrite_guarded (s : State) (id : Nat) : guarded (startFineWrite s id) = guarded s := by unfold startFineWrite; dsimp only; (repeat' split) <;> first | rfl | simp

@[simp] theorem noteLost_guarded (s : State) (niche : Nat) (n : Nat) : guarded (noteLost s niche n) = guarded s := by unfold noteLost; dsimp only; (repeat' split) <;> first | rfl | simp

@[simp] theorem startRead_guarded (s : State) (id : Nat) : guarded (startRead s id) = guarded s := by simp [startRead]

@[simp] theorem unmap_guarded (s : State) (i : Nat) (lo : Nat) (n : Nat) : guarded (unmap s i lo n) = guarded s := by simp [unmap]

@[simp] theorem markUnc_guarded (s : State) (i : Nat) (lo : Nat) (n : Nat) : guarded (markUnc s i lo n) = guarded s := by simp [markUnc]

@[simp] theorem startSpan_guarded (s : State) (id lo hi : Nat) (f : State → State) (protect : Bool)
    (h : ∀ t, guarded (f t) = guarded t) : guarded (startSpan s id lo hi f protect) = guarded s := by
  unfold startSpan; dsimp only; (repeat' split) <;> simp [h]

@[simp] theorem startDsm_guarded (s : State) (id : Nat) : guarded (startDsm s id) = guarded s := by simp [startDsm]

@[simp] theorem zoneAct_guarded (s : State) (op : IoOp) (i : Nat) (z : Nat) : guarded (zoneAct s op i z).1 = guarded s := by unfold zoneAct; dsimp only; (repeat' split) <;> first | rfl | simp

@[simp] theorem startZoneSend_guarded (s : State) (id : Nat) : guarded (startZoneSend s id) = guarded s := by
  unfold startZoneSend; dsimp only; (repeat' split) <;> simp <;> (repeat' split) <;> simp

@[simp] theorem startZoneReceive_guarded (s : State) (id : Nat) : guarded (startZoneReceive s id) = guarded s := by simp [startZoneReceive]

@[simp] theorem finishReceive_guarded (s : State) (id : Nat) : guarded (finishReceive s id) = guarded s := by unfold finishReceive; (repeat' split) <;> first | rfl | (simp; done) | (simp_all; done) | (dsimp only; (repeat' split) <;> first | rfl | (simp; done) | (simp_all; done))

@[simp] theorem startSeal_guarded (s : State) (id : Nat) : guarded (startSeal s id) = guarded s := by
  unfold startSeal; dsimp only; (repeat' split) <;> simp <;> (repeat' split) <;> simp

@[simp] theorem finishSeal_guarded (s : State) (id : Nat) : guarded (finishSeal s id) = guarded s := by unfold finishSeal; (repeat' split) <;> first | rfl | (simp; done) | (simp_all; done) | (dsimp only; (repeat' split) <;> first | rfl | (simp; done) | (simp_all; done))

@[simp] theorem startFlush_guarded (s : State) (id : Nat) : guarded (startFlush s id) = guarded s := by simp [startFlush]

@[simp] theorem namesZone_guarded (s : State) (id : Nat) : guarded (namesZone s id) = guarded s := by unfold namesZone; dsimp only; (repeat' split) <;> first | rfl | simp

@[simp] theorem startCmd_guarded (s : State) (id : Nat) : guarded (startCmd s id) = guarded s := by
  have hf : ∀ t i, guarded (startCmd.tryStart t i) = guarded t := by
    intro t i; unfold startCmd.tryStart; dsimp only
    split
    · rfl
    · split
      · simp
      · cases (getCmd t i).io.op <;> dsimp only <;> (repeat' split) <;> simp
  unfold startCmd; dsimp only; (repeat' split) <;> simp [hf]

@[simp] theorem submitIo_guarded (s : State) (c : Nat) (q : Nat) (io : IoCmd) : guarded (submitIo s c q io) = guarded s := by unfold submitIo; dsimp only; (repeat' split) <;> first | rfl | simp

theorem execSqFetchRequest_guarded (c : Nat) (q : Nat) (s : State) : OutAll (guarded · = guarded s) (execSqFetchRequest c q s) := by unfold execSqFetchRequest; dsimp only; (repeat' split) <;> first | rfl | simp

theorem execSqFetchCompletion_guarded (c : Nat) (q : Nat) (entries : List IoCmd) (s : State) : OutAll (guarded · = guarded s) (execSqFetchCompletion c q entries s) := by simp [execSqFetchCompletion]

theorem execArbiterGrant_guarded (s : State) : OutAll (guarded · = guarded s) (execArbiterGrant s) := by simp [execArbiterGrant]

theorem execQueueFreezeLogEntry_guarded (c : Nat) (q : Nat) (s : State) : OutAll (guarded · = guarded s) (execQueueFreezeLogEntry c q s) := by unfold execQueueFreezeLogEntry; dsimp only; (repeat' split) <;> first | rfl | simp

@[simp] theorem askSector_guarded (id : Nat) (s : State) (j : Nat) : guarded (askSector id s j) = guarded s := by unfold askSector; dsimp only; (repeat' split) <;> first | rfl | simp

@[simp] theorem readArrived_guarded (s : State) (id : Nat) : guarded (readArrived s id) = guarded s := by unfold readArrived; dsimp only; (repeat' split) <;> first | rfl | simp

@[simp] theorem allocated_guarded (s : State) (id : Nat) : guarded (allocated s id) = guarded s := by simp [allocated]

@[simp] theorem park_guarded (s : State) (id : Nat) : guarded (park s id) = guarded s := by simp [park]

@[simp] theorem requestOne_guarded (s : State) (id : Nat) : guarded (requestOne s id) = guarded s := by unfold requestOne; dsimp only; (repeat' split) <;> first | rfl | simp

@[simp] theorem execBufferAllocation_guarded (id : Nat) (s : State) :
    OutAll (guarded · = guarded s) (execBufferAllocation id s) := by
  unfold execBufferAllocation; split <;> simp

theorem execBufferFree_guarded (niche : Nat) (cls : Nat) (index : Nat) (owner : Nat) (s : State) : OutAll (guarded · = guarded s) (execBufferFree niche cls index owner s) := by simp [execBufferFree]

@[simp] theorem retryRecast_guarded (s : State) (n : Nat) (key : Nat) : guarded (retryRecast s n key) = guarded s := by unfold retryRecast; (repeat' split) <;> first | rfl | (simp; done) | (simp_all; done) | (dsimp only; (repeat' split) <;> first | rfl | (simp; done) | (simp_all; done))

@[simp] theorem retryOne_guarded (s : State) (n : Nat) (owner : Nat) : guarded (retryOne s n owner) = guarded s := by unfold retryOne; (repeat' split) <;> first | rfl | (simp; done) | (simp_all; done) | (dsimp only; (repeat' split) <;> first | rfl | (simp; done) | (simp_all; done))

theorem execParkListRetry_guarded (niche : Nat) (s : State) : OutAll (guarded · = guarded s) (execParkListRetry niche s) := by unfold execParkListRetry; dsimp only; (repeat' split) <;> first | rfl | simp

theorem execHostDataTlpReceived_guarded (id : Nat) (data : List Nat) (s : State) : OutAll (guarded · = guarded s) (execHostDataTlpReceived id data s) := by unfold execHostDataTlpReceived; dsimp only; (repeat' split) <;> first | rfl | simp

@[simp] theorem enterEngine_guarded (s : State) (cls : Nat) (n : Nat) (wait : Nat) : guarded (enterEngine s cls n wait) = guarded s := by unfold enterEngine; (repeat' split) <;> first | rfl | (simp; done) | (simp_all; done) | (dsimp only; (repeat' split) <;> first | rfl | (simp; done) | (simp_all; done))

@[simp] theorem passSegment_guarded (s : State) (id : Nat) : guarded (passSegment s id) = guarded s := by unfold passSegment; dsimp only; (repeat' split) <;> first | rfl | simp

theorem execCipherSegmentStart_guarded (s : State) : OutAll (guarded · = guarded s) (execCipherSegmentStart s) := by unfold execCipherSegmentStart; (repeat' split) <;> first | rfl | simp

@[simp] theorem passAll_guarded (s : State) (id : Nat) : guarded (passAll s id) = guarded s := by unfold passAll; (repeat' split) <;> first | rfl | simp

@[simp] theorem passBufs_guarded (l m : List (Nat × Nat)) (s : State) : guarded (passBufs l m s) = guarded s := by
  induction l generalizing m s with
  | nil => rfl
  | cons h t ih => unfold passBufs; dsimp only; (repeat' split) <;> simp [ih]

@[simp] theorem commitZone_guarded (s : State) (c : Cmd) (z : Nat) : guarded (commitZone s c z).1 = guarded s := by simp [commitZone]

@[simp] theorem commitCounts_guarded (s : State) (c : Cmd) : guarded (commitCounts s c) = guarded s := by unfold commitCounts; (repeat' split) <;> first | rfl | simp

@[simp] theorem commitWrite_guarded (s : State) (id : Nat) : guarded (commitWrite s id) = guarded s := by
  unfold commitWrite; dsimp only; split <;> simp

theorem execWriteCommitPoint_guarded (id : Nat) (s : State) :
    OutAll (guarded · = guarded s) (execWriteCommitPoint id s) := by
  unfold execWriteCommitPoint; dsimp only; split <;> simp

@[simp] theorem countRead_guarded (s : State) (c : Cmd) : guarded (countRead s c) = guarded s := by rfl

@[simp] theorem readSent_guarded (s : State) (id : Nat) : guarded (readSent s id) = guarded s := by unfold readSent; dsimp only; (repeat' split) <;> first | rfl | simp

theorem execReadDataSentNotice_guarded (id : Nat) (s : State) : OutAll (guarded · = guarded s) (execReadDataSentNotice id s) := by unfold execReadDataSentNotice; dsimp only; (repeat' split) <;> first | rfl | simp

theorem execFineMapUpdate_guarded (s : State) : OutAll (guarded · = guarded s) (execFineMapUpdate s) := by unfold execFineMapUpdate; (repeat' split) <;> first | rfl | simp

@[simp] theorem sendMsg_guarded (s : State) (c : Nat) (v : Nat) : guarded (sendMsg s c v) = guarded s := by unfold sendMsg; (repeat' split) <;> first | rfl | simp

@[simp] theorem interrupt_guarded (s : State) (c : Nat) (q : Nat) : guarded (interrupt s c q) = guarded s := by simp [interrupt]

theorem execCqePosting_guarded (c : Nat) (q : Nat) (s : State) : OutAll (guarded · = guarded s) (execCqePosting c q s) := by unfold execCqePosting; dsimp only; (repeat' split) <;> first | rfl | simp

theorem execAggregationTimeExpiry_guarded (c : Nat) (vector : Nat) (s : State) : OutAll (guarded · = guarded s) (execAggregationTimeExpiry c vector s) := by unfold execAggregationTimeExpiry; dsimp only; (repeat' split) <;> first | rfl | simp

@[simp] theorem execMsixVectorUnmask_guarded (c : Nat) (vector : Option Nat) (mask : Bool) (s : State) : OutAll (guarded · = guarded s) (execMsixVectorUnmask c vector mask s) := by unfold execMsixVectorUnmask; (repeat' split) <;> first | rfl | (simp; done) | (simp_all; done) | (dsimp only; (repeat' split) <;> first | rfl | (simp; done) | (simp_all; done))

theorem execCommissionTokenRefill_guarded (s : State) : OutAll (guarded · = guarded s) (execCommissionTokenRefill s) := by rfl

@[simp] theorem execStandardLimitTokenRefill_guarded (s : State) :
    OutAll (guarded · = guarded s) (execStandardLimitTokenRefill s) := rfl

theorem execReEvaluation_guarded (s : State) : OutAll (guarded · = guarded s) (execReEvaluation s) := by simp [execReEvaluation]

@[simp] theorem aerLog_guarded (s : State) (c : Nat) (status : Nat) (advisory : Bool) : guarded (aerLog s c status advisory) = guarded s := by unfold aerLog; (repeat' split) <;> first | rfl | (simp; done) | (simp_all; done) | (dsimp only; (repeat' split) <;> first | rfl | (simp; done) | (simp_all; done))

@[simp] theorem aerRec_guarded (s : State) (c : Nat) (status : Nat) (advisory : Bool) : guarded (aerRec s c status advisory) = guarded s := by unfold aerRec; (repeat' split) <;> first | rfl | (simp; done) | (simp_all; done) | (dsimp only; (repeat' split) <;> first | rfl | (simp; done) | (simp_all; done))

theorem execPoisonedCompletion_guarded (id : Nat) (s : State) : OutAll (guarded · = guarded s) (execPoisonedCompletion id s) := by simp [execPoisonedCompletion]

@[simp] theorem fetchTimeout_guarded (s : State) (c : Nat) (q : Nat) : guarded (fetchTimeout s c q) = guarded s := by unfold fetchTimeout; dsimp only; (repeat' split) <;> first | rfl | simp

theorem execCompletionTimeout_guarded (what : TimeoutOf) (s : State) : OutAll (guarded · = guarded s) (execCompletionTimeout what s) := by unfold execCompletionTimeout; dsimp only; (repeat' split) <;> first | rfl | simp

@[simp] theorem drive_guarded (s : State) (ch : Nat) (n : Nat) : guarded (drive s ch n) = guarded s := by simp [drive]

@[simp] theorem driveDie_guarded (s : State) (d : Nat) (n : Nat) : guarded (driveDie s d n) = guarded s := by unfold driveDie; (repeat' split) <;> first | rfl | (simp; done) | (simp_all; done) | (dsimp only; (repeat' split) <;> first | rfl | (simp; done) | (simp_all; done))

@[simp] theorem notePeak_guarded (s : State) : guarded (notePeak s) = guarded s := by unfold notePeak; (repeat' split) <;> first | rfl | simp

@[simp] theorem setOp_guarded (s : State) (d : Nat) (op : DieOp) (kind niche : Nat) (resv : Bool) :
    guarded (setOp s d op kind niche resv) = guarded s := by
  unfold setOp; dsimp only; split <;> simp

@[simp] theorem idleDie_guarded (s : State) (d : Nat) : guarded (idleDie s d) = guarded s := by rfl

@[simp] theorem suspendErase_guarded (s : State) (d : Nat) : guarded (suspendErase s d) = guarded s := by simp [suspendErase]

@[simp] theorem suspendErases_guarded (s : State) (l : List Nat) : guarded (suspendErases s l) = guarded s := by simp [suspendErases]

@[simp] theorem suspendForTokens_guarded (s : State) (need : Nat) (l : List Nat) :
    guarded (suspendForTokens s need l) = guarded s := by
  induction l generalizing s with
  | nil => rfl
  | cons h t ih => unfold suspendForTokens; split <;> simp [ih]

@[simp] theorem nextGrant_guarded (s : State) : guarded (nextGrant s) = guarded s := by rfl

@[simp] theorem nextSeq_guarded (s : State) : guarded (nextSeq s) = guarded s := by rfl

@[simp] theorem startErase_guarded (s : State) (k : Nat) (r : Nat) : guarded (startErase s k r) = guarded s := by simp [startErase]

@[simp] theorem endErase_guarded (s : State) (k : Nat) (r : Nat) : guarded (endErase s k r) = guarded s := by simp [endErase]

@[simp] theorem queueRecast_guarded (s : State) (k : Nat) (r : Nat) (q : Nat) : guarded (queueRecast s k r q) = guarded s := by simp [queueRecast]

@[simp] theorem dropCopy_guarded (s : State) (key : Nat) : guarded (dropCopy s key) = guarded s := by unfold dropCopy; dsimp only; (repeat' split) <;> first | rfl | simp

@[simp] theorem decodeGood_guarded (s : State) (n : Nat) (k : Nat) (r : Nat) (step : Nat) (bits : Nat) : guarded (decodeGood s n k r step bits) = guarded s := by unfold decodeGood; dsimp only; (repeat' split) <;> first | rfl | simp

@[simp] theorem pageCame_guarded (s : State) (pg : Nat) : guarded (pageCame s pg) = guarded s := by simp [pageCame]

@[simp] theorem sealStateCame_guarded (s : State) (i z : Nat) : guarded (sealStateCame s i z) = guarded s := by simp [sealStateCame]

@[simp] theorem gcBuffer_guarded (s : State) (i : Nat) (place : Option (Nat × Nat)) :
    guarded (gcBuffer s i place) = guarded s := by
  unfold gcBuffer; dsimp only; apply guarded_foldl; intro a k; split <;> simp

@[simp] theorem gcPlace_guarded (s : State) (i : Nat) (lba : Nat) (sid : Nat) : guarded (gcPlace s i lba sid) = guarded s := by simp [gcPlace]

@[simp] theorem endLadder_guarded (s : State) (i : Nat) : guarded (endLadder s i) = guarded s := by simp [endLadder]

@[simp] theorem deliver_guarded (s : State) (i : Nat) (info : Nat) : guarded (deliver s i info) = guarded s := by unfold deliver; dsimp only; (repeat' split) <;> first | rfl | simp

@[simp] theorem loseSector_guarded (s : State) (sid : Nat) (c : Nat) (ix : Nat) : guarded (loseSector s sid c ix) = guarded s := by unfold loseSector; (repeat' split) <;> first | rfl | (simp; done) | (simp_all; done) | (dsimp only; (repeat' split) <;> first | rfl | (simp; done) | (simp_all; done))

@[simp] theorem rdLost_guarded (s : State) (i : Nat) : guarded (rdLost s i) = guarded s := by unfold rdLost; dsimp only; (repeat' split) <;> first | rfl | simp

@[simp] theorem settleRebuild_guarded (s : State) (p : Nat) : guarded (settleRebuild s p) = guarded s := by unfold settleRebuild; dsimp only; (repeat' split) <;> first | rfl | simp

@[simp] theorem toStep9_guarded (s : State) (i : Nat) : guarded (toStep9 s i) = guarded s := by unfold toStep9; dsimp only; (repeat' split) <;> first | rfl | simp

@[simp] theorem reroute_guarded (s : State) (p : Rd → Bool) : guarded (reroute s p) = guarded s := by unfold reroute; dsimp only; (repeat' split) <;> first | rfl | simp

@[simp] theorem checkpointOf_guarded (s : State) (n : Nat) : guarded (checkpointOf s n) = guarded s := by simp [checkpointOf]

@[simp] theorem journalPage_guarded (s : State) (n : Nat) (m : MapImg) : guarded (journalPage s n m) = guarded s := by unfold journalPage; (repeat' split) <;> first | rfl | (simp; done) | (simp_all; done) | (dsimp only; (repeat' split) <;> first | rfl | (simp; done) | (simp_all; done))

@[simp] theorem persistImage_guarded (s : State) (i : PatImg) : guarded (persistImage s i) = guarded s := by unfold persistImage; (repeat' split) <;> first | rfl | (simp; done) | (simp_all; done) | (dsimp only; (repeat' split) <;> first | rfl | (simp; done) | (simp_all; done))

@[simp] theorem persistPatina_guarded (s : State) : guarded (persistPatina s) = guarded s := by simp [persistPatina]

@[simp] theorem plTake_guarded (s : State) (sid : Nat) (j : PlJob) : guarded (plTake s sid j) = guarded s := by unfold plTake; (repeat' split) <;> first | rfl | (simp; done) | (simp_all; done) | (dsimp only; (repeat' split) <;> first | rfl | (simp; done) | (simp_all; done))

@[simp] theorem plDone_guarded (s : State) (sid : Nat) (j : PlJob) : guarded (plDone s sid j) = guarded s := by unfold plDone; (repeat' split) <;> first | rfl | (simp; done) | (simp_all; done) | (dsimp only; (repeat' split) <;> first | rfl | (simp; done) | (simp_all; done))

@[simp] theorem plinthRecycle_guarded (s : State) (k : Nat) : guarded (plinthRecycle s k) = guarded s := by unfold plinthRecycle; (repeat' split) <;> first | rfl | (simp; done) | (simp_all; done) | (dsimp only; (repeat' split) <;> first | rfl | (simp; done) | (simp_all; done))

@[simp] theorem plinthOpen_guarded (s : State) (k : Nat) (r : Nat) : guarded (plinthOpen s k r) = guarded s := by unfold plinthOpen; (repeat' split) <;> first | rfl | (simp; done) | (simp_all; done) | (dsimp only; (repeat' split) <;> first | rfl | (simp; done) | (simp_all; done))

@[simp] theorem noteRelease_guarded (s : State) (x : Stripe) : guarded (noteRelease s x) = guarded s := by simp [noteRelease]

@[simp] theorem issueUnit_guarded (s : State) (sid : Nat) (c : Nat) : guarded (issueUnit s sid c) = guarded s := by simp [issueUnit]

@[simp] theorem leaveEnds_guarded (s : State) (k : Nat) (r : Nat) : guarded (leaveEnds s k r) = guarded s := by simp [leaveEnds]

@[simp] theorem endStripe_guarded (s : State) (sid : Nat) : guarded (endStripe s sid) = guarded s := by
  unfold endStripe; dsimp only; split
  · rfl
  · simp only [settle_guarded, reroute_guarded]; split <;> simp

@[simp] theorem tooManySplits_guarded (s : State) (slot : Nat) (zone : Option Nat) (kr : Nat × Nat) : guarded (tooManySplits s slot zone kr) = guarded s := by unfold tooManySplits; split <;> simp

@[simp] theorem addSplit_guarded (s : State) (k : Nat) (r : Nat) (c : Nat) (t : Nat) (typ : Nat) : guarded (addSplit s k r c t typ) = guarded s := by unfold addSplit; (repeat' split) <;> first | rfl | simp

@[simp] theorem retireInRow_guarded (s : State) (c : Nat) (k : Nat) (r : Nat) : guarded (retireInRow s c k r) = guarded s := by simp [retireInRow]

@[simp] theorem strandOp_guarded (s : State) (c k : Nat) (op : DieOp) : guarded (strandOp s c k op) = guarded s := by
  unfold strandOp; split <;> simp

@[simp] theorem narrowRank_guarded (s : State) (k : Nat) : guarded (narrowRank s k) = guarded s := by unfold narrowRank; (repeat' split) <;> first | rfl | (simp; done) | (simp_all; done) | (dsimp only; (repeat' split) <;> first | rfl | (simp; done) | (simp_all; done))

@[simp] theorem retireDie_guarded (s : State) (c k : Nat) : guarded (retireDie s c k) = guarded s := by
  unfold retireDie; dsimp only; split
  · rfl
  · simp

theorem takeSpare_guarded (s : State) (c k : Nat) (f : Nat → Die → Die) (t : State) (h : takeSpare s c k f = some t) :
    guarded t = guarded s := by
  unfold takeSpare at h; dsimp only at h; split at h
  · cases h; rw [guarded_foldl]
    · simp
    · intro a n; simp
  · cases h

@[simp] theorem programFailure_guarded (s : State) (sid c : Nat) : guarded (programFailure s sid c) = guarded s := by
  unfold programFailure; dsimp only; simp only [nicheRec_guarded, queueRecast_guarded]
  split
  · rename_i t h; simp [takeSpare_guarded _ _ _ _ _ h]
  · simp

@[simp] theorem endProgram_guarded (s : State) (sid c : Nat) (good : Bool) :
    guarded (endProgram s sid c good) = guarded s := by
  unfold endProgram; dsimp only; (repeat' split) <;> simp

@[simp] theorem eraseFailure_guarded (s : State) (ch k r : Nat) : guarded (eraseFailure s ch k r) = guarded s := by
  unfold eraseFailure; dsimp only; simp only [endErase_guarded]
  split
  · rename_i t h; exact takeSpare_guarded _ _ _ _ _ h
  · simp

@[simp] theorem endSpare_guarded (s : State) (ch : Nat) (k : Nat) (good : Bool) : guarded (endSpare s ch k good) = guarded s := by unfold endSpare; (repeat' split) <;> first | rfl | (simp; done) | (simp_all; done) | (dsimp only; (repeat' split) <;> first | rfl | (simp; done) | (simp_all; done))

@[simp] theorem loadStripe_guarded (s : State) (sid : Nat) (kind : Nat) : guarded (loadStripe s sid kind) = guarded s := by simp [loadStripe]

@[simp] theorem startPlinth_guarded (s : State) (k : Nat) (j : PlJob) : guarded (startPlinth s k j) = guarded s := by
  unfold startPlinth; split
  · rfl
  · simp

theorem execSchedulerTick_guarded (s : State) : OutAll (guarded · = guarded s) (execSchedulerTick s) := by simp [execSchedulerTick]

theorem execStripeEligible_guarded (sid : Nat) (s : State) : OutAll (guarded · = guarded s) (execStripeEligible sid s) := by simp [execStripeEligible]

@[simp] theorem noteTokWait_guarded (s : State) (sid : Nat) : guarded (noteTokWait s sid) = guarded s := by simp [noteTokWait]

theorem execStripeGrant_guarded (rank : Nat) (s : State) :
    OutAll (guarded · = guarded s) (execStripeGrant rank s) := by
  unfold execStripeGrant; split
  · rfl
  · dsimp only; (repeat' split) <;> simp

theorem execEraseResume_guarded (rank : Nat) (s : State) : OutAll (guarded · = guarded s) (execEraseResume rank s) := by simp [execEraseResume]

theorem recastTake_fold (n o : Nat) (l : List Nat) (a : State × Bool) :
    guarded (l.foldl (fun (a : State × Bool) _ =>
      if !a.2 then a
      else
        let q := allocate a.1 n 3 o false none
        if q.2.isSome then (q.1, true) else (parkOn q.1 n o false, false)) a).1 = guarded a.1 := by
  induction l generalizing a with
  | nil => rfl
  | cons x t ih =>
    rw [List.foldl_cons, ih]; dsimp only; split
    · rfl
    · split <;> simp

@[simp] theorem recastTake_guarded (s : State) (k r : Nat) : guarded (recastTake s k r).1 = guarded s := by
  unfold recastTake; dsimp only; rw [recastTake_fold]

@[simp] theorem takeDest_guarded (s : State) (k : Nat) (r : Nat) (f : Nat) : guarded (takeDest s k r f) = guarded s := by unfold takeDest; (repeat' split) <;> first | rfl | (simp; done) | (simp_all; done) | (dsimp only; (repeat' split) <;> first | rfl | (simp; done) | (simp_all; done))

@[simp] theorem beginCopy_guarded (s : State) (k r : Nat) : guarded (beginCopy s k r) = guarded s := by
  unfold beginCopy; dsimp only; split
  · simp
  · split
    · simp
    · split
      · simp
      · simp
    · rfl

@[simp] theorem beginProgram_guarded (s : State) (k : Nat) (r : Nat) : guarded (beginProgram s k r) = guarded s := by unfold beginProgram; (repeat' split) <;> first | rfl | (simp; done) | (simp_all; done) | (dsimp only; (repeat' split) <;> first | rfl | (simp; done) | (simp_all; done))

@[simp] theorem startRead1_guarded (s : State) (i kind : Nat) (resv : Bool) :
    guarded (startRead1 s i kind resv) = guarded s := by
  unfold startRead1; dsimp only; simp only [notePeak_guarded, setDie_guarded, setOp_guarded]
  split
  · simp
  · split <;> simp

@[simp] theorem startWork_guarded (s : State) (k : Nat) (w : Work) (resv : Bool) :
    guarded (startWork s k w resv) = guarded s := by
  unfold startWork; split <;> simp

@[simp] theorem countTurn_guarded (s : State) (l : List Nat) (row : Nat) : guarded (countTurn s l row) = guarded s := by simp [countTurn]

@[simp] theorem selectWork_guarded (s : State) (k : Nat) : guarded (selectWork s k) = guarded s := by unfold selectWork; (repeat' split) <;> first | rfl | (simp; done) | (simp_all; done) | (dsimp only; (repeat' split) <;> first | rfl | (simp; done) | (simp_all; done))

theorem execDieOperationSelect_guarded (rank : Nat) (s : State) : OutAll (guarded · = guarded s) (execDieOperationSelect rank s) := by unfold execDieOperationSelect; split <;> simp

@[simp] theorem copyFailure_guarded (s : State) (k r c : Nat) : guarded (copyFailure s k r c) = guarded s := by
  unfold copyFailure; dsimp only; split
  · rename_i t h; simp [takeSpare_guarded _ _ _ _ _ h]
  · split <;> simp

@[simp] theorem copyStep_guarded (s : State) (k : Nat) (r : Nat) : guarded (copyStep s k r) = guarded s := by simp [copyStep]

@[simp] theorem copyCodeword_guarded (sid : Nat) (ends : List LadderEnd) (s : State) (e : LadderEnd) : guarded (copyCodeword sid ends s e) = guarded s := by unfold copyCodeword; dsimp only; (repeat' split) <;> first | rfl | simp

theorem execRecastCopyStripe_guarded (rank : Nat) (row : Nat) (ends : List LadderEnd) (s : State) : OutAll (guarded · = guarded s) (execRecastCopyStripe rank row ends s) := by unfold execRecastCopyStripe; dsimp only; (repeat' split) <;> first | rfl | simp

@[simp] theorem issueProgram_guarded (s : State) (d : Nat) (k : Nat) (op : DieOp) : guarded (issueProgram s d k op) = guarded s := by unfold issueProgram; (repeat' split) <;> first | rfl | (simp; done) | (simp_all; done) | (dsimp only; (repeat' split) <;> first | rfl | (simp; done) | (simp_all; done))

theorem execProgramIssued_guarded (ch : Nat) (rank : Nat) (ok_ : Bool) (s : State) : OutAll (guarded · = guarded s) (execProgramIssued ch rank ok_ s) := by unfold execProgramIssued; dsimp only; (repeat' split) <;> first | rfl | simp

@[simp] theorem failStep_guarded (s : State) (i : Nat) : guarded (failStep s i) = guarded s := by unfold failStep; dsimp only; (repeat' split) <;> first | rfl | simp

@[simp] theorem endOp_guarded (s : State) (ch k : Nat) (good : Bool) : guarded (endOp s ch k good) = guarded s := by
  unfold endOp; dsimp only; split <;> (repeat' split) <;> simp

@[simp] theorem suspendDone_guarded (s : State) (d : Nat) : guarded (suspendDone s d) = guarded s := by
  unfold suspendDone; dsimp only; (repeat' split) <;> simp

@[simp] theorem suspendFails_guarded (s : State) (ch : Nat) (k : Nat) : guarded (suspendFails s ch k) = guarded s := by unfold suspendFails; dsimp only; (repeat' split) <;> first | rfl | simp

theorem execStatusPoll_guarded (ch : Nat) (rank : Nat) (r : Poll) (s : State) : OutAll (guarded · = guarded s) (execStatusPoll ch rank r s) := by unfold execStatusPoll; dsimp only; (repeat' split) <;> first | rfl | simp

theorem execOperationTimeout_guarded (ch : Nat) (rank : Nat) (s : State) : OutAll (guarded · = guarded s) (execOperationTimeout ch rank s) := by unfold execOperationTimeout; dsimp only; (repeat' split) <;> first | rfl | simp

@[simp] theorem noteUrgOver_guarded (s : State) (i : Nat) : guarded (noteUrgOver s i) = guarded s := by unfold noteUrgOver; dsimp only; (repeat' split) <;> first | rfl | simp

@[simp] theorem suspendProgram_guarded (s : State) (d : Nat) (i : Nat) : guarded (suspendProgram s d i) = guarded s := by simp [suspendProgram]

@[simp] theorem urgentAtDie_guarded (s : State) (d i : Nat) : guarded (urgentAtDie s d i) = guarded s := by
  unfold urgentAtDie; dsimp only; split
  · rfl
  · split <;> simp

@[simp] theorem firstGrant_guarded (s : State) (i : Nat) : guarded (firstGrant s i) = guarded s := by unfold firstGrant; (repeat' split) <;> first | rfl | (simp; done) | (simp_all; done) | (dsimp only; (repeat' split) <;> first | rfl | (simp; done) | (simp_all; done))

@[simp] theorem offerUrgent_guarded (s : State) (i : Nat) : guarded (offerUrgent s i) = guarded s := by simp [offerUrgent]

theorem execUrgentReadGrant_guarded (id : Nat) (s : State) : OutAll (guarded · = guarded s) (execUrgentReadGrant id s) := by simp [execUrgentReadGrant]

theorem execProgramResume_guarded (ch : Nat) (rank : Nat) (s : State) : OutAll (guarded · = guarded s) (execProgramResume ch rank s) := by simp [execProgramResume]

@[simp] theorem crossed_guarded (s : State) (i : Nat) : guarded (crossed s i) = guarded s := by
  unfold crossed; dsimp only; (repeat' split) <;> simp

theorem execChannelBurstSelect_guarded (ch : Nat) (s : State) : OutAll (guarded · = guarded s) (execChannelBurstSelect ch s) := by unfold execChannelBurstSelect; dsimp only; (repeat' split) <;> first | rfl | simp

theorem execCodewordDecode_guarded (rd : Nat) (q : Decoded) (s : State) : OutAll (guarded · = guarded s) (execCodewordDecode rd q s) := by unfold execCodewordDecode; dsimp only; (repeat' split) <;> first | rfl | simp

@[simp] theorem scrubStripe_guarded (s : State) (sid : Nat) : guarded (scrubStripe s sid) = guarded s := by unfold scrubStripe; dsimp only; (repeat' split) <;> first | rfl | simp

theorem execScrubPass_guarded (s : State) : OutAll (guarded · = guarded s) (execScrubPass s) := by simp [execScrubPass]

@[simp] theorem checkRanks_guarded (s : State) : guarded (checkRanks s) = guarded s := by unfold checkRanks; (repeat' split) <;> first | rfl | (simp; done) | (simp_all; done) | (dsimp only; (repeat' split) <;> first | rfl | (simp; done) | (simp_all; done))

@[simp] theorem channelLost_guarded (s : State) (ch : Nat) : guarded (channelLost s ch) = guarded s := by
  unfold channelLost; dsimp only; simp only [trigger_guarded, checkRanks_guarded]
  rw [guarded_foldl]
  · simp only [devRec_guarded, setChan_guarded]; split <;> simp
  · intro a x; split <;> simp

theorem execChannelEnumeration_guarded (ch : Nat) (pages : List DiePage) (eyes : List (Nat × Nat)) (s : State) :
    OutAll (guarded · = guarded s) (execChannelEnumeration ch pages eyes s) := by
  unfold execChannelEnumeration; split
  · rfl
  · dsimp only; split
    · split <;> simp only [OutAll_ok, channelLost_guarded, setChan_guarded, checkRanks_guarded] <;>
        (apply guarded_foldl; intro a x; (repeat' split) <;> simp)
    · simp only [OutAll_ok, channelLost_guarded, setChan_guarded]
      apply guarded_foldl; intro a x; (repeat' split) <;> simp

theorem execZqCalibrationShort_guarded (ch : Nat) (ce : Nat) (s : State) : OutAll (guarded · = guarded s) (execZqCalibrationShort ch ce s) := by simp [execZqCalibrationShort]

theorem execEyeTracking_guarded (ch : Nat) (ce : Nat) (rd : Nat) (wr : Nat) (s : State) : OutAll (guarded · = guarded s) (execEyeTracking ch ce rd wr s) := by simp [execEyeTracking]

theorem execChannelGap_guarded (ch : Nat) (s : State) : OutAll (guarded · = guarded s) (execChannelGap ch s) := by simp [execChannelGap]

theorem execMakeGap_guarded (ch : Nat) (s : State) : OutAll (guarded · = guarded s) (execMakeGap ch s) := by
  unfold execMakeGap; dsimp only; split
  · rfl
  · simp only [OutAll_ok]; rw [guarded_foldl]
    · simp
    · intro a k; simp

@[simp] theorem backInService_guarded (s : State) (ch : Nat) (r : Nat) (rd : Nat) (wr : Nat) (pre : List Nat) (low : Bool) : guarded (backInService s ch r rd wr pre low) = guarded s := by simp [backInService]

@[simp] theorem quickAtExit_guarded (s : State) (ch : Nat) : guarded (quickAtExit s ch) = guarded s := by simp [quickAtExit]

theorem execQuickRetrainVerify_guarded (ch : Nat) (rd : Nat) (wr : Nat) (s : State) : OutAll (guarded · = guarded s) (execQuickRetrainVerify ch rd wr s) := by unfold execQuickRetrainVerify; dsimp only; (repeat' split) <;> first | rfl | simp

theorem execFullTrainingEnd_guarded (ch rd wr : Nat) (s : State) :
    OutAll (guarded · = guarded s) (execFullTrainingEnd ch rd wr s) := by
  unfold execFullTrainingEnd; dsimp only; (repeat' split) <;> simp

theorem execChannelDomainOff_guarded (d : Nat) (s : State) : OutAll (guarded · = guarded s) (execChannelDomainOff d s) := by simp [execChannelDomainOff]

theorem execRowAgeTrigger_guarded (rank : Nat) (row : Nat) (s : State) : OutAll (guarded · = guarded s) (execRowAgeTrigger rank row s) := by simp [execRowAgeTrigger]

@[simp] theorem recastMissed_guarded (s : State) (key : Nat) : guarded (recastMissed s key) = guarded s := by simp [recastMissed]

@[simp] theorem missedLow_guarded (s : State) : guarded (missedLow s) = guarded s := by simp [missedLow]

theorem execRecastDeadlineMissed_guarded (rank : Nat) (row : Nat) (s : State) : OutAll (guarded · = guarded s) (execRecastDeadlineMissed rank row s) := by simp [execRecastDeadlineMissed]

@[simp] theorem readdress_guarded (s : State) (i : Nat) (old : Stripe) : guarded (readdress s i old) = guarded s := by unfold readdress; (repeat' split) <;> first | rfl | (simp; done) | (simp_all; done) | (dsimp only; (repeat' split) <;> first | rfl | (simp; done) | (simp_all; done))

@[simp] theorem readdressRow_guarded (was s : State) (k r : Nat) : guarded (readdressRow was s k r) = guarded s := by
  simp [readdressRow]

@[simp] theorem recastSwap_guarded (s : State) (k : Nat) (r : Nat) (f : Nat) : guarded (recastSwap s k r f) = guarded s := by simp [recastSwap]

theorem execRecastCommit_guarded (rank : Nat) (row : Nat) (s : State) : OutAll (guarded · = guarded s) (execRecastCommit rank row s) := by unfold execRecastCommit; dsimp only; (repeat' split) <;> first | rfl | simp

theorem execFrameIndexPersist_guarded (slot : Nat) (zone : Nat) (s : State) : OutAll (guarded · = guarded s) (execFrameIndexPersist slot zone s) := by unfold execFrameIndexPersist; dsimp only; (repeat' split) <;> first | rfl | simp

@[simp] theorem askJob_guarded (s : State) (j : PlJob) : guarded (askJob s j) = guarded s := by unfold askJob; (repeat' split) <;> first | rfl | (simp; done) | (simp_all; done) | (dsimp only; (repeat' split) <;> first | rfl | (simp; done) | (simp_all; done))

theorem execCheckpoint_guarded (niche : Nat) (s : State) : OutAll (guarded · = guarded s) (execCheckpoint niche s) := by simp [execCheckpoint]

theorem execJournalPageProgram_guarded (s : State) : OutAll (guarded · = guarded s) (execJournalPageProgram s) := by simp [execJournalPageProgram]

theorem execPatinaPersist_guarded (s : State) : OutAll (guarded · = guarded s) (execPatinaPersist s) := by simp [execPatinaPersist]

theorem execArmatureMirrorWrite_guarded (s : State) : OutAll (guarded · = guarded s) (execArmatureMirrorWrite s) := by simp [execArmatureMirrorWrite]

theorem execGcBackgroundStart_guarded (slot : Nat) (s : State) : OutAll (guarded · = guarded s) (execGcBackgroundStart slot s) := by simp [execGcBackgroundStart]

@[simp] theorem collectReads_guarded (s : State) (i : Nat) (l : List Nat) : guarded (collectReads s i l) = guarded s := by simp [collectReads]

theorem execGcVictimCollect_guarded (slot : Nat) (s : State) : OutAll (guarded · = guarded s) (execGcVictimCollect slot s) := by unfold execGcVictimCollect; split <;> simp

theorem execGcVictimFree_guarded (slot : Nat) (s : State) : OutAll (guarded · = guarded s) (execGcVictimFree slot s) := by unfold execGcVictimFree; split <;> simp

@[simp] theorem adminFull_guarded (s : State) (c cid : Nat) (body : State → State) (h : ∀ t, guarded (body t) = guarded t) :
    OutAll (guarded · = guarded s) (adminFull s c cid body) := by
  unfold adminFull; apply admin_guarded; intro t; split <;> simp [h, adone, schedule, setCq]

@[simp] theorem adminRom_guarded (s : State) (c cid : Nat) (body : State → State) (h : ∀ t, guarded (body t) = guarded t) :
    OutAll (guarded · = guarded s) (adminRom s c cid body) := by
  unfold adminRom; apply admin_guarded; intro t; split <;> simp [h, adone, schedule, setCq]

@[simp] theorem adminPf0_guarded (s : State) (c cid : Nat) (body : State → State) (h : ∀ t, guarded (body t) = guarded t) :
    OutAll (guarded · = guarded s) (adminPf0 s c cid body) := by
  unfold adminPf0; apply admin_guarded; intro t; split <;> simp [h, adone, schedule, setCq]

@[simp] theorem afterSan_guarded (c cid : Nat) (f : State → State) (s : State) (h : ∀ t, guarded (f t) = guarded t) :
    guarded (afterSan c cid f s) = guarded s := by
  unfold afterSan; split <;> simp [h]

@[simp] theorem createCq_guarded (s : State) (c : Nat) (cid : Nat) (qid : Nat) (qsize : Nat) (pc : Bool) (ien : Bool) (iv : Nat) : guarded (createCq s c cid qid qsize pc ien iv) = guarded s := by simp [createCq]

theorem execCreateIoCq_guarded (c : Nat) (cid : Nat) (qid : Nat) (qsize : Nat) (pc : Bool) (ien : Bool) (iv : Nat) (s : State) : OutAll (guarded · = guarded s) (execCreateIoCq c cid qid qsize pc ien iv s) := by simp [execCreateIoCq]

@[simp] theorem createSq_guarded (s : State) (c : Nat) (cid : Nat) (qid : Nat) (qsize : Nat) (cqid : Nat) (pc : Bool) : guarded (createSq s c cid qid qsize cqid pc) = guarded s := by simp [createSq]

theorem execCreateIoSq_guarded (c : Nat) (cid : Nat) (qid : Nat) (qsize : Nat) (cqid : Nat) (pc : Bool) (s : State) : OutAll (guarded · = guarded s) (execCreateIoSq c cid qid qsize cqid pc s) := by simp [execCreateIoSq]

@[simp] theorem deleteSq_guarded (s : State) (c : Nat) (cid : Nat) (qid : Nat) : guarded (deleteSq s c cid qid) = guarded s := by simp [deleteSq]

theorem execDeleteIoSq_guarded (c : Nat) (cid : Nat) (qid : Nat) (s : State) : OutAll (guarded · = guarded s) (execDeleteIoSq c cid qid s) := by simp [execDeleteIoSq]

@[simp] theorem endHold_guarded (s : State) (k : Nat) : guarded (endHold s k) = guarded s := by unfold endHold; split <;> rfl

@[simp] theorem endFreeze_guarded (s : State) (k : Nat) : guarded (endFreeze s k) = guarded s := by unfold endFreeze; split <;> simp

theorem execDeleteSqDrainComplete_guarded (c : Nat) (qid : Nat) (s : State) : OutAll (guarded · = guarded s) (execDeleteSqDrainComplete c qid s) := by unfold execDeleteSqDrainComplete; dsimp only; (repeat' split) <;> first | rfl | simp

@[simp] theorem deleteCq_guarded (s : State) (c : Nat) (cid : Nat) (qid : Nat) : guarded (deleteCq s c cid qid) = guarded s := by
  unfold deleteCq; (try dsimp only); (repeat' split) <;> first | rfl | (simp; done) | (simp; rfl) | (simp; intros; (repeat' split) <;> first | rfl | (simp; done) | (simp; rfl)) | (intros; (repeat' split) <;> first | rfl | (simp_all; done) | (simp_all; rfl))

theorem execDeleteIoCq_guarded (c : Nat) (cid : Nat) (qid : Nat) (s : State) : OutAll (guarded · = guarded s) (execDeleteIoCq c cid qid s) := by simp [execDeleteIoCq]

@[simp] theorem abortDone_guarded (s : State) (c : Nat) (cid : Nat) (st : Status) (dw0 : Nat) : guarded (abortDone s c cid st dw0) = guarded s := by simp [abortDone]

@[simp] theorem abortCmd_guarded (s : State) (c : Nat) (cid : Nat) (sqid : Nat) (acid : Nat) : guarded (abortCmd s c cid sqid acid) = guarded s := by unfold abortCmd; dsimp only; (repeat' split) <;> first | rfl | simp

theorem execAbort_guarded (c : Nat) (cid : Nat) (sqid : Nat) (acid : Nat) (s : State) : OutAll (guarded · = guarded s) (execAbort c cid sqid acid s) := by
  unfold execAbort; (try dsimp only); (repeat' split) <;> first | rfl | (simp; done) | (simp; rfl) | (simp; intros; (repeat' split) <;> first | rfl | (simp; done) | (simp; rfl)) | (intros; (repeat' split) <;> first | rfl | (simp_all; done) | (simp_all; rfl))

theorem execAsynchronousEventRequest_guarded (c cid : Nat) (s : State) :
    OutAll (guarded · = guarded s) (execAsynchronousEventRequest c cid s) := by
  unfold execAsynchronousEventRequest; apply admin_guarded; intro t; dsimp only; split
  · simp
  · simp only [pumpEvs_guarded, setCtrl_guarded]

theorem execKeepAlive_guarded (c : Nat) (cid : Nat) (s : State) : OutAll (guarded · = guarded s) (execKeepAlive c cid s) := by simp [execKeepAlive]

@[simp] theorem queueThaw_guarded (s : State) (c : Nat) (cid : Nat) (sqid : Nat) : guarded (queueThaw s c cid sqid) = guarded s := by simp [queueThaw]

theorem execQueueThaw_guarded (c : Nat) (cid : Nat) (sqid : Nat) (s : State) : OutAll (guarded · = guarded s) (execQueueThaw c cid sqid s) := by simp [execQueueThaw]

theorem execQueueThawResume_guarded (c : Nat) (sqid : Nat) (s : State) : OutAll (guarded · = guarded s) (execQueueThawResume c sqid s) := by unfold execQueueThawResume; dsimp only; (repeat' split) <;> first | rfl | simp

@[simp] theorem numberOfQueues_guarded (s : State) (c : Nat) (cid : Nat) (nsqr : Nat) (ncqr : Nat) : guarded (numberOfQueues s c cid nsqr ncqr) = guarded s := by unfold numberOfQueues; dsimp only; (repeat' split) <;> first | rfl | simp

theorem execSetFeaturesNumberOfQueues_guarded (c : Nat) (cid : Nat) (nsqr : Nat) (ncqr : Nat) (s : State) : OutAll (guarded · = guarded s) (execSetFeaturesNumberOfQueues c cid nsqr ncqr s) := by simp [execSetFeaturesNumberOfQueues]

@[simp] theorem urgentMapping_guarded (s : State) (c : Nat) (cid : Nat) (sqid : Nat) (cls : Nat) (rsv : Nat) : guarded (urgentMapping s c cid sqid cls rsv) = guarded s := by simp [urgentMapping]

theorem execSetFeaturesUrgentClassSqMapping_guarded (c : Nat) (cid : Nat) (sqid : Nat) (cls : Nat) (rsv : Nat) (s : State) : OutAll (guarded · = guarded s) (execSetFeaturesUrgentClassSqMapping c cid sqid cls rsv s) := by simp [execSetFeaturesUrgentClassSqMapping]

@[simp] theorem closeGone_guarded (s : State) : guarded (closeGone s) = guarded s := by simp [closeGone]

@[simp] theorem dropQueues_guarded (s : State) (c : Nat) : guarded (dropQueues s c) = guarded s := by simp [dropQueues]

@[simp] theorem dropController_guarded (s : State) (c : Nat) : guarded (dropController s c) = guarded s := by simp [dropController]

@[simp] theorem dropAer_guarded (s : State) (c : Nat) : guarded (dropAer s c) = guarded s := by simp [dropAer]

@[simp] theorem dropFunction_guarded (s : State) (c : Nat) : guarded (dropFunction s c) = guarded s := by
  unfold dropFunction; simp

@[simp] theorem closeStage_guarded (s : State) (p : Nat) : guarded (closeStage s p) = guarded s := by unfold closeStage; split <;> simp

@[simp] theorem flr_guarded (s : State) (c : Nat) : guarded (flr s c) = guarded s := by
  unfold flr; dsimp only; split
  · simp
  · split <;> simp

@[simp] theorem portReset_guarded (s : State) (p : Nat) : guarded (portReset s p) = guarded s := by
  unfold portReset; dsimp only; simp only [trigger_guarded]; simp

@[simp] theorem decidePort_guarded (s : State) (p : Nat) : guarded (decidePort s p) = guarded s := by
  unfold decidePort; dsimp only; simp only [settle_guarded]; simp

@[simp] theorem linkRec_guarded (s : State) (p : Nat) : guarded (linkRec s p) = guarded s := by simp [linkRec]

@[simp] theorem forceUnit_guarded (s : State) (sid : Nat) (c : Nat) : guarded (forceUnit s sid c) = guarded s := by simp [forceUnit]

@[simp] theorem forceStripe_guarded (s : State) (sid : Nat) : guarded (forceStripe s sid) = guarded s := by simp [forceStripe]

@[simp] theorem commitSlots_guarded (s : State) (l : List Nat) : guarded (commitSlots s l) = guarded s := by simp [commitSlots]

@[simp] theorem cleanMark_guarded (s : State) : guarded (cleanMark s) = guarded s := by simp [cleanMark]

@[simp] theorem commitAll_guarded (s : State) (l : List Nat) : guarded (commitAll s l) = guarded s := by simp [commitAll]

@[simp] theorem endShutdown_guarded (s : State) (c : Nat) : guarded (endShutdown s c) = guarded s := by simp [endShutdown]

@[simp] theorem endShutdowns_guarded (s : State) : guarded (endShutdowns s) = guarded s := by simp [endShutdowns]

@[simp] theorem dropMoves_guarded (s : State) : guarded (dropMoves s) = guarded s := by
  unfold dropMoves; dsimp only
  rw [guarded_foldl]
  · rw [guarded_foldl]
    · simp
    · intro a x; apply guarded_foldl; intro b y; simp
  · intro a x; simp

@[simp] theorem abandonSteps_guarded (s : State) : guarded (abandonSteps s) = guarded s := by rfl

@[simp] theorem quickAll_guarded (s : State) : guarded (quickAll s) = guarded s := by
  unfold quickAll; apply guarded_foldl; intro a x; simp

@[simp] theorem abandonLoads_guarded (s : State) : guarded (abandonLoads s) = guarded s := by unfold abandonLoads; (repeat' split) <;> first | rfl | (simp; done) | (simp_all; done) | (dsimp only; (repeat' split) <;> first | rfl | (simp; done) | (simp_all; done))

@[simp] theorem beginFlush_guarded (s : State) (ph : Phase) : guarded (beginFlush s ph) = guarded s := by
  unfold beginFlush; dsimp only
  generalize hs : dropMoves _ = s2
  have h2 : guarded s2 = guarded s := by rw [← hs]; simp
  rw [← h2]; simp only [abandonSteps_guarded]
  split
  · simp
  · simp

@[simp] theorem finalRecord_guarded (s : State) : guarded (finalRecord s) = guarded s := by simp [finalRecord]

@[simp] theorem setOperational_guarded (s : State) (ps : Nat) : guarded (setOperational s ps) = guarded s := by simp [setOperational]

@[simp] theorem applyState_guarded (s : State) : guarded (applyState s) = guarded s := by simp [applyState]

@[simp] theorem startDrbg_guarded (s : State) : guarded (startDrbg s) = guarded s := by simp [startDrbg]

@[simp] theorem fedStop_guarded (s : State) : guarded (fedStop s) = guarded s := by unfold fedStop; split <;> rfl

@[simp] theorem fedStart_guarded (s : State) : guarded (fedStart s) = guarded s := by unfold fedStart; split <;> rfl

@[simp] theorem reachPs4_guarded (s0 : State) : guarded (reachPs4 s0) = guarded s0 := by simp [reachPs4]

@[simp] theorem setReasons_guarded (s : State) (m : Nat) : guarded (setReasons s m) = guarded s := by simp [setReasons]

@[simp] theorem refreshHold_guarded (s : State) : guarded (refreshHold s) = guarded s := by simp [refreshHold]

@[simp] theorem chargerOn_guarded (s : State) : guarded (chargerOn s) = guarded s := by simp [chargerOn]

@[simp] theorem readHuv_guarded (s : State) (mv : Nat) (code : Nat) : guarded (readHuv s mv code) = guarded s := by simp [readHuv]

@[simp] theorem readVin_guarded (s : State) (mv : Nat) (code : Nat) : guarded (readVin s mv code) = guarded s := by simp [readVin]

@[simp] theorem dropTest_guarded (s : State) : guarded (dropTest s) = guarded s := by rfl

theorem execPfailInDeassert_guarded (s : State) : OutAll (guarded · = guarded s) (execPfailInDeassert s) := by simp [execPfailInDeassert]

theorem execAdcFastModeReading_guarded (mv : Nat) (s : State) :
    OutAll (guarded · = guarded s) (execAdcFastModeReading mv s) := by
  unfold execAdcFastModeReading; split
  · rfl
  · split
    · dsimp only; split <;> simp
    · simp

@[simp] theorem recoverBrace_guarded (s : State) : guarded (recoverBrace s) = guarded s := by simp [recoverBrace]

theorem execBraceTimerExpiry_guarded (s : State) : OutAll (guarded · = guarded s) (execBraceTimerExpiry s) := by
  unfold execBraceTimerExpiry; split
  · rfl
  · split <;> simp

@[simp] theorem bandFailed_guarded (s : State) (u : BandUnit) (l : List BandUnit) : guarded (bandFailed s u l) = guarded s := by simp [bandFailed]

theorem execBandUnitWrite_guarded (ch : Nat) (rank : Nat) (fail : Bool) (s : State) : OutAll (guarded · = guarded s) (execBandUnitWrite ch rank fail s) := by unfold execBandUnitWrite; (repeat' split) <;> simp

@[simp] theorem endFlush_guarded (s : State) : guarded (endFlush s) = guarded s := by unfold endFlush; split <;> simp

@[simp] theorem healthTest_guarded (s : State) : guarded (healthTest s) = guarded s := by simp [healthTest]

theorem execHealthTestStart_guarded (s : State) : OutAll (guarded · = guarded s) (execHealthTestStart s) := by simp [execHealthTestStart]

@[simp] theorem afterTest_guarded (s : State) : guarded (afterTest s) = guarded s := by simp [afterTest]

@[simp] theorem testFailed_guarded (s : State) : guarded (testFailed s) = guarded s := by simp [testFailed]

@[simp] theorem testPassed_guarded (s : State) (c : Nat) : guarded (testPassed s c) = guarded s := by
  unfold testPassed; dsimp only; simp only [trigger_guarded, setReasons_guarded]; simp

theorem execHealthTestSample_guarded (mv : Nat) (s : State) :
    OutAll (guarded · = guarded s) (execHealthTestSample mv s) := by
  unfold execHealthTestSample; split
  · rfl
  · generalize senseCode 50 mv = code; dsimp only; split
    · simp
    · (repeat' split) <;> simp

theorem execHealthTestTimeout_guarded (s : State) : OutAll (guarded · = guarded s) (execHealthTestTimeout s) := by simp [execHealthTestTimeout]

theorem execHoldupChargeTimeout_guarded (s : State) : OutAll (guarded · = guarded s) (execHoldupChargeTimeout s) := by simp [execHoldupChargeTimeout]

@[simp] theorem tempEvents_guarded (old s : State) : guarded (tempEvents old s) = guarded s := by
  unfold tempEvents; apply guarded_foldl; intro a c; split <;> simp

@[simp] theorem logRead_guarded (s : State) (c : Nat) (r : LogReq) : guarded (logRead s c r) = guarded s := by
  unfold logRead; dsimp only; simp only [pumpEvs_guarded]; split <;> simp

@[simp] theorem getLog_guarded (s : State) (c : Nat) (cid : Nat) (r : LogReq) : guarded (getLog s c cid r) = guarded s := by unfold getLog; split <;> simp

theorem execGetLogPage_guarded (c : Nat) (cid : Nat) (r : LogReq) (s : State) : OutAll (guarded · = guarded s) (execGetLogPage c cid r s) := by unfold execGetLogPage; (repeat' split) <;> first | rfl | simp

theorem execIdentify_guarded (c : Nat) (cid : Nat) (cns : Nat) (nsid : Nat) (cntid : Nat) (csi : Nat) (s : State) : OutAll (guarded · = guarded s) (execIdentify c cid cns nsid cntid csi s) := by simp [execIdentify]

theorem execUnsupportedOpcode_guarded (c : Nat) (q : Nat) (cid : Nat) (opcode : Nat) (nsid : Nat) (cdw10 : Nat) (cdw13 : Nat) (s : State) : OutAll (guarded · = guarded s) (execUnsupportedOpcode c q cid opcode nsid cdw10 cdw13 s) := by simp [execUnsupportedOpcode]

@[simp] theorem thermEvent_guarded (s : State) : guarded (thermEvent s) = guarded s := by simp [thermEvent]

@[simp] theorem readSensor_guarded (s : State) (n : Nat) (code : Nat) (v : Int) : guarded (readSensor s n code v) = guarded s := by simp [readSensor]

@[simp] theorem enforce_guarded (s : State) (e : Nat) : guarded (enforce s e) = guarded s := by simp [enforce]

@[simp] theorem stageUp_guarded (s : State) : guarded (stageUp s) = guarded s := by simp [stageUp]

@[simp] theorem setLevel_guarded (s : State) (critical : Bool) : guarded (setLevel s critical) = guarded s := by simp [setLevel]

@[simp] theorem breachAll_guarded (s : State) (bit : Nat) : guarded (breachAll s bit) = guarded s := by simp [breachAll]

theorem execGraceTimerExpiry_guarded (s : State) : OutAll (guarded · = guarded s) (execGraceTimerExpiry s) := by simp [execGraceTimerExpiry]

theorem execThermalCoolTimer_guarded (s : State) : OutAll (guarded · = guarded s) (execThermalCoolTimer s) := by simp [execThermalCoolTimer]

@[simp] theorem fedClockLost_guarded (s : State) : guarded (fedClockLost s) = guarded s := by simp [fedClockLost]

@[simp] theorem enterFallback_guarded (s : State) (m : Nat) (queue : Bool) : guarded (enterFallback s m queue) = guarded s := by simp [enterFallback]

theorem execRcoFaultJudged_guarded (count : Nat) (s : State) : OutAll (guarded · = guarded s) (execRcoFaultJudged count s) := by simp [execRcoFaultJudged]

theorem execRcoRetry_guarded (s : State) : OutAll (guarded · = guarded s) (execRcoRetry s) := by simp [execRcoRetry]

theorem execOrderlyFlushComplete_guarded (s : State) : OutAll (guarded · = guarded s) (execOrderlyFlushComplete s) := by simp [execOrderlyFlushComplete]

theorem execCrossingRearm_guarded (i : Island) (s : State) : OutAll (guarded · = guarded s) (execCrossingRearm i s) := by simp [execCrossingRearm]

theorem execFrequencyMeasurementDone_guarded (count : Nat) (s : State) : OutAll (guarded · = guarded s) (execFrequencyMeasurementDone count s) := by simp [execFrequencyMeasurementDone]

@[simp] theorem beginEntry_guarded (s : State) (ps : Nat) : guarded (beginEntry s ps) = guarded s := by simp [beginEntry]

@[simp] theorem refusePs_guarded (s : State) (c : Nat) (cid : Nat) (st : Status) : guarded (refusePs s c cid st) = guarded s := by simp [refusePs]

theorem execPs4L12Reached_guarded (s : State) : OutAll (guarded · = guarded s) (execPs4L12Reached s) := by simp [execPs4L12Reached]

theorem execPowerEstimate_guarded (est : Nat) (s : State) : OutAll (guarded · = guarded s) (execPowerEstimate est s) := by simp [execPowerEstimate]

@[simp] theorem saveFeature_guarded (s : State) (fid : Nat) (v : Nat) : guarded (saveFeature s fid v) = guarded s := by simp [saveFeature]

@[simp] theorem setSaveable_guarded (s : State) (c cid fid : Nat) (sv good : Bool) (v : Nat) (put : State → State)
    (h : ∀ t, guarded (put t) = guarded t) : guarded (setSaveable s c cid fid sv good v put) = guarded s := by
  unfold setSaveable; dsimp only; (repeat' split) <;> simp [h]

@[simp] theorem setVwc_guarded (s : State) (c : Nat) (cid : Nat) (wce : Bool) : guarded (setVwc s c cid wce) = guarded s := by simp [setVwc]

@[simp] theorem setAec_guarded (s : State) (c : Nat) (cid : Nat) (mask : Nat) : guarded (setAec s c cid mask) = guarded s := by simp [setAec]

@[simp] theorem setApst_guarded (s : State) (c cid : Nat) (sv enable : Bool) (l : List ApstEntry) :
    guarded (setApst s c cid sv enable l) = guarded s := by
  unfold setApst; apply setSaveable_guarded; intro t; dsimp only; split <;> simp

@[simp] theorem setNoppme_guarded (s : State) (c : Nat) (cid : Nat) (v : Bool) : guarded (setNoppme s c cid v) = guarded s := by simp [setNoppme]

@[simp] theorem setGrace_guarded (s : State) (c cid : Nat) (sv : Bool) (ms rsv : Nat) :
    guarded (setGrace s c cid sv ms rsv) = guarded s := by
  unfold setGrace; apply setSaveable_guarded; intro t; simp

@[simp] theorem setSchedule_guarded (s : State) (c : Nat) (cid : Nat) (sv : Bool) (period : Nat) (first : Nat) (rsv : Nat) (runNow : Bool) : guarded (setSchedule s c cid sv period first rsv runNow) = guarded s := by simp [setSchedule]

@[simp] theorem setTempThr_guarded (s : State) (c : Nat) (cid : Nat) (w : Nat) : guarded (setTempThr s c cid w) = guarded s := by simp [setTempThr]

@[simp] theorem setRecovery_guarded (s : State) (c : Nat) (cid : Nat) (nsid : Nat) (w : Nat) : guarded (setRecovery s c cid nsid w) = guarded s := by unfold setRecovery; dsimp only; (repeat' split) <;> first | rfl | simp

@[simp] theorem setVector_guarded (s : State) (c : Nat) (cid : Nat) (w : Nat) : guarded (setVector s c cid w) = guarded s := by unfold setVector; dsimp only; (repeat' split) <;> first | rfl | simp

theorem execSetFeaturesVolatileWriteCache_guarded (c : Nat) (cid : Nat) (wce : Bool) (s : State) : OutAll (guarded · = guarded s) (execSetFeaturesVolatileWriteCache c cid wce s) := by simp [execSetFeaturesVolatileWriteCache]

theorem execSetFeaturesAsyncEventConfig_guarded (c : Nat) (cid : Nat) (mask : Nat) (s : State) : OutAll (guarded · = guarded s) (execSetFeaturesAsyncEventConfig c cid mask s) := by simp [execSetFeaturesAsyncEventConfig]

theorem execSetFeaturesApst_guarded (c : Nat) (cid : Nat) (sv : Bool) (enable : Bool) (entries : List ApstEntry) (s : State) : OutAll (guarded · = guarded s) (execSetFeaturesApst c cid sv enable entries s) := by simp [execSetFeaturesApst]

theorem execSetFeaturesNoppme_guarded (c : Nat) (cid : Nat) (noppme : Bool) (s : State) : OutAll (guarded · = guarded s) (execSetFeaturesNoppme c cid noppme s) := by simp [execSetFeaturesNoppme]

theorem execSetFeaturesThermalGraceTime_guarded (c : Nat) (cid : Nat) (sv : Bool) (graceMs : Nat) (s : State) : OutAll (guarded · = guarded s) (execSetFeaturesThermalGraceTime c cid sv graceMs s) := by simp [execSetFeaturesThermalGraceTime]

theorem execSetFeaturesHoldupTestSchedule_guarded (c : Nat) (cid : Nat) (sv : Bool) (periodMin : Nat) (firstS : Nat) (runNow : Bool) (s : State) : OutAll (guarded · = guarded s) (execSetFeaturesHoldupTestSchedule c cid sv periodMin firstS runNow s) := by simp [execSetFeaturesHoldupTestSchedule]

theorem execGetFeatures_guarded (c : Nat) (cid : Nat) (fid : Nat) (sel : Nat) (nsid : Nat) (cdw11 : Nat) (s : State) : OutAll (guarded · = guarded s) (execGetFeatures c cid fid sel nsid cdw11 s) := by simp [execGetFeatures]

@[simp] theorem importFail_guarded (s : State) (c : Nat) (cid : Nat) (why : Nat) : guarded (importFail s c cid why) = guarded s := by simp [importFail]





theorem execDrbgReseed_guarded (s : State) : OutAll (guarded · = guarded s) (execDrbgReseed s) := by simp [execDrbgReseed]

@[simp] theorem sourceFails_guarded (s : State) (repetition : Bool) : guarded (sourceFails s repetition) = guarded s := by unfold sourceFails; (repeat' split) <;> first | rfl | (simp; done) | (simp_all; done) | (dsimp only; (repeat' split) <;> first | rfl | (simp; done) | (simp_all; done))

@[simp] theorem sourcePasses_guarded (s : State) : guarded (sourcePasses s) = guarded s := by unfold sourcePasses; (repeat' split) <;> first | rfl | (simp; done) | (simp_all; done) | (dsimp only; (repeat' split) <;> first | rfl | (simp; done) | (simp_all; done))

theorem execTrngHealthTestFailure_guarded (repetition : Bool) (s : State) : OutAll (guarded · = guarded s) (execTrngHealthTestFailure repetition s) := by simp [execTrngHealthTestFailure]

theorem execSourceStartUpTestPass_guarded (s : State) : OutAll (guarded · = guarded s) (execSourceStartUpTestPass s) := by simp [execSourceStartUpTestPass]

theorem execTransportKeyReady_guarded (s : State) : OutAll (guarded · = guarded s) (execTransportKeyReady s) := by simp [execTransportKeyReady]

@[simp] theorem selectTk_guarded (s : State) (niche : Nat) : guarded (selectTk s niche) = guarded s := by simp [selectTk]

@[simp] theorem finishRead_guarded (s : State) (id : Nat) : guarded (finishRead s id) = guarded s := by
  unfold finishRead; dsimp only; (repeat' split) <;> simp

@[simp] theorem finishWrite_guarded (s : State) (id : Nat) : guarded (finishWrite s id) = guarded s := by
  unfold finishWrite; simp

@[simp] theorem finishStarted_guarded (s : State) (i : Nat) : guarded (finishStarted s i) = guarded s := by
  unfold finishStarted; apply guarded_foldl; intro a x; dsimp only; (repeat' split) <;> simp

@[simp] theorem emptyZone_guarded (i : Nat) (s : State) (z : Nat) : guarded (emptyZone i s z) = guarded s := by simp [emptyZone]

@[simp] theorem wipeSlot_guarded (s : State) (i : Nat) : guarded (wipeSlot s i) = guarded s := by
  unfold wipeSlot; dsimp only; simp only [lostCut_guarded, guarded_mk]; split
  · simp
  · simp

@[simp] theorem newNs_guarded (s : State) (i : Nat) (fmt : Nat) (pi : Nat) (ext : Bool) (att : List Nat) : guarded (newNs s i fmt pi ext att) = guarded s := by rfl

@[simp] theorem attachNs_guarded (s : State) (c : Nat) (cid : Nat) (nsid : Nat) (att : Bool) (l : List Nat) : guarded (attachNs s c cid nsid att l) = guarded s := by unfold attachNs; dsimp only; (repeat' split) <;> first | rfl | simp

theorem execNamespaceAttachment_guarded (c cid nsid : Nat) (attach : Bool) (ctrls : List Nat) (s : State) :
    OutAll (guarded · = guarded s) (execNamespaceAttachment c cid nsid attach ctrls s) := by
  unfold execNamespaceAttachment; apply adminFull_guarded; intro t; apply afterSan_guarded; intro u
  apply ctlData_guarded; intro v; simp

@[simp] theorem sanWipe_guarded (s : State) (n : Nat) : guarded (sanWipe s n) = guarded s := by
  unfold sanWipe; dsimp only; split <;> simp

@[simp] theorem eraseOwned_guarded (s : State) (n : Nat) : guarded (eraseOwned s n) = guarded s := by simp [eraseOwned]

@[simp] theorem finishNiche_guarded (s : State) (n : Nat) : guarded (finishNiche s n) = guarded s := by simp [finishNiche]

@[simp] theorem execSanitizeExitFailureMode_guarded (c cid : Nat) (ndas : Bool) (s : State) :
    OutAll (guarded · = guarded s) (execSanitizeExitFailureMode c cid ndas s) := by
  unfold execSanitizeExitFailureMode; apply adminRom_guarded; intro t; split
  · simp
  · simp only [adone_guarded]; apply guarded_foldl; intro a n; split <;> simp

theorem execSanitizeComplete_guarded (niche : Nat) (s : State) : OutAll (guarded · = guarded s) (execSanitizeComplete niche s) := by simp [execSanitizeComplete]

theorem execFirmwareImageDownload_guarded (c cid offset : Nat) (data : List Nat) (s : State) :
    OutAll (guarded · = guarded s) (execFirmwareImageDownload c cid offset data s) := by
  unfold execFirmwareImageDownload; apply adminPf0_guarded; intro t; apply afterSan_guarded; intro u
  apply ctlData_guarded; intro v; split
  · simp
  · generalize fwCheck _ _ _ = k; dsimp only; simp

@[simp] theorem activate_guarded (s : State) (c : Nat) (cid : Nat) (fs : Nat) (readErr : Bool) : guarded (activate s c cid fs readErr) = guarded s := by unfold activate; (repeat' split) <;> first | rfl | (simp; done) | (simp_all; done) | (dsimp only; (repeat' split) <;> first | rfl | (simp; done) | (simp_all; done))

@[simp] theorem execFirmwareActivateWithoutReset_guarded (c : Nat) (cid : Nat) (fs : Nat) (readErr : Bool) (s : State) : OutAll (guarded · = guarded s) (execFirmwareActivateWithoutReset c cid fs readErr s) := by unfold execFirmwareActivateWithoutReset; (repeat' split) <;> first | rfl | (simp; done) | (simp_all; done) | (dsimp only; (repeat' split) <;> first | rfl | (simp; done) | (simp_all; done))

theorem execFirmwareActivationTimeout_guarded (s : State) : OutAll (guarded · = guarded s) (execFirmwareActivationTimeout s) := by unfold execFirmwareActivationTimeout; split <;> simp

@[simp] theorem noteVal_guarded (s : State) (slot : Nat) (e : ValErr) : guarded (noteVal s slot e) = guarded s := by unfold noteVal; split <;> simp

@[simp] theorem stageVerify_guarded (s : State) (c : Nat) (cid : Nat) (slot : Nat) (readErr : Option Nat) : guarded (stageVerify s c cid slot readErr) = guarded s := by simp [stageVerify]

theorem execArmatureStageVerify_guarded (c : Nat) (cid : Nat) (slot : Nat) (readErr : Option Nat) (s : State) : OutAll (guarded · = guarded s) (execArmatureStageVerify c cid slot readErr s) := by simp [execArmatureStageVerify]

@[simp] theorem stagePatch_guarded (s : State) (c : Nat) (cid : Nat) (l : List PatchRec) : guarded (stagePatch s c cid l) = guarded s := by unfold stagePatch; (repeat' split) <;> first | rfl | simp

theorem execArmatureStagePatch_guarded (c : Nat) (cid : Nat) (recs : List PatchRec) (s : State) : OutAll (guarded · = guarded s) (execArmatureStagePatch c cid recs s) := by unfold execArmatureStagePatch; (repeat' split) <;> first | rfl | simp

@[simp] theorem clearPatches_guarded (s : State) (c : Nat) (cid : Nat) : guarded (clearPatches s c cid) = guarded s := by simp [clearPatches]

theorem execArmatureStageClearPatches_guarded (c : Nat) (cid : Nat) (s : State) : OutAll (guarded · = guarded s) (execArmatureStageClearPatches c cid s) := by simp [execArmatureStageClearPatches]

@[simp] theorem refuse_guarded (s : State) (c : Nat) (cid : Nat) (check : Nat) (rate : Nat) : guarded (refuse s c cid check rate) = guarded s := by simp [refuse]

@[simp] theorem openComm_guarded (s : State) (n : Nat) (slot : Nat) (port : Nat) (d : CommDesc) (idx : Nat) : guarded (openComm s n slot port d idx).1 = guarded s := by simp [openComm]

@[simp] theorem commOpen_guarded (s : State) (c : Nat) (cid : Nat) (dry : Bool) (rsv : Nat) (d : CommDesc) : guarded (commOpen s c cid dry rsv d) = guarded s := by unfold commOpen; dsimp only; (repeat' split) <;> first | rfl | simp

theorem execCommissionOpen_guarded (c : Nat) (cid : Nat) (dryrun : Bool) (rsv : Nat) (d : CommDesc) (s : State) : OutAll (guarded · = guarded s) (execCommissionOpen c cid dryrun rsv d s) := by
  unfold execCommissionOpen; (try dsimp only); (repeat' split) <;> first | rfl | (simp; done) | (simp; rfl) | (simp; intros; (repeat' split) <;> first | rfl | (simp; done) | (simp; rfl)) | (intros; (repeat' split) <;> first | rfl | (simp_all; done) | (simp_all; rfl))

@[simp] theorem removeComm_guarded (s : State) (h : Nat) : guarded (removeComm s h) = guarded s := by simp [removeComm]

@[simp] theorem commClose_guarded (s : State) (c : Nat) (cid : Nat) (h : Nat) : guarded (commClose s c cid h) = guarded s := by simp [commClose]

theorem execCommissionClose_guarded (c : Nat) (cid : Nat) (handle : Nat) (s : State) : OutAll (guarded · = guarded s) (execCommissionClose c cid handle s) := by simp [execCommissionClose]

@[simp] theorem commModify_guarded (s : State) (c : Nat) (cid : Nat) (h : Nat) (dry : Bool) (rsv : Nat) (rate : Nat) (rdecl : Nat) (burst : Nat) (prio : Nat) (zconc : Nat) : guarded (commModify s c cid h dry rsv rate rdecl burst prio zconc) = guarded s := by unfold commModify; dsimp only; (repeat' split) <;> first | rfl | simp

theorem execCommissionModify_guarded (c : Nat) (cid : Nat) (handle : Nat) (dryrun : Bool) (rsv : Nat) (rate : Nat) (rdecl : Nat) (burst : Nat) (prio : Nat) (zconc : Nat) (s : State) : OutAll (guarded · = guarded s) (execCommissionModify c cid handle dryrun rsv rate rdecl burst prio zconc s) := by
  unfold execCommissionModify; (try dsimp only); (repeat' split) <;> first | rfl | (simp; done) | (simp; rfl) | (simp; intros; (repeat' split) <;> first | rfl | (simp; done) | (simp; rfl)) | (intros; (repeat' split) <;> first | rfl | (simp_all; done) | (simp_all; rfl))

@[simp] theorem sendWith_guarded (s : State) (f : FedFrame) (crc : FedFrame → FedFrame) : guarded (sendWith s f crc) = guarded s := by simp [sendWith]

@[simp] theorem sendBoth_guarded (s : State) (f : FedFrame) : guarded (sendBoth s f) = guarded s := by simp [sendBoth]

@[simp] theorem fedEvent_guarded (s : State) : guarded (fedEvent s) = guarded s := by simp [fedEvent]

@[simp] theorem takeCable_guarded (s : State) : guarded (takeCable s) = guarded s := by simp [takeCable]

@[simp] theorem setFedTime_guarded (s : State) (t : Nat) : guarded (setFedTime s t) = guarded s := by simp [setFedTime]

@[simp] theorem trackTime_guarded (s : State) (t : Nat) : guarded (trackTime s t) = guarded s := by unfold trackTime; (repeat' split) <;> first | rfl | (simp; done) | (simp_all; done) | (dsimp only; (repeat' split) <;> first | rfl | (simp; done) | (simp_all; done))

@[simp] theorem takeAccept_guarded (s : State) (id : Nat) (kind : Nat) (tk : Nat) : guarded (takeAccept s id kind tk) = guarded s := by simp [takeAccept]

@[simp] theorem setId_guarded (s : State) (f : FedFrame) : guarded (setId s f) = guarded s := by simp [setId]

@[simp] theorem takeFrame_guarded (set : State → Nat → State) (s : State) (f : FedFrame) (edge : Nat)
    (h : ∀ t n, guarded (set t n) = guarded t) : guarded (takeFrame set s f edge) = guarded s := by
  unfold takeFrame; dsimp only; split <;> simp [h]

@[simp] theorem nextMarker_guarded (s : State) (t : Nat) : guarded (nextMarker s t).2 = guarded s := by
  unfold nextMarker; (repeat' split) <;> simp

@[simp] theorem applySetTime_guarded (s : State) : guarded (applySetTime s) = guarded s := by simp [applySetTime]

@[simp] theorem rootSend_guarded (s : State) (t : Nat) (trace : Bool) : guarded (rootSend s t trace) = guarded s := by
  unfold rootSend; dsimp only; simp

@[simp] theorem forward_guarded (s : State) (f : FedFrame) : guarded (forward s f) = guarded s := by simp [forward]

@[simp] theorem acceptMarker_guarded (s : State) (f : FedFrame) (edge : Nat) : guarded (acceptMarker s f edge) = guarded s := by simp [acceptMarker]

@[simp] theorem relock_guarded (s : State) (f : FedFrame) (edge : Nat) : guarded (relock s f edge) = guarded s := by simp [relock]

@[simp] theorem forwardBad_guarded (s : State) (f : FedFrame) : guarded (forwardBad s f) = guarded s := by unfold forwardBad; (repeat' split) <;> first | rfl | (simp; done) | (simp_all; done) | (dsimp only; (repeat' split) <;> first | rfl | (simp; done) | (simp_all; done))

@[simp] theorem markerIn_guarded (s : State) (f : FedFrame) (edge : Nat) : guarded (markerIn s f edge) = guarded s := by simp [markerIn]

theorem execFederationFrameReceived_guarded (f : FedFrame) (edge : Nat) (s : State) : OutAll (guarded · = guarded s) (execFederationFrameReceived f edge s) := by simp [execFederationFrameReceived]

@[simp] theorem missSend_guarded (s : State) (f : FedFrame) (t : Nat) : guarded (missSend s f t) = guarded s := by unfold missSend; (repeat' split) <;> first | rfl | (simp; done) | (simp_all; done) | (dsimp only; (repeat' split) <;> first | rfl | (simp; done) | (simp_all; done))

@[simp] theorem missMarker_guarded (s : State) (silent : Bool) : guarded (missMarker s silent) = guarded s := by simp [missMarker]

theorem execFederationWindowMiss_guarded (silent : Bool) (s : State) : OutAll (guarded · = guarded s) (execFederationWindowMiss silent s) := by simp [execFederationWindowMiss]

theorem execFederationFrameOriginate_guarded (s : State) : OutAll (guarded · = guarded s) (execFederationFrameOriginate s) := by simp [execFederationFrameOriginate]

@[simp] theorem adminFed_guarded (s : State) (c cid : Nat) (body : State → State)
    (h : ∀ t, guarded (body t) = guarded t) : OutAll (guarded · = guarded s) (adminFed s c cid body) := by
  unfold adminFed; apply adminPf0_guarded; intro t; split <;> simp [h]

@[simp] theorem takeMarker_guarded (s : State) (c : Nat) (cid : Nat) (tkid : Nat) (tkkind : Nat) (rsv : Nat) : guarded (takeMarker s c cid tkid tkkind rsv) = guarded s := by simp [takeMarker]

theorem execFederationControlTakeMarker_guarded (c : Nat) (cid : Nat) (tkid : Nat) (tkkind : Nat) (rsv : Nat) (s : State) : OutAll (guarded · = guarded s) (execFederationControlTakeMarker c cid tkid tkkind rsv s) := by simp [execFederationControlTakeMarker]

@[simp] theorem setTimeCmd_guarded (s : State) (c : Nat) (cid : Nat) (time : Nat) (rsv : Nat) : guarded (setTimeCmd s c cid time rsv) = guarded s := by simp [setTimeCmd]

theorem execFederationControlSetTime_guarded (c : Nat) (cid : Nat) (time : Nat) (rsv : Nat) (s : State) : OutAll (guarded · = guarded s) (execFederationControlSetTime c cid time rsv s) := by simp [execFederationControlSetTime]

theorem execFlush_guarded (c : Nat) (q : Nat) (cid : Nat) (nsid : Nat) (s : State) : OutAll (guarded · = guarded s) (execFlush c q cid nsid s) := by simp [execFlush]

theorem execWrite_guarded (c : Nat) (q : Nat) (cid : Nat) (nsid : Nat) (slba : Nat) (nlb : Nat) (pi : PiArgs) (s : State) : OutAll (guarded · = guarded s) (execWrite c q cid nsid slba nlb pi s) := by simp [execWrite]

theorem execRead_guarded (c : Nat) (q : Nat) (cid : Nat) (nsid : Nat) (slba : Nat) (nlb : Nat) (pi : PiArgs) (s : State) : OutAll (guarded · = guarded s) (execRead c q cid nsid slba nlb pi s) := by simp [execRead]

theorem execWriteUncorrectable_guarded (c : Nat) (q : Nat) (cid : Nat) (nsid : Nat) (slba : Nat) (nlb : Nat) (s : State) : OutAll (guarded · = guarded s) (execWriteUncorrectable c q cid nsid slba nlb s) := by simp [execWriteUncorrectable]

theorem execCompare_guarded (c : Nat) (q : Nat) (cid : Nat) (nsid : Nat) (slba : Nat) (nlb : Nat) (pi : PiArgs) (s : State) : OutAll (guarded · = guarded s) (execCompare c q cid nsid slba nlb pi s) := by simp [execCompare]

theorem execWriteZeroes_guarded (c : Nat) (q : Nat) (cid : Nat) (nsid : Nat) (slba : Nat) (nlb : Nat) (deac : Bool) (pi : PiArgs) (s : State) : OutAll (guarded · = guarded s) (execWriteZeroes c q cid nsid slba nlb deac pi s) := by simp [execWriteZeroes]

theorem execDatasetManagement_guarded (c : Nat) (q : Nat) (cid : Nat) (nsid : Nat) (ad : Bool) (ranges : List (Nat × Nat)) (s : State) : OutAll (guarded · = guarded s) (execDatasetManagement c q cid nsid ad ranges s) := by simp [execDatasetManagement]

theorem execVerify_guarded (c : Nat) (q : Nat) (cid : Nat) (nsid : Nat) (slba : Nat) (nlb : Nat) (pi : PiArgs) (s : State) : OutAll (guarded · = guarded s) (execVerify c q cid nsid slba nlb pi s) := by simp [execVerify]

theorem execZoneOpen_guarded (c : Nat) (q : Nat) (cid : Nat) (nsid : Nat) (slba : Nat) (selectAll : Bool) (s : State) : OutAll (guarded · = guarded s) (execZoneOpen c q cid nsid slba selectAll s) := by simp [execZoneOpen]

theorem execZoneClose_guarded (c : Nat) (q : Nat) (cid : Nat) (nsid : Nat) (slba : Nat) (selectAll : Bool) (s : State) : OutAll (guarded · = guarded s) (execZoneClose c q cid nsid slba selectAll s) := by simp [execZoneClose]

theorem execZoneFinish_guarded (c : Nat) (q : Nat) (cid : Nat) (nsid : Nat) (slba : Nat) (selectAll : Bool) (s : State) : OutAll (guarded · = guarded s) (execZoneFinish c q cid nsid slba selectAll s) := by simp [execZoneFinish]

theorem execZoneReset_guarded (c : Nat) (q : Nat) (cid : Nat) (nsid : Nat) (slba : Nat) (selectAll : Bool) (s : State) : OutAll (guarded · = guarded s) (execZoneReset c q cid nsid slba selectAll s) := by simp [execZoneReset]

theorem execZoneOffline_guarded (c : Nat) (q : Nat) (cid : Nat) (nsid : Nat) (slba : Nat) (selectAll : Bool) (s : State) : OutAll (guarded · = guarded s) (execZoneOffline c q cid nsid slba selectAll s) := by simp [execZoneOffline]

theorem execZoneManagementReceive_guarded (c : Nat) (q : Nat) (cid : Nat) (nsid : Nat) (slba : Nat) (zra : Nat) (zrasf : Nat) (partialRep : Bool) (numd : Nat) (s : State) : OutAll (guarded · = guarded s) (execZoneManagementReceive c q cid nsid slba zra zrasf partialRep numd s) := by simp [execZoneManagementReceive]

theorem execZoneAppend_guarded (c : Nat) (q : Nat) (cid : Nat) (nsid : Nat) (zslba : Nat) (nlb : Nat) (piremap : Bool) (pi : PiArgs) (s : State) : OutAll (guarded · = guarded s) (execZoneAppend c q cid nsid zslba nlb piremap pi s) := by simp [execZoneAppend]

theorem execFrameAppend_guarded (c : Nat) (q : Nat) (cid : Nat) (nsid : Nat) (zslba : Nat) (nlb : Nat) (frame : Nat) (fstart : Bool) (hflags : Nat) (fuse : Nat) (piremap : Bool) (pi : PiArgs) (s : State) : OutAll (guarded · = guarded s) (execFrameAppend c q cid nsid zslba nlb frame fstart hflags fuse piremap pi s) := by simp [execFrameAppend]

theorem execZoneSeal_guarded (c : Nat) (q : Nat) (cid : Nat) (nsid : Nat) (zslba : Nat) (nonce : Nat) (fuse : Nat) (rsv : Nat) (s : State) : OutAll (guarded · = guarded s) (execZoneSeal c q cid nsid zslba nonce fuse rsv s) := by simp [execZoneSeal]

/-- A host access leaves the keys alone unless it wakes the device from PS4. -/
theorem reached_guarded (s : State) (p : Nat) (h : s.pm.ps ≠ 4) : guarded (reached s p) = guarded s := by
  unfold reached; dsimp only; (repeat' split) <;> simp_all [setPort]

theorem hostWrite_guarded (s : State) (p : Nat) (body : State → State) (hb : ∀ t, guarded (body t) = guarded t)
    (h : s.pm.ps ≠ 4) : OutAll (guarded · = guarded s) (hostWrite s p body) := by
  unfold hostWrite; dsimp only; split <;> simp [hb, reached_guarded _ _ h]

@[simp] theorem badDoorbell_guarded (s : State) (c : Nat) (info : Nat) : guarded (badDoorbell s c info) = guarded s := by simp [badDoorbell]

@[simp] theorem tailDoorbell_guarded (s : State) (c : Nat) (q : Nat) (v : Nat) : guarded (tailDoorbell s c q v) = guarded s := by simp [tailDoorbell]

@[simp] theorem headDoorbell_guarded (s : State) (c : Nat) (q : Nat) (v : Nat) : guarded (headDoorbell s c q v) = guarded s := by simp [headDoorbell]

@[simp] theorem adminQueues_guarded (s : State) (c : Nat) (aqa : Nat) : guarded (adminQueues s c aqa) = guarded s := by simp [adminQueues]

@[simp] theorem forceComms_guarded (s : State) (n : Nat) : guarded (forceComms s n) = guarded s := by simp [forceComms]

@[simp] theorem resetNiche_guarded (s : State) (n : Nat) (force : Bool) : guarded (resetNiche s n force) = guarded s := by simp [resetNiche]

theorem execNicheReset_guarded (c : Nat) (cid : Nat) (niche : Nat) (force : Bool) (rsv : Nat) (s : State) : OutAll (guarded · = guarded s) (execNicheReset c cid niche force rsv s) := by simp [execNicheReset]

@[simp] theorem setPerst_guarded (s : State) (p : Nat) (v : Bool) : guarded (setPerst s p v) = guarded s := by unfold setPerst; split <;> rfl

@[simp] theorem portClock_guarded (s : State) (p : Nat) : guarded (portClock s p) = guarded s := by unfold portClock; (repeat' split) <;> first | rfl | simp

theorem execPerstRelease_guarded (port : Nat) (s : State) : OutAll (guarded · = guarded s) (execPerstRelease port s) := by simp [execPerstRelease]

theorem execLinkLoss_guarded (port : Nat) (s : State) : OutAll (guarded · = guarded s) (execLinkLoss port s) := by simp [execLinkLoss]

theorem execLinkSpeedWidthChange_guarded (port : Nat) (gen : Nat) (width : Nat) (s : State) : OutAll (guarded · = guarded s) (execLinkSpeedWidthChange port gen width s) := by simp [execLinkSpeedWidthChange]

theorem execPtmRequest_guarded (port : Nat) (enabled : Bool) (s : State) : OutAll (guarded · = guarded s) (execPtmRequest port enabled s) := by simp [execPtmRequest]

theorem execPtmResponse_guarded (port : Nat) (master : Nat) (localTime : Nat) (s : State) : OutAll (guarded · = guarded s) (execPtmResponse port master localTime s) := by simp [execPtmResponse]

theorem execAspmL1IdleEntry_guarded (port : Nat) (s : State) : OutAll (guarded · = guarded s) (execAspmL1IdleEntry port s) := by simp [execAspmL1IdleEntry]

theorem execLinkPartnerL1Request_guarded (port : Nat) (l12 : Bool) (s : State) : OutAll (guarded · = guarded s) (execLinkPartnerL1Request port l12 s) := by simp [execLinkPartnerL1Request]

@[simp] theorem refuseAcc_guarded (s : State) (port : Nat) (o : Nat) (kind : Nat) (write : Bool) : guarded (refuseAcc s port o kind write) = guarded s := by simp [refuseAcc]

@[simp] theorem schClear_guarded (s : State) : guarded (schClear s) = guarded s := by simp [schClear]

@[simp] theorem chnClear_guarded (n : Nat) (s : State) : guarded (chnClear n s) = guarded s := by rfl

@[simp] theorem poolClear_guarded (s : State) : guarded (poolClear s) = guarded s := by rfl

@[simp] theorem xcrClear_guarded (s : State) : guarded (xcrClear s) = guarded s := by rfl

@[simp] theorem hldRun_guarded (s : State) : guarded (hldRun s) = guarded s := by simp [hldRun]

@[simp] theorem hldClear_guarded (s : State) : guarded (hldClear s) = guarded s := by simp [hldClear]

@[simp] theorem fedClear_guarded (s : State) : guarded (fedClear s) = guarded s := by rfl

@[simp] theorem fedLatch_guarded (port : Nat) (s : State) : guarded (fedLatch port s) = guarded s := by simp [fedLatch]

@[simp] theorem fmcWrite_guarded (sel : Nat) (ref : Nat) (n : Nat) (start : Bool) (s : State) : guarded (fmcWrite sel ref n start s) = guarded s := by simp [fmcWrite]

@[simp] theorem clkFaultClear_guarded (m : Nat) (s : State) : guarded (clkFaultClear m s) = guarded s := by simp [clkFaultClear]

@[simp] theorem pmClear_guarded (s : State) : guarded (pmClear s) = guarded s := by rfl

@[simp] theorem overClear_guarded (s : State) : guarded (overClear s) = guarded s := by rfl

@[simp] theorem thmClear_guarded (s : State) : guarded (thmClear s) = guarded s := by rfl

@[simp] theorem haltClear_guarded (m : Nat) (s : State) : guarded (haltClear m s) = guarded s := by rfl

@[simp] theorem patClear_guarded (s : State) : guarded (patClear s) = guarded s := by rfl

@[simp] theorem accClear_guarded (s : State) : guarded (accClear s) = guarded s := by rfl

@[simp] theorem istatClear_guarded (m : Nat) (s : State) : guarded (istatClear m s) = guarded s := by rfl

@[simp] theorem alertClear_guarded (m : Nat) (s : State) : guarded (alertClear m s) = guarded s := by rfl

@[simp] theorem nchClear_guarded (n : Nat) (m : Nat) (s : State) : guarded (nchClear n m s) = guarded s := by simp [nchClear]

@[simp] theorem nchEnable_guarded (n : Nat) (x : Nat) (s : State) : guarded (nchEnable n x s) = guarded s := by simp [nchEnable]

@[simp] theorem istatEnable_guarded (x : Nat) (s : State) : guarded (istatEnable x s) = guarded s := by simp [istatEnable]

@[simp] theorem scratchWrite_guarded (i : Nat) (x : Nat) (s : State) : guarded (scratchWrite i x s) = guarded s := by rfl

@[simp] theorem writeWindow_guarded (o : Nat) (x : Nat) (s : State) : guarded (writeWindow o x s) = guarded s := by simp [writeWindow]

@[simp] theorem writeReg_guarded (o : Nat) (x : Nat) (s : State) : guarded (writeReg o x s) = guarded s := by unfold writeReg; (repeat' split) <;> first | rfl | simp

theorem execPatinaRequest_guarded (r : PatReq) (s : State) : OutAll (guarded · = guarded s) (execPatinaRequest r s) := by unfold execPatinaRequest; (repeat' split) <;> first | rfl | simp

@[simp] theorem reply_guarded (s : State) (l : List Fld) : guarded (reply s l) = guarded s := by simp [reply]

theorem execSmbusBasicManagementCommand_guarded (pecOk : Bool) (s : State) : OutAll (guarded · = guarded s) (execSmbusBasicManagementCommand pecOk s) := by simp [execSmbusBasicManagementCommand]

@[simp] theorem mctp_guarded (pecOk : Bool) (s : State) (body : State → State) (h : ∀ t, guarded (body t) = guarded t) :
    OutAll (guarded · = guarded s) (mctp pecOk s body) := by
  unfold mctp; split <;> simp [h]

@[simp] theorem miAnswer_guarded (s : State) (st : Nat) (l : List Fld) : guarded (miAnswer s st l) = guarded s := by rfl

theorem execReadNvmeMiDataStructure_guarded (pecOk : Bool) (op : Nat) (dtyp : Nat) (id : Nat) (s : State) : OutAll (guarded · = guarded s) (execReadNvmeMiDataStructure pecOk op dtyp id s) := by unfold execReadNvmeMiDataStructure; (repeat' split) <;> first | rfl | simp

theorem execNvmSubsystemHealthStatusPoll_guarded (pecOk : Bool) (s : State) : OutAll (guarded · = guarded s) (execNvmSubsystemHealthStatusPoll pecOk s) := by unfold execNvmSubsystemHealthStatusPoll; (repeat' split) <;> first | rfl | simp

theorem execControllerHealthStatusPoll_guarded (pecOk : Bool) (c : Nat) (s : State) : OutAll (guarded · = guarded s) (execControllerHealthStatusPoll pecOk c s) := by simp [execControllerHealthStatusPoll]

theorem execConfigurationGet_guarded (pecOk : Bool) (id : Nat) (s : State) : OutAll (guarded · = guarded s) (execConfigurationGet pecOk id s) := by unfold execConfigurationGet; split <;> simp

theorem execConfigurationSet_guarded (pecOk : Bool) (id : Nat) (value : Nat) (s : State) : OutAll (guarded · = guarded s) (execConfigurationSet pecOk id value s) := by unfold execConfigurationSet; split <;> simp

theorem execVpdRead_guarded (pecOk : Bool) (offset : Nat) (len : Nat) (s : State) : OutAll (guarded · = guarded s) (execVpdRead pecOk offset len s) := by unfold execVpdRead; (repeat' split) <;> first | rfl | simp

theorem execTunnelledAdminCommand_guarded (pecOk : Bool) (opcode : Nat) (r : LogReq) (s : State) : OutAll (guarded · = guarded s) (execTunnelledAdminCommand pecOk opcode r s) := by unfold execTunnelledAdminCommand; (repeat' split) <;> first | rfl | simp

@[simp] theorem finishRestored_guarded (s : State) (i : Nat) : guarded (finishRestored s i) = guarded s := by unfold finishRestored; (repeat' split) <;> first | rfl | simp

@[simp] theorem loadRestored_guarded (s : State) : guarded (loadRestored s) = guarded s := by simp [loadRestored]

@[simp] theorem recutZone_guarded (m : MountInput) (s : State) (i : Nat) (z : Nat) (st : ZSt) : guarded (recutZone m s i z st) = guarded s := by simp [recutZone]

@[simp] theorem looseRows_guarded (m : MountInput) (keep : State → Nat × Nat → State) (s : State) (l : List (Nat × Nat))
    (h : ∀ t x, guarded (keep t x) = guarded t) : guarded (looseRows m keep s l) = guarded s := by
  unfold looseRows; apply guarded_foldl; intro a x; split <;> simp [h]

@[simp] theorem holdRow_guarded (s : State) (kr : Nat × Nat) : guarded (holdRow s kr) = guarded s := by unfold holdRow; (repeat' split) <;> first | rfl | (simp; done) | (simp_all; done) | (dsimp only; (repeat' split) <;> first | rfl | (simp; done) | (simp_all; done))

@[simp] theorem attributeZone_guarded (m : MountInput) (s : State) (i : Nat) (z : Nat) : guarded (attributeZone m s i z) = guarded s := by unfold attributeZone; (repeat' split) <;> first | rfl | (simp; done) | (simp_all; done) | (dsimp only; (repeat' split) <;> first | rfl | (simp; done) | (simp_all; done))

@[simp] theorem recoverZone_guarded (m : MountInput) (s : State) (i : Nat) (z : Nat) : guarded (recoverZone m s i z) = guarded s := by simp [recoverZone]

@[simp] theorem rescanZone_guarded (m : MountInput) (band : Bool) (s : State) (i : Nat) (z : Nat) : guarded (rescanZone m band s i z) = guarded s := by simp [rescanZone]

@[simp] theorem recoverFine_guarded (s : State) (i : Nat) : guarded (recoverFine s i) = guarded s := by simp [recoverFine]

@[simp] theorem claims_guarded (s : State) (i : Nat) : guarded (claims s i) = guarded s := by unfold claims; (repeat' split) <;> first | rfl | (simp; done) | (simp_all; done) | (dsimp only; (repeat' split) <;> first | rfl | (simp; done) | (simp_all; done))

@[simp] theorem recoverSlot_guarded (m : MountInput) (s : State) (i : Nat) : guarded (recoverSlot m s i) = guarded s := by simp [recoverSlot]

@[simp] theorem holdOut_guarded (s : State) (kr : Nat × Nat) : guarded (holdOut s kr) = guarded s := by simp [holdOut]

@[simp] theorem lostWrites_guarded (s : State) (n : Nat) : guarded (lostWrites s n) = guarded s := by simp [lostWrites]

@[simp] theorem recoverFailed_guarded (m : MountInput) (s : State) : guarded (recoverFailed m s) = guarded s := by simp [recoverFailed]

@[simp] theorem recoverRecast_guarded (s : State) : guarded (recoverRecast s) = guarded s := by
  unfold recoverRecast; apply guarded_foldl; intro a key; dsimp only; split
  · rfl
  · split <;> simp

@[simp] theorem flushCopies_guarded (s : State) : guarded (flushCopies s) = guarded s := by
  unfold flushCopies; rw [guarded_foldl]
  · simp
  · intro a x; split
    · rfl
    · split
      · rename_i t h; exact takeSpare_guarded _ _ _ _ _ h
      · simp

@[simp] theorem recover_guarded (m : MountInput) (s : State) : guarded (recover m s) = guarded s := by simp [recover]

@[simp] theorem replaceFactory_guarded (s : State) (x : Nat × Nat × Nat) : guarded (replaceFactory s x) = guarded s := by
  unfold replaceFactory
  split
  · rename_i t h; exact takeSpare_guarded _ _ _ _ _ h
  · simp

@[simp] theorem rebase_guarded (base : Nat) (s : State) (r : PatRec) : guarded (rebase base s r) = guarded s := by simp [rebase]

@[simp] theorem restoreRing_guarded (s : State) (i : Option PatImg) (src : Nat) : guarded (restoreRing s i src) = guarded s := by simp [restoreRing]

@[simp] theorem mountRing_guarded (s : State) (o : Nat) : guarded (mountRing s o) = guarded s := by simp [mountRing]

@[simp] theorem detachUnfit_guarded (s : State) (i : Nat) : guarded (detachUnfit s i) = guarded s := by simp [detachUnfit]

@[simp] theorem flushFailures_guarded (s : State) : guarded (flushFailures s) = guarded s := by simp [flushFailures]

@[simp] theorem goto_guarded (s : State) (p : Phase) : guarded (goto_ s p) = guarded s := by simp [goto_]

theorem execPgAonRise_guarded (s : State) : OutAll (guarded · = guarded s) (execPgAonRise s) := by unfold execPgAonRise; split <;> rfl

theorem execLpoStable_guarded (s : State) : OutAll (guarded · = guarded s) (execLpoStable s) := by unfold execLpoStable; split <;> rfl

theorem execRailEnable_guarded (s : State) : OutAll (guarded · = guarded s) (execRailEnable s) := by unfold execRailEnable; (repeat' split) <;> first | rfl | simp

theorem execPgAssert_guarded (r : Rail) (s : State) : OutAll (guarded · = guarded s) (execPgAssert r s) := by simp [execPgAssert]

theorem execXoStable_guarded (s : State) : OutAll (guarded · = guarded s) (execXoStable s) := by simp [execXoStable]

/-- An XO timeout of start-up leaves the keys alone; one in an exit from PS4 restores them. -/
theorem execXoStableTimeout_guarded (s : State) (h : inPs4 s = false) : OutAll (guarded · = guarded s) (execXoStableTimeout s) := by simp [execXoStableTimeout, h]

@[simp] theorem pllsDone_guarded (s : State) : guarded (pllsDone s) = guarded s := by simp [pllsDone]

theorem execPllLock_guarded (pll : Pll) (s : State) : OutAll (guarded · = guarded s) (execPllLock pll s) := by unfold execPllLock; split <;> simp

theorem execPllLockTimeout_guarded (pll : Pll) (s : State) : OutAll (guarded · = guarded s) (execPllLockTimeout pll s) := by unfold execPllLockTimeout; split <;> simp

@[simp] theorem testSource_guarded (s : State) (fails : List Bool) : guarded (testSource s fails) = guarded s := by
  unfold testSource; dsimp only; split
  · rfl
  · split <;> simp

theorem execIslandsOutOfReset_guarded (fails : List Bool) (s : State) :
    OutAll (guarded · = guarded s) (execIslandsOutOfReset fails s) := by
  unfold execIslandsOutOfReset; split
  · rfl
  · dsimp only; simp only [OutAll_ok]; show guarded (startDrbg _) = _; rw [startDrbg_guarded, testSource_guarded]
    split <;> simp

@[simp] theorem takeCfg_guarded (s : State) (c : ArmCfg) : guarded (takeCfg s c) = guarded s := by simp [takeCfg]

@[simp] theorem loadArm_guarded (s : State) (k : Nat) : guarded (loadArm s k) = guarded s := by rfl

@[simp] theorem loadMaquette_guarded (s : State) : guarded (loadMaquette s) = guarded s := by rfl

@[simp] theorem loadRom_guarded (s : State) : guarded (loadRom s) = guarded s := by rfl

@[simp] theorem copySticky_guarded (s : State) : guarded (copySticky s) = guarded s := by simp [copySticky]

@[simp] theorem fallbackRec_guarded (s : State) : guarded (fallbackRec s) = guarded s := by simp [fallbackRec]

@[simp] theorem romOnly_guarded (s : State) (silent : Bool) : guarded (romOnly s silent) = guarded s := by simp [romOnly]

@[simp] theorem mountFailed_guarded (s : State) : guarded (mountFailed s) = guarded s := by simp [mountFailed]

@[simp] theorem restoreSaved_guarded (s : State) : guarded (restoreSaved s) = guarded s := by simp [restoreSaved]

@[simp] theorem copyEvents_guarded (s : State) : guarded (copyEvents s) = guarded s := by simp [copyEvents]

@[simp] theorem readyAll_guarded (s : State) : guarded (readyAll s) = guarded s := by simp [readyAll]

@[simp] theorem countUs_guarded (s : State) : guarded (countUs s) = guarded s := by rfl

@[simp] theorem tickUs_guarded (s : State) : guarded (tickUs s) = guarded s := by simp [tickUs]

end Sys2Proof.Machine
end

