-- ==== Sys2Proof/Laws/Table.lean ====
section
/-! SUPPORT. The laws of sparse tables: what a read gives after a write, and that every operation keeps the
canonical form. -/

namespace Sys2Proof.Machine

variable {α : Type}

/-! ### Reads -/

theorem tget_tset_same [DecidableEq α] (d : α) (t : List (Nat × α)) (i : Nat) (v : α) (h : v ≠ d) :
    tget d (tset d t i v) i = v := by
  induction t with
  | nil => simp [tset, h, tget]
  | cons kv r ih =>
    obtain ⟨k, w⟩ := kv
    simp only [tset, if_neg h]
    split
    · rw [tget, if_pos rfl]
    · split
      · rw [tget, if_pos rfl]
      · rename_i h1 h2; simp [tget, ih, h2]

theorem tget_tset_ne [DecidableEq α] (d : α) (t : List (Nat × α)) (i j : Nat) (v : α) (h : j ≠ i) :
    tget d (tset d t i v) j = tget d t j := by
  induction t with
  | nil => simp only [tset]; split <;> simp [tget, h]
  | cons kv r ih =>
    obtain ⟨k, w⟩ := kv
    simp only [tset]
    split
    · split <;> simp [tget, h]
    · split
      · subst i; split <;> simp [tget, h]
      · simp [tget, ih]

theorem tset_tset [DecidableEq α] (d : α) (t : List (Nat × α)) (i : Nat) (v w : α) (h : v ≠ d) :
    tset d (tset d t i v) i w = tset d t i w := by
  induction t with
  | nil => simp [tset, h]
  | cons kv r ih =>
    obtain ⟨k, x⟩ := kv
    by_cases h1 : i < k
    · by_cases hw : w = d <;> simp [tset, h, h1, hw]
    · by_cases h2 : i = k
      · subst h2; by_cases hw : w = d <;> simp [tset, h, hw]
      · simp [tset, h1, h2, ih]

theorem tget_tdrop_key (d : α) (t : List (Nat × α)) (p : Nat → Bool) (k : Nat) :
    tget d (tdrop t (fun a _ => p a)) k = if p k then d else tget d t k := by
  induction t with
  | nil => simp [tdrop, tget]
  | cons kv r ih =>
    obtain ⟨a, w⟩ := kv
    simp only [tdrop] at ih
    by_cases hp : p a
    · simp only [tdrop, List.filter, hp, Bool.not_true]
      simp only [tget]; rw [ih]
      by_cases hk : k = a <;> simp [hk, hp]
    · simp only [tdrop, List.filter, hp, Bool.not_false, tget]
      rw [ih]
      by_cases hk : k = a
      · subst hk; simp [hp]
      · simp [hk]

theorem mem_tset [DecidableEq α] (d : α) (t : List (Nat × α)) (i : Nat) (v : α) (kv : Nat × α)
    (h : kv ∈ tset d t i v) : kv = (i, v) ∨ kv ∈ t := by
  induction t with
  | nil => simp only [tset] at h; split at h <;> simp_all
  | cons x r ih =>
    obtain ⟨k, w⟩ := x
    simp only [tset] at h
    split at h
    · split at h <;> simp_all
    · split at h
      · split at h <;> simp_all
        rcases h with h | h <;> simp_all
      · simp only [List.mem_cons] at h ⊢
        rcases h with h | h
        · exact .inr (.inl h)
        · rcases ih h with h2 | h2
          · exact .inl h2
          · exact .inr (.inr h2)

/-- The same value written at every key of a list. -/
theorem tget_foldl_tset [DecidableEq α] (d v : α) (hv : v ≠ d) (l : List Nat) (t : List (Nat × α)) (k : Nat) :
    tget d (l.foldl (fun t k => tset d t k v) t) k = if k ∈ l then v else tget d t k := by
  induction l generalizing t with
  | nil => simp
  | cons x r ih =>
    simp only [List.foldl, ih, List.mem_cons]
    by_cases h : k ∈ r
    · simp [h]
    · by_cases h2 : k = x
      · subst h2; simp [h, tget_tset_same _ _ _ _ hv]
      · simp [h, h2, tget_tset_ne _ _ _ _ _ h2]

/-! ### Canonical form -/

/-- Whether every key of the table is above `lo`. -/
def above (lo : Option Nat) (k : Nat) : Bool := match lo with | none => true | some n => decide (n < k)

theorem twfFrom_cons [DecidableEq α] (d : α) (lo : Option Nat) (k : Nat) (v : α) (r : List (Nat × α)) :
    twfFrom d lo ((k, v) :: r) = true ↔ above lo k = true ∧ v ≠ d ∧ twfFrom d (some k) r = true := by
  cases lo <;> simp [twfFrom, above, and_assoc]

theorem twfFrom_mono [DecidableEq α] (d : α) (lo hi : Option Nat) (t : List (Nat × α))
    (h : ∀ k, above hi k = true → above lo k = true) (w : twfFrom d hi t = true) : twfFrom d lo t = true := by
  cases t with
  | nil => rfl
  | cons x r => obtain ⟨k, v⟩ := x; rw [twfFrom_cons] at w ⊢; exact ⟨h k w.1, w.2⟩

theorem twfFrom_tset [DecidableEq α] (d : α) (t : List (Nat × α)) (lo : Option Nat) (i : Nat) (v : α)
    (hi : above lo i = true) (w : twfFrom d lo t = true) : twfFrom d lo (tset d t i v) = true := by
  induction t generalizing lo with
  | nil =>
    simp only [tset]; split
    · rfl
    · rename_i h; rw [twfFrom_cons]; exact ⟨hi, h, rfl⟩
  | cons x r ih =>
    obtain ⟨k, y⟩ := x
    rw [twfFrom_cons] at w
    obtain ⟨w1, w2, w3⟩ := w
    simp only [tset]
    split
    · rename_i h1
      split
      · rw [twfFrom_cons]; exact ⟨w1, w2, w3⟩
      · rename_i h2
        rw [twfFrom_cons, twfFrom_cons]
        exact ⟨hi, h2, by simpa [above] using h1, w2, w3⟩
    · rename_i h1
      split
      · rename_i h2
        subst h2
        split
        · refine twfFrom_mono d lo (some i) r (fun j hj => ?_) w3
          cases lo with
          | none => rfl
          | some n => simp [above] at *; omega
        · rename_i h3; rw [twfFrom_cons]; exact ⟨hi, h3, w3⟩
      · rename_i h2
        rw [twfFrom_cons]
        exact ⟨w1, w2, ih (some k) (by simp [above]; omega) w3⟩

/-- A write keeps the canonical form. -/
theorem twf_tset [DecidableEq α] (d : α) (t : List (Nat × α)) (i : Nat) (v : α) (w : twf d t = true) :
    twf d (tset d t i v) = true := twfFrom_tset d t none i v rfl w

theorem twfFrom_tdrop [DecidableEq α] (d : α) (t : List (Nat × α)) (lo : Option Nat) (p : Nat → α → Bool)
    (w : twfFrom d lo t = true) : twfFrom d lo (tdrop t p) = true := by
  induction t generalizing lo with
  | nil => rfl
  | cons x r ih =>
    obtain ⟨k, y⟩ := x
    rw [twfFrom_cons] at w
    unfold tdrop
    by_cases hp : p k y = true
    · rw [List.filter_cons_of_neg (by simp [hp])]
      refine ih lo (twfFrom_mono d lo (some k) r (fun j hj => ?_) w.2.2)
      cases lo with
      | none => rfl
      | some n => simp [above] at *; omega
    · rw [List.filter_cons_of_pos (by simp [hp]), twfFrom_cons]
      exact ⟨w.1, w.2.1, ih (some k) w.2.2⟩

/-- Dropping entries keeps the canonical form. -/
theorem twf_tdrop [DecidableEq α] (d : α) (t : List (Nat × α)) (p : Nat → α → Bool) (w : twf d t = true) :
    twf d (tdrop t p) = true := twfFrom_tdrop d t none p w

/-- A map gives a table in canonical form, whatever it is given. -/
theorem twf_tmap [DecidableEq α] (d : α) (t : List (Nat × α)) (f : Nat → α → α) : twf d (tmap d t f) = true := by
  unfold tmap
  suffices h : ∀ a, twf d a = true → twf d (t.foldl (fun a kv => tset d a kv.1 (f kv.1 kv.2)) a) = true from h [] rfl
  induction t with
  | nil => exact fun a h => h
  | cons x r ih => exact fun a h => ih _ (twf_tset d a _ _ h)

theorem tget_below [DecidableEq α] (d : α) (t : List (Nat × α)) (lo i : Nat) (h : i ≤ lo)
    (w : twfFrom d (some lo) t = true) : tget d t i = d := by
  induction t generalizing lo with
  | nil => rfl
  | cons x r ih =>
    obtain ⟨k, y⟩ := x
    rw [twfFrom_cons] at w
    have hk : lo < k := by simpa [above] using w.1
    rw [tget, if_neg (by omega)]
    exact ih k (by omega) w.2.2

/-- What a write leaves at its key in a table in canonical form, the default too. -/
theorem tget_tset [DecidableEq α] (d : α) (t : List (Nat × α)) (i j : Nat) (v : α) (w : twf d t = true) :
    tget d (tset d t i v) j = if j = i then v else tget d t j := by
  by_cases h : j = i
  · subst h
    rw [if_pos rfl]
    by_cases hv : v = d
    · subst hv
      have go : ∀ (t : List (Nat × α)) (lo : Option Nat), twfFrom v lo t = true → tget v (tset v t j v) j = v := by
        intro t
        induction t with
        | nil => intro lo _; simp [tset, tget]
        | cons x r ih =>
          intro lo hw
          obtain ⟨k, y⟩ := x
          rw [twfFrom_cons] at hw
          by_cases h1 : j < k
          · simp only [tset, h1, if_true, tget]
            rw [if_neg (by omega)]
            exact tget_below v r k j (by omega) hw.2.2
          · by_cases h2 : j = k
            · subst h2
              simp only [tset, h1, if_false, if_true]
              exact tget_below v r j j (le_refl j) hw.2.2
            · simp only [tset, h1, h2, if_false, tget]
              exact ih (some k) hw.2.2
      exact go t none w
    · exact tget_tset_same d t j v hv
  · rw [if_neg h, tget_tset_ne d t i j v h]

/-! ### Keys of two parts -/

theorem lk_div (i l : Nat) (h : l < 281474976710656) : lk i l / 281474976710656 = i := by unfold lk; omega
theorem lk_mod (i l : Nat) (h : l < 281474976710656) : lk i l % 281474976710656 = l := by unfold lk; omega
theorem qk_ctrl (c q : Nat) (h : q < 65536) : qk c q / 65536 = c := by unfold qk; omega
theorem qk_qid (c q : Nat) (h : q < 65536) : qk c q % 65536 = q := by unfold qk; omega

end Sys2Proof.Machine
end

