-- ==== Sys2Proof/Laws/State.lean ====
section
/-! SUPPORT. What each named update of State leaves: one lemma per field per update, true by unfolding,
so that no proof unfolds a record update; and read after write for every table. -/

namespace Sys2Proof.Machine

variable (s : State) (k j : Nat)

/-! ### setPort -/

@[simp] theorem setPort_pending (v : Port) : (setPort s k v).pending = s.pending := rfl
@[simp] theorem setPort_nowUs (v : Port) : (setPort s k v).nowUs = s.nowUs := rfl
@[simp] theorem setPort_opUs (v : Port) : (setPort s k v).opUs = s.opUs := rfl
@[simp] theorem setPort_board (v : Port) : (setPort s k v).board = s.board := rfl
@[simp] theorem setPort_boot (v : Port) : (setPort s k v).boot = s.boot := rfl
@[simp] theorem setPort_arm (v : Port) : (setPort s k v).arm = s.arm := rfl
@[simp] theorem setPort_ports (v : Port) : (setPort s k v).ports = tset {} s.ports k v := rfl
@[simp] theorem setPort_ctrls (v : Port) : (setPort s k v).ctrls = s.ctrls := rfl
@[simp] theorem setPort_sqs (v : Port) : (setPort s k v).sqs = s.sqs := rfl
@[simp] theorem setPort_cqs (v : Port) : (setPort s k v).cqs = s.cqs := rfl
@[simp] theorem setPort_cmds (v : Port) : (setPort s k v).cmds = s.cmds := rfl
@[simp] theorem setPort_arb (v : Port) : (setPort s k v).arb = s.arb := rfl
@[simp] theorem setPort_ns (v : Port) : (setPort s k v).ns = s.ns := rfl
@[simp] theorem setPort_zones (v : Port) : (setPort s k v).zones = s.zones := rfl
@[simp] theorem setPort_fine (v : Port) : (setPort s k v).fine = s.fine := rfl
@[simp] theorem setPort_fineQ (v : Port) : (setPort s k v).fineQ = s.fineQ := rfl
@[simp] theorem setPort_sectors (v : Port) : (setPort s k v).sectors = s.sectors := rfl
@[simp] theorem setPort_reads (v : Port) : (setPort s k v).reads = s.reads := rfl
@[simp] theorem setPort_fineCache (v : Port) : (setPort s k v).fineCache = s.fineCache := rfl
@[simp] theorem setPort_stripes (v : Port) : (setPort s k v).stripes = s.stripes := rfl
@[simp] theorem setPort_rows (v : Port) : (setPort s k v).rows = s.rows := rfl
@[simp] theorem setPort_dies (v : Port) : (setPort s k v).dies = s.dies := rfl
@[simp] theorem setPort_chans (v : Port) : (setPort s k v).chans = s.chans := rfl
@[simp] theorem setPort_sched (v : Port) : (setPort s k v).sched = s.sched := rfl
@[simp] theorem setPort_niches (v : Port) : (setPort s k v).niches = s.niches := rfl
@[simp] theorem setPort_comms (v : Port) : (setPort s k v).comms = s.comms := rfl
@[simp] theorem setPort_cms (v : Port) : (setPort s k v).cms = s.cms := rfl
@[simp] theorem setPort_pool (v : Port) : (setPort s k v).pool = s.pool := rfl
@[simp] theorem setPort_cipher (v : Port) : (setPort s k v).cipher = s.cipher := rfl
@[simp] theorem setPort_hold (v : Port) : (setPort s k v).hold = s.hold := rfl
@[simp] theorem setPort_plinth (v : Port) : (setPort s k v).plinth = s.plinth := rfl
@[simp] theorem setPort_fed (v : Port) : (setPort s k v).fed = s.fed := rfl
@[simp] theorem setPort_clk (v : Port) : (setPort s k v).clk = s.clk := rfl
@[simp] theorem setPort_pm (v : Port) : (setPort s k v).pm = s.pm := rfl
@[simp] theorem setPort_thm (v : Port) : (setPort s k v).thm = s.thm := rfl
@[simp] theorem setPort_pat (v : Port) : (setPort s k v).pat = s.pat := rfl
@[simp] theorem setPort_glb (v : Port) : (setPort s k v).glb = s.glb := rfl
@[simp] theorem getCtrl_setPort (v : Port) : getCtrl (setPort s k v) j = getCtrl s j := rfl
@[simp] theorem getSq_setPort (v : Port) : getSq (setPort s k v) j = getSq s j := rfl
@[simp] theorem getCq_setPort (v : Port) : getCq (setPort s k v) j = getCq s j := rfl
@[simp] theorem getCmd_setPort (v : Port) : getCmd (setPort s k v) j = getCmd s j := rfl
@[simp] theorem getNs_setPort (v : Port) : getNs (setPort s k v) j = getNs s j := rfl
@[simp] theorem getRd_setPort (v : Port) : getRd (setPort s k v) j = getRd s j := rfl
@[simp] theorem getZone_setPort (v : Port) : getZone (setPort s k v) j = getZone s j := rfl
@[simp] theorem getStripe_setPort (v : Port) : getStripe (setPort s k v) j = getStripe s j := rfl
@[simp] theorem getRow_setPort (v : Port) : getRow (setPort s k v) j = getRow s j := rfl
@[simp] theorem getDie_setPort (v : Port) : getDie (setPort s k v) j = getDie s j := rfl
@[simp] theorem getChan_setPort (v : Port) : getChan (setPort s k v) j = getChan s j := rfl
@[simp] theorem getNch_setPort (v : Port) : getNch (setPort s k v) j = getNch s j := rfl
@[simp] theorem getComm_setPort (v : Port) : getComm (setPort s k v) j = getComm s j := rfl
theorem getPort_setPort_same (v : Port) (h : v ≠ {}) : getPort (setPort s k v) k = v :=
  tget_tset_same _ _ _ _ h
theorem getPort_setPort_ne {k j : Nat} (h : j ≠ k) (v : Port) : getPort (setPort s k v) j = getPort s j :=
  tget_tset_ne _ _ _ _ _ h

/-! ### setCtrl -/

@[simp] theorem setCtrl_pending (v : Ctrl) : (setCtrl s k v).pending = s.pending := rfl
@[simp] theorem setCtrl_nowUs (v : Ctrl) : (setCtrl s k v).nowUs = s.nowUs := rfl
@[simp] theorem setCtrl_opUs (v : Ctrl) : (setCtrl s k v).opUs = s.opUs := rfl
@[simp] theorem setCtrl_board (v : Ctrl) : (setCtrl s k v).board = s.board := rfl
@[simp] theorem setCtrl_boot (v : Ctrl) : (setCtrl s k v).boot = s.boot := rfl
@[simp] theorem setCtrl_arm (v : Ctrl) : (setCtrl s k v).arm = s.arm := rfl
@[simp] theorem setCtrl_ports (v : Ctrl) : (setCtrl s k v).ports = s.ports := rfl
@[simp] theorem setCtrl_ctrls (v : Ctrl) : (setCtrl s k v).ctrls = tset {} s.ctrls k v := rfl
@[simp] theorem setCtrl_sqs (v : Ctrl) : (setCtrl s k v).sqs = s.sqs := rfl
@[simp] theorem setCtrl_cqs (v : Ctrl) : (setCtrl s k v).cqs = s.cqs := rfl
@[simp] theorem setCtrl_cmds (v : Ctrl) : (setCtrl s k v).cmds = s.cmds := rfl
@[simp] theorem setCtrl_arb (v : Ctrl) : (setCtrl s k v).arb = s.arb := rfl
@[simp] theorem setCtrl_ns (v : Ctrl) : (setCtrl s k v).ns = s.ns := rfl
@[simp] theorem setCtrl_zones (v : Ctrl) : (setCtrl s k v).zones = s.zones := rfl
@[simp] theorem setCtrl_fine (v : Ctrl) : (setCtrl s k v).fine = s.fine := rfl
@[simp] theorem setCtrl_fineQ (v : Ctrl) : (setCtrl s k v).fineQ = s.fineQ := rfl
@[simp] theorem setCtrl_sectors (v : Ctrl) : (setCtrl s k v).sectors = s.sectors := rfl
@[simp] theorem setCtrl_reads (v : Ctrl) : (setCtrl s k v).reads = s.reads := rfl
@[simp] theorem setCtrl_fineCache (v : Ctrl) : (setCtrl s k v).fineCache = s.fineCache := rfl
@[simp] theorem setCtrl_stripes (v : Ctrl) : (setCtrl s k v).stripes = s.stripes := rfl
@[simp] theorem setCtrl_rows (v : Ctrl) : (setCtrl s k v).rows = s.rows := rfl
@[simp] theorem setCtrl_dies (v : Ctrl) : (setCtrl s k v).dies = s.dies := rfl
@[simp] theorem setCtrl_chans (v : Ctrl) : (setCtrl s k v).chans = s.chans := rfl
@[simp] theorem setCtrl_sched (v : Ctrl) : (setCtrl s k v).sched = s.sched := rfl
@[simp] theorem setCtrl_niches (v : Ctrl) : (setCtrl s k v).niches = s.niches := rfl
@[simp] theorem setCtrl_comms (v : Ctrl) : (setCtrl s k v).comms = s.comms := rfl
@[simp] theorem setCtrl_cms (v : Ctrl) : (setCtrl s k v).cms = s.cms := rfl
@[simp] theorem setCtrl_pool (v : Ctrl) : (setCtrl s k v).pool = s.pool := rfl
@[simp] theorem setCtrl_cipher (v : Ctrl) : (setCtrl s k v).cipher = s.cipher := rfl
@[simp] theorem setCtrl_hold (v : Ctrl) : (setCtrl s k v).hold = s.hold := rfl
@[simp] theorem setCtrl_plinth (v : Ctrl) : (setCtrl s k v).plinth = s.plinth := rfl
@[simp] theorem setCtrl_fed (v : Ctrl) : (setCtrl s k v).fed = s.fed := rfl
@[simp] theorem setCtrl_clk (v : Ctrl) : (setCtrl s k v).clk = s.clk := rfl
@[simp] theorem setCtrl_pm (v : Ctrl) : (setCtrl s k v).pm = s.pm := rfl
@[simp] theorem setCtrl_thm (v : Ctrl) : (setCtrl s k v).thm = s.thm := rfl
@[simp] theorem setCtrl_pat (v : Ctrl) : (setCtrl s k v).pat = s.pat := rfl
@[simp] theorem setCtrl_glb (v : Ctrl) : (setCtrl s k v).glb = s.glb := rfl
@[simp] theorem getPort_setCtrl (v : Ctrl) : getPort (setCtrl s k v) j = getPort s j := rfl
@[simp] theorem getSq_setCtrl (v : Ctrl) : getSq (setCtrl s k v) j = getSq s j := rfl
@[simp] theorem getCq_setCtrl (v : Ctrl) : getCq (setCtrl s k v) j = getCq s j := rfl
@[simp] theorem getCmd_setCtrl (v : Ctrl) : getCmd (setCtrl s k v) j = getCmd s j := rfl
@[simp] theorem getNs_setCtrl (v : Ctrl) : getNs (setCtrl s k v) j = getNs s j := rfl
@[simp] theorem getRd_setCtrl (v : Ctrl) : getRd (setCtrl s k v) j = getRd s j := rfl
@[simp] theorem getZone_setCtrl (v : Ctrl) : getZone (setCtrl s k v) j = getZone s j := rfl
@[simp] theorem getStripe_setCtrl (v : Ctrl) : getStripe (setCtrl s k v) j = getStripe s j := rfl
@[simp] theorem getRow_setCtrl (v : Ctrl) : getRow (setCtrl s k v) j = getRow s j := rfl
@[simp] theorem getDie_setCtrl (v : Ctrl) : getDie (setCtrl s k v) j = getDie s j := rfl
@[simp] theorem getChan_setCtrl (v : Ctrl) : getChan (setCtrl s k v) j = getChan s j := rfl
@[simp] theorem getNch_setCtrl (v : Ctrl) : getNch (setCtrl s k v) j = getNch s j := rfl
@[simp] theorem getComm_setCtrl (v : Ctrl) : getComm (setCtrl s k v) j = getComm s j := rfl
theorem getCtrl_setCtrl_same (v : Ctrl) (h : v ≠ {}) : getCtrl (setCtrl s k v) k = v :=
  tget_tset_same _ _ _ _ h
theorem getCtrl_setCtrl_ne {k j : Nat} (h : j ≠ k) (v : Ctrl) : getCtrl (setCtrl s k v) j = getCtrl s j :=
  tget_tset_ne _ _ _ _ _ h

/-! ### setSq -/

@[simp] theorem setSq_pending (v : Sq) : (setSq s k v).pending = s.pending := rfl
@[simp] theorem setSq_nowUs (v : Sq) : (setSq s k v).nowUs = s.nowUs := rfl
@[simp] theorem setSq_opUs (v : Sq) : (setSq s k v).opUs = s.opUs := rfl
@[simp] theorem setSq_board (v : Sq) : (setSq s k v).board = s.board := rfl
@[simp] theorem setSq_boot (v : Sq) : (setSq s k v).boot = s.boot := rfl
@[simp] theorem setSq_arm (v : Sq) : (setSq s k v).arm = s.arm := rfl
@[simp] theorem setSq_ports (v : Sq) : (setSq s k v).ports = s.ports := rfl
@[simp] theorem setSq_ctrls (v : Sq) : (setSq s k v).ctrls = s.ctrls := rfl
@[simp] theorem setSq_sqs (v : Sq) : (setSq s k v).sqs = tset {} s.sqs k v := rfl
@[simp] theorem setSq_cqs (v : Sq) : (setSq s k v).cqs = s.cqs := rfl
@[simp] theorem setSq_cmds (v : Sq) : (setSq s k v).cmds = s.cmds := rfl
@[simp] theorem setSq_arb (v : Sq) : (setSq s k v).arb = s.arb := rfl
@[simp] theorem setSq_ns (v : Sq) : (setSq s k v).ns = s.ns := rfl
@[simp] theorem setSq_zones (v : Sq) : (setSq s k v).zones = s.zones := rfl
@[simp] theorem setSq_fine (v : Sq) : (setSq s k v).fine = s.fine := rfl
@[simp] theorem setSq_fineQ (v : Sq) : (setSq s k v).fineQ = s.fineQ := rfl
@[simp] theorem setSq_sectors (v : Sq) : (setSq s k v).sectors = s.sectors := rfl
@[simp] theorem setSq_reads (v : Sq) : (setSq s k v).reads = s.reads := rfl
@[simp] theorem setSq_fineCache (v : Sq) : (setSq s k v).fineCache = s.fineCache := rfl
@[simp] theorem setSq_stripes (v : Sq) : (setSq s k v).stripes = s.stripes := rfl
@[simp] theorem setSq_rows (v : Sq) : (setSq s k v).rows = s.rows := rfl
@[simp] theorem setSq_dies (v : Sq) : (setSq s k v).dies = s.dies := rfl
@[simp] theorem setSq_chans (v : Sq) : (setSq s k v).chans = s.chans := rfl
@[simp] theorem setSq_sched (v : Sq) : (setSq s k v).sched = s.sched := rfl
@[simp] theorem setSq_niches (v : Sq) : (setSq s k v).niches = s.niches := rfl
@[simp] theorem setSq_comms (v : Sq) : (setSq s k v).comms = s.comms := rfl
@[simp] theorem setSq_cms (v : Sq) : (setSq s k v).cms = s.cms := rfl
@[simp] theorem setSq_pool (v : Sq) : (setSq s k v).pool = s.pool := rfl
@[simp] theorem setSq_cipher (v : Sq) : (setSq s k v).cipher = s.cipher := rfl
@[simp] theorem setSq_hold (v : Sq) : (setSq s k v).hold = s.hold := rfl
@[simp] theorem setSq_plinth (v : Sq) : (setSq s k v).plinth = s.plinth := rfl
@[simp] theorem setSq_fed (v : Sq) : (setSq s k v).fed = s.fed := rfl
@[simp] theorem setSq_clk (v : Sq) : (setSq s k v).clk = s.clk := rfl
@[simp] theorem setSq_pm (v : Sq) : (setSq s k v).pm = s.pm := rfl
@[simp] theorem setSq_thm (v : Sq) : (setSq s k v).thm = s.thm := rfl
@[simp] theorem setSq_pat (v : Sq) : (setSq s k v).pat = s.pat := rfl
@[simp] theorem setSq_glb (v : Sq) : (setSq s k v).glb = s.glb := rfl
@[simp] theorem getPort_setSq (v : Sq) : getPort (setSq s k v) j = getPort s j := rfl
@[simp] theorem getCtrl_setSq (v : Sq) : getCtrl (setSq s k v) j = getCtrl s j := rfl
@[simp] theorem getCq_setSq (v : Sq) : getCq (setSq s k v) j = getCq s j := rfl
@[simp] theorem getCmd_setSq (v : Sq) : getCmd (setSq s k v) j = getCmd s j := rfl
@[simp] theorem getNs_setSq (v : Sq) : getNs (setSq s k v) j = getNs s j := rfl
@[simp] theorem getRd_setSq (v : Sq) : getRd (setSq s k v) j = getRd s j := rfl
@[simp] theorem getZone_setSq (v : Sq) : getZone (setSq s k v) j = getZone s j := rfl
@[simp] theorem getStripe_setSq (v : Sq) : getStripe (setSq s k v) j = getStripe s j := rfl
@[simp] theorem getRow_setSq (v : Sq) : getRow (setSq s k v) j = getRow s j := rfl
@[simp] theorem getDie_setSq (v : Sq) : getDie (setSq s k v) j = getDie s j := rfl
@[simp] theorem getChan_setSq (v : Sq) : getChan (setSq s k v) j = getChan s j := rfl
@[simp] theorem getNch_setSq (v : Sq) : getNch (setSq s k v) j = getNch s j := rfl
@[simp] theorem getComm_setSq (v : Sq) : getComm (setSq s k v) j = getComm s j := rfl
theorem getSq_setSq_same (v : Sq) (h : v ≠ {}) : getSq (setSq s k v) k = v :=
  tget_tset_same _ _ _ _ h
theorem getSq_setSq_ne {k j : Nat} (h : j ≠ k) (v : Sq) : getSq (setSq s k v) j = getSq s j :=
  tget_tset_ne _ _ _ _ _ h

/-! ### setCq -/

@[simp] theorem setCq_pending (v : Cq) : (setCq s k v).pending = s.pending := rfl
@[simp] theorem setCq_nowUs (v : Cq) : (setCq s k v).nowUs = s.nowUs := rfl
@[simp] theorem setCq_opUs (v : Cq) : (setCq s k v).opUs = s.opUs := rfl
@[simp] theorem setCq_board (v : Cq) : (setCq s k v).board = s.board := rfl
@[simp] theorem setCq_boot (v : Cq) : (setCq s k v).boot = s.boot := rfl
@[simp] theorem setCq_arm (v : Cq) : (setCq s k v).arm = s.arm := rfl
@[simp] theorem setCq_ports (v : Cq) : (setCq s k v).ports = s.ports := rfl
@[simp] theorem setCq_ctrls (v : Cq) : (setCq s k v).ctrls = s.ctrls := rfl
@[simp] theorem setCq_sqs (v : Cq) : (setCq s k v).sqs = s.sqs := rfl
@[simp] theorem setCq_cqs (v : Cq) : (setCq s k v).cqs = tset {} s.cqs k v := rfl
@[simp] theorem setCq_cmds (v : Cq) : (setCq s k v).cmds = s.cmds := rfl
@[simp] theorem setCq_arb (v : Cq) : (setCq s k v).arb = s.arb := rfl
@[simp] theorem setCq_ns (v : Cq) : (setCq s k v).ns = s.ns := rfl
@[simp] theorem setCq_zones (v : Cq) : (setCq s k v).zones = s.zones := rfl
@[simp] theorem setCq_fine (v : Cq) : (setCq s k v).fine = s.fine := rfl
@[simp] theorem setCq_fineQ (v : Cq) : (setCq s k v).fineQ = s.fineQ := rfl
@[simp] theorem setCq_sectors (v : Cq) : (setCq s k v).sectors = s.sectors := rfl
@[simp] theorem setCq_reads (v : Cq) : (setCq s k v).reads = s.reads := rfl
@[simp] theorem setCq_fineCache (v : Cq) : (setCq s k v).fineCache = s.fineCache := rfl
@[simp] theorem setCq_stripes (v : Cq) : (setCq s k v).stripes = s.stripes := rfl
@[simp] theorem setCq_rows (v : Cq) : (setCq s k v).rows = s.rows := rfl
@[simp] theorem setCq_dies (v : Cq) : (setCq s k v).dies = s.dies := rfl
@[simp] theorem setCq_chans (v : Cq) : (setCq s k v).chans = s.chans := rfl
@[simp] theorem setCq_sched (v : Cq) : (setCq s k v).sched = s.sched := rfl
@[simp] theorem setCq_niches (v : Cq) : (setCq s k v).niches = s.niches := rfl
@[simp] theorem setCq_comms (v : Cq) : (setCq s k v).comms = s.comms := rfl
@[simp] theorem setCq_cms (v : Cq) : (setCq s k v).cms = s.cms := rfl
@[simp] theorem setCq_pool (v : Cq) : (setCq s k v).pool = s.pool := rfl
@[simp] theorem setCq_cipher (v : Cq) : (setCq s k v).cipher = s.cipher := rfl
@[simp] theorem setCq_hold (v : Cq) : (setCq s k v).hold = s.hold := rfl
@[simp] theorem setCq_plinth (v : Cq) : (setCq s k v).plinth = s.plinth := rfl
@[simp] theorem setCq_fed (v : Cq) : (setCq s k v).fed = s.fed := rfl
@[simp] theorem setCq_clk (v : Cq) : (setCq s k v).clk = s.clk := rfl
@[simp] theorem setCq_pm (v : Cq) : (setCq s k v).pm = s.pm := rfl
@[simp] theorem setCq_thm (v : Cq) : (setCq s k v).thm = s.thm := rfl
@[simp] theorem setCq_pat (v : Cq) : (setCq s k v).pat = s.pat := rfl
@[simp] theorem setCq_glb (v : Cq) : (setCq s k v).glb = s.glb := rfl
@[simp] theorem getPort_setCq (v : Cq) : getPort (setCq s k v) j = getPort s j := rfl
@[simp] theorem getCtrl_setCq (v : Cq) : getCtrl (setCq s k v) j = getCtrl s j := rfl
@[simp] theorem getSq_setCq (v : Cq) : getSq (setCq s k v) j = getSq s j := rfl
@[simp] theorem getCmd_setCq (v : Cq) : getCmd (setCq s k v) j = getCmd s j := rfl
@[simp] theorem getNs_setCq (v : Cq) : getNs (setCq s k v) j = getNs s j := rfl
@[simp] theorem getRd_setCq (v : Cq) : getRd (setCq s k v) j = getRd s j := rfl
@[simp] theorem getZone_setCq (v : Cq) : getZone (setCq s k v) j = getZone s j := rfl
@[simp] theorem getStripe_setCq (v : Cq) : getStripe (setCq s k v) j = getStripe s j := rfl
@[simp] theorem getRow_setCq (v : Cq) : getRow (setCq s k v) j = getRow s j := rfl
@[simp] theorem getDie_setCq (v : Cq) : getDie (setCq s k v) j = getDie s j := rfl
@[simp] theorem getChan_setCq (v : Cq) : getChan (setCq s k v) j = getChan s j := rfl
@[simp] theorem getNch_setCq (v : Cq) : getNch (setCq s k v) j = getNch s j := rfl
@[simp] theorem getComm_setCq (v : Cq) : getComm (setCq s k v) j = getComm s j := rfl
theorem getCq_setCq_same (v : Cq) (h : v ≠ {}) : getCq (setCq s k v) k = v :=
  tget_tset_same _ _ _ _ h
theorem getCq_setCq_ne {k j : Nat} (h : j ≠ k) (v : Cq) : getCq (setCq s k v) j = getCq s j :=
  tget_tset_ne _ _ _ _ _ h

/-! ### setCmd -/

@[simp] theorem setCmd_pending (v : Cmd) : (setCmd s k v).pending = s.pending := rfl
@[simp] theorem setCmd_nowUs (v : Cmd) : (setCmd s k v).nowUs = s.nowUs := rfl
@[simp] theorem setCmd_opUs (v : Cmd) : (setCmd s k v).opUs = s.opUs := rfl
@[simp] theorem setCmd_board (v : Cmd) : (setCmd s k v).board = s.board := rfl
@[simp] theorem setCmd_boot (v : Cmd) : (setCmd s k v).boot = s.boot := rfl
@[simp] theorem setCmd_arm (v : Cmd) : (setCmd s k v).arm = s.arm := rfl
@[simp] theorem setCmd_ports (v : Cmd) : (setCmd s k v).ports = s.ports := rfl
@[simp] theorem setCmd_ctrls (v : Cmd) : (setCmd s k v).ctrls = s.ctrls := rfl
@[simp] theorem setCmd_sqs (v : Cmd) : (setCmd s k v).sqs = s.sqs := rfl
@[simp] theorem setCmd_cqs (v : Cmd) : (setCmd s k v).cqs = s.cqs := rfl
@[simp] theorem setCmd_cmds (v : Cmd) : (setCmd s k v).cmds = tset {} s.cmds k v := rfl
@[simp] theorem setCmd_arb (v : Cmd) : (setCmd s k v).arb = s.arb := rfl
@[simp] theorem setCmd_ns (v : Cmd) : (setCmd s k v).ns = s.ns := rfl
@[simp] theorem setCmd_zones (v : Cmd) : (setCmd s k v).zones = s.zones := rfl
@[simp] theorem setCmd_fine (v : Cmd) : (setCmd s k v).fine = s.fine := rfl
@[simp] theorem setCmd_fineQ (v : Cmd) : (setCmd s k v).fineQ = s.fineQ := rfl
@[simp] theorem setCmd_sectors (v : Cmd) : (setCmd s k v).sectors = s.sectors := rfl
@[simp] theorem setCmd_reads (v : Cmd) : (setCmd s k v).reads = s.reads := rfl
@[simp] theorem setCmd_fineCache (v : Cmd) : (setCmd s k v).fineCache = s.fineCache := rfl
@[simp] theorem setCmd_stripes (v : Cmd) : (setCmd s k v).stripes = s.stripes := rfl
@[simp] theorem setCmd_rows (v : Cmd) : (setCmd s k v).rows = s.rows := rfl
@[simp] theorem setCmd_dies (v : Cmd) : (setCmd s k v).dies = s.dies := rfl
@[simp] theorem setCmd_chans (v : Cmd) : (setCmd s k v).chans = s.chans := rfl
@[simp] theorem setCmd_sched (v : Cmd) : (setCmd s k v).sched = s.sched := rfl
@[simp] theorem setCmd_niches (v : Cmd) : (setCmd s k v).niches = s.niches := rfl
@[simp] theorem setCmd_comms (v : Cmd) : (setCmd s k v).comms = s.comms := rfl
@[simp] theorem setCmd_cms (v : Cmd) : (setCmd s k v).cms = s.cms := rfl
@[simp] theorem setCmd_pool (v : Cmd) : (setCmd s k v).pool = s.pool := rfl
@[simp] theorem setCmd_cipher (v : Cmd) : (setCmd s k v).cipher = s.cipher := rfl
@[simp] theorem setCmd_hold (v : Cmd) : (setCmd s k v).hold = s.hold := rfl
@[simp] theorem setCmd_plinth (v : Cmd) : (setCmd s k v).plinth = s.plinth := rfl
@[simp] theorem setCmd_fed (v : Cmd) : (setCmd s k v).fed = s.fed := rfl
@[simp] theorem setCmd_clk (v : Cmd) : (setCmd s k v).clk = s.clk := rfl
@[simp] theorem setCmd_pm (v : Cmd) : (setCmd s k v).pm = s.pm := rfl
@[simp] theorem setCmd_thm (v : Cmd) : (setCmd s k v).thm = s.thm := rfl
@[simp] theorem setCmd_pat (v : Cmd) : (setCmd s k v).pat = s.pat := rfl
@[simp] theorem setCmd_glb (v : Cmd) : (setCmd s k v).glb = s.glb := rfl
@[simp] theorem getPort_setCmd (v : Cmd) : getPort (setCmd s k v) j = getPort s j := rfl
@[simp] theorem getCtrl_setCmd (v : Cmd) : getCtrl (setCmd s k v) j = getCtrl s j := rfl
@[simp] theorem getSq_setCmd (v : Cmd) : getSq (setCmd s k v) j = getSq s j := rfl
@[simp] theorem getCq_setCmd (v : Cmd) : getCq (setCmd s k v) j = getCq s j := rfl
@[simp] theorem getNs_setCmd (v : Cmd) : getNs (setCmd s k v) j = getNs s j := rfl
@[simp] theorem getRd_setCmd (v : Cmd) : getRd (setCmd s k v) j = getRd s j := rfl
@[simp] theorem getZone_setCmd (v : Cmd) : getZone (setCmd s k v) j = getZone s j := rfl
@[simp] theorem getStripe_setCmd (v : Cmd) : getStripe (setCmd s k v) j = getStripe s j := rfl
@[simp] theorem getRow_setCmd (v : Cmd) : getRow (setCmd s k v) j = getRow s j := rfl
@[simp] theorem getDie_setCmd (v : Cmd) : getDie (setCmd s k v) j = getDie s j := rfl
@[simp] theorem getChan_setCmd (v : Cmd) : getChan (setCmd s k v) j = getChan s j := rfl
@[simp] theorem getNch_setCmd (v : Cmd) : getNch (setCmd s k v) j = getNch s j := rfl
@[simp] theorem getComm_setCmd (v : Cmd) : getComm (setCmd s k v) j = getComm s j := rfl
theorem getCmd_setCmd_same (v : Cmd) (h : v ≠ {}) : getCmd (setCmd s k v) k = v :=
  tget_tset_same _ _ _ _ h
theorem getCmd_setCmd_ne {k j : Nat} (h : j ≠ k) (v : Cmd) : getCmd (setCmd s k v) j = getCmd s j :=
  tget_tset_ne _ _ _ _ _ h

/-! ### setNs -/

@[simp] theorem setNs_pending (v : Ns) : (setNs s k v).pending = s.pending := rfl
@[simp] theorem setNs_nowUs (v : Ns) : (setNs s k v).nowUs = s.nowUs := rfl
@[simp] theorem setNs_opUs (v : Ns) : (setNs s k v).opUs = s.opUs := rfl
@[simp] theorem setNs_board (v : Ns) : (setNs s k v).board = s.board := rfl
@[simp] theorem setNs_boot (v : Ns) : (setNs s k v).boot = s.boot := rfl
@[simp] theorem setNs_arm (v : Ns) : (setNs s k v).arm = s.arm := rfl
@[simp] theorem setNs_ports (v : Ns) : (setNs s k v).ports = s.ports := rfl
@[simp] theorem setNs_ctrls (v : Ns) : (setNs s k v).ctrls = s.ctrls := rfl
@[simp] theorem setNs_sqs (v : Ns) : (setNs s k v).sqs = s.sqs := rfl
@[simp] theorem setNs_cqs (v : Ns) : (setNs s k v).cqs = s.cqs := rfl
@[simp] theorem setNs_cmds (v : Ns) : (setNs s k v).cmds = s.cmds := rfl
@[simp] theorem setNs_arb (v : Ns) : (setNs s k v).arb = s.arb := rfl
@[simp] theorem setNs_ns (v : Ns) : (setNs s k v).ns = tset {} s.ns k v := rfl
@[simp] theorem setNs_zones (v : Ns) : (setNs s k v).zones = s.zones := rfl
@[simp] theorem setNs_fine (v : Ns) : (setNs s k v).fine = s.fine := rfl
@[simp] theorem setNs_fineQ (v : Ns) : (setNs s k v).fineQ = s.fineQ := rfl
@[simp] theorem setNs_sectors (v : Ns) : (setNs s k v).sectors = s.sectors := rfl
@[simp] theorem setNs_reads (v : Ns) : (setNs s k v).reads = s.reads := rfl
@[simp] theorem setNs_fineCache (v : Ns) : (setNs s k v).fineCache = s.fineCache := rfl
@[simp] theorem setNs_stripes (v : Ns) : (setNs s k v).stripes = s.stripes := rfl
@[simp] theorem setNs_rows (v : Ns) : (setNs s k v).rows = s.rows := rfl
@[simp] theorem setNs_dies (v : Ns) : (setNs s k v).dies = s.dies := rfl
@[simp] theorem setNs_chans (v : Ns) : (setNs s k v).chans = s.chans := rfl
@[simp] theorem setNs_sched (v : Ns) : (setNs s k v).sched = s.sched := rfl
@[simp] theorem setNs_niches (v : Ns) : (setNs s k v).niches = s.niches := rfl
@[simp] theorem setNs_comms (v : Ns) : (setNs s k v).comms = s.comms := rfl
@[simp] theorem setNs_cms (v : Ns) : (setNs s k v).cms = s.cms := rfl
@[simp] theorem setNs_pool (v : Ns) : (setNs s k v).pool = s.pool := rfl
@[simp] theorem setNs_cipher (v : Ns) : (setNs s k v).cipher = s.cipher := rfl
@[simp] theorem setNs_hold (v : Ns) : (setNs s k v).hold = s.hold := rfl
@[simp] theorem setNs_plinth (v : Ns) : (setNs s k v).plinth = s.plinth := rfl
@[simp] theorem setNs_fed (v : Ns) : (setNs s k v).fed = s.fed := rfl
@[simp] theorem setNs_clk (v : Ns) : (setNs s k v).clk = s.clk := rfl
@[simp] theorem setNs_pm (v : Ns) : (setNs s k v).pm = s.pm := rfl
@[simp] theorem setNs_thm (v : Ns) : (setNs s k v).thm = s.thm := rfl
@[simp] theorem setNs_pat (v : Ns) : (setNs s k v).pat = s.pat := rfl
@[simp] theorem setNs_glb (v : Ns) : (setNs s k v).glb = s.glb := rfl
@[simp] theorem getPort_setNs (v : Ns) : getPort (setNs s k v) j = getPort s j := rfl
@[simp] theorem getCtrl_setNs (v : Ns) : getCtrl (setNs s k v) j = getCtrl s j := rfl
@[simp] theorem getSq_setNs (v : Ns) : getSq (setNs s k v) j = getSq s j := rfl
@[simp] theorem getCq_setNs (v : Ns) : getCq (setNs s k v) j = getCq s j := rfl
@[simp] theorem getCmd_setNs (v : Ns) : getCmd (setNs s k v) j = getCmd s j := rfl
@[simp] theorem getRd_setNs (v : Ns) : getRd (setNs s k v) j = getRd s j := rfl
@[simp] theorem getZone_setNs (v : Ns) : getZone (setNs s k v) j = getZone s j := rfl
@[simp] theorem getStripe_setNs (v : Ns) : getStripe (setNs s k v) j = getStripe s j := rfl
@[simp] theorem getRow_setNs (v : Ns) : getRow (setNs s k v) j = getRow s j := rfl
@[simp] theorem getDie_setNs (v : Ns) : getDie (setNs s k v) j = getDie s j := rfl
@[simp] theorem getChan_setNs (v : Ns) : getChan (setNs s k v) j = getChan s j := rfl
@[simp] theorem getNch_setNs (v : Ns) : getNch (setNs s k v) j = getNch s j := rfl
@[simp] theorem getComm_setNs (v : Ns) : getComm (setNs s k v) j = getComm s j := rfl
theorem getNs_setNs_same (v : Ns) (h : v ≠ {}) : getNs (setNs s k v) k = v :=
  tget_tset_same _ _ _ _ h
theorem getNs_setNs_ne {k j : Nat} (h : j ≠ k) (v : Ns) : getNs (setNs s k v) j = getNs s j :=
  tget_tset_ne _ _ _ _ _ h

/-! ### setRd -/

@[simp] theorem setRd_pending (v : Rd) : (setRd s k v).pending = s.pending := rfl
@[simp] theorem setRd_nowUs (v : Rd) : (setRd s k v).nowUs = s.nowUs := rfl
@[simp] theorem setRd_opUs (v : Rd) : (setRd s k v).opUs = s.opUs := rfl
@[simp] theorem setRd_board (v : Rd) : (setRd s k v).board = s.board := rfl
@[simp] theorem setRd_boot (v : Rd) : (setRd s k v).boot = s.boot := rfl
@[simp] theorem setRd_arm (v : Rd) : (setRd s k v).arm = s.arm := rfl
@[simp] theorem setRd_ports (v : Rd) : (setRd s k v).ports = s.ports := rfl
@[simp] theorem setRd_ctrls (v : Rd) : (setRd s k v).ctrls = s.ctrls := rfl
@[simp] theorem setRd_sqs (v : Rd) : (setRd s k v).sqs = s.sqs := rfl
@[simp] theorem setRd_cqs (v : Rd) : (setRd s k v).cqs = s.cqs := rfl
@[simp] theorem setRd_cmds (v : Rd) : (setRd s k v).cmds = s.cmds := rfl
@[simp] theorem setRd_arb (v : Rd) : (setRd s k v).arb = s.arb := rfl
@[simp] theorem setRd_ns (v : Rd) : (setRd s k v).ns = s.ns := rfl
@[simp] theorem setRd_zones (v : Rd) : (setRd s k v).zones = s.zones := rfl
@[simp] theorem setRd_fine (v : Rd) : (setRd s k v).fine = s.fine := rfl
@[simp] theorem setRd_fineQ (v : Rd) : (setRd s k v).fineQ = s.fineQ := rfl
@[simp] theorem setRd_sectors (v : Rd) : (setRd s k v).sectors = s.sectors := rfl
@[simp] theorem setRd_reads (v : Rd) : (setRd s k v).reads = tset {} s.reads k v := rfl
@[simp] theorem setRd_fineCache (v : Rd) : (setRd s k v).fineCache = s.fineCache := rfl
@[simp] theorem setRd_stripes (v : Rd) : (setRd s k v).stripes = s.stripes := rfl
@[simp] theorem setRd_rows (v : Rd) : (setRd s k v).rows = s.rows := rfl
@[simp] theorem setRd_dies (v : Rd) : (setRd s k v).dies = s.dies := rfl
@[simp] theorem setRd_chans (v : Rd) : (setRd s k v).chans = s.chans := rfl
@[simp] theorem setRd_sched (v : Rd) : (setRd s k v).sched = s.sched := rfl
@[simp] theorem setRd_niches (v : Rd) : (setRd s k v).niches = s.niches := rfl
@[simp] theorem setRd_comms (v : Rd) : (setRd s k v).comms = s.comms := rfl
@[simp] theorem setRd_cms (v : Rd) : (setRd s k v).cms = s.cms := rfl
@[simp] theorem setRd_pool (v : Rd) : (setRd s k v).pool = s.pool := rfl
@[simp] theorem setRd_cipher (v : Rd) : (setRd s k v).cipher = s.cipher := rfl
@[simp] theorem setRd_hold (v : Rd) : (setRd s k v).hold = s.hold := rfl
@[simp] theorem setRd_plinth (v : Rd) : (setRd s k v).plinth = s.plinth := rfl
@[simp] theorem setRd_fed (v : Rd) : (setRd s k v).fed = s.fed := rfl
@[simp] theorem setRd_clk (v : Rd) : (setRd s k v).clk = s.clk := rfl
@[simp] theorem setRd_pm (v : Rd) : (setRd s k v).pm = s.pm := rfl
@[simp] theorem setRd_thm (v : Rd) : (setRd s k v).thm = s.thm := rfl
@[simp] theorem setRd_pat (v : Rd) : (setRd s k v).pat = s.pat := rfl
@[simp] theorem setRd_glb (v : Rd) : (setRd s k v).glb = s.glb := rfl
@[simp] theorem getPort_setRd (v : Rd) : getPort (setRd s k v) j = getPort s j := rfl
@[simp] theorem getCtrl_setRd (v : Rd) : getCtrl (setRd s k v) j = getCtrl s j := rfl
@[simp] theorem getSq_setRd (v : Rd) : getSq (setRd s k v) j = getSq s j := rfl
@[simp] theorem getCq_setRd (v : Rd) : getCq (setRd s k v) j = getCq s j := rfl
@[simp] theorem getCmd_setRd (v : Rd) : getCmd (setRd s k v) j = getCmd s j := rfl
@[simp] theorem getNs_setRd (v : Rd) : getNs (setRd s k v) j = getNs s j := rfl
@[simp] theorem getZone_setRd (v : Rd) : getZone (setRd s k v) j = getZone s j := rfl
@[simp] theorem getStripe_setRd (v : Rd) : getStripe (setRd s k v) j = getStripe s j := rfl
@[simp] theorem getRow_setRd (v : Rd) : getRow (setRd s k v) j = getRow s j := rfl
@[simp] theorem getDie_setRd (v : Rd) : getDie (setRd s k v) j = getDie s j := rfl
@[simp] theorem getChan_setRd (v : Rd) : getChan (setRd s k v) j = getChan s j := rfl
@[simp] theorem getNch_setRd (v : Rd) : getNch (setRd s k v) j = getNch s j := rfl
@[simp] theorem getComm_setRd (v : Rd) : getComm (setRd s k v) j = getComm s j := rfl
theorem getRd_setRd_same (v : Rd) (h : v ≠ {}) : getRd (setRd s k v) k = v :=
  tget_tset_same _ _ _ _ h
theorem getRd_setRd_ne {k j : Nat} (h : j ≠ k) (v : Rd) : getRd (setRd s k v) j = getRd s j :=
  tget_tset_ne _ _ _ _ _ h

/-! ### setZone -/

@[simp] theorem setZone_pending (v : Zone) : (setZone s k v).pending = s.pending := rfl
@[simp] theorem setZone_nowUs (v : Zone) : (setZone s k v).nowUs = s.nowUs := rfl
@[simp] theorem setZone_opUs (v : Zone) : (setZone s k v).opUs = s.opUs := rfl
@[simp] theorem setZone_board (v : Zone) : (setZone s k v).board = s.board := rfl
@[simp] theorem setZone_boot (v : Zone) : (setZone s k v).boot = s.boot := rfl
@[simp] theorem setZone_arm (v : Zone) : (setZone s k v).arm = s.arm := rfl
@[simp] theorem setZone_ports (v : Zone) : (setZone s k v).ports = s.ports := rfl
@[simp] theorem setZone_ctrls (v : Zone) : (setZone s k v).ctrls = s.ctrls := rfl
@[simp] theorem setZone_sqs (v : Zone) : (setZone s k v).sqs = s.sqs := rfl
@[simp] theorem setZone_cqs (v : Zone) : (setZone s k v).cqs = s.cqs := rfl
@[simp] theorem setZone_cmds (v : Zone) : (setZone s k v).cmds = s.cmds := rfl
@[simp] theorem setZone_arb (v : Zone) : (setZone s k v).arb = s.arb := rfl
@[simp] theorem setZone_ns (v : Zone) : (setZone s k v).ns = s.ns := rfl
@[simp] theorem setZone_zones (v : Zone) : (setZone s k v).zones = tset {} s.zones k v := rfl
@[simp] theorem setZone_fine (v : Zone) : (setZone s k v).fine = s.fine := rfl
@[simp] theorem setZone_fineQ (v : Zone) : (setZone s k v).fineQ = s.fineQ := rfl
@[simp] theorem setZone_sectors (v : Zone) : (setZone s k v).sectors = s.sectors := rfl
@[simp] theorem setZone_reads (v : Zone) : (setZone s k v).reads = s.reads := rfl
@[simp] theorem setZone_fineCache (v : Zone) : (setZone s k v).fineCache = s.fineCache := rfl
@[simp] theorem setZone_stripes (v : Zone) : (setZone s k v).stripes = s.stripes := rfl
@[simp] theorem setZone_rows (v : Zone) : (setZone s k v).rows = s.rows := rfl
@[simp] theorem setZone_dies (v : Zone) : (setZone s k v).dies = s.dies := rfl
@[simp] theorem setZone_chans (v : Zone) : (setZone s k v).chans = s.chans := rfl
@[simp] theorem setZone_sched (v : Zone) : (setZone s k v).sched = s.sched := rfl
@[simp] theorem setZone_niches (v : Zone) : (setZone s k v).niches = s.niches := rfl
@[simp] theorem setZone_comms (v : Zone) : (setZone s k v).comms = s.comms := rfl
@[simp] theorem setZone_cms (v : Zone) : (setZone s k v).cms = s.cms := rfl
@[simp] theorem setZone_pool (v : Zone) : (setZone s k v).pool = s.pool := rfl
@[simp] theorem setZone_cipher (v : Zone) : (setZone s k v).cipher = s.cipher := rfl
@[simp] theorem setZone_hold (v : Zone) : (setZone s k v).hold = s.hold := rfl
@[simp] theorem setZone_plinth (v : Zone) : (setZone s k v).plinth = s.plinth := rfl
@[simp] theorem setZone_fed (v : Zone) : (setZone s k v).fed = s.fed := rfl
@[simp] theorem setZone_clk (v : Zone) : (setZone s k v).clk = s.clk := rfl
@[simp] theorem setZone_pm (v : Zone) : (setZone s k v).pm = s.pm := rfl
@[simp] theorem setZone_thm (v : Zone) : (setZone s k v).thm = s.thm := rfl
@[simp] theorem setZone_pat (v : Zone) : (setZone s k v).pat = s.pat := rfl
@[simp] theorem setZone_glb (v : Zone) : (setZone s k v).glb = s.glb := rfl
@[simp] theorem getPort_setZone (v : Zone) : getPort (setZone s k v) j = getPort s j := rfl
@[simp] theorem getCtrl_setZone (v : Zone) : getCtrl (setZone s k v) j = getCtrl s j := rfl
@[simp] theorem getSq_setZone (v : Zone) : getSq (setZone s k v) j = getSq s j := rfl
@[simp] theorem getCq_setZone (v : Zone) : getCq (setZone s k v) j = getCq s j := rfl
@[simp] theorem getCmd_setZone (v : Zone) : getCmd (setZone s k v) j = getCmd s j := rfl
@[simp] theorem getNs_setZone (v : Zone) : getNs (setZone s k v) j = getNs s j := rfl
@[simp] theorem getRd_setZone (v : Zone) : getRd (setZone s k v) j = getRd s j := rfl
@[simp] theorem getStripe_setZone (v : Zone) : getStripe (setZone s k v) j = getStripe s j := rfl
@[simp] theorem getRow_setZone (v : Zone) : getRow (setZone s k v) j = getRow s j := rfl
@[simp] theorem getDie_setZone (v : Zone) : getDie (setZone s k v) j = getDie s j := rfl
@[simp] theorem getChan_setZone (v : Zone) : getChan (setZone s k v) j = getChan s j := rfl
@[simp] theorem getNch_setZone (v : Zone) : getNch (setZone s k v) j = getNch s j := rfl
@[simp] theorem getComm_setZone (v : Zone) : getComm (setZone s k v) j = getComm s j := rfl
theorem getZone_setZone_same (v : Zone) (h : v ≠ {}) : getZone (setZone s k v) k = v :=
  tget_tset_same _ _ _ _ h
theorem getZone_setZone_ne {k j : Nat} (h : j ≠ k) (v : Zone) : getZone (setZone s k v) j = getZone s j :=
  tget_tset_ne _ _ _ _ _ h

/-! ### setStripe -/

@[simp] theorem setStripe_pending (v : Stripe) : (setStripe s k v).pending = s.pending := rfl
@[simp] theorem setStripe_nowUs (v : Stripe) : (setStripe s k v).nowUs = s.nowUs := rfl
@[simp] theorem setStripe_opUs (v : Stripe) : (setStripe s k v).opUs = s.opUs := rfl
@[simp] theorem setStripe_board (v : Stripe) : (setStripe s k v).board = s.board := rfl
@[simp] theorem setStripe_boot (v : Stripe) : (setStripe s k v).boot = s.boot := rfl
@[simp] theorem setStripe_arm (v : Stripe) : (setStripe s k v).arm = s.arm := rfl
@[simp] theorem setStripe_ports (v : Stripe) : (setStripe s k v).ports = s.ports := rfl
@[simp] theorem setStripe_ctrls (v : Stripe) : (setStripe s k v).ctrls = s.ctrls := rfl
@[simp] theorem setStripe_sqs (v : Stripe) : (setStripe s k v).sqs = s.sqs := rfl
@[simp] theorem setStripe_cqs (v : Stripe) : (setStripe s k v).cqs = s.cqs := rfl
@[simp] theorem setStripe_cmds (v : Stripe) : (setStripe s k v).cmds = s.cmds := rfl
@[simp] theorem setStripe_arb (v : Stripe) : (setStripe s k v).arb = s.arb := rfl
@[simp] theorem setStripe_ns (v : Stripe) : (setStripe s k v).ns = s.ns := rfl
@[simp] theorem setStripe_zones (v : Stripe) : (setStripe s k v).zones = s.zones := rfl
@[simp] theorem setStripe_fine (v : Stripe) : (setStripe s k v).fine = s.fine := rfl
@[simp] theorem setStripe_fineQ (v : Stripe) : (setStripe s k v).fineQ = s.fineQ := rfl
@[simp] theorem setStripe_sectors (v : Stripe) : (setStripe s k v).sectors = s.sectors := rfl
@[simp] theorem setStripe_reads (v : Stripe) : (setStripe s k v).reads = s.reads := rfl
@[simp] theorem setStripe_fineCache (v : Stripe) : (setStripe s k v).fineCache = s.fineCache := rfl
@[simp] theorem setStripe_stripes (v : Stripe) : (setStripe s k v).stripes = tset {} s.stripes k v := rfl
@[simp] theorem setStripe_rows (v : Stripe) : (setStripe s k v).rows = s.rows := rfl
@[simp] theorem setStripe_dies (v : Stripe) : (setStripe s k v).dies = s.dies := rfl
@[simp] theorem setStripe_chans (v : Stripe) : (setStripe s k v).chans = s.chans := rfl
@[simp] theorem setStripe_sched (v : Stripe) : (setStripe s k v).sched = s.sched := rfl
@[simp] theorem setStripe_niches (v : Stripe) : (setStripe s k v).niches = s.niches := rfl
@[simp] theorem setStripe_comms (v : Stripe) : (setStripe s k v).comms = s.comms := rfl
@[simp] theorem setStripe_cms (v : Stripe) : (setStripe s k v).cms = s.cms := rfl
@[simp] theorem setStripe_pool (v : Stripe) : (setStripe s k v).pool = s.pool := rfl
@[simp] theorem setStripe_cipher (v : Stripe) : (setStripe s k v).cipher = s.cipher := rfl
@[simp] theorem setStripe_hold (v : Stripe) : (setStripe s k v).hold = s.hold := rfl
@[simp] theorem setStripe_plinth (v : Stripe) : (setStripe s k v).plinth = s.plinth := rfl
@[simp] theorem setStripe_fed (v : Stripe) : (setStripe s k v).fed = s.fed := rfl
@[simp] theorem setStripe_clk (v : Stripe) : (setStripe s k v).clk = s.clk := rfl
@[simp] theorem setStripe_pm (v : Stripe) : (setStripe s k v).pm = s.pm := rfl
@[simp] theorem setStripe_thm (v : Stripe) : (setStripe s k v).thm = s.thm := rfl
@[simp] theorem setStripe_pat (v : Stripe) : (setStripe s k v).pat = s.pat := rfl
@[simp] theorem setStripe_glb (v : Stripe) : (setStripe s k v).glb = s.glb := rfl
@[simp] theorem getPort_setStripe (v : Stripe) : getPort (setStripe s k v) j = getPort s j := rfl
@[simp] theorem getCtrl_setStripe (v : Stripe) : getCtrl (setStripe s k v) j = getCtrl s j := rfl
@[simp] theorem getSq_setStripe (v : Stripe) : getSq (setStripe s k v) j = getSq s j := rfl
@[simp] theorem getCq_setStripe (v : Stripe) : getCq (setStripe s k v) j = getCq s j := rfl
@[simp] theorem getCmd_setStripe (v : Stripe) : getCmd (setStripe s k v) j = getCmd s j := rfl
@[simp] theorem getNs_setStripe (v : Stripe) : getNs (setStripe s k v) j = getNs s j := rfl
@[simp] theorem getRd_setStripe (v : Stripe) : getRd (setStripe s k v) j = getRd s j := rfl
@[simp] theorem getZone_setStripe (v : Stripe) : getZone (setStripe s k v) j = getZone s j := rfl
@[simp] theorem getRow_setStripe (v : Stripe) : getRow (setStripe s k v) j = getRow s j := rfl
@[simp] theorem getDie_setStripe (v : Stripe) : getDie (setStripe s k v) j = getDie s j := rfl
@[simp] theorem getChan_setStripe (v : Stripe) : getChan (setStripe s k v) j = getChan s j := rfl
@[simp] theorem getNch_setStripe (v : Stripe) : getNch (setStripe s k v) j = getNch s j := rfl
@[simp] theorem getComm_setStripe (v : Stripe) : getComm (setStripe s k v) j = getComm s j := rfl
theorem getStripe_setStripe_same (v : Stripe) (h : v ≠ {}) : getStripe (setStripe s k v) k = v :=
  tget_tset_same _ _ _ _ h
theorem getStripe_setStripe_ne {k j : Nat} (h : j ≠ k) (v : Stripe) : getStripe (setStripe s k v) j = getStripe s j :=
  tget_tset_ne _ _ _ _ _ h

/-! ### setRow -/

@[simp] theorem setRow_pending (v : Row) : (setRow s k v).pending = s.pending := rfl
@[simp] theorem setRow_nowUs (v : Row) : (setRow s k v).nowUs = s.nowUs := rfl
@[simp] theorem setRow_opUs (v : Row) : (setRow s k v).opUs = s.opUs := rfl
@[simp] theorem setRow_board (v : Row) : (setRow s k v).board = s.board := rfl
@[simp] theorem setRow_boot (v : Row) : (setRow s k v).boot = s.boot := rfl
@[simp] theorem setRow_arm (v : Row) : (setRow s k v).arm = s.arm := rfl
@[simp] theorem setRow_ports (v : Row) : (setRow s k v).ports = s.ports := rfl
@[simp] theorem setRow_ctrls (v : Row) : (setRow s k v).ctrls = s.ctrls := rfl
@[simp] theorem setRow_sqs (v : Row) : (setRow s k v).sqs = s.sqs := rfl
@[simp] theorem setRow_cqs (v : Row) : (setRow s k v).cqs = s.cqs := rfl
@[simp] theorem setRow_cmds (v : Row) : (setRow s k v).cmds = s.cmds := rfl
@[simp] theorem setRow_arb (v : Row) : (setRow s k v).arb = s.arb := rfl
@[simp] theorem setRow_ns (v : Row) : (setRow s k v).ns = s.ns := rfl
@[simp] theorem setRow_zones (v : Row) : (setRow s k v).zones = s.zones := rfl
@[simp] theorem setRow_fine (v : Row) : (setRow s k v).fine = s.fine := rfl
@[simp] theorem setRow_fineQ (v : Row) : (setRow s k v).fineQ = s.fineQ := rfl
@[simp] theorem setRow_sectors (v : Row) : (setRow s k v).sectors = s.sectors := rfl
@[simp] theorem setRow_reads (v : Row) : (setRow s k v).reads = s.reads := rfl
@[simp] theorem setRow_fineCache (v : Row) : (setRow s k v).fineCache = s.fineCache := rfl
@[simp] theorem setRow_stripes (v : Row) : (setRow s k v).stripes = s.stripes := rfl
@[simp] theorem setRow_rows (v : Row) : (setRow s k v).rows = tset {} s.rows k v := rfl
@[simp] theorem setRow_dies (v : Row) : (setRow s k v).dies = s.dies := rfl
@[simp] theorem setRow_chans (v : Row) : (setRow s k v).chans = s.chans := rfl
@[simp] theorem setRow_sched (v : Row) : (setRow s k v).sched = s.sched := rfl
@[simp] theorem setRow_niches (v : Row) : (setRow s k v).niches = s.niches := rfl
@[simp] theorem setRow_comms (v : Row) : (setRow s k v).comms = s.comms := rfl
@[simp] theorem setRow_cms (v : Row) : (setRow s k v).cms = s.cms := rfl
@[simp] theorem setRow_pool (v : Row) : (setRow s k v).pool = s.pool := rfl
@[simp] theorem setRow_cipher (v : Row) : (setRow s k v).cipher = s.cipher := rfl
@[simp] theorem setRow_hold (v : Row) : (setRow s k v).hold = s.hold := rfl
@[simp] theorem setRow_plinth (v : Row) : (setRow s k v).plinth = s.plinth := rfl
@[simp] theorem setRow_fed (v : Row) : (setRow s k v).fed = s.fed := rfl
@[simp] theorem setRow_clk (v : Row) : (setRow s k v).clk = s.clk := rfl
@[simp] theorem setRow_pm (v : Row) : (setRow s k v).pm = s.pm := rfl
@[simp] theorem setRow_thm (v : Row) : (setRow s k v).thm = s.thm := rfl
@[simp] theorem setRow_pat (v : Row) : (setRow s k v).pat = s.pat := rfl
@[simp] theorem setRow_glb (v : Row) : (setRow s k v).glb = s.glb := rfl
@[simp] theorem getPort_setRow (v : Row) : getPort (setRow s k v) j = getPort s j := rfl
@[simp] theorem getCtrl_setRow (v : Row) : getCtrl (setRow s k v) j = getCtrl s j := rfl
@[simp] theorem getSq_setRow (v : Row) : getSq (setRow s k v) j = getSq s j := rfl
@[simp] theorem getCq_setRow (v : Row) : getCq (setRow s k v) j = getCq s j := rfl
@[simp] theorem getCmd_setRow (v : Row) : getCmd (setRow s k v) j = getCmd s j := rfl
@[simp] theorem getNs_setRow (v : Row) : getNs (setRow s k v) j = getNs s j := rfl
@[simp] theorem getRd_setRow (v : Row) : getRd (setRow s k v) j = getRd s j := rfl
@[simp] theorem getZone_setRow (v : Row) : getZone (setRow s k v) j = getZone s j := rfl
@[simp] theorem getStripe_setRow (v : Row) : getStripe (setRow s k v) j = getStripe s j := rfl
@[simp] theorem getDie_setRow (v : Row) : getDie (setRow s k v) j = getDie s j := rfl
@[simp] theorem getChan_setRow (v : Row) : getChan (setRow s k v) j = getChan s j := rfl
@[simp] theorem getNch_setRow (v : Row) : getNch (setRow s k v) j = getNch s j := rfl
@[simp] theorem getComm_setRow (v : Row) : getComm (setRow s k v) j = getComm s j := rfl
theorem getRow_setRow_same (v : Row) (h : v ≠ {}) : getRow (setRow s k v) k = v :=
  tget_tset_same _ _ _ _ h
theorem getRow_setRow_ne {k j : Nat} (h : j ≠ k) (v : Row) : getRow (setRow s k v) j = getRow s j :=
  tget_tset_ne _ _ _ _ _ h

/-! ### setDie -/

@[simp] theorem setDie_pending (v : Die) : (setDie s k v).pending = s.pending := rfl
@[simp] theorem setDie_nowUs (v : Die) : (setDie s k v).nowUs = s.nowUs := rfl
@[simp] theorem setDie_opUs (v : Die) : (setDie s k v).opUs = s.opUs := rfl
@[simp] theorem setDie_board (v : Die) : (setDie s k v).board = s.board := rfl
@[simp] theorem setDie_boot (v : Die) : (setDie s k v).boot = s.boot := rfl
@[simp] theorem setDie_arm (v : Die) : (setDie s k v).arm = s.arm := rfl
@[simp] theorem setDie_ports (v : Die) : (setDie s k v).ports = s.ports := rfl
@[simp] theorem setDie_ctrls (v : Die) : (setDie s k v).ctrls = s.ctrls := rfl
@[simp] theorem setDie_sqs (v : Die) : (setDie s k v).sqs = s.sqs := rfl
@[simp] theorem setDie_cqs (v : Die) : (setDie s k v).cqs = s.cqs := rfl
@[simp] theorem setDie_cmds (v : Die) : (setDie s k v).cmds = s.cmds := rfl
@[simp] theorem setDie_arb (v : Die) : (setDie s k v).arb = s.arb := rfl
@[simp] theorem setDie_ns (v : Die) : (setDie s k v).ns = s.ns := rfl
@[simp] theorem setDie_zones (v : Die) : (setDie s k v).zones = s.zones := rfl
@[simp] theorem setDie_fine (v : Die) : (setDie s k v).fine = s.fine := rfl
@[simp] theorem setDie_fineQ (v : Die) : (setDie s k v).fineQ = s.fineQ := rfl
@[simp] theorem setDie_sectors (v : Die) : (setDie s k v).sectors = s.sectors := rfl
@[simp] theorem setDie_reads (v : Die) : (setDie s k v).reads = s.reads := rfl
@[simp] theorem setDie_fineCache (v : Die) : (setDie s k v).fineCache = s.fineCache := rfl
@[simp] theorem setDie_stripes (v : Die) : (setDie s k v).stripes = s.stripes := rfl
@[simp] theorem setDie_rows (v : Die) : (setDie s k v).rows = s.rows := rfl
@[simp] theorem setDie_dies (v : Die) : (setDie s k v).dies = tset {} s.dies k v := rfl
@[simp] theorem setDie_chans (v : Die) : (setDie s k v).chans = s.chans := rfl
@[simp] theorem setDie_sched (v : Die) : (setDie s k v).sched = s.sched := rfl
@[simp] theorem setDie_niches (v : Die) : (setDie s k v).niches = s.niches := rfl
@[simp] theorem setDie_comms (v : Die) : (setDie s k v).comms = s.comms := rfl
@[simp] theorem setDie_cms (v : Die) : (setDie s k v).cms = s.cms := rfl
@[simp] theorem setDie_pool (v : Die) : (setDie s k v).pool = s.pool := rfl
@[simp] theorem setDie_cipher (v : Die) : (setDie s k v).cipher = s.cipher := rfl
@[simp] theorem setDie_hold (v : Die) : (setDie s k v).hold = s.hold := rfl
@[simp] theorem setDie_plinth (v : Die) : (setDie s k v).plinth = s.plinth := rfl
@[simp] theorem setDie_fed (v : Die) : (setDie s k v).fed = s.fed := rfl
@[simp] theorem setDie_clk (v : Die) : (setDie s k v).clk = s.clk := rfl
@[simp] theorem setDie_pm (v : Die) : (setDie s k v).pm = s.pm := rfl
@[simp] theorem setDie_thm (v : Die) : (setDie s k v).thm = s.thm := rfl
@[simp] theorem setDie_pat (v : Die) : (setDie s k v).pat = s.pat := rfl
@[simp] theorem setDie_glb (v : Die) : (setDie s k v).glb = s.glb := rfl
@[simp] theorem getPort_setDie (v : Die) : getPort (setDie s k v) j = getPort s j := rfl
@[simp] theorem getCtrl_setDie (v : Die) : getCtrl (setDie s k v) j = getCtrl s j := rfl
@[simp] theorem getSq_setDie (v : Die) : getSq (setDie s k v) j = getSq s j := rfl
@[simp] theorem getCq_setDie (v : Die) : getCq (setDie s k v) j = getCq s j := rfl
@[simp] theorem getCmd_setDie (v : Die) : getCmd (setDie s k v) j = getCmd s j := rfl
@[simp] theorem getNs_setDie (v : Die) : getNs (setDie s k v) j = getNs s j := rfl
@[simp] theorem getRd_setDie (v : Die) : getRd (setDie s k v) j = getRd s j := rfl
@[simp] theorem getZone_setDie (v : Die) : getZone (setDie s k v) j = getZone s j := rfl
@[simp] theorem getStripe_setDie (v : Die) : getStripe (setDie s k v) j = getStripe s j := rfl
@[simp] theorem getRow_setDie (v : Die) : getRow (setDie s k v) j = getRow s j := rfl
@[simp] theorem getChan_setDie (v : Die) : getChan (setDie s k v) j = getChan s j := rfl
@[simp] theorem getNch_setDie (v : Die) : getNch (setDie s k v) j = getNch s j := rfl
@[simp] theorem getComm_setDie (v : Die) : getComm (setDie s k v) j = getComm s j := rfl
theorem getDie_setDie_same (v : Die) (h : v ≠ {}) : getDie (setDie s k v) k = v :=
  tget_tset_same _ _ _ _ h
theorem getDie_setDie_ne {k j : Nat} (h : j ≠ k) (v : Die) : getDie (setDie s k v) j = getDie s j :=
  tget_tset_ne _ _ _ _ _ h

/-! ### setChan -/

@[simp] theorem setChan_pending (v : Chan) : (setChan s k v).pending = s.pending := rfl
@[simp] theorem setChan_nowUs (v : Chan) : (setChan s k v).nowUs = s.nowUs := rfl
@[simp] theorem setChan_opUs (v : Chan) : (setChan s k v).opUs = s.opUs := rfl
@[simp] theorem setChan_board (v : Chan) : (setChan s k v).board = s.board := rfl
@[simp] theorem setChan_boot (v : Chan) : (setChan s k v).boot = s.boot := rfl
@[simp] theorem setChan_arm (v : Chan) : (setChan s k v).arm = s.arm := rfl
@[simp] theorem setChan_ports (v : Chan) : (setChan s k v).ports = s.ports := rfl
@[simp] theorem setChan_ctrls (v : Chan) : (setChan s k v).ctrls = s.ctrls := rfl
@[simp] theorem setChan_sqs (v : Chan) : (setChan s k v).sqs = s.sqs := rfl
@[simp] theorem setChan_cqs (v : Chan) : (setChan s k v).cqs = s.cqs := rfl
@[simp] theorem setChan_cmds (v : Chan) : (setChan s k v).cmds = s.cmds := rfl
@[simp] theorem setChan_arb (v : Chan) : (setChan s k v).arb = s.arb := rfl
@[simp] theorem setChan_ns (v : Chan) : (setChan s k v).ns = s.ns := rfl
@[simp] theorem setChan_zones (v : Chan) : (setChan s k v).zones = s.zones := rfl
@[simp] theorem setChan_fine (v : Chan) : (setChan s k v).fine = s.fine := rfl
@[simp] theorem setChan_fineQ (v : Chan) : (setChan s k v).fineQ = s.fineQ := rfl
@[simp] theorem setChan_sectors (v : Chan) : (setChan s k v).sectors = s.sectors := rfl
@[simp] theorem setChan_reads (v : Chan) : (setChan s k v).reads = s.reads := rfl
@[simp] theorem setChan_fineCache (v : Chan) : (setChan s k v).fineCache = s.fineCache := rfl
@[simp] theorem setChan_stripes (v : Chan) : (setChan s k v).stripes = s.stripes := rfl
@[simp] theorem setChan_rows (v : Chan) : (setChan s k v).rows = s.rows := rfl
@[simp] theorem setChan_dies (v : Chan) : (setChan s k v).dies = s.dies := rfl
@[simp] theorem setChan_chans (v : Chan) : (setChan s k v).chans = tset {} s.chans k v := rfl
@[simp] theorem setChan_sched (v : Chan) : (setChan s k v).sched = s.sched := rfl
@[simp] theorem setChan_niches (v : Chan) : (setChan s k v).niches = s.niches := rfl
@[simp] theorem setChan_comms (v : Chan) : (setChan s k v).comms = s.comms := rfl
@[simp] theorem setChan_cms (v : Chan) : (setChan s k v).cms = s.cms := rfl
@[simp] theorem setChan_pool (v : Chan) : (setChan s k v).pool = s.pool := rfl
@[simp] theorem setChan_cipher (v : Chan) : (setChan s k v).cipher = s.cipher := rfl
@[simp] theorem setChan_hold (v : Chan) : (setChan s k v).hold = s.hold := rfl
@[simp] theorem setChan_plinth (v : Chan) : (setChan s k v).plinth = s.plinth := rfl
@[simp] theorem setChan_fed (v : Chan) : (setChan s k v).fed = s.fed := rfl
@[simp] theorem setChan_clk (v : Chan) : (setChan s k v).clk = s.clk := rfl
@[simp] theorem setChan_pm (v : Chan) : (setChan s k v).pm = s.pm := rfl
@[simp] theorem setChan_thm (v : Chan) : (setChan s k v).thm = s.thm := rfl
@[simp] theorem setChan_pat (v : Chan) : (setChan s k v).pat = s.pat := rfl
@[simp] theorem setChan_glb (v : Chan) : (setChan s k v).glb = s.glb := rfl
@[simp] theorem getPort_setChan (v : Chan) : getPort (setChan s k v) j = getPort s j := rfl
@[simp] theorem getCtrl_setChan (v : Chan) : getCtrl (setChan s k v) j = getCtrl s j := rfl
@[simp] theorem getSq_setChan (v : Chan) : getSq (setChan s k v) j = getSq s j := rfl
@[simp] theorem getCq_setChan (v : Chan) : getCq (setChan s k v) j = getCq s j := rfl
@[simp] theorem getCmd_setChan (v : Chan) : getCmd (setChan s k v) j = getCmd s j := rfl
@[simp] theorem getNs_setChan (v : Chan) : getNs (setChan s k v) j = getNs s j := rfl
@[simp] theorem getRd_setChan (v : Chan) : getRd (setChan s k v) j = getRd s j := rfl
@[simp] theorem getZone_setChan (v : Chan) : getZone (setChan s k v) j = getZone s j := rfl
@[simp] theorem getStripe_setChan (v : Chan) : getStripe (setChan s k v) j = getStripe s j := rfl
@[simp] theorem getRow_setChan (v : Chan) : getRow (setChan s k v) j = getRow s j := rfl
@[simp] theorem getDie_setChan (v : Chan) : getDie (setChan s k v) j = getDie s j := rfl
@[simp] theorem getNch_setChan (v : Chan) : getNch (setChan s k v) j = getNch s j := rfl
@[simp] theorem getComm_setChan (v : Chan) : getComm (setChan s k v) j = getComm s j := rfl
theorem getChan_setChan_same (v : Chan) (h : v ≠ {}) : getChan (setChan s k v) k = v :=
  tget_tset_same _ _ _ _ h
theorem getChan_setChan_ne {k j : Nat} (h : j ≠ k) (v : Chan) : getChan (setChan s k v) j = getChan s j :=
  tget_tset_ne _ _ _ _ _ h

/-! ### setNch -/

@[simp] theorem setNch_pending (v : Nch) : (setNch s k v).pending = s.pending := rfl
@[simp] theorem setNch_nowUs (v : Nch) : (setNch s k v).nowUs = s.nowUs := rfl
@[simp] theorem setNch_opUs (v : Nch) : (setNch s k v).opUs = s.opUs := rfl
@[simp] theorem setNch_board (v : Nch) : (setNch s k v).board = s.board := rfl
@[simp] theorem setNch_boot (v : Nch) : (setNch s k v).boot = s.boot := rfl
@[simp] theorem setNch_arm (v : Nch) : (setNch s k v).arm = s.arm := rfl
@[simp] theorem setNch_ports (v : Nch) : (setNch s k v).ports = s.ports := rfl
@[simp] theorem setNch_ctrls (v : Nch) : (setNch s k v).ctrls = s.ctrls := rfl
@[simp] theorem setNch_sqs (v : Nch) : (setNch s k v).sqs = s.sqs := rfl
@[simp] theorem setNch_cqs (v : Nch) : (setNch s k v).cqs = s.cqs := rfl
@[simp] theorem setNch_cmds (v : Nch) : (setNch s k v).cmds = s.cmds := rfl
@[simp] theorem setNch_arb (v : Nch) : (setNch s k v).arb = s.arb := rfl
@[simp] theorem setNch_ns (v : Nch) : (setNch s k v).ns = s.ns := rfl
@[simp] theorem setNch_zones (v : Nch) : (setNch s k v).zones = s.zones := rfl
@[simp] theorem setNch_fine (v : Nch) : (setNch s k v).fine = s.fine := rfl
@[simp] theorem setNch_fineQ (v : Nch) : (setNch s k v).fineQ = s.fineQ := rfl
@[simp] theorem setNch_sectors (v : Nch) : (setNch s k v).sectors = s.sectors := rfl
@[simp] theorem setNch_reads (v : Nch) : (setNch s k v).reads = s.reads := rfl
@[simp] theorem setNch_fineCache (v : Nch) : (setNch s k v).fineCache = s.fineCache := rfl
@[simp] theorem setNch_stripes (v : Nch) : (setNch s k v).stripes = s.stripes := rfl
@[simp] theorem setNch_rows (v : Nch) : (setNch s k v).rows = s.rows := rfl
@[simp] theorem setNch_dies (v : Nch) : (setNch s k v).dies = s.dies := rfl
@[simp] theorem setNch_chans (v : Nch) : (setNch s k v).chans = s.chans := rfl
@[simp] theorem setNch_sched (v : Nch) : (setNch s k v).sched = s.sched := rfl
@[simp] theorem setNch_niches (v : Nch) : (setNch s k v).niches = tset {} s.niches k v := rfl
@[simp] theorem setNch_comms (v : Nch) : (setNch s k v).comms = s.comms := rfl
@[simp] theorem setNch_cms (v : Nch) : (setNch s k v).cms = s.cms := rfl
@[simp] theorem setNch_pool (v : Nch) : (setNch s k v).pool = s.pool := rfl
@[simp] theorem setNch_cipher (v : Nch) : (setNch s k v).cipher = s.cipher := rfl
@[simp] theorem setNch_hold (v : Nch) : (setNch s k v).hold = s.hold := rfl
@[simp] theorem setNch_plinth (v : Nch) : (setNch s k v).plinth = s.plinth := rfl
@[simp] theorem setNch_fed (v : Nch) : (setNch s k v).fed = s.fed := rfl
@[simp] theorem setNch_clk (v : Nch) : (setNch s k v).clk = s.clk := rfl
@[simp] theorem setNch_pm (v : Nch) : (setNch s k v).pm = s.pm := rfl
@[simp] theorem setNch_thm (v : Nch) : (setNch s k v).thm = s.thm := rfl
@[simp] theorem setNch_pat (v : Nch) : (setNch s k v).pat = s.pat := rfl
@[simp] theorem setNch_glb (v : Nch) : (setNch s k v).glb = s.glb := rfl
@[simp] theorem getPort_setNch (v : Nch) : getPort (setNch s k v) j = getPort s j := rfl
@[simp] theorem getCtrl_setNch (v : Nch) : getCtrl (setNch s k v) j = getCtrl s j := rfl
@[simp] theorem getSq_setNch (v : Nch) : getSq (setNch s k v) j = getSq s j := rfl
@[simp] theorem getCq_setNch (v : Nch) : getCq (setNch s k v) j = getCq s j := rfl
@[simp] theorem getCmd_setNch (v : Nch) : getCmd (setNch s k v) j = getCmd s j := rfl
@[simp] theorem getNs_setNch (v : Nch) : getNs (setNch s k v) j = getNs s j := rfl
@[simp] theorem getRd_setNch (v : Nch) : getRd (setNch s k v) j = getRd s j := rfl
@[simp] theorem getZone_setNch (v : Nch) : getZone (setNch s k v) j = getZone s j := rfl
@[simp] theorem getStripe_setNch (v : Nch) : getStripe (setNch s k v) j = getStripe s j := rfl
@[simp] theorem getRow_setNch (v : Nch) : getRow (setNch s k v) j = getRow s j := rfl
@[simp] theorem getDie_setNch (v : Nch) : getDie (setNch s k v) j = getDie s j := rfl
@[simp] theorem getChan_setNch (v : Nch) : getChan (setNch s k v) j = getChan s j := rfl
@[simp] theorem getComm_setNch (v : Nch) : getComm (setNch s k v) j = getComm s j := rfl
theorem getNch_setNch_same (v : Nch) (h : v ≠ {}) : getNch (setNch s k v) k = v :=
  tget_tset_same _ _ _ _ h
theorem getNch_setNch_ne {k j : Nat} (h : j ≠ k) (v : Nch) : getNch (setNch s k v) j = getNch s j :=
  tget_tset_ne _ _ _ _ _ h

/-! ### setComm -/

@[simp] theorem setComm_pending (v : Comm) : (setComm s k v).pending = s.pending := rfl
@[simp] theorem setComm_nowUs (v : Comm) : (setComm s k v).nowUs = s.nowUs := rfl
@[simp] theorem setComm_opUs (v : Comm) : (setComm s k v).opUs = s.opUs := rfl
@[simp] theorem setComm_board (v : Comm) : (setComm s k v).board = s.board := rfl
@[simp] theorem setComm_boot (v : Comm) : (setComm s k v).boot = s.boot := rfl
@[simp] theorem setComm_arm (v : Comm) : (setComm s k v).arm = s.arm := rfl
@[simp] theorem setComm_ports (v : Comm) : (setComm s k v).ports = s.ports := rfl
@[simp] theorem setComm_ctrls (v : Comm) : (setComm s k v).ctrls = s.ctrls := rfl
@[simp] theorem setComm_sqs (v : Comm) : (setComm s k v).sqs = s.sqs := rfl
@[simp] theorem setComm_cqs (v : Comm) : (setComm s k v).cqs = s.cqs := rfl
@[simp] theorem setComm_cmds (v : Comm) : (setComm s k v).cmds = s.cmds := rfl
@[simp] theorem setComm_arb (v : Comm) : (setComm s k v).arb = s.arb := rfl
@[simp] theorem setComm_ns (v : Comm) : (setComm s k v).ns = s.ns := rfl
@[simp] theorem setComm_zones (v : Comm) : (setComm s k v).zones = s.zones := rfl
@[simp] theorem setComm_fine (v : Comm) : (setComm s k v).fine = s.fine := rfl
@[simp] theorem setComm_fineQ (v : Comm) : (setComm s k v).fineQ = s.fineQ := rfl
@[simp] theorem setComm_sectors (v : Comm) : (setComm s k v).sectors = s.sectors := rfl
@[simp] theorem setComm_reads (v : Comm) : (setComm s k v).reads = s.reads := rfl
@[simp] theorem setComm_fineCache (v : Comm) : (setComm s k v).fineCache = s.fineCache := rfl
@[simp] theorem setComm_stripes (v : Comm) : (setComm s k v).stripes = s.stripes := rfl
@[simp] theorem setComm_rows (v : Comm) : (setComm s k v).rows = s.rows := rfl
@[simp] theorem setComm_dies (v : Comm) : (setComm s k v).dies = s.dies := rfl
@[simp] theorem setComm_chans (v : Comm) : (setComm s k v).chans = s.chans := rfl
@[simp] theorem setComm_sched (v : Comm) : (setComm s k v).sched = s.sched := rfl
@[simp] theorem setComm_niches (v : Comm) : (setComm s k v).niches = s.niches := rfl
@[simp] theorem setComm_comms (v : Comm) : (setComm s k v).comms = tset {} s.comms k v := rfl
@[simp] theorem setComm_cms (v : Comm) : (setComm s k v).cms = s.cms := rfl
@[simp] theorem setComm_pool (v : Comm) : (setComm s k v).pool = s.pool := rfl
@[simp] theorem setComm_cipher (v : Comm) : (setComm s k v).cipher = s.cipher := rfl
@[simp] theorem setComm_hold (v : Comm) : (setComm s k v).hold = s.hold := rfl
@[simp] theorem setComm_plinth (v : Comm) : (setComm s k v).plinth = s.plinth := rfl
@[simp] theorem setComm_fed (v : Comm) : (setComm s k v).fed = s.fed := rfl
@[simp] theorem setComm_clk (v : Comm) : (setComm s k v).clk = s.clk := rfl
@[simp] theorem setComm_pm (v : Comm) : (setComm s k v).pm = s.pm := rfl
@[simp] theorem setComm_thm (v : Comm) : (setComm s k v).thm = s.thm := rfl
@[simp] theorem setComm_pat (v : Comm) : (setComm s k v).pat = s.pat := rfl
@[simp] theorem setComm_glb (v : Comm) : (setComm s k v).glb = s.glb := rfl
@[simp] theorem getPort_setComm (v : Comm) : getPort (setComm s k v) j = getPort s j := rfl
@[simp] theorem getCtrl_setComm (v : Comm) : getCtrl (setComm s k v) j = getCtrl s j := rfl
@[simp] theorem getSq_setComm (v : Comm) : getSq (setComm s k v) j = getSq s j := rfl
@[simp] theorem getCq_setComm (v : Comm) : getCq (setComm s k v) j = getCq s j := rfl
@[simp] theorem getCmd_setComm (v : Comm) : getCmd (setComm s k v) j = getCmd s j := rfl
@[simp] theorem getNs_setComm (v : Comm) : getNs (setComm s k v) j = getNs s j := rfl
@[simp] theorem getRd_setComm (v : Comm) : getRd (setComm s k v) j = getRd s j := rfl
@[simp] theorem getZone_setComm (v : Comm) : getZone (setComm s k v) j = getZone s j := rfl
@[simp] theorem getStripe_setComm (v : Comm) : getStripe (setComm s k v) j = getStripe s j := rfl
@[simp] theorem getRow_setComm (v : Comm) : getRow (setComm s k v) j = getRow s j := rfl
@[simp] theorem getDie_setComm (v : Comm) : getDie (setComm s k v) j = getDie s j := rfl
@[simp] theorem getChan_setComm (v : Comm) : getChan (setComm s k v) j = getChan s j := rfl
@[simp] theorem getNch_setComm (v : Comm) : getNch (setComm s k v) j = getNch s j := rfl
theorem getComm_setComm_same (v : Comm) (h : v ≠ {}) : getComm (setComm s k v) k = v :=
  tget_tset_same _ _ _ _ h
theorem getComm_setComm_ne {k j : Nat} (h : j ≠ k) (v : Comm) : getComm (setComm s k v) j = getComm s j :=
  tget_tset_ne _ _ _ _ _ h

/-! ### delCmd -/

@[simp] theorem delCmd_pending : (delCmd s k).pending = s.pending := rfl
@[simp] theorem delCmd_nowUs : (delCmd s k).nowUs = s.nowUs := rfl
@[simp] theorem delCmd_opUs : (delCmd s k).opUs = s.opUs := rfl
@[simp] theorem delCmd_board : (delCmd s k).board = s.board := rfl
@[simp] theorem delCmd_boot : (delCmd s k).boot = s.boot := rfl
@[simp] theorem delCmd_arm : (delCmd s k).arm = s.arm := rfl
@[simp] theorem delCmd_ports : (delCmd s k).ports = s.ports := rfl
@[simp] theorem delCmd_ctrls : (delCmd s k).ctrls = s.ctrls := rfl
@[simp] theorem delCmd_sqs : (delCmd s k).sqs = s.sqs := rfl
@[simp] theorem delCmd_cqs : (delCmd s k).cqs = s.cqs := rfl
@[simp] theorem delCmd_arb : (delCmd s k).arb = s.arb := rfl
@[simp] theorem delCmd_ns : (delCmd s k).ns = s.ns := rfl
@[simp] theorem delCmd_zones : (delCmd s k).zones = s.zones := rfl
@[simp] theorem delCmd_fine : (delCmd s k).fine = s.fine := rfl
@[simp] theorem delCmd_fineQ : (delCmd s k).fineQ = s.fineQ := rfl
@[simp] theorem delCmd_sectors : (delCmd s k).sectors = s.sectors := rfl
@[simp] theorem delCmd_reads : (delCmd s k).reads = s.reads := rfl
@[simp] theorem delCmd_fineCache : (delCmd s k).fineCache = s.fineCache := rfl
@[simp] theorem delCmd_stripes : (delCmd s k).stripes = s.stripes := rfl
@[simp] theorem delCmd_rows : (delCmd s k).rows = s.rows := rfl
@[simp] theorem delCmd_dies : (delCmd s k).dies = s.dies := rfl
@[simp] theorem delCmd_chans : (delCmd s k).chans = s.chans := rfl
@[simp] theorem delCmd_sched : (delCmd s k).sched = s.sched := rfl
@[simp] theorem delCmd_niches : (delCmd s k).niches = s.niches := rfl
@[simp] theorem delCmd_comms : (delCmd s k).comms = s.comms := rfl
@[simp] theorem delCmd_cms : (delCmd s k).cms = s.cms := rfl
@[simp] theorem delCmd_pool : (delCmd s k).pool = s.pool := rfl
@[simp] theorem delCmd_cipher : (delCmd s k).cipher = s.cipher := rfl
@[simp] theorem delCmd_hold : (delCmd s k).hold = s.hold := rfl
@[simp] theorem delCmd_plinth : (delCmd s k).plinth = s.plinth := rfl
@[simp] theorem delCmd_fed : (delCmd s k).fed = s.fed := rfl
@[simp] theorem delCmd_clk : (delCmd s k).clk = s.clk := rfl
@[simp] theorem delCmd_pm : (delCmd s k).pm = s.pm := rfl
@[simp] theorem delCmd_thm : (delCmd s k).thm = s.thm := rfl
@[simp] theorem delCmd_pat : (delCmd s k).pat = s.pat := rfl
@[simp] theorem delCmd_glb : (delCmd s k).glb = s.glb := rfl
@[simp] theorem getPort_delCmd : getPort (delCmd s k) j = getPort s j := rfl
@[simp] theorem getCtrl_delCmd : getCtrl (delCmd s k) j = getCtrl s j := rfl
@[simp] theorem getSq_delCmd : getSq (delCmd s k) j = getSq s j := rfl
@[simp] theorem getCq_delCmd : getCq (delCmd s k) j = getCq s j := rfl
@[simp] theorem getNs_delCmd : getNs (delCmd s k) j = getNs s j := rfl
@[simp] theorem getRd_delCmd : getRd (delCmd s k) j = getRd s j := rfl
@[simp] theorem getZone_delCmd : getZone (delCmd s k) j = getZone s j := rfl
@[simp] theorem getStripe_delCmd : getStripe (delCmd s k) j = getStripe s j := rfl
@[simp] theorem getRow_delCmd : getRow (delCmd s k) j = getRow s j := rfl
@[simp] theorem getDie_delCmd : getDie (delCmd s k) j = getDie s j := rfl
@[simp] theorem getChan_delCmd : getChan (delCmd s k) j = getChan s j := rfl
@[simp] theorem getNch_delCmd : getNch (delCmd s k) j = getNch s j := rfl
@[simp] theorem getComm_delCmd : getComm (delCmd s k) j = getComm s j := rfl

end Sys2Proof.Machine
end

