-- ==== Sys2Proof/Laws/Io.lean ====
section
/-! SUPPORT. What the shared operations of the I/O path can do, said once each: landing, grant, start,
completion, buffer release, discard and unbinding; and what an I/O row does to a granted command. -/

set_option linter.unusedVariables false
set_option linter.unusedSimpArgs false

namespace Sys2Proof.Machine

theorem takeTokens_eq (s : State) (n : Nat) (cl : Class) (io : IoCmd) :
    takeTokens s n cl io = { s with comms := (takeTokens s n cl io).comms, thm := (takeTokens s n cl io).thm, pm := (takeTokens s n cl io).pm } := by
  unfold takeTokens; dsimp only; (repeat' split) <;> rfl

theorem grantHead_eq (s : State) (k : Nat) :
    grantHead s k = { s with comms := (grantHead s k).comms, thm := (grantHead s k).thm, pm := (grantHead s k).pm, sqs := (grantHead s k).sqs, arb := (grantHead s k).arb, cmds := (grantHead s k).cmds } := by
  unfold grantHead; dsimp only
  split
  · rfl
  · rw [takeTokens_eq]; rfl

theorem arbGrant_eq {s u : State} {o} (h : arbGrant s = (u, o)) :
    u = { s with comms := u.comms, thm := u.thm, pm := u.pm, sqs := u.sqs, arb := u.arb, cmds := u.cmds } := by
  unfold arbGrant at h
  split at h
  · cases h; rfl
  · simp only [Prod.mk.injEq] at h
    rw [← h.1, grantHead_eq]

theorem landed_eq (s : State) (c q : Nat) (io : IoCmd) :
    landed s c q io = { s with sqs := (landed s c q io).sqs, cqs := (landed s c q io).cqs } := by
  unfold landed land; dsimp only; split <;> rfl

theorem granted_eq {s u : State} {c q : Nat} {io : IoCmd} {id : Nat} (g : Granted s c q io u id) :
    u = { s with comms := u.comms, thm := u.thm, pm := u.pm, sqs := u.sqs, arb := u.arb, cmds := u.cmds, cqs := u.cqs } := by
  have h := arbGrant_eq g.granted
  rw [landed_eq] at h
  rw [h]

theorem row_exec {i : Instr} {s u : State} {c q : Nat} {io : IoCmd} {id : Nat}
    (h : ioRow i = some (c, q, io)) (g : Granted s c q io u id) : exec i s = .next (startCmd u id) := by
  have hq : (q == 0) = false := by simpa using g.ioQueue
  have key : submitIo s c q io = startCmd u id := by
    have := g.granted
    have hi : ((getSq s (qk c q)).inflight != 0) = false := by simp [g.quiet]
    unfold landed at this
    simp only [submitIo, hq, g.fetched, hi, Bool.not_true, Bool.or_self, Bool.false_eq_true, if_false]
    dsimp only at this ⊢
    rw [this]
  cases i <;> simp only [ioRow] at h <;> try contradiction
  all_goals
    simp only [Option.some.injEq, Prod.mk.injEq] at h
    obtain ⟨rfl, rfl, rfl⟩ := h
    simp only [exec, execFlush, execWrite, execRead, execWriteUncorrectable, execCompare, execWriteZeroes,
      execDatasetManagement, execVerify, execZoneOpen, execZoneClose, execZoneFinish, execZoneReset, execZoneOffline,
      execZoneManagementReceive, execZoneAppend, execFrameAppend, execZoneSeal, execUnsupportedOpcode, hq, ok]
    exact congrArg _ key

/-- the state with the two fields a start notes in its niche -/
def noted (t : State) (n now : Nat) : State := setNch t n { getNch t n with lastIoUs := now, bgGc := false }

@[simp] theorem noted_cmd (t : State) (n w i : Nat) : getCmd (noted t n w) i = getCmd t i := rfl

@[simp] theorem noted_zones (t : State) (n w : Nat) : (noted t n w).zones = t.zones := rfl

@[simp] theorem noted_sectors (t : State) (n w : Nat) : (noted t n w).sectors = t.sectors := rfl

@[simp] theorem noted_stripes (t : State) (n w : Nat) : (noted t n w).stripes = t.stripes := rfl

@[simp] theorem noted_pool (t : State) (n w : Nat) : (noted t n w).pool = t.pool := rfl

@[simp] theorem noted_cipher (t : State) (n w : Nat) : (noted t n w).cipher = t.cipher := rfl

@[simp] theorem noted_cqs (t : State) (n w : Nat) : (noted t n w).cqs = t.cqs := rfl

@[simp] theorem noted_sqs (t : State) (n w : Nat) : (noted t n w).sqs = t.sqs := rfl

@[simp] theorem noted_guarded (t : State) (n w : Nat) : guarded (noted t n w) = guarded t := rfl

theorem start_go {s u : State} {c q : Nat} {io : IoCmd} {id : Nat} (g : Granted s c q io u id)
    (h : hasCmd (startCmd.tryStart u id) id = false ∨ (getCmd (startCmd.tryStart u id) id).phase = .started) :
    startCmd u id = noted (startCmd.tryStart u id) (getCmd u id).niche u.nowUs := by
  simp only [startCmd, g.has]
  rcases h with h | h <;> simp [h, noted]

theorem started_ne {x : Cmd} (h : x.phase = .started) : x ≠ {} := fun h' => by rw [h'] at h; cases h

theorem get_set_cmd (s : State) (i : Nat) (x : Cmd) (h : x.phase = .started) : getCmd (setCmd s i x) i = x :=
  tget_tset_same _ _ _ _ (started_ne h)

theorem ctrlOfSq_qk (c q : Nat) (h : q < 65536) : ctrlOfSq (qk c q) = c := by unfold ctrlOfSq qk; omega

theorem qidOfSq_qk (c q : Nat) (h : q < 65536) : qidOfSq (qk c q) = q := by unfold qidOfSq qk; omega

/-- the checks before the start proper -/
theorem try_op {s u : State} {c q : Nat} {io : IoCmd} {id : Nat} (g : Granted s c q io u id)
    (hchk : ioCheck u (getCmd u id) = none) : startCmd.tryStart u id =
    (match io.op with
    | .flush => startFlush u id
    | .write | .writeZeroes | .zoneAppend | .frameAppend =>
      if zonedAt u (getCmd u id).slot then startZoneWrite u id
      else if deallocates u (getCmd u id).slot io then
        startSpan u id io.slba (io.slba + io.nlb)
          (fun t => unmap t (getCmd u id).slot io.slba (io.nlb + 1)) true
      else startFineWrite u id
    | .read | .compare | .verify => startRead u id
    | .writeUncorrectable =>
      startSpan u id io.slba (io.slba + io.nlb)
        (fun t => markUnc t (getCmd u id).slot io.slba (io.nlb + 1)) true
    | .datasetManagement => startDsm u id
    | .zoneOpen | .zoneClose | .zoneFinish | .zoneReset | .zoneOffline => startZoneSend u id
    | .zoneReceive => startZoneReceive u id
    | .zoneSeal => startSeal u id
    | .other _ => complete u id .invalidOpcode) := by
  obtain rfl := g.entry
  simp only [startCmd.tryStart, g.waits, g.goes, g.from_, g.thawed, hchk, ctrlOfSq_qk _ _ g.queue_, g.up]
  simp
  all_goals rfl

theorem releaseBuf_eq (s : State) (k : Nat) :
    releaseBuf s k = { s with pool := (releaseBuf s k).pool, comms := (releaseBuf s k).comms } := by
  unfold releaseBuf; dsimp only; split
  · rfl
  · split <;> rfl

theorem releaseBufs_eq (l : List Nat) (s : State) :
    releaseBufs s l = { s with pool := (releaseBufs s l).pool, comms := (releaseBufs s l).comms } := by
  induction l generalizing s with
  | nil => rfl
  | cons x t ih =>
    have h : releaseBufs s (x :: t) = releaseBufs (releaseBuf s x) t := rfl
    rw [h, ih, releaseBuf_eq]

/-- the decoders' turn moves codeword reads only -/
theorem feed_eq (s : State) : feed s = { s with reads := (feed s).reads, sched := (feed s).sched } := by
  have one : ∀ s, feedOne s = { s with reads := (feedOne s).reads, sched := (feedOne s).sched } := by
    intro s; rfl
  unfold feed
  generalize List.range 16 = l
  induction l generalizing s with
  | nil => rfl
  | cons x t ih => rw [List.foldl_cons, ih, one]

theorem dropReads_eq (s : State) (p : Owner → Bool) :
    dropReads s p = { s with reads := (dropReads s p).reads, sched := (dropReads s p).sched, rows := (dropReads s p).rows } := by
  unfold dropReads; dsimp only
  split
  · rfl
  · unfold leaveWaits; rw [feed_eq]

/-- a command that holds no zone write slot leaves none behind -/
theorem slotFreed_none (s : State) (c : Cmd) (h : c.wslot = false) : slotFreed s c = s := by
  unfold slotFreed; split
  · simp [h]
  · rfl

theorem discard_eq (s : State) (id : Nat) (h : (getCmd s id).wslot = false) :
    discard s id = { s with pool := (discard s id).pool, comms := (discard s id).comms, niches := (discard s id).niches
                            reads := (discard s id).reads, sched := (discard s id).sched, rows := (discard s id).rows
                            cipher := { s.cipher with segs := (discard s id).cipher.segs }
                            cmds := tdrop s.cmds (fun k _ => k == id) } := by
  unfold discard
  rw [slotFreed_none _ _ h]
  unfold delCmd freeCmdBufs
  dsimp only
  rw [releaseBufs_eq, dropReads_eq]
  rfl

theorem settle_none (s : State) (h : ∀ kv ∈ s.cmds, kv.2.io.op ≠ .flush) : settle s = s := by
  have : tkeys s.cmds (fun _ c => c.io.op == .flush && c.phase == .started) = [] := by
    unfold tkeys
    rw [List.filter_eq_nil_iff.mpr]; rfl
    intro kv hkv; simp [h kv hkv]
  simp [settle, this]

/-- what a success completion leaves -/
theorem complete_ok (s : State) (id dw0 dw1 : Nat) (data : List Fld)
    (h : ∀ kv ∈ s.cmds, kv.2.io.op = .flush → kv.1 = id) (hw : (getCmd s id).wslot = false) :
    complete s id .success dw0 dw1 data = discard (schedule s (ctrlOfSq (getCmd s id).sq) (qidOfSq (getCmd s id).sq) (getCmd s id).io.cid .success dw0 dw1 data) id := by
  unfold complete endCmd
  simp only [freezes, Bool.false_eq_true, if_false]
  rw [settle_none]
  · intro kv hkv
    rw [discard_eq _ _ (show (getCmd (schedule s _ _ _ _ _ _ _) id).wslot = false from hw)] at hkv
    simp only [tdrop, List.mem_filter] at hkv
    intro h2
    have := h kv hkv.1 h2
    simp [this] at hkv

theorem schedule_waits (s : State) (c q cid : Nat) (st : Status) (dw0 dw1 : Nat) (data : List Fld) :
    mkCqe s c q cid st dw0 dw1 data ∈ (getCq (schedule s c q cid st dw0 dw1 data) (qk c (if q == 0 then 0 else (getSq s (qk c q)).cqid))).waiting := by
  unfold schedule getCq setCq
  simp only
  rw [tget_tset_same]
  · simp
  · intro h; have := congrArg Cq.waiting h; simp at this

/-- a completed command's entry, its niche's note and what is left alone -/
theorem done_ok {s u : State} {c q : Nat} {io : IoCmd} {id : Nat} (g : Granted s c q io u id) (v : State) (dw0 dw1 : Nat) (data : List Fld)
    (ht : startCmd.tryStart u id = complete v id .success dw0 dw1 data)
    (h1 : ∀ kv ∈ v.cmds, kv.2.io.op = .flush → kv.1 = id) (h2 : (getCmd v id).sq = qk c q) (h3 : (getCmd v id).io = io)
    (h4 : v.sqs = u.sqs) (h5 : (getCmd v id).wslot = false) :
    ∃ t, startCmd u id = t ∧ CqeWaits t c q io.cid .success ∧ t.zones = v.zones ∧ t.sectors = v.sectors ∧ guarded t = guarded v ∧
      t.cipher = { v.cipher with segs := t.cipher.segs } ∧
      ∃ e ∈ (getCq t (qk c (getSq t (qk c q)).cqid)).waiting, e.cid = io.cid ∧ e.status = .success ∧ e.data = data := by
  have hq : (q == 0) = false := by simpa using g.ioQueue
  have hc := complete_ok v id dw0 dw1 data h1 h5
  rw [h2, h3, ctrlOfSq_qk _ _ g.queue_, qidOfSq_qk _ _ g.queue_] at hc
  have h6 : (getCmd (schedule v c q io.cid .success dw0 dw1 data) id).wslot = false := h5
  have hd : startCmd u id = noted (startCmd.tryStart u id) (getCmd u id).niche u.nowUs := by
    apply start_go g
    left
    rw [ht, hc, discard_eq _ _ h6]
    simp [hasCmd, tdrop]
  have hm := schedule_waits v c q io.cid .success dw0 dw1 data
  refine ⟨_, rfl, ?_⟩
  rw [hd, ht, hc, discard_eq _ _ h6]
  simp only [hq, Bool.false_eq_true, if_false] at hm
  refine ⟨⟨mkCqe v c q io.cid .success dw0 dw1 data, ?_, rfl, rfl, rfl⟩, rfl, rfl, rfl, rfl, _, hm, rfl, rfl, rfl⟩
  simp only [hq, Bool.false_eq_true, if_false]
  exact hm

theorem markStarted_facts {s u : State} {c q : Nat} {io : IoCmd} {id : Nat} (g : Granted s c q io u id) (lo hi lock excl wslot zone) :
    (∀ kv ∈ (markStarted u id lo hi lock excl wslot zone).cmds, kv.2.io.op = .flush → kv.1 = id) ∧
    (getCmd (markStarted u id lo hi lock excl wslot zone) id).sq = qk c q ∧
    (getCmd (markStarted u id lo hi lock excl wslot zone) id).io = io ∧ (markStarted u id lo hi lock excl wslot zone).sqs = u.sqs := by
  refine ⟨?_, ?_, ?_, rfl⟩
  · intro kv hkv h
    rcases mem_tset _ _ _ _ _ hkv with h2 | h2
    · rw [h2]
    · exact g.noFlush kv h2 h
  · unfold markStarted; rw [get_set_cmd _ _ _ rfl]; exact g.from_
  · unfold markStarted; rw [get_set_cmd _ _ _ rfl]; exact g.entry

theorem sweepBufs_eq (s : State) (sid : Nat) :
    sweepBufs s sid = { s with pool := (sweepBufs s sid).pool, comms := (sweepBufs s sid).comms } := by
  unfold sweepBufs; rw [releaseBufs_eq]

theorem discardStripe_eq (s : State) (sid : Nat) :
    discardStripe s sid = { s with pool := (discardStripe s sid).pool, comms := (discardStripe s sid).comms, stripes := (discardStripe s sid).stripes } := by
  unfold discardStripe; dsimp only; rw [sweepBufs_eq]

theorem foldl_discardStripe_eq (l : List Nat) (s : State) :
    l.foldl discardStripe s = { s with pool := (l.foldl discardStripe s).pool, comms := (l.foldl discardStripe s).comms, stripes := (l.foldl discardStripe s).stripes } := by
  induction l generalizing s with
  | nil => rfl
  | cons x t ih => rw [List.foldl_cons, ih, discardStripe_eq]

/-- `t` is `s` with other stripes, rows, buffers, commissions, dies, journal and niches -/
def MediaStep (s t : State) : Prop := ∃ pool comms stripes rows plinth dies niches,
  t = { s with pool := pool, comms := comms, stripes := stripes, rows := rows, plinth := plinth, dies := dies, niches := niches }

theorem MediaStep.trans {s t u : State} (h : MediaStep s t) (k : MediaStep t u) : MediaStep s u := by
  obtain ⟨_, _, _, _, _, _, _, rfl⟩ := h
  obtain ⟨_, _, _, _, _, _, _, rfl⟩ := k
  exact ⟨_, _, _, _, _, _, _, rfl⟩

theorem mediaStep_ite {s t u : State} (c : Prop) [Decidable c] (h : MediaStep s t) (k : MediaStep s u) :
    MediaStep s (if c then t else u) := by split <;> assumption

theorem mediaStep_setRow (s : State) (k : Nat) (v : Row) : MediaStep s (setRow s k v) := ⟨_, _, _, _, _, _, _, rfl⟩

theorem mediaStep_journal (s : State) : MediaStep s (journal s) := ⟨_, _, _, _, _, _, _, rfl⟩

theorem mediaStep_mapRank (s : State) (k : Nat) (f : Die → Die) : MediaStep s (mapRank s k f) :=
  ⟨_, _, _, _, _, _, _, rfl⟩

theorem foldl_unpark_eq (o : Nat) (l : List Nat) (s : State) :
    l.foldl (fun a n => unpark a n o) s = { s with niches := (l.foldl (fun a n => unpark a n o) s).niches } := by
  induction l generalizing s with
  | nil => rfl
  | cons x t ih => rw [List.foldl_cons, ih]; rfl

theorem freeOwned_eq (s : State) (o : Nat) :
    freeOwned s o = { s with pool := (freeOwned s o).pool, comms := (freeOwned s o).comms, niches := (freeOwned s o).niches } := by
  unfold freeOwned; rw [foldl_unpark_eq, releaseBufs_eq]

theorem mediaStep_freeOwned (s : State) (o : Nat) : MediaStep s (freeOwned s o) :=
  ⟨_, _, _, _, _, _, _, freeOwned_eq s o⟩

theorem mediaStep_discards (l : List Nat) (s : State) : MediaStep s (l.foldl discardStripe s) :=
  ⟨_, _, _, _, _, _, _, foldl_discardStripe_eq l s⟩

theorem mediaStep_unbindRow (st : RowSt) (s : State) (kr : Nat × Nat) : MediaStep s (unbindRow st s kr) := by
  unfold unbindRow; dsimp only
  generalize hs : List.foldl discardStripe s _ = s1
  have h1 : MediaStep s s1 := by rw [← hs]; exact mediaStep_discards _ s
  generalize hm : mapRank _ kr.1 _ = s2
  have h2 : MediaStep s s2 := by
    rw [← hm]
    exact h1.trans ((mediaStep_journal _).trans ((mediaStep_setRow _ _ _).trans (mediaStep_mapRank _ _ _)))
  generalize hr : (if (_ == RowSt.erased) = true then setRow s2 _ _ else s2) = s3
  have h3 : MediaStep s s3 := by
    rw [← hr]; exact mediaStep_ite _ (h2.trans (mediaStep_setRow _ _ _)) h2
  have h4 := h3.trans (mediaStep_freeOwned s3 (copyOwner (rk kr.1 kr.2)))
  split
  · exact h4.trans (mediaStep_setRow _ _ _)
  · exact h4

theorem unbindRow_eq (st : RowSt) (s : State) (kr : Nat × Nat) :
    unbindRow st s kr = { s with pool := (unbindRow st s kr).pool, comms := (unbindRow st s kr).comms, stripes := (unbindRow st s kr).stripes, rows := (unbindRow st s kr).rows, plinth := (unbindRow st s kr).plinth, dies := (unbindRow st s kr).dies, niches := (unbindRow st s kr).niches } := by
  obtain ⟨_, _, _, _, _, _, _, h⟩ := mediaStep_unbindRow st s kr
  rw [h]

theorem unbindRows_eq (l : List (Nat × Nat)) (st : RowSt) (s : State) :
    unbindRows s st l = { s with pool := (unbindRows s st l).pool, comms := (unbindRows s st l).comms, stripes := (unbindRows s st l).stripes, rows := (unbindRows s st l).rows, plinth := (unbindRows s st l).plinth, dies := (unbindRows s st l).dies, niches := (unbindRows s st l).niches } := by
  unfold unbindRows
  induction l generalizing s with
  | nil => rfl
  | cons x t ih => rw [List.foldl_cons, ih, unbindRow_eq]

theorem land_fold (l : List IoCmd) (s : State) (k : Nat) (v : Sq) (hv : v.live = true) (hf : v.frz = none) :
    l.foldl (fun a io => land a k io) { s with sqs := tset {} s.sqs k v } = { s with sqs := tset {} s.sqs k { v with staged := v.staged ++ l } } := by
  induction l generalizing v with
  | nil => simp
  | cons x t ih =>
    have hne : v ≠ {} := fun h => by rw [h] at hv; cases hv
    have h1 : land { s with sqs := tset {} s.sqs k v } k x = { s with sqs := tset {} s.sqs k { v with staged := v.staged ++ [x] } } := by
      have : getSq { s with sqs := tset {} s.sqs k v } k = v := tget_tset_same _ _ _ _ hne
      simp only [land, this, hf, setSq, tset_tset _ _ _ _ _ hne]
    rw [List.foldl_cons, h1, ih]
    · simp
    · exact hv
    · exact hf

end Sys2Proof.Machine
end

