-- ==== Sys2Proof/Laws/Ops.lean ====
section
/-! SUPPORT. What completing an admin command and serving one can do, said once; provers cite these in
place of unfolding them. -/

namespace Sys2Proof.Machine

/-- A completion touches the completion queues alone. -/
theorem schedule_only (s : State) (c q cid : Nat) (st : Status) (dw0 dw1 : Nat) (data : List Fld) :
    schedule s c q cid st dw0 dw1 data = { s with cqs := (schedule s c q cid st dw0 dw1 data).cqs } := rfl

theorem adone_only (s : State) (c cid : Nat) (st : Status) (dw0 dw1 : Nat) (data : List Fld) :
    adone s c cid st dw0 dw1 data = { s with cqs := (adone s c cid st dw0 dw1 data).cqs } := rfl

/-- The entry of a finished admin command waits last in the admin completion queue. -/
theorem adone_waits (s : State) (c cid : Nat) (st : Status) (dw0 dw1 : Nat) (data : List Fld) :
    (getCq (adone s c cid st dw0 dw1 data) (qk c 0)).waiting =
      (getCq s (qk c 0)).waiting ++ [mkCqe s c 0 cid st dw0 dw1 data] := by
  unfold adone schedule
  simp only [beq_self_eq_true, if_true]
  rw [getCq_setCq_same]
  intro h
  have := congrArg Cq.waiting h
  simp at this

/-- Every other completion queue stands. -/
theorem adone_other (s : State) (c cid : Nat) (st : Status) (dw0 dw1 : Nat) (data : List Fld) (k : Nat)
    (h : k ≠ qk c 0) : getCq (adone s c cid st dw0 dw1 data) k = getCq s k := by
  unfold adone schedule
  simp only [beq_self_eq_true, if_true]
  exact getCq_setCq_ne s h _

/-- Fetching an admin entry touches the admin queue and the rotation alone. -/
theorem adminFetch_only (s : State) (c : Nat) :
    adminFetch s c = { s with arb := (adminFetch s c).arb, sqs := (adminFetch s c).sqs } := rfl

/-- A served controller's admin command has its effect on the state its fetch leaves. -/
theorem admin_served (s : State) (c : Nat) (body : State → State) (h : adminServed s c = true) :
    admin s c body = .next (body (adminFetch s c)) := by
  simp [admin, ok, h]

/-- An admin command of a controller that serves none leaves the machine. -/
theorem admin_unserved (s : State) (c : Nat) (body : State → State) (h : adminServed s c = false) :
    admin s c body = .next s := by
  simp [admin, ok, h]

theorem adminFull_served (s : State) (c cid : Nat) (body : State → State) (h : adminServed s c = true)
    (hm : s.boot.maquette = false) : adminFull s c cid body = .next (body (adminFetch s c)) := by
  unfold adminFull
  rw [admin_served s c _ h, adminFetch_only]
  simp [hm]

theorem adminRom_served (s : State) (c cid : Nat) (body : State → State) (h : adminServed s c = true)
    (hr : s.boot.romRec = false) : adminRom s c cid body = .next (body (adminFetch s c)) := by
  unfold adminRom
  rw [admin_served s c _ h, adminFetch_only]
  simp [hr]

theorem adminPf0_served (s : State) (c cid : Nat) (body : State → State) (h : adminServed s c = true)
    (hp : isPf0 c = true) : adminPf0 s c cid body = .next (body (adminFetch s c)) := by
  unfold adminPf0
  rw [admin_served s c _ h]
  simp [hp]

end Sys2Proof.Machine
end

