-- ==== Sys2Proof/Machine/HostView.lean ====
section
/-! DEFINITION. What the host and the board see that no command of the table reads (R68 to R85, R89, R253,
R254, R370, R379, R411, R488, R503): the identity and the capabilities of a function, its NVMe controller
registers, and the level of each pin group, all as functions of the state. -/

namespace Sys2Proof.Machine

/-! ### Functions (R72, R76, R80 to R83, R89) -/

/-- The answer to a configuration request (R89, R387): none from an absent port, Configuration Request
Retry Status, or the configuration space. -/
inductive CfgAnswer where
  | none
  | retry
  | answered
  deriving DecidableEq, Repr

def cfgAnswer (s : State) (p : Nat) : CfgAnswer :=
  if !(portPresent s p) || perstOf s p then .none else if cfgReady s p then .answered else .retry

/-- The SR-IOV capability of a port's PF0 (R76, R79): TotalVFs, InitialVFs, First VF Offset, VF Stride, and Supported
Page Sizes, of which bit 0 is 4 KiB. -/
def sriov (s : State) (p : Nat) : Nat × Nat × Nat × Nat × Nat := (totalVfs s p, totalVfs s p, 1, 1, 1)

/-- What the PCIe capabilities of a port report (R71, R85). Sizes in bytes, times in µs and ms; `speeds` in GT/s with
2.5 as 2; a completion-timeout range and an L1 substate by its name. -/
structure PortCaps where
  speeds : List Nat
  widths : List Nat
  mpsSupported : Nat := 2
  mrrsMin : Nat := 128
  mrrsMax : Nat := 4096
  tagBits : Nat := 10
  requestsMax : Nat := 768
  extendedTag : Bool := true
  relaxedOrdering : Bool := true
  noSnoopSet : Bool := false
  ari : Bool := true
  interruptPin : Nat := 0
  msi : Bool := false
  msix : Bool := true
  ecrc : Bool := true
  aspmSupport : Nat := 2
  l1Substates : List String := ["ASPM L1.1", "ASPM L1.2", "PCI-PM L1.1", "PCI-PM L1.2"]
  l1ExitLatency : Nat := 4
  tPowerOnUs : Nat := 70
  commonModeRestoreUs : Nat := 40
  ltr : Bool := true
  ptmRequester : Bool := true
  ptmResponder : Bool := false
  timeoutRanges : List String := ["A", "B", "C"]
  timeoutDisable : Bool := true
  timeoutMs : Nat := 50
  absentFeatures : List String := ["ATS", "PRI", "PASID", "CMB", "PMR", "Resizable BAR", "DPC source", "TPH", "atomic operations"]
  deriving DecidableEq, Repr

/-- The capabilities of a port under the straps (R68, R69, R71). -/
def portCaps (s : State) : PortCaps :=
  { speeds := if s.board.straps.gen == 1 then [2, 5, 8, 16] else [2, 5, 8, 16, 32]
    widths := [1, 2, 4, 8, 16].filter (fun w => decide (w ≤ maxWidth s)) }

/-- A memory BAR: its size, 64 bits wide or not, prefetchable or not. -/
structure Bar where
  bytes : Nat
  wide64 : Bool := true
  prefetchable : Bool := false
  deriving DecidableEq, Repr

/-- BAR0/BAR1 of a function, the VF BAR of the SR-IOV capability included (R80), and BAR2/BAR3, which a PF0 alone has
(R82). -/
def bar0 : Bar := { bytes := 262144 }
def bar2 (c : Nat) : Option Bar := if isPf0 c then some { bytes := 4194304 } else none

/-- What lies at an offset of BAR0 (R80). -/
inductive Bar0At where
  | nvme (offset : Nat)
  | sqTail (queue : Nat)
  | cqHead (queue : Nat)
  | msixEntry (vector : Nat)
  | msixPending (word : Nat)
  | nothing
  deriving DecidableEq, Repr

/-- The layout of BAR0 of function `c`: other offsets read 0 and ignore writes (R80, R83). -/
def bar0At (s : State) (c o : Nat) : Bar0At :=
  let vecs := if s.boot.maquette then 32 else (nicheCfg s (myNiche s c)).vecs
  if o < 0x1000 then .nvme o
  else if o < 0x1000 + 8 * 16385 then
    (if o % 8 == 0 then .sqTail ((o - 0x1000) / 8) else if o % 8 == 4 then .cqHead ((o - 0x1000) / 8) else .nothing)
  else if between 0x30000 (0x30000 + 16 * vecs - 1) o then .msixEntry ((o - 0x30000) / 16)
  else if between 0x38000 (0x38000 + (vecs + 63) / 64 * 8 - 1) o then .msixPending ((o - 0x38000) / 8)
  else .nothing

/-- The MSI-X Table Size field of function `c` (R83). -/
def msixTableSize (s : State) (c : Nat) : Nat :=
  if s.boot.maquette then 31 else (nicheCfg s (myNiche s c)).vecs - 1

/-- The latency a port reports in LTR, in ns (R85): active while a commission charged to it is live, idle where
none is live and no command is outstanding; the rule states no value in between. -/
def ltr (s : State) (p : Nat) : Option Nat :=
  if portCharged s p then some 10000
  else if quiet s then some 3000000
  else none

/-- CAP of function `c` (R81), in the layout of NVMe (notes/assumptions/11.md). -/
def nvmeCap (c : Nat) : Nat :=
  pk [(0, 16, 65535), (16, 1, 1), (24, 8, 240), (32, 4, 0), (36, 1, b2n (isPf0 c)), (37, 8, 0x41), (48, 4, 0), (52, 4, 0)]

/-- CSTS of function `c` (R89, R131, R456): RDY and SHST. -/
def nvmeCsts (s : State) (c : Nat) : Nat :=
  let v := getCtrl s c
  pk [(0, 1, b2n v.rdy), (2, 2, v.shst)]

/-- A 32-bit word of the NVMe controller registers of function `c` (R80, R81, R456), VS of NVMe Base 2.0 among them;
others read 0. -/
def nvmeReg (s : State) (c o : Nat) : Nat :=
  let v := getCtrl s c
  match o with
  | 0x00 => nvmeCap c % 2 ^ 32
  | 0x04 => nvmeCap c / 2 ^ 32
  | 0x08 => 0x20000
  | 0x14 => v.cc % 2 ^ 32
  | 0x1C => nvmeCsts s c
  | 0x24 => v.aqa % 2 ^ 32
  | 0x28 => v.asq % 2 ^ 32
  | 0x2C => v.asq / 2 ^ 32 % 2 ^ 32
  | 0x30 => v.acq % 2 ^ 32
  | 0x34 => v.acq / 2 ^ 32 % 2 ^ 32
  | _ => 0

/-! ### Pins (R253, R254, R370, R379, R411, R488, R503) -/

/-- What a pin group does: floating, a level, released, the lanes' electrical idle or L1.2, the DRAM's
self-refresh levels, or what its unit drives. -/
inductive Pin where
  | hiZ
  | low
  | high
  | released
  | elecIdle
  | l12
  | selfRefresh
  | driven
  deriving DecidableEq, Repr

/-- CHn_CE#, CHn_WP# and the other signals of channel `n`: floating before their rail, in reset and with their
domain off; a lost channel drives CE# high and WP# low, and WP# rises once a channel is enumerated (R244, R253,
R254). -/
def chPins (s : State) (n : Nat) : Pin × Pin × Pin :=
  if !(bitOf s.board.pg (railBit .ch)) || !(running s) || !(bitOf s.pm.domChg (n / 4)) then (.hiZ, .hiZ, .hiZ)
  else if (getChan s n).state == 3 then (.high, .low, .hiZ)
  else (.driven, if (getChan s n).state == 0 then .low else .high, .driven)

/-- Whether the PHY of port `p` is off or in reset. -/
def phyOff (s : State) (p : Nat) : Bool :=
  !(bitOf s.board.pg (railBit .pcie)) || !(running s) || !(portPresent s p) || !(bitOf s.pm.domPcie p) ||
    s.boot.phase == .mfg

/-- The lanes of port `p` (R70, R379, R503): a port that PS4 takes as ready with its link down or in reset is held in
electrical idle (R419). -/
def pePins (s : State) (p : Nat) : Pin :=
  if phyOff s p then .elecIdle
  else if (getPort s p).link == .l12 then .l12
  else if (s.pm.ps == 4 || s.pm.entry == .wait4) && portReady s p then .elecIdle
  else .driven

/-- PEp_CLKREQ# (R503). -/
def clkreqPin (s : State) (p : Nat) : Pin := if phyOff s p then .released else .driven

/-- BOOT_CS# and the other signals of the boot flash, whose bank is VIO18 (R499, R503): BOOT_CS# is pulled up inside the
device. -/
def bootPins (s : State) : Pin × Pin :=
  if !(bitOf s.board.pg (railBit .io)) || !(running s) || s.pm.ps == 4 then (.high, .hiZ) else (.driven, .driven)

/-- DDR_RESET_N and the other signals of the DRAM (R411, R503). -/
def ddrPins (s : State) : Pin × Pin :=
  if !(bitOf s.board.pg (railBit .ddr)) then (.hiZ, .hiZ)
  else if !(running s) then (.low, .hiZ)
  else if s.pm.domDram then (.driven, .driven)
  else if s.pm.ps == 3 && s.arm.cfg.dev.dramMode != 0 then (.high, .selfRefresh)
  else (.low, .hiZ)

/-- FSYNC_OUTA and FSYNC_OUTB (R361, R370). -/
def fsyncPins (s : State) : Pin := if !s.board.fedOut then .hiZ else if s.fed.ovf then .high else .driven

/-- The SMBus pins (R96, R503). -/
def smbPins (s : State) : Pin := if basicUp s then .driven else .released

/-- ALERT# and THERM_TRIP#, open drain and active low (R438, R488). -/
def alertPins (s : State) : Pin × Pin :=
  (if alertPin s then .low else .released, if s.board.thermTrip then .low else .released)

/-- HU_CHG_EN and HU_TEST (R338, R503). -/
def holdupPins (s : State) : Pin × Pin :=
  (if s.board.chgEn then .high else .low, if s.board.huTest then .high else .low)

/-- RAIL_EN_* of a rail group (R500, R503). -/
def railPin (s : State) (r : Rail) : Pin := if bitOf s.board.railEn (railBit r) then .high else .low

/-- XOUT, which swings from the oscillator's start on (R385 step 5), and TDO: the TAP of a deployed part is held in reset
(R379, R503). -/
def xoutPin (s : State) : Pin :=
  let starts := s.boot.phase == .xo || (s.clk.xoOk && (running s || s.boot.phase == .pll))
  if starts then .driven else .low

def tdoPin (s : State) : Pin :=
  if running s && (s.board.fuses.lifecycle == 0 || s.board.fuses.lifecycle == 1) then .driven else .hiZ

end Sys2Proof.Machine
end

