-- ==== Sys2Proof/Tests/Slice0.lean ====
section
/-! SUPPORT. Tests of the model: for every obligation with premises a concrete state and operands that meet
them (`witness_…`), the well-formedness checks, and the spec's worked examples (`test_…`). -/

open Sys2Proof Sys2Proof.Machine
namespace Sys2Proof.Tests

-- one theorem after the other: the proofs are short, and the thread of each would take its stack
set_option Elab.async false

/-- A structure with one niche: a zoned and a conventional namespace slot on ranks 0 and 1. -/
def slotZ : SlotCfg :=
  { valid := true, niche := 0, nsid := 1, zoned := true, create := true, sealEn := true, lbafMask := 1
    xts := 255, sealSlot := 1, size := 4, maxOpen := 2, maxActive := 4 }

def slotC : SlotCfg := { valid := true, niche := 0, nsid := 2, create := true, lbafMask := 1, size := 1 }

def slotE : SlotCfg := { valid := true, niche := 0, nsid := 3, create := true, enc := true, lbafMask := 1, xts := 0, size := 1 }

def niche0 : NicheCfg :=
  { valid := true, urgentOk := true, commOk := true, weight := 1, calShare := 100, thermShare := 100, bound0 := true
    rankSet := 3, qbase := 1, qcount := 64, vecs := 8, maxComm := 8, pools := [8, 8, 8, 8, 8], keyMask := 3 }

def cfg : ArmCfg :=
  { dev := { icc := 10000, iccq := 10000, huCap := 1000, huVchg := 30000, huVmin := 10000, huLoad := 100 }
    geom := { planes := 4, pageKib := 16, bits := 3, pages := 1728, blocks := 200, tProg := 1000, iProg := 10, iRead := 2
              iErs := 5, iXfer := 1, rate := 2400 }
    rankEn := 3, spare := 20, niches := [niche0], slots := [slotZ, slotC, slotE], tick := 8, u := 800, rho := 100 }

/-- A released device with the link of port 0 up, PF0 ready with its admin queue and I/O queue 1, and both
namespaces live. -/
def base : State :=
  { board := { pgAon := true, railEn := 255, pg := 255, perst0 := false }
    boot := { phase := .released, fwSlot := 1 }
    arm := { src := 0, seq := 1, cfg := cfg, base := cfg, made := [1] }
    ports := [(0, { gen := 5, width := 8, dlup := true })]
    ctrls := [(0, { en := true, rdy := true, allot := 8 })]
    sqs := [(0, { live := true, size := 16 }), (1, { live := true, size := 16, cqid := 1 })]
    cqs := [(0, { live := true, size := 16, ien := true }), (1, { live := true, size := 16 })]
    ns := [(0, { live := true, attr := slotZ, attached := [0] }), (1, { live := true, attr := slotC, attached := [0] })]
    plinth := { mounted := true, exists_ := true }
    cms := { dCap := 64 }
    glb := { released := true } }

/-- `base` with three dies on each of ranks 0 and 1, their channels trained. -/
def media : State :=
  { base with
    dies := [(0, { used := true }), (1, { used := true }), (32, { used := true }), (33, { used := true })
            , (64, { used := true }), (65, { used := true })]
    chans := [(0, { state := 2, rate := 2400, presets := [2000] }), (1, { state := 2 }), (2, { state := 2 })] }

/-! ### I/O commands -/

/-- The state in which the entry `io`, submitted to I/O queue 1, is granted as command 1. -/
def granted (s : State) (io : IoCmd) : State := (arbGrant (landed s 0 1 io)).1

theorem granted_intro (s : State) (io : IoCmd) (h : fetches s (qk 0 1) = true)
    (a : (arbGrant (landed s 0 1 io)).2 = some 1)
    (b : (hasCmd (granted s io) 1 && (getCmd (granted s io) 1).phase == .granted &&
      (getCmd (granted s io) 1).io == io && (getCmd (granted s io) 1).sq == qk 0 1 &&
      !(fetchStopped (granted s io)) && !(portLost (granted s io) 0) && (getSq (granted s io) (qk 0 1)).frz.isNone &&
      (getSq s (qk 0 1)).inflight == 0) = true)
    (f : ∀ kv ∈ (granted s io).cmds, kv.2.io.op = .flush → kv.1 = 1) : Granted s 0 1 io (granted s io) 1 := by
  simp only [Bool.and_eq_true, beq_iff_eq, Bool.not_eq_true', Option.isNone_iff_eq_none] at b
  obtain ⟨⟨⟨⟨⟨⟨⟨b1, b2⟩, b3⟩, b4⟩, b5⟩, b6⟩, b7⟩, b8⟩ := b
  exact ⟨by decide, h, b8, Prod.ext rfl a, b1, b2, b3, b4, by decide, by decide, b5, b6, b7, f⟩

def keyed : State := { media with cipher := { keys := [(1, { st := 1, ser := 1 })], nextSer := 2, drbg := 1, trng := 1 } }

/-- A zone bound to row 0 of rank 0, in state `st` with its write pointer at `wp`. -/
def withZone (st : ZSt) (wp : Nat) : State :=
  { keyed with
    zones := [(zk 0 0, { st := st, wp := wp, rows := [(0, 0)], zcap := 36864 })]
    rows := [(rk 0 0, { st := .bound, chmask := 7, p := 2, d := 1 })] }

def ioW (slba nlb : Nat) : IoCmd := { op := .write, cid := 7, nsid := 1, slba := slba, nlb := nlb }

theorem witness_WritesStart_open :
    Granted (withZone .closed 64) 0 1 (ioW 64 511) (granted (withZone .closed 64) (ioW 64 511)) 1 :=
  granted_intro _ _ (by decide +kernel) (by decide +kernel) (by decide +kernel) (by decide +kernel)

theorem witness_WritesStart_open_checks :
    let io := ioW 64 511
    let u := granted (withZone .closed 64) io
    let m := getCmd u 1
    ioRow (.write 0 1 7 1 64 511 {}) = some (0, 1, io) ∧ isZoneWrite io.op = true ∧ ioCheck u m = none ∧
      zonedAt u m.slot = true ∧ zoneOfLba u m.slot 64 = 0 ∧ (getZone u (zk m.slot 0)).st = .closed ∧
      slotTaken u m.slot 0 = false ∧ (getZone u (zk m.slot 0)).held = [] ∧
      conflicts u m.slot 64 575 true = false ∧ lockAvail u m.niche = true ∧
      (getNch u m.niche).readOnly = false ∧ zoneWriteCheck u m.slot 0 io = none ∧
      limitCheck u m.slot (getZone u (zk m.slot 0)) = (.success, none) := by decide +kernel

/-- The first free rows of an Empty zone's group (R165): row 0 of rank 0. -/
theorem witness_WritesStart_empty :
    let io : IoCmd := { op := .zoneAppend, cid := 7, nsid := 1, slba := 2097152, nlb := 0 }
    let u := granted keyed io
    let m := getCmd u 1
    ioRow (.zoneAppend 0 1 7 1 2097152 0 false {}) = some (0, 1, io) ∧ hasCmd u 1 = true ∧ ioCheck u m = none ∧
      zonedAt u m.slot = true ∧ zoneOfLba u m.slot io.slba = 1 ∧ (getZone u (zk m.slot 1)).st = .empty ∧
      slotTaken u m.slot 1 = false ∧ conflicts u m.slot 2097152 2097152 true = false ∧ lockAvail u m.niche = true ∧
      zoneWriteCheck u m.slot 1 io = none ∧ limitCheck u m.slot (getZone u (zk m.slot 1)) = (.success, none) ∧
      bindPlan u m.niche (2 ^ (getNs u m.slot).attr.zw) = .rows [(0, 0)] := by decide +kernel

theorem witness_WritesStart_empty_granted :
    Granted keyed 0 1 { op := .zoneAppend, cid := 7, nsid := 1, slba := 2097152, nlb := 0 }
      (granted keyed { op := .zoneAppend, cid := 7, nsid := 1, slba := 2097152, nlb := 0 }) 1 :=
  granted_intro _ _ (by decide +kernel) (by decide +kernel) (by decide +kernel) (by decide +kernel)

def ioC (op : IoOp) (slba nlb : Nat) : IoCmd := { op := op, cid := 7, nsid := 2, slba := slba, nlb := nlb }

/-- A command on a conventional namespace is granted, up to the last LBA. -/
theorem witness_conventional_granted (op : IoOp) (h : op = .write ∨ op = .read ∨ op = .writeUncorrectable) :
    Granted keyed 0 1 (ioC op 262143 0) (granted keyed (ioC op 262143 0)) 1 := by
  rcases h with rfl | rfl | rfl <;>
    exact granted_intro _ _ (by decide +kernel) (by decide +kernel) (by decide +kernel) (by decide +kernel)

/-- `keyed` with row 1 of rank 0 open for the host writes of namespace 2. -/
def openRow : State :=
  { keyed with
    ns := [(0, { live := true, attr := slotZ, attached := [0] }),
           (1, { live := true, attr := slotC, attached := [0], hostRow := some (0, 1) })]
    rows := [(rk 0 1, { st := .bound, slot := 1, chmask := 7, p := 2, d := 1 })] }

theorem witness_WritesStart_conventional :
    Granted openRow 0 1 (ioC .write 262143 0) (granted openRow (ioC .write 262143 0)) 1 ∧
      (let io := ioC .write 262143 0
       let u := granted openRow io
       let m := getCmd u 1
       ioCheck u m = none ∧ zonedAt u m.slot = false ∧ writesData u m.slot io = true ∧
         conflicts u m.slot 262143 262143 true = false ∧ lockAvail u m.niche = true ∧
         (getNch u m.niche).readOnly = false ∧ (getNch u m.niche).fgGc = false ∧ io.nlb + 1 ≤ fineRoom u m.slot) :=
  ⟨granted_intro _ _ (by decide +kernel) (by decide +kernel) (by decide +kernel) (by decide +kernel), by decide +kernel⟩

theorem witness_WritesStart_first :
    let io := ioC .write 262143 0
    let u := granted keyed io
    let m := getCmd u 1
    ioCheck u m = none ∧ zonedAt u m.slot = false ∧ writesData u m.slot io = true ∧
      conflicts u m.slot 262143 262143 true = false ∧ lockAvail u m.niche = true ∧
      (getNch u m.niche).readOnly = false ∧ (getNch u m.niche).fgGc = false ∧ fineRoom u m.slot < io.nlb + 1 ∧
      (getNs u m.slot).hostRow = none ∧ (getNs u m.slot).nextRow = none ∧
      fineH u m.slot < fineRows u (getNs u m.slot).attr ∧
      (getNs u m.slot).attr.niche = m.niche ∧ bindPlan u m.niche 1 = .rows [(0, 0)] ∧
      io.nlb + 1 ≤ fineRoom (takeFineRow u m.slot false) m.slot := by decide +kernel

theorem witness_ReadsStart :
    let io := ioC .read 262143 0
    let u := granted keyed io
    let m := getCmd u 1
    isRead io.op = true ∧ ioCheck u m = none ∧ conflicts u m.slot 262143 262143 false = false ∧
      lockAvail u m.niche = true ∧ zonedAt u m.slot = false ∧ lostIn u m.slot 262143 1 = 0 := by decide +kernel

/-- A read that ends with the last LBA of a zone. -/
theorem witness_ReadsStart_zoned :
    let s := withZone .full 36864
    let io : IoCmd := { op := .read, cid := 7, nsid := 1, slba := 2097150, nlb := 1 }
    let u := granted s io
    let m := getCmd u 1
    Granted s 0 1 io u 1 ∧ ioCheck u m = none ∧ conflicts u m.slot io.slba (io.slba + io.nlb) false = false ∧
      lockAvail u m.niche = true ∧ zonedAt u m.slot = true ∧
      zoneOfLba u m.slot io.slba = zoneOfLba u m.slot (io.slba + io.nlb) ∧
      (getZone u (zk m.slot (zoneOfLba u m.slot io.slba))).st ≠ .offline ∧ lostIn u m.slot io.slba (io.nlb + 1) = 0 :=
  ⟨granted_intro _ _ (by decide +kernel) (by decide +kernel) (by decide +kernel) (by decide +kernel), by decide +kernel⟩

theorem witness_SpanCommandsComplete :
    let io := ioC .writeUncorrectable 262143 0
    let u := granted keyed io
    let m := getCmd u 1
    ioCheck u m = none ∧ zonedAt u m.slot = false ∧ lockAvail u m.niche = true ∧
      (getNch u m.niche).readOnly = false ∧ conflicts u m.slot 262143 262143 true = false := by decide +kernel

def ioD : IoCmd := { op := .datasetManagement, cid := 7, nsid := 2, ad := true, ranges := [(0, 262144)] }

theorem witness_SpanCommandsComplete_deallocate :
    Granted keyed 0 1 ioD (granted keyed ioD) 1 ∧
      (let u := granted keyed ioD
       let m := getCmd u 1
       ioCheck u m = none ∧ zonedAt u m.slot = false ∧ conflicts u m.slot 0 262143 true = false ∧
         lockAvail u m.niche = true) ∧
      (let u := granted keyed { ioD with nsid := 1, ranges := [(0, 1)] }
       let m := getCmd u 1
       ioCheck u m = none ∧ zonedAt u m.slot = true ∧ conflicts u m.slot 0 0 true = false ∧ lockAvail u m.niche = true) :=
  ⟨granted_intro _ _ (by decide +kernel) (by decide +kernel) (by decide +kernel) (by decide +kernel), by decide +kernel,
    by decide +kernel⟩

def ioZ (op : IoOp) : IoCmd := { op := op, cid := 7, nsid := 1 }

/-- Each Zone Management Send action is granted on a zone in a state it takes. -/
theorem witness_ZoneActionsComplete_granted :
    Granted (withZone .closed 0) 0 1 (ioZ .zoneOpen) (granted (withZone .closed 0) (ioZ .zoneOpen)) 1 ∧
      Granted (withZone .explicit 1) 0 1 (ioZ .zoneClose) (granted (withZone .explicit 1) (ioZ .zoneClose)) 1 ∧
      Granted keyed 0 1 (ioZ .zoneFinish) (granted keyed (ioZ .zoneFinish)) 1 ∧
      Granted (withZone .full 36864) 0 1 (ioZ .zoneReset) (granted (withZone .full 36864) (ioZ .zoneReset)) 1 ∧
      Granted (withZone .readOnly 9) 0 1 (ioZ .zoneOffline) (granted (withZone .readOnly 9) (ioZ .zoneOffline)) 1 := by
  refine ⟨?_, ?_, ?_, ?_, ?_⟩ <;>
    exact granted_intro _ _ (by decide +kernel) (by decide +kernel) (by decide +kernel) (by decide +kernel)

theorem witness_ZoneActionsComplete :
    (let u := granted (withZone .closed 0) (ioZ .zoneOpen)
     ioCheck u (getCmd u 1) = none ∧ (getCmd u 1).slot = 0 ∧ (getZone u 0).st = .closed ∧
       openLimits u 0 (getZone u 0) = none ∧ conflicts u 0 0 2097151 true = false ∧ lockAvail u 0 = true ∧ sealing u 0 0 2097151 = false) ∧
    (let u := granted (withZone .explicit 1) (ioZ .zoneClose)
     ioCheck u (getCmd u 1) = none ∧ (getZone u 0).st = .explicit ∧ (getZone u 0).wp ≠ 0) ∧
    (let u := granted keyed (ioZ .zoneFinish)
     ioCheck u (getCmd u 1) = none ∧ (getZone u 0).st = .empty) ∧
    (let u := granted (withZone .full 36864) (ioZ .zoneReset)
     ioCheck u (getCmd u 1) = none ∧ (getZone u 0).st = .full ∧
       (cutLost (getNch u (getNs u 0).attr.niche) 0 0 2097151).lost.length ≤ 4096 ∧ sealing u 0 0 2097151 = false) ∧
    (let u := granted (withZone .readOnly 9) (ioZ .zoneOffline)
     ioCheck u (getCmd u 1) = none ∧ (getZone u 0).st = .readOnly) ∧
    (let u := granted (withZone .full 36864) (ioZ .zoneFinish)
     ioCheck u (getCmd u 1) = none ∧ (getZone u 0).st = .full ∧ conflicts u 0 0 2097151 true = false) ∧
    (let u := granted keyed (ioZ .zoneOpen)
     ioCheck u (getCmd u 1) = none ∧ (getZone u 0).st = .empty ∧ openLimits u 0 (getZone u 0) = none ∧
       (getNch u 0).readOnly = false ∧ (getNs u 0).attr.niche = (getCmd u 1).niche ∧
       bindPlan u 0 (2 ^ (getNs u 0).attr.zw) = .rows [(0, 0)]) ∧
    (let u := granted (withZone .closed 64) { ioZ .zoneOpen with selectAll := true }
     ioCheck u (getCmd u 1) = none ∧ conflicts u 0 0 (nsLbas (getNs u 0).attr - 1) true = false ∧
       twf {} u.zones = true ∧ lockAvail u 0 = true ∧ (getNch u 0).readOnly = false ∧
       openCount u 0 + (zonesWhere u 0 (fun v => v.st == .closed)).length ≤ (getNs u 0).attr.maxOpen ∧
       selects .zoneOpen (getZone u (zk 0 0)).st = true ∧ sealing u 0 0 (nsLbas (getNs u 0).attr - 1) = false) := by
  decide +kernel

def ioS : IoCmd := { op := .zoneSeal, cid := 7, nsid := 1, nonce := 1 }

def aSeal : SealRec := ⟨5, 1, 0, 36864, 1, 0, false, false, 0, 0, 0, 0, 0, 0⟩

def sealedZone : State :=
  { withZone .full 36864 with zones := [(zk 0 0, { st := .full, wp := 36864, rows := [(0, 0)], sealed := some aSeal })] }

/-- A Full zone whose seal state has moved to the Plinth. -/
def movedZone : State :=
  { withZone .full 36864 with zones := [(zk 0 0, { st := .full, wp := 36864, rows := [(0, 0)], sealSaved := true })] }

theorem witness_ReportsSealsAndFlushes_moved :
    Granted movedZone 0 1 ioS (granted movedZone ioS) 1 ∧
    (let u := granted movedZone ioS
     ioCheck u (getCmd u 1) = none ∧ slotTaken u 0 0 = false ∧ (getZone u 0).held = [] ∧ (getZone u 0).st = .full ∧
       (getZone u 0).sealed = none ∧ (getZone u 0).sealSaved = true ∧ (getKey u 1).st ≠ 0 ∧
       keysReady u (getNs u 0).attr .flush = true) :=
  ⟨granted_intro _ _ (by decide +kernel) (by decide +kernel) (by decide +kernel) (by decide +kernel), by decide +kernel⟩

theorem witness_ReportsSealsAndFlushes_granted :
    Granted (withZone .full 36864) 0 1 ioS (granted (withZone .full 36864) ioS) 1 ∧
      Granted sealedZone 0 1 ioS (granted sealedZone ioS) 1 ∧
      Granted (withZone .full 36864) 0 1 (ioZ .zoneReceive) (granted (withZone .full 36864) (ioZ .zoneReceive)) 1 ∧
      Granted keyed 0 1 { op := .flush, cid := 7, nsid := 2 } (granted keyed { op := .flush, cid := 7, nsid := 2 }) 1 := by
  refine ⟨?_, ?_, ?_, ?_⟩ <;>
    exact granted_intro _ _ (by decide +kernel) (by decide +kernel) (by decide +kernel) (by decide +kernel)

theorem witness_ReportsSealsAndFlushes_seal :
    (let u := granted (withZone .full 36864) ioS
     ioCheck u (getCmd u 1) = none ∧ slotTaken u 0 0 = false ∧ (getZone u 0).held = [] ∧ (getZone u 0).st = .full ∧
       (getZone u 0).sealed = none ∧ (getZone u 0).sealSaved = false ∧ (getKey u 1).st ≠ 0 ∧ (getNch u 0).readOnly = false ∧
       keysReady u (getNs u 0).attr .flush = true) ∧
    (let u := granted sealedZone ioS
     ioCheck u (getCmd u 1) = none ∧ slotTaken u 0 0 = false ∧ (getZone u 0).sealed = some aSeal) ∧
    (let u := granted (withZone .full 36864) (ioZ .zoneReceive)
     ioCheck u (getCmd u 1) = none) := by decide +kernel

/-- A started command 5 of namespace 1 that wants one buffer. -/
def asking (s : State) (io : IoCmd) : State :=
  { s with cmds := [(5, { sq := 1, io := io, phase := .started, slot := 0, want := requests 0 false [] 1
                          wslot := io.op == .zoneSeal, zone := some 0 })] }

theorem witness_ReportsSealsAndFlushes_buffers :
    let goes := fun (s : State) =>
      let m := getCmd s 5
      (atPort s 5 && portFirst s 5 && m.want == [(0, 1)] && m.wslot == (m.io.op == .zoneSeal) && qidOfSq m.sq != 0 &&
        (allocate s m.niche 0 5 (writesData s m.slot m.io) (confOf s m)).2.isSome &&
        s.cmds.all (fun kv => kv.2.io.op != .flush) && (getZone s 0).st == .full && !(getZone s 0).finPend &&
        zoneOfLba s m.slot m.io.slba == 0 && m.zone == some 0) = true
    goes (asking (withZone .full 36864) (ioZ .zoneReceive)) ∧ goes (asking (withZone .full 36864) ioS) ∧
      (getZone (withZone .full 36864) 0).sealed = none ∧ goes (asking sealedZone ioS) ∧
      (getZone sealedZone 0).sealed = some aSeal := by decide +kernel

/-- `keyed` with a started write of namespace 2 as command 5. -/
def writing : State :=
  { keyed with
    cmds := [(5, { sq := 1, io := ioC .write 0 0, phase := .started, slot := 1, need := 1, recv := [9], segs := 1 })]
    arb := { nextCmd := 6 } }

theorem witness_ReportsSealsAndFlushes_flush :
    (let u := granted keyed { op := .flush, cid := 7, nsid := 2 }
     ioCheck u (getCmd u 1) = none ∧ degraded u = false ∧ u.cmds.length = 1) ∧
    (let u := (arbGrant (landed writing 0 1 { op := .flush, cid := 7, nsid := 2 })).1
     ioCheck u (getCmd u 6) = none ∧ tkeys u.cmds (fun _ d => d.phase == .started &&
       (flushSlots u (getCmd u 6)).contains d.slot && writesData u d.slot d.io) = [5]) := by decide +kernel

def ioBad : IoCmd := { op := .other 0x8A, cid := 7, nsid := 2 }

theorem witness_ErrorsFreezeQueues :
    Granted keyed 0 1 ioBad (granted keyed ioBad) 1 ∧
      (ioEntry keyed (.unsupportedOpcode 0 1 7 0x8A 2 0 0) = some (0, 1, ioBad) ∧
        ioCheck (granted keyed ioBad) (getCmd (granted keyed ioBad) 1) = some .invalidOpcode ∧
        freezes .invalidOpcode = true ∧ adminServed keyed 0 = true ∧ (adminOpcodes keyed 0).contains 0x7F = false ∧
        (adminOpcodes keyed 0).contains 0xC8 = true ∧ badAction 0xC8 0xF = true) :=
  ⟨granted_intro _ _ (by decide +kernel) (by decide +kernel) (by decide +kernel) (by decide +kernel), by decide +kernel⟩

/-- Command 5 still waits for its one sector. -/
def receiving : State :=
  { keyed with cmds := [(5, { sq := 1, io := ioC .write 0 0, phase := .started, slot := 1, need := 1 })] }

theorem witness_ErrorsFreezeQueues_transfer :
    (let c := getCmd receiving 5
     hasCmd receiving 5 = true ∧ c.phase = .started ∧ c.recv.length ≠ c.need ∧ qidOfSq c.sq ≠ 0 ∧
       (getSq receiving c.sq).frz = none ∧ (∀ kv ∈ receiving.cmds, kv.2.io.op ≠ .flush)) ∧
    (let s := { keyed with sqs := [(qk 127 65535, { live := true, size := 2, inflight := 8 })] }
     let v := getSq s (qk 127 65535)
     v.inflight ≠ 0 ∧ v.frz = none) := by decide +kernel

/-! ### Fetch, grant, data and completion -/

theorem witness_FetchesBringEntries :
    (let s := { base with sqs := [(1, { live := true, size := 16, cqid := 1, head := 15, tail := 3 })] }
     fetches s (qk 0 1) = true ∧ (getSq s (qk 0 1)).inflight = 0 ∧ (getSq s (qk 0 1)).size ≠ 0 ∧
       requestsOut s (portOf 0) < 768) ∧
    (let s := { base with sqs := [(1, { live := true, size := 16, head := 15, inflight := 1 })] }
     let v := getSq s (qk 0 1)
     v.live = true ∧ v.inflight ≠ 0 ∧ [ioC .read 0 0].length = v.inflight ∧ v.frz = none ∧ v.del = none ∧ v.size ≠ 0) ∧
    (getSq { base with sqs := [(1, { live := true, size := 16, inflight := 1, del := some 9 })] } (qk 0 1)).del.isSome = true := by
  decide +kernel

theorem witness_GrantsAndStarts :
    (let s := landed keyed 0 1 (ioC .read 0 0)
     (arbPick s).map (·.1) = some 1 ∧ (getSq s 1).staged = [ioC .read 0 0] ∧ (getSq s 1).live = true) ∧
    (let u := granted keyed (ioC .read 0 511)
     let m := getCmd u 1
     hasCmd u 1 = true ∧ m.phase = .granted ∧ fetchStopped u = false ∧ (getSq u m.sq).frz = none ∧ ioCheck u m = none ∧
       isRead m.io.op = true ∧ zonedAt u m.slot = false ∧ lockAvail u m.niche = true ∧
       conflicts u m.slot 0 511 false = false ∧ lostIn u m.slot 0 512 = 0 ∧ portLost u 0 = false) := by decide +kernel

/-- A stripe of namespace 2 on rank 0, whose units are released as `rel` says, with sector 0 of LBA 0 in it. -/
def stored (rel : Nat) : State :=
  { keyed with
    stripes := [(7, { slot := 1, rank := 0, chmask := 7, p := 2, dcap := 64, valid := 1, cells := [(0, { lba := 0, val := 9, seq := 1 })]
                      phase := .done, released := rel })]
    sectors := [(lk 1 0, { sid := 7, pos := 0 })]
    fine := [(lk 1 0, { state := 1 })], fineCache := [pageOf 1 0] }

/-- Command 5 waits for its first buffer. -/
def wanting : State :=
  { keyed with cmds := [(5, { sq := 1, io := ioC .write 0 0, phase := .started, slot := 1, need := 1
                              want := [(0, 1), (0, 1)] })] }

theorem witness_BuffersTakenAndFreed :
    (let c := getCmd wanting 5
     hasCmd wanting 5 = true ∧ c.phase = .started ∧ c.conf = none ∧ c.niche = 0 ∧ c.want = [(0, 1), (0, 1)] ∧
       poolFree wanting 0 0 > 0 ∧ gate wanting 0 0 (writesData wanting c.slot c.io) none false = true ∧
       atPort wanting 5 = true ∧ portFirst wanting 5 = true ∧ atPort wanting 6 = false) ∧
    (let s := { wanting with niches := [(0, { parkOther := [5] })] }
     gate s 0 0 (writesData s 1 (ioC .write 0 0)) none false = true ∧ (getNch s 0).parkConf = [] ∧
       (getNch s 0).parkOther = 5 :: [] ∧ 5 < copyOwner 0 ∧ s.pool.ctl = []) ∧
    (let s := { keyed with pool := { keyed.pool with bufs := [(bk 0 4 7, { used := true, owner := 5 })] } }
     let b := tget ({} : Buf) s.pool.bufs (bk 0 4 7)
     b.used = true ∧ b.owner = 5 ∧ b.conf = none ∧ b.owner ≠ 6) ∧
    (∀ op, op = .read ∨ op = .verify →
      (let s := { keyed with cmds := [(5, { sq := 1, io := ioC op 0 0, phase := .started, slot := 1, need := 1, want := [(0, 1)] })] }
       let c := getCmd s 5
       isRead c.io.op = true ∧ c.want = [(0, 1)] ∧ poolFree s 0 0 > 0 ∧ gate s 0 0 false none false = true ∧
         atPort s 5 = true ∧ portFirst s 5 = true ∧ c.conf = none ∧ rdDone (sectorSource s c.slot 0) = true)) ∧
    (let s := { stored 7 with cmds := [(5, { sq := 1, io := ioC .read 0 0, phase := .started, slot := 1, need := 1, want := [(0, 1)] })] }
     atPort s 5 = true ∧ portFirst s 5 = true ∧ sectorSource s 1 0 = .media 0 ∧ unitGone s (getStripe s 7) (chanOfPos s (getStripe s 7) 0) = false) := by
  refine ⟨by decide +kernel, by decide +kernel, by decide +kernel, ?_, by decide +kernel⟩
  rintro op (rfl | rfl) <;> decide +kernel

/-- Namespace 2 in format 1 with protection information, its command `c` checking the application tag. -/
def guardedNs (c : Cmd) : State :=
  { keyed with
    ns := [(1, { live := true, attr := slotC, attached := [0], fmt := 1, pi := 1 })]
    cmds := [(5, { c with io := { c.io with pi := { prinfo := 2, lbat := 1, lbatm := 1 } } })] }

theorem witness_DataReachesTheEngines :
    (let c := getCmd receiving 5
     hasCmd receiving 5 = true ∧ c.phase = .started ∧ writesData receiving c.slot c.io = true ∧ c.io.op ≠ .writeZeroes ∧
       c.want = [] ∧ c.recv.length < c.need ∧ portLost receiving (ctrlOfSq c.sq) = false ∧ qidOfSq c.sq ≠ 0 ∧
       (hostSector (getNs receiving c.slot) c.io 0 c.lo 9).2 = none ∧ (∀ kv ∈ receiving.cmds, kv.2.io.op ≠ .flush) ∧
       (∀ kv ∈ receiving.zones, kv.2.finPend = false) ∧ receiving.cipher.segs = []) ∧
    hasPi ({ fmt := 1, pi := 1 } : Ns) = true ∧ hasPi ({} : Ns) = false ∧
    (hostSector (getNs (guardedNs (getCmd receiving 5)) 1) (getCmd (guardedNs (getCmd receiving 5)) 5).io 0 0 0).2 = some .piApp ∧
    argMin segKey [(2, 4, 5), (2, 3, 6)] = some (2, 3, 6) := by decide +kernel

/-- Command 5 brings the last sector of a zone. -/
def committing : State :=
  { withZone .implicit 36863 with
    zones := [(zk 0 0, { st := .implicit, wp := 36863, rows := [(0, 0)], zcap := 36864, fill := some 7 })]
    stripes := [(7, { zone := some 0, chmask := 7, p := 2, dcap := 64, valid := 63 })]
    cmds := [(5, { sq := 1, io := ioW 36863 0, phase := .started, slot := 0, zone := some 0, wslot := true
                   lo := 36863, hi := 36863, need := 1, recv := [9], out := [9], segs := 1 })] }

theorem witness_WritesCommit :
    let c := getCmd committing 5
    hasCmd committing 5 = true ∧ c.phase = .started ∧ writesData committing c.slot c.io = true ∧ c.want = [] ∧
      c.recv.length = c.need ∧ 0 < c.need ∧ c.segs = segCount c.lo c.hi ∧ c.zone = some 0 ∧ c.out.length = c.need ∧ qidOfSq c.sq ≠ 0 ∧
      (∀ kv ∈ committing.cmds, kv.2.io.op ≠ .flush) ∧ (getZone committing (zk 0 0)).rows ≠ [] ∧
      (getZone committing (zk 0 0)).wp + c.need = wendOf committing 0 0 ∧ (getZone committing (zk 0 0)).fill = some 7 ∧
      (getStripe committing 7).valid + c.need ≤ (getStripe committing 7).dcap ∧ twf {} committing.cmds = true ∧
      (getZone committing (zk 0 0)).finPend = false ∧
      (cutLost (getNch committing (getNs committing c.slot).attr.niche) c.slot c.lo c.hi).lost.length ≤ 4096 := by
  decide +kernel

/-- The first data of a zone, a Frame Append that starts no frame. -/
theorem witness_WritesCommit_frame :
    let s := { withZone .implicit 0 with
      cmds := [(5, { sq := 1, io := { op := .frameAppend, cid := 7, nsid := 1 }, phase := .started, slot := 0, zone := some 0
                     wslot := true, lo := 0, hi := 0, need := 1, recv := [9], out := [9], segs := 1 })] }
    let c := getCmd s 5
    hasCmd s 5 = true ∧ c.phase = .started ∧ writesData s c.slot c.io = true ∧ c.want = [] ∧
      c.recv.length = c.need ∧ c.segs = segCount c.lo c.hi ∧ c.zone = some 0 ∧ c.out.length = c.need ∧ qidOfSq c.sq ≠ 0 ∧
      c.io.fstart = false ∧ (getZone s (zk 0 0)).wp = 0 ∧ twf {} s.cmds = true ∧ (getZone s (zk 0 0)).finPend = false ∧
      (∀ kv ∈ s.cmds, kv.2.io.op ≠ .flush) := by decide +kernel

/-- Command 5 has read its sector. -/
def sent (op : IoOp) : State :=
  { keyed with
    cmds := [(5, { sq := 1, io := ioC op 0 0, phase := .started, slot := 1, need := 1, segs := 1, recv := [9], out := [9]
                   rds := [⟨0, .ready 9⟩] })] }

theorem witness_ReadsComplete :
    (∀ op, op = .read ∨ op = .compare ∨ op = .verify →
      (let c := getCmd (sent op) 5
       hasCmd (sent op) 5 = true ∧ c.phase = .started ∧ isRead c.io.op = true ∧ c.want = [] ∧ c.rds ≠ [] ∧
         c.wslot = false ∧ (∀ r ∈ c.rds, rdDone r.st = true) ∧ c.segs = segCount c.lo c.hi ∧ qidOfSq c.sq ≠ 0 ∧
         (sentSector (getNs (sent op) c.slot) c.io 0 9).2 = none)) ∧
    (let s := { sent .compare with cmds := [(5, { getCmd (sent .compare) 5 with out := [8] })] }
     (getCmd s 5).rds.map (storedSec s 1) ≠ (getCmd s 5).out ∧ (getCmd (sent .compare) 5).rds.map (storedSec (sent .compare) 1) = [9]) ∧
    (sentSector (getNs (guardedNs (getCmd (sent .read) 5)) 1) (getCmd (guardedNs (getCmd (sent .read) 5)) 5).io 0 9).2 =
      some .piApp ∧
    (let s := { keyed with fineQ := [lk 1 5] }
     s.fineQ = lk 1 5 :: [] ∧ pageHeld s (lk 1 5 / 2048) = false ∧
       pageHeld { s with fineCache := [lk 1 5 / 2048] } (lk 1 5 / 2048) = true) := by
  refine ⟨?_, by decide +kernel, by decide +kernel, by decide +kernel⟩
  rintro op (rfl | rfl | rfl) <;> decide +kernel

def anEntry : Cqe := { cid := 7, sq := 1, sqhd := 1, status := .success, dnr := false }

theorem witness_EntriesPostedAndSignalled :
    (let s := { base with cqs := [(0, { live := true, size := 2, tail := 1, ien := true, waiting := [anEntry] })
                                 , (1, { live := true, size := 2, tail := 1, waiting := [anEntry] })]
                          ctrls := [(0, { en := true, rdy := true, unmasked := [0], coalCnt := [(0, 1)] })] }
     (getCq s 1).waiting = anEntry :: [] ∧ (getCq s 1).live = true ∧ (getCq s 1).ring.length + 1 < (getCq s 1).size ∧
       (getCq s 1).ien = false ∧ (getCq s 0).ien = true ∧ (getCtrl s 0).fmask = false ∧
       (getCtrl s 0).unmasked.contains (getCq s 0).iv = true ∧ tget 0 (getCtrl s 0).coalCnt 0 ≠ 0 ∧ twf {} s.ctrls = true ∧
       portLost s 0 = false ∧ (getCtrl s 0).coal % 256 = 0) ∧
    (let s := { base with cqs := [(1, { live := true, size := 3, tail := 2, ien := true, waiting := [anEntry] })] }
     let counts := fun (coal n : Nat) =>
       let x := getCtrl { s with ctrls := [(0, { en := true, coal := coal, coalCnt := [(0, n)] })] } 0
       tget 0 x.coalCnt 0 + 1 ≤ x.coal % 256
     (getCq s 1).live = true ∧ (getCq s 1).ring.length + 1 < (getCq s 1).size ∧ (getCq s 1).ien = true ∧
       counts 255 254 ∧ ¬ counts 255 255 ∧ tget 0 (getCtrl s 0).ivConf 0 = 0 ∧
       portLost { s with ports := [(0, { linkDown := true })] } 0 = true) ∧
    (let v : Cq := { live := true, size := 2, ring := [anEntry], waiting := [anEntry] }
     v.waiting = anEntry :: [] ∧ v.size ≤ v.ring.length + 1 ∧ ({} : Cq).waiting = []) ∧
    (let s := { base with ctrls := [(0, { en := true, pend := [2047] })] }
     (getCtrl s 0).fmask = false ∧ (getCtrl s 0).unmasked.contains 2047 = false ∧ (getCtrl s 0).pend = [2047]) ∧
    (let s := { base with sqs := [(1, { live := true, size := 16, frz := some {} })] }
     (getSq s 1).frz = some {} ∧ (getSq s 1).inflight = 0 ∧ ({} : Frz).logged = false) ∧
    (∀ f, (getSq base 1).frz = some f → f.logged = true) := by
  refine ⟨by decide +kernel, by decide +kernel, by decide +kernel, by decide +kernel, by decide +kernel, ?_⟩
  intro f h; simp [show (getSq base 1).frz = none from by decide +kernel] at h

theorem witness_TokensAndReevaluation :
    (let s := { base with thm := { base.thm with stage := 4 }, pm := { base.pm with ps := 2 } }
     s.thm.stage ≠ 0 ∧ s.pm.ps = 2) ∧ (base.thm.stage = 0 ∧ base.pm.ps ≠ 2) ∧
    ({ base with cms := { base.cms with reeval := true, again := true } } : State).cms.reeval = true := by decide +kernel

/-! ### The media scheduler, upkeep and channels -/

/-- A live commission 0 and its stripe 9 in phase `ph` on rank 0, over channels 0 to 2. -/
def striped (ph : SPhase) : State :=
  { keyed with
    comms := [(0, { used := true, slot := 0, nsid := 1, rate := 100, burst := 1024, prio := 1, zconc := 1 })]
    stripes := [(9, { slot := 0, zone := some 0, t := 1, chmask := 7, p := 2, dcap := 64, valid := 64, comm := some 0
                      phase := ph, eligNs := 5000, dlNs := 9000 })]
    sched := { scrubPass := 1 }, nowUs := 5
    rows := [(rk 0 0, { st := .bound, chmask := 7, p := 2, d := 1 })] }

/-- `striped` with die (0, 0) in the state `d`. -/
def dieAt (ph : SPhase) (d : Die) : State :=
  { striped ph with dies := tset {} (striped ph).dies (dk 0 0) { d with used := true } }

/-- Read 3, of class `cl` and owner `o`, of codeword 0 of stripe 9 on die (0, 0). -/
def reading (o : Owner) (st : RSt) (cl : Nat) (d : Die) : State :=
  { dieAt .done d with
    cmds := [(5, { sq := 1, io := { op := .read, cid := 7, nsid := 1 }, phase := .started, cls := cl, need := 1
                   rds := [⟨0, .media 3⟩] })]
    reads := [(3, { own := o, cls := cl, sid := 9, st := st })]
    sched := { nextRd := 4, hard := if st == .decode then [3] else [] } }

theorem witness_SuspensionsAndUrgentReads :
    (let s := striped .complete
     (getStripe s 9).phase = .complete ∧ commStripe s (getStripe s 9) = true ∧ (getStripe s 9).eligNs ≤ s.nowUs * 1000) ∧
    (let s := dieAt .granted { susp := some (.program 9) }
     (getDie s (dk 0 0)).op = .idle ∧ (getDie s (dk 0 0)).susp = some (.program 9) ∧ (getDie s 0).suspWait = false ∧
       (getDie s 0).xfer = none ∧ (getDie s 0).suspRd = none ∧ (getChan s 0).retrain = false ∧ iccqFor s 0 = true ∧
       iccUsed s + s.arm.cfg.geom.iProg ≤ s.arm.cfg.dev.icc) ∧
    (let s := dieAt .complete { susp := some (.erase 3) }
     eligibles s 0 = [] ∧ s.hold.brace = false ∧ mediaHeld s = false ∧ healthy s 0 = [0, 1, 2] ∧
       (getDie s (dk 0 0)).op = .idle ∧ (getDie s (dk 0 0)).susp = some (.erase 3) ∧ (getDie s 0).below = none ∧
       (getDie s 0).suspWait = false ∧ (getDie s 0).xfer = none ∧ (getChan s 0).retrain = false ∧ iccqFor s 0 = true ∧
       tokensFor s s.arm.cfg.geom.iErs = true) ∧
    (∀ d ∈ [({} : Die), { op := .erase 3 }, { op := .program 9, suspLimit := 1 }
          , { op := .program 9, suspLimit := 1, susp := some (.erase 3) }],
      let s := reading (.cmd 5 0) .wait 0 d
      let v := getDie s 0
      hasCmd s 5 = true ∧ (getCmd s 5).cls = 0 ∧ mediaHeld s = false ∧ urgentOf s 5 = [3] ∧
        (getChan s 0).retrain = false ∧ (getChan s 0).making = false ∧ iccqFor s 0 = true ∧ waitingReads s 0 0 = [3] ∧
        v.suspWait = false ∧ v.xfer = none ∧ suspendedProgram v = none ∧ suspendedFor s v 3 = true ∧
        tokensFor s s.arm.cfg.geom.iRead = true ∧ s.arm.cfg.urgPolicy = 0 ∧ v.suspCnt = 0 ∧
        tokensThen (setDie s 0 { suspendOp v (some 3) with suspCnt := v.suspCnt + 1 }) s.arm.cfg.geom.iRead = true ∧
        tokensThen (setDie s 0 (suspendOp v (some 3))) s.arm.cfg.geom.iRead = true) := by
  decide +kernel

/-- A row of rank 1 to copy: its stripe, and where it goes. -/
def recast (v : Row) : State :=
  { keyed with
    rows := [(rk 1 3, { v with st := .bound, nstripe := 1, chmask := 7, p := 2, d := 1 })
            , (rk 1 7, { st := .bound, recastDst := true, chmask := 7, p := 2, d := 1 })]
    stripes := [(9, { rank := 1, row := 3, chmask := 7, p := 2, phase := .done })] }

/-- `keyed` with no spare block left to erase. -/
def spared (s : State) : State := { s with dies := tmap {} s.dies (fun _ d => { d with spareDone := 20 }) }

/-- An erased row of the Plinth on rank 0 and a job that waits for it. -/
def plinthJob (j : PlJob) : State :=
  { keyed with
    plinth := { keyed.plinth with jobs := [j], jrnl := 1 }
    rows := [(rk 0 0, { st := .bound, chmask := 7, p := 2, d := 1 })] }

theorem witness_StripesAndWorkGranted :
    (let s := striped .eligible
     earliest s 0 = some 9 ∧ startsHeld s = false ∧ (getStripe s 9).rank = 0 ∧ loadHeld s 9 = false ∧ loadReady s 9 = true ∧
       outranked s 0 9 = false ∧
       (∀ c ∈ chIn (getStripe s 9).chmask, (getDie s (dk c 0)).retired = false ∧ bitOf (getStripe s 9).issued c = false) ∧
       iccUsed s + nk s 0 * s.arm.cfg.geom.iProg ≤ s.arm.cfg.dev.icc) ∧
    (let s := { keyed with rows := [(rk 0 8, { st := .pending })] }
     (chooseWork s 0).map (·.1) = some (.erase 8) ∧ startsHeld s = false) ∧
    (let s := spared { striped .complete with comms := [] }
     (chooseWork s 0).map (·.1) = some (.program 9) ∧ (getStripe s 9).rank = 0 ∧ (getStripe s 9).issued = 0) ∧
    (let s := spared { reading (.cmd 5 0) .wait 2 {} with comms := [] }
     (chooseWork s 0).map (·.1) = some (.read 3)) ∧
    (let s := plinthJob .page
     (chooseWork s 0).map (·.1) = some (Work.plinth .page) ∧ plinthNext s 0 = some ((plinthRows s).headD 0, 0) ∧
       twf {} s.dies = true ∧ ((List.range 32).all (fun c => !(getDie s (dk c 0)).retired)) = true) ∧
    (let s := recast { queue := 1, dest := some 7 }
     (chooseWork s 1).map (·.1) = some (.recast 3) ∧ (getRow s (rk 1 3)).d ≤ nk s 1 ∧ (getRow s (rk 1 3)).dest = some 7 ∧
       nextCopy s 1 3 = some (0, none) ∧ (recastTake s 1 3).2 = true) ∧
    (let s := spared (recast { queue := 1, dest := some 7, copyPh := 3 })
     (chooseWork s 1).map (·.1) = some (.copy 3) ∧ copyDies s 1 3 = [1, 33, 65]) ∧
    ((chooseWork keyed 0).map (·.1) = some .spares ∧ spareDies keyed 0 = [0, 32, 64]) ∧
    startsHeld { keyed with boot := { phase := .flushing } } = true := by decide +kernel

theorem witness_BurstsAndIssue :
    (let s := dieAt .granted { op := .load 9, bursts := 63 }
     (getChan s 0).retrain = false ∧ (getChan s 0).state = 2 ∧ iccqFor s 0 = true ∧ nextBurst s 0 = some (1, 9000, 0) ∧
       (getDie s 0).xfer = none) ∧
    (let s := reading (.cmd 5 0) .xfer 0 { xfer := some 3 }
     nextBurst s 0 = some (0, 0, 0) ∧ hasRd s 3 = true ∧ (getDie s 0).xfer = some 3 ∧ iccqFor s 0 = true ∧
       (getRd s 3).step ≠ 8) ∧
    (∀ n ∈ [1, 2],
      let s := { reading (.cmd 5 0) .xfer 0 { xfer := some 3 } with reads := [(3, { own := .cmd 5 0, sid := 9, st := .xfer, step := 8, soft := n })] }
      (nextBurst s 0).isSome = true ∧ hasRd s 3 = true ∧ (getRd s 3).step = 8 ∧ (getRd s 3).soft = n) ∧
    (let s := { recast { dest := some 7, copyPh := 4 } with dies := [(1, { used := true, op := .copyLoad 3, bursts := 63 })] }
     (nextBurst s 0).map (·.2.2) = some 1 ∧ (getDie s 1).op = .copyLoad 3 ∧ iccqFor s 0 = true) ∧
    (let s := { recast { dest := some 7, copyPh := 1 } with dies := [(1, { used := true, op := .copyXfer 3, bursts := 62 })] }
     (nextBurst s 0).map (·.2.2) = some 1 ∧ (getDie s 1).op = .copyXfer 3 ∧ (getDie s 1).bursts + 1 < 64) ∧
    (let s := dieAt .granted { op := .load 9, bursts := 64 }
     (getDie s (dk 0 0)).op = .load 9 ∧ loadBursts (getStripe s 9) = 64 ∧ commStripe s (getStripe s 9) = true ∧
       (getChan s 0).retrain = false) ∧
    (let s := { recast { dest := some 7, copyPh := 4 } with dies := [(1, { used := true, op := .copyLoad 3, bursts := 64 })] }
     (getDie s (dk 0 1)).op = .copyLoad 3 ∧ (getRow s (rk 1 3)).dest ≠ none ∧ tokensFor s s.arm.cfg.geom.iProg = true) := by
  decide +kernel

theorem witness_OperationsEnd :
    iccqFor { striped .done with arm := { keyed.arm with cfg := { cfg with dev := { cfg.dev with iccq := 0 } } } } 0 = false ∧
    (∀ pl ∈ [none, some PlJob.page],
      let s := { dieAt .issued { op := .program 9 } with stripes := [(9, { chmask := 7, p := 2, phase := .issued, pl := pl })] }
      twf {} s.chans = true ∧ twf {} s.dies = true ∧ (getChan s 0).retrain = false ∧ iccqFor s 0 = true ∧
       (getDie s 0).op = .program 9 ∧ s.stripes.any (fun kv => kv.1 == 9) = true ∧ setBit (getStripe s 9).ended 0 ≠ 7 ∧
       (getDie s 0).suspWait = false ∧ (getStripe s 9).pl = pl) ∧
    (let s := dieAt .done { op := .erase 3 }
     (getDie s 0).op = .erase 3 ∧
       stillErasing { s with dies := tset {} s.dies 0 { getDie s 0 with op := .idle, kind := 0, resv := false, bursts := 0 } } 0 3 = false) ∧
    (let s := dieAt .done { op := .spare }
     (getDie s 0).op = .spare ∧ (getDie s 0).suspWait = false) ∧
    (let s := { recast { dest := some 7, copyPh := 1 } with dies := [(1, { used := true, op := .copyRead 3 })] }
     (getDie s (dk 0 1)).op = .copyRead 3 ∧ (getRow s (rk 1 3)).copyPh = 1) ∧
    (let s := reading (.cmd 5 0) .array 0 { op := .read 3 }
     (getDie s 0).op = .read 3 ∧ hasRd s 3 = true ∧ (getDie s 0).used = true ∧ (getRd s 3).step ≤ 7) ∧
    (∀ i ∈ [10000, 1],
      let s := { reading (.cmd 5 0) .wait 0 { susp := some (.erase 3), suspWait := true, suspRd := some 3 } with
        arm := { keyed.arm with cfg := { cfg with dev := { cfg.dev with icc := i } } } }
      let d := getDie s 0
      d.suspWait = true ∧ d.suspRd = some 3 ∧ hasRd s 3 = true ∧ (getRd s 3).st = .wait ∧
       tokensFor (setDie s 0 { d with suspWait := false }) s.arm.cfg.geom.iRead = decide (i = 10000)) ∧
    (let s := dieAt .issued { op := .program 9 }
     (getDie s 0).op = .program 9 ∧ (getDie s 0).suspWait = false) := by
  decide +kernel

theorem witness_DecodesAndScrubs :
    (let s := reading (.cmd 5 0) .decode 0 {}
     let r := getRd s 3
     let x := getStripe s 9
     3 ∈ s.sched.hard ∧ r.st = .decode ∧ r.step ≤ 7 ∧ passes269 s r (expectInfo s r % 2 ^ (8 * infoBytes x.fmt)) = true ∧
       hasCmd s 5 = true ∧ (getCmd s 5).rds[0]? = some ⟨0, .media 3⟩ ∧
       passes269 s r ((some (2 ^ 32768)).getD (expectInfo s r) % 2 ^ (8 * infoBytes x.fmt)) = false ∧ rebuildable s r = true ∧
       3 < s.sched.nextRd ∧ ((getCmd s 5).rds.all (fun y => y.st != .lost)) = true) ∧
    (let s := reading .scrub .decode 4 {}
     twf {} s.rows = true ∧ passes269 s (getRd s 3) (expectInfo s (getRd s 3) % 2 ^ (8 * infoBytes 0)) = true ∧ (getStripe s 9).fmt = 0 ∧
     (getRd s 3).own = .scrub ∧ (getRd s 3).sid ≠ 0 ∧ (getRd s 3).step = 0 ∧ 28 < (⟨true, 29, none⟩ : Decoded).bits ∧
       (getRow s (rk 0 0)).st = .bound ∧ (getRow s (rk 0 0)).queue = 0) ∧
    (let s := striped .done
     let x := getStripe s 9
     (9, x) ∈ s.stripes ∧ x.phase = .done ∧ x.t % 16 = s.sched.scrubPass % 16 ∧ (getRow s (rk 0 0)).st = .bound ∧
       2 ∈ chIn x.chmask ∧ unitGone s x 2 = false) := by decide +kernel

theorem witness_RowsRecastAndCollected :
    (let v := getRow (recast {}) (rk 1 3)
     v.nstripe ≠ 0 ∧ v.st = .bound ∧ v.queue = 0) ∧
    (let s := recast { queue := 1 }
     (getRow s (rk 1 3)).queue = 1 ∧ (getRow s (rk 1 3)).missed = false ∧ mediaHeld s = false ∧ deadlineHolds s 1 = true) ∧
    (let s := recast { queue := 1, dest := some 7, copyPh := 2 }
     (copyOrder s 1 3)[(getRow s (rk 1 3)).copyT]? = some 9 ∧ (getRow s (rk 1 3)).copyPh = 2 ∧ (getRow s (rk 1 3)).st = .bound ∧
       (getRow s (rk 1 3)).copyBad = [] ∧ (getRow s (rk 1 3)).copyCh = none) ∧
    (let s := { recast { queue := 1, dest := some 7, copyPh := 4 } with dies := [(1, { used := true, op := .copy 3 })] }
     let d := getDie s (dk 0 1)
     d.op = .copy 3 ∧ d.suspWait = false ∧ (getRow s (rk 1 3)).copyPh = 4 ∧ (getRow s (rk 1 3)).copyCh = none ∧
       (getChan s 0).retrain = false ∧ iccqFor s 0 = true ∧ flushing s = false ∧
       copying (setDie s (dk 0 1) { d with op := .idle, kind := 0, resv := false, bursts := 0 }) 1 3 = false ∧
       (getRow s (rk 1 3)).dest = some 7 ∧ (freeSpares s d).head? = some 0) ∧
    (∀ n ∈ [([] : List (Nat × Rd)), [(3, { sid := 9, rank := 1, st := .array })]],
      let s := { recast { queue := 1, dest := some 7, copied := 1, swapJ := true } with reads := n }
      let v := getRow s (rk 1 3)
      v.st = .bound ∧ v.dest = some 7 ∧ v.copied = (presentStripes s 1 3).length ∧ v.swapJ = true ∧ v.cols = [] ∧
       (∀ i ∈ stripesOfRow s 1 3, (getStripe s i).phase ≠ .granted ∧ (getStripe s i).phase ≠ .issued) ∧
       issuedReads s 1 3 = n.map (·.1)) ∧
    (let s := { keyed with nowUs := 50000 }
     (getNs s 1).live = true ∧ zonedAt s 1 = false ∧ (getNch s 0).lastIoUs + 50000 ≤ s.nowUs ∧
       fineFree s 1 < 2 * gcLevel s 1) ∧
    (let s := { stored 7 with rows := [(rk 0 0, { st := .bound, slot := 1, chmask := 7, p := 2, d := 1 })], niches := [(0, { bgGc := true })] }
     (fgMode s 1 || bgMode s 1) = true ∧
     collecting s 1 = some (rk 0 0) ∧ validIn s 0 0 = lk 1 0 :: [] ∧ (validIn s 0 0).length ≤ gcRoom s 1 ∧ s.reads = [] ∧
       (allocate (setRow s 0 { getRow s 0 with victim := some 1 }) 0 3 (gcOwner 1) false none).2.isSome = true) ∧
    (let s := { keyed with rows := [(rk 0 1, { st := .bound, slot := 1, victim := some 0 })] }
     fineHeld s 1 = rk 0 1 :: [] ∧ (getRow s (rk 0 1)).victim.isSome = true ∧ s.reads = [] ∧ s.plinth.jrnl = 0 ∧
       validIn s 0 1 = [] ∧ (getRow s (rk 0 1)).dest = none ∧ stripesOfRow s 0 1 = []) := by decide +kernel

/-- A program of the Plinth, of job `j`, whose last die has ended. -/
def plinthEnd (j : PlJob) : State :=
  { plinthJob j with
    stripes := [(9, { chmask := 1, phase := .issued, pl := some j })]
    plinth := { keyed.plinth with jrnl := 1, taken := [(9, {}, 1)] }
    pat := { keyed.pat with taken := some {} }
    dies := [(0, { used := true, op := .program 9 })] }

theorem witness_RecordsReachThePlinth :
    keyed.plinth.mounted = true ∧ State.reset.plinth.mounted = false ∧ nicheValid keyed 0 = true ∧
      pageOn { keyed with plinth := { keyed.plinth with jrnl := 1 } } = false ∧ keyed.glb.released = true ∧
      keyed.boot.maquette = false ∧ keyed.arm.mirror ≠ some keyed.arm.seq ∧
      (let u := addJob { keyed with boot := { phase := .flushing } } (.checkpoint 0)
       startsHeld u = true) ∧
      (∀ j ∈ [PlJob.page, .checkpoint 0, .patina, .mirror],
        let s := { plinthJob j with plinth := { keyed.plinth with jrnl := if j = .page then 1 else 0 } }
        let u := addJob s j
        startsHeld u = false ∧ (plinthRanks s).1 = 0 ∧ (chooseWork u 0).map (·.1) = some (.plinth j) ∧
          (plinthNext u 0).isSome = true ∧ twf {} s.dies = true) ∧
      (∀ j ∈ [PlJob.page, .checkpoint 0, .patina, .mirror],
        let s := plinthEnd j
        (getChan s 0).retrain = false ∧ iccqFor s 0 = true ∧ (getDie s 0).op = .program 9 ∧ (getDie s 0).suspWait = false ∧
          (getStripe s 9).pl = some j ∧ setBit (getStripe s 9).ended 0 = (getStripe s 9).chmask ∧ s.reads = [] ∧
          s.plinth.taken.find? (fun e => e.1 == 9) = some (9, {}, 1) ∧ s.cmds = []) := by decide +kernel

def aPage : DiePage := ⟨true, true, 4, 16, 1728, 200, true, 256⟩

theorem witness_ChannelsTrainAndStepDown_enumeration :
    let s := { media with boot := { media.boot with phase := .mount }, chans := [], pm := { media.pm with domChg := 255 } }
    s.boot.phase = .mount ∧ chanOn s 31 = true ∧ (getChan s 31).state ≠ 2 ∧ (getChan s 31).state ≠ 3 ∧
      bitOf s.arm.cfg.rankEn 1 = true ∧
      (∀ k, k < 32 → bitOf s.arm.cfg.rankEn k = true →
        pageFits s ([aPage, aPage].getD k ⟨false, false, 0, 0, 0, 0, false, 0⟩) = true) ∧
      rateSteps s = [1600, 1200, 800] := by decide +kernel

/-- Channel 31 in the state `v`, its domain powered. -/
def chanAt (v : Chan) : State :=
  { media with chans := [(31, { v with state := 2, rate := 2400 })], pm := { media.pm with domChg := 255 } }

theorem witness_ChannelsTrainAndStepDown :
    (let s := chanAt { presets := [2000] }
     let v := getChan s 31
     slotFor s 31 7 = true ∧ v.stepPend = false ∧ v.presets = [2000] ∧ v.making = false) ∧
    (let s := chanAt { presets := [2000], stepPend := true }
     let v := getChan s 31
     v.stepPend = true ∧ v.retrain = false ∧ gapNow s 31 = true ∧ quickEarly s v = false ∧ v.presets = [2000] ∧
       v.making = false ∧ mayRetrain s 31 = true) ∧
    (let s := chanAt { stepPend := true }
     gapNow s 31 = true ∧ (getChan s 31).presets = []) ∧
    (let s := { chanAt { stepPend := true } with boot := { phase := .flushing } }
     mayRetrain s 31 = false) ∧
    (∀ l ∈ [[2000], [2000, 1600]],
      let s := chanAt { presets := l, retrain := true, target := 2000 }
      let v := getChan s 31
      v.retrain = true ∧ v.full = false ∧ v.target < v.rate ∧ quickEarly s v = false ∧ v.presets = [v.target] ++ l.drop 1) ∧
    (let s := chanAt { presets := [2000], retrain := true, target := 2400 }
     (getChan s 31).target = (getChan s 31).rate) ∧
    (∀ r ∈ [800, 1600],
      let s := chanAt { retrain := true, full := true, target := r }
      (getChan s 31).full = true ∧ stepsBelow s (getChan s 31).target = if r = 800 then [] else [1200, 800]) ∧
    (let s := { media with chans := [(28, { state := 3 }), (29, { state := 3 }), (30, { state := 3 }), (31, { state := 3 })]
                           pm := { media.pm with domChg := 255 } }
     (∀ j, j < 4 → (getChan s (4 * 7 + j)).state = 3) ∧ s.pm.ps < 3 ∧ bitOf s.pm.domChg 7 = true) := by decide +kernel

/-! ### Admin commands -/

/-- The admin commands' common premises. -/
theorem witness_admin :
    adminServed keyed 0 = true ∧ keyed.boot.romRec = false ∧ keyed.boot.maquette = false ∧ isPf0 0 = true ∧
      myNiche keyed 0 = 0 ∧ (nicheCfg keyed 0).commOk = true := by decide +kernel

theorem witness_AdminCommandsBeginAndEnd :
    (getSq keyed (qk 0 0)).size ≠ 0 ∧
    (let s := landed keyed 0 1 (ioC .read 0 0)
     adminServed s 0 = true ∧ abortsOut s 0 < 8 ∧ findCmd s 1 7 = none ∧ (getSq (adminFetch s 0) 1).live = true ∧
       (getSq (adminFetch s 0) 1).staged = ioC .read 0 0 :: [] ∧ (ioC .read 0 0).cid = 7) ∧
    ((getCtrl keyed 0).aers.length < 8 ∧ (getCtrl keyed 0).evs = []) ∧
    (let s := { keyed with sqs := [(0, { live := true, size := 16 }), (1, { live := true, size := 16, del := some 9 })] }
     (getSq s 1).del = some 9 ∧ startedOf s 1 = [] ∧ (getSq s 1).inflight = 0 ∧ (getSq s 1).frz = none ∧
       (getSq s 1).thaw = none) ∧
    (let s := { keyed with sqs := [(0, { live := true, size := 16 })
                                  , (1, { live := true, size := 16, thaw := some 9, frz := some { logged := true } })] }
     (getSq s 1).thaw = some 9 ∧ (getSq s 1).frz = some { logged := true } ∧ (({} : Frz).held = none) ∧ startedOf s 1 = [] ∧ (getSq s 1).del = none) ∧
    (let s := { keyed with sqs := [(0, { live := true, size := 16 }), (1, { live := true, size := 16, frz := some {} })] }
     adminServed s 0 = true ∧ (getSq (adminFetch s 0) 1).frz.isSome = true ∧ (getSq (adminFetch s 0) 1).thaw = none) := by
  decide +kernel

theorem witness_QueuesManaged :
    (getCtrl keyed 0).allot = 8 ∧ (getCq keyed (qk 0 8)).live = false ∧ (nicheCfg keyed 0).vecs = 8 ∧
      (getSq (adminFetch keyed 0) (qk 0 8)).live = false ∧ (getCq keyed (qk 0 1)).live = true ∧
      (getSq (adminFetch keyed 0) (qk 0 1)).live = true ∧ (getSq (adminFetch keyed 0) (qk 0 1)).del = none ∧
      (getSq (adminFetch keyed 0) (qk 0 1)).comm = none ∧ (nicheCfg keyed 0).urgentOk = true ∧
      keyed.zones.all (fun kv => !kv.2.finPend) = true ∧
    (let s := { keyed with sqs := [(0, { live := true, size := 16 })], cqs := [(0, { live := true, size := 16 })] }
     adminServed s 0 = true ∧ (∀ kv ∈ (adminFetch s 0).sqs, kv.2.cqid ≠ 1) ∧
       (∀ kv ∈ (adminFetch s 0).sqs, kv.1 / 65536 = 0 → kv.1 % 65536 = 0) ∧
       (∀ kv ∈ s.cqs, kv.1 / 65536 = 0 → kv.1 % 65536 = 0) ∧
       (nicheCfg s 0).qcount - sumBy (fun d => (getCtrl s d).allot) ((ctrlsOf s 0).filter (fun d => d != 0)) = 64) := by
  decide +kernel

theorem witness_FeaturesSet :
    degraded keyed = false ∧ ctlMet (adminFetch keyed 0) 0 256 = true ∧ isPf0 1 = false ∧
    (let s := { keyed with hold := { keyed.hold with reasons := 2 } }
     adminServed s 0 = true ∧ degraded s = true) ∧
    (∀ b, b < 32 → bitOf 0x0800030F b = true → b ∈ [0, 1, 2, 3, 8, 9, 27]) ∧
    keyed.hold.run = false ∧ liveComms keyed = [] ∧ entryBarred keyed = false ∧ keyed.pm.entry = .none ∧
    keyed.pm.ps < 3 ∧ keyed.hold.testing = false := by decide +kernel

/-- `keyed` with a second niche, on ranks 2 and 3, bound to VF 1 of port 0. -/
def twoNiches : State :=
  { keyed with
    arm := { keyed.arm with cfg := { cfg with
      rankEn := 15
      niches := [niche0, { niche0 with rankSet := 12, fn0 := 1, keyMask := 0 }] } }
    niches := [(1, { istat := 1, hostWritten := 5 })] }

/-- `twoNiches` with VF 1 enabled and its controller ready. -/
def vfUp : State :=
  { twoNiches with
    ports := [(0, { gen := 5, width := 8, dlup := true, vfOn := true, numVfs := 1 })]
    ctrls := twoNiches.ctrls ++ [(1, { en := true, rdy := true })] }

theorem witness_ReportsReturn_identify :
    adminServed vfUp 0 = true ∧ vfUp.boot.romRec = false ∧ ctlMet (adminFetch vfUp 0) 0 4096 = true ∧
      (let f := adminFetch vfUp 0
       myNiche f 0 = 0 ∧ fnExists f 1 = true ∧ binds f 0 1 = false ∧ binds f 0 0 = true ∧ slotOf f 0 3 = none ∧
         slotOf f 0 1 = some 0 ∧ (getNs f 0).attached.contains 0 = true ∧ zonedAt f 0 = true) ∧
      (let f := adminFetch { vfUp with ns := [(0, { live := true, attr := slotZ })] } 0
       slotOf f 0 1 = some 0 ∧ (getNs f 0).attached.contains 0 = false) := by decide +kernel

theorem witness_ReportsReturn_log :
    (let f := adminFetch vfUp 0
     ctlMet f 0 65536 = true ∧ slotOf f 0 1 = some 0 ∧ zonedAt f 0 = true ∧ slotOf f 0 2 = some 1 ∧ zonedAt f 1 = false ∧ slotOf f 0 3 = none) ∧
    (adminServed { vfUp with sqs := [(qk 1 0, { live := true, size := 16 })], cqs := [(qk 1 0, { live := true, size := 16 })] } 1 = true ∧
       isPf0 1 = false ∧ myNiche vfUp 1 = 1) := by decide +kernel

def aDesc : CommDesc := { nsid := 1, rate := 1, burst := 512, prio := 0, zconc := 1, nsq := 1, rdecl := 0, tag := 0, sqs := [(1, 0)] }

/-- `keyed` with a healthy bank and pools for one commission. -/
def banked : State :=
  { keyed with
    board := { keyed.board with straps := ⟨0, 0, 0, 1, 0, 0⟩ }
    arm := { keyed.arm with cfg := { cfg with niches := [{ niche0 with pools := [512, 512, 512, 512, 512] }]
                                              dev := { cfg.dev with huCap := 60000, brace := 500 } } }
    hold := { keyed.hold with cmeas := 60000, huv := 30000 } }

theorem witness_CommissionsManaged :
    let g := ctlServed (adminFetch banked 0) 0 128
    adminServed banked 0 = true ∧ openBarred banked = false ∧ ctlMet (adminFetch banked 0) 0 128 = true ∧
      rangesOk aDesc.rate aDesc.burst aDesc.prio aDesc.zconc aDesc.rdecl = true ∧ slotOf banked 0 1 = some 0 ∧
      zonedAt banked 0 = true ∧ (∀ x ∈ aDesc.sqs, binds banked 0 x.2 = true) ∧ aDesc.rsv = 0 ∧ aDesc.sqs.length = aDesc.nsq ∧
      (∀ k ∈ descKeys aDesc, bindable g k = true) ∧ (descKeys aDesc).eraseDups = descKeys aDesc ∧
      freeIndex g 0 = some 0 ∧ (liveOf g 0).length < (nicheCfg banked 0).maxComm ∧ g.comms = [] ∧
      zconcOn g 0 none + 1 ≤ (getNs banked 0).attr.maxOpen ∧
      admitCheck g (askCharge g 0 0 0 1 0 512 1) 512 1 none = none := by decide +kernel

/-- `banked` with `aDesc` opened as commission 0. -/
def opened : State := match exec (.commissionOpen 0 9 false 0 aDesc) banked with | .next t => t | _ => banked

theorem witness_CommissionsManaged_modify :
    adminServed opened 0 = true ∧ handleNiche 0 = 0 ∧ (getComm opened 0).used = true ∧ commLive (getComm opened 0) = true ∧
      rangesOk 1 512 1 1 0 = true ∧ zconcOn opened 0 (some 0) + 1 ≤ (getNs opened 0).attr.maxOpen ∧
      admitCheck (adminFetch opened 0) (askCharge (adminFetch opened 0) 0 (getComm opened 0).port (getComm opened 0).slot 1 0 512 1)
        512 1 (some (0, fullCharge (adminFetch opened 0) 0)) = none := by decide +kernel

/-! ### Namespaces, firmware, keys, federation -/

theorem witness_NamespacesManaged :
    (createFmt keyed (slotCfg keyed 2) 0 = some 0 ∧
      ((freeSlots keyed 0 0).filter (fun j => (createFmt keyed (slotCfg keyed j) 0).isSome)).head? = some 2 ∧
      keySlots (slotCfg keyed 2) = [0] ∧ canGenerate keyed = true ∧ sanStatus keyed 0 = none ∧
      sourceRestarts keyed (freeSlots keyed 0 0) = false ∧ ctlMet (adminFetch keyed 0) 0 4096 = true) ∧
    (slotOf keyed 0 2 = some 1 ∧ liveOn keyed 1 = [] ∧ (2:Nat) ≠ 0xFFFFFFFF ∧ nsBusy keyed 1 = false ∧ twf {} keyed.ns = true) ∧
    (let s := { keyed with ns := [(0, { live := true, attr := slotZ, attached := [0] }), (1, { live := true, attr := slotC })] }
     adminServed s 0 = true ∧ slotOf s 0 2 = some 1 ∧ binds s 0 0 = true ∧ attachable s 1 = true ∧
       (getNs s 1).attached.contains 0 = false) ∧
    (fmtOk keyed (slotCfg keyed 1).lbafMask (16 % 16) = true ∧ (getNs keyed 1).live = true) := by decide +kernel

theorem witness_SanitizeRuns :
    liveOf keyed 0 = [] ∧ (∀ kv ∈ keyed.cmds, kv.2.phase ≠ .started) ∧ (getNch keyed 0).san = .none ∧ canGenerate keyed = true ∧
      twf {} keyed.niches = true ∧ 1 ∈ nsOfNiche keyed 0 ∧
      sourceRestarts keyed ((sanNiches keyed 0).flatMap (slotsOf keyed)) = false ∧
    (let s := { keyed with niches := [(0, { san := .failed })] }
     adminServed s 0 = true ∧ liveOf s 0 = [] ∧ (getNch s 0).san = .failed) ∧
    (let s := { keyed with niches := [(0, { san := .block })] }
     (getNch s 0).san = .block ∧ rowsLeft s 0 = false) ∧
    (getNch { keyed with niches := [(0, { san := .crypto })] } 0).san = .crypto := by decide +kernel

/-- The SHA-384 hash of the public key that `fwFlash` and `armBytes` carry: the base point, of private key 1. -/
def ownHash : Nat := 0xa19d4db171b582eb8052b0cfe555e17894aa22d1c8a9770950697dd8f796d2fa4bf0a56ad80006b7ea08e1191f814b65

/-- Straps aside, a chip of two ranks in production with that hash in its fuses (R43, R47, R375). -/
def fuses1 : Fuses := { rankEn := 3, lifecycle := 3, warn := 75, hot := 85, crit := 95, hashArm0 := ownHash, hashFw0 := ownHash }

def b16 (n : Nat) : List Nat := [n % 256, n / 256]
def b32 (n : Nat) : List Nat := b16 (n % 65536) ++ b16 (n / 65536)
def pad (n : Nat) (l : List Nat) : List Nat := l ++ List.replicate (n - l.length) 0

/-- A signature block of KEY_SEL 0 whose key and R are the base point (R46). -/
def sigBlock (s : Nat) : List Nat :=
  pad 256 (b32 0x4E474953 ++ List.replicate 12 0 ++ beBytes 48 p384gx ++ beBytes 48 p384gy ++ beBytes 48 p384gx ++ beBytes 48 s)

/-- A firmware image of 8 KiB in slot 1, its blocks of 256 bytes that are not erased. -/
def fwFlash : List (Nat × List Nat) :=
  [ (4096, [0x55, 0x4C, 0x46, 0x57, 0, 1, 0, 16, 0, 32, 0, 0, 0, 0] ++ List.replicate 242 0)
  , (4127, sigBlock 0x2aff4194fb4faf73ad1cbe232c8cb07a8dcb1fe43f5fd8031153d433009984c8937e8902e89e4aae7cedd5a0febed3e0) ]

/-- An Armature structure of one niche and one namespace slot with the reference die of R49, in the layout of R40
to R55; its signature block ends it. -/
def armBytes : List Nat :=
  pad 256 (b32 0x52414C55 ++ b16 0x100 ++ b16 256 ++ b32 864 ++ b16 0 ++ b16 0 ++ b32 1 ++ b32 0 ++ b32 0 ++ b32 0 ++
    b32 256 ++ b32 64 ++ b32 320 ++ b32 64 ++ b32 384 ++ b32 32 ++ b32 416 ++ b32 128 ++ b32 544 ++ b32 32 ++
    b32 576 ++ b32 32) ++
  pad 64 (b16 0 ++ b16 500 ++ b16 500) ++
  pad 64 ([4, 16, 4, 3] ++ b16 2304 ++ b16 3648 ++ b16 3200 ++ b16 120 ++ b16 40 ++ b16 250 ++ b16 12000 ++ b16 60 ++
    b16 100 ++ [1, 5] ++ b16 3600 ++ b16 45 ++ b16 35 ++ b16 40 ++ b16 90) ++
  pad 32 (b32 3 ++ b16 32) ++
  pad 128 ([1, 1, 0, 0] ++ b16 0x8000 ++ b16 0 ++ b32 3 ++ b32 0 ++ b16 0 ++ b16 0 ++ b16 1 ++ b16 64 ++ b16 8) ++
  pad 32 ([0x80, 1, 9, 0, 1, 0, 255, 255] ++ b32 4 ++ b16 2 ++ b16 4) ++
  pad 32 [] ++
  sigBlock 0x2fde8d0a9a224a9c437b4d8f19fabdfc2e8ee88f1bc0c4b20734d26ffe3bd02d85bfbd4b352abb7eff00272afaf0ea8e

/-- The boot flash with `fwFlash`'s image in firmware slot 1 and `armBytes` in Armature slot A. -/
@[irreducible] def flash1 : List (Nat × List Nat) := blkWrite 1024 fwFlash 1024 armBytes

def staged8 : State :=
  { keyed with
    boot := { keyed.boot with maquette := true, flash := flash1 }
    board := { keyed.board with fuses := fuses1 } }

/-- The bytes of the image that its signature covers, and the message SHA-384 makes of them. -/
def fwBytes : List Nat :=
  [0x55, 0x4C, 0x46, 0x57, 0, 1, 0, 16, 0, 32, 0, 0, 0, 0] ++ List.replicate 242 0 ++ List.replicate 7680 255
def fwMsg : List Nat := fwBytes ++ [0x80] ++ List.replicate 111 0 ++ beBytes 16 (8 * 7936)

theorem shaBlocks_add (a b : Nat) (x : Sha) (l : List Nat) :
    shaBlocks (a + b) x l = shaBlocks b (shaBlocks a x l) (l.drop (128 * a)) := by
  induction a generalizing l x with
  | zero => simp [shaBlocks]
  | succ n ih =>
    rw [Nat.succ_add, shaBlocks, ih, shaBlocks, List.drop_drop]
    congr 2
    omega

/-- The hash state after eight blocks more, seven times, and after the last seven: each part is checked by itself. -/
def fwSha : List Sha :=
  [ shaStart
  , ⟨0x47b13f876986ab30, 0xc39b8524ef801949, 0x11a71884b8188228, 0x306db2bb9c96984, 0x6ddc17ea7fac9679, 0x6872aabaa9964681, 0x71147863658b57d1, 0x81ad1b4ddc471e49⟩
  , ⟨0xb015139cf24e957c, 0xee3a45a29bcc4ead, 0x6df721be4620deef, 0xa8284c037a33f4ac, 0xde39f2c47881f7d4, 0x4c853418a5b2b9f4, 0x3e55d0c07cb2618f, 0xfd6af51d0f0b1ef3⟩
  , ⟨0x178e7c7c8e8f8bb, 0x2a2351bd403c4e5f, 0xa469d57f36793a55, 0x3e49a7156da632f8, 0x501adeb1dd261409, 0xd147db66a115f600, 0x9540a6995acc9851, 0x2a82efca44f75378⟩
  , ⟨0xb349624cd755abbf, 0x57abda91d0c60f29, 0x2d992f9b237b1b8b, 0xba6046b4b999e76b, 0x3399a41260f1bed4, 0xc911f49899cf194f, 0xea7429c8dad4efa2, 0xa88120cf8631a8e2⟩
  , ⟨0xb6fde6b7aa1a71b0, 0xaeb5b4ffd2f79f14, 0x7c67249df225cb90, 0xcf82c7a9bb512561, 0x536310dd5822a6a3, 0x3fcf0824f6cf4274, 0xc00cacb6abcf74c2, 0xb15c81dbfb831d0a⟩
  , ⟨0xd4bbc22ff8477376, 0x21337ea6b84901a8, 0x9cac5ae51ff8f040, 0xfae1d92defad9fa, 0x2627808e4ff8278, 0x66c3b2e9da4a1c2d, 0x1d583ff5f698b43f, 0x1f138f20b76a2036⟩
  , ⟨0x5be14c7ebd861acb, 0xadf1659f1003c708, 0x965b85380401cf29, 0xa532c26bc08ed979, 0x2115ba54a534a808, 0x8e5f7889296a88fe, 0x16b6f09145d54e48, 0xf4a70f002373daa7⟩ ]
def fwShaAt (i : Nat) : Sha := fwSha.getD i shaStart

theorem fwSha_0 : shaBlocks 8 (fwShaAt 0) (fwMsg.drop 0) = fwShaAt 1 := by decide +kernel
theorem fwSha_1 : shaBlocks 8 (fwShaAt 1) (fwMsg.drop 1024) = fwShaAt 2 := by decide +kernel
theorem fwSha_2 : shaBlocks 8 (fwShaAt 2) (fwMsg.drop 2048) = fwShaAt 3 := by decide +kernel
theorem fwSha_3 : shaBlocks 8 (fwShaAt 3) (fwMsg.drop 3072) = fwShaAt 4 := by decide +kernel
theorem fwSha_4 : shaBlocks 8 (fwShaAt 4) (fwMsg.drop 4096) = fwShaAt 5 := by decide +kernel
theorem fwSha_5 : shaBlocks 8 (fwShaAt 5) (fwMsg.drop 5120) = fwShaAt 6 := by decide +kernel
theorem fwSha_6 : shaBlocks 8 (fwShaAt 6) (fwMsg.drop 6144) = fwShaAt 7 := by decide +kernel
theorem fwSha_7 : let x := shaBlocks 7 (fwShaAt 7) (fwMsg.drop 7168)
    beNum (beBytes 8 x.a ++ beBytes 8 x.b ++ beBytes 8 x.c ++ beBytes 8 x.d ++ beBytes 8 x.e ++ beBytes 8 x.f) =
      0x807777723cc4aa3c1e6af704396c03061fade481b3b83c6a7ebfdfd4727c886f9695a45771f9c8bd2f8590d3590df29c := by decide +kernel

theorem fwSha_all : shaBlocks 63 shaStart fwMsg = shaBlocks 7 (fwShaAt 7) (fwMsg.drop 7168) := by
  have h (i m : Nat) : shaBlocks (8 + m) (fwShaAt i) (fwMsg.drop (1024 * i)) =
      shaBlocks m (shaBlocks 8 (fwShaAt i) (fwMsg.drop (1024 * i))) (fwMsg.drop (1024 * (i + 1))) := by
    rw [shaBlocks_add, List.drop_drop, Nat.mul_add]
  have e : shaBlocks 63 shaStart fwMsg = shaBlocks (8 + 55) (fwShaAt 0) (fwMsg.drop (1024 * 0)) := rfl
  rw [e, h, fwSha_0, h 1 47, fwSha_1, h 2 39, fwSha_2, h 3 31, fwSha_3, h 4 23, fwSha_4, h 5 15, fwSha_5, h 6 7, fwSha_6]

theorem fwBytes_sha : sha384 fwBytes =
    0x807777723cc4aa3c1e6af704396c03061fade481b3b83c6a7ebfdfd4727c886f9695a45771f9c8bd2f8590d3590df29c := by
  have l : fwBytes.length = 7936 := by decide +kernel
  have n : fwMsg.length / 128 = 63 := by decide +kernel
  have m : fwBytes ++ [0x80] ++ List.replicate ((128 - (7936 + 17) % 128) % 128) 0 ++ beBytes 16 (8 * 7936) = fwMsg := rfl
  have e := fwSha_7
  unfold sha384
  simp only [l, m, n, fwSha_all]
  exact e

/-- The image of slot 1, and its blocks of 256 bytes one by one. -/
def img1 : Img := fun a => blkByte flash1 (fwBase 1 + a)

theorem imgBytes_add (m : Img) (a n k : Nat) : imgBytes m a (n + k) = imgBytes m a n ++ imgBytes m (a + n) k := by
  unfold imgBytes
  rw [List.range_add, List.map_append, List.map_map]
  congr 1
  exact List.map_congr_left (fun j _ => by simp [Nat.add_assoc])

theorem img1_head : imgBytes img1 0 256 = fwBytes.take 256 := by decide +kernel
theorem img1_tail : (List.range 30).all (fun i => imgBytes img1 (256 + 256 * i) 256 == List.replicate 256 255) = true := by
  decide +kernel

theorem img1_rest (k : Nat) (h : k ≤ 30) : imgBytes img1 256 (256 * k) = List.replicate (256 * k) 255 := by
  induction k with
  | zero => rfl
  | succ n ih =>
    have t := List.all_eq_true.mp img1_tail n (List.mem_range.mpr (by omega))
    rw [Nat.mul_succ, imgBytes_add, ih (by omega), eq_of_beq t, List.replicate_append_replicate]

theorem img1_bytes : imgBytes img1 0 7936 = fwBytes := by
  have r : imgBytes img1 256 7680 = List.replicate 7680 255 := img1_rest 30 (by omega)
  have h : imgBytes img1 0 256 = [0x55, 0x4C, 0x46, 0x57, 0, 1, 0, 16, 0, 32, 0, 0, 0, 0] ++ List.replicate 242 0 := by
    rw [img1_head]
    decide +kernel
  have e : imgBytes img1 0 7936 = imgBytes img1 0 256 ++ imgBytes img1 (0 + 256) 7680 := imgBytes_add img1 0 256 7680
  rw [e, Nat.zero_add, r, h, fwBytes]

/-- The image in slot 1 passes the checks of R379, its key hash and its signature among them. -/
theorem flash1_passes : fwCheck img1 fuses1 fuses1.fwFloor = 0 := by
  have h1 : fwCheck1 img1 = true := by decide +kernel
  have o : u32 img1 8 - 256 = 7936 := by decide +kernel
  have h2 : sigFault img1 7936 fuses1.hashFw0 fuses1.hashFw1 = none := by decide +kernel
  have h3 : sigVerifies img1 7936 = true := by
    simp only [sigVerifies]
    rw [img1_bytes, fwBytes_sha]
    decide +kernel
  have h4 : img1 0xD = fuses1.member := by decide +kernel
  unfold fwCheck
  rw [o, h1, h2, h3]
  simp only [Bool.not_true, Option.isSome_none, h4]
  decide +kernel

theorem fwCheck_flash1 (s : State) (h : s.boot.flash = flash1) (k : s.board.fuses = fuses1) :
    fwCheck (fwImg s 1) s.board.fuses s.board.fuses.fwFloor = 0 := by
  have e : fwImg s 1 = img1 := by unfold fwImg img1; rw [h]
  rw [e, k, flash1_passes]

theorem witness_FirmwareManaged_commit : commitCheck staged8 (fwImg staged8 1) false = none := by
  unfold commitCheck
  rw [fwCheck_flash1 staged8 rfl rfl]
  rfl

theorem witness_FirmwareManaged :
    adminServed staged8 0 = true ∧ isPf0 0 = true ∧ sanStatus staged8 0 = none ∧
      liveComms staged8 = [] ∧ staged8.boot.activation = none ∧ (List.replicate 4096 0).length % 4096 = 0 ∧
      ctlMet (adminFetch staged8 0) 0 4096 = true ∧
    (let s := { keyed with boot := { keyed.boot with activation := some (0, 7, 2) } }
     s.boot.activation = some (0, 7, 2) ∧ anyStarted s = false) ∧
    (let s := { writing with boot := { keyed.boot with activation := some (0, 7, 2) } }
     anyStarted s = true) := by decide +kernel

def patch1 : PatchRec := { section_ := 6, index := 0, field := 1, rsv := 0, value := 1 }

theorem witness_ArmatureStaged :
    keyed.arm.src ≠ 1 ∧ keyed.arm.stage = none ∧ ctlMet (adminFetch keyed 0) 0 65536 = true ∧ ctlMet (adminFetch keyed 0) 0 8 = true ∧
      (validateArm (armImg keyed 1) keyed.board.fuses keyed.board.straps keyed.board.fuses.armEpoch (runVec keyed) none).code ≠ 0 ∧ cfg.dev.cable = 0 ∧ badPatch keyed.board.fuses keyed.arm.cfg 0 [patch1] = none := by decide +kernel

/-- Two halves of an XTS key, wrapped under the import key of slot 0 in niche 0 with E the base point (R315, R316). -/
def halves : Nat := 1 + 2 ^ 257
def wrapped0 : Nat := 187596104005184224233167126073220729316346521726723214250870339259092110664726674100531619628382094317663549745307752191584202826271876121533788110115921961504590680793333811

theorem wrapped0_unwraps : importUnwrap (importKey keyed 0 0 p384gx p384gy) 0 wrapped0 = some halves := by decide +kernel

theorem witness_KeysAndEntropy_import :
    (let s := { keyed with ns := [(0, { live := true, attr := slotZ, attached := [0] }), (2, { live := true, attr := slotE })] }
     adminServed s 0 = true ∧ ctlMet (adminFetch s 0) 0 168 = true ∧ bitOf (nicheCfg s (myNiche s 0)).keyMask 0 = true ∧ namedBy s 0 0 = some 2 ∧
       nsBusy s 2 = false ∧ lockAvail s (myNiche s 0) = true ∧ holdsData s 2 = false ∧ s.board.fuses.lifecycle ≠ 7 ∧
       onCurve p384gx p384gy = true ∧ halves % 2 ^ 256 ≠ halves >>> 256) ∧
    (let s := { keyed with
       ns := [(0, { live := true, attr := slotZ, attached := [0] }), (2, { live := true, attr := slotE })]
       cmds := [(5, { sq := 1, io := { op := .read, cid := 7, nsid := 3 }, phase := .started, slot := 2 })] }
     adminServed s 0 = true ∧ nsBusy s 2 = true ∧ namedBy s 0 0 = some 2 ∧ ctlMet (adminFetch s 0) 0 168 = true) := by
  decide +kernel

theorem witness_KeysAndEntropy :
    (∀ v ∈ [1, 3],
      let s := { keyed with
        cipher := { keyed.cipher with trng := v, tkBusy := true, tkSel := if v = 1 then 9 else 0
                                      engs := [{ blocks := 65536 }] }
        pm := { domXcr := true }, nowUs := 1000000 }
      s.cipher.drbg = 1 ∧ s.cipher.seedSrc = false ∧ s.cipher.trng = v ∧ reseedDue s = true ∧ s.pm.domXcr = true ∧
        65536 ≤ (s.cipher.engs.getD 0 {}).blocks ∧ twf {} s.cipher.keys = true ∧ running s = true ∧ s.cipher.trngFails < 2 ∧
        s.cipher.tkBusy = true ∧ nicheValid s s.cipher.tkSel = decide (v = 3)) ∧
    reseedDue keyed = false ∧
    (let s := { keyed with cipher := { keyed.cipher with trng := 2, trngFails := 2 } }
     running s = true ∧ s.cipher.trng ≠ 1 ∧ s.cipher.trng ≠ 3 ∧ 2 ≤ s.cipher.trngFails) := by decide +kernel

def frame1 : FedFrame :=
  sealFrame { ver := 1, trace := true, tkv := false, rsv := 0, hop := 1, out := 1, pid := 2, cdly := 3, time := 5000000
              tkid := 0, tkkind := 0, tkrep := 0, crc := 0 }

/-- `keyed` as a device of the federation, in the mode its strap gives. -/
def inFed (mode : Nat) : State :=
  { keyed with
    board := { keyed.board with straps := ⟨0, 0, 0, 1, mode, 0⟩ }
    fed := { unit := true, locked := true, lastEdge := 0, spacing := 1000000 } }

theorem witness_FederationKeepsTime :
    ((inFed 1).fed.unit = true ∧ (inFed 1).fed.locked = true ∧ (inFed 1).fed.ovf = false ∧ fedMode (inFed 1) = 1 ∧
      goodFrame frame1 = true ∧ frame1.tkv = false ∧ 2 * frame1.pid + 1 + frame1.out ≤ 8190 ∧
      expected (inFed 1) ≤ 999960 + 40 ∧ 999960 ≤ expected (inFed 1) + 40 ∧
      goodFrame { frame1 with crc := frame1.crc ^^^ 1 } = false ∧ (inFed 1).fed.badFwd = false) ∧
    ((5000403 : Int) - (((inFed 1).fed.time : Nat) : Int)).natAbs > 1000 ∧
    (let s := { inFed 1 with fed := { (inFed 1).fed with time := 5000403 + 1000 } }
     ((5000403 : Int) - ((s.fed.time : Nat) : Int)).natAbs = 1000 ∧ s.fed.unit = true ∧ s.fed.locked = true) ∧
    (let s := { inFed 1 with fed := { (inFed 1).fed with missRun := 3 } }
     4 ≤ s.fed.missRun + 1 ∧ s.fed.locked = true ∧ s.fed.badFwd = false) ∧
    (let s := inFed 2
     s.fed.unit = true ∧ s.fed.locked = true ∧ fedMode s = 2 ∧ s.fed.ovf = false ∧ s.fed.setT = [] ∧
       s.fed.wait = none ∧ s.fed.rep = none ∧ s.fed.nextAt ≤ s.fed.time ∧ fedTraced s = true ∧
       adminServed s 0 = true) := by decide +kernel

/-! ### The host's registers, resets and ports -/

def cqe1 : Cqe := { sq := 1, cid := 7, status := .success, sqhd := 0, dnr := false }

/-- `keyed` with one entry in the completion queue 1. -/
def ringed : State :=
  { keyed with cqs := [(0, { live := true, size := 16, ien := true }), (1, { live := true, size := 16, tail := 1, ring := [cqe1] })] }

/-- `ringed` in power state 3, with the crypto domain off. -/
def ringedPs3 : State := { ringed with pm := { ps := 3 } }

/-- A doorbell wakes the device from PS3, and ends an entry; from PS4 it absorbs one until the device is awake. -/
theorem witness_DoorbellsMoveQueues_asleep :
    hostCan ringedPs3 0 = true ∧ absorbs (reached ringedPs3 (portOf 0)) = false ∧ ¬ Awake ringedPs3 ∧
      (reached ringedPs3 (portOf 0)).pm.entry = .none ∧ ringedPs3.pm.ps = 3 ∧ hostCan State.reset 0 = false ∧
    (let s := { ringed with pm := { entry := .drain3 } }
     hostCan s 0 = true ∧ absorbs (reached s (portOf 0)) = false ∧ ¬ Awake s ∧ (reached s (portOf 0)).pm.entry ≠ .none) ∧
    (let s := { ringed with pm := { ps := 4 } }
     hostCan s 0 = true ∧ absorbs (reached s (portOf 0)) = true) := by unfold Awake; decide +kernel

/-- Each case of a doorbell at the bounds of its queue: the tail at 1, the head at 0, one entry posted. -/
theorem witness_DoorbellsMoveQueues :
    let s := { ringed with sqs := [(0, { live := true, size := 16 }), (1, { live := true, size := 16, cqid := 1, tail := 1, head := 0 })] }
    hostCan s 0 = true ∧ Awake s ∧
    (let x := getSq s (qk 0 1)
     let d := fun v => (v + x.size - x.tail) % x.size + (x.tail + x.size - x.head) % x.size
     x.live = true ∧ ¬ (x.size ≤ d 15) ∧ x.size ≤ d 0 ∧ x.size ≤ 16) ∧
    (let y := getCq s (qk 0 1)
     let used := fun v => (v + y.size - (y.tail + y.size - y.ring.length) % y.size) % y.size
     y.live = true ∧ used 1 ≤ y.ring.length ∧ y.ring.length < used 2 ∧ y.size ≤ 16) ∧
    (getSq s (qk 0 5)).live = false ∧ (getCq s (qk 0 5)).live = false ∧
    (getCtrl s 0).aers = [] ∧ (getCtrl s 0).evs = [] ∧ (getCtrl s 0).waitLog = [] ∧
    (getCtrl { s with ctrls := [(0, { en := true, rdy := true, aers := [9] })] } 0).aers = 9 :: [] := by
  unfold Awake; decide +kernel

theorem witness_ControllersRun :
    hostCan keyed 0 = true ∧ (getCtrl keyed 0).en = true ∧ Awake keyed ∧ NoFlushWaits keyed ∧ NoFinishWaits keyed ∧ twf {} keyed.ctrls = true ∧
    (getCtrl keyed 0).rdy = true ∧ (getCtrl keyed 0).shst = 0 ∧
    (∀ kv ∈ keyed.cmds, ctrlOfSq kv.2.sq = 0 → kv.2.phase ≠ .started) ∧
    (hostCan writing 0 = true ∧ (getCtrl writing 0).rdy = true ∧ (getCtrl writing 0).shst = 0 ∧
      ∃ kv ∈ writing.cmds, ctrlOfSq kv.2.sq = 0 ∧ kv.2.phase = .started) ∧
    (let s := { keyed with ctrls := [] }
     hostCan s 0 = true ∧ (getCtrl s 0).en = false) := by unfold Awake NoFlushWaits NoFinishWaits; decide +kernel

/-- `keyed` with two ports of eight lanes, port 1's link not trained. -/
def twoPorts : State := { keyed with board := { keyed.board with straps := ⟨0, 1, 0, 1, 0, 0⟩ } }

theorem witness_DeviceWarmResets :
    hostCan keyed (0 * 64) = true ∧ keyed.pm.ps < 4 ∧
    (let s := { twoPorts with board := { twoPorts.board with perst0 := true, perst1 := true } }
     s.board.straps.lanes = 1 ∧ s.board.perst0 = true ∧ s.board.perst1 = true ∧ absorbs s = false ∧ s.pm.ps < 4) ∧
    (let s := { keyed with pm := { ps := 4 } }
     hostCan s (0 * 64) = true ∧ s.pm.ps = 4 ∧ s.pm.entry = .none) ∧
    absorbs State.reset = true := by decide +kernel

theorem witness_FunctionAndPortResets :
    Awake keyed ∧ NoFlushWaits keyed ∧ NoFinishWaits keyed ∧ twf {} keyed.ctrls = true ∧ twf {} keyed.ports = true ∧ hostCan keyed 0 = true ∧
      isPf0 0 = true ∧ portPresent keyed 0 = true ∧ absorbs keyed = false ∧
      (∀ kv ∈ keyed.cmds, arrived keyed kv.1 = false) ∧ perstOf keyed 0 = false ∧ (getPort keyed 0).dlup = true ∧
    (let s := { keyed with ports := [(0, { linkDown := true })] }
     absorbs s = false ∧ (getPort s 0).linkDown = true ∧ Awake s ∧ NoFlushWaits s ∧ NoFinishWaits s ∧ twf {} s.ctrls = true ∧ twf {} s.ports = true ∧
       (∀ kv ∈ s.cmds, portOf (ctrlOfSq kv.2.sq) ≠ 0)) := by unfold Awake NoFlushWaits NoFinishWaits; decide +kernel

theorem witness_FunctionAndPortResets_vf :
    Awake vfUp ∧ NoFlushWaits vfUp ∧ NoFinishWaits vfUp ∧ twf {} vfUp.ctrls = true ∧ twf {} vfUp.ports = true ∧ hostCan vfUp 1 = true ∧
      isPf0 1 = false ∧ twf {} vfUp.sqs = true ∧ twf {} vfUp.cmds = true := by
  unfold Awake NoFlushWaits NoFinishWaits; decide +kernel

theorem witness_FeaturesSet_vf :
    (let s := { vfUp with sqs := vfUp.sqs ++ [(65536, { live := true, size := 4 })],
                          cqs := vfUp.cqs ++ [(65536, { live := true, size := 4 })] }
     adminServed s 1 = true ∧ isPf0 1 = false ∧ s.boot.romRec = false) ∧ adminServed keyed 0 = true ∧
      isPf0 0 = true := by decide +kernel

theorem witness_NicheResetAndFunctions :
    adminServed twoNiches 0 = true ∧ nicheValid twoNiches 1 = true ∧ nicheOf twoNiches 0 ≠ some 1 ∧
      liveOf twoNiches 1 = [] ∧ NoFlushWaits twoNiches ∧ NoFinishWaits twoNiches ∧ twf {} twoNiches.ctrls = true ∧
      twf {} twoNiches.niches = true ∧ binds twoNiches 1 1 = true ∧
      hostCan twoNiches (0 * 64) = true ∧ (getPort twoNiches 0).vfOn = false ∧ 1 ≤ totalVfs twoNiches 0 ∧
    (let s := { twoNiches with ports := [(0, { gen := 5, width := 8, dlup := true, vfOn := true, numVfs := 1 })] }
     hostCan s (0 * 64) = true ∧ (getPort s 0).vfOn = true ∧ NoFlushWaits s ∧ NoFinishWaits s ∧ Awake s ∧ twf {} s.ctrls = true) := by
  unfold Awake NoFlushWaits NoFinishWaits; decide +kernel

theorem witness_PortsFollowTheirLinks :
    (absorbs keyed = false ∧ portPresent keyed 0 = true ∧ perstOf keyed 0 = false ∧ (getPort keyed 0).linkDown = false ∧
      keyed.board.straps.gen ≠ 1 ∧ 8 ∈ [1, 2, 4, 8, 16] ∧ 8 ≤ maxWidth keyed ∧ hostCan keyed (0 * 64) = true ∧ Awake keyed) ∧
    (getPort { keyed with ports := [(0, { ptmAsk := true })] } 0).ptmAsk = true ∧
    ((getPort keyed 0).dlup = true ∧ (getPort keyed 0).link = .l0 ∧ (∀ h ∈ liveComms keyed, (getComm keyed h).port ≠ 0)) ∧
    (let s := { keyed with comms := [(0, { used := true, port := 0 })] }
     absorbs s = false ∧ (getPort s 0).dlup = true ∧ (getPort s 0).link = .l0 ∧
       ∃ h ∈ liveComms s, (getComm s h).port = 0) ∧
    (let s := { keyed with ports := [(0, { dlup := true, link := .l12 })] }
     absorbs s = false ∧ (getPort s 0).dlup = true ∧ (getPort s 0).link = .l12 ∧ s.pm.ps ≠ 4) := by unfold Awake; decide +kernel

/-! ### Supply and power loss -/

/-- `banked` in a brace. -/
def braced : State :=
  { banked with
    nowUs := 500
    board := { banked.board with pfail := false, pfailLowUs := 100 }
    hold := { banked.hold with brace := true, braceTimer := true, vin := 12000 } }

def pfailed (s : State) : State := { s with board := { s.board with pfail := true } }

theorem witness_SupplyFailureBraces :
    (pfailed keyed).board.pfail = true ∧
    (∀ ph ∈ [Phase.rco, .rcoFail, .fuse, .fuseHold, .xo, .pll, .islands, .choice, .mount, .ready, .mfg, .resetFlush],
      ({ keyed with boot := { keyed.boot with phase := ph } } : State).board.pfail = false) ∧
    (keyed.board.pfail = false ∧ keyed.boot.phase = .released ∧ keyed.pm.entry = .none ∧ keyed.pm.ps ≠ 4 ∧
      (recentBraces keyed).length < 16 ∧ keyed.hold.brace = false) ∧
    (∀ ph ∈ [Phase.off, .lpo, .rails, .railHold, .railWait],
      ({ keyed with boot := { keyed.boot with phase := ph } } : State).board.pfail = false) ∧
    (let s := { keyed with hold := { keyed.hold with brace := true } }
     s.board.pfail = false ∧ s.boot.phase = .released ∧ s.pm.ps ≠ 4 ∧ (recentBraces s).length < 16 ∧ s.hold.brace = true) ∧
    16 ≤ (recentBraces { keyed with hold := { keyed.hold with recovered := List.replicate 16 0 } }).length ∧
    ({ keyed with pm := { ps := 4 } } : State).pm.entry = .none := by decide +kernel

theorem witness_BraceEndsOrFlushes :
    (braced.hold.brace = true ∧ braced.board.pfail = false ∧ braced.board.pfailLowUs + 100 ≤ braced.nowUs ∧
      9000 ≤ braced.hold.vin) ∧
    ((pfailed braced).hold.brace = true ∧ (pfailed braced).board.pfail = true) ∧
    (braced.hold.nextHu = true ∧ 26999 * 10 < 9 * braced.arm.cfg.dev.huVchg ∧
      9 * braced.arm.cfg.dev.huVchg ≤ 27000 * 10) ∧
    (let s := { braced with hold := { braced.hold with nextHu := false } }
     s.hold.brace = true ∧ s.hold.nextHu = false) := by decide +kernel

/-- A flush whose band has the units `w` written and the units `l` left, with no program on a die. -/
def banding (w l : List BandUnit) : State :=
  { banked with
    boot := { keyed.boot with phase := .flushing }
    arm := { banked.arm with cfg := { banked.arm.cfg with geom := { cfg.geom with tProgP := 600 } } }
    dies := tmap {} banked.dies (fun _ d => { d with spareDone := 20 })
    plinth := { keyed.plinth with band := w, bandLeft := l } }

theorem witness_FlushWritesAndHalts_units :
    (let s := banding [] [{ kind := 0, unit_ := 5 }]
     flushing s = true ∧
       (∀ c ∈ [0, 1], (getDie s (dk c 0)).used = true ∧ (getDie s (dk c 0)).retired = false ∧
         dieFree (getDie s (dk c 0)) = true ∧ (getChan s c).retrain = false ∧ iccqFor s c = true ∧
         (bandChans s 0).contains c = true ∧ bandEven s c = true) ∧
       programsOn s < nFl s.arm.cfg ∧ iccUsed s + s.arm.cfg.geom.iProg ≤ s.arm.cfg.dev.icc ∧
       bandParity s 0 (bandLine s 1 0) ≠ some 1 ∧ bandParity s 0 (bandLine s 0 0) = some 0) ∧
    (∀ u ∈ [({ kind := 2 } : BandUnit), { kind := 4, rank := (plinthRanks keyed).1 }],
     let s := banding [] [u]
     isPlinth s (plinthRanks s).1 = true ∧ (getDie s (dk 0 (plinthRanks s).1)).used = true ∧ u.kind ≠ 0 ∧
       (u.kind ≠ 4 ∨ u.rank = (plinthRanks s).1)) ∧
    (let s := { keyed with boot := { keyed.boot with phase := .released } }
     flushing s = false) ∧
    bandNext (banding [] []) 5 0 = none ∧
    (let s := banding [{ kind := 0, ch := 1 }] []
     s.plinth.bandLeft = [] ∧ bandParity s 0 0 = some 0 ∧
       (parityLeft s).find? (fun y => y.1 == 0 && bandParity s 0 y.2 == some 0) = some (0, 0)) := by decide +kernel

theorem witness_FlushWritesAndHalts_fails :
    (let s := banding [] [{ kind := 0, unit_ := 5 }]
     bandNext s 1 0 = some ({ kind := 0, unit_ := 5, ch := 1 }, []) ∧
       failedWith s { kind := 0, unit_ := 5, ch := 1 } = [] ∧ (bandParity s 0 0).isSome = true ∧
       inBody { kind := 0, unit_ := 5, ch := 1 } = true) ∧
    (let s := banding [{ kind := 0, ch := 2, failed := 1 }] [{ kind := 0, unit_ := 5 }]
     bandNext s 1 0 = some ({ kind := 0, unit_ := 5, ch := 1 }, []) ∧
       failedWith s { kind := 0, unit_ := 5, ch := 1 } = [{ kind := 0, ch := 2, failed := 1 }]) := by decide +kernel

theorem witness_FlushWritesAndHalts :
    (∀ n ∈ [(false, 0), (true, 1), (true, 2)],
      let s := { keyed with boot := { keyed.boot with phase := .flushing, railPend := n.1, railFails := n.2 } }
      s.boot.phase = .flushing ∧ flushDone s = true ∧ s.plinth.mounted = true ∧ s.boot.railPend = n.1) ∧
    (∀ b ∈ [true, false],
      let s := { keyed with boot := { keyed.boot with phase := .resetFlush }, board := { keyed.board with pfail := b } }
      s.boot.phase = .resetFlush ∧ flushDone s = true ∧ s.board.pfail = b) ∧
    flushDone (banding [] [{ kind := 0 }]) = false ∧
    (∀ b ∈ [true, false],
      ({ keyed with boot := { keyed.boot with phase := .halted }, board := { keyed.board with pfail := b } } : State).board.pfail = b) := by
  decide +kernel

/-- `banked` in a health test that began at 30 V, `us` after its first sample. -/
def tested (us : Nat) : State :=
  { banked with hold := { banked.hold with testing := true, v0 := some 30000, testUs := us } }

theorem witness_HoldupTestsAndCharge :
    (inService banked = true ∧ banked.hold.testing = false ∧ banked.pm.entry = .none ∧ banked.pm.ps ≠ 4 ∧
      testReady banked = true) ∧
    testReady keyed = false ∧
    (let s := { banked with hold := { banked.hold with testing := true } }
     s.hold.testing = true ∧ s.hold.brace = false ∧ s.hold.v0 = none) ∧
    ((tested 936).hold.testUs + 64 ≤ 100000 ∧ 100000 < (tested 99937).hold.testUs + 64) ∧
    ((tested 936).hold.v0 = some 30000 ∧ 30000 < 29001 + 1000 ∧ 29000 + 1000 ≤ 30000 ∧
      1000 ≤ (tested 936).hold.testUs + 64 ∧ (tested 935).hold.testUs + 64 < 1000 ∧ (tested 936).hold.v0 ≠ none) ∧
    (let s := { banked with board := { banked.board with chgEn := true }, hold := { banked.hold with low := true } }
     s.board.chgEn = true ∧ s.hold.low = true) := by decide +kernel

/-! ### Temperatures, clocks and power states -/

def atChannel (n : Nat) : State := { keyed with thm := { hot := 85, crit := 100, ch := n, composite := 300 } }

theorem witness_TemperaturesScanned :
    (let s := atChannel 27
     scanRuns s = true ∧ s.thm.ch = 27 ∧ inputAbsent 27 1000 = false ∧ inputBroken 27 1000 40 = false ∧
       inputBroken 27 1000 151 = true ∧ 1000 ≠ (tget ({} : Sensor) s.thm.sensors 27).raw ∧
       (tget ({} : Sensor) s.thm.sensors 27).st ≠ 2) ∧
    (scanRuns (atChannel 28) = true ∧ scanRuns (atChannel 29) = true ∧ scanRuns (atChannel 46) = true) ∧
    (scanRuns (atChannel 47) = true ∧ anyCritical (atChannel 47) = false) := by decide +kernel

/-- A ladder whose request `stage` is pending, or where none is pending, at composite temperature `k`. -/
def ladder (stage enforced k : Nat) (g c : Option Nat) : State :=
  { keyed with thm := { hot := 85, crit := 100, composite := k, stage := stage, enforced := enforced, graceEnd := g, coolFrom := c } }

theorem witness_ThermalLadderHaltAndTrip :
    ((ladder 1 0 358 (some 0) none).thm.graceEnd ≠ none ∧ 85 + 273 ≤ (ladder 1 0 358 (some 0) none).thm.composite ∧
      (ladder 1 0 357 (some 0) none).thm.composite < 85 + 273 ∧ (ladder 1 0 358 (some 0) none).pm.req < 3) ∧
    ((ladder 2 1 300 (some 0) (some 0)).thm.coolFrom ≠ none ∧ (ladder 2 1 300 (some 0) (some 0)).thm.graceEnd ≠ none) ∧
    ((ladder 0 0 300 none (some 0)).thm.coolFrom ≠ none ∧ (ladder 4 4 300 none (some 0)).thm.enforced ≠ 0) ∧
    (let s := { keyed with thm := { stopping := true } }
     s.thm.stopping = true ∧ s.boot.phase = .released ∧ s.hold.brace = false ∧
       (∀ kv ∈ s.cmds, kv.2.phase ≠ .started)) ∧
    ({ keyed with boot := { keyed.boot with phase := .thermal } } : State).thm.stay = false ∧
    ({ keyed with thm := { stay := true } } : State).boot.phase ≠ .off := by decide +kernel

/-- `keyed` on its normal clocks, with the RCO ready to take over. -/
def clocked : State :=
  { keyed with
    clk := { xoOk := true, rcoRun := true, monOff := false, lock := 15, fRun := true }
    comms := [(0, { used := true })] }

theorem witness_ClocksFallBack :
    (monitorOn clocked = true ∧ countBad clocked 249 = false ∧ countBad clocked 248 = true ∧
      bitOf clocked.clk.lock (pllBit .q) = true ∧ clocked.clk.rcoBad = false ∧ fallbackReady clocked = true ∧
      liveComms clocked ≠ []) ∧
    (let s := { clocked with clk := { clocked.clk with rcoRun := false } }
     monitorOn s = true ∧ s.clk.rcoBad = false ∧ fallbackReady s = false) ∧
    (let s := { clocked with clk := { clocked.clk with rcoBad := true } }
     monitorOn s = true ∧ s.clk.rcoBad = true) ∧
    (bitOf clocked.clk.lock 3 = true ∧ (getChan clocked 1).state = 2 ∧ clocked.pm.ps < 3) ∧
    (let s := { clocked with clk := { clocked.clk with fbFlush := true } }
     s.clk.fbFlush = true ∧ s.clk.fbDone = false ∧ inService s = true ∧ s.hold.brace = false ∧
       (∀ kv ∈ s.cmds, kv.2.phase ≠ .started)) := by decide +kernel

theorem witness_ClockServicesRun :
    (monitorOn clocked = true ∧ clocked.clk.monMode = false) ∧
    ({ keyed with boot := { keyed.boot with phase := .rcoFail } } : State).boot.phase = .rcoFail ∧
    (islandUp clocked (.port 0) = true ∧ clocked.clk.fRun = true ∧ refRuns clocked clocked.clk.fOn.2 = true) ∧
    (let s := { clocked with clk := { clocked.clk with xoOk := false } }
     s.clk.fRun = true ∧ refRuns s s.clk.fOn.2 = false) := by decide +kernel

/-- `keyed` with autonomous transitions from state 0 to state 3, state `pm` in force. -/
def idle (p : Pm) : State := { keyed with pm := p }

theorem witness_LowPowerStatesEntered :
    (let s := idle { apstOn := true, apst := [⟨3, 100⟩] }
     s.pm.apstOn = true ∧ inService s = true ∧ quiet s = true ∧ s.hold.brace = false ∧ s.boot.maquette = false ∧ s.pm.entry = .none ∧ s.pm.ps < 3 ∧ apstEntry s = some ⟨3, 100⟩ ∧
       liveComms s = [] ∧ entryBarred s = false ∧ s.hold.testing = false) ∧
    (let s := { idle { apstOn := true, apst := [⟨3, 100⟩] } with comms := [(0, { used := true })] }
     inService s = true ∧ quiet s = true ∧ s.boot.maquette = false ∧ s.pm.entry = .none ∧ s.pm.ps < 3 ∧ apstEntry s = some ⟨3, 100⟩ ∧ liveComms s ≠ []) ∧
    (let s := idle { entry := .drain3, domXcr := true }
     quiet s = true ∧ inService s = true ∧ degraded s = false ∧ diesQuiet s = true) ∧
    (let s := idle { entry := .drain4, domXcr := true }
     quiet s = true ∧ inService s = true ∧ diesQuiet (commitAll s (allSlots s)) = true) ∧
    (let s := { idle { entry := .wait4 } with ports := [(0, { dlup := true, link := .l12 })] }
     s.pm.entry = .wait4 ∧ portReady s 0 = true ∧ portReady s 1 = true) := by decide +kernel

/-- A device in PS4 with its links in L1.2 and a verified firmware image to wake from. -/
def asleep : State :=
  { idle { ps := 4, back := 1 } with
    ports := [(0, { dlup := true, link := .l12 })]
    boot := { keyed.boot with flash := flash1 }
    board := { keyed.board with fuses := fuses1 } }

theorem witness_LowPowerStatesEntered_wake :
    asleep.pm.entry = .none ∧ asleep.pm.ps = 4 ∧
      fwCheck (fwImg asleep asleep.boot.fwSlot) asleep.board.fuses asleep.board.fuses.fwFloor = 0 ∧
      absorbs asleep = false ∧ (getPort asleep 0).dlup = true ∧ (getPort asleep 0).link = .l12 :=
  ⟨by decide, by decide, fwCheck_flash1 asleep rfl rfl, by decide +kernel, by decide +kernel, by decide +kernel⟩

/-- The storage key of a device whose DRK is 0. -/
def sk0 : Nat := 97441559446420804143065496714669959916503274152907412859765179020060621391640

theorem storageKey_congr (s t : State) (h : s.board.fuses.drk = t.board.fuses.drk) : storageKey s = storageKey t := by
  unfold storageKey kdfDrk
  rw [h]

theorem storageKey_blank : storageKey {} = sk0 := by decide +kernel

/-- Key 1, whose value is 5, wrapped for the table and its shadow. -/
def ent1 : KeyEnt := { st := 1, ser := 1, wrapped := 4135375356168221646880725358546220584263545244040174559253466855080523558618710778288089029714240251072309406371870026484685034318570088515819182645696268219931190735021101106075055084153928346 }

/-- The semiblocks before the six passes of its unwrap and after each, last first. -/
def kw1 : List (List Nat × Nat) :=
  [ ([16720044650952119358, 15455387152496927975, 6083692392115774150, 8102117034294225047, 11100893328737702502, 7925598898670448612, 6265065542066424668, 16281815822561662007, 4939010911004709442], 7263219801988594330)
  , ([29429975000504783, 8818982166773921868, 14295401934868608669, 7071915943851652083, 7469650231230011207, 2876589278106870005, 14721838581096033935, 5706335439654730884, 2180650242467145569], 10833337363196819526)
  , ([10893877643963059011, 6207646478834466969, 7932482284579118089, 13420097822437870444, 11609561157548955330, 13990521349566593623, 12218269821278167023, 2154950552714020352, 1853396291869721893], 9085565960607238410)
  , ([7486846252944389439, 3951414524857418478, 4975361167847150152, 9115016526296121109, 17969857507366802949, 3732374704964138968, 297298670280429941, 3925150954452316163, 289098706667940015], 15336572724512860441)
  , ([12908885752163497757, 13498413379935456, 10047381992007966919, 4854928624734970610, 16639979548666472382, 15942931436588517284, 2740579243796473111, 4811754527490804407, 10643527257707573122], 17852150661798115235)
  , ([2747251071990497848, 9324028302421533936, 14783066636095117179, 17288549361070451189, 15905545977717713459, 1178950256942985496, 3749958793529972187, 1395137938337102314, 1663931944850697947], 15421125682797961643)
  , ([257, 0, 0, 0, 0, 0, 0, 0, 5], 12008468691120727718) ]
def kwAt (i : Nat) : List Nat × Nat := kw1.getD i ([], 0)

theorem kw1_0 : ((semiblocks 9 (ent1.wrapped >>> 64)).reverse, ent1.wrapped % 2 ^ 64) = kwAt 0 := by decide +kernel
theorem kw1_1 : unwrapPass (roundKeys sk0) (kwAt 0).1 54 (kwAt 0).2 = kwAt 1 := by decide +kernel
theorem kw1_2 : unwrapPass (roundKeys sk0) (kwAt 1).1 45 (kwAt 1).2 = kwAt 2 := by decide +kernel
theorem kw1_3 : unwrapPass (roundKeys sk0) (kwAt 2).1 36 (kwAt 2).2 = kwAt 3 := by decide +kernel
theorem kw1_4 : unwrapPass (roundKeys sk0) (kwAt 3).1 27 (kwAt 3).2 = kwAt 4 := by decide +kernel
theorem kw1_5 : unwrapPass (roundKeys sk0) (kwAt 4).1 18 (kwAt 4).2 = kwAt 5 := by decide +kernel
theorem kw1_6 : unwrapPass (roundKeys sk0) (kwAt 5).1 9 (kwAt 5).2 = kwAt 6 := by decide +kernel

theorem sk0_unwraps : kwUnwrap sk0 9 ent1.wrapped = some (5 + (1 <<< 512) + (1 <<< 520)) := by
  have h : (semiblocks 9 (ent1.wrapped >>> 64)).reverse = (kwAt 0).1 := congrArg Prod.fst kw1_0
  have k : ent1.wrapped % 2 ^ 64 = (kwAt 0).2 := congrArg Prod.snd kw1_0
  unfold kwUnwrap
  rw [h, k]
  simp only [unwrapPasses, Nat.reduceMul, Nat.reduceAdd, kw1_1, kw1_2, kw1_3, kw1_4, kw1_5, kw1_6]
  decide +kernel

theorem value1_names : (entryValue 1 ent1.st (5 + (1 <<< 512) + (1 <<< 520))).isSome = true := by decide +kernel

/-- What an entry unwraps to rests on the DRK alone. -/
theorem ent1_unwraps (s : State) (h : s.board.fuses.drk = 0) : (unwrapEntry s 1 ent1).isSome = true := by
  unfold unwrapEntry
  rw [storageKey_congr s {} h, storageKey_blank, sk0_unwraps]
  exact value1_names

/-- A shadow whose one entry unwraps: what `KeysBack` asks of an entry, met. -/
theorem witness_KeysBack :
    (let s := { asleep with cipher := { asleep.cipher with shadow := [(1, ent1)] } }
     (1, ent1) ∈ s.cipher.shadow ∧ (∀ x ∈ s.cipher.shadow, x.1 = 1 → x.2 = ent1) ∧ ent1.st ≠ 0 ∧
       (unwrapEntry s 1 ent1).isSome = true) := by
  refine ⟨List.mem_singleton.2 rfl, ?_, by decide, ?_⟩
  · intro x hx _
    rw [List.mem_singleton.1 hx]
  · exact ent1_unwraps _ rfl

theorem witness_PowerWatchedAndWindows :
    (inService keyed = true ∧ keyed.pm.ps < 3 ∧ budget keyed < 5000 ∧
      (idle { overMs := 9, stopB := true }).pm.overMs + 1 = 10 ∧
      (idle { overMs := 9, stopB := true }).pm.stopB = true ∧ budget (idle {}) + 100 < 60000) ∧
    (let s := idle { ps := 3, noppme := true }
     inService s = true ∧ s.pm.entry = .none ∧ s.pm.window = false ∧ s.pm.noppme = true ∧ reserveDue s = true) ∧
    (let s := { idle { ps := 3, window := true } with pat := { img := some {} } }
     inService s = true ∧ s.pm.window = true ∧ reserveDue s = false ∧ diesQuiet s = true) ∧
    (inService (idle { ps := 3 }) = true ∧ (idle { ps := 3 }).pm.noppme = false) := by decide +kernel

/-! ### Start-up -/

/-- `State.reset` in start-up phase `ph`. -/
def inPhase (ph : Phase) : State := { State.reset with boot := { State.reset.boot with phase := ph } }

def railing (en pg : Nat) : State := { inPhase .rails with board := { State.reset.board with railEn := en, pg := pg } }

theorem witness_RailsRiseAndFail :
    State.reset.boot.phase = .off ∧ railsOn (railing 0 0) = 0 ∧
    (railsOn (railing 127 127) = 7 ∧ bitOf (railing 127 127).board.pg (railsOn (railing 127 127) - 1) = true) ∧
    (bitOf (railing 255 127).board.railEn (railBit .ddr) = true ∧ setBit (railing 255 127).board.pg (railBit .ddr) = 255 ∧
      setBit (railing 3 1).board.pg (railBit .pcie) ≠ 255 ∧ (railing 3 1).board.railEn ≠ (railing 3 1).board.pg) ∧
    (bitOf keyed.board.railEn (railBit .core) = true ∧ bitOf keyed.board.pg (railBit .core) = true ∧
      flushSpares .core = false) ∧
    (bitOf keyed.board.railEn (railBit .io) = true ∧ bitOf keyed.board.pg (railBit .io) = true ∧
      flushSpares .io = true ∧ keyed.boot.phase = .released ∧ keyed.pm.entry = .none ∧ keyed.pm.ps ≠ 4) := by
  decide +kernel

theorem witness_RailsRiseAndFail_wait :
    (inPhase .lpo).boot.phase = .lpo ∧ (inPhase .railWait).boot.phase = .railWait ∧
      inPs4 { keyed with pm := { ps := 4 } } = true := by decide +kernel

theorem witness_ClocksStartAndIslandsLeaveReset :
    (inPhase .rco).board.pfail = false ∧ (pfailed (inPhase .rco)).board.pfail = true ∧
      (inPhase .rcoFail).clk.stopped = false ∧
    (let s := { inPhase .rcoFail with clk := { stopped := true } }
     s.boot.phase = .rcoFail ∧ s.clk.stopped = true) ∧
    (let s := { keyed with clk := { stopped := true } }
     s.boot.phase = .released ∧ s.clk.stopped = true) ∧
    (∀ w ∈ [true, false],
      let s := { inPhase .rco with boot := { phase := .rco, warm := w } }
      s.boot.phase = .rco ∧ s.board.pfail = false ∧ s.boot.warm = w) ∧
    (inPhase .fuse).boot.phase = .fuse ∧ fuses1 ≠ { fuses1 with member := 1 } ∧
    (let s := { clocked with arm := { clocked.arm with cfg := { cfg with dev := { cfg.dev with dramMode := 1 } } } }
     mayLockM s = true) ∧
    inPs4 asleep = true ∧
    (bitOf (inPhase .pll).boot.pllDone (pllBit .q) = false ∧ bitOf (inPhase .pll).boot.pllTried (pllBit .q) = false ∧
      (let s := { inPhase .pll with boot := { phase := .pll, pllTried := 1 } }
       bitOf s.boot.pllDone (pllBit .q) = false ∧ bitOf s.boot.pllTried (pllBit .q) = true)) ∧
    clocked.clk.rcoRun = true ∧ (inPhase .islands).cipher.trng ≠ 3 ∧
    (∀ l ∈ [[], [true, false], [true, false, true]],
      let s := inPhase .islands
      s.cipher.trng ≠ 3 ∧ ((l = [] ∨ s.cipher.trngFails + l.length < 3) ∨ (l ≠ [] ∧ 3 ≤ s.cipher.trngFails + l.length))) ∧
    (let s := { inPhase .islands with cipher := { trng := 3 } }
     s.boot.phase = .islands ∧ s.cipher.trng = 3) := by decide +kernel

theorem witness_ExitFromPs4Fails :
    inPs4 asleep = true ∧ fwCheck (fwImg asleep asleep.boot.fwSlot) asleep.board.fuses asleep.board.fuses.fwFloor = 0 :=
  ⟨by decide +kernel, fwCheck_flash1 asleep rfl rfl⟩

/-- A device at the choice, with a firmware image and an Armature structure to run. -/
def choosing : State :=
  { inPhase .choice with
    boot := { phase := .choice, flash := flash1 }
    board := { State.reset.board with fuses := fuses1 } }

def reads1 : BootReads := ⟨false, none, none, false, false⟩

/-- Firmware slot 1 and Armature slot A pass, signature and all, and are chosen. -/
theorem witness_choice_runs : (choose choosing reads1).run = some (1, 0) := by
  have h := fwCheck_flash1 choosing rfl rfl
  have o : fwOrder choosing = [1, 2] := by decide +kernel
  have a : tryArms choosing reads1 (fwVec (fwImg choosing 1)) (armOrder choosing reads1) {} = ({ errs := [(0, pass)] }, some 0) := by
    decide +kernel
  have b : (tryFw choosing reads1 {} 1).run = some (1, 0) := by
    unfold tryFw
    simp only [h, a]
    decide
  unfold choose
  rw [o, List.foldl_cons, List.foldl_cons, List.foldl_nil]
  generalize tryFw choosing reads1 {} 1 = c at b
  unfold tryFw
  simp [b]

theorem witness_choice :
    choosing.boot.phase = .choice ∧ mfgTest choosing = false ∧ choosing.boot.restarts < 4 ∧
    (choose choosing { reads1 with readErrF1 := true }).run = none ∧
    (let s := { choosing with boot := { choosing.boot with restarts := 4 } }
     mfgTest s = false ∧ 4 ≤ s.boot.restarts ∧ s.boot.phase = .choice) ∧
    mfgTest { choosing with board := { choosing.board with fuses := { fuses1 with lifecycle := 0 } } } = true := by
  decide +kernel
/-- A device at the mount, every channel trained or lost. -/
def mounting : State :=
  { base with
    boot := { phase := .mount, fwSlot := 1 }
    board := { base.board with fuses := fuses1 }
    chans := (List.range 32).map (fun n => (n, { state := 3 }))
    plinth := { exists_ := true, newest := 2 } }

def mount1 : MountInput :=
  { blank := false, readable := true, badKeys := [], finalOk := true, bandOk := [0], scan10ms := 5, loose := [] }

theorem witness_SystemIsChosenMountedReleased :
    ({ mounting with boot := { phase := .mount, romRec := true } } : State).boot.romRec = true ∧
    (let s := { mounting with boot := { phase := .mount, maquette := true } }
     s.boot.maquette = true ∧ s.arm.mirrorCfg = none ∧ s.boot.phase = .mount) ∧
    (mounting.boot.romRec = false ∧ mounting.boot.maquette = false ∧ channelsUp mounting = true ∧
      outcomeOf mounting mount1 = 0 ∧ (∀ kv ∈ mounting.rows, kv.2.dest = none) ∧ mount1.badKeys = [] ∧
      mounting.board.fuses.lifecycle ≠ 7 ∧ mounting.arm.made.contains mounting.arm.seq = true) ∧
    (let s := { mounting with plinth := { exists_ := true, newest := 3, bandSeq := 1 } }
     outcomeOf s mount1 = 1 ∧ s.plinth.bandSeq = s.arm.seq) ∧
    (let s := { mounting with boot := { phase := .ready, fwSlot := 1 }, ctrls := [(0, { en := true })] }
     s.boot.phase = .ready ∧ twf {} s.ctrls = true ∧ (getCtrl s 0).en = true ∧ s.boot.romRec = false) ∧
    watchdogArmed keyed = true := by decide +kernel

/-- A saved table whose one entry unwraps is mounted. -/
theorem witness_mount_keys :
    (∀ kv ∈ ({ mounting with cipher := { mounting.cipher with table := [(1, ent1)] } } : State).cipher.table,
      (unwrapEntry mounting kv.1 kv.2).isSome = true) ∧ mounting.plinth.progFails = [] := by
  refine ⟨?_, rfl⟩
  intro kv h
  rw [List.mem_singleton.1 h]
  exact ent1_unwraps mounting rfl

/-! ### Sideband and registers -/

theorem witness_SidebandAnswers :
    basicUp keyed = true ∧ mctpUp keyed = true ∧ fnExists keyed 0 = true ∧ fnExists keyed 1 = false := by decide +kernel

/-- `keyed` with every clock gate and power domain on. -/
def gatesOn : State :=
  { keyed with
    pm := { domXcr := true, domChg := 255 }
    clk := { gate0 := 0xFFFFF, gate1 := 0xFFFFFFFF, gate2 := 0xFFFF, gate3 := 0xFFFF } }

theorem witness_CountersCleared :
    hostCan gatesOn (0 * 64) = true ∧ (getPort gatesOn 0).link = .l0 ∧ gatesOn.pm.ps ≠ 4 ∧
    (let s := { gatesOn with ports := [(0, { dlup := true, link := .l1 })] }
     hostCan s (0 * 64) = true ∧ hostCan (reached s 0) (0 * 64) = true ∧ reached s 0 ≠ s) ∧
    (∀ o ∈ [0x6001C, 0x50010, 0x800E0, 0xA0020, 0x90028, 0x20020, 0x3001C, 0x40024, 0x48], accKind gatesOn o 1 15 true = none) ∧
    (∀ ch, ch < 32 → accKind gatesOn (0x100024 + 0x1000 * ch) 1 15 true = none) ∧ 0 ∈ validNiches gatesOn := by
  decide +kernel

theorem witness_RegistersWrittenAndRefused :
    (∀ o ∈ [0x20, 0x28, 0x200030, 0x10004, 0x30014, 0x20000, 0x80070, 0xA001C, 0x10010, 0x24, 0x50, 0x5C],
      accKind gatesOn o 1 15 true = none) ∧
    accKind gatesOn 0x90008 1 15 false = none ∧ nicheValid gatesOn 0 = true ∧ gatesOn.clk.fRun = false ∧
    (refRuns gatesOn 2 = true ∧ refRuns gatesOn 3 = false) ∧
    (let s := { banked with pm := gatesOn.pm, clk := gatesOn.clk }
     hostCan s (0 * 64) = true ∧ accKind s 0xA001C 1 15 true = none ∧ inService s = true ∧ s.hold.testing = false ∧
       s.pm.entry = .none ∧ testReady s = true) ∧
    (accKind gatesOn 0x20 2 15 false = some 3 ∧ accKind gatesOn 0x120000 1 15 true = some 2 ∧
      accKind keyed 0x80070 1 15 true = some 1) ∧
    (running keyed = true ∧ keyed.pat.last = none ∧ tfree keyed.pat.ring 16384 0 = some 0) := by decide +kernel

/-! ### Every step -/

theorem witness_StepRunsTheFrontCommand :
    ({ keyed with pending := [.ptmRequest 0 true] } : State).pending = .ptmRequest 0 true :: [] ∧ keyed.pending = [] ∧
      (∀ kv ∈ keyed.ctrls, kv.2.shst ≠ 1) := by decide +kernel

/-- `KeysStayFresh` starts from reset and from a device with a key. -/
theorem witness_KeysStayFresh :
    KeysFresh State.reset ∧ FlashCanonical State.reset ∧
      (∃ t, step { State.reset with pending := [.pgAonRise] } = .next t) := by
  refine ⟨?_, ?_, _, rfl⟩
  · unfold KeysFresh Guarded.fresh freshBelow; decide +kernel
  · unfold FlashCanonical; decide +kernel

theorem witness_StoredImagesChangeOnlyByTheirCommands :
    (∃ t, exec (.fuseLoad fuses1 fuses1) (inPhase .fuse) = .next t ∧ t.board.fuses = fuses1) ∧
    (let s := { keyed with boot := { keyed.boot with activation := some (0, 7, 2) } }
     ∃ t, exec .firmwareActivationDrained s = .next t ∧ t.boot.hdr0 ≠ s.boot.hdr0) ∧
    (∃ t, exec (.armatureStageWrite 0 9 1 0 512 (List.replicate 512 1) false) keyed = .next t ∧
      t.boot.flash ≠ keyed.boot.flash) :=
  ⟨⟨_, rfl, by decide +kernel⟩, ⟨_, rfl, by decide +kernel⟩, ⟨_, rfl, by decide +kernel⟩⟩


/-! ### Well-formedness -/

theorem test_wellFormed_accepts :
    ([.write 127 65535 65535 0xFFFFFFFF 0xFFFFFFFFFFFFFFFF 65535 ⟨15, 0xFFFFFFFF, 65535, 65535⟩,
      .keyImport 0 0 255 255 65535 (2 ^ 384 - 1) (2 ^ 384 - 1) (2 ^ 576 - 1),
      .bar2RegisterWrite 1 0x3FFFFC 1023 15 0xFFFFFFFF, .pgAonRise] : List Instr).all Instr.wellFormed = true := by
  decide +kernel

/-- One ill-formed term for each width the check compares with. -/
theorem test_wellFormed_refuses :
    ([.write 128 0 0 0 0 0 {}, .write 0 65536 0 0 0 0 {}, .write 0 0 65536 0 0 0 {}, .write 0 0 0 0x100000000 0 0 {},
      .write 0 0 0 0 0x10000000000000000 0 {}, .write 0 0 0 0 0 65536 {}, .identify 0 0 256 0 0 0, .ptmRequest 2 true, .write 0 0 0 0 0 0 ⟨16, 0, 0, 0⟩,
      .keyImport 0 0 0 0 0 0 0 (2 ^ 576),
      .schCtrlClr 2, .chnCtrlClr 0 32, .nchIstatClear 0 64 0, .bar2RegisterWrite 0 0x400000 0 0 0,
      .bar2RegisterWrite 0 0 1024 0 0, .bar2RegisterWrite 0 0 0 16 0, .setFeaturesPowerManagement 0 0 32 0,
      .setFeaturesPowerManagement 0 0 0 8, .aggregationTimeExpiry 0 2048,
      .getLogPage 0 0 { lid := 256 }, .armatureStagePatch 0 0 [⟨1, 0, 0, 0, 0x100000000⟩], .rcoStable ⟨4, 0, 0, 0, 0, 0⟩,
      .setFeaturesApst 0 0 false true [⟨32, 0⟩]] : List Instr).any Instr.wellFormed = false := by
  decide +kernel

theorem test_no_command_has_bits : decodeTableWord 16 5 = none ∧ keyed.withFetchWord 16 5 = keyed := by decide +kernel

/-! ### The spec's worked examples -/

/-- The camera magazine's image ("Example: a camera magazine", after R67). -/
def magazineBytes : List Nat :=
  pad 256 (b32 0x52414C55 ++ b16 0x100 ++ b16 256 ++ b32 0x420 ++ b16 1 ++ b16 0 ++ b32 7 ++ b32 0 ++ b16 0 ++ b16 0 ++
    b32 0x24 ++ b32 0x100 ++ b32 64 ++ b32 0x140 ++ b32 64 ++ b32 0x180 ++ b32 32 ++ b32 0x1C0 ++ b32 256 ++ b32 0x2C0 ++
    b32 96 ++ b32 0x1A0 ++ b32 32) ++
  pad 64 (b16 0 ++ b16 24000 ++ b16 12000 ++ b16 0 ++ b16 220 ++ b16 35000 ++ b16 12000 ++ b16 600) ++
  pad 64 ([4, 16, 4, 3] ++ b16 2304 ++ b16 3648 ++ b16 3200 ++ b16 120 ++ b16 40 ++ b16 250 ++ b16 12000 ++ b16 60 ++
    b16 100 ++ [1, 5] ++ b16 3600 ++ b16 45 ++ b16 35 ++ b16 40 ++ b16 90) ++
  pad 32 (b32 0xFFFFFFFF ++ b16 64) ++ pad 32 [] ++
  pad 128 ([0x0B, 224, 224, 224] ++ b16 0x8000 ++ b16 0 ++ b32 0xFFFFFFFF ++ b32 0xFFFF0000 ++ b16 0 ++ b16 3264 ++
    b16 0 ++ b16 64 ++ b16 64 ++ [2, 0] ++ b32 1024 ++ b32 512 ++ b32 256 ++ b32 640 ++ b32 16 ++ [0x0F]) ++
  pad 128 ([0x09, 32, 32, 32] ++ b16 0x8001 ++ b16 0 ++ b32 0xFFFF0000 ++ b32 0xFFFF0000 ++ b16 3264 ++ b16 256 ++
    b16 64 ++ b16 16 ++ b16 16 ++ [2, 0] ++ b32 512 ++ b32 128 ++ b32 64 ++ b32 48 ++ b32 0 ++ [0xF0]) ++
  pad 32 ([0x80, 1, 0x1B, 4, 1, 0, 0, 1] ++ b32 6784 ++ b16 4 ++ b16 8) ++
  pad 32 ([0x81, 1, 0x0B, 2, 1, 0, 4, 255] ++ b32 1020 ++ b16 16 ++ b16 32) ++
  pad 32 ([0x81, 2, 0x0A, 0, 2, 1, 5, 255] ++ b32 16 ++ b16 0 ++ b16 0) ++ pad 256 (b32 0x4E474953)

def magazineFuses : Fuses := { fuses1 with member := 0x24, rankEn := 0xFFFFFFFF }
def magazineImg : Img := blkByte (blkWrite 1024 [] 0 magazineBytes)

/-- IMG_LEN is 0x420, and the image passes the steps of R47 that a signature does not enter. -/
theorem test_magazine_image : magazineBytes.length = 0x420 ∧ armStep1 magazineImg = Machine.pass ∧
    armStep4 magazineImg magazineFuses 0 ⟨0, 0, 0⟩ = Machine.pass ∧ armStep5 magazineImg magazineFuses true = Machine.pass ∧
    armStep6 magazineImg magazineFuses ⟨0, 0, 0, 1, 0, 0⟩ = Machine.pass := by decide +kernel

/-- The magazine with 32 channels of the reference rate and its link at Gen5 x8, MPS 512 ("Worked admission"). -/
def magazine : State :=
  { base with
    arm := { base.arm with cfg := parseArm magazineImg magazineFuses }
    ports := [(0, { gen := 5, width := 8, dlup := true, mps := 2 })]
    chans := (List.range 32).map (fun c => (c, { state := 2, rate := 3600 })) }

/-- T_HU is 15.85 ms with 1.76 mF (printed as 15.86) and 10.81 ms with 1.2 mF, and D_CAP 224 and 170 MiB (R204). -/
theorem test_magazine_hold_up :
    tHu magazine 176 35000 = 15854 ∧ dCapOf magazine 176 35000 = 224 ∧ tHu magazine 120 35000 = 10810 ∧
      dCapOf magazine 120 35000 = 170 := by decide +kernel

/-- Port 0 admits 26,000 MB/s of writes and carries 28,893 of reads (R73, R74). -/
theorem test_magazine_port : portCapw (getPort magazine 0) = 26000 ∧ portPayload (getPort magazine 0) = 28893 := by
  decide +kernel

/-- C0 reserves 175.93 MiB and C1 13.10 MiB, in whole 4 KiB units (R203). -/
theorem test_magazine_reservations :
    resvOf magazine 24200 16384 2 * 100 / 1048576 = 17593 ∧ resvOf magazine 400 1024 1 * 100 / 1048576 = 1310 := by
  decide +kernel

/-- ZSZE of R160, and 17,309,376 sectors with 28 dies on 15 ranks' rows and 27 on one ("Example: rank 24"). -/
theorem test_magazine_zone :
    zcap0 magazine (slotCfg magazine 0) = 17309376 + 108864 ∧
      stripesPerRow magazine * (15 * stripeCap true 30 + stripeCap true 27) = 17309376 := by decide +kernel

/-! ### Known answers of the standards the spec names, and a count of the pin tables -/

/-- AES-256 of FIPS 197, C.3, with byte 0 least significant as the model holds a block. -/
theorem test_aes : aesEnc (roundKeys (leNum (List.range 32))) (leNum ((List.range 16).map (· * 0x11))) =
    leNum [0x8e, 0xa2, 0xb7, 0xca, 0x51, 0x67, 0x45, 0xbf, 0xea, 0xfc, 0x49, 0x90, 0x4b, 0x49, 0x60, 0x89] := by
  decide +kernel

/-- SHA-384 of "abc", from FIPS 180-4's examples. -/
theorem test_sha384 : sha384 [0x61, 0x62, 0x63] =
    0xcb00753f45a35e8bb5a03d699ac65007272c32ab0eded1631a8b605a43ff5bed8086072ba1e7cc2358baeca134c825a7 := by
  decide +kernel

/-- VSS has 534 balls ("Ball counts", 23_pins.md). -/
theorem test_vss_balls : ballCount (· == vssBall) = 534 := by decide +kernel

end Sys2Proof.Tests
end

section
/-! SUPPORT. Reads of mapped tables and of tables in canonical form. -/

namespace Sys2Proof.Machine

variable {α : Type}

/-- An entry of a mapped table comes from an entry of the table with its key. -/
theorem mem_tmap [DecidableEq α] {d : α} {t : List (Nat × α)} {f : Nat → α → α} {kv : Nat × α}
    (h : kv ∈ tmap d t f) : ∃ v, (kv.1, v) ∈ t ∧ kv.2 = f kv.1 v := by
  revert h
  unfold tmap
  refine List.foldlRecOn (motive := fun a => kv ∈ a → ∃ v, (kv.1, v) ∈ t ∧ kv.2 = f kv.1 v) t _ (by simp) ?_
  intro a ih x hx hkv
  rcases mem_tset _ _ _ _ _ hkv with rfl | ha
  · exact ⟨x.2, hx, rfl⟩
  · exact ih ha

/-- A read gives an entry of the table or the default. -/
theorem tget_mem_or (d : α) (t : List (Nat × α)) (k : Nat) : (k, tget d t k) ∈ t ∨ tget d t k = d := by
  induction t with
  | nil => exact .inr rfl
  | cons x r ih =>
    obtain ⟨a, v⟩ := x
    by_cases h : k = a
    · subst h; simp [tget]
    · simpa [tget, h] using ih

/-- In canonical form every key is above the bound. -/
theorem lt_of_mem_twfFrom [DecidableEq α] {d : α} {t : List (Nat × α)} {lo : Nat}
    (w : twfFrom d (some lo) t = true) : ∀ kv ∈ t, lo < kv.1 := by
  induction t generalizing lo with
  | nil => simp
  | cons x r ih =>
    obtain ⟨k, v⟩ := x
    rw [twfFrom_cons] at w
    obtain ⟨hk, -, hr⟩ := w
    have hk : lo < k := by simpa [above] using hk
    rintro kv (_ | ⟨_, h⟩)
    · exact hk
    · exact hk.trans (ih hr kv h)

/-- In canonical form an entry is what its key reads as. -/
theorem tget_of_mem [DecidableEq α] {d : α} {t : List (Nat × α)} (w : twf d t = true) {kv : Nat × α} (h : kv ∈ t) :
    tget d t kv.1 = kv.2 := by
  unfold twf at w
  generalize none = lo at w
  induction t generalizing lo with
  | nil => simp at h
  | cons x r ih =>
    obtain ⟨k, v⟩ := x
    rw [twfFrom_cons] at w
    rcases List.mem_cons.1 h with rfl | hr
    · simp [tget]
    · have := lt_of_mem_twfFrom w.2.2 kv hr
      rw [tget, if_neg (by omega)]
      exact ih hr _ w.2.2

/-- A map of a table in canonical form reads as the map of what the table reads as. -/
theorem tget_tmap [DecidableEq α] {d : α} {t : List (Nat × α)} (w : twf d t = true) (f : Nat → α → α) (k : Nat)
    (hd : f k d = d) : tget d (tmap d t f) k = f k (tget d t k) := by
  suffices h : ∀ lo a, twfFrom d lo t = true → twf d a = true →
      tget d (t.foldl (fun a kv => tset d a kv.1 (f kv.1 kv.2)) a) k =
        if t.any (·.1 == k) then f k (tget d t k) else tget d a k by
    rw [tmap, h none [] w rfl]
    split
    · rfl
    · next hk =>
      rcases tget_mem_or d t k with hm | hm
      · exact absurd (List.any_eq_true.2 ⟨_, hm, beq_self_eq_true k⟩) hk
      · simp [hm, hd, tget]
  clear w
  induction t with
  | nil => simp
  | cons x r ih =>
    intro lo a w wa
    obtain ⟨b, v⟩ := x
    obtain ⟨-, -, wr⟩ := (twfFrom_cons d lo b v r).1 w
    rw [List.foldl_cons, ih _ _ wr (twf_tset d a b _ wa), tget_tset d a b k _ wa]
    by_cases hk : k = b
    · subst hk
      have hr : r.any (·.1 == k) = false := List.any_eq_false.2 fun kv hkv => by
        have := lt_of_mem_twfFrom wr kv hkv
        simp; omega
      simp [hr, tget]
    · rw [if_neg hk, tget, if_neg hk, List.any_cons, beq_false_of_ne (Ne.symm hk), Bool.false_or]

end Sys2Proof.Machine
end

section
/-! SUPPORT. What is left of queues, commands and rows when some go, and what discarding commands touches. -/

namespace Sys2Proof.Machine

/-! ### What stays of the queues, the commands and the rows -/

/-- `b` is `a` without the submission queues of the controllers of `D`. -/
structure SqsLeft (D : Set Nat) (a b : List (Nat × Sq)) : Prop where
  sub : ∀ kv ∈ b, ctrlOfSq kv.1 ∉ D ∧ ∃ v, (kv.1, v) ∈ a
  wf : twf {} a = true → twf {} b = true
  live : twf {} a = true → ∀ k, ctrlOfSq k ∉ D → (tget {} b k).live = (tget {} a k).live

theorem SqsLeft.refl (a : List (Nat × Sq)) : SqsLeft ∅ a a :=
  ⟨fun kv h => ⟨Set.notMem_empty _, kv.2, h⟩, id, fun _ _ _ => rfl⟩

theorem SqsLeft.trans {D E : Set Nat} {a b c : List (Nat × Sq)} (h : SqsLeft D a b) (k : SqsLeft E b c) :
    SqsLeft (D ∪ E) a c where
  sub kv hkv := by
    obtain ⟨hE, v, hv⟩ := k.sub kv hkv
    obtain ⟨hD, w⟩ := h.sub _ hv
    exact ⟨fun hu => hu.elim hD hE, w⟩
  wf w := k.wf (h.wf w)
  live w q hq := (k.live (h.wf w) q fun x => hq (.inr x)).trans (h.live w q fun x => hq (.inl x))

/-- A queue that is changed where it stands is live as before. -/
theorem sqsLeft_tmap (a : List (Nat × Sq)) (f : Nat → Sq → Sq) (hf : ∀ k, f k {} = {})
    (hl : ∀ k q, (f k q).live = q.live) : SqsLeft ∅ a (tmap {} a f) where
  sub kv hkv := by
    obtain ⟨v, hv, -⟩ := mem_tmap hkv
    exact ⟨Set.notMem_empty _, v, hv⟩
  wf _ := twf_tmap _ _ _
  live w k _ := by rw [tget_tmap w f k (hf k), hl]

theorem sqsLeft_tdrop (a : List (Nat × Sq)) (c : Nat) : SqsLeft {c} a (tdrop a (fun k _ => ctrlOfSq k == c)) where
  sub kv hkv := by
    obtain ⟨hkv, hc⟩ := List.mem_filter.1 hkv
    exact ⟨by simpa using hc, kv.2, hkv⟩
  wf := twf_tdrop _ _ _
  live _ k hk := by
    rw [tget_tdrop_key {} a (fun k => ctrlOfSq k == c), if_neg (by simpa using hk)]

/-- `b` is `a` without the commands of the controllers of `D`. -/
structure CmdsLeft (D : Set Nat) (a b : List (Nat × Cmd)) : Prop where
  sub : ∀ kv ∈ b, kv ∈ a ∧ ctrlOfSq kv.2.sq ∉ D
  wf : twf {} a = true → twf {} b = true
  kept : twf {} a = true → ∀ kv ∈ a, ctrlOfSq kv.2.sq ∉ D → kv ∈ b

theorem CmdsLeft.refl (a : List (Nat × Cmd)) : CmdsLeft ∅ a a :=
  ⟨fun _ h => ⟨h, Set.notMem_empty _⟩, id, fun _ _ h _ => h⟩

theorem CmdsLeft.trans {D E : Set Nat} {a b c : List (Nat × Cmd)} (h : CmdsLeft D a b) (k : CmdsLeft E b c) :
    CmdsLeft (D ∪ E) a c where
  sub kv hkv := by
    obtain ⟨hb, hE⟩ := k.sub kv hkv
    obtain ⟨ha, hD⟩ := h.sub kv hb
    exact ⟨ha, fun hu => hu.elim hD hE⟩
  wf w := k.wf (h.wf w)
  kept w kv hkv hu := k.kept (h.wf w) kv (h.kept w kv hkv fun x => hu (.inl x)) fun x => hu (.inr x)

/-- The commands of the controllers `p` holds of leave the table by their numbers. -/
theorem cmdsLeft_tdrop (a : List (Nat × Cmd)) (p : Nat → Bool) :
    CmdsLeft {c | p c = true} a
      (tdrop a (fun k _ => (tkeys a (fun _ d => p (ctrlOfSq d.sq))).contains k)) where
  sub kv hkv := by
    obtain ⟨hkv, hk⟩ := List.mem_filter.1 hkv
    refine ⟨hkv, fun hp => ?_⟩
    have : kv.1 ∈ tkeys a (fun _ d => p (ctrlOfSq d.sq)) := List.mem_map_of_mem (List.mem_filter.2 ⟨hkv, hp⟩)
    simp [this] at hk
  wf := twf_tdrop _ _ _
  kept w kv hkv hp := by
    refine List.mem_filter.2 ⟨hkv, ?_⟩
    simp only [Bool.not_eq_true', List.contains_eq_mem, decide_eq_false_iff_not]
    intro hk
    obtain ⟨kw, hkw, hkey⟩ := List.mem_map.1 hk
    obtain ⟨hkw, hpw⟩ := List.mem_filter.1 hkw
    have : kw.2 = kv.2 := by rw [← tget_of_mem w hkw, ← tget_of_mem w hkv, hkey]
    exact hp (this ▸ hpw)

/-- A row is as it was, or one that reads held has become erase-pending (R274). -/
def RowLeft (v w : Row) : Prop := w = v ∨ v.st = .leaving ∧ w.st = .pending

/-- In canonical form, every row of `b` is what is left of that of `a`. -/
def RowsLeft (a b : List (Nat × Row)) : Prop :=
  twf {} a = true → twf {} b = true ∧ ∀ k, RowLeft (tget {} a k) (tget {} b k)

theorem RowsLeft.refl (a : List (Nat × Row)) : RowsLeft a a := fun w => ⟨w, fun _ => .inl rfl⟩

theorem RowsLeft.trans {a b c : List (Nat × Row)} (h : RowsLeft a b) (k : RowsLeft b c) : RowsLeft a c := by
  intro w
  obtain ⟨wb, hb⟩ := h w
  obtain ⟨wc, hc⟩ := k wb
  refine ⟨wc, fun i => ?_⟩
  rcases hc i with e | ⟨hl, hp⟩
  · rw [e]; exact hb i
  · rcases hb i with e | ⟨-, hp'⟩
    · exact .inr ⟨e ▸ hl, hp⟩
    · rw [hp'] at hl; cases hl

theorem leaveWaits_rows (s : State) : RowsLeft s.rows (leaveWaits s).rows := by
  intro w
  simp only [leaveWaits]
  refine ⟨twf_tmap _ _ _, fun k => ?_⟩
  rw [tget_tmap w _ k rfl]
  split
  · next h => exact .inr ⟨by simp_all, rfl⟩
  · exact .inl rfl

theorem feed_rows (s : State) : (feed s).rows = s.rows := by rw [feed_eq]

theorem dropReads_rows (s : State) (p : Owner → Bool) : RowsLeft s.rows (dropReads s p).rows := by
  unfold dropReads
  dsimp only
  split
  · exact RowsLeft.refl _
  · generalize hf : feed _ = u
    have hu : u.rows = s.rows := by rw [← hf, feed_rows]
    exact hu ▸ leaveWaits_rows u

/-! ### Commands are discarded (R29) -/

theorem NoFinishWaits.finPend {s : State} (h : NoFinishWaits s) (k : Nat) : (getZone s k).finPend = false := by
  rcases tget_mem_or {} s.zones k with hm | hm
  · exact h _ hm
  · rw [getZone, hm]

theorem slotFreed_quiet {s : State} (h : NoFinishWaits s) (c : Cmd) : slotFreed s c = s := by
  unfold slotFreed
  split
  · simp [h.finPend]
  · rfl

/-- Where no finish waits for a write slot, a discard touches buffers, codeword reads, the rows they held and the
command (R29, R171). -/
theorem discard_quiet {s : State} (h : NoFinishWaits s) (id : Nat) :
    discard s id = { s with
      pool := (discard s id).pool, comms := (discard s id).comms, niches := (discard s id).niches
      reads := (discard s id).reads, sched := (discard s id).sched, rows := (discard s id).rows
      cipher := { s.cipher with segs := (discard s id).cipher.segs }
      cmds := tdrop s.cmds (fun k _ => k == id) } ∧ RowsLeft s.rows (discard s id).rows := by
  unfold discard
  dsimp only
  rw [slotFreed_quiet]
  · unfold delCmd freeCmdBufs
    rw [releaseBufs_eq]
    refine ⟨?_, dropReads_rows s _⟩
    rw [dropReads_eq]
    rfl
  · unfold NoFinishWaits delCmd freeCmdBufs
    rw [releaseBufs_eq, dropReads_eq]
    exact h

theorem discard_noFinish {s : State} (h : NoFinishWaits s) (id : Nat) : NoFinishWaits (discard s id) := by
  rw [(discard_quiet h id).1]; exact h

theorem discards_quiet (l : List Nat) {s : State} (h : NoFinishWaits s) :
    l.foldl discard s = { s with
      pool := (l.foldl discard s).pool, comms := (l.foldl discard s).comms, niches := (l.foldl discard s).niches
      reads := (l.foldl discard s).reads, sched := (l.foldl discard s).sched, rows := (l.foldl discard s).rows
      cipher := { s.cipher with segs := (l.foldl discard s).cipher.segs }
      cmds := tdrop s.cmds (fun k _ => l.contains k) } ∧ RowsLeft s.rows (l.foldl discard s).rows := by
  induction l generalizing s with
  | nil => exact ⟨by simp [tdrop], RowsLeft.refl _⟩
  | cons x t ih =>
    obtain ⟨hd, hr⟩ := discard_quiet h x
    obtain ⟨ht, hr'⟩ := ih (discard_noFinish h x)
    have hc : tdrop (discard s x).cmds (fun k _ => t.contains k) = tdrop s.cmds (fun k _ => (x :: t).contains k) := by
      rw [hd]
      simp [tdrop, List.filter_filter, Bool.and_comm, beq_eq_decide]
    refine ⟨?_, hr.trans hr'⟩
    rw [List.foldl_cons, ← hc, ht, hd]

end Sys2Proof.Machine
end

section
/-! SUPPORT. The steps of a controller reset: its commissions close with events on other controllers, its queues and
commands go, and the media stay. -/

namespace Sys2Proof.Machine

/-! ### A commission closes: events on its niche's controllers (R157, R207, R211) -/

/-- What of a controller no event changes: CC.EN, AQA and the Error Information log. -/
def ctrlRegs (v : Ctrl) : Bool × Nat × List ErrEnt := (v.en, v.aqa, v.errs)

theorem ctrlRegs_eq {v : Ctrl} {en : Bool} {aqa : Nat} {errs : List ErrEnt} :
    ctrlRegs v = (en, aqa, errs) ↔ v.en = en ∧ v.aqa = aqa ∧ v.errs = errs := by
  simp [ctrlRegs]

/-- `t` is `s` with other events on controllers, other commissions and other bindings of queues. -/
structure CloseStep (s t : State) : Prop where
  rest : ∃ ctrls sqs cqs niches comms cms glb, t = { s with
    ctrls := ctrls, sqs := sqs, cqs := cqs, niches := niches, comms := comms, cms := cms, glb := glb }
  wf : twf {} s.ctrls = true → twf {} t.ctrls = true
  regs : ∀ d, ctrlRegs (getCtrl t d) = ctrlRegs (getCtrl s d)
  cqs : ∀ k, (getCq t k).live = (getCq s k).live
  sqs : SqsLeft ∅ s.sqs t.sqs

theorem CloseStep.refl (s : State) : CloseStep s s :=
  ⟨⟨_, _, _, _, _, _, _, rfl⟩, id, fun _ => rfl, fun _ => rfl, SqsLeft.refl _⟩

theorem CloseStep.trans {s t u : State} (h : CloseStep s t) (k : CloseStep t u) : CloseStep s u where
  rest := by
    obtain ⟨_, _, _, _, _, _, _, rfl⟩ := h.rest
    obtain ⟨_, _, _, _, _, _, _, rfl⟩ := k.rest
    exact ⟨_, _, _, _, _, _, _, rfl⟩
  wf w := k.wf (h.wf w)
  regs d := (k.regs d).trans (h.regs d)
  cqs q := (k.cqs q).trans (h.cqs q)
  sqs := by simpa using h.sqs.trans k.sqs

theorem closeStep_foldl {β : Type} (f : State → β → State) (l : List β) (s : State)
    (h : ∀ a x, CloseStep a (f a x)) : CloseStep s (l.foldl f s) :=
  List.foldlRecOn l f (CloseStep.refl s) fun a ha x _ => ha.trans (h a x)

theorem closeStep_setCtrl {s : State} {c : Nat} {v : Ctrl} (hv : v ≠ {})
    (hr : ctrlRegs v = ctrlRegs (getCtrl s c)) : CloseStep s (setCtrl s c v) where
  rest := ⟨_, _, _, _, _, _, _, rfl⟩
  wf := twf_tset _ _ _ _
  regs d := by
    by_cases hd : d = c
    · subst hd; rw [getCtrl_setCtrl_same _ _ _ hv, hr]
    · rw [getCtrl_setCtrl_ne _ hd]
  cqs _ := rfl
  sqs := SqsLeft.refl _

theorem closeStep_adone (s : State) (c cid : Nat) (st : Status) (dw0 : Nat) :
    CloseStep s (adone s c cid st dw0) where
  rest := ⟨_, _, _, _, _, _, _, rfl⟩
  wf := id
  regs _ := rfl
  cqs k := by
    by_cases hk : k = qk c 0
    · subst hk
      simp only [adone, schedule, beq_self_eq_true, if_true]
      rw [getCq_setCq_same]
      intro h
      simpa using congrArg Cq.waiting h
    · rw [adone_other _ _ _ _ _ _ _ _ hk]
  sqs := SqsLeft.refl _

theorem closeStep_pumpEvs (c fuel : Nat) (s : State) : CloseStep s (pumpEvs s c fuel) := by
  induction fuel generalizing s with
  | zero => exact CloseStep.refl s
  | succ n ih =>
    unfold pumpEvs
    dsimp only
    split
    · refine ((closeStep_setCtrl ?_ ?_).trans (closeStep_adone _ _ _ _ _)).trans (ih _)
      · exact fun h => by simpa using congrArg Ctrl.waitLog h
      · rfl
    · exact CloseStep.refl s

theorem closeStep_raiseOn (s : State) (c : Nat) (e : Ev) : CloseStep s (raiseOn s c e) := by
  unfold raiseOn
  dsimp only
  refine CloseStep.trans ?_ (closeStep_pumpEvs _ _ _)
  generalize (if (getCtrl s c).waitLog.any (sameKind e) then 1 else 2 : Nat) = lim
  split
  · refine closeStep_setCtrl ?_ ?_
    · exact fun h => by simpa using congrArg Ctrl.evs h
    · rfl
  · exact CloseStep.refl s

theorem closeStep_raiseAll (s : State) (cs : List Nat) (e : Ev) : CloseStep s (raiseAll s cs e) :=
  closeStep_foldl _ _ _ fun a c => closeStep_raiseOn a c e

/-- An update of the commissions, the device's and the niche's admission state alone. -/
theorem closeStep_comms (s : State) (niches) (comms) (cms) (glb) :
    CloseStep s { s with niches := niches, comms := comms, cms := cms, glb := glb } :=
  ⟨⟨_, _, _, _, _, _, _, rfl⟩, id, fun _ => rfl, fun _ => rfl, SqsLeft.refl _⟩

theorem closeStep_commEvent (s : State) (h code : Nat) : CloseStep s (commEvent s h code) := by
  unfold commEvent
  dsimp only
  split
  · exact CloseStep.refl s
  · refine CloseStep.trans ?_ (closeStep_raiseAll _ _ _)
    split
    · exact closeStep_comms _ _ _ _ _
    · exact closeStep_comms _ _ _ _ _

theorem closeStep_closeByDevice (s : State) (why h : Nat) : CloseStep s (closeByDevice s why h) := by
  unfold closeByDevice
  dsimp only
  split
  · exact CloseStep.refl s
  · have hq : SqsLeft ∅ s.sqs (tmap {} s.sqs fun _ q => if q.comm == some h then { q with comm := none } else q) :=
      sqsLeft_tmap _ _ (fun _ => rfl) fun _ q => by split <;> rfl
    refine CloseStep.trans (CloseStep.trans ?_ (closeStep_comms _ _ _ _ _)) (closeStep_commEvent _ _ _)
    exact ⟨⟨_, _, _, _, _, _, _, rfl⟩, id, fun _ => rfl, fun _ => rfl, hq⟩

theorem closeStep_closeGone (s : State) : CloseStep s (closeGone s) :=
  closeStep_foldl _ _ _ fun a h => closeStep_closeByDevice a 1 h

/-! ### What the media hold while functions are reset -/

/-- The parts of a state that say what the media hold and what the device guards. -/
def mediaOf (s : State) : List (Nat × Sector) × List (Nat × Stripe) × List (Nat × Row) × List (Nat × Fine) ×
    List (Nat × Ns) × List (Nat × Zone) × Guarded :=
  (s.sectors, s.stripes, s.rows, s.fine, s.ns, s.zones, guarded s)

/-- `MediaKept` as a relation that composes: rows stay in canonical form, and no finish begins to wait. -/
structure MediaStill (s t : State) : Prop where
  sectors : t.sectors = s.sectors
  stripes : t.stripes = s.stripes
  rows : RowsLeft s.rows t.rows
  fine_ : t.fine = s.fine
  ns : t.ns = s.ns
  guards : guarded t = guarded s
  finish : NoFinishWaits s → NoFinishWaits t

theorem MediaStill.of_eq {s t : State} (h : mediaOf t = mediaOf s) : MediaStill s t := by
  simp only [mediaOf, Prod.mk.injEq] at h
  obtain ⟨hsec, hstr, hrow, hfine, hns, hzone, hg⟩ := h
  exact ⟨hsec, hstr, hrow ▸ RowsLeft.refl _, hfine, hns, hg, fun hs kv hkv => hs kv (hzone ▸ hkv)⟩

theorem MediaStill.refl (s : State) : MediaStill s s := .of_eq rfl

theorem MediaStill.trans {s t u : State} (h : MediaStill s t) (k : MediaStill t u) : MediaStill s u :=
  ⟨k.sectors.trans h.sectors, k.stripes.trans h.stripes, h.rows.trans k.rows, k.fine_.trans h.fine_,
    k.ns.trans h.ns, k.guards.trans h.guards, k.finish ∘ h.finish⟩

theorem MediaStill.mediaKept {s t : State} (h : MediaStill s t) : MediaKept s t where
  sectors := h.sectors
  stripes := h.stripes
  rows w k hk := ((h.rows w).2 k).resolve_right fun x => hk x.1
  leaving w k hk := ((h.rows w).2 k).imp (fun e => (congrArg Row.st e).trans hk) And.right
  fine_ := h.fine_
  ns := h.ns
  guards := h.guards

/-- `t` is `s` without the queues and the commands of the controllers of `D` (R130). -/
structure Drops (D : Set Nat) (s t : State) : Prop extends MediaStill s t where
  clk : t.clk = s.clk
  pat : t.pat = s.pat
  sqs : SqsLeft D s.sqs t.sqs
  cqs : ∀ k, (getCq t k).live = true → (getCq s k).live = true ∧ k / 65536 ∉ D
  cmds : CmdsLeft D s.cmds t.cmds

theorem Drops.refl (s : State) : Drops ∅ s s :=
  ⟨MediaStill.refl s, rfl, rfl, SqsLeft.refl _, fun _ h => ⟨h, Set.notMem_empty _⟩, CmdsLeft.refl _⟩

theorem Drops.trans {D E : Set Nat} {s t u : State} (h : Drops D s t) (k : Drops E t u) : Drops (D ∪ E) s u where
  toMediaStill := h.toMediaStill.trans k.toMediaStill
  clk := k.clk.trans h.clk
  pat := k.pat.trans h.pat
  sqs := h.sqs.trans k.sqs
  cqs q hq := by
    obtain ⟨ht, hE⟩ := k.cqs q hq
    obtain ⟨hs, hD⟩ := h.cqs q ht
    exact ⟨hs, fun hu => hu.elim hD hE⟩
  cmds := h.cmds.trans k.cmds

theorem Drops.noQueues {D : Set Nat} {s t : State} (h : Drops D s t) {c : Nat} (hc : c ∈ D) : NoQueues t c where
  sqs q hq := by
    rcases tget_mem_or {} t.sqs (qk c q) with hm | hm
    · have := (h.sqs.sub _ hm).1
      rw [ctrlOfSq_qk c q hq] at this
      exact absurd hc this
    · rw [getSq, hm]
  cqs q hq := by
    by_contra hl
    have := (h.cqs _ (by simpa using hl)).2
    rw [qk_ctrl c q hq] at this
    exact this hc
  cmds kv hkv he := (h.cmds.sub kv hkv).2 (he ▸ hc)

theorem Drops.noFlush {D : Set Nat} {s t : State} (h : Drops D s t) (hs : NoFlushWaits s) : NoFlushWaits t :=
  fun kv hkv => hs kv (h.cmds.sub kv hkv).1

theorem CloseStep.drops {s t : State} (h : CloseStep s t) : Drops ∅ s t := by
  obtain ⟨⟨_, _, _, _, _, _, _, rfl⟩, -, -, hc, hq⟩ := h
  exact { Drops.refl s with
    toMediaStill := .of_eq rfl
    sqs := hq
    cqs := fun k hk => ⟨hc k ▸ hk, Set.notMem_empty _⟩ }

theorem drops_setCtrl (s : State) (c : Nat) (v : Ctrl) : Drops ∅ s (setCtrl s c v) :=
  { Drops.refl s with toMediaStill := .of_eq rfl }

theorem drops_setPort (s : State) (p : Nat) (v : Port) : Drops ∅ s (setPort s p v) :=
  { Drops.refl s with toMediaStill := .of_eq rfl }

/-! ### A controller's queues are dropped (R130) -/

theorem dropCtls_only (l : List CtlReq) (s : State) : l.foldl dropCtl s = { s with
    pool := (l.foldl dropCtl s).pool, comms := (l.foldl dropCtl s).comms, niches := (l.foldl dropCtl s).niches } := by
  induction l generalizing s with
  | nil => rfl
  | cons r l ih =>
    have hr : dropCtl s r = { s with
        pool := (dropCtl s r).pool, comms := (dropCtl s r).comms, niches := (dropCtl s r).niches } := by
      unfold dropCtl; dsimp only; rw [freeOwned_eq]
    rw [List.foldl_cons, ih, hr]

theorem endHold_only (s : State) (k : Nat) : endHold s k = { s with zones := (endHold s k).zones } := by
  unfold endHold; split <;> rfl

theorem endHold_noFinish {s : State} (h : NoFinishWaits s) (k : Nat) : NoFinishWaits (endHold s k) := by
  unfold endHold
  split
  · intro kv hkv
    rcases mem_tset _ _ _ _ _ hkv with rfl | hm
    · exact h.finPend _
    · exact h kv hm
  · exact h

theorem endHolds_only (l : List Nat) (s : State) :
    l.foldl endHold s = { s with zones := (l.foldl endHold s).zones } := by
  induction l generalizing s with
  | nil => rfl
  | cons k l ih => rw [List.foldl_cons, ih, endHold_only]

theorem endHolds_noFinish (l : List Nat) {s : State} (h : NoFinishWaits s) : NoFinishWaits (l.foldl endHold s) :=
  List.foldlRecOn l endHold h fun _ ha k _ => endHold_noFinish ha k

theorem dropQueues_quiet {s : State} (h : NoFinishWaits s) (c : Nat) :
    Drops {c} s (dropQueues s c) ∧ (dropQueues s c).ctrls = s.ctrls ∧ (dropQueues s c).ports = s.ports := by
  unfold dropQueues
  dsimp only
  generalize h0 : List.foldl dropCtl s _ = s0
  have e0 := dropCtls_only (s.pool.ctl.filter (fun r => r.c == c)) s
  rw [h0] at e0
  generalize hl : tkeys s0.cmds _ = l
  have n0 : NoFinishWaits s0 := by rw [e0]; exact h
  obtain ⟨e1, r1⟩ := discards_quiet l n0
  generalize h1 : l.foldl discard s0 = s1 at e1 r1 ⊢
  have n1 : NoFinishWaits s1 := by rw [e1]; exact n0
  generalize tkeys s1.sqs _ = m
  have e2 := endHolds_only m s1
  have n2 := endHolds_noFinish m n1
  generalize m.foldl endHold s1 = s2 at e2 n2 ⊢
  have r2 : RowsLeft s.rows s2.rows := by rw [e2]; rwa [e0] at r1
  have hc : CmdsLeft {c} s.cmds (tdrop s.cmds (fun k _ => l.contains k)) := by
    rw [← hl, e0]
    simpa using cmdsLeft_tdrop s.cmds (· == c)
  have e : s2 = { s with
      pool := s2.pool, comms := s2.comms, niches := s2.niches, reads := s2.reads, sched := s2.sched, rows := s2.rows
      zones := s2.zones, cipher := { s.cipher with segs := s2.cipher.segs }
      cmds := tdrop s.cmds (fun k _ => l.contains k) } := by
    rw [e2, e1, e0]
  clear e0 e1 e2 r1
  rw [e]
  exact ⟨{
    sectors := rfl, stripes := rfl, rows := r2, fine_ := rfl, ns := rfl, guards := rfl, finish := fun _ => n2
    clk := rfl, pat := rfl, sqs := sqsLeft_tdrop _ _, cmds := hc
    cqs := fun k hk => by
      rw [getCq, tget_tdrop_key {} s.cqs (fun k => k / 65536 == c)] at hk
      split at hk
      · cases hk
      · next hc => exact ⟨hk, by simpa using hc⟩ }, rfl, rfl⟩

end Sys2Proof.Machine
end

section
/-! SUPPORT. A function's reset, one and many: registers, ports, queues and commands of the functions reset and of the
others. -/

namespace Sys2Proof.Machine

/-! ### Functions are reset (R90, R456, R463) -/

/-- No Flush and no finish waits, and the tables of controllers and of ports are in canonical form. -/
structure Settled (s : State) : Prop where
  flush : NoFlushWaits s
  finish : NoFinishWaits s
  ctrls : twf {} s.ctrls = true
  ports : twf {} s.ports = true

theorem getCtrl_setCtrl {s : State} (w : twf {} s.ctrls = true) (c d : Nat) (v : Ctrl) :
    getCtrl (setCtrl s c v) d = if d = c then v else getCtrl s d := tget_tset _ s.ctrls c d v w

theorem getPort_setPort {s : State} (w : twf {} s.ports = true) (p q : Nat) (v : Port) :
    getPort (setPort s p v) q = if q = p then v else getPort s q := tget_tset _ s.ports p q v w

theorem ctrlRegs_keptCtrl (v : Ctrl) : ctrlRegs (keptCtrl v) = (false, v.aqa, v.errs) := rfl

/-- A controller reset drops the controller's queues and clears CC.EN; AQA, the Error Information log, the other
controllers' registers and the ports stand (R130, R456, R463). -/
theorem dropController_quiet {s : State} (hs : Settled s) (c : Nat) :
    Drops {c} s (dropController s c) ∧ (dropController s c).ports = s.ports ∧
      twf {} (dropController s c).ctrls = true ∧
      ∀ d, ctrlRegs (getCtrl (dropController s c) d) =
        if d = c then (false, (getCtrl s c).aqa, (getCtrl s c).errs) else ctrlRegs (getCtrl s d) := by
  obtain ⟨hq, hc, hp⟩ := dropQueues_quiet hs.finish c
  unfold dropController
  dsimp only
  generalize dropQueues s c = a at hq hc hp ⊢
  have hr : ∀ d, getCtrl a d = getCtrl s d := fun d => by rw [getCtrl, hc]; rfl
  have wa : twf {} a.ctrls = true := hc ▸ hs.ctrls
  have hg := closeStep_closeGone (setCtrl a c (keptCtrl (getCtrl a c)))
  have hd : Drops {c} s (closeGone (setCtrl a c (keptCtrl (getCtrl a c)))) := by
    simpa using (hq.trans (drops_setCtrl a c _)).trans hg.drops
  rw [settle_none _ (hd.noFlush hs.flush)]
  refine ⟨hd, ?_, hg.wf (twf_tset _ _ _ _ wa), fun d => ?_⟩
  · obtain ⟨_, _, _, _, _, _, _, e⟩ := hg.rest
    rw [e]; exact hp
  · rw [hg.regs, getCtrl_setCtrl wa, hr, hr]
    split
    · rw [ctrlRegs_keptCtrl]
    · rfl

/-- A function's reset returns its registers but the Error Information log (R456, R463). -/
theorem dropFunction_quiet {s : State} (hs : Settled s) (c : Nat) :
    Drops {c} s (dropFunction s c) ∧ Settled (dropFunction s c) ∧ (dropFunction s c).ports = (dropAer s c).ports ∧
      ∀ d, ctrlRegs (getCtrl (dropFunction s c) d) =
        if d = c then (false, 0, (getCtrl s c).errs) else ctrlRegs (getCtrl s d) := by
  have ha : Settled (dropAer s c) := ⟨hs.flush, hs.finish, hs.ctrls, twf_tset _ _ _ _ hs.ports⟩
  have da : Drops ∅ s (dropAer s c) := drops_setPort _ _ _
  obtain ⟨hd, hp, hw, hr⟩ := dropController_quiet ha c
  unfold dropFunction
  dsimp only
  generalize dropController (dropAer s c) c = t at hd hp hw hr ⊢
  have ht : ∀ v, Drops {c} s (setCtrl t c v) := fun v => by simpa using (da.trans hd).trans (drops_setCtrl t c v)
  have re : (getCtrl t c).errs = (getCtrl s c).errs := by
    have := hr c
    rw [if_pos rfl] at this
    exact (ctrlRegs_eq.1 this).2.2
  refine ⟨ht _, ⟨(ht _).noFlush hs.flush, (ht _).finish hs.finish, twf_tset _ _ _ _ hw, ?_⟩, hp, fun d => ?_⟩
  · rw [setCtrl_ports, hp]; exact ha.ports
  · rw [getCtrl_setCtrl hw]
    by_cases h : d = c
    · rw [if_pos h, if_pos h, ← re]; rfl
    · rw [if_neg h, if_neg h, hr, if_neg h]; rfl

/-- `t` is `s` with the functions of `D` reset, all of them of port `p`. -/
structure Resets (D : Set Nat) (p : Nat) (s t : State) : Prop extends Drops D s t where
  settled : Settled t
  off : ∀ d ∈ D, ctrlRegs (getCtrl t d) = (false, 0, (getCtrl s d).errs)
  on : ∀ d ∉ D, ctrlRegs (getCtrl t d) = ctrlRegs (getCtrl s d)
  port : getPort t p = { getPort s p with aer := (getPort t p).aer }
  others : ∀ q, q ≠ p → getPort t q = getPort s q

theorem Resets.refl {s : State} (hs : Settled s) (p : Nat) : Resets ∅ p s s :=
  { Drops.refl s with
    settled := hs, off := fun _ h => h.elim, on := fun _ _ => rfl, port := rfl, others := fun _ _ => rfl }

theorem Resets.errs {D : Set Nat} {p : Nat} {s t : State} (h : Resets D p s t) (d : Nat) :
    (getCtrl t d).errs = (getCtrl s d).errs := by
  by_cases hd : d ∈ D
  · exact (ctrlRegs_eq.1 (h.off d hd)).2.2
  · exact (ctrlRegs_eq.1 (h.on d hd)).2.2

theorem Resets.trans {D E : Set Nat} {p : Nat} {s t u : State} (h : Resets D p s t) (k : Resets E p t u) :
    Resets (D ∪ E) p s u where
  toDrops := h.toDrops.trans k.toDrops
  settled := k.settled
  off d hd := by
    by_cases hE : d ∈ E
    · rw [k.off d hE, h.errs]
    · rw [k.on d hE, h.off d (hd.resolve_right hE)]
  on d hd := (k.on d fun x => hd (.inr x)).trans (h.on d fun x => hd (.inl x))
  port := by rw [k.port, h.port]
  others q hq := (k.others q hq).trans (h.others q hq)

theorem getPort_dropAer {s : State} (hs : Settled s) (c q : Nat) :
    getPort (dropAer s c) q = if q = portOf c
      then { getPort s (portOf c) with aer := (getPort s (portOf c)).aer.filter (fun x => x.1 != fnOf c) }
      else getPort s q := getPort_setPort hs.ports _ _ _

theorem dropFunction_resets {s : State} (hs : Settled s) (c : Nat) : Resets {c} (portOf c) s (dropFunction s c) := by
  obtain ⟨hd, ht, hp, hr⟩ := dropFunction_quiet hs c
  have pt : ∀ q, getPort (dropFunction s c) q = getPort (dropAer s c) q := fun q => by rw [getPort, hp]; rfl
  exact { hd with
    settled := ht
    off := by rintro d rfl; rw [hr, if_pos rfl]
    on := fun d h => by rw [hr, if_neg (by simpa using h)]
    port := by rw [pt, getPort_dropAer hs, if_pos rfl]
    others := fun q h => by rw [pt, getPort_dropAer hs, if_neg h] }

theorem dropFunctions_resets (l : List Nat) {p : Nat} (hl : ∀ c ∈ l, portOf c = p) {s : State} (hs : Settled s) :
    Resets {c | c ∈ l} p s (l.foldl dropFunction s) := by
  induction l generalizing s with
  | nil => simpa using Resets.refl hs p
  | cons c l ih =>
    have h := dropFunction_resets hs c
    rw [hl c List.mem_cons_self] at h
    have k := ih (fun d hd => hl d (List.mem_cons_of_mem _ hd)) h.settled
    have e : {d | d ∈ c :: l} = ({c} ∪ {d | d ∈ l} : Set Nat) := by ext d; simp
    rw [List.foldl_cons, e]
    exact h.trans k

end Sys2Proof.Machine
end

section
/-! SUPPORT. The resets built of function resets, a Function Level Reset and a port warm reset, and what is decided of a
port's commands before one. -/

namespace Sys2Proof.Machine

theorem closeStage_only (s : State) (p : Nat) : closeStage s p = { s with arm := (closeStage s p).arm } := by
  unfold closeStage
  split
  · split <;> rfl
  · rfl

theorem trigger_only (s : State) : trigger s = { s with cms := (trigger s).cms } := by
  unfold trigger
  split
  · rfl
  · split <;> rfl

/-! ### A Function Level Reset (R90, R132, R456) -/

theorem flr_vf {s : State} (hs : Settled s) {c : Nat} (hc : isPf0 c = false) :
    Resets {c} (portOf c) s (flr s c) := by
  unfold flr
  simpa [hc] using dropFunction_resets hs c

theorem mem_vfs (p d : Nat) : d ∈ (List.range 63).map (fun i => p * 64 + i + 1) ↔ portOf d = p ∧ d ≠ p * 64 := by
  simp only [List.mem_map, List.mem_range, portOf]
  constructor
  · rintro ⟨i, hi, rfl⟩; omega
  · rintro ⟨h1, h2⟩; exact ⟨d - p * 64 - 1, by omega, by omega⟩

theorem mem_functions (p d : Nat) : d ∈ (List.range 64).map (fun i => p * 64 + i) ↔ portOf d = p := by
  simp only [List.mem_map, List.mem_range, portOf]
  constructor
  · rintro ⟨i, hi, rfl⟩; omega
  · intro h; exact ⟨d - p * 64, by omega, by omega⟩

theorem pf0_eq {c : Nat} (hc : isPf0 c = true) : c = portOf c * 64 := by
  simp only [isPf0, fnOf, beq_iff_eq] at hc
  unfold portOf
  omega

/-- A PF0 and its VFs are the functions of its port. -/
theorem pf0_union_vfs {c : Nat} (hc : isPf0 c = true) :
    ({c} ∪ {d | d ∈ (List.range 63).map (fun i => portOf c * 64 + i + 1)} : Set Nat) = {d | portOf d = portOf c} := by
  ext d
  have hd : d ∈ ({c} ∪ {d | d ∈ (List.range 63).map (fun i => portOf c * 64 + i + 1)} : Set Nat) ↔
      d = c ∨ portOf d = portOf c ∧ d ≠ c := by
    refine or_congr Iff.rfl ((mem_vfs _ d).trans ?_)
    rw [← pf0_eq hc]
  rw [hd]
  by_cases h : d = c
  · subst h; simp
  · simp [h]

/-- A PF0's reset reaches every function of its port and disables the VFs; besides, a staging sequence closes and a
re-evaluation may be asked for. -/
theorem flr_pf0 {s : State} (hs : Settled s) {c : Nat} (hc : isPf0 c = true) :
    ∃ u arm cms, Resets {d | portOf d = portOf c} (portOf c) s u ∧ flr s c =
      { setPort u (portOf c) { getPort u (portOf c) with
          vfOn := false, numVfs := 0, mps := 0, mrrs := 512, ptmEn := false, ptmAsk := false } with
        arm := arm, cms := cms } := by
  have h := dropFunction_resets hs c
  have k := h.trans (dropFunctions_resets _ (fun d hd => ((mem_vfs (portOf c) d).1 hd).1) h.settled)
  rw [pf0_union_vfs hc] at k
  refine ⟨_, (flr s c).arm, (flr s c).cms, k, ?_⟩
  unfold flr
  simp only [hc, Bool.not_true, Bool.false_eq_true, if_false]
  generalize List.foldl dropFunction _ _ = u
  split
  · rw [closeStage_only]
  · rw [trigger_only, closeStage_only]

/-! ### A port warm reset (R404, R406, R458) -/

theorem portReset_resets {s : State} (hs : Settled s) (p : Nat) :
    ∃ u arm cms arb gate0, Resets {d | portOf d = p} p s u ∧ portReset s p =
      { setPort u p { ({} : Port) with
          ptmM := (getPort u p).ptmM, ptmL := (getPort u p).ptmL, ptmF := (getPort u p).ptmF
          ptmSeq := (getPort u p).ptmSeq, ptmValid := (getPort u p).ptmValid } with
        arm := arm, cms := cms, arb := arb
        clk := { u.clk with
          gate0 := gate0
          fence := if u.clk.fence.contains (.port p) then u.clk.fence else u.clk.fence ++ [.port p] } } := by
  have h := dropFunctions_resets _ (fun d hd => (mem_functions p d).1 hd) hs
  rw [show {d | d ∈ (List.range 64).map (fun i => p * 64 + i)} = {d | portOf d = p} from
    Set.ext (mem_functions p)] at h
  refine ⟨_, (portReset s p).arm, (portReset s p).cms, (portReset s p).arb, (portReset s p).clk.gate0, h, ?_⟩
  unfold portReset
  dsimp only
  generalize List.foldl dropFunction s _ = u
  rw [trigger_only, closeStage_only]
  rfl

/-- What a warm reset of port `p` leaves, whatever it met: the port's functions without queues and commands, the link
down, the crossings of the port island fenced, and the media and the keys as they were. -/
structure PortWarm (p : Nat) (s t : State) : Prop extends MediaStill s t where
  queues : ∀ j, j < 64 → NoQueues t (p * 64 + j)
  dlup : (getPort t p).dlup = false
  linkDown : (getPort t p).linkDown = false
  fence : .port p ∈ t.clk.fence

theorem MediaStill.portWarm {p : Nat} {s t u : State} (h : MediaStill s t) (k : PortWarm p t u) : PortWarm p s u :=
  { k with toMediaStill := h.trans k.toMediaStill }

theorem portReset_warm {s : State} (hs : Settled s) (p : Nat) :
    PortWarm p s (portReset s p) ∧ (portReset s p).pat = s.pat := by
  obtain ⟨u, arm, cms, arb, gate0, hu, e⟩ := portReset_resets hs p
  rw [e]
  have hp := fun v => getPort_setPort hu.settled.ports p p v
  refine ⟨{ toMediaStill := hu.toMediaStill.trans (.of_eq rfl)
            queues := fun j hj => ?_, dlup := ?_, linkDown := ?_, fence := ?_ }, hu.pat⟩
  · have hn := hu.noQueues (c := p * 64 + j) (by show portOf _ = p; unfold portOf; omega)
    exact ⟨hn.sqs, hn.cqs, hn.cmds⟩
  · show (getPort (setPort u p _) p).dlup = false
    rw [hp, if_pos rfl]
  · show (getPort (setPort u p _) p).linkDown = false
    rw [hp, if_pos rfl]
  · dsimp only
    split
    · simp_all
    · simp

/-! ### The commands of a port are decided where none has its data (R91) -/

theorem arrived_congr {s t : State} (hc : t.cmds = s.cmds) (hn : t.ns = s.ns) (id : Nat) : arrived t id = arrived s id := by
  unfold arrived getCmd writesData deallocates zonedAt getNs
  rw [hc, hn]

/-- A port's submission queues, staged and fetched entries gone (R91 step 2). -/
def unstaged (p : Nat) (l : List (Nat × Sq)) : List (Nat × Sq) :=
  tmap {} l (fun k q => if portOf (k / 65536) == p then { q with staged := [], inflight := 0 } else q)

theorem tget_unstaged {p k : Nat} (hk : portOf (k / 65536) = p) (l : List (Nat × Sq)) :
    (tget {} (unstaged p l) k).staged = [] ∧ (tget {} (unstaged p l) k).inflight = 0 := by
  rcases tget_mem_or {} (unstaged p l) k with hm | hm
  · obtain ⟨v, -, hv⟩ := mem_tmap hm
    simp only at hv
    rw [hv]
    simp [hk]
  · rw [hm]; exact ⟨rfl, rfl⟩

/-- A port's completion queues, the entries not posted gone (R91 step 5). -/
def unposted (p : Nat) (l : List (Nat × Cq)) : List (Nat × Cq) :=
  tmap {} l (fun k q => if portOf (k / 65536) == p then { q with waiting := [] } else q)

/-- The commands of port `p`, by number. -/
def portCmds (s : State) (p : Nat) : List Nat := tkeys s.cmds (fun _ d => portOf (ctrlOfSq d.sq) == p)

/-- The port with what was decided of its commands: none committed (R91 step 7). -/
def allDiscarded (s : State) (p : Nat) : Port :=
  { getPort s p with committed := 0, discarded := (portCmds s p).length }

theorem keep_unarrived {s : State} (ha : ∀ kv ∈ s.cmds, arrived s kv.1 = false) (p : Nat) :
    (portCmds s p).filter (arrived s) = [] := by
  refine List.filter_eq_nil_iff.2 fun i hi => ?_
  obtain ⟨kv, hkv, rfl⟩ := List.mem_map.1 hi
  simp [ha kv (List.mem_of_mem_filter hkv)]

/-- Where no command's data have fully arrived, a port's commands are all discarded, and its staged and fetched
entries go (R91 steps 2 to 5). -/
theorem decidePort_unarrived {s : State} (hs : Settled s) (ha : ∀ kv ∈ s.cmds, arrived s kv.1 = false) (p : Nat) :
    ∃ pool comms niches reads sched rows segs, RowsLeft s.rows rows ∧ decidePort s p =
      setPort { s with
        pool := pool, comms := comms, niches := niches, reads := reads, sched := sched, rows := rows
        cipher := { s.cipher with segs := segs }, cmds := tdrop s.cmds (fun k _ => (portCmds s p).contains k)
        sqs := unstaged p s.sqs, cqs := unposted p s.cqs } p
        (allDiscarded s p) := by
  have hk := keep_unarrived ha p
  unfold decidePort allDiscarded
  dsimp only
  generalize hi : tkeys s.cmds (fun _ d => portOf (ctrlOfSq d.sq) == p) = ids
  rw [show portCmds s p = ids from hi] at hk ⊢
  have ha' : ids.filter (fun i => !(([] : List Nat).contains i)) = ids := by simp
  rw [hk, ha']
  obtain ⟨e, hr⟩ := discards_quiet ids hs.finish
  rw [List.foldl_nil]
  generalize ids.foldl discard s = u at e hr ⊢
  rw [settle_none]
  · refine ⟨u.pool, u.comms, u.niches, u.reads, u.sched, u.rows, u.cipher.segs, hr, ?_⟩
    rw [e]
    rfl
  · intro kv hkv
    rw [setPort_cmds, e] at hkv
    exact hs.flush kv (List.mem_of_mem_filter hkv)

theorem decidePort_still {s : State} (hs : Settled s) (ha : ∀ kv ∈ s.cmds, arrived s kv.1 = false) (p : Nat) :
    MediaStill s (decidePort s p) ∧ Settled (decidePort s p) := by
  obtain ⟨_, _, _, _, _, _, _, hr, e⟩ := decidePort_unarrived hs ha p
  rw [e]
  exact ⟨⟨rfl, rfl, hr, rfl, rfl, rfl, id⟩,
    ⟨fun kv hkv => hs.flush kv (List.mem_of_mem_filter hkv), hs.finish, hs.ctrls, twf_tset _ _ _ _ hs.ports⟩⟩

/-! ### The records of a reset (R91 step 7, R445) -/

/-- A record of a severity below 7 is one more event of the ring and raises none (R443, R445). -/
theorem patWrite_quiet (s : State) (r : PatRec) (h : r.sev ≠ 7) :
    patWrite s r = { s with pat := (patWrite s r).pat } ∧ (patWrite s r).pat.events = s.pat.events + 1 := by
  simp only [patWrite, patNew, if_neg h]
  split
  · exact ⟨rfl, rfl⟩
  · split <;> exact ⟨rfl, rfl⟩

theorem patina_quiet (s : State) (r : PatReq) (h : r.sev ≠ 7) :
    patina s r = { s with pat := (patina s r).pat } ∧ (patina s r).pat.events = s.pat.events + 1 := by
  have hw := patWrite_quiet s (mkPat s r) h
  unfold patina patStore
  split
  · split
    · exact ⟨rfl, rfl⟩
    · exact hw
  · exact hw

theorem linkRec_only (s : State) (p : Nat) : linkRec s p = { s with pat := (linkRec s p).pat } :=
  (patina_quiet _ _ (show 4 ≠ 7 by decide)).1

theorem linkRec_events (s : State) (p : Nat) : (linkRec s p).pat.events = s.pat.events + 1 :=
  (patina_quiet _ _ (show 4 ≠ 7 by decide)).2

theorem linkRec_still {s : State} (hs : Settled s) (p : Nat) : MediaStill s (linkRec s p) ∧ Settled (linkRec s p) := by
  rw [linkRec_only]
  exact ⟨.of_eq rfl, ⟨hs.flush, hs.finish, hs.ctrls, hs.ports⟩⟩

end Sys2Proof.Machine
end

section
/-! PROOFS. The host's resets of functions and ports as rows of the table, and O37. -/

namespace Sys2Proof.Machine

theorem wakeReset_awake {s : State} (h : Awake s) : wakeReset s = s := by
  obtain ⟨he, hp⟩ := h
  have h3 : s.pm.ps ≠ 3 := by omega
  have h4 : s.pm.ps ≠ 4 := by omega
  simp [wakeReset, wake, he, h3, h4]

/-- A port warm reset that meets commands whose data have not arrived (R91, R458). -/
theorem warmPort_warm {s : State} (hw : Awake s) (hs : Settled s) (ha : ∀ kv ∈ s.cmds, arrived s kv.1 = false)
    (p : Nat) : PortWarm p s (warmPort s p) := by
  have go : ∀ t, MediaStill s t → Settled t → t.cmds = s.cmds → PortWarm p s (portReset (decidePort t p) p) := by
    intro t hm ht hc
    obtain ⟨hd, hd'⟩ := decidePort_still ht (fun kv hkv => by rw [arrived_congr hc hm.ns]; exact ha kv (hc ▸ hkv)) p
    exact (hm.trans hd).portWarm (portReset_warm hd' p).1
  unfold warmPort
  dsimp only
  rw [wakeReset_awake hw]
  split
  · obtain ⟨hm, ht⟩ := linkRec_still hs p
    exact go _ hm ht (by rw [linkRec_only])
  · exact go s (MediaStill.refl s) hs rfl

theorem functionLevelReset_next {s : State} (hw : Awake s) {c : Nat} (hc : hostCan s c = true) :
    exec (.functionLevelReset c) s = .next (flr s c) := by
  show execFunctionLevelReset c s = _
  simp [execFunctionLevelReset, hc, wakeReset_awake hw, ok]

theorem setPerst_still {s : State} (hs : Settled s) (p : Nat) (v : Bool) :
    MediaStill s (setPerst s p v) ∧ Settled (setPerst s p v) := by
  refine ⟨.of_eq ?_, ⟨hs.flush, hs.finish, hs.ctrls, hs.ports⟩⟩
  unfold setPerst
  split <;> rfl

theorem perstAssert_next {s : State} {p : Nat} (hp : portPresent s p = true) (ha : absorbs s = false) :
    exec (.perstAssert p) s = .next (warmPort (setPerst s p true) p) := by
  show execPerstAssert p s = _
  simp [execPerstAssert, hp, ha, ok]

theorem portInternalFault_next {s : State} {p : Nat} (hp : portPresent s p = true) (ha : absorbs s = false) :
    exec (.portInternalFault p) s = .next (warmPort (aerRec s (p * 64) aerInternal false) p) := by
  show execPortInternalFault p s = _
  simp [execPortInternalFault, hp, ha, ok]

theorem aerRec_only (s : State) (c status : Nat) (adv : Bool) : aerRec s c status adv =
    { aerLog s c status adv with pat := (aerRec s c status adv).pat } :=
  (patina_quiet _ _ (show 3 ≠ 7 by decide)).1

theorem aerRec_still {s : State} (hs : Settled s) (c status : Nat) (adv : Bool) :
    MediaStill s (aerRec s c status adv) ∧ Settled (aerRec s c status adv) := by
  rw [aerRec_only]
  exact ⟨.of_eq rfl, ⟨hs.flush, hs.finish, hs.ctrls, twf_tset _ _ _ _ hs.ports⟩⟩

/-- PERST# and an internal fault of a port end in its warm reset (R86, R91, R458). -/
theorem exec_portReset_warm {s : State} (hw : Awake s) (hs : Settled s) {p : Nat} (hp : portPresent s p = true)
    (ha : absorbs s = false) (hn : ∀ kv ∈ s.cmds, arrived s kv.1 = false) {i : Instr}
    (hi : i = .perstAssert p ∨ i = .portInternalFault p) : ∃ t, exec i s = .next t ∧ PortWarm p s t := by
  have go : ∀ t, MediaStill s t → Settled t → t.pm = s.pm → t.cmds = s.cmds → PortWarm p s (warmPort t p) := by
    intro t hm ht hpm hc
    have hw' : Awake t := by unfold Awake; rw [hpm]; exact hw
    exact hm.portWarm (warmPort_warm hw' ht
      (fun kv hkv => by rw [arrived_congr hc hm.ns]; exact hn kv (hc ▸ hkv)) p)
  rcases hi with rfl | rfl
  · obtain ⟨hm, ht⟩ := setPerst_still hs p true
    exact ⟨_, perstAssert_next hp ha, go _ hm ht rfl rfl⟩
  · obtain ⟨hm, ht⟩ := aerRec_still hs (p * 64) aerInternal false
    exact ⟨_, portInternalFault_next hp ha, go _ hm ht (by rw [aerRec_only]; rfl) (by rw [aerRec_only]; rfl)⟩

/-- The state a lost link leaves before its port is marked down: no fetch of the port (R91 step 2). -/
def fetchOffPort (s : State) (p : Nat) : State :=
  { s with arb := { s.arb with fetchOff := if s.arb.fetchOff.contains p then s.arb.fetchOff else s.arb.fetchOff ++ [p] } }

theorem linkLoss_next {s : State} {p : Nat} (hp : portPresent s p = true) (ha : absorbs s = false)
    (hr : perstOf s p = false) (hd : (getPort s p).dlup = true) :
    exec (.linkLoss p) s = .next (setPort (decidePort (fetchOffPort s p) p) p
      { getPort (decidePort (fetchOffPort s p) p) p with dlup := false, linkDown := true }) := by
  show execLinkLoss p s = _
  simp only [execLinkLoss, hp, ha, hr, hd, ok]
  rfl

theorem mem_fetchOffPort (s : State) (p : Nat) : p ∈ (fetchOffPort s p).arb.fetchOff := by
  unfold fetchOffPort
  dsimp only
  split
  · simp_all
  · simp

theorem linkLossPortReset_next {s : State} (hw : Awake s) {p : Nat} (ha : absorbs s = false)
    (hd : (getPort s p).linkDown = true) (hc : ∀ kv ∈ s.cmds, portOf (ctrlOfSq kv.2.sq) ≠ p) :
    exec (.linkLossPortReset p) s = .next (portReset (linkRec s p) p) := by
  have hn : s.cmds.any (fun kv => portOf (ctrlOfSq kv.2.sq) == p) = false :=
    List.any_eq_false.2 fun kv hkv => by simpa using hc kv hkv
  show execLinkLossPortReset p s = _
  simp only [execLinkLossPortReset, ha, hd, hn, wakeReset_awake hw, ok]
  rfl

/-- What a Function Level Reset of `c` leaves, whichever function it is: its queues and commands gone, its registers
but the error log at reset, its port's link, the other ports, the clocks and the media as they were. -/
structure FunctionReset (c : Nat) (s t : State) : Prop extends MediaStill s t where
  queues : NoQueues t c
  regs : ctrlRegs (getCtrl t c) = (false, 0, (getCtrl s c).errs)
  clk : t.clk = s.clk
  others : ∀ p, p ≠ portOf c → getPort t p = getPort s p
  dlup : (getPort t (portOf c)).dlup = (getPort s (portOf c)).dlup
  gen : (getPort t (portOf c)).gen = (getPort s (portOf c)).gen
  width : (getPort t (portOf c)).width = (getPort s (portOf c)).width

theorem Resets.functionReset {D : Set Nat} {c : Nat} {s t : State} (h : Resets D (portOf c) s t) (hc : c ∈ D) :
    FunctionReset c s t :=
  { h with
    queues := h.noQueues hc, regs := h.off c hc, dlup := by rw [h.port], gen := by rw [h.port]
    width := by rw [h.port] }

/-- What the PF0 of port `p` is left with of its configuration (R90): no VF, and the reset payload and request sizes. -/
structure VfsOff (p : Nat) (t : State) : Prop where
  vfOn : (getPort t p).vfOn = false
  numVfs : (getPort t p).numVfs = 0
  mps : (getPort t p).mps = 0
  mrrs : (getPort t p).mrrs = 512
  queues : ∀ d, portOf d = p → NoQueues t d

theorem flr_pf0_leaves {s : State} (hs : Settled s) {c : Nat} (hc : isPf0 c = true) :
    FunctionReset c s (flr s c) ∧ VfsOff (portOf c) (flr s c) := by
  obtain ⟨u, arm, cms, h, e⟩ := flr_pf0 hs hc
  have hu := h.functionReset (c := c) rfl
  have hn : ∀ d, portOf d = portOf c → NoQueues (flr s c) d := fun d hd => by
    have := h.noQueues (c := d) hd
    rw [e]
    exact ⟨this.sqs, this.cqs, this.cmds⟩
  have hp : getPort (flr s c) (portOf c) = { getPort u (portOf c) with
      vfOn := false, numVfs := 0, mps := 0, mrrs := 512, ptmEn := false, ptmAsk := false } := by
    rw [e]
    exact (getPort_setPort h.settled.ports _ _ _).trans (if_pos rfl)
  have ho : ∀ p, p ≠ portOf c → getPort (flr s c) p = getPort u p := fun p hp => by
    rw [e]
    exact getPort_setPort_ne _ hp _
  constructor
  · exact {
      toMediaStill := hu.toMediaStill.trans (by rw [e]; exact .of_eq rfl)
      queues := hn c rfl
      regs := by rw [e]; exact hu.regs
      clk := by rw [e]; exact hu.clk
      others := fun p h => (ho p h).trans (hu.others p h)
      dlup := by rw [hp]; exact hu.dlup
      gen := by rw [hp]; exact hu.gen
      width := by rw [hp]; exact hu.width }
  · exact ⟨by rw [hp], by rw [hp], by rw [hp], by rw [hp], hn⟩

theorem flr_reset {s : State} (hs : Settled s) (c : Nat) : FunctionReset c s (flr s c) := by
  cases hc : isPf0 c with
  | false => exact (flr_vf hs hc).functionReset rfl
  | true => exact (flr_pf0_leaves hs hc).1

/-- A VF's reset leaves the queues and the commands of every other function (R90). -/
theorem flr_vf_frame {s : State} (hs : Settled s) {c : Nat} (hc : isPf0 c = false) (hq : twf {} s.sqs = true)
    (hm : twf {} s.cmds = true) :
    (∀ d q, d ≠ c → q < 65536 → (getSq (flr s c) (qk d q)).live = (getSq s (qk d q)).live) ∧
      ∀ kv ∈ s.cmds, ctrlOfSq kv.2.sq ≠ c → hasCmd (flr s c) kv.1 = true := by
  have h := flr_vf hs hc
  refine ⟨fun d q hd hq' => h.sqs.live hq _ ?_, fun kv hkv hd => ?_⟩
  · rw [ctrlOfSq_qk d q hq']; exact hd
  · exact List.any_eq_true.2 ⟨kv, h.cmds.kept hm kv hkv hd, beq_self_eq_true _⟩

/-- A lost link discards its port's commands, drops its staged and fetched entries and marks the port down (R91). -/
theorem linkLoss_leaves {s : State} (hs : Settled s) {p : Nat} (hp : portPresent s p = true) (ha : absorbs s = false)
    (hr : perstOf s p = false) (hd : (getPort s p).dlup = true) (hn : ∀ kv ∈ s.cmds, arrived s kv.1 = false) :
    ∃ t, exec (.linkLoss p) s = .next t ∧ p ∈ t.arb.fetchOff ∧
      t.ports = tset {} s.ports p { getPort s p with
        dlup := false, linkDown := true, committed := 0
        discarded := (tkeys s.cmds (fun _ d => portOf (ctrlOfSq d.sq) == p)).length } ∧
      (∀ kv ∈ t.cmds, portOf (ctrlOfSq kv.2.sq) ≠ p) ∧
      (∀ k, portOf (k / 65536) = p → (getSq t k).staged = [] ∧ (getSq t k).inflight = 0) ∧ t.zones = s.zones ∧
      MediaKept s t := by
  have ho : Settled (fetchOffPort s p) := ⟨hs.flush, hs.finish, hs.ctrls, hs.ports⟩
  have hf := mem_fetchOffPort s p
  obtain ⟨_, _, _, _, _, _, _, hrows, e⟩ := decidePort_unarrived ho hn p
  have hne : allDiscarded s p ≠ {} := fun h => by simpa [allDiscarded, hd] using congrArg Port.dlup h
  have hports : (decidePort (fetchOffPort s p) p).ports = tset {} s.ports p (allDiscarded s p) := by rw [e]; rfl
  have hport : getPort (decidePort (fetchOffPort s p) p) p = allDiscarded s p := by
    rw [getPort, hports]; exact tget_tset_same _ _ _ _ hne
  have hc := cmdsLeft_tdrop s.cmds (fun c => portOf c == p)
  refine ⟨_, linkLoss_next hp ha hr hd, ?_⟩
  rw [hport]
  refine ⟨by rw [e]; exact hf, ?_, fun kv hkv => ?_, fun k hk => ?_, by rw [e]; rfl, ?_⟩
  · rw [setPort_ports, hports, tset_tset _ _ _ _ _ hne]
    rfl
  · rw [setPort_cmds, e] at hkv
    simpa using (hc.sub kv hkv).2
  · rw [getSq_setPort, e]
    exact tget_unstaged hk s.sqs
  · rw [e]
    exact MediaStill.mediaKept ⟨rfl, rfl, hrows, rfl, rfl, rfl, id⟩

/-- Settles O37: each reset is a run of function resets, and each of these composes of steps that keep the media, the
keys and what belongs to other functions (R90, R91, R458). -/
theorem functionAndPortResets : Obligations.FunctionAndPortResets := by
  unfold Obligations.FunctionAndPortResets
  intro s hw hflush hfinish hctrls hports
  have hs : Settled s := ⟨hflush, hfinish, hctrls, hports⟩
  refine ⟨fun c hc => ?_, fun p hp ha => ⟨fun i hn hi => ?_, fun hr hd hn => ?_⟩, fun p ha hd hc => ?_⟩
  · have h := flr_reset hs c
    obtain ⟨hen, haqa, herrs⟩ := ctrlRegs_eq.1 h.regs
    refine ⟨_, functionLevelReset_next hw hc, h.queues, hen, haqa, herrs, h.mediaKept, by rw [h.clk], h.others,
      h.dlup, h.gen, h.width, fun hp0 => ?_, fun hvf => ?_⟩
    · have hv := (flr_pf0_leaves hs hp0).2
      exact ⟨hv.vfOn, hv.numVfs, hv.mps, hv.mrrs, fun i hi => hv.queues _ (by unfold portOf; omega)⟩
    · have hv := flr_vf hs hvf
      exact ⟨by rw [hv.port], fun d hd => congrArg Prod.fst (hv.on d hd), flr_vf_frame hs hvf⟩
  · obtain ⟨t, ht, h⟩ := exec_portReset_warm hw hs hp ha hn hi
    exact ⟨t, ht, h.queues, h.dlup, h.fence, h.mediaKept⟩
  · exact linkLoss_leaves hs hp ha hr hd hn
  · obtain ⟨hm, ht⟩ := linkRec_still hs p
    obtain ⟨h, hpat⟩ := portReset_warm ht p
    exact ⟨_, linkLossPortReset_next hw ha hd hc, h.queues, h.linkDown, by rw [hpat, linkRec_events],
      (hm.portWarm h).mediaKept⟩

end Sys2Proof.Machine
end

section
/-! SUPPORT. The buffer pool: what a request that passes the reserve gates takes, and what a free leaves (R287 to
R291). -/

namespace Sys2Proof.Machine

/-! ### Taking a buffer (R287) -/

theorem withIdent_only (s : State) (o : Nat) :
    withIdent s o = { s with pool := { s.pool with ids := (withIdent s o).pool.ids } } := by
  unfold withIdent
  split <;> rfl

/-- What the lowest free buffer of a region holds once an owner has taken it outside any commission. -/
def takenBuf (s : State) (n c owner : Nat) (dirty : Bool) : Buf :=
  { used := true, owner := identOf (withIdent s owner) owner
    addr := poolBase s n c * 4096 + lowestFree s n c * clsBytes c, dirty := dirty, conf := none, parts := [] }

theorem takeBuf_only (s : State) (n c owner : Nat) (dirty : Bool) :
    ∃ cnt ids, takeBuf s n c c owner dirty none =
      ({ s with pool := { s.pool with
          cnt := cnt, ids := ids
          bufs := tset {} s.pool.bufs (bk n c (lowestFree s n c)) (takenBuf s n c owner dirty) } },
        bk n c (lowestFree s n c)) := by
  unfold takeBuf takenBuf
  rw [withIdent_only]
  exact ⟨_, _, rfl⟩

/-- A request without a commission whose class has a buffer free and which the gates let pass takes a buffer of that
class. -/
theorem allocate_gated {s : State} {n c : Nat} {dirty : Bool} (hf : 0 < poolFree s n c)
    (hg : gate s n c dirty none false = true) (owner : Nat) : allocate s n c owner dirty none =
      ((takeBuf s n c c owner dirty none).1, some (takeBuf s n c c owner dirty none).2) := by
  have hk : pickClass s n c = some c := if_pos hf
  simp only [allocate, hk, hg, if_true]

/-! ### A command's request that is met -/

theorem Cmd.ne_of_got {c : Cmd} (h : c.got ≠ []) : c ≠ {} := fun e => h (by rw [e])

theorem getCmd_setCmd_got (s : State) (id : Nat) {c : Cmd} (h : c.got ≠ []) : getCmd (setCmd s id c) id = c :=
  getCmd_setCmd_same s id c (Cmd.ne_of_got h)

/-- Command `id` once the first of its requests is met with buffer `k` for `m` sectors and `r` are left. -/
def servedCmd (s : State) (id k m : Nat) (r : List (Nat × Nat)) : Cmd :=
  { getCmd s id with want := r, got := (getCmd s id).got ++ [(k, m)], parked := false }

theorem servedCmd_got (s : State) (id k m : Nat) (r : List (Nat × Nat)) : (servedCmd s id k m r).got ≠ [] := by
  simp [servedCmd]

/-- The lowest free buffer of class `cls` in the niche of command `id`. -/
def freeKey (s : State) (id cls : Nat) : Nat := bk (getCmd s id).niche cls (lowestFree s (getCmd s id).niche cls)

/-- `t` is `s` with the first request of command `id` met: the lowest free buffer of class `cls` of its niche is taken,
and nothing but the pool, the park lists and the command changes. -/
structure Served (s : State) (id cls m : Nat) (r : List (Nat × Nat)) (t : State) : Prop where
  only : t = { s with
    pool := t.pool, niches := t.niches
    cmds := tset {} s.cmds id (servedCmd s id (freeKey s id cls) m r) }
  bufs : t.pool.bufs = tset {} s.pool.bufs (freeKey s id cls)
    (takenBuf s (getCmd s id).niche cls id (writesData s (getCmd s id).slot (getCmd s id).io))
  ctl : t.pool.ctl = s.pool.ctl

namespace Served

variable {s t : State} {id cls m : Nat} {r : List (Nat × Nat)} (h : Served s id cls m r t)
include h

theorem cmd : getCmd t id = servedCmd s id (freeKey s id cls) m r := by
  rw [h.only]
  exact getCmd_setCmd_got s id (servedCmd_got s id _ m r)

theorem zones : t.zones = s.zones := by rw [h.only]
theorem sectors : t.sectors = s.sectors := by rw [h.only]
theorem cqs : t.cqs = s.cqs := by rw [h.only]
theorem sched : t.sched = s.sched := by rw [h.only]
theorem arb : t.arb = s.arb := by rw [h.only]
theorem cipher : t.cipher = s.cipher := by rw [h.only]
theorem getStripe (i : Nat) : getStripe t i = Machine.getStripe s i := by rw [h.only]; rfl
theorem unitGone (x : Stripe) (ch : Nat) : unitGone t x ch = Machine.unitGone s x ch := by rw [h.only]; rfl
theorem chanOfPos (x : Stripe) (p : Nat) : chanOfPos t x p = Machine.chanOfPos s x p := by rw [h.only]; rfl
theorem ixOfPos (x : Stripe) (p : Nat) : ixOfPos t x p = Machine.ixOfPos s x p := by rw [h.only]; rfl
theorem sectorSource (i lba : Nat) : sectorSource t i lba = Machine.sectorSource s i lba := by rw [h.only]; rfl

theorem unpark (n : Nat) : Served s id cls m r (unpark t n id) where
  only := by
    have e := h.only
    unfold Machine.unpark setNch
    rw [e]
  bufs := h.bufs
  ctl := h.ctl

end Served

theorem isZoneWrite_of_isRead {op : IoOp} (h : isRead op = true) : isZoneWrite op = false := by
  cases op with
  | read | compare | verify => rfl
  | _ => cases h

/-- A zone write waits for its data once it has its buffers. -/
theorem allocated_zoneWrite {s : State} {id : Nat} (hz : isZoneWrite (getCmd s id).io.op = true)
    (hn : (getCmd s id).io.op ≠ .writeZeroes) : allocated s id = s := by
  have hread : isRead (getCmd s id).io.op = false :=
    Bool.eq_false_iff.2 fun h => by rw [isZoneWrite_of_isRead h] at hz; cases hz
  have hrecv : (getCmd s id).io.op ≠ .zoneReceive := fun h => by rw [h] at hz; cases hz
  have hseal : (getCmd s id).io.op ≠ .zoneSeal := fun h => by rw [h] at hz; cases hz
  simp [allocated, hread, hrecv, hseal, hn]

section

variable {s : State} {id cls m : Nat} {r : List (Nat × Nat)} (hc : (getCmd s id).conf = none)
  (hw : (getCmd s id).want = (cls, m) :: r) (hf : 0 < poolFree s (getCmd s id).niche cls)
  (hg : gate s (getCmd s id).niche cls (writesData s (getCmd s id).slot (getCmd s id).io) none false = true)
include hc hw hf hg

/-- A command's request that passes the gates is met; with its last buffer the command goes on (R287, R289). -/
theorem requestOne_served :
    ∃ t, Served s id cls m r t ∧ requestOne s id = if r.isEmpty then allocated t id else t := by
  have hconf : confOf s (getCmd s id) = none := by simp [confOf, hc]
  obtain ⟨cnt, ids, e⟩ := takeBuf_only s (getCmd s id).niche cls id (writesData s (getCmd s id).slot (getCmd s id).io)
  simp only [requestOne, hw, hconf, allocate_gated hf hg, e]
  split
  · refine ⟨_, ?_, rfl⟩
    refine Served.unpark ?_ _
    exact ⟨rfl, rfl, rfl⟩
  · refine ⟨_, ?_, rfl⟩
    exact ⟨rfl, rfl, rfl⟩

/-- With requests left, or as a zone write, a served command waits. -/
theorem requestOne_waits
    (hr : r ≠ [] ∨ (isZoneWrite (getCmd s id).io.op = true ∧ (getCmd s id).io.op ≠ .writeZeroes)) :
    Served s id cls m r (requestOne s id) := by
  obtain ⟨t, ht, e⟩ := requestOne_served hc hw hf hg
  rw [e]
  split
  next hnil =>
    obtain ⟨hz, hn⟩ := hr.resolve_left (by simpa using hnil)
    rwa [allocated_zoneWrite (by rw [ht.cmd]; exact hz) (by rw [ht.cmd]; exact hn)]
  next => exact ht

end

/-! ### A free (R288, R291) -/

theorem bitOf_setBit_same (n i : Nat) : bitOf (setBit n i) i = true := by
  unfold setBit
  split
  next h => exact h
  next h =>
    have h0 : n / 2 ^ i % 2 = 0 := by simpa [bitOf] using h
    have h1 : (n / 2 ^ i + 1) % 2 = 1 := by omega
    simp [bitOf, Nat.add_div_right n (Nat.two_pow_pos i), h1]

theorem patWrite_pat_congr {s t : State} (hp : t.pat = s.pat) {r : PatRec} (h : r.sev ≠ 7) :
    (patWrite t r).pat = (patWrite s r).pat := by
  simp only [patWrite, patNew, if_neg h, hp]
  split
  · rfl
  · split <;> rfl

/-- What a record of a severity below 7 leaves of the ring depends on the ring and the operating time alone (R445). -/
theorem patina_pat_congr {s t : State} (hp : t.pat = s.pat) (ho : t.opUs = s.opUs) {r : PatReq} (h : r.sev ≠ 7) :
    (patina t r).pat = (patina s r).pat := by
  have hm : mkPat t r = mkPat s r := by simp only [mkPat, hp, ho]
  have hx : ∀ x, patMatch t (mkPat s r) x = patMatch s (mkPat s r) x := fun x => by simp only [patMatch, hp]
  have hw : (patWrite t (mkPat s r)).pat = (patWrite s (mkPat s r)).pat := patWrite_pat_congr hp h
  simp only [patina, patStore, hm, hx, hp]
  split
  · split
    · rfl
    · exact hw
  · exact hw

theorem devRec_pat_congr {s t : State} (hp : t.pat = s.pat) (ho : t.opUs = s.opUs) {typ sev p8 pb pc : Nat}
    (h : sev ≠ 7) : (devRec t typ sev p8 pb pc).pat = (devRec s typ sev p8 pb pc).pat :=
  patina_pat_congr hp ho h

theorem devRec_only (s : State) {typ sev p8 pb pc : Nat} (h : sev ≠ 7) :
    devRec s typ sev p8 pb pc = { s with pat := (devRec s typ sev p8 pb pc).pat } :=
  (patina_quiet s _ h).1

/-- A free of the owner gives the buffer back. -/
theorem freeBuf_owner {s : State} {n c i o : Nat} (hu : (tget ({} : Buf) s.pool.bufs (bk n c i)).used = true)
    (ho : (tget ({} : Buf) s.pool.bufs (bk n c i)).owner = o) : freeBuf s n c i o = releaseBuf s (bk n c i) := by
  simp [freeBuf, hu, ho]

theorem releaseBuf_pool {s : State} {k : Nat} (hu : (tget ({} : Buf) s.pool.bufs k).used = true) :
    ∃ ids, (releaseBuf s k).pool = { s.pool with bufs := tset {} s.pool.bufs k {}, ids := ids } := by
  simp only [releaseBuf, hu, Bool.not_true, Bool.false_eq_true, if_false]
  split <;> exact ⟨_, rfl⟩

/-- What a free asked by another than the owner finds: 1 where the buffer is another's, 0 where it is free (R291). -/
def refusalKind (s : State) (n c i : Nat) : Nat :=
  if (tget ({} : Buf) s.pool.bufs (bk n c i)).used = true then 1 else 0

/-- A free of buffer `i` of class `c` of niche `n` has been refused and counted, its record not yet made. -/
def refusedFree (s : State) (n c i : Nat) : State :=
  { glbSet s 4 with pool := { s.pool with
      badFree := satAdd 16 s.pool.badFree 1, badNiche := n, badClass := c, badKind := refusalKind s n c i } }

/-- Any other free changes the pool's error registers, the interrupt status and the ring of records alone. -/
theorem freeBuf_refused {s : State} {n c i o : Nat} (h : (tget ({} : Buf) s.pool.bufs (bk n c i)).used = false ∨
    (tget ({} : Buf) s.pool.bufs (bk n c i)).owner ≠ o) : freeBuf s n c i o =
      { refusedFree s n c i with pat := (devRec s 0x60 6 c 0 (refusalKind s n c i)).pat } := by
  have hb : ((tget ({} : Buf) s.pool.bufs (bk n c i)).used &&
      (tget ({} : Buf) s.pool.bufs (bk n c i)).owner == o) = false := by
    rcases h with h | h <;> simp [h]
  calc freeBuf s n c i o = devRec (refusedFree s n c i) 0x60 6 c 0 (refusalKind s n c i) := by
        unfold freeBuf
        dsimp only
        rw [hb, if_neg (by decide)]
        rfl
    _ = _ := by
        rw [devRec_only _ (show 6 ≠ 7 by decide),
          devRec_pat_congr (t := refusedFree s n c i) (s := s) rfl rfl (show 6 ≠ 7 by decide)]

end Sys2Proof.Machine
end

section
/-! SUPPORT. A read that has its last buffer: where each of its sectors stands (R34, R181, R186, R268). -/

namespace Sys2Proof.Machine

/-! ### Sectors that need no media access -/

/-- The command whose sector `j` stands where `st` says. -/
def noteSource (c : Cmd) (j : Nat) (st : RdSt) : Cmd := { c with rds := c.rds.set j ⟨c.lo + j, st⟩ }

/-- A sector that is zero or in a buffer takes its place in the command, and nothing else changes. -/
theorem askSector_done {s : State} {id j : Nat}
    (h : rdDone (sectorSource s (getCmd s id).slot ((getCmd s id).lo + j)) = true) : askSector id s j =
      setCmd s id (noteSource (getCmd s id) j (sectorSource s (getCmd s id).slot ((getCmd s id).lo + j))) := by
  unfold askSector
  dsimp only
  cases hs : sectorSource s (getCmd s id).slot ((getCmd s id).lo + j) with
  | zero | ready _ => rfl
  | page _ | media _ | lost => rw [hs] at h; cases h

/-- The sectors of a read of `n` from `c.lo` on, the first `k` of which have looked for their source. -/
def soughtRds (s : State) (c : Cmd) (n k : Nat) : List RdSec :=
  (List.range n).map (fun j => ⟨c.lo + j, if j < k then sectorSource s c.slot (c.lo + j) else .zero⟩)

theorem soughtRds_zero (s : State) (c : Cmd) (n : Nat) :
    soughtRds s c n 0 = (List.range n).map (fun j => ⟨c.lo + j, .zero⟩) := by simp [soughtRds]

theorem soughtRds_all (s : State) (c : Cmd) (n : Nat) :
    soughtRds s c n n = (List.range n).map (fun j => ⟨c.lo + j, sectorSource s c.slot (c.lo + j)⟩) :=
  List.map_congr_left fun j hj => by rw [if_pos (List.mem_range.1 hj)]

theorem soughtRds_set (s : State) (c : Cmd) (n k : Nat) :
    (soughtRds s c n k).set k ⟨c.lo + k, sectorSource s c.slot (c.lo + k)⟩ = soughtRds s c n (k + 1) := by
  refine List.ext_getElem (by simp [soughtRds]) fun j h1 h2 => ?_
  rw [List.getElem_set]
  by_cases hj : k = j
  · subst hj; simp [soughtRds]
  · have : j ≤ k ↔ j < k := by omega
    simp [soughtRds, hj, this]

/-- The sectors of a read look for their sources in turn. -/
theorem askSectors_done {s : State} {id n : Nat} {c : Cmd} (hg : c.got ≠ []) (k : Nat)
    (h : ∀ j, j < k → rdDone (sectorSource s c.slot (c.lo + j)) = true) :
    (List.range k).foldl (askSector id) (setCmd s id { c with rds := soughtRds s c n 0 }) =
      setCmd s id { c with rds := soughtRds s c n k } := by
  induction k with
  | zero => rfl
  | succ k ih =>
    have hcmd : getCmd (setCmd s id { c with rds := soughtRds s c n k }) id = { c with rds := soughtRds s c n k } :=
      getCmd_setCmd_got s id hg
    have hplace : noteSource { c with rds := soughtRds s c n k } k (sectorSource s c.slot (c.lo + k)) =
        { c with rds := soughtRds s c n (k + 1) } := by rw [← soughtRds_set]; rfl
    rw [List.range_succ, List.foldl_append, ih fun j hj => h j (by omega), List.foldl_cons, List.foldl_nil,
      askSector_done (by rw [hcmd]; exact h k (by omega)), hcmd]
    calc _ = setCmd (setCmd s id { c with rds := soughtRds s c n k }) id
          (noteSource { c with rds := soughtRds s c n k } k (sectorSource s c.slot (c.lo + k))) := rfl
      _ = _ := by
        rw [hplace]
        unfold setCmd
        rw [tset_tset]
        exact Cmd.ne_of_got hg

/-- A read whose sectors all stand in its buffer goes to the engines; a Compare waits for its data (R33). -/
theorem readArrived_done {s : State} {id : Nat} (h : ∀ x ∈ (getCmd s id).rds, rdDone x.st = true) :
    readArrived s id = if (getCmd s id).io.op = .compare then s else queueSegs s id := by
  have hl : (getCmd s id).rds.filter (fun x => x.st == .lost) = [] :=
    List.filter_eq_nil_iff.2 fun x hx hlost => by
      have := h x hx
      rw [eq_of_beq hlost] at this
      cases this
  have ha : (getCmd s id).rds.all (fun x => rdDone x.st) = true := List.all_eq_true.2 h
  simp only [readArrived, hl, ha, List.length_nil]
  by_cases hop : (getCmd s id).io.op = .compare <;> simp [hop]

/-- The state in which every sector of the read `id` has found its source. -/
def allSought (s : State) (id : Nat) : State :=
  let c := getCmd s id
  setCmd s id { c with rds := soughtRds s c (c.io.nlb + 1) (c.io.nlb + 1) }

theorem getCmd_allSought {s : State} {id : Nat} (hg : (getCmd s id).got ≠ []) : getCmd (allSought s id) id =
    { getCmd s id with rds := soughtRds s (getCmd s id) ((getCmd s id).io.nlb + 1) ((getCmd s id).io.nlb + 1) } := by
  unfold allSought
  exact getCmd_setCmd_same _ _ _ (Cmd.ne_of_got hg)

/-- A read of which no sector needs the media has them all with its last buffer. -/
theorem allocated_done {s : State} {id : Nat} (hr : isRead (getCmd s id).io.op = true) (hg : (getCmd s id).got ≠ [])
    (h : ∀ j, j ≤ (getCmd s id).io.nlb → rdDone (sectorSource s (getCmd s id).slot ((getCmd s id).lo + j)) = true) :
    allocated s id = if (getCmd s id).io.op = .compare then allSought s id else queueSegs (allSought s id) id := by
  have hcmd := getCmd_allSought hg
  have hfold := askSectors_done (s := s) (id := id) (n := (getCmd s id).io.nlb + 1) hg ((getCmd s id).io.nlb + 1)
    fun j hj => h j (by omega)
  have e : allocated s id = readArrived (allSought s id) id := by
    simp only [allocated, hr, if_true, ← soughtRds_zero s, hfold]
    rfl
  have hdone : ∀ x ∈ (getCmd (allSought s id) id).rds, rdDone x.st = true := by
    rw [hcmd, soughtRds_all]
    intro x hx
    obtain ⟨j, hj, rfl⟩ := List.mem_map.1 hx
    exact h j (Nat.le_of_lt_succ (List.mem_range.1 hj))
  rw [e, readArrived_done hdone, hcmd]

theorem getCmd_queueSegs {s : State} {id : Nat} (hg : (getCmd s id).got ≠ []) :
    getCmd (queueSegs s id) id = { getCmd s id with segUs := s.nowUs } :=
  getCmd_setCmd_got s id (c := { getCmd s id with segUs := s.nowUs }) hg

theorem queueSegs_segs (s : State) (id : Nat) : (queueSegs s id).cipher.segs = s.cipher.segs ++
    List.replicate (segCount (getCmd s id).lo (getCmd s id).hi) ((getCmd s id).cls, s.arb.nextOrder, id) := rfl

/-! ### A sector on the media -/

/-- The codeword read of sector `j` of command `id` (R33). -/
def sectorRd (s : State) (id j : Nat) : Rd :=
  let c := getCmd s id
  let v := tget ({} : Sector) s.sectors (lk c.slot (c.lo + j))
  let x := getStripe s v.sid
  { own := .cmd id j, cls := c.cls, niche := c.niche, sid := v.sid, rank := x.rank
    ch := chanOfPos s x v.pos, ix := ixOfPos s x v.pos }

theorem addRd_present {s : State} {r : Rd} (h : unitGone s (getStripe s r.sid) r.ch = false) :
    addRd s r = newRd s r := by
  simp [addRd, h]

theorem touchPage_only (s : State) (pg : Nat) :
    touchPage s pg = { s with fineCache := (touchPage s pg).fineCache } := by
  unfold touchPage
  rfl

/-- A sector on a unit that is present enters the table of reads; besides, its map page is the one used last. -/
theorem askSector_media {s : State} {id j k : Nat}
    (h : sectorSource s (getCmd s id).slot ((getCmd s id).lo + j) = .media k)
    (hu : unitGone s (getStripe s (sectorRd s id j).sid) (sectorRd s id j).ch = false) :
    ∃ cache, askSector id s j = setCmd (newRd { s with fineCache := cache } (sectorRd s id j)).1 id
      (noteSource (getCmd s id) j (.media s.sched.nextRd)) := by
  unfold askSector
  simp only [h]
  split
  · rw [addRd_present]
    · exact ⟨s.fineCache, rfl⟩
    · exact hu
  · rw [touchPage_only, addRd_present]
    · exact ⟨_, rfl⟩
    · exact hu

/-- A read with a sector on the media waits for it. -/
theorem readArrived_media {s : State} {id lba k : Nat} (h : (getCmd s id).rds = [⟨lba, .media k⟩]) :
    readArrived s id = s := by
  simp [readArrived, h, rdDone]

/-- A command of one sector that has not looked for its source. -/
def unsought (c : Cmd) : Cmd := { c with rds := [⟨c.lo, .zero⟩] }

theorem allocated_one {s : State} {id : Nat} (hr : isRead (getCmd s id).io.op = true)
    (hn : (getCmd s id).io.nlb = 0) :
    allocated s id = readArrived (askSector id (setCmd s id (unsought (getCmd s id))) 0) id := by
  simp only [allocated, hr, if_true, hn]
  rfl

/-- A read of one sector, which is on the media, has it in the table of reads with its last buffer. -/
theorem allocated_media {s : State} {id k : Nat} (hr : isRead (getCmd s id).io.op = true)
    (hg : (getCmd s id).got ≠ []) (hn : (getCmd s id).io.nlb = 0)
    (h : sectorSource s (getCmd s id).slot (getCmd s id).lo = .media k)
    (hu : unitGone s (getStripe s (sectorRd s id 0).sid) (sectorRd s id 0).ch = false) :
    ∃ cache cmds, allocated s id = { (newRd { s with fineCache := cache } (sectorRd s id 0)).1 with cmds := cmds } ∧
      getCmd (allocated s id) id = { getCmd s id with rds := [⟨(getCmd s id).lo, .media s.sched.nextRd⟩] } := by
  rw [allocated_one hr hn]
  have hcmd := getCmd_setCmd_got s id (c := unsought (getCmd s id)) hg
  generalize hv : setCmd s id (unsought (getCmd s id)) = v at hcmd ⊢
  have hsource : sectorSource v (getCmd v id).slot ((getCmd v id).lo + 0) = .media k := by
    rw [hcmd, ← hv]; exact h
  have hrd : sectorRd v id 0 = sectorRd s id 0 := by
    unfold sectorRd; rw [hcmd, ← hv]; rfl
  obtain ⟨cache, e⟩ := askSector_media hsource (by rw [hrd, ← hv]; exact hu)
  rw [hcmd, hrd] at e
  have hask := getCmd_setCmd_got (newRd { v with fineCache := cache } (sectorRd s id 0)).1 id
    (c := noteSource (unsought (getCmd s id)) 0 (.media v.sched.nextRd)) hg
  rw [readArrived_media (by rw [e, hask]; rfl), e, hask, ← hv]
  exact ⟨cache, _, rfl, rfl⟩

theorem getRd_newRd (s : State) {r : Rd} (h : r.own ≠ .scrub) :
    getRd (newRd s r).1 s.sched.nextRd = { r with us := s.opUs } :=
  tget_tset_same _ _ _ _ fun e => h (congrArg Rd.own e)

end Sys2Proof.Machine
end

section
/-! PROOFS. The rows of the allocation port, the park lists and the free port (R287 to R291), and O9. -/

namespace Sys2Proof.Machine

theorem bufferAllocation_next {s : State} {id : Nat} (hp : atPort s id = true) (hf : portFirst s id = true) :
    exec (.bufferAllocation id) s = .next (requestOne s id) := by
  show execBufferAllocation id s = _
  simp [execBufferAllocation, hp, hf, ok]

theorem bufferAllocation_waits {s : State} {id : Nat} (h : atPort s id = false ∨ portFirst s id = false) :
    exec (.bufferAllocation id) s = .next s := by
  show execBufferAllocation id s = _
  rcases h with h | h <;> simp [execBufferAllocation, h, ok]

theorem bufferFree_next (s : State) (n c i o : Nat) : exec (.bufferFree n c i o) s = .next (freeBuf s n c i o) := rfl

theorem issueCtl_none {s : State} (h : s.pool.ctl = []) : issueCtl s = s := by
  simp [issueCtl, h]

/-- A command at the head of the list of the other requesters tries again (R289). -/
theorem parkListRetry_next {s : State} {n id : Nat} {l : List Nat} (hc : (getNch s n).parkConf = [])
    (ho : (getNch s n).parkOther = id :: l) (hid : id < copyOwner 0) :
    exec (.parkListRetry n) s = .next (issueCtl (requestOne s id)) := by
  show execParkListRetry n s = _
  simp [execParkListRetry, hc, ho, retryOne, hid, ok]

theorem isRead_not_writesData {s : State} {i : Nat} {io : IoCmd} (h : isRead io.op = true) :
    writesData s i io = false := by
  simp [writesData, isZoneWrite_of_isRead h]

/-- The last buffer of a read at the port (R287). -/
theorem bufferAllocation_read {s : State} {id cls m : Nat} (hp : atPort s id = true) (hfirst : portFirst s id = true)
    (hc : (getCmd s id).conf = none) (hw : (getCmd s id).want = [(cls, m)]) (hr : isRead (getCmd s id).io.op = true)
    (hf : 0 < poolFree s (getCmd s id).niche cls) (hg : gate s (getCmd s id).niche cls false none false = true) :
    ∃ u, Served s id cls m [] u ∧ exec (.bufferAllocation id) s = .next (allocated u id) := by
  obtain ⟨u, hu, e⟩ := requestOne_served hc hw hf (by rwa [isRead_not_writesData hr])
  exact ⟨u, hu, by rw [bufferAllocation_next hp hfirst, e]; rfl⟩

/-- A served read of which no sector needs the media (R34, R186). -/
theorem served_read_done {s u : State} {id cls m : Nat} (hu : Served s id cls m [] u)
    (hr : isRead (getCmd s id).io.op = true)
    (h : ∀ j, j ≤ (getCmd s id).io.nlb → rdDone (sectorSource s (getCmd s id).slot ((getCmd s id).lo + j)) = true) :
    let c := getCmd s id
    let t := allocated u id
    (getCmd t id).want = [] ∧
      (getCmd t id).rds = (List.range (c.io.nlb + 1)).map (fun j => ⟨c.lo + j, sectorSource s c.slot (c.lo + j)⟩) ∧
      (c.io.op ≠ .compare → t.cipher.segs = s.cipher.segs ++
        List.replicate (segCount c.lo c.hi) (c.cls, s.arb.nextOrder, id)) ∧
      t.zones = s.zones ∧ t.sectors = s.sectors ∧ t.cqs = s.cqs := by
  intro c t
  have hcmd := hu.cmd
  have hgot : (getCmd u id).got ≠ [] := by rw [hcmd]; exact servedCmd_got s id _ m []
  have hsought := getCmd_allSought hgot
  have hrds : soughtRds u (getCmd u id) ((getCmd u id).io.nlb + 1) ((getCmd u id).io.nlb + 1) =
      (List.range (c.io.nlb + 1)).map (fun j => ⟨c.lo + j, sectorSource s c.slot (c.lo + j)⟩) := by
    rw [soughtRds_all, hcmd]
    simp only [hu.sectorSource]
    rfl
  rw [hrds, hcmd] at hsought
  have e : t = if c.io.op = .compare then allSought u id else queueSegs (allSought u id) id := by
    have := allocated_done (s := u) (id := id) (by rw [hcmd]; exact hr) hgot
      (by simp only [hu.sectorSource]; rw [hcmd]; exact h)
    rwa [hcmd] at this
  by_cases hop : c.io.op = .compare
  · rw [e, if_pos hop, hsought]
    exact ⟨rfl, rfl, fun hne => absurd hop hne, hu.zones, hu.sectors, hu.cqs⟩
  · have hq := getCmd_queueSegs (s := allSought u id) (id := id) (by rw [hsought]; exact servedCmd_got s id _ m [])
    rw [hsought] at hq
    rw [e, if_neg hop, hq]
    refine ⟨rfl, rfl, fun _ => ?_, hu.zones, hu.sectors, hu.cqs⟩
    rw [queueSegs_segs, hsought, show (allSought u id).cipher = s.cipher from hu.cipher,
      show (allSought u id).arb = s.arb from hu.arb]
    rfl

theorem Served.sectorRd {s u : State} {id cls m : Nat} {r : List (Nat × Nat)} (hu : Served s id cls m r u) (j : Nat) :
    sectorRd u id j = Machine.sectorRd s id j := by
  simp only [Machine.sectorRd, hu.cmd, hu.sectors, hu.getStripe, hu.chanOfPos, hu.ixOfPos]
  rfl

/-- A served read of one sector, which is on the media (R34, R181). -/
theorem served_read_media {s u : State} {id cls m : Nat} (hu : Served s id cls m [] u)
    (hr : isRead (getCmd s id).io.op = true) (hn : (getCmd s id).io.nlb = 0)
    (h : sectorSource s (getCmd s id).slot (getCmd s id).lo = .media 0)
    (hg : unitGone s (getStripe s (sectorRd s id 0).sid) (sectorRd s id 0).ch = false) :
    let t := allocated u id
    (getCmd t id).want = [] ∧ (getCmd t id).rds = [⟨(getCmd s id).lo, .media s.sched.nextRd⟩] ∧
      getRd t s.sched.nextRd = { sectorRd s id 0 with us := u.opUs } ∧
      t.zones = s.zones ∧ t.sectors = s.sectors ∧ t.cqs = s.cqs := by
  intro t
  have hcmd := hu.cmd
  have hgot : (getCmd u id).got ≠ [] := by rw [hcmd]; exact servedCmd_got s id _ m []
  obtain ⟨cache, cmds, e, hc⟩ := allocated_media (s := u) (id := id) (k := 0) (by rw [hcmd]; exact hr) hgot
    (by rw [hcmd]; exact hn) (by rw [hu.sectorSource, hcmd]; exact h)
    (by rw [hu.sectorRd, hu.getStripe, hu.unitGone]; exact hg)
  have hrd : getRd t u.sched.nextRd = { sectorRd u id 0 with us := u.opUs } := by
    rw [show t = _ from e]
    exact getRd_newRd { u with fineCache := cache } (r := sectorRd u id 0) (by simp [sectorRd])
  rw [hu.sched] at hc hrd
  rw [hu.sectorRd] at hrd
  rw [hcmd] at hc
  refine ⟨congrArg Cmd.want hc, congrArg Cmd.rds hc, hrd, ?_⟩
  rw [show t = _ from e]
  exact ⟨hu.zones, hu.sectors, hu.cqs⟩

/-- Settles O9: each row of the two ports is one shared operation, whose effect is said once: `requestOne_served` for a
request that passes the gates, `allocated_done` and `allocated_media` for a read's last buffer, `freeBuf_owner` and
`freeBuf_refused` for a free. -/
theorem buffersTakenAndFreed : Obligations.BuffersTakenAndFreed := by
  unfold Obligations.BuffersTakenAndFreed
  refine ⟨fun s id cls n r m => ?_, fun s id h => bufferAllocation_waits h, fun s id cls m => ?_, fun s n cls i o => ?_⟩
  · intro c k b hc hn hw hf hg hr
    subst hn
    have hs : Served s id cls m r (requestOne s id) := requestOne_waits hc hw hf hg hr
    refine ⟨fun hp hfirst => ?_, fun l hpc hpo hid hctl => ?_⟩
    · exact ⟨_, bufferAllocation_next hp hfirst, by rw [hs.cmd]; rfl, by rw [hs.cmd]; rfl, hs.bufs, hs.zones,
        hs.sectors, hs.cqs⟩
    · refine ⟨_, (parkListRetry_next hpc hpo hid).trans (by rw [issueCtl_none (hs.ctl.trans hctl)]), ?_⟩
      exact ⟨by rw [hs.cmd]; rfl, by rw [hs.cmd]; rfl, by rw [hs.cmd]; rfl, hs.bufs, hs.zones, hs.sectors, hs.cqs⟩
  · intro c n hp hfirst hc hw hr hf hg
    obtain ⟨u, hu, e⟩ := bufferAllocation_read hp hfirst hc hw hr hf hg
    refine ⟨fun h => ⟨_, e, served_read_done hu hr h⟩, fun hn hsrc hgone => ?_⟩
    obtain ⟨hwant, hrds, hrd, hkept⟩ := served_read_media hu hr hn hsrc hgone
    refine ⟨_, e, hwant, hrds, ?_, hkept⟩
    rw [hrd]
    exact ⟨rfl, rfl, rfl, rfl, rfl, rfl, rfl, rfl⟩
  · intro b bad
    refine ⟨fun hu ho => ⟨_, bufferFree_next .., ?_⟩, fun h => ⟨_, bufferFree_next .., ?_⟩⟩
    · obtain ⟨ids, hpool⟩ := releaseBuf_pool hu
      rw [freeBuf_owner hu ho, hpool, releaseBuf_guarded]
      refine ⟨rfl, rfl, rfl, ?_, ?_, rfl⟩ <;> rw [releaseBuf_eq]
    · rw [freeBuf_refused h]
      exact ⟨rfl, rfl, bitOf_setBit_same _ _, rfl, rfl, rfl⟩

end Sys2Proof.Machine
end

section
/-! SUPPORT. The buffers of an admin command's data: where they are to be had at once they come and go, and leave
everything but the pool, the park lists and the commissions (R285, R289). -/

namespace Sys2Proof.Machine

theorem takeBuf_pool (s : State) (n c want owner : Nat) (dirty : Bool) :
    (takeBuf s n c want owner dirty none).1 =
      { s with pool := (takeBuf s n c want owner dirty none).1.pool } := by
  unfold takeBuf
  rw [withIdent_only]

/-- An allocation outside any commission changes the pool alone (R287). -/
theorem allocate_pool (s : State) (n c owner : Nat) (dirty : Bool) :
    (allocate s n c owner dirty none).1 = { s with pool := (allocate s n c owner dirty none).1.pool } := by
  unfold allocate
  dsimp only
  split
  · split
    · exact takeBuf_pool ..
    · rfl
  · rfl

theorem ctlTake_pool (n owner : Nat) (l : List (Nat × Nat)) (s : State) :
    (ctlTake n owner s l).1 = { s with pool := (ctlTake n owner s l).1.pool } := by
  induction l generalizing s with
  | nil => rfl
  | cons x rest ih =>
    unfold ctlTake
    dsimp only
    split
    · rw [ih, allocate_pool]
    · exact allocate_pool ..

theorem ctlAsk_pool (s : State) (c len : Nat) :
    (ctlAsk s c len).1 = { s with pool := (ctlAsk s c len).1.pool } := by
  unfold ctlAsk
  dsimp only
  split
  · rfl
  · split
    · exact ctlTake_pool ..
    · rfl

theorem ctlServed_only (s : State) (c len : Nat) : ctlServed s c len = { s with
    pool := (ctlServed s c len).pool
    comms := (ctlServed s c len).comms
    niches := (ctlServed s c len).niches } := by
  unfold ctlServed
  split
  · rfl
  · rw [freeOwned_eq, ctlAsk_pool]

@[simp] theorem ctlServed_pm (s : State) (c len : Nat) : (ctlServed s c len).pm = s.pm := by rw [ctlServed_only]

/-- A command whose data have their buffers at once has its effect on the state these leave. -/
theorem ctlData_met {s : State} {c len : Nat} (h : ctlMet s c len = true) (cid : Nat) (body : State → State) :
    ctlData c cid len body s = body (ctlServed s c len) :=
  if_pos h

/-- A command without data asks for no buffer. -/
theorem ctlData_zero (s : State) (c cid : Nat) (body : State → State) : ctlData c cid 0 body s = body s := rfl

end Sys2Proof.Machine
end

section
/-! PROOFS. What each feature's set and the grace time's get do (R119, R140, R159, R340, R415 to R417, R434), and
O25. -/

namespace Sys2Proof.Machine

/-- A row that the ROM recovery firmware does not accept, issued where that firmware does not run. -/
theorem exec_adminRom {i : Instr} {s t : State} {c cid : Nat} (body : State → State)
    (hi : exec i s = adminRom s c cid body) (h : adminServed s c = true) (hr : s.boot.romRec = false)
    (hb : body (adminFetch s c) = t) : exec i s = .next t := by
  rw [hi, adminRom_served s c cid body h hr, hb]

theorem cqeWaits_adone (s : State) (c cid : Nat) (st : Status) : CqeWaits (adone s c cid st) c 0 cid st :=
  ⟨mkCqe s c 0 cid st 0 0 [], by simp [adone_waits], rfl, rfl, rfl⟩

/-- Get Features of a feature that has no data answers its value at once (R140). -/
theorem getFeatures_value {s : State} {c fid sel nsid w v : Nat} (h : adminServed s c = true)
    (hr : s.boot.romRec = false) (cid : Nat) (hv : getFeature (adminFetch s c) c fid sel nsid w = (.success, v, [])) :
    exec (.getFeatures c cid fid sel nsid w) s = .next (adone (adminFetch s c) c cid .success v) := by
  show execGetFeatures c cid fid sel nsid w s = _
  unfold execGetFeatures
  rw [adminRom_served s c cid _ h hr, hv]
  exact congrArg Host.Outcome.next (ctlData_zero ..)

/-! ### Saveable features (R140, R141) -/

theorem setSaveable_put {s : State} {c : Nat} (hp : isPf0 c = true) {good : Bool} (hg : good = true) (cid fid v : Nat)
    (put : State → State) : setSaveable s c cid fid false good v put = adone (put s) c cid .success := by
  simp [setSaveable, hp, hg]

theorem setSaveable_refused {s : State} {c : Nat} {good : Bool} (h : isPf0 c = false ∨ good = false)
    (cid fid v : Nat) (sv : Bool) (put : State → State) :
    setSaveable s c cid fid sv good v put = adone s c cid .invalidField := by
  rcases h with h | h <;> simp [setSaveable, h]

/-- R416: an APST entry names no state and no time, or a non-operational state and a time. -/
theorem apstLegal_iff (e : ApstEntry) :
    apstLegal e = true ↔ (e.itps = 0 ∧ e.itpt = 0) ∨ ((e.itps = 3 ∨ e.itps = 4) ∧ e.itpt ≠ 0) := by
  simp [apstLegal]

theorem setApst_put {s : State} {c : Nat} (hp : isPf0 c = true) {l : List ApstEntry} (hl : l.length ≤ 32)
    (he : ∀ e ∈ l, apstLegal e = true) (cid : Nat) (en : Bool) :
    setApst s c cid false en l = adone { s with pm := { s.pm with apstOn := en, apst := l } } c cid .success :=
  setSaveable_put hp (by simpa [hl] using he) ..

/-- The grace times that feature 0xC0 takes (R434). -/
theorem graceLegal_iff (ms : Nat) :
    (ms == 0 || between 100 30000 ms) = true ↔ ms = 0 ∨ (100 ≤ ms ∧ ms ≤ 30000) := by
  simp [between]

theorem setGrace_put {s : State} {c ms : Nat} (hp : isPf0 c = true) (hms : ms = 0 ∨ (100 ≤ ms ∧ ms ≤ 30000))
    (cid : Nat) : setGrace s c cid false ms 0 =
      adone { s with thm := { s.thm with graceMs := if ms = 0 then 2000 else ms } } c cid .success :=
  setSaveable_put hp ((graceLegal_iff ms).2 hms) ..

theorem setGrace_refused {s : State} {c ms : Nat} (h : isPf0 c = false ∨ (0 < ms ∧ ms < 100) ∨ 30000 < ms)
    (cid : Nat) (sv : Bool) : setGrace s c cid sv ms 0 = adone s c cid .invalidField := by
  refine setSaveable_refused (h.imp_right fun hms => ?_) ..
  refine Bool.eq_false_iff.2 fun hg => ?_
  have := (graceLegal_iff ms).1 hg
  omega

/-- R434: the grace time is read back as it is in force. -/
theorem getFeature_grace (s : State) (c nsid w : Nat) :
    getFeature s c 0xC0 0 nsid w = (.success, s.thm.graceMs, []) := rfl

/-- R340: a period of 10 to 10,080 minutes and a first test 1 to 255 s after release come into force as given. -/
theorem setSchedule_put {s : State} {c p o : Nat} (hc : isPf0 c = true) (hp : 10 ≤ p ∧ p ≤ 10080)
    (ho : 0 < o ∧ o ≤ 255) (cid : Nat) : setSchedule s c cid false p o 0 false =
      adone { s with hold := { s.hold with period := p, first := o } } c cid .success := by
  have hpd : orDef p 1440 = p := if_neg (by omega)
  have hod : orDef o 30 = o := if_neg (by omega)
  unfold setSchedule
  rw [hpd, hod]
  exact (setSaveable_put hc (by simp [between, hp, ho]) ..).trans (by simp)

/-! ### Features of a controller or of the device (R119, R159, R417) -/

theorem setVwc_accepted {s : State} {w : Bool} (h : degraded s = false ∨ w = true) (c cid : Nat) :
    setVwc s c cid w = adone s c cid .success := by
  rcases h with h | h <;> simp [setVwc, h]

theorem setVwc_refused {s : State} (h : degraded s = true) (c cid : Nat) :
    setVwc s c cid false = adone s c cid .huDegraded := by
  simp [setVwc, h]

theorem bitOf_aecBits : ∀ b ∈ [0, 1, 2, 3, 8, 9, 27], bitOf aecBits b = true := by decide

theorem setAec_put {m : Nat} (hm : m < 2 ^ 32)
    (hb : ∀ b, b < 32 → bitOf m b = true → b ∈ [0, 1, 2, 3, 8, 9, 27]) (s : State) (c cid : Nat) :
    setAec s c cid m = adone (setCtrl s c { getCtrl s c with aec := m }) c cid .success := by
  have known : ∀ b ∈ ranksIn m, bitOf aecBits b = true := fun b h => by
    obtain ⟨hlt, hbit⟩ := List.mem_filter.1 h
    exact bitOf_aecBits b (hb b (List.mem_range.1 hlt) hbit)
  exact if_neg (by simpa using ⟨known, hm⟩)

theorem setNoppme_put {c : Nat} (hp : isPf0 c = true) (s : State) (cid : Nat) (v : Bool) :
    setNoppme s c cid v = adone { s with pm := { s.pm with noppme := v } } c cid .success := by
  simp [setNoppme, hp]

/-! ### The power state (R415, R418) -/

/-- From an operational state, the entry into PS3 or PS4 starts at once. -/
theorem requestState_begins {s : State} {ps : Nat} (hps : 3 ≤ ps) (he : s.pm.entry = .none) (h3 : s.pm.ps < 3) :
    requestState s ps = beginEntry s ps := by
  have shown : shownPs s = s.pm.ps := by simp [shownPs, he]
  simp [requestState, shown, show ps ≠ s.pm.ps by omega, show s.pm.ps ≠ 3 by omega, show ¬ ps < 3 by omega]

theorem beginEntry_untested {s : State} (h : s.hold.testing = false) (ps : Nat) :
    beginEntry s ps = { s with pm := { s.pm with
      back := s.pm.ps, req := ps, entry := if ps = 3 then .drain3 else .drain4 } } := by
  simp [beginEntry, h]

/-- R415: PF0's request for PS3 or PS4 is accepted where no commission is live, no sanitize or activation runs and no
entry is under way. -/
theorem setPower_accepted {s : State} {c ps : Nat} (hp : isPf0 c = true) (hm : s.boot.maquette = false)
    (hps : ps = 3 ∨ ps = 4) (hl : liveComms s = []) (hb : entryBarred s = false) (he : s.pm.entry = .none)
    (cid : Nat) : setPower s c cid ps 0 = adone (requestState s ps) c cid .success := by
  simp [setPower, hp, hm, show ¬ 4 < ps by omega, hl, hb, he]

/-- Settles O25: every row has its effect on the state its fetch leaves (`exec_adminRom`), and one lemma for each
feature says what its set does; the grace time's accepted values are those of `graceLegal_iff`. -/
theorem featuresSet : Obligations.FeaturesSet := by
  unfold Obligations.FeaturesSet
  intro s c cid h hr f
  refine ⟨fun nsid w => ?atomicity, fun nsid w => ?coalescing, fun w hw => ?cache, fun hd => ?cacheDegraded,
    fun m hm hb => ?events, fun en l hp hl hmet he => ?apst, fun v hp => ?noppme, fun ms hp hms => ?grace,
    fun sv ms hbad => ?graceRefused, fun nsid w => ?graceRead, fun p o hp hp1 hp2 ho1 ho2 _ => ?schedule,
    fun ps hp hm hps hl hb he h3 htest => ?power⟩
  case atomicity => exact exec_adminRom (setFeature · c cid 0xA false nsid w) rfl h hr rfl
  case coalescing => exact exec_adminRom (setFeature · c cid 8 false nsid w) rfl h hr rfl
  case cache => exact exec_adminRom (setVwc · c cid w) rfl h hr (setVwc_accepted (s := f) hw c cid)
  case cacheDegraded => exact exec_adminRom (setVwc · c cid false) rfl h hr (setVwc_refused (s := f) hd c cid)
  case events => exact exec_adminRom (setAec · c cid m) rfl h hr (setAec_put hm hb f c cid)
  case apst =>
    refine exec_adminRom (ctlData c cid 256 (setApst · c cid false en l)) rfl h hr ((ctlData_met hmet cid _).trans ?_)
    rw [setApst_put hp hl fun e hmem => (apstLegal_iff e).2 (he e hmem), ctlServed_pm]
    rfl
  case noppme => exact exec_adminRom (setNoppme · c cid v) rfl h hr (setNoppme_put hp f cid v)
  case grace => exact exec_adminRom (setGrace · c cid false ms 0) rfl h hr (setGrace_put hp hms cid)
  case graceRefused => exact exec_adminRom (setGrace · c cid sv ms 0) rfl h hr (setGrace_refused hbad cid sv)
  case graceRead => exact getFeatures_value h hr cid (getFeature_grace f c nsid w)
  case schedule =>
    have put := setSchedule_put (s := f) hp ⟨hp1, hp2⟩ ⟨ho1, ho2⟩ cid
    exact exec_adminRom (setSchedule · c cid false p o 0 false) rfl h hr put
  case power =>
    refine ⟨adone (beginEntry f ps) c cid .success, exec_adminRom (setPower · c cid ps 0) rfl h hr ?_, ?_⟩
    · rw [setPower_accepted (s := f) hp hm hps hl hb he, requestState_begins (s := f) (by omega) he h3]
    · rw [beginEntry_untested (s := f) htest]
      exact ⟨rfl, rfl, rfl, cqeWaits_adone .., rfl⟩

end Sys2Proof.Machine
end
section
/-! SUPPORT. Keys that are drawn, destroyed and restored: no key number comes back, and the store of images and fuses
stands (R36, R310 to R313). -/

namespace Sys2Proof.Machine

/-! ### Fresh lists of key numbers -/

theorem freshBelow_nil (n : Nat) : freshBelow n [] := ⟨by simp, List.Pairwise.nil⟩

theorem freshBelow_subperm {n : Nat} {a b : List Nat} (h : a.Subperm b) (f : freshBelow n b) : freshBelow n a := by
  obtain ⟨c, hp, hs⟩ := h
  refine ⟨fun k hk => f.1 k (hs.subset (hp.mem_iff.mpr hk)), ?_⟩
  exact hp.pairwise_iff (fun h => h.symm) |>.mp (f.2.sublist hs)

theorem freshBelow_mono {n m : Nat} {l : List Nat} (hm : n ≤ m) (h : freshBelow n l) : freshBelow m l :=
  ⟨fun k hk => (h.1 k hk).trans_le hm, h.2⟩

theorem freshBelow_cons {n : Nat} {l : List Nat} (h : freshBelow n l) : freshBelow (n + 1) (n :: l) := by
  refine ⟨fun k hk => ?_, .cons (fun k hk => (h.1 k hk).ne') h.2⟩
  rcases List.mem_cons.mp hk with rfl | hk
  · exact Nat.lt_succ_self _
  · exact (h.1 k hk).trans (Nat.lt_succ_self _)

/-- A write puts one entry into a table and takes at most one out. -/
theorem tset_subperm {α : Type} [DecidableEq α] (d : α) (t : List (Nat × α)) (i : Nat) (v : α) :
    (tset d t i v).Subperm ((i, v) :: t) := by
  induction t with
  | nil => unfold tset; split <;> simp
  | cons kv r ih =>
    obtain ⟨k, w⟩ := kv
    unfold tset
    by_cases h1 : i < k
    · by_cases h2 : v = d
      · rw [if_pos h1, if_pos h2]; exact List.subperm_cons_self
      · rw [if_pos h1, if_neg h2]
    · by_cases h2 : i = k
      · have rest : ((i, v) :: r).Subperm ((i, v) :: (k, w) :: r) :=
          (List.subperm_cons _).mpr List.subperm_cons_self
        rw [if_neg h1, if_pos h2]
        by_cases h3 : v = d
        · rw [if_pos h3]; exact List.subperm_cons_self.trans rest
        · rw [if_neg h3]; exact rest
      · rw [if_neg h1, if_neg h2]
        exact ((List.subperm_cons _).mpr ih).trans (List.Perm.swap _ _ _).subperm

/-- A write of the empty slot takes at most one entry out. -/
theorem tset_default_sublist {α : Type} [DecidableEq α] (d : α) (t : List (Nat × α)) (i : Nat) :
    (tset d t i d).Sublist t := by
  induction t with
  | nil => simp [tset]
  | cons kv r ih =>
    obtain ⟨k, w⟩ := kv
    unfold tset
    by_cases h1 : i < k
    · simp [h1]
    · by_cases h2 : i = k <;> simp [h2, ih, h1]

/-! ### What a command keeps of the keys and the store -/

/-- From `g` to `h` no key comes back, and the boot flash with its headers and the fuses stand. -/
structure KeysKept (g h : Guarded) : Prop where
  fresh : g.fresh → h.fresh
  store : (h.flash, h.hdr0, h.hdr1, h.fuses) = (g.flash, g.hdr0, g.hdr1, g.fuses)

@[simp] theorem KeysKept.refl (g : Guarded) : KeysKept g g := ⟨id, rfl⟩

theorem KeysKept.trans {g h k : Guarded} (a : KeysKept g h) (b : KeysKept h k) : KeysKept g k :=
  ⟨b.fresh ∘ a.fresh, b.store.trans a.store⟩

theorem KeysKept.foldl {α : Type} {f : State → α → State} {g : Guarded} {s : State}
    (h : KeysKept g (guarded s)) (hf : ∀ s x, KeysKept (guarded s) (guarded (f s x))) (l : List α) :
    KeysKept g (guarded (l.foldl f s)) := by
  induction l generalizing s with
  | nil => exact h
  | cons x t ih => exact ih (h.trans (hf s x))

/-- An outcome in whose next state no key has come back and the store stands. -/
def Keeps (s : State) (o : Out) : Prop := OutAll (fun t => KeysKept (guarded s) (guarded t)) o

theorem OutAll.keeps {s : State} {o : Out} (h : OutAll (guarded · = guarded s) o) : Keeps s o := by
  cases o with
  | next t =>
    have e : guarded t = guarded s := h
    show KeysKept (guarded s) (guarded t)
    rw [e]; exact .refl _
  | fault | refused => trivial

theorem nonvolatile_of_guarded {s t : State} {k : List (Nat × Key)} (h : guarded t = { guarded s with keys := k }) :
    nonvolatile t = nonvolatile s :=
  congrArg (fun g => (g.flash, g.hdr0, g.hdr1, g.fuses)) h

/-- A table of keys with one key more or replaced by a fresh one, or none. -/
theorem freshBelow_keyIn {n m : Nat} {t u : List (Nat × Key)} (h : freshBelow n (t.map (·.2.ser)))
    (i : Nat) (k : Key) (hu : u.Subperm ((i, k) :: t)) (hk : k.ser = n) (hm : m = n + 1) :
    freshBelow m (u.map (·.2.ser)) := by
  subst hm hk
  obtain ⟨c, hp, hs⟩ := hu
  exact freshBelow_subperm ⟨_, hp.map _, hs.map _⟩ (freshBelow_cons h)

/-! ### Shares, draws and wraps -/

theorem keys_of_guarded {s : State} {g : Guarded} (h : guarded s = g) : s.cipher.keys = g.keys := by
  subst h; rfl

theorem nextSer_of_guarded {s : State} {g : Guarded} (h : guarded s = g) : s.cipher.nextSer = g.nextSer := by
  subst h; rfl

theorem randomBlocks_guarded (s : State) (n : Nat) : guarded (randomBlocks s n).2 = guarded s := by
  simp [randomBlocks]

theorem shareKey_guarded (s : State) (st : Nat) (b : Bool) (ser v : Nat) :
    guarded (shareKey s st b ser v).2 = guarded s := by
  unfold shareKey; dsimp only; split <;> simp [randomBlocks_guarded]

theorem remask_ser (m : Nat) (k : Key) : (remask m k).ser = k.ser := by unfold remask; split <;> rfl

theorem drawPair_guarded (f : Nat) (s : State) : guarded (drawPair f s).2 = guarded s := by
  induction f generalizing s with
  | zero => exact randomBlocks_guarded s 4
  | succ f ih => unfold drawPair; dsimp only; split <;> simp [ih, randomBlocks_guarded]

theorem drawKey_guarded (s : State) (b : Bool) : guarded (drawKey s b).2 = guarded s := by
  unfold drawKey; split <;> simp [randomBlocks_guarded, drawPair_guarded]

/-- The saved table and its shadow are the wraps of the slots, which keep their numbers (R311). -/
theorem saveKeys_kept (s : State) (d : Bool) : KeysKept (guarded s) (guarded (saveKeys s d)) := by
  have sers : (wrapTable s).map (·.2.ser) = s.cipher.keys.map (·.2.ser) := by simp [wrapTable, wrapEntry]
  refine ⟨fun ⟨hk, _, _⟩ => ?_, rfl⟩
  have ht : freshBelow s.cipher.nextSer ((wrapTable s).map (·.2.ser)) := sers ▸ hk
  exact ⟨hk, ht, ht⟩

theorem destroyKey_kept (s : State) (i : Nat) : KeysKept (guarded s) (guarded (destroyKey s i)) := by
  unfold destroyKey
  split
  · exact .refl _
  · have h1 : guarded (if s.cipher.drbg == 1 then (randomBlocks s 60).2 else s) = guarded s := by
      split <;> simp [randomBlocks_guarded]
    dsimp only
    generalize (if s.cipher.drbg == 1 then (randomBlocks s 60).2 else s) = s1 at h1
    rw [← h1]
    refine ⟨fun ⟨hk, hs, ht⟩ => ⟨?_, hs, ht⟩, rfl⟩
    exact freshBelow_subperm ((tset_default_sublist ({} : Key) _ i).map _).subperm hk

/-- A slot takes a key with the next number (R310, R317). -/
theorem putFresh_kept {s t : State} (i : Nat) {k : Key} (hk : k.ser = s.cipher.nextSer)
    (ht : guarded t = { guarded s with keys := tset {} s.cipher.keys i k, nextSer := s.cipher.nextSer + 1 }) :
    KeysKept (guarded s) (guarded t) := by
  rw [ht]
  refine ⟨fun ⟨h, hs, ht⟩ => ⟨freshBelow_keyIn h i k (tset_subperm _ _ _ _) hk rfl, ?_, ?_⟩, rfl⟩
  · exact freshBelow_mono (Nat.le_succ _) hs
  · exact freshBelow_mono (Nat.le_succ _) ht

theorem generateKey_kept (s : State) (ik : Nat × Bool) : KeysKept (guarded s) (guarded (generateKey s ik)) := by
  unfold generateKey
  split
  · exact .refl _
  · dsimp only
    generalize hd : drawKey (reseed s) ik.2 = d
    have h1 : guarded d.2 = guarded s := by rw [← hd, drawKey_guarded, reseed_guarded]
    have h2 := shareKey_guarded d.2 1 ik.2 d.2.cipher.nextSer d.1
    have hser : (shareKey d.2 1 ik.2 d.2.cipher.nextSer d.1).1.ser = d.2.cipher.nextSer := rfl
    generalize shareKey d.2 1 ik.2 d.2.cipher.nextSer d.1 = r at h2 hser
    rw [← h1, ← h2]
    have e : r.2.cipher.nextSer = d.2.cipher.nextSer := nextSer_of_guarded h2
    exact putFresh_kept ik.1 (hser.trans e.symm) rfl

section
variable {g : Guarded} {s : State} (h : KeysKept g (guarded s))
include h

theorem KeysKept.saveKeys (d : Bool) : KeysKept g (guarded (saveKeys s d)) := h.trans (saveKeys_kept s d)

theorem KeysKept.destroyKey (i : Nat) : KeysKept g (guarded (destroyKey s i)) := h.trans (destroyKey_kept s i)

theorem KeysKept.generateKey (ik : Nat × Bool) : KeysKept g (guarded (generateKey s ik)) :=
  h.trans (generateKey_kept s ik)

theorem KeysKept.destroyAll (l : List Nat) : KeysKept g (guarded (destroyAll s l)) := by
  unfold Machine.destroyAll
  split
  · exact h
  · exact (h.foldl destroyKey_kept _).saveKeys _

theorem KeysKept.generateAll (l : List (Nat × Bool)) : KeysKept g (guarded (generateAll s l).1) := by
  unfold Machine.generateAll
  split
  · exact h
  · split
    · exact (h.foldl generateKey_kept _).saveKeys _
    · exact h

theorem KeysKept.regenerate (l : List (Nat × Bool)) : KeysKept g (guarded (regenerate s l).1) := by
  have hd := h.foldl destroyKey_kept (l.map (·.1))
  unfold Machine.regenerate; dsimp only
  split
  · exact h
  · split
    · exact (hd.foldl generateKey_kept _).saveKeys _
    · exact hd.saveKeys _

theorem KeysKept.installKey (i : Nat) (b : Bool) (v : Nat) : KeysKept g (guarded (installKey s i b v)) := by
  have h2 := shareKey_guarded s 2 b s.cipher.nextSer v
  have hser : (shareKey s 2 b s.cipher.nextSer v).1.ser = s.cipher.nextSer := rfl
  unfold Machine.installKey; dsimp only
  rw [devRec_guarded]
  refine KeysKept.saveKeys ?_ _
  generalize shareKey s 2 b s.cipher.nextSer v = r at h2 hser
  have e : r.2.cipher.nextSer = s.cipher.nextSer := nextSer_of_guarded h2
  rw [← h2] at h
  exact h.trans (putFresh_kept i (hser.trans e.symm) rfl)

theorem KeysKept.keyImport (c cid action slot rsv ex ey wrapped : Nat) :
    KeysKept g (guarded (keyImport s c cid action slot rsv ex ey wrapped)) := by
  unfold Machine.keyImport; dsimp only
  repeat' split
  all_goals simp [importFail, h, h.installKey]

theorem KeysKept.startImport (id : Nat) : KeysKept g (guarded (startImport s id)) := by
  unfold Machine.startImport
  split
  · exact h
  · split
    · exact h
    · exact KeysKept.keyImport (by simpa using h) ..

end

/-! ### Keys that come back from the shadow (R313, R421) -/

/-- The definition as an equation of functions: unfolded at an argument, the kernel would run the unwrap. -/
theorem restoreKey_elim : restoreKey = fun s x => (unwrapEntry s x.1 x.2).elim s (fun v =>
    let r := shareKey s x.2.st x.2.isSeal x.2.ser v
    { r.2 with cipher := { r.2.cipher with keys := tset {} r.2.cipher.keys x.1 r.1 } }) := by
  delta restoreKey
  funext s x
  cases unwrapEntry s x.1 x.2 <;> rfl

/-- A slot that is restored keeps its entry's number, and of what the device guards the key RAM alone changes. -/
theorem restoreKey_guarded (s : State) (x : Nat × KeyEnt) :
    ∃ k, guarded (restoreKey s x) = { guarded s with keys := k } ∧
      (k.map (·.2.ser)).Subperm (x.2.ser :: s.cipher.keys.map (·.2.ser)) := by
  rw [restoreKey_elim]
  dsimp only
  cases unwrapEntry s x.1 x.2 with
  | none => exact ⟨_, rfl, List.subperm_cons_self⟩
  | some v =>
    have h2 := shareKey_guarded s x.2.st x.2.isSeal x.2.ser v
    have h3 : (shareKey s x.2.st x.2.isSeal x.2.ser v).1.ser = x.2.ser := rfl
    dsimp only [Option.elim]
    generalize shareKey s x.2.st x.2.isSeal x.2.ser v = r at h2 h3
    have hk : r.2.cipher.keys = s.cipher.keys := keys_of_guarded h2
    obtain ⟨c, hp, hs⟩ := tset_subperm ({} : Key) r.2.cipher.keys x.1 r.1
    refine ⟨tset {} r.2.cipher.keys x.1 r.1, by rw [← h2]; simp only [guarded_mk]; rfl, ?_⟩
    rw [← hk, ← h3]
    exact ⟨_, hp.map _, hs.map _⟩

/-- Restoring slots leaves the store of images and fuses. -/
theorem restoreKeys_store (l : List (Nat × KeyEnt)) (s : State) : nonvolatile (l.foldl restoreKey s) = nonvolatile s := by
  induction l generalizing s with
  | nil => rfl
  | cons x t ih =>
    obtain ⟨k, hk, _⟩ := restoreKey_guarded s x
    exact (ih _).trans (nonvolatile_of_guarded hk)

/-- Restoring slots from entries not yet in the key RAM moves their numbers there. -/
theorem restoreKeys_guarded {n : Nat} (l : List (Nat × KeyEnt)) (s : State)
    (h : freshBelow n (s.cipher.keys.map (·.2.ser) ++ l.map (·.2.ser))) :
    ∃ k, guarded (l.foldl restoreKey s) = { guarded s with keys := k } ∧ freshBelow n (k.map (·.2.ser)) := by
  induction l generalizing s with
  | nil => exact ⟨_, rfl, by simpa using h⟩
  | cons x t ih =>
    obtain ⟨k, hk, hp⟩ := restoreKey_guarded s x
    have hkeys : (restoreKey s x).cipher.keys = k := keys_of_guarded hk
    obtain ⟨m, hm, hf⟩ := ih (restoreKey s x) (by
      rw [hkeys]
      exact freshBelow_subperm (((List.subperm_append_right _).mpr hp).trans List.perm_middle.symm.subperm) h)
    exact ⟨m, by rw [List.foldl_cons, hm, hk], hf⟩

/-- The key RAM filled from the shadow holds the shadow's numbers. -/
theorem fromShadow_kept (s : State) : KeysKept (guarded s) (guarded (fromShadow s)) := by
  refine ⟨fun ⟨hk, hs, ht⟩ => ?_, ?_⟩
  · obtain ⟨k, hg, hf⟩ := restoreKeys_guarded s.cipher.shadow { s with cipher := { s.cipher with keys := [] } } hs
    unfold fromShadow
    rw [hg]
    exact ⟨hf, hs, ht⟩
  · unfold fromShadow
    exact restoreKeys_store _ _

/-- Every slot keeps its number under a fresh mask (R301). -/
theorem remaskAll_kept (s : State) : KeysKept (guarded s) (guarded (remaskAll s)) := by
  have walk : ∀ (l : List (Nat × Key)) (a : State × List (Nat × Key)),
      let r := l.foldl (fun (a : State × List (Nat × Key)) kv =>
        let q := randomBlocks a.1 30
        (q.2, a.2 ++ [(kv.1, remask q.1 kv.2)])) a
      guarded r.1 = guarded a.1 ∧ r.2.map (·.2.ser) = a.2.map (·.2.ser) ++ l.map (·.2.ser) := by
    intro l
    induction l with
    | nil => simp
    | cons x t ih =>
      intro a
      obtain ⟨h1, h2⟩ := ih ((randomBlocks a.1 30).2, a.2 ++ [(x.1, remask (randomBlocks a.1 30).1 x.2)])
      refine ⟨h1.trans (randomBlocks_guarded _ _), h2.trans ?_⟩
      simp [remask_ser]
  obtain ⟨h1, h2⟩ := walk s.cipher.keys (s, [])
  unfold remaskAll
  dsimp only at h1 h2 ⊢
  generalize s.cipher.keys.foldl _ (s, []) = r at h1 h2
  rw [← h1]
  refine ⟨fun ⟨hk, hs, ht⟩ => ⟨?_, hs, ht⟩, rfl⟩
  have e : s.cipher.keys = r.1.cipher.keys := (keys_of_guarded h1).symm
  have hser : r.2.map (·.2.ser) = r.1.cipher.keys.map (·.2.ser) := by rw [h2, e]; rfl
  show freshBelow _ (r.2.map (·.2.ser))
  rw [hser]; exact hk

end Sys2Proof.Machine
end
section
/-! SUPPORT. The commands under which keys are cleared, restored, drawn or destroyed keep them fresh (R310 to R313, R454 to
R465). -/

namespace Sys2Proof.Machine

/-! ### The key RAM is cleared (R413, R463) -/

theorem deviceClear_guarded (s : State) : guarded (deviceClear s) = { guarded s with keys := [] } := by
  simp only [deviceClear, guarded_mk]; rfl

section
variable {g : Guarded} {s t : State} (h : KeysKept g (guarded s))
include h

/-- A state with an empty key RAM. -/
theorem KeysKept.noKeys (ht : guarded t = { guarded s with keys := [] }) : KeysKept g (guarded t) := by
  rw [ht]
  exact h.trans ⟨fun ⟨_, hs, hx⟩ => ⟨freshBelow_nil _, hs, hx⟩, rfl⟩

/-- A state with an empty key RAM whose shadow is lost too. -/
theorem KeysKept.noShadow (ht : guarded t = { guarded s with keys := [], shadow := [] }) : KeysKept g (guarded t) := by
  rw [ht]
  exact h.trans ⟨fun ⟨_, _, hx⟩ => ⟨freshBelow_nil _, freshBelow_nil _, hx⟩, rfl⟩

theorem KeysKept.deviceClear : KeysKept g (guarded (deviceClear s)) := h.noKeys (deviceClear_guarded s)

theorem KeysKept.coldClear (why : Nat) : KeysKept g (guarded (coldClear s why)) :=
  h.noShadow (by simp only [Machine.coldClear, Machine.deviceClear, guarded_mk]; rfl)

theorem KeysKept.railFault : KeysKept g (guarded (railFault s)) :=
  h.noKeys (by simp only [Machine.railFault, Machine.deviceClear, guarded_mk]; rfl)

theorem KeysKept.haltReset : KeysKept g (guarded (haltReset s)) :=
  h.noKeys (by simp only [Machine.haltReset, Machine.deviceClear, guarded_mk]; rfl)

theorem KeysKept.rcoFailure : KeysKept g (guarded (rcoFailure s)) :=
  h.noKeys (by simp only [Machine.rcoFailure, Machine.deviceClear, guarded_mk]; rfl)

theorem KeysKept.warmRestart : KeysKept g (guarded (warmRestart s)) := by
  refine h.noKeys ?_
  unfold Machine.warmRestart
  repeat' split
  all_goals simp only [Machine.deviceClear, guarded_mk]; rfl

theorem KeysKept.powerDown : KeysKept g (guarded (powerDown s)) := by
  refine KeysKept.noKeys (s := fedStop s) (by simpa using h) ?_
  simp only [Machine.powerDown, guarded_mk]; rfl

theorem KeysKept.startUpHold : KeysKept g (guarded (startUpHold s)) := by
  refine KeysKept.noKeys (s := bootRec s 0xB2 7 0 0 s.thm.composite) (by simpa using h) ?_
  simp only [Machine.startUpHold, Machine.deviceClear, guarded_mk]; rfl

theorem KeysKept.deviceWarm (why : Nat) : KeysKept g (guarded (deviceWarm s why)) := by
  unfold Machine.deviceWarm
  split
  · exact h
  · dsimp only
    split
    · refine h.noKeys ?_
      simp only [Machine.deviceClear, guarded_mk]; rfl
    · simpa using h

/-! ### The device wakes (R420 to R423) -/

theorem KeysKept.fromShadow : KeysKept g (guarded (fromShadow s)) := h.trans (fromShadow_kept s)

theorem KeysKept.leaveLow (src : Nat) : KeysKept g (guarded (leaveLow s src)) := by
  have e : guarded (Machine.leaveLow s src) = guarded (Machine.fromShadow (startDrbg s)) := by
    simp [Machine.leaveLow]
  rw [e]
  exact KeysKept.fromShadow (by simpa using h)

theorem KeysKept.abandonEntry (src : Nat) : KeysKept g (guarded (abandonEntry s src)) := by
  unfold Machine.abandonEntry
  split
  · exact h
  · exact h.leaveLow src
  · simpa using h

theorem KeysKept.exitPs4 (src : Nat) : KeysKept g (guarded (exitPs4 s src)) := by
  have hl := h.leaveLow src
  unfold Machine.exitPs4; dsimp only
  split
  · exact hl
  · exact KeysKept.deviceWarm (by simpa using hl) 4

theorem KeysKept.wake (src : Nat) : KeysKept g (guarded (wake s src)) := by
  unfold Machine.wake
  repeat' split
  · exact h.abandonEntry src
  · exact h.leaveLow src
  · exact h.exitPs4 src
  · exact h

theorem KeysKept.reached (p : Nat) : KeysKept g (guarded (reached s p)) := by
  unfold Machine.reached; dsimp only
  generalize hs : (if (getPort s p).link == .l0 then s else setPort s p { getPort s p with link := .l0 }) = s1
  have h1 : KeysKept g (guarded s1) := by rw [← hs]; split <;> simpa using h
  split
  · exact h1.wake 3
  · exact h1

theorem KeysKept.enterPs3 : KeysKept g (guarded (enterPs3 s)) := by
  unfold Machine.enterPs3; dsimp only
  generalize hs : (if degraded s then commitSlots s (allSlots s) else s) = s1
  have h1 : KeysKept g (guarded s1) := by rw [← hs]; split <;> simpa using h
  split
  · exact h
  · simpa using h1.powerDown

theorem KeysKept.enterPs4 : KeysKept g (guarded (enterPs4 s)) := by
  unfold Machine.enterPs4; dsimp only
  split
  · exact h
  · simpa using KeysKept.powerDown (s := commitAll s (allSlots s)) (by simpa using h)

/-! ### Supply and clocks fail (R333, R398, R436) -/

theorem KeysKept.startBrace : KeysKept g (guarded (startBrace s)) := by
  simpa [Machine.startBrace] using h.abandonEntry 6

theorem KeysKept.pfailIn : KeysKept g (guarded (pfailIn s)) := by
  unfold Machine.pfailIn
  split
  · repeat' split
    · exact h.haltReset
    · simpa using h.abandonEntry 6
    · exact h
    · exact h.startBrace
  · simpa using h
  iterate 11 exact h.haltReset
  exact h

theorem KeysKept.startStop : KeysKept g (guarded (startStop s)) := by
  unfold Machine.startStop; dsimp only
  generalize hs : (if s.pm.entry != .none || s.pm.ps == 3 then Machine.wake s s.pm.wakeSrc else s) = s0
  have h0 : KeysKept g (guarded s0) := by
    rw [← hs]; split
    · exact h.wake _
    · exact h
  simpa using h0

theorem KeysKept.critical : KeysKept g (guarded (critical s)) := by
  unfold Machine.critical
  split
  iterate 9 exact h.startUpHold
  · repeat' split
    · exact h.startUpHold
    · exact h
    · exact h.startStop
  · exact h

theorem KeysKept.switchClocks (m : Nat) (queue : Bool) : KeysKept g (guarded (switchClocks s m queue)) := by
  unfold Machine.switchClocks; dsimp only
  repeat' split
  · exact h.rcoFailure
  all_goals simpa using h

end

end Sys2Proof.Machine
end
section
/-! SUPPORT. Every command but the five that write the boot flash, its headers or the fuses leaves those alone and brings no
key back. -/

namespace Sys2Proof.Machine

/-! ### How commands are served -/

section
variable {s : State} {body : State → State} (hb : ∀ t, KeysKept (guarded t) (guarded (body t)))
include hb

theorem Keeps.admin (c : Nat) : Keeps s (admin s c body) := by
  show KeysKept (guarded s) (guarded (if adminServed s c then body (adminFetch s c) else s))
  split
  · simpa using hb (adminFetch s c)
  · exact .refl _

theorem Keeps.adminFull (c cid : Nat) : Keeps s (adminFull s c cid body) :=
  Keeps.admin (fun t => by split <;> simp [hb]) c

theorem Keeps.adminRom (c cid : Nat) : Keeps s (adminRom s c cid body) :=
  Keeps.admin (fun t => by split <;> simp [hb]) c

theorem KeysKept.afterSan (c cid : Nat) (t : State) : KeysKept (guarded t) (guarded (afterSan c cid body t)) := by
  unfold Machine.afterSan; split <;> simp [hb]

theorem KeysKept.ctlData (c cid len : Nat) (t : State) :
    KeysKept (guarded t) (guarded (ctlData c cid len body t)) := by
  unfold Machine.ctlData; dsimp only; split
  · simpa using hb (ctlServed t c len)
  · simpa using hb (ctlAsk t c len).1

theorem Keeps.hostWrite (p : Nat) : Keeps s (hostWrite s p body) := by
  have h := (KeysKept.refl (guarded s)).reached p
  unfold Machine.hostWrite; dsimp only; split
  · exact h
  · exact h.trans (hb _)

theorem Keeps.access (port o dwords be : Nat) (write : Bool) :
    KeysKept (guarded s) (guarded (access s port o dwords be write body)) := by
  have h := (KeysKept.refl (guarded s)).reached port
  unfold Machine.access; dsimp only
  repeat' split
  · exact .refl _
  · exact h
  · simpa using h
  · exact h.trans (hb _)

theorem Keeps.regWrite (port o : Nat) : Keeps s (regWrite s port o body) := Keeps.access hb port o 1 15 true

end

theorem Keeps.ite {s : State} {p : Prop} [Decidable p] {a b : Out} (ha : Keeps s a) (hb : Keeps s b) :
    Keeps s (if p then a else b) := by split <;> assumption

theorem Keeps.same (s : State) : Keeps s (ok s) := KeysKept.refl (guarded s)

/-! ### Registers (R480 to R490) -/

variable (s : State) (port : Nat)

theorem execSchCtrlClr_keeps : Keeps s (execSchCtrlClr port s) := Keeps.regWrite (by simp) _ _

theorem execChnCtrlClr_keeps (ch : Nat) : Keeps s (execChnCtrlClr port ch s) :=
  Keeps.ite (Keeps.same s) (Keeps.regWrite (by simp) _ _)

theorem execPoolCtrlClr_keeps : Keeps s (execPoolCtrlClr port s) := Keeps.regWrite (by simp) _ _

theorem execXcrCtrlClr_keeps : Keeps s (execXcrCtrlClr port s) := Keeps.regWrite (by simp) _ _

theorem execXcrTkselWrite_keeps (niche : Nat) : Keeps s (execXcrTkselWrite port niche s) := Keeps.regWrite (by simp) _ _

theorem execHldTestRun_keeps : Keeps s (execHldTestRun port s) := Keeps.regWrite (by simp) _ _

theorem execHldCtrlClr_keeps : Keeps s (execHldCtrlClr port s) := Keeps.regWrite (by simp) _ _

theorem execFedCtrlClr_keeps : Keeps s (execFedCtrlClr port s) := Keeps.regWrite (by simp) _ _

theorem execFedTimeLoRead_keeps : Keeps s (execFedTimeLoRead port s) := Keeps.access (by simp) _ _ _ _ _

theorem execClkFmcStart_keeps (sel ref n : Nat) : Keeps s (execClkFmcStart port sel ref n s) :=
  Keeps.regWrite (by simp) _ _

theorem execClkFaultClear_keeps (m : Nat) : Keeps s (execClkFaultClear port m s) := Keeps.regWrite (by simp) _ _

theorem execPmCtrlClr_keeps : Keeps s (execPmCtrlClr port s) := Keeps.regWrite (by simp) _ _

theorem execPmOverbudgetClear_keeps : Keeps s (execPmOverbudgetClear port s) := Keeps.regWrite (by simp) _ _

theorem execThmCtrlClr_keeps : Keeps s (execThmCtrlClr port s) := Keeps.regWrite (by simp) _ _

theorem execThmHaltClear_keeps (m : Nat) : Keeps s (execThmHaltClear port m s) := Keeps.regWrite (by simp) _ _

theorem execPatCtrlClr_keeps : Keeps s (execPatCtrlClr port s) := Keeps.regWrite (by simp) _ _

theorem execGlbCtrlClrAcc_keeps : Keeps s (execGlbCtrlClrAcc port s) := Keeps.regWrite (by simp) _ _

theorem execGlbIstatClear_keeps (m : Nat) : Keeps s (execGlbIstatClear port m s) := Keeps.regWrite (by simp) _ _

theorem execGlbAlertClear_keeps (m : Nat) : Keeps s (execGlbAlertClear port m s) := Keeps.regWrite (by simp) _ _

theorem execNchIstatClear_keeps (n m : Nat) : Keeps s (execNchIstatClear port n m s) :=
  Keeps.ite (Keeps.same s) (Keeps.regWrite (by simp) _ _)

theorem execBar2RegisterWrite_keeps (o dw be x : Nat) : Keeps s (execBar2RegisterWrite port o dw be x s) :=
  Keeps.access (by simp) _ _ _ _ _

theorem execBar2ReadRefused_keeps (o dw be : Nat) : Keeps s (execBar2ReadRefused port o dw be s) :=
  Keeps.access (by simp) _ _ _ _ _

/-! ### The host's registers and resets (R80 to R92, R130 to R132) -/

theorem warmPort_kept (p : Nat) : KeysKept (guarded s) (guarded (warmPort s p)) := by
  have h := (KeysKept.refl (guarded s)).wake 4
  unfold warmPort; dsimp only
  simp only [portReset_guarded, decidePort_guarded]
  unfold wakeReset at *
  split
  · simpa using h
  · exact h

theorem execSqTailDoorbell_keeps (c q v : Nat) : Keeps s (execSqTailDoorbell c q v s) :=
  Keeps.ite (Keeps.same s) (Keeps.hostWrite (fun t => by
    simpa [doorbellWake] using (KeysKept.refl (guarded t)).wake 1) _)

theorem execCqHeadDoorbell_keeps (c q v : Nat) : Keeps s (execCqHeadDoorbell c q v s) :=
  Keeps.ite (Keeps.same s) (Keeps.hostWrite (fun t => by
    rw [headDoorbell_guarded]
    unfold headWake doorbellWake
    split
    · exact (KeysKept.refl _).wake 1
    · exact .refl _) _)

theorem execControllerEnable_keeps (c cc aqa asq acq : Nat) : Keeps s (execControllerEnable c cc aqa asq acq s) :=
  Keeps.ite (Keeps.same s) (Keeps.hostWrite (by simp) _)

theorem execControllerReset_keeps (c : Nat) : Keeps s (execControllerReset c s) :=
  Keeps.ite (Keeps.same s) (show KeysKept _ (guarded (dropController _ c)) by
    simpa [wakeReset] using (KeysKept.refl (guarded s)).wake 4)

theorem execShutdownNotification_keeps (c : Nat) (b : Bool) : Keeps s (execShutdownNotification c b s) :=
  Keeps.ite (Keeps.same s) (Keeps.hostWrite (by simp) _)

theorem execFunctionLevelReset_keeps (c : Nat) : Keeps s (execFunctionLevelReset c s) :=
  Keeps.ite (Keeps.same s) (show KeysKept _ (guarded (flr _ c)) by
    simpa [wakeReset] using (KeysKept.refl (guarded s)).wake 4)

theorem execVfEnable_keeps (num : Nat) (b : Bool) : Keeps s (execVfEnable port num b s) :=
  Keeps.ite (Keeps.same s) (Keeps.hostWrite (fun t => by split <;> simp) _)

theorem execPerstAssert_keeps : Keeps s (execPerstAssert port s) :=
  Keeps.ite (Keeps.same s) (Keeps.ite (show KeysKept _ (guarded (setPerst s port true)) by simp)
    (show KeysKept _ (guarded (warmPort _ port)) by simpa using warmPort_kept (setPerst s port true) port))

theorem execBothPerstLow_keeps : Keeps s (execBothPerstLow s) :=
  Keeps.ite ((KeysKept.refl _).deviceWarm 1) (Keeps.same s)

theorem execNvmSubsystemReset_keeps : Keeps s (execNvmSubsystemReset port s) :=
  Keeps.ite ((KeysKept.refl _).deviceWarm 2) (Keeps.same s)

theorem execLinkLossPortReset_keeps : Keeps s (execLinkLossPortReset port s) :=
  Keeps.ite (Keeps.same s) (show KeysKept _ (guarded (portReset _ port)) by
    simpa [wakeReset] using (KeysKept.refl (guarded s)).wake 4)

theorem execPf0MpsWrite_keeps (mps mrrs : Nat) : Keeps s (execPf0MpsWrite port mps mrrs s) :=
  Keeps.ite (Keeps.same s) (Keeps.hostWrite (by simp) _)

theorem execPortInternalFault_keeps : Keeps s (execPortInternalFault port s) :=
  Keeps.ite (Keeps.same s) (show KeysKept _ (guarded (warmPort _ port)) by
    simpa using warmPort_kept (aerRec s (port * 64) aerInternal false) port)

theorem execL12ExitWake_keeps : Keeps s (execL12ExitWake port s) := by
  unfold execL12ExitWake; dsimp only
  refine Keeps.ite (Keeps.same s) ?_
  show KeysKept _ (guarded (if _ then _ else _))
  split
  · exact KeysKept.wake (by simp) 3
  · simp

/-! ### Power states (R414 to R422) -/

theorem setPower_kept (c cid ps wh : Nat) : KeysKept (guarded s) (guarded (setPower s c cid ps wh)) := by
  have hr : KeysKept (guarded s) (guarded (requestState s ps)) := by
    unfold requestState; dsimp only
    split
    · exact .refl _
    · generalize hs : (if s.pm.ps == 3 then wake s 2 else s) = s1
      have h1 : KeysKept (guarded s) (guarded s1) := by
        rw [← hs]; split
        · exact (KeysKept.refl _).wake 2
        · exact .refl _
      split <;> simpa using h1
  unfold setPower
  repeat' split
  all_goals simp [hr]

theorem setFeature_kept (c cid fid : Nat) (sv : Bool) (nsid w : Nat) :
    KeysKept (guarded s) (guarded (setFeature s c cid fid sv nsid w)) := by
  unfold setFeature; dsimp only
  repeat' split
  all_goals simp [setPower_kept]

theorem execSetFeatures_keeps (c cid fid : Nat) (sv : Bool) (nsid w : Nat) : Keeps s (execSetFeatures c cid fid sv nsid w s) :=
  Keeps.adminRom (fun t => setFeature_kept t c cid fid sv nsid w) _ _

theorem execSetFeaturesPowerManagement_keeps (c cid ps wh : Nat) :
    Keeps s (execSetFeaturesPowerManagement c cid ps wh s) :=
  Keeps.adminRom (fun t => setPower_kept t c cid ps wh) _ _

theorem execApstIdleTimer_keeps : Keeps s (execApstIdleTimer s) := by
  refine Keeps.ite (Keeps.same s) ?_
  split
  · exact Keeps.same s
  · refine Keeps.ite (show KeysKept _ _ by simp) ?_
    show KeysKept _ (guarded (beginEntry _ _))
    rw [beginEntry_guarded]
    split
    · exact (KeysKept.refl _).wake _
    · exact .refl _

theorem execPs3Entry_keeps : Keeps s (execPs3Entry s) := Keeps.ite (Keeps.same s) (KeysKept.refl _).enterPs3

theorem execPs4Entry_keeps : Keeps s (execPs4Entry s) := Keeps.ite (Keeps.same s) (KeysKept.refl _).enterPs4

theorem execPs4L12Timeout_keeps : Keeps s (execPs4L12Timeout s) :=
  Keeps.ite (Keeps.same s) ((KeysKept.refl _).leaveLow 7)

theorem execNoppmeWindow_keeps : Keeps s (execNoppmeWindow s) := by
  have hp := (KeysKept.refl (guarded s)).powerDown
  have hf : KeysKept (guarded s) (guarded (quickAll (fromShadow (startDrbg s)))) := by
    rw [quickAll_guarded]; exact KeysKept.fromShadow (by simp)
  unfold execNoppmeWindow; dsimp only
  refine Keeps.ite (Keeps.same s) (Keeps.ite (Keeps.ite (Keeps.same s) ?_) (Keeps.ite (Keeps.same s) ?_))
  · exact show KeysKept _ _ by simpa using hp
  · exact show KeysKept _ _ by simpa using hf

/-! ### Supply, temperature and clocks (R330 to R347, R396 to R400, R428 to R438) -/

theorem execPfailInAssert_keeps : Keeps s (execPfailInAssert s) :=
  Keeps.ite (Keeps.same s) (KeysKept.pfailIn (by simp [abandonSteps]))

theorem execFlushHalt_keeps : Keeps s (execFlushHalt s) :=
  Keeps.ite (Keeps.same s) (Keeps.ite (KeysKept.railFault (by simp)) (KeysKept.haltReset (by simp)))

theorem execFlushHaltColdStart_keeps : Keeps s (execFlushHaltColdStart s) :=
  Keeps.ite (Keeps.same s) ((KeysKept.refl _).coldClear 6)

theorem execResetFlushEnd_keeps : Keeps s (execResetFlushEnd s) :=
  Keeps.ite (Keeps.same s) (KeysKept.warmRestart (by simp))

theorem execAdcScanConversion_keeps (code : Nat) (v : Int) : Keeps s (execAdcScanConversion code v s) := by
  have round : ∀ t, KeysKept (guarded t) (guarded (endRound t)) := by
    intro t
    unfold endRound; dsimp only
    generalize (if anyCritical t then t.thm.critRun + 1 else 0) = run
    split
    · simp
    · generalize hs : setLevel _ _ = s4
      have h4 : guarded s4 = guarded t := by
        rw [← hs, setLevel_guarded]; split <;> simp [tempEvents_guarded]
      split
      · exact KeysKept.critical (by simp [h4])
      · simp [h4]
  unfold execAdcScanConversion; dsimp only
  refine Keeps.ite (Keeps.same s) ?_
  generalize hs : (if s.thm.ch < 28 then _ else _ : State) = s1
  have h1 : guarded s1 = guarded s := by
    rw [← hs]; repeat' split
    all_goals simp
  show KeysKept _ (guarded (if _ then _ else _))
  split
  · exact KeysKept.trans (by simp [h1]) (round _)
  · simp [h1]

theorem execThermalHalt_keeps : Keeps s (execThermalHalt s) := by
  refine Keeps.ite (Keeps.same s) (KeysKept.noKeys
    (s := commitAll (devRec s 0xB2 7 0 0 s.thm.composite) (allSlots s)) (by simp) ?_)
  simp only [deviceClear, guarded_mk]; rfl

theorem execThermalHaltRestart_keeps : Keeps s (execThermalHaltRestart s) :=
  Keeps.ite (Keeps.same s) ((KeysKept.refl _).coldClear 5)

theorem execTrip_keeps (n : Nat) : Keeps s (execTrip n s) :=
  Keeps.ite (Keeps.same s) ((KeysKept.refl _).noKeys (by simp only [deviceClear, guarded_mk]; rfl))

theorem execClockMonitorTrip_keeps (n : Option Nat) (gap : Nat) : Keeps s (execClockMonitorTrip n gap s) := by
  unfold execClockMonitorTrip; dsimp only
  refine Keeps.ite (Keeps.same s) (Keeps.ite ?_ (KeysKept.switchClocks ?_ 7 true))
  · show KeysKept _ (guarded _)
    split <;> simp
  · cases n <;> simp

theorem execPllLossOfLock_keeps (p : Pll) : Keeps s (execPllLossOfLock p s) := by
  unfold execPllLossOfLock
  split
  · exact Keeps.ite (Keeps.same s) (show KeysKept _ _ by simp)
  · exact Keeps.ite (Keeps.same s) (Keeps.ite (show KeysKept _ _ by simp) (KeysKept.switchClocks (by simp) _ _))

/-! ### Start-up (R377 to R393, R460, R500 to R502) -/

theorem execPgAonFall_keeps : Keeps s (execPgAonFall s) :=
  Keeps.ite (Keeps.same s) (show KeysKept _ (guarded _) by simpa using (KeysKept.refl (guarded s)).coldClear 0)

theorem execPgTimeout_keeps : Keeps s (execPgTimeout s) :=
  Keeps.ite (KeysKept.refl _).railFault (Keeps.ite (Keeps.same s) (KeysKept.refl _).railFault)

theorem execPgFall_keeps (r : Rail) : Keeps s (execPgFall r s) := by
  unfold execPgFall; dsimp only
  generalize hp : ({ s with
    board := { s.board with pg := clrBit s.board.pg (railBit r) }
    boot := { s.boot with railPend := true } } : State) = pend
  have hpend : guarded pend = guarded s := by rw [← hp]; simp
  generalize ht : ({ s with board := { s.board with pg := clrBit s.board.pg (railBit r) } } : State) = t
  have hf : KeysKept (guarded s) (guarded (railFault t)) := KeysKept.railFault (by rw [← ht]; simp)
  refine Keeps.ite (Keeps.same s) (Keeps.ite hf ?_)
  split
  · refine Keeps.ite hf (show KeysKept _ (guarded (beginFlush _ _)) from ?_)
    simpa [hpend] using (KeysKept.refl (guarded pend)).abandonEntry 6
  · exact show KeysKept _ _ by simp [hpend]
  · exact show KeysKept _ (guarded (goto_ _ _)) by simp [hpend]
  · exact hf

theorem execRailFaultRetry_keeps : Keeps s (execRailFaultRetry s) :=
  Keeps.ite (Keeps.same s) ((KeysKept.refl _).coldClear 7)

theorem takeStraps_kept (x : Straps) : KeysKept (guarded s) (guarded (takeStraps s x)) := by
  by_cases hp : s.board.pfail = true
  · simp only [takeStraps, hp, if_true]
    exact KeysKept.haltReset (by simp)
  · by_cases hc : s.board.chgEn = true <;> simp [takeStraps, hp, hc]

theorem execRcoStable_keeps (x : Straps) : Keeps s (execRcoStable x s) := by
  unfold execRcoStable
  split
  · exact takeStraps_kept s x
  · exact Keeps.ite (show KeysKept _ _ by simp) (takeStraps_kept s x)
  · exact Keeps.ite (show KeysKept _ _ by simp) (Keeps.same s)

theorem execRcoStableTimeout_keeps : Keeps s (execRcoStableTimeout s) := by
  unfold execRcoStableTimeout
  split
  · exact show KeysKept _ _ by simp
  · exact Keeps.same s
  · exact Keeps.ite (KeysKept.refl _).rcoFailure (Keeps.same s)

/-- What follows the exit from PS4, for any state it leaves. -/
theorem KeysKept.onFallback {g : Guarded} {t : State} (h : KeysKept g (guarded t)) : KeysKept g (guarded
    (if absorbs t then { t with clk := { t.clk with fallback := true } }
     else enterFallback { t with clk := { t.clk with xoOk := false } } 7 true)) := by
  split <;> simpa using h

theorem exitOnFallback_kept : KeysKept (guarded s) (guarded (exitOnFallback s)) :=
  ((KeysKept.refl (guarded s)).exitPs4 3).onFallback

theorem execXoStableTimeout_keeps : Keeps s (execXoStableTimeout s) := by
  unfold execXoStableTimeout
  refine Keeps.ite (exitOnFallback_kept s) (Keeps.ite (Keeps.same s) ?_)
  exact show KeysKept _ (guarded (glbSet _ 0)) by simp

theorem applyChoice_guarded (b : BootReads) (c : Choice) : guarded (applyChoice s b c) = guarded s := by
  unfold applyChoice; dsimp only
  generalize h2 : c.errs.foldl (fun a ke => noteVal a ke.1 ke.2)
    (c.recs.foldl (fun a r => bootRec a 0x02 5 r.1 0 r.2) s) = s2
  have e : guarded s2 = guarded s := by rw [← h2]; simp
  rw [← e]
  split <;> simp [runFw]

theorem execFirmwareAndStructureChoice_keeps (b : BootReads) : Keeps s (execFirmwareAndStructureChoice b s) := by
  unfold execFirmwareAndStructureChoice; dsimp only
  refine Keeps.ite (Keeps.same s) (Keeps.ite (show KeysKept _ _ by simp) ?_)
  show KeysKept _ (guarded (goto_ _ _))
  rw [goto_guarded]
  generalize h2 : (if s.board.straps.boot == 3 then _ else copySticky _ : State) = s2
  have e : guarded s2 = guarded s := by rw [← h2]; split <;> simp
  rw [← e]
  split
  · simp
  · split <;> simp [applyChoice_guarded]

/-- The shadow of the entries that are good, restored. -/
theorem restoreGood_kept (p : Nat → KeyEnt → Bool) (b : Bool) (o : Option KeyBlk) : KeysKept (guarded s) (guarded
    (fromShadow { s with cipher := { s.cipher with
      keys := [], shadow := tdrop s.cipher.table p, ktableOk := b, older := o } })) := by
  refine KeysKept.fromShadow ?_
  rw [guarded_mk]
  refine ⟨fun ⟨_, _, ht⟩ => ⟨freshBelow_nil _, ?_, ht⟩, rfl⟩
  exact freshBelow_subperm (List.filter_sublist.map _).subperm ht

theorem restoreKeys_kept (bad : List Nat) : KeysKept (guarded s) (guarded (restoreKeys s bad)) := by
  unfold restoreKeys; dsimp only
  generalize (if (s.cipher.tableSeq == 0) = true then _ else _ : List Nat) = lost
  have h := restoreGood_kept s (fun i _ => lost.contains i) lost.isEmpty none
  rw [guarded_foldl]
  · split
    · exact h
    · simpa using h
  · intro a i
    split <;> simp

theorem createSlot_kept (i : Nat) : KeysKept (guarded s) (guarded (createSlot s i)) := by
  have h := (KeysKept.refl (guarded s)).generateAll (keySlots (slotCfg s i))
  unfold createSlot; dsimp only
  split
  · exact .refl _
  · split
    · exact .refl _
    · simpa [newNs] using h

theorem mountNs_kept : KeysKept (guarded s) (guarded (mountNs s)) := by
  unfold mountNs
  split
  · exact .refl _
  · generalize hs : (allSlots s).foldl detachUnfit s = t
    have e : guarded t = guarded s := by rw [← hs]; simp
    rw [← e]
    unfold firstLoad; dsimp only
    split
    · exact .refl _
    · simpa using (KeysKept.refl (guarded t)).foldl createSlot_kept (List.range t.arm.cfg.slots.length)

theorem finishMount_kept : KeysKept (guarded s) (guarded (finishMount s)) := by
  unfold finishMount; dsimp only
  generalize hs : flushFailures _ = t
  have e : guarded t = guarded s := by rw [← hs]; simp
  rw [← e]
  simpa using mountNs_kept t

theorem newPlinth_kept (m : MountInput) : KeysKept (guarded s) (guarded (newPlinth m s)) := by
  unfold newPlinth
  simp only [guarded_foldl, replaceFactory_guarded, implies_true, guarded_mk]
  exact ⟨fun ⟨hk, _, _⟩ => ⟨hk, freshBelow_nil _, freshBelow_nil _⟩, rfl⟩

theorem execPlinthMount_keeps (m : MountInput) : Keeps s (execPlinthMount m s) := by
  refine Keeps.ite (Keeps.same s) (Keeps.ite (show KeysKept _ (guarded (goto_ _ _)) by simp)
    (Keeps.ite (Keeps.same s) (Keeps.ite ?_ (Keeps.ite (show KeysKept _ (guarded (mountFailed _)) by simp) ?_))))
  · show KeysKept _ (guarded (goto_ (if _ then _ else _) _))
    rw [goto_guarded]
    split
    · exact .refl _
    · exact ((newPlinth_kept s m).trans (restoreKeys_kept _ _)).trans (finishMount_kept _)
  · show KeysKept _ (guarded (goto_ _ _))
    rw [goto_guarded]
    refine KeysKept.trans ?_ (finishMount_kept _)
    rw [recover_guarded]
    exact restoreKeys_kept s m.badKeys

theorem execStartUpWatchdogExpiry_keeps : Keeps s (execStartUpWatchdogExpiry s) := by
  unfold execStartUpWatchdogExpiry; dsimp only
  refine Keeps.ite (Keeps.same s) ?_
  generalize hs : bootRec _ 0x05 6 _ 0 0 = t
  have e : guarded t = guarded s := by rw [← hs]; simp
  show KeysKept _ (guarded _)
  rw [← e]
  simpa using (KeysKept.refl (guarded t)).deviceClear

theorem execServiceWatchdogExpiry_keeps : Keeps s (execServiceWatchdogExpiry s) := by
  unfold execServiceWatchdogExpiry; dsimp only
  exact Keeps.ite (Keeps.same s) (KeysKept.deviceWarm (by simp) 3)

/-! ### Keys, namespaces, sanitize (R149 to R154, R310 to R317) -/

theorem execKeyImport_keeps (c cid action slot rsv ex ey wrapped : Nat) :
    Keeps s (execKeyImport c cid action slot rsv ex ey wrapped s) :=
  Keeps.adminFull (KeysKept.ctlData (fun t => by
    split
    · simp
    · exact (KeysKept.refl _).keyImport ..) c cid 168) _ _

theorem execCommandStart_keeps (id : Nat) : Keeps s (execCommandStart id s) := by
  show KeysKept _ (guarded (if _ then _ else _))
  split
  · simp
  · exact (KeysKept.refl _).startImport id

theorem remaskNew_kept {g : Guarded} {b : State} (h : guarded b = g) (m : Nat) (l : List Eng) :
    KeysKept g (guarded (remaskAll { b with cipher := { b.cipher with maskSeeds := m, engs := l } })) := by
  subst h
  exact KeysKept.trans (by simp) (remaskAll_kept _)

theorem execMaskGeneratorReseed_keeps (e : Nat) : Keeps s (execMaskGeneratorReseed e s) := by
  have h := randomBlocks_guarded s 76
  unfold execMaskGeneratorReseed; dsimp only
  refine Keeps.ite (Keeps.same s) ?_
  split
  · exact remaskNew_kept h _ _
  · exact remaskNew_kept ((randomBlocks_guarded _ 76).trans h) _ _

theorem createNs_kept (c cid csi flbas nsze ncap dps : Nat) :
    KeysKept (guarded s) (guarded (createNs s c cid csi flbas nsze ncap dps)) := by
  unfold createNs; dsimp only
  repeat' split
  all_goals simp [newNs, (KeysKept.refl (guarded s)).generateAll]

theorem execNamespaceManagementCreate_keeps (c cid csi flbas nsze ncap dps : Nat) :
    Keeps s (execNamespaceManagementCreate c cid csi flbas nsze ncap dps s) :=
  Keeps.ite (Keeps.same s) (Keeps.adminFull (KeysKept.afterSan (KeysKept.ctlData
    (fun t => createNs_kept t c cid csi flbas nsze ncap dps) c cid 4096) c cid) _ _)

theorem deleteSlot_kept (i : Nat) : KeysKept (guarded s) (guarded (deleteSlot s i)) := by
  unfold deleteSlot; dsimp only
  generalize hs : finishStarted _ i = t
  have e : guarded t = guarded s := by rw [← hs]; simp
  rw [← e]
  simpa using (KeysKept.refl (guarded t)).destroyAll _

theorem deleteNs_kept (c cid nsid : Nat) : KeysKept (guarded s) (guarded (deleteNs s c cid nsid)) := by
  unfold deleteNs; dsimp only
  repeat' split
  · simp
  · simp
  · simpa using (KeysKept.refl (guarded s)).foldl deleteSlot_kept _

theorem execNamespaceManagementDelete_keeps (c cid nsid : Nat) :
    Keeps s (execNamespaceManagementDelete c cid nsid s) :=
  Keeps.adminFull (KeysKept.afterSan (fun t => deleteNs_kept t c cid nsid) c cid) _ _

theorem formatNs_kept (c cid nsid lbaf pi ses : Nat) :
    KeysKept (guarded s) (guarded (formatNs s c cid nsid lbaf pi ses)) := by
  unfold formatNs; dsimp only
  split
  · simp
  · split
    · simp
    · next i _ =>
      generalize hs : finishStarted s i = t
      have e : guarded t = guarded s := by rw [← hs]; simp
      repeat' split
      all_goals simp [← e, (KeysKept.refl (guarded t)).regenerate]

theorem execFormatNvm_keeps (c cid nsid lbaf pi ses : Nat) : Keeps s (execFormatNvm c cid nsid lbaf pi ses s) :=
  Keeps.ite (Keeps.same s) (Keeps.adminFull (KeysKept.afterSan (fun t => formatNs_kept t c cid nsid lbaf pi ses) c cid) _ _)

theorem sanBlock_kept (n : Nat) : KeysKept (guarded s) (guarded (sanBlock s n)) := by
  unfold sanBlock; dsimp only
  generalize hs : finishNiche s n = t
  have e : guarded t = guarded s := by rw [← hs]; simp
  simpa [← e] using (KeysKept.refl (guarded t)).destroyAll _

theorem sanCrypto_kept (n : Nat) : KeysKept (guarded s) (guarded (sanCrypto s n).1) := by
  unfold sanCrypto; dsimp only
  generalize hs : finishNiche s n = t
  have e : guarded t = guarded s := by rw [← hs]; simp
  have h := (KeysKept.refl (guarded t)).regenerate (nicheKeys s n)
  split
  · simpa [← e] using h
  · simpa [← e] using h

theorem execSanitizeBlockErase_keeps (c cid : Nat) (nd : Bool) : Keeps s (execSanitizeBlockErase c cid nd s) :=
  Keeps.adminRom (fun t => by
    split
    · simp
    · simpa using (KeysKept.refl (guarded t)).foldl sanBlock_kept _) _ _

theorem sanCryptos_kept (l : List Nat) (a : State × Bool) : KeysKept (guarded a.1) (guarded
    (l.foldl (fun (a : State × Bool) n => let q := sanCrypto a.1 n; (q.1, a.2 && q.2)) a).1) := by
  induction l generalizing a with
  | nil => exact .refl _
  | cons n r ih =>
    exact (sanCrypto_kept a.1 n).trans (ih ((sanCrypto a.1 n).1, a.2 && (sanCrypto a.1 n).2))

theorem execSanitizeCryptoErase_keeps (c cid : Nat) (nd : Bool) : Keeps s (execSanitizeCryptoErase c cid nd s) :=
  Keeps.ite (Keeps.same s) (Keeps.adminRom (fun t => by
    split
    · simp
    · simpa using sanCryptos_kept _ (t, true)) _ _)

end Sys2Proof.Machine
end
section
/-! SUPPORT. The boot flash, its headers and the fuses: which commands write them, and what every command keeps of them and of
the keys. -/

namespace Sys2Proof.Machine

/-! ### The boot flash in canonical form -/

/-- Canonical form of a boot flash: its blocks in order, each as `blkFill` leaves it. -/
def flashForm (l : List (Nat × List Nat)) : Prop := twf [] l = true ∧ ∀ kv ∈ l, blkFill kv.2 = kv.2

theorem blkFill_blkFill (l : List Nat) : blkFill (blkFill l) = blkFill l := by
  unfold blkFill
  generalize hp : ((l ++ List.replicate 256 255).take 256).map (· % 256) = p
  have hlen : p.length = 256 := by
    rw [← hp, List.length_map, List.length_take, List.length_append, List.length_replicate]; omega
  have hmod : p.map (· % 256) = p := by
    rw [← hp, List.map_map]; exact List.map_congr_left fun x _ => Nat.mod_mod x 256
  dsimp only
  cases h : p.all (· == 255) with
  | true =>
    rw [if_pos rfl, List.nil_append, List.take_replicate, List.map_replicate, List.all_replicate]
    decide
  | false =>
    have ht : (p ++ List.replicate 256 255).take 256 = p := by rw [← hlen, List.take_left]
    rw [if_neg Bool.false_ne_true, ht, hmod, h, if_neg Bool.false_ne_true]

theorem flashForm.set {l : List (Nat × List Nat)} (h : flashForm l) (b : Nat) (v : List Nat) :
    flashForm (tset [] l b (blkFill v)) := by
  refine ⟨twf_tset [] l b _ h.1, fun kv hkv => ?_⟩
  rcases mem_tset [] l b _ kv hkv with rfl | hkv
  · exact blkFill_blkFill v
  · exact h.2 kv hkv

theorem flashForm.erase {l : List (Nat × List Nat)} (h : flashForm l) (lo hi : Nat) : flashForm (blkErase l lo hi) :=
  ⟨twf_tdrop [] l _ h.1, fun kv hkv => h.2 kv (List.mem_filter.mp hkv).1⟩

theorem flashForm.write {l : List (Nat × List Nat)} (h : flashForm l) (n b : Nat) (d : List Nat) :
    flashForm (blkWrite n l b d) := by
  induction n generalizing l b d with
  | zero => exact h
  | succ n ih =>
    unfold blkWrite
    split
    · exact h
    · exact ih (h.set b d) (b + 1) (d.drop 256)

theorem flashForm.fold {l : List (Nat × List Nat)} (h : flashForm l) (b : Nat) (dl : List (Nat × List Nat)) :
    flashForm (dl.foldl (fun a kv => tset [] a (b + kv.1) (blkFill kv.2)) l) := by
  induction dl generalizing l with
  | nil => exact h
  | cons kv r ih => exact ih (h.set (b + kv.1) kv.2)

/-! ### Who writes what -/

/-- The commands that write the boot flash. -/
def writesFlash : Instr → Prop
  | .armatureStageWrite .. | .firmwareCommit .. => True
  | _ => False

/-- The commands that write the headers of the boot flash. -/
def writesHeaders : Instr → Prop
  | .firmwareActivationDrained | .firmwareCommit .. => True
  | _ => False

/-- The commands that write the fuses. -/
def writesFuses : Instr → Prop
  | .startUpRelease | .fuseLoad .. => True
  | _ => False

/-- What a command keeps from `g` to `h`, where `flash`, `headers` and `fuses` say what it may write. -/
structure StoreKept (flash headers fuses : Prop) (g h : Guarded) : Prop where
  fresh : g.fresh → h.fresh
  canonical : flashForm g.flash → flashForm h.flash
  flashStands : h.flash = g.flash ∨ flash
  headersStand : (h.hdr0 = g.hdr0 ∧ h.hdr1 = g.hdr1) ∨ headers
  fusesStand : h.fuses = g.fuses ∨ fuses
  armFloor : g.fuses.armEpoch ≤ h.fuses.armEpoch
  fwFloor : g.fuses.fwFloor ≤ h.fuses.fwFloor

section
variable {F H U : Prop}

theorem KeysKept.stored {g h : Guarded} (k : KeysKept g h) : StoreKept F H U g h := by
  obtain ⟨hf, hs⟩ := k
  obtain ⟨h1, h2, h3, h4⟩ : h.flash = g.flash ∧ h.hdr0 = g.hdr0 ∧ h.hdr1 = g.hdr1 ∧ h.fuses = g.fuses := by
    simpa using hs
  exact ⟨hf, fun c => h1 ▸ c, .inl h1, .inl ⟨h2, h3⟩, .inl h4, by rw [h4], by rw [h4]⟩

theorem StoreKept.trans {g h k : Guarded} (a : StoreKept F H U g h) (b : StoreKept F H U h k) : StoreKept F H U g k where
  fresh := b.fresh ∘ a.fresh
  canonical := b.canonical ∘ a.canonical
  flashStands := b.flashStands.elim (fun e => e ▸ a.flashStands) .inr
  headersStand := b.headersStand.elim (fun e => by rw [e.1, e.2]; exact a.headersStand) .inr
  fusesStand := b.fusesStand.elim (fun e => e ▸ a.fusesStand) .inr
  armFloor := a.armFloor.trans b.armFloor
  fwFloor := a.fwFloor.trans b.fwFloor

/-- A state reached with the keys and the store as they were. -/
theorem StoreKept.same {s t : State} (h : guarded t = guarded s) : StoreKept F H U (guarded s) (guarded t) := by
  rw [h]; exact (KeysKept.refl _).stored

/-- A write of the flash alone that leaves it in canonical form. -/
theorem StoreKept.flash (g : Guarded) {l : List (Nat × List Nat)} (h : flashForm g.flash → flashForm l) :
    StoreKept True H U g { g with flash := l } := ⟨id, h, .inr trivial, .inl ⟨rfl, rfl⟩, .inl rfl, le_rfl, le_rfl⟩

/-- A write of the headers alone. -/
theorem StoreKept.headers (g : Guarded) (a b : BootHdr) : StoreKept F True U g { g with hdr0 := a, hdr1 := b } :=
  ⟨id, id, .inl rfl, .inr trivial, .inl rfl, le_rfl, le_rfl⟩

/-- A rise of the fuses alone. -/
theorem StoreKept.fuses (g : Guarded) {f : Fuses} (ha : g.fuses.armEpoch ≤ f.armEpoch) (hf : g.fuses.fwFloor ≤ f.fwFloor) :
    StoreKept F H True g { g with fuses := f } := ⟨id, id, .inl rfl, .inl ⟨rfl, rfl⟩, .inr trivial, ha, hf⟩

variable {s : State} {c cid : Nat} {body : State → State} (hb : ∀ t, StoreKept F H U (guarded t) (guarded (body t)))
include hb

theorem StoreKept.adminPf0 : OutAll (fun t => StoreKept F H U (guarded s) (guarded t)) (adminPf0 s c cid body) := by
  show StoreKept F H U (guarded s) (guarded (if adminServed s c then _ else s))
  split
  · dsimp only
    split
    · simpa using hb (adminFetch s c)
    · exact .same (by simp)
  · exact .same rfl

theorem StoreKept.ctlData (n : Nat) (t : State) : StoreKept F H U (guarded t) (guarded (ctlData c cid n body t)) := by
  unfold Machine.ctlData
  dsimp only
  split
  · simpa using hb (ctlServed t c n)
  · simpa using hb (ctlAsk t c n).1

theorem StoreKept.afterSan (t : State) : StoreKept F H U (guarded t) (guarded (afterSan c cid body t)) := by
  unfold Machine.afterSan
  split
  · exact .same (by simp)
  · exact hb t

end

/-! ### The five commands that write -/

theorem setActive_stored {U : Prop} (s : State) (k : Nat) :
    StoreKept True True U (guarded s) (guarded { s with boot := setActive s.boot k }) := by
  unfold setActive
  dsimp only
  split
  · exact .headers (guarded s) _ _
  · exact .headers (guarded s) _ _

theorem writeFwSlot_stored {U : Prop} (s : State) (k : Nat) :
    StoreKept True True U (guarded s) (guarded (writeFwSlot s k)) :=
  .flash (guarded s) fun h => (h.erase _ _).fold _ _

theorem stageWrite_stored {H U : Prop} (s : State) (c cid slot offset count : Nat) (data : List Nat) (pf : Bool) :
    StoreKept True H U (guarded s) (guarded (stageWrite s c cid slot offset count data pf)) := by
  have erased (h : flashForm s.boot.flash) : flashForm (if offset == 0 then
      blkErase s.boot.flash (armBase slot / 256) (armBase slot / 256 + 1023) else s.boot.flash) := by
    split
    · exact h.erase _ _
    · exact h
  unfold stageWrite
  dsimp only
  split
  · exact .same (by simp)
  · split
    · exact .same (by simp)
    · split
      · simp only [adone_guarded, devRec_guarded]
        exact .flash (guarded s) erased
      · rw [adone_guarded]
        exact .flash (guarded s) fun h => (erased h).write _ _ _

theorem fwCommit_stored {U : Prop} (s : State) (c cid ca fs : Nat) (rd : Bool) :
    StoreKept True True U (guarded s) (guarded (fwCommit s c cid ca fs rd)) := by
  unfold fwCommit
  dsimp only
  generalize (if fs == 0 then (if s.boot.fwSlot == 1 then 2 else 1) else fs) = k
  split
  · exact .same (by simp)
  · split
    · exact .same (by simp)
    · split
      · exact .same (by simp)
      · split
        · exact .same (by simp)
        · rw [adone_guarded]
          have hw : StoreKept True True U (guarded s) (guarded (if ca == 2 then s else writeFwSlot s k)) := by
            split
            · exact .same rfl
            · exact writeFwSlot_stored s k
          split
          · exact hw
          · exact hw.trans (setActive_stored _ k)

theorem execFirmwareActivationDrained_stored {F U : Prop} (s : State) :
    OutAll (fun t => StoreKept F True U (guarded s) (guarded t)) (execFirmwareActivationDrained s) := by
  unfold execFirmwareActivationDrained setActive
  split
  · exact .same rfl
  · split
    · exact .same rfl
    · dsimp only [OutAll_ok]
      rw [adone_guarded]
      split
      · exact .headers (guarded s) _ _
      · exact .headers (guarded s) _ _

theorem execFuseLoad_stored {F H : Prop} (a b : Fuses) (s : State) :
    OutAll (fun t => StoreKept F H True (guarded s) (guarded t)) (execFuseLoad a b s) := by
  unfold execFuseLoad
  split
  · exact .same rfl
  · split
    · exact .fuses (guarded s) (le_max_left _ _) (le_max_left _ _)
    · exact .same rfl

theorem raiseFloors_stored {F H : Prop} (s : State) : StoreKept F H True (guarded s) (guarded (raiseFloors s)) := by
  refine .fuses (guarded s) ?_ ?_
  · show s.board.fuses.armEpoch ≤ if _ then _ else max s.board.fuses.armEpoch _
    split <;> simp
  · show s.board.fuses.fwFloor ≤ if _ then _ else max s.board.fuses.fwFloor _
    split <;> simp

theorem release_guarded (s : State) : guarded (release s) = guarded (raiseFloors s) := by
  unfold release
  dsimp only
  split <;> simp

theorem execStartUpRelease_stored {F H : Prop} (s : State) :
    OutAll (fun t => StoreKept F H True (guarded s) (guarded t)) (execStartUpRelease s) := by
  unfold execStartUpRelease
  split
  · exact .same rfl
  · rw [OutAll_ok, release_guarded]
    exact raiseFloors_stored s

/-! ### Every command -/

/-- An outcome that keeps what the command `i` is to keep of the keys, the boot flash, its headers and the fuses. -/
def Stored (i : Instr) (s : State) (o : Out) : Prop :=
  OutAll (fun t => StoreKept (writesFlash i) (writesHeaders i) (writesFuses i) (guarded s) (guarded t)) o

theorem Keeps.stored {s : State} {o : Out} (h : Keeps s o) (i : Instr) : Stored i s o := by
  cases o with
  | next t => exact KeysKept.stored h
  | fault | refused => trivial

theorem OutAll.stored {s : State} {o : Out} (h : OutAll (guarded · = guarded s) o) (i : Instr) : Stored i s o :=
  h.keeps.stored i

theorem exec_stored (i : Instr) (s : State) : Stored i s (exec i s) :=
  match i with
  | .deleteIoSq .. => (execDeleteIoSq_guarded ..).stored _
  | .deleteSqDrainComplete .. => (execDeleteSqDrainComplete_guarded ..).stored _
  | .createIoSq .. => (execCreateIoSq_guarded ..).stored _
  | .getLogPage .. => (execGetLogPage_guarded ..).stored _
  | .deleteIoCq .. => (execDeleteIoCq_guarded ..).stored _
  | .createIoCq .. => (execCreateIoCq_guarded ..).stored _
  | .identify .. => (execIdentify_guarded ..).stored _
  | .abort .. => (execAbort_guarded ..).stored _
  | .setFeatures .. => (execSetFeatures_keeps ..).stored _
  | .setFeaturesNumberOfQueues .. => (execSetFeaturesNumberOfQueues_guarded ..).stored _
  | .setFeaturesPowerManagement .. => (execSetFeaturesPowerManagement_keeps ..).stored _
  | .setFeaturesVolatileWriteCache .. => (execSetFeaturesVolatileWriteCache_guarded ..).stored _
  | .setFeaturesAsyncEventConfig .. => (execSetFeaturesAsyncEventConfig_guarded ..).stored _
  | .setFeaturesApst .. => (execSetFeaturesApst_guarded ..).stored _
  | .setFeaturesNoppme .. => (execSetFeaturesNoppme_guarded ..).stored _
  | .setFeaturesUrgentClassSqMapping .. => (execSetFeaturesUrgentClassSqMapping_guarded ..).stored _
  | .setFeaturesThermalGraceTime .. => (execSetFeaturesThermalGraceTime_guarded ..).stored _
  | .setFeaturesHoldupTestSchedule .. => (execSetFeaturesHoldupTestSchedule_guarded ..).stored _
  | .getFeatures .. => (execGetFeatures_guarded ..).stored _
  | .asynchronousEventRequest .. => (execAsynchronousEventRequest_guarded ..).stored _
  | .namespaceManagementCreate .. => (execNamespaceManagementCreate_keeps ..).stored _
  | .namespaceManagementDelete .. => (execNamespaceManagementDelete_keeps ..).stored _
  | .firmwareCommit .. => StoreKept.adminPf0 (.afterSan fun _ => fwCommit_stored ..)
  | .firmwareActivateWithoutReset .. => (execFirmwareActivateWithoutReset_guarded ..).stored _
  | .firmwareActivationDrained => execFirmwareActivationDrained_stored ..
  | .firmwareActivationTimeout => (execFirmwareActivationTimeout_guarded ..).stored _
  | .firmwareImageDownload .. => (execFirmwareImageDownload_guarded ..).stored _
  | .namespaceAttachment .. => (execNamespaceAttachment_guarded ..).stored _
  | .keepAlive .. => (execKeepAlive_guarded ..).stored _
  | .formatNvm .. => (execFormatNvm_keeps ..).stored _
  | .sanitizeExitFailureMode .. => (execSanitizeExitFailureMode_guarded ..).stored _
  | .sanitizeBlockErase .. => (execSanitizeBlockErase_keeps ..).stored _
  | .sanitizeCryptoErase .. => (execSanitizeCryptoErase_keeps ..).stored _
  | .sanitizeComplete .. => (execSanitizeComplete_guarded ..).stored _
  | .unsupportedOpcode .. => (execUnsupportedOpcode_guarded ..).stored _
  | .commissionOpen .. => (execCommissionOpen_guarded ..).stored _
  | .commissionClose .. => (execCommissionClose_guarded ..).stored _
  | .commissionModify .. => (execCommissionModify_guarded ..).stored _
  | .queueThaw .. => (execQueueThaw_guarded ..).stored _
  | .queueThawResume .. => (execQueueThawResume_guarded ..).stored _
  | .keyImport .. => (execKeyImport_keeps ..).stored _
  | .federationControlTakeMarker .. => (execFederationControlTakeMarker_guarded ..).stored _
  | .federationControlSetTime .. => (execFederationControlSetTime_guarded ..).stored _
  | .armatureStageWrite .. => StoreKept.adminPf0 (.ctlData (fun _ => stageWrite_stored ..) _)
  | .armatureStageVerify .. => (execArmatureStageVerify_guarded ..).stored _
  | .armatureStagePatch .. => (execArmatureStagePatch_guarded ..).stored _
  | .armatureStageClearPatches .. => (execArmatureStageClearPatches_guarded ..).stored _
  | .nicheReset c cid n f r => (execNicheReset_guarded c cid n f r s).stored _
  | .flush .. => (execFlush_guarded ..).stored _
  | .write .. => (execWrite_guarded ..).stored _
  | .read .. => (execRead_guarded ..).stored _
  | .writeUncorrectable .. => (execWriteUncorrectable_guarded ..).stored _
  | .compare .. => (execCompare_guarded ..).stored _
  | .writeZeroes .. => (execWriteZeroes_guarded ..).stored _
  | .datasetManagement .. => (execDatasetManagement_guarded ..).stored _
  | .verify .. => (execVerify_guarded ..).stored _
  | .zoneOpen .. => (execZoneOpen_guarded ..).stored _
  | .zoneClose .. => (execZoneClose_guarded ..).stored _
  | .zoneFinish .. => (execZoneFinish_guarded ..).stored _
  | .zoneReset .. => (execZoneReset_guarded ..).stored _
  | .zoneOffline .. => (execZoneOffline_guarded ..).stored _
  | .zoneManagementReceive .. => (execZoneManagementReceive_guarded ..).stored _
  | .zoneAppend .. => (execZoneAppend_guarded ..).stored _
  | .frameAppend .. => (execFrameAppend_guarded ..).stored _
  | .zoneSeal .. => (execZoneSeal_guarded ..).stored _
  | .sqTailDoorbell .. => (execSqTailDoorbell_keeps ..).stored _
  | .cqHeadDoorbell .. => (execCqHeadDoorbell_keeps ..).stored _
  | .controllerEnable .. => (execControllerEnable_keeps ..).stored _
  | .controllerReset .. => (execControllerReset_keeps ..).stored _
  | .shutdownNotification c b => (execShutdownNotification_keeps s c b).stored _
  | .nvmSubsystemReset .. => (execNvmSubsystemReset_keeps ..).stored _
  | .msixVectorUnmask .. => (execMsixVectorUnmask_guarded ..).stored _
  | .perstAssert .. => (execPerstAssert_keeps ..).stored _
  | .bothPerstLow => (execBothPerstLow_keeps ..).stored _
  | .perstRelease .. => (execPerstRelease_guarded ..).stored _
  | .functionLevelReset .. => (execFunctionLevelReset_keeps ..).stored _
  | .linkLoss .. => (execLinkLoss_guarded ..).stored _
  | .linkLossPortReset .. => (execLinkLossPortReset_keeps ..).stored _
  | .linkSpeedWidthChange .. => (execLinkSpeedWidthChange_guarded ..).stored _
  | .pf0MpsWrite .. => (execPf0MpsWrite_keeps ..).stored _
  | .poisonedCompletion .. => (execPoisonedCompletion_guarded ..).stored _
  | .completionTimeout .. => (execCompletionTimeout_guarded ..).stored _
  | .portInternalFault .. => (execPortInternalFault_keeps ..).stored _
  | .ptmRequest .. => (execPtmRequest_guarded ..).stored _
  | .ptmResponse .. => (execPtmResponse_guarded ..).stored _
  | .aspmL1IdleEntry .. => (execAspmL1IdleEntry_guarded ..).stored _
  | .l12ExitWake .. => (execL12ExitWake_keeps ..).stored _
  | .sqFetchCompletion .. => (execSqFetchCompletion_guarded ..).stored _
  | .sqFetchRequest .. => (execSqFetchRequest_guarded ..).stored _
  | .hostDataTlpReceived .. => (execHostDataTlpReceived_guarded ..).stored _
  | .arbiterGrant => (execArbiterGrant_guarded ..).stored _
  | .commandStart .. => (execCommandStart_keeps ..).stored _
  | .cipherSegmentStart => (execCipherSegmentStart_guarded ..).stored _
  | .writeCommitPoint .. => (execWriteCommitPoint_guarded ..).stored _
  | .queueFreezeLogEntry .. => (execQueueFreezeLogEntry_guarded ..).stored _
  | .readDataSentNotice .. => (execReadDataSentNotice_guarded ..).stored _
  | .cqePosting .. => (execCqePosting_guarded ..).stored _
  | .fineMapUpdate => (execFineMapUpdate_guarded ..).stored _
  | .bufferAllocation .. => (execBufferAllocation_guarded ..).stored _
  | .bufferFree .. => (execBufferFree_guarded ..).stored _
  | .parkListRetry .. => (execParkListRetry_guarded ..).stored _
  | .commissionTokenRefill => (execCommissionTokenRefill_guarded ..).stored _
  | .standardLimitTokenRefill => (execStandardLimitTokenRefill_guarded ..).stored _
  | .reEvaluation => (execReEvaluation_guarded ..).stored _
  | .schedulerTick => (execSchedulerTick_guarded ..).stored _
  | .stripeEligible .. => (execStripeEligible_guarded ..).stored _
  | .stripeGrant .. => (execStripeGrant_guarded ..).stored _
  | .eraseResume .. => (execEraseResume_guarded ..).stored _
  | .dieOperationSelect .. => (execDieOperationSelect_guarded ..).stored _
  | .programIssued .. => (execProgramIssued_guarded ..).stored _
  | .statusPoll .. => (execStatusPoll_guarded ..).stored _
  | .operationTimeout .. => (execOperationTimeout_guarded ..).stored _
  | .urgentReadGrant .. => (execUrgentReadGrant_guarded ..).stored _
  | .programResume .. => (execProgramResume_guarded ..).stored _
  | .channelBurstSelect .. => (execChannelBurstSelect_guarded ..).stored _
  | .codewordDecode .. => (execCodewordDecode_guarded ..).stored _
  | .scrubPass => (execScrubPass_guarded ..).stored _
  | .rowAgeTrigger .. => (execRowAgeTrigger_guarded ..).stored _
  | .recastDeadlineMissed .. => (execRecastDeadlineMissed_guarded ..).stored _
  | .recastCopyStripe .. => (execRecastCopyStripe_guarded ..).stored _
  | .recastCommit .. => (execRecastCommit_guarded ..).stored _
  | .frameIndexPersist .. => (execFrameIndexPersist_guarded ..).stored _
  | .gcVictimCollect .. => (execGcVictimCollect_guarded ..).stored _
  | .gcVictimFree .. => (execGcVictimFree_guarded ..).stored _
  | .gcBackgroundStart .. => (execGcBackgroundStart_guarded ..).stored _
  | .channelEnumeration .. => (execChannelEnumeration_guarded ..).stored _
  | .zqCalibrationShort .. => (execZqCalibrationShort_guarded ..).stored _
  | .eyeTracking .. => (execEyeTracking_guarded ..).stored _
  | .channelGap .. => (execChannelGap_guarded ..).stored _
  | .makeGap .. => (execMakeGap_guarded ..).stored _
  | .quickRetrainVerify .. => (execQuickRetrainVerify_guarded ..).stored _
  | .channelDomainOff .. => (execChannelDomainOff_guarded ..).stored _
  | .pfailInAssert => (execPfailInAssert_keeps ..).stored _
  | .pfailInDeassert => (execPfailInDeassert_guarded ..).stored _
  | .adcFastModeReading .. => (execAdcFastModeReading_guarded ..).stored _
  | .braceTimerExpiry => (execBraceTimerExpiry_guarded ..).stored _
  | .bandUnitWrite .. => (execBandUnitWrite_guarded ..).stored _
  | .flushHalt => (execFlushHalt_keeps ..).stored _
  | .flushHaltColdStart => (execFlushHaltColdStart_keeps ..).stored _
  | .healthTestStart => (execHealthTestStart_guarded ..).stored _
  | .healthTestSample .. => (execHealthTestSample_guarded ..).stored _
  | .healthTestTimeout => (execHealthTestTimeout_guarded ..).stored _
  | .holdupChargeTimeout => (execHoldupChargeTimeout_guarded ..).stored _
  | .checkpoint .. => (execCheckpoint_guarded ..).stored _
  | .journalPageProgram => (execJournalPageProgram_guarded ..).stored _
  | .adcScanConversion .. => (execAdcScanConversion_keeps ..).stored _
  | .graceTimerExpiry => (execGraceTimerExpiry_guarded ..).stored _
  | .thermalCoolTimer => (execThermalCoolTimer_guarded ..).stored _
  | .thermalHalt => (execThermalHalt_keeps ..).stored _
  | .thermalHaltRestart => (execThermalHaltRestart_keeps ..).stored _
  | .trip .. => (execTrip_keeps ..).stored _
  | .federationFrameReceived .. => (execFederationFrameReceived_guarded ..).stored _
  | .federationWindowMiss .. => (execFederationWindowMiss_guarded ..).stored _
  | .federationFrameOriginate => (execFederationFrameOriginate_guarded ..).stored _
  | .clockMonitorTrip .. => (execClockMonitorTrip_keeps ..).stored _
  | .pllLossOfLock .. => (execPllLossOfLock_keeps ..).stored _
  | .rcoFaultJudged .. => (execRcoFaultJudged_guarded ..).stored _
  | .rcoRetry => (execRcoRetry_guarded ..).stored _
  | .orderlyFlushComplete => (execOrderlyFlushComplete_guarded ..).stored _
  | .crossingRearm .. => (execCrossingRearm_guarded ..).stored _
  | .frequencyMeasurementDone .. => (execFrequencyMeasurementDone_guarded ..).stored _
  | .apstIdleTimer => (execApstIdleTimer_keeps ..).stored _
  | .ps3Entry => (execPs3Entry_keeps ..).stored _
  | .ps4Entry => (execPs4Entry_keeps ..).stored _
  | .ps4L12Reached => (execPs4L12Reached_guarded ..).stored _
  | .ps4L12Timeout => (execPs4L12Timeout_keeps ..).stored _
  | .noppmeWindow => (execNoppmeWindow_keeps ..).stored _
  | .powerEstimate .. => (execPowerEstimate_guarded ..).stored _
  | .pgAonRise => (execPgAonRise_guarded ..).stored _
  | .railEnable => (execRailEnable_guarded ..).stored _
  | .pgAssert .. => (execPgAssert_guarded ..).stored _
  | .pgTimeout => (execPgTimeout_keeps ..).stored _
  | .pgFall .. => (execPgFall_keeps ..).stored _
  | .railFaultRetry => (execRailFaultRetry_keeps ..).stored _
  | .rcoStable .. => (execRcoStable_keeps ..).stored _
  | .rcoStableTimeout => (execRcoStableTimeout_keeps ..).stored _
  | .fuseLoad .. => execFuseLoad_stored ..
  | .xoStable => (execXoStable_guarded ..).stored _
  | .xoStableTimeout => (execXoStableTimeout_keeps ..).stored _
  | .pllLock .. => (execPllLock_guarded ..).stored _
  | .pllLockTimeout .. => (execPllLockTimeout_guarded ..).stored _
  | .islandsOutOfReset .. => (execIslandsOutOfReset_guarded ..).stored _
  | .firmwareAndStructureChoice .. => (execFirmwareAndStructureChoice_keeps ..).stored _
  | .plinthMount .. => (execPlinthMount_keeps ..).stored _
  | .startUpRelease => execStartUpRelease_stored ..
  | .startUpWatchdogExpiry => (execStartUpWatchdogExpiry_keeps ..).stored _
  | .serviceWatchdogExpiry => (execServiceWatchdogExpiry_keeps ..).stored _
  | .resetFlushEnd => (execResetFlushEnd_keeps ..).stored _
  | .armatureMirrorWrite => (execArmatureMirrorWrite_guarded ..).stored _
  | .patinaRequest .. => (execPatinaRequest_guarded ..).stored _
  | .patinaPersist => (execPatinaPersist_guarded ..).stored _
  | .drbgReseed => (execDrbgReseed_guarded ..).stored _
  | .maskGeneratorReseed .. => (execMaskGeneratorReseed_keeps ..).stored _
  | .trngHealthTestFailure .. => (execTrngHealthTestFailure_guarded ..).stored _
  | .transportKeyReady => (execTransportKeyReady_guarded ..).stored _
  | .smbusBasicManagementCommand .. => (execSmbusBasicManagementCommand_guarded ..).stored _
  | .readNvmeMiDataStructure .. => (execReadNvmeMiDataStructure_guarded ..).stored _
  | .nvmSubsystemHealthStatusPoll .. => (execNvmSubsystemHealthStatusPoll_guarded ..).stored _
  | .controllerHealthStatusPoll .. => (execControllerHealthStatusPoll_guarded ..).stored _
  | .configurationGet .. => (execConfigurationGet_guarded ..).stored _
  | .configurationSet .. => (execConfigurationSet_guarded ..).stored _
  | .vpdRead .. => (execVpdRead_guarded ..).stored _
  | .tunnelledAdminCommand .. => (execTunnelledAdminCommand_guarded ..).stored _
  | .schCtrlClr .. => (execSchCtrlClr_keeps ..).stored _
  | .chnCtrlClr .. => (execChnCtrlClr_keeps ..).stored _
  | .poolCtrlClr .. => (execPoolCtrlClr_keeps ..).stored _
  | .xcrCtrlClr .. => (execXcrCtrlClr_keeps ..).stored _
  | .xcrTkselWrite .. => (execXcrTkselWrite_keeps ..).stored _
  | .hldTestRun .. => (execHldTestRun_keeps ..).stored _
  | .hldCtrlClr .. => (execHldCtrlClr_keeps ..).stored _
  | .fedCtrlClr .. => (execFedCtrlClr_keeps ..).stored _
  | .fedTimeLoRead .. => (execFedTimeLoRead_keeps ..).stored _
  | .clkFmcStart .. => (execClkFmcStart_keeps ..).stored _
  | .clkFaultClear .. => (execClkFaultClear_keeps ..).stored _
  | .pmCtrlClr .. => (execPmCtrlClr_keeps ..).stored _
  | .pmOverbudgetClear .. => (execPmOverbudgetClear_keeps ..).stored _
  | .thmCtrlClr .. => (execThmCtrlClr_keeps ..).stored _
  | .thmHaltClear .. => (execThmHaltClear_keeps ..).stored _
  | .patCtrlClr .. => (execPatCtrlClr_keeps ..).stored _
  | .glbCtrlClrAcc .. => (execGlbCtrlClrAcc_keeps ..).stored _
  | .glbIstatClear .. => (execGlbIstatClear_keeps ..).stored _
  | .glbAlertClear .. => (execGlbAlertClear_keeps ..).stored _
  | .nchIstatClear .. => (execNchIstatClear_keeps ..).stored _
  | .bar2RegisterWrite .. => (execBar2RegisterWrite_keeps ..).stored _
  | .bar2ReadRefused .. => (execBar2ReadRefused_keeps ..).stored _
  | .pgAonFall => (execPgAonFall_keeps ..).stored _
  | .lpoStable => (execLpoStable_guarded ..).stored _
  | .fullTrainingEnd .. => (execFullTrainingEnd_guarded ..).stored _
  | .sourceStartUpTestPass => (execSourceStartUpTestPass_guarded ..).stored _
  | .vfEnable .. => (execVfEnable_keeps ..).stored _
  | .aggregationTimeExpiry .. => (execAggregationTimeExpiry_guarded ..).stored _
  | .linkPartnerL1Request .. => (execLinkPartnerL1Request_guarded ..).stored _

end Sys2Proof.Machine
end
section
/-! PROOFS. What every step keeps: the keys, the boot flash and the fuses. -/

namespace Sys2Proof.Machine

/-- Settles O58: no key number comes back and the boot flash keeps its form, by what every command keeps of them. -/
theorem keysStayFresh : Obligations.KeysStayFresh := by
  intro s t hfresh hflash hstep
  unfold step at hstep
  split at hstep
  · obtain rfl : idle s = t := by injection hstep
    have e : guarded (idle s) = guarded s := tickUs_guarded s
    unfold KeysFresh
    rw [e]
    exact ⟨hfresh, show flashForm (guarded (idle s)).flash by rw [e]; exact hflash⟩
  · rename_i i rest _
    have h := exec_stored i { s with pending := rest }
    rw [hstep] at h
    exact ⟨h.fresh hfresh, h.canonical hflash⟩

theorem writesFlash_iff (i : Instr) : writesFlash i ↔ (∃ c cid slot o n d f, i = .armatureStageWrite c cid slot o n d f) ∨
    ∃ c cid ca fs rd, i = .firmwareCommit c cid ca fs rd := by
  constructor
  · intro h
    unfold writesFlash at h
    split at h
    · exact .inl ⟨_, _, _, _, _, _, _, rfl⟩
    · exact .inr ⟨_, _, _, _, _, rfl⟩
    · exact h.elim
  · rintro (⟨_, _, _, _, _, _, _, rfl⟩ | ⟨_, _, _, _, _, rfl⟩) <;> trivial

theorem writesHeaders_iff (i : Instr) : writesHeaders i ↔ i = .firmwareActivationDrained ∨
    ∃ c cid ca fs rd, i = .firmwareCommit c cid ca fs rd := by
  constructor
  · intro h
    unfold writesHeaders at h
    split at h
    · exact .inl rfl
    · exact .inr ⟨_, _, _, _, _, rfl⟩
    · exact h.elim
  · rintro (rfl | ⟨_, _, _, _, _, rfl⟩) <;> trivial

theorem writesFuses_iff (i : Instr) : writesFuses i ↔ i = .startUpRelease ∨ ∃ f g, i = .fuseLoad f g := by
  constructor
  · intro h
    unfold writesFuses at h
    split at h
    · exact .inl rfl
    · exact .inr ⟨_, _, rfl⟩
    · exact h.elim
  · rintro (rfl | ⟨_, _, rfl⟩) <;> trivial

/-- Settles O59: every command keeps the boot flash, its headers and the fuses but those named, and the fuses only rise. -/
theorem storedImagesChangeOnlyByTheirCommands : Obligations.StoredImagesChangeOnlyByTheirCommands := by
  intro i s t hexec
  have h := exec_stored i s
  rw [hexec] at h
  obtain ⟨-, -, hflash, hheaders, hfuses, harm, hfw⟩ := h
  refine ⟨fun hne => (writesFlash_iff i).mp (hflash.resolve_left hne),
    fun hne => (writesHeaders_iff i).mp (hheaders.resolve_left fun e => ?_),
    fun hne => (writesFuses_iff i).mp (hfuses.resolve_left hne), harm, hfw⟩
  rcases hne with hne | hne
  · exact hne e.1
  · exact hne e.2

end Sys2Proof.Machine
end
section
/-! PROOFS. What every step does: it has a next state, and it runs the command at the front of the queue. -/

namespace Sys2Proof.Machine

/-- An outcome that is a next state. -/
def Goes (o : Out) : Prop := ∃ t, o = .next t

theorem Goes.ok (t : State) : Goes (ok t) := ⟨t, rfl⟩

theorem Goes.ite {p : Prop} [Decidable p] {a b : Out} (ha : Goes a) (hb : Goes b) : Goes (if p then a else b) := by
  split <;> assumption

/-! ### Commands whose branches follow a table, a die or a queue entry -/

section
variable (s : State)

theorem execDeleteSqDrainComplete_goes (c qid : Nat) : Goes (execDeleteSqDrainComplete c qid s) := by
  unfold execDeleteSqDrainComplete; dsimp only; (repeat' split) <;> exact .ok _

theorem execFirmwareActivationDrained_goes : Goes (execFirmwareActivationDrained s) := by
  unfold execFirmwareActivationDrained; dsimp only; (repeat' split) <;> exact .ok _

theorem execFirmwareActivationTimeout_goes : Goes (execFirmwareActivationTimeout s) := by
  unfold execFirmwareActivationTimeout; dsimp only; (repeat' split) <;> exact .ok _

theorem execUnsupportedOpcode_goes (c q cid opcode nsid cdw10 cdw13 : Nat) : Goes (execUnsupportedOpcode c q cid opcode nsid cdw10 cdw13 s) := by
  unfold execUnsupportedOpcode; (repeat' split) <;> exact .ok _

theorem execQueueThawResume_goes (c sqid : Nat) : Goes (execQueueThawResume c sqid s) := by
  unfold execQueueThawResume; dsimp only; (repeat' split) <;> exact .ok _

theorem execCompletionTimeout_goes (what : TimeoutOf) : Goes (execCompletionTimeout what s) := by
  unfold execCompletionTimeout; dsimp only; (repeat' split) <;> exact .ok _

theorem execHostDataTlpReceived_goes (id : Nat) (data : List Nat) : Goes (execHostDataTlpReceived id data s) := by
  unfold execHostDataTlpReceived; dsimp only; (repeat' split) <;> exact .ok _

theorem execCipherSegmentStart_goes : Goes (execCipherSegmentStart s) := by
  unfold execCipherSegmentStart; dsimp only; (repeat' split) <;> exact .ok _

theorem execQueueFreezeLogEntry_goes (c q : Nat) : Goes (execQueueFreezeLogEntry c q s) := by
  unfold execQueueFreezeLogEntry; dsimp only; (repeat' split) <;> exact .ok _

theorem execCqePosting_goes (c q : Nat) : Goes (execCqePosting c q s) := by
  unfold execCqePosting; dsimp only; (repeat' split) <;> exact .ok _

theorem execFineMapUpdate_goes : Goes (execFineMapUpdate s) := by
  unfold execFineMapUpdate; (repeat' split) <;> exact .ok _

theorem execStripeGrant_goes (rank : Nat) : Goes (execStripeGrant rank s) := by
  unfold execStripeGrant; dsimp only; (repeat' split) <;> exact .ok _

theorem execProgramIssued_goes (ch rank : Nat) (ok_ : Bool) : Goes (execProgramIssued ch rank ok_ s) := by
  unfold execProgramIssued; dsimp only; (repeat' split) <;> exact .ok _

theorem execStatusPoll_goes (ch rank : Nat) (r : Poll) : Goes (execStatusPoll ch rank r s) := by
  unfold execStatusPoll; dsimp only; (repeat' split) <;> exact .ok _

theorem execOperationTimeout_goes (ch rank : Nat) : Goes (execOperationTimeout ch rank s) := by
  unfold execOperationTimeout; dsimp only; (repeat' split) <;> exact .ok _

theorem execChannelBurstSelect_goes (ch : Nat) : Goes (execChannelBurstSelect ch s) := by
  unfold execChannelBurstSelect; dsimp only; (repeat' split) <;> exact .ok _

theorem execCodewordDecode_goes (rd : Nat) (q : Decoded) : Goes (execCodewordDecode rd q s) := by
  unfold execCodewordDecode; dsimp only; (repeat' split) <;> exact .ok _

theorem execRecastCopyStripe_goes (rank row : Nat) (ends : List LadderEnd) : Goes (execRecastCopyStripe rank row ends s) := by
  unfold execRecastCopyStripe; dsimp only; (repeat' split) <;> exact .ok _

theorem execRecastCommit_goes (rank row : Nat) : Goes (execRecastCommit rank row s) := by
  unfold execRecastCommit; dsimp only; (repeat' split) <;> exact .ok _

theorem execGcVictimCollect_goes (slot : Nat) : Goes (execGcVictimCollect slot s) := by
  unfold execGcVictimCollect; dsimp only; (repeat' split) <;> exact .ok _

theorem execGcVictimFree_goes (slot : Nat) : Goes (execGcVictimFree slot s) := by
  unfold execGcVictimFree; dsimp only; (repeat' split) <;> exact .ok _

theorem execChannelEnumeration_goes (ch : Nat) (pages : List DiePage) (eyes : List (Nat × Nat)) : Goes (execChannelEnumeration ch pages eyes s) := by
  unfold execChannelEnumeration; dsimp only; (repeat' split) <;> exact .ok _

theorem execQuickRetrainVerify_goes (ch rd wr : Nat) : Goes (execQuickRetrainVerify ch rd wr s) := by
  unfold execQuickRetrainVerify; dsimp only; (repeat' split) <;> exact .ok _

theorem execBandUnitWrite_goes (ch rank : Nat) (fail : Bool) : Goes (execBandUnitWrite ch rank fail s) := by
  unfold execBandUnitWrite; dsimp only; (repeat' split) <;> exact .ok _

theorem execHealthTestSample_goes (mv : Nat) : Goes (execHealthTestSample mv s) := by
  unfold execHealthTestSample; dsimp only; (repeat' split) <;> exact .ok _

theorem execPllLossOfLock_goes (pll : Pll) : Goes (execPllLossOfLock pll s) := by
  unfold execPllLossOfLock; dsimp only; (repeat' split) <;> exact .ok _

theorem execApstIdleTimer_goes : Goes (execApstIdleTimer s) := by
  unfold execApstIdleTimer; dsimp only; (repeat' split) <;> exact .ok _

theorem execPgFall_goes (r : Rail) : Goes (execPgFall r s) := by
  unfold execPgFall; dsimp only; (repeat' split) <;> exact .ok _

theorem execRcoStable_goes (straps : Straps) : Goes (execRcoStable straps s) := by
  unfold execRcoStable; dsimp only; (repeat' split) <;> exact .ok _

theorem execRcoStableTimeout_goes : Goes (execRcoStableTimeout s) := by
  unfold execRcoStableTimeout; dsimp only; (repeat' split) <;> exact .ok _

theorem execPllLock_goes (pll : Pll) : Goes (execPllLock pll s) := by
  unfold execPllLock; dsimp only; (repeat' split) <;> exact .ok _

theorem execPllLockTimeout_goes (pll : Pll) : Goes (execPllLockTimeout pll s) := by
  unfold execPllLockTimeout; dsimp only; (repeat' split) <;> exact .ok _

theorem execFullTrainingEnd_goes (ch rd wr : Nat) : Goes (execFullTrainingEnd ch rd wr s) := by
  unfold execFullTrainingEnd; dsimp only; (repeat' split) <;> exact .ok _

end

/-! ### Every command -/

theorem exec_goes (i : Instr) (s : State) : Goes (exec i s) :=
  match i with
  | .deleteIoSq .. | .createIoSq .. | .getLogPage .. | .deleteIoCq .. | .createIoCq .. | .identify .. | .abort .. |
    .setFeatures .. | .setFeaturesNumberOfQueues .. | .setFeaturesPowerManagement .. | .setFeaturesVolatileWriteCache ..
    | .setFeaturesAsyncEventConfig .. | .setFeaturesApst .. | .setFeaturesNoppme .. | .setFeaturesUrgentClassSqMapping
    .. | .setFeaturesThermalGraceTime .. | .setFeaturesHoldupTestSchedule .. | .getFeatures .. |
    .asynchronousEventRequest .. | .namespaceManagementDelete .. | .firmwareCommit .. | .firmwareActivateWithoutReset ..
    | .firmwareImageDownload .. | .namespaceAttachment .. | .keepAlive .. | .sanitizeExitFailureMode .. |
    .sanitizeBlockErase .. | .commissionOpen .. | .commissionClose .. | .commissionModify .. | .queueThaw .. |
    .keyImport .. | .federationControlTakeMarker .. | .federationControlSetTime .. | .armatureStageWrite .. |
    .armatureStageVerify .. | .armatureStagePatch .. | .armatureStageClearPatches .. | .nicheReset .. | .flush .. |
    .write .. | .read .. | .writeUncorrectable .. | .compare .. | .writeZeroes .. | .datasetManagement .. | .verify .. |
    .zoneOpen .. | .zoneClose .. | .zoneFinish .. | .zoneReset .. | .zoneOffline .. | .zoneManagementReceive .. |
    .zoneAppend .. | .frameAppend .. | .zoneSeal .. | .msixVectorUnmask .. | .arbiterGrant | .commandStart .. |
    .bufferAllocation .. | .bufferFree .. | .parkListRetry .. | .commissionTokenRefill | .standardLimitTokenRefill |
    .schedulerTick | .dieOperationSelect .. | .scrubPass | .patinaPersist | .trngHealthTestFailure .. | .schCtrlClr .. |
    .poolCtrlClr .. | .xcrCtrlClr .. | .xcrTkselWrite .. | .hldTestRun .. | .hldCtrlClr .. | .fedCtrlClr .. |
    .fedTimeLoRead .. | .clkFmcStart .. | .clkFaultClear .. | .pmCtrlClr .. | .pmOverbudgetClear .. | .thmCtrlClr .. |
    .thmHaltClear .. | .patCtrlClr .. | .glbCtrlClrAcc .. | .glbIstatClear .. | .glbAlertClear .. | .bar2RegisterWrite
    .. | .bar2ReadRefused .. | .sourceStartUpTestPass =>
    .ok _
  | .deleteSqDrainComplete .. => execDeleteSqDrainComplete_goes ..
  | .namespaceManagementCreate .. | .formatNvm .. | .sanitizeCryptoErase .. | .sanitizeComplete .. | .controllerReset
    .. | .nvmSubsystemReset .. | .bothPerstLow | .perstRelease .. | .functionLevelReset .. | .linkLoss .. |
    .linkLossPortReset .. | .linkSpeedWidthChange .. | .poisonedCompletion .. | .portInternalFault .. | .ptmRequest .. |
    .ptmResponse .. | .aspmL1IdleEntry .. | .l12ExitWake .. | .sqFetchRequest .. | .writeCommitPoint .. |
    .readDataSentNotice .. | .reEvaluation | .stripeEligible .. | .eraseResume .. | .urgentReadGrant .. | .rowAgeTrigger
    .. | .recastDeadlineMissed .. | .frameIndexPersist .. | .gcBackgroundStart .. | .zqCalibrationShort .. | .makeGap ..
    | .channelDomainOff .. | .pfailInAssert | .pfailInDeassert | .flushHaltColdStart | .healthTestStart |
    .healthTestTimeout | .holdupChargeTimeout | .checkpoint .. | .journalPageProgram | .adcScanConversion .. |
    .graceTimerExpiry | .thermalHalt | .thermalHaltRestart | .trip .. | .federationFrameReceived .. |
    .federationWindowMiss .. | .rcoFaultJudged .. | .rcoRetry | .orderlyFlushComplete | .crossingRearm .. | .ps3Entry |
    .ps4Entry | .ps4L12Reached | .ps4L12Timeout | .pgAonRise | .railEnable | .railFaultRetry | .xoStable |
    .islandsOutOfReset .. | .startUpRelease | .startUpWatchdogExpiry | .serviceWatchdogExpiry | .resetFlushEnd |
    .armatureMirrorWrite | .patinaRequest .. | .maskGeneratorReseed .. | .transportKeyReady |
    .smbusBasicManagementCommand .. | .readNvmeMiDataStructure .. | .nvmSubsystemHealthStatusPoll .. |
    .controllerHealthStatusPoll .. | .configurationGet .. | .configurationSet .. | .vpdRead .. | .tunnelledAdminCommand
    .. | .chnCtrlClr .. | .nchIstatClear .. | .pgAonFall | .lpoStable | .aggregationTimeExpiry .. |
    .linkPartnerL1Request .. =>
    .ite (.ok _) (.ok _)
  | .firmwareActivationDrained => execFirmwareActivationDrained_goes ..
  | .firmwareActivationTimeout => execFirmwareActivationTimeout_goes ..
  | .unsupportedOpcode .. => execUnsupportedOpcode_goes ..
  | .queueThawResume .. => execQueueThawResume_goes ..
  | .sqTailDoorbell .. | .cqHeadDoorbell .. | .controllerEnable .. | .shutdownNotification .. | .perstAssert .. |
    .pf0MpsWrite .. | .sqFetchCompletion .. | .programResume .. | .eyeTracking .. | .braceTimerExpiry | .flushHalt |
    .federationFrameOriginate | .clockMonitorTrip .. | .frequencyMeasurementDone .. | .powerEstimate .. | .pgAssert .. |
    .pgTimeout | .fuseLoad .. | .xoStableTimeout | .firmwareAndStructureChoice .. | .vfEnable .. =>
    .ite (.ok _) (.ite (.ok _) (.ok _))
  | .completionTimeout .. => execCompletionTimeout_goes ..
  | .hostDataTlpReceived .. => execHostDataTlpReceived_goes ..
  | .cipherSegmentStart => execCipherSegmentStart_goes ..
  | .queueFreezeLogEntry .. => execQueueFreezeLogEntry_goes ..
  | .cqePosting .. => execCqePosting_goes ..
  | .fineMapUpdate => execFineMapUpdate_goes ..
  | .stripeGrant .. => execStripeGrant_goes ..
  | .programIssued .. => execProgramIssued_goes ..
  | .statusPoll .. => execStatusPoll_goes ..
  | .operationTimeout .. => execOperationTimeout_goes ..
  | .channelBurstSelect .. => execChannelBurstSelect_goes ..
  | .codewordDecode .. => execCodewordDecode_goes ..
  | .recastCopyStripe .. => execRecastCopyStripe_goes ..
  | .recastCommit .. => execRecastCommit_goes ..
  | .gcVictimCollect .. => execGcVictimCollect_goes ..
  | .gcVictimFree .. => execGcVictimFree_goes ..
  | .channelEnumeration .. => execChannelEnumeration_goes ..
  | .channelGap .. | .thermalCoolTimer | .drbgReseed => .ite (.ok _) (.ite (.ok _) (.ite (.ok _) (.ok _)))
  | .quickRetrainVerify .. => execQuickRetrainVerify_goes ..
  | .adcFastModeReading .. => .ite (.ok _) (.ite (.ite (.ok _) (.ok _)) (.ok _))
  | .bandUnitWrite .. => execBandUnitWrite_goes ..
  | .healthTestSample .. => execHealthTestSample_goes ..
  | .pllLossOfLock .. => execPllLossOfLock_goes ..
  | .apstIdleTimer => execApstIdleTimer_goes ..
  | .noppmeWindow => .ite (.ok _) (.ite (.ite (.ok _) (.ok _)) (.ite (.ok _) (.ok _)))
  | .pgFall .. => execPgFall_goes ..
  | .rcoStable .. => execRcoStable_goes ..
  | .rcoStableTimeout => execRcoStableTimeout_goes ..
  | .pllLock .. => execPllLock_goes ..
  | .pllLockTimeout .. => execPllLockTimeout_goes ..
  | .plinthMount .. => .ite (.ok _) (.ite (.ok _) (.ite (.ok _) (.ite (.ok _) (.ite (.ok _) (.ok _)))))
  | .fullTrainingEnd .. => execFullTrainingEnd_goes ..

/-- Settles O57: each command's branches all end in a next state. -/
theorem everyCommandHasANextState : Obligations.EveryCommandHasANextState := exec_goes

/-! ### The step itself -/

theorem endShutdowns_none {s : State} (h : ∀ kv ∈ s.ctrls, kv.2.shst ≠ 1) : endShutdowns s = s := by
  have e : tkeys s.ctrls (fun _ v => v.shst == 1) = [] := by
    rw [tkeys, List.filter_eq_nil_iff.mpr fun kv hkv => by simpa using h kv hkv, List.map_nil]
  rw [endShutdowns, e, List.foldl_nil]

theorem step_idle {s : State} (h : s.pending = []) : step s = .next (tickUs s) := by rw [step, h, idle]

/-- Settles O56: `step` takes the front of the queue, and the microsecond of an empty one leaves keys and store alone. -/
theorem stepRunsTheFrontCommand : Obligations.StepRunsTheFrontCommand := by
  refine ⟨fun s i rest h => by rw [step, h], fun s h => ⟨fun hsh => ?_, _, step_idle h, tickUs_guarded s⟩⟩
  rw [step_idle h, tickUs, endShutdowns_none (s := countUs s) hsh]
  simp [countUs, fedTick]

/-- Settles O60: the blank machine holds no key and no flash block, and no command waits. -/
theorem resetMeetsTheInvariants : Obligations.ResetMeetsTheInvariants := by
  refine ⟨⟨freshBelow_nil _, freshBelow_nil _, freshBelow_nil _⟩, ⟨rfl, ?_⟩, rfl, rfl, rfl, rfl⟩
  intro kv hkv
  cases hkv

end Sys2Proof.Machine
end
section
/-! SUPPORT. Bits of a register, tables written entry by entry, and the host's accesses that reach their register. -/

namespace Sys2Proof.Machine

/-! ### Bits -/

theorem bitOf_eq_testBit (n i : Nat) : bitOf n i = n.testBit i := by
  rw [bitOf, Nat.testBit_eq_decide_div_mod_eq]; rfl

/-- Bit `i` of a number, with the bits above it and those below. -/
theorem bits_at (n i : Nat) : n = 2 ^ i * (2 * (n / 2 ^ i / 2) + n / 2 ^ i % 2) + n % 2 ^ i := by
  rw [Nat.div_add_mod, Nat.div_add_mod]

theorem testBit_of_parts (a b i j r : Nat) (hr : r < 2 ^ i) (hb : b < 2) :
    (2 ^ i * (2 * a + b) + r).testBit j = if j < i then r.testBit j else if j = i then b == 1 else a.testBit (j - i - 1) := by
  rw [Nat.testBit_two_pow_mul_add _ hr]
  by_cases h : j < i
  · rw [if_pos h, if_pos h]
  · rw [if_neg h, if_neg h]
    by_cases he : j = i
    · subst he
      rw [if_pos rfl, Nat.sub_self, Nat.testBit_zero]
      rcases (by omega : b = 0 ∨ b = 1) with rfl | rfl <;> simp
    · rw [if_neg he, show j - i = (j - i - 1) + 1 by omega, Nat.testBit_succ, show (2 * a + b) / 2 = a by omega]
      rfl

theorem bitOf_clrBit (n i j : Nat) : bitOf (clrBit n i) j = (bitOf n j && !(j == i)) := by
  unfold clrBit
  by_cases hi : bitOf n i = true
  · have h1 : n / 2 ^ i % 2 = 1 := by simpa [bitOf] using hi
    have hr : n % 2 ^ i < 2 ^ i := Nat.mod_lt _ (Nat.two_pow_pos i)
    have hn := bits_at n i
    rw [h1] at hn
    have hc : n - 2 ^ i = 2 ^ i * (2 * (n / 2 ^ i / 2) + 0) + n % 2 ^ i := by
      conv_lhs => rw [hn]
      rw [Nat.mul_add (2 ^ i) _ 1, Nat.mul_one, Nat.add_zero]; omega
    rw [if_pos hi, bitOf_eq_testBit, bitOf_eq_testBit, hc]
    conv_rhs => rw [hn]
    rw [testBit_of_parts _ _ _ _ _ hr (by decide), testBit_of_parts _ _ _ _ _ hr (by decide)]
    by_cases h : j < i
    · simp [h, h.ne]
    · by_cases he : j = i
      · simp [he]
      · simp [h, he]
  · rw [if_neg hi]
    by_cases he : j = i
    · subst he; simpa using hi
    · simp [he]

theorem bitOf_setBit_ne (n : Nat) {i j : Nat} (h : j ≠ i) : bitOf (setBit n i) j = bitOf n j := by
  unfold setBit
  by_cases hi : bitOf n i = true
  · rw [if_pos hi]
  · have h0 : n / 2 ^ i % 2 = 0 := by simpa [bitOf] using hi
    have hr : n % 2 ^ i < 2 ^ i := Nat.mod_lt _ (Nat.two_pow_pos i)
    have hn := bits_at n i
    rw [h0] at hn
    have hc : n + 2 ^ i = 2 ^ i * (2 * (n / 2 ^ i / 2) + 1) + n % 2 ^ i := by
      conv_lhs => rw [hn]
      rw [Nat.mul_add, Nat.mul_add, Nat.mul_one, Nat.mul_zero]; omega
    rw [if_neg hi, bitOf_eq_testBit, bitOf_eq_testBit, hc]
    conv_rhs => rw [hn]
    rw [testBit_of_parts _ _ _ _ _ hr (by decide), testBit_of_parts _ _ _ _ _ hr (by decide), if_neg h, if_neg h]

/-! ### Tables written entry by entry -/

/-- Entry `k` of a table after writes at the keys `f x`, where all writes at `k` put `v` there. -/
theorem tget_foldl_put {α β : Type} [DecidableEq α] {d v : α} (hv : v ≠ d) (f : β → Nat) (g : β → α) (k : Nat)
    (l : List β) (t : List (Nat × α)) (hg : ∀ x ∈ l, f x = k → g x = v)
    (h : (∃ x ∈ l, f x = k) ∨ tget d t k = v) :
    tget d (l.foldl (fun t x => tset d t (f x) (g x)) t) k = v := by
  induction l generalizing t with
  | nil => simpa using h
  | cons x r ih =>
    refine ih _ (fun y hy => hg y (List.mem_cons_of_mem _ hy)) ?_
    by_cases hx : f x = k
    · right
      show tget d (tset d t (f x) (g x)) k = v
      rw [hg x (List.mem_cons_self ..) hx, hx, tget_tset_same _ _ _ _ hv]
    · rcases h with ⟨y, hy, hk⟩ | h
      · rcases List.mem_cons.mp hy with rfl | hy
        · exact absurd hk hx
        · exact .inl ⟨y, hy, hk⟩
      · right
        rwa [tget_tset_ne _ _ _ _ _ (Ne.symm hx)]

/-! ### Accesses that reach their register (R85, R481, R486) -/

/-- An access finds the device awake and its link in L0. -/
theorem reached_awake {s : State} {p : Nat} (hl : (getPort s p).link = .l0) (hp : s.pm.ps ≠ 4) : reached s p = s := by
  simp [reached, hl, hp]

section
variable {s : State} {p o : Nat} (hs : hostCan s (p * 64) = true) (hu : hostCan (reached s p) (p * 64) = true)
include hs hu

theorem access_none {dw be : Nat} {w : Bool} (ha : accKind (reached s p) o dw be w = none) (body : State → State) :
    access s p o dw be w body = body (reached s p) := by
  simp [access, hs, hu, ha]

theorem regWrite_next (ha : accKind (reached s p) o 1 15 true = none) (body : State → State) :
    regWrite s p o body = .next (body (reached s p)) := congrArg Host.Outcome.next (access_none hs hu ha body)

end

end Sys2Proof.Machine
end
section
/-! PROOFS. The management window: counters cleared. -/

namespace Sys2Proof.Machine

theorem poolClear_cnt (s : State) {n c : Nat} (hn : n ∈ validNiches s) (hc : c < 5) :
    (tget {} (poolClear s).pool.cnt (n * 8 + c) : PoolCnt) = { minFree := some (poolFree s n c) } := by
  refine tget_foldl_put (by simp) (fun x : Nat × Nat => x.1 * 8 + x.2)
    (fun x => ({ minFree := some (poolFree s x.1 x.2) } : PoolCnt)) _ _ _ (fun x hx hk => ?_) (.inl ⟨(n, c), ?_, rfl⟩)
  · obtain ⟨m, -, d, hd, rfl⟩ : ∃ m ∈ validNiches s, ∃ d < 5, (m, d) = x := by simpa using hx
    obtain ⟨rfl, rfl⟩ : m = n ∧ d = c := by dsimp only at hk; omega
    rfl
  · simpa using ⟨hn, hc⟩

/-- Settles O54: an access that reaches a CLR bit runs that block's clear alone. -/
theorem countersCleared : Obligations.CountersCleared := by
  intro s port hs u hu
  have w {o : Nat} {body : State → State} (ha : accKind u o 1 15 true = none) : regWrite s port o body = .next (body u) :=
    regWrite_next hs hu ha body
  refine ⟨reached_awake, w, fun ch hch ha => (if_neg hch.not_ge).trans (w ha), fun ha => ⟨_, w ha, rfl, rfl, ?_, rfl, rfl, rfl⟩,
    w, w, w, w, w, w, w⟩
  exact fun n c hn _ hc => poolClear_cnt u hn hc

end Sys2Proof.Machine
end
section
/-! SUPPORT. What is noted of the device's doings: events, records, status bits and the state of commissions. -/

namespace Sys2Proof.Machine

/-- A state without what is noted in it: events and entries of the controllers, status bits, commissions and records. -/
def unnoted (s : State) : State :=
  { s with
    ctrls := [], sqs := [], cqs := [], niches := [], comms := [], cms := {}, pat := {}
    glb := { s.glb with istat := 0 } }

/-- From `s` to `t` only what is noted changes, and no status bit of the device falls. -/
structure Noted (s t : State) : Prop where
  same : unnoted t = unnoted s
  bits : ∀ b, bitOf s.glb.istat b = true → bitOf t.glb.istat b = true

namespace Noted

theorem refl (s : State) : Noted s s := ⟨rfl, fun _ h => h⟩

theorem trans {s t u : State} (h : Noted s t) (k : Noted t u) : Noted s u :=
  ⟨k.same.trans h.same, fun b hb => k.bits b (h.bits b hb)⟩

theorem foldl {β : Type} {s t : State} (f : State → β → State) (hf : ∀ a x, Noted a (f a x)) (l : List β)
    (h : Noted s t) : Noted s (l.foldl f t) := by
  induction l generalizing t with
  | nil => exact h
  | cons x r ih => exact ih (h.trans (hf t x))

theorem ite {s a b : State} {p : Prop} [Decidable p] (ha : Noted s a) (hb : Noted s b) : Noted s (if p then a else b) := by
  split <;> assumption

section
variable {s t : State} (h : Noted s t)
include h

theorem part {α : Type} (V : State → α) : V (unnoted t) = V (unnoted s) := congrArg V h.same

theorem cmds : t.cmds = s.cmds := h.part State.cmds
theorem zones : t.zones = s.zones := h.part State.zones
theorem sectors : t.sectors = s.sectors := h.part State.sectors
theorem stripes : t.stripes = s.stripes := h.part State.stripes
theorem rows : t.rows = s.rows := h.part State.rows
theorem dies : t.dies = s.dies := h.part State.dies
theorem reads : t.reads = s.reads := h.part State.reads
theorem ns : t.ns = s.ns := h.part State.ns
theorem chans : t.chans = s.chans := h.part State.chans
theorem sched : t.sched = s.sched := h.part State.sched
theorem pool : t.pool = s.pool := h.part State.pool
theorem cipher : t.cipher = s.cipher := h.part State.cipher
theorem plinth : t.plinth = s.plinth := h.part State.plinth
theorem hold : t.hold = s.hold := h.part State.hold
theorem fed : t.fed = s.fed := h.part State.fed
theorem clk : t.clk = s.clk := h.part State.clk
theorem pm : t.pm = s.pm := h.part State.pm
theorem thm : t.thm = s.thm := h.part State.thm
theorem boot : t.boot = s.boot := h.part State.boot
theorem board : t.board = s.board := h.part State.board
theorem arm : t.arm = s.arm := h.part State.arm
theorem ports : t.ports = s.ports := h.part State.ports
theorem arb : t.arb = s.arb := h.part State.arb
theorem guarded : guarded t = guarded s := h.part Machine.guarded
/-- Of the device's status and register page nothing but the status bits changes. -/
theorem glb : t.glb = { s.glb with istat := t.glb.istat } := by
  have e : ({ t.glb with istat := 0 } : Glb) = { s.glb with istat := 0 } := h.part State.glb
  calc t.glb = { ({ t.glb with istat := 0 } : Glb) with istat := t.glb.istat } := rfl
    _ = { ({ s.glb with istat := 0 } : Glb) with istat := t.glb.istat } := by rw [e]

end

end Noted

/-! ### Status bits, entries and events -/

theorem bitOf_setBit_of {n b : Nat} (i : Nat) (h : bitOf n b = true) : bitOf (setBit n i) b = true := by
  by_cases e : b = i
  · rw [e]; exact bitOf_setBit_same n i
  · rw [bitOf_setBit_ne n e]; exact h

theorem noted_glbSet (s : State) (b : Nat) : Noted s (glbSet s b) := ⟨rfl, fun _ h => bitOf_setBit_of b h⟩

theorem noted_nchSet (s : State) (n b : Nat) : Noted s (nchSet s n b) := ⟨rfl, fun _ h => h⟩

theorem noted_setNch (s : State) (n : Nat) (v : Nch) : Noted s (setNch s n v) := ⟨rfl, fun _ h => h⟩

theorem noted_setCtrl (s : State) (c : Nat) (v : Ctrl) : Noted s (setCtrl s c v) := ⟨rfl, fun _ h => h⟩

theorem noted_setComm (s : State) (i : Nat) (v : Comm) : Noted s (setComm s i v) := ⟨rfl, fun _ h => h⟩

theorem noted_adone (s : State) (c cid : Nat) (st : Status) (dw0 dw1 : Nat) (data : List Fld) :
    Noted s (adone s c cid st dw0 dw1 data) := ⟨rfl, fun _ h => h⟩

theorem noted_pumpEvs (c fuel : Nat) (s : State) : Noted s (pumpEvs s c fuel) := by
  induction fuel generalizing s with
  | zero => exact .refl s
  | succ n ih =>
    unfold pumpEvs
    dsimp only
    split
    · exact ((noted_setCtrl _ _ _).trans (noted_adone ..)).trans (ih _)
    · exact .refl s

theorem noted_raiseOn (s : State) (c : Nat) (e : Ev) : Noted s (raiseOn s c e) :=
  (Noted.ite (noted_setCtrl _ _ _) (.refl s)).trans (noted_pumpEvs c 8 _)

theorem noted_raiseAll (s : State) (cs : List Nat) (e : Ev) : Noted s (raiseAll s cs e) :=
  Noted.foldl _ (fun a c => noted_raiseOn a c e) cs (.refl s)

theorem noted_raiseStd (s : State) (cs : List Nat) (b : Nat) (e : Ev) : Noted s (raiseStd s cs b e) :=
  noted_raiseAll s _ e

/-! ### Records -/

theorem noted_patNew (s : State) (v : Nat) : Noted s (patNew s v) :=
  .ite ((noted_raiseAll s _ _).trans (noted_glbSet _ _)) (.refl s)

theorem noted_pat (s : State) (p : Pat) : Noted s { s with pat := p } := ⟨rfl, fun _ h => h⟩

theorem noted_patWrite (s : State) (r : PatRec) : Noted s (patWrite s r) := by
  unfold patWrite
  dsimp only
  split
  · exact (noted_pat s _).trans (noted_patNew _ _)
  · split
    · exact (noted_pat s _).trans (noted_patNew _ _)
    · exact noted_pat s _

theorem noted_patina (s : State) (r : PatReq) : Noted s (patina s r) := by
  unfold patina patStore
  split
  · exact .ite (noted_pat s _) (noted_patWrite s _)
  · exact noted_patWrite s _

theorem noted_devRec (s : State) (typ sev p8 pb pc : Nat) : Noted s (devRec s typ sev p8 pb pc) := noted_patina s _

theorem noted_nicheRec (s : State) (n typ sev p8 pb pc : Nat) : Noted s (nicheRec s n typ sev p8 pb pc) :=
  noted_patina s _

/-! ### Commissions -/

theorem noted_cms (s : State) (c : Cms) : Noted s { s with cms := c } := ⟨rfl, fun _ h => h⟩

theorem noted_trigger (s : State) : Noted s (trigger s) :=
  .ite (noted_cms s _) (.ite (noted_cms s _) (noted_cms s _))

theorem noted_commEvent (s : State) (i code : Nat) : Noted s (commEvent s i code) := by
  have hc (c : Cms) (l : List (Nat × Comm)) : Noted s { s with comms := l, cms := c } := ⟨rfl, fun _ h => h⟩
  refine .ite (.refl s) (Noted.trans ?_ (noted_raiseAll _ _ _))
  exact .ite (hc _ _) (((hc _ _).trans (noted_glbSet _ 6)).trans (noted_nchSet _ _ _))

theorem noted_breachAll (s : State) (b : Nat) : Noted s (breachAll s b) :=
  Noted.foldl _ (fun _ _ => .ite (noted_setComm _ _ _)
    (((noted_setComm _ _ _).trans (noted_setComm _ _ _)).trans (noted_commEvent _ _ _))) _ (.refl s)

end Sys2Proof.Machine
end
section
/-! SUPPORT. What of the platform (boot, ports, channels, clocks, power) an operation on the media keeps. -/

namespace Sys2Proof.Machine

structure Platform where
  pending : List Instr
  nowUs : Nat
  opUs : Nat
  board : Board
  boot : Boot
  ports : List (Nat × Port)
  chans : List (Nat × Chan)
  hold : Hold
  fed : Fed
  clk : Clk
  pm : Pm
  thm : Thm

def platform (s : State) : Platform :=
  ⟨s.pending, s.nowUs, s.opUs, s.board, s.boot, s.ports, s.chans, s.hold, s.fed, s.clk, s.pm, s.thm⟩

@[simp] theorem platform_mk
    (x0 x1 x2 x3 x4 x5 x6 x7 x8 x9 x10 x11 x12 x13 x14 x15 x16 x17 x18
      x19 x20 x21 x22 x23 x24 x25 x26 x27 x28 x29 x30 x31 x32 x33 x34 x35 x36) :
    platform (State.mk x0 x1 x2 x3 x4 x5 x6 x7 x8 x9 x10 x11 x12 x13 x14 x15 x16 x17 x18
      x19 x20 x21 x22 x23 x24 x25 x26 x27 x28 x29 x30 x31 x32 x33 x34 x35 x36) =
      ⟨x0, x1, x2, x3, x4, x6, x22, x29, x31, x32, x33, x34⟩ := rfl

@[simp] theorem platform_fold (s : State) : (⟨s.pending, s.nowUs, s.opUs, s.board, s.boot, s.ports, s.chans, s.hold, s.fed, s.clk, s.pm, s.thm⟩ : Platform) = platform s := rfl

@[simp] theorem platform_ite (c : Prop) [Decidable c] (a b : State) :
    platform (if c then a else b) = if c then platform a else platform b := apply_ite _ _ _ _

@[simp] theorem platform_foldl {α : Type} (f : State → α → State) (l : List α) (s : State)
    (h : ∀ a x, platform (f a x) = platform a) : platform (l.foldl f s) = platform s := by
  induction l generalizing s with
  | nil => rfl
  | cons x t ih => simp [ih, h]

@[simp] theorem setCtrl_platform (s : State) (c : Nat) (v : Ctrl) : platform (setCtrl s c v) = platform s := by rfl

@[simp] theorem setSq_platform (s : State) (k : Nat) (v : Sq) : platform (setSq s k v) = platform s := by rfl

@[simp] theorem setCmd_platform (s : State) (i : Nat) (v : Cmd) : platform (setCmd s i v) = platform s := by rfl

@[simp] theorem delCmd_platform (s : State) (i : Nat) : platform (delCmd s i) = platform s := by rfl

@[simp] theorem setNs_platform (s : State) (i : Nat) (v : Ns) : platform (setNs s i v) = platform s := by rfl

@[simp] theorem setZone_platform (s : State) (k : Nat) (v : Zone) : platform (setZone s k v) = platform s := by rfl

@[simp] theorem setStripe_platform (s : State) (i : Nat) (v : Stripe) : platform (setStripe s i v) = platform s := by
  rfl

@[simp] theorem setRow_platform (s : State) (k : Nat) (v : Row) : platform (setRow s k v) = platform s := by rfl

@[simp] theorem setDie_platform (s : State) (k : Nat) (v : Die) : platform (setDie s k v) = platform s := by rfl

@[simp] theorem setNch_platform (s : State) (i : Nat) (v : Nch) : platform (setNch s i v) = platform s := by rfl

@[simp] theorem setComm_platform (s : State) (h : Nat) (v : Comm) : platform (setComm s h v) = platform s := by rfl

@[simp] theorem schedule_platform (s : State) (c q cid : Nat) (st : Status) (dw0 dw1 : Nat) (data : List Fld) :
    platform (schedule s c q cid st dw0 dw1 data) = platform s := by rfl

@[simp] theorem adone_platform (s : State) (c cid : Nat) (st : Status) (dw0 dw1 : Nat) (data : List Fld) :
    platform (adone s c cid st dw0 dw1 data) = platform s := by rfl

@[simp] theorem pumpEvs_platform (s : State) (c fuel : Nat) : platform (pumpEvs s c fuel) = platform s := by
  induction fuel generalizing s with
  | zero => rfl
  | succ n ih => unfold pumpEvs; dsimp only; split <;> simp [ih]

@[simp] theorem raiseOn_platform (s : State) (c : Nat) (e : Ev) : platform (raiseOn s c e) = platform s := by
  unfold raiseOn; dsimp only; simp only [pumpEvs_platform]; split <;> simp

@[simp] theorem raiseAll_platform (s : State) (cs : List Nat) (e : Ev) : platform (raiseAll s cs e) = platform s := by
  simp [raiseAll]

@[simp] theorem raiseStd_platform (s : State) (cs : List Nat) (bit : Nat) (e : Ev) :
    platform (raiseStd s cs bit e) = platform s := by simp [raiseStd]

@[simp] theorem glbSet_platform (s : State) (b : Nat) : platform (glbSet s b) = platform s := by rfl

@[simp] theorem nchSet_platform (s : State) (n b : Nat) : platform (nchSet s n b) = platform s := by rfl

@[simp] theorem mediaEvent_platform (s : State) (n : Nat) : platform (mediaEvent s n) = platform s := by
  simp [mediaEvent]

@[simp] theorem zoneChanged_platform (s : State) (slot z : Nat) : platform (zoneChanged s slot z) = platform s := by
  simp [zoneChanged]

@[simp] theorem patNew_platform (s : State) (sev : Nat) : platform (patNew s sev) = platform s := by simp [patNew]

@[simp] theorem patWrite_platform (s : State) (r : PatRec) : platform (patWrite s r) = platform s := by
  unfold patWrite; dsimp only; (repeat' split) <;> simp

@[simp] theorem patStore_platform (s : State) (r : PatRec) : platform (patStore s r) = platform s := by
  unfold patStore; split <;> simp

@[simp] theorem patina_platform (s : State) (r : PatReq) : platform (patina s r) = platform s := by simp [patina]

@[simp] theorem devRec_platform (s : State) (typ sev : Nat) (p8 pb pc : Nat) :
    platform (devRec s typ sev p8 pb pc) = platform s := by simp [devRec]

@[simp] theorem nicheRec_platform (s : State) (n typ : Nat) (sev p8 : Nat) (pb pc : Nat) :
    platform (nicheRec s n typ sev p8 pb pc) = platform s := by simp [nicheRec]

@[simp] theorem countChange_platform (s : State) (n : Nat) : platform (countChange s n) = platform s := by rfl

@[simp] theorem commEvent_platform (s : State) (h code : Nat) : platform (commEvent s h code) = platform s := by
  simp [commEvent]

@[simp] theorem trigger_platform (s : State) : platform (trigger s) = platform s := by simp [trigger]

@[simp] theorem withIdent_platform (s : State) (owner : Nat) : platform (withIdent s owner) = platform s := by
  simp [withIdent]

@[simp] theorem pruneIds_platform (s : State) : platform (pruneIds s) = platform s := by rfl

@[simp] theorem passBuf_platform (s : State) (k owner : Nat) (parts : List (Nat × Nat × Nat)) :
    platform (passBuf s k owner parts) = platform s := by simp [passBuf]

@[simp] theorem releaseBuf_platform (s : State) (k : Nat) : platform (releaseBuf s k) = platform s := by
  unfold releaseBuf; dsimp only; (repeat' split) <;> simp

@[simp] theorem releaseBufs_platform (s : State) (l : List Nat) : platform (releaseBufs s l) = platform s := by
  simp [releaseBufs]

@[simp] theorem unpark_platform (s : State) (n i : Nat) : platform (unpark s n i) = platform s := by rfl

@[simp] theorem freeOwned_platform (s : State) (owner : Nat) : platform (freeOwned s owner) = platform s := by
  simp [freeOwned]

@[simp] theorem journal_platform (s : State) : platform (journal s) = platform s := by rfl

@[simp] theorem bindRow_platform (s : State) (slot : Nat) (zone : Option Nat) (pos : Nat) (kr : Nat × Nat) :
    platform (bindRow s slot zone pos kr) = platform s := by rfl

@[simp] theorem sweepBufs_platform (s : State) (sid : Nat) : platform (sweepBufs s sid) = platform s := by
  simp [sweepBufs]

@[simp] theorem discardStripe_platform (s : State) (sid : Nat) : platform (discardStripe s sid) = platform s := by
  simp [discardStripe]

@[simp] theorem openStripe_platform (s : State) (i : Nat) (zone : Option Nat) (gc : Bool) (kr : Nat × Nat) (t : Nat) :
    platform (openStripe s i zone gc kr t).1 = platform s := by rfl

@[simp] theorem completeStripe_platform (s : State) (sid : Nat) (padded : Bool) :
    platform (completeStripe s sid padded) = platform s := by
  unfold completeStripe; dsimp only; split <;> simp

@[simp] theorem takeFineRow_platform (s : State) (i : Nat) (gc : Bool) :
    platform (takeFineRow s i gc) = platform s := by
  unfold takeFineRow; dsimp only; (repeat' split) <;> simp

@[simp] theorem readyRow_platform (s : State) (i : Nat) (gc : Bool) : platform (readyRow s i gc) = platform s := by
  simp [readyRow]

@[simp] theorem fillStripe_platform (s : State) (i : Nat) (zone : Option Nat) (gc : Bool) :
    platform (fillStripe s i zone gc).1 = platform s := by
  unfold fillStripe; dsimp only; (repeat' split) <;> simp

@[simp] theorem endFill_platform (s : State) (i : Nat) (zone : Option Nat) (gc : Bool) :
    platform (endFill s i zone gc) = platform s := by
  unfold endFill; split <;> simp

@[simp] theorem placeSector_platform (s : State) (w : Writer) (lba val : Nat) :
    platform (placeSector s w lba val).1 = platform s := by
  unfold placeSector; dsimp only; (repeat' split) <;> simp

@[simp] theorem terminalPad_platform (s : State) (i z : Nat) : platform (terminalPad s i z) = platform s := by
  unfold terminalPad; split <;> simp

@[simp] theorem finishByController_platform (s : State) (i z : Nat) :
    platform (finishByController s i z) = platform s := by simp [finishByController]

@[simp] theorem finishWhenFree_platform (s : State) (i z : Nat) : platform (finishWhenFree s i z) = platform s := by
  simp [finishWhenFree]

@[simp] theorem interiorPad_platform (s : State) (i z : Nat) : platform (interiorPad s i z) = platform s := by
  unfold interiorPad; dsimp only; split <;> simp

@[simp] theorem finePad_platform (s : State) (i : Nat) (gc : Bool) : platform (finePad s i gc) = platform s := by
  unfold finePad; split <;> simp

@[simp] theorem closeByDevice_platform (s : State) (why h : Nat) : platform (closeByDevice s why h) = platform s := by
  simp [closeByDevice]

@[simp] theorem smartEvent_platform (s : State) (n b info : Nat) : platform (smartEvent s n b info) = platform s := by
  simp [smartEvent]

@[simp] theorem readOnlyNiche_platform (s : State) (n why : Nat) : platform (readOnlyNiche s n why) = platform s := by
  simp [readOnlyNiche]

@[simp] theorem putLost_platform (s : State) (n : Nat) (v : Nch) : platform (putLost s n v) = platform s := by
  simp [putLost]

@[simp] theorem lostAdd_platform (s : State) (slot : Nat) (lbas : List Nat) :
    platform (lostAdd s slot lbas) = platform s := by simp [lostAdd]

@[simp] theorem zoneLost_platform (s : State) (i z : Nat) : platform (zoneLost s i z) = platform s := by
  unfold zoneLost; dsimp only; (repeat' split) <;> simp

@[simp] theorem loseUnits_platform (s : State) (sid : Nat) : platform (loseUnits s sid) = platform s := by
  unfold loseUnits; dsimp only; (repeat' split) <;> simp

@[simp] theorem addErasure_platform (s : State) (sid c : Nat) : platform (addErasure s sid c) = platform s := by
  simp [addErasure]

@[simp] theorem refreshGc_platform (s : State) (n : Nat) : platform (refreshGc s n) = platform s := by
  simp [refreshGc]

@[simp] theorem setRd_platform (s : State) (i : Nat) (v : Rd) : platform (setRd s i v) = platform s := by rfl

@[simp] theorem leaveWaits_platform (s : State) : platform (leaveWaits s) = platform s := by rfl

@[simp] theorem newRd_platform (s : State) (r : Rd) : platform (newRd s r).1 = platform s := by rfl

@[simp] theorem feedOne_platform (s : State) : platform (feedOne s) = platform s := by rfl

@[simp] theorem feed_platform (s : State) : platform (feed s) = platform s := by
  unfold feed; apply platform_foldl; intro a x; simp

@[simp] theorem dropReads_platform (s : State) (p : Owner → Bool) : platform (dropReads s p) = platform s := by
  unfold dropReads; dsimp only; split
  · rfl
  · simp

@[simp] theorem startRebuild_platform (s : State) (i : Nat) : platform (startRebuild s i) = platform s := by
  simp [startRebuild]

@[simp] theorem addRd_platform (s : State) (r : Rd) : platform (addRd s r).1 = platform s := by
  unfold addRd; split <;> simp

@[simp] theorem touchPage_platform (s : State) (pg : Nat) : platform (touchPage s pg) = platform s := by rfl

@[simp] theorem setFine_platform (s : State) (k : Nat) : platform (setFine s k) = platform s := by rfl

@[simp] theorem noteFine_platform (s : State) (k : Nat) : platform (noteFine s k) = platform s := by simp [noteFine]

@[simp] theorem askPlinth_platform (s : State) (own : Owner) (n : Nat) : platform (askPlinth s own n) = platform s := by
  simp [askPlinth]

@[simp] theorem askPage_platform (s : State) (pg : Nat) : platform (askPage s pg) = platform s := by simp [askPage]

@[simp] theorem freeCmdBufs_platform (s : State) (id : Nat) : platform (freeCmdBufs s id) = platform s := by
  simp [freeCmdBufs]

@[simp] theorem unqueueCmd_platform (s : State) (id : Nat) : platform (unqueueCmd s id) = platform s := by rfl

@[simp] theorem slotFreed_platform (s : State) (c : Cmd) : platform (slotFreed s c) = platform s := by
  unfold slotFreed; split <;> simp

@[simp] theorem discard_platform (s : State) (id : Nat) : platform (discard s id) = platform s := by
  unfold discard; simp

@[simp] theorem queueSegs_platform (s : State) (id : Nat) : platform (queueSegs s id) = platform s := by rfl

@[simp] theorem logError_platform (s : State) (c : Nat) (e : ErrEnt) : platform (logError s c e) = platform s := by
  rfl

@[simp] theorem ioCqe_platform (s : State) (k cid : Nat) (st : Status) : platform (ioCqe s k cid st) = platform s := by
  rfl

@[simp] theorem completeStaged_platform (s : State) (k : Nat) (st : Status) :
    platform (completeStaged s k st) = platform s := by simp [completeStaged]

@[simp] theorem uncount_platform (s : State) (c : Cmd) (st : Status) : platform (uncount s c st) = platform s := by
  unfold uncount; split <;> simp

@[simp] theorem endWaiting_platform (k : Nat) (st : Status) (s : State) (id : Nat) :
    platform (endWaiting k st s id) = platform s := by simp [endWaiting]

@[simp] theorem completeUnstarted_platform (s : State) (k : Nat) (st : Status) :
    platform (completeUnstarted s k st) = platform s := by simp [completeUnstarted]

@[simp] theorem freezeSq_platform (s : State) (k : Nat) (c : Cmd) (st : Status) :
    platform (freezeSq s k c st) = platform s := by
  unfold freezeSq; dsimp only; split <;> simp

@[simp] theorem endCmd_platform (s : State) (id : Nat) (st : Status) (dw0 dw1 : Nat) (data : List Fld) :
    platform (endCmd s id st dw0 dw1 data) = platform s := by simp [endCmd]

@[simp] theorem padFor_platform (s : State) (sid : Nat) : platform (padFor s sid) = platform s := by
  unfold padFor; dsimp only; (repeat' split) <;> simp

@[simp] theorem settleOne_platform (a : State) (id : Nat) : platform (settleOne a id) = platform a := by
  simp [settleOne]

@[simp] theorem settle_platform (s : State) : platform (settle s) = platform s := by simp [settle]

@[simp] theorem complete_platform (s : State) (id : Nat) (st : Status) (dw0 dw1 : Nat) (data : List Fld) :
    platform (complete s id st dw0 dw1 data) = platform s := by simp [complete]

@[simp] theorem noteLost_platform (s : State) (niche n : Nat) : platform (noteLost s niche n) = platform s := by rfl

@[simp] theorem askSector_platform (id : Nat) (s : State) (j : Nat) : platform (askSector id s j) = platform s := by
  unfold askSector; dsimp only; split <;> simp

@[simp] theorem readArrived_platform (s : State) (id : Nat) : platform (readArrived s id) = platform s := by
  simp [readArrived]

@[simp] theorem endErase_platform (s : State) (k r : Nat) : platform (endErase s k r) = platform s := by
  simp [endErase]

@[simp] theorem queueRecast_platform (s : State) (k r q : Nat) : platform (queueRecast s k r q) = platform s := by
  simp [queueRecast]

@[simp] theorem dropCopy_platform (s : State) (key : Nat) : platform (dropCopy s key) = platform s := by
  unfold dropCopy; dsimp only; split <;> simp

@[simp] theorem decodeGood_platform (s : State) (n k : Nat) (r step bits : Nat) :
    platform (decodeGood s n k r step bits) = platform s := by simp [decodeGood]

@[simp] theorem pageCame_platform (s : State) (pg : Nat) : platform (pageCame s pg) = platform s := by simp [pageCame]

@[simp] theorem sealStateCame_platform (s : State) (i z : Nat) : platform (sealStateCame s i z) = platform s := by rfl

@[simp] theorem gcBuffer_platform (s : State) (i : Nat) (place : Option (Nat × Nat)) :
    platform (gcBuffer s i place) = platform s := by
  unfold gcBuffer; dsimp only; apply platform_foldl; intro a k; split <;> simp

@[simp] theorem gcPlace_platform (s : State) (i lba sid : Nat) : platform (gcPlace s i lba sid) = platform s := by
  simp [gcPlace]

@[simp] theorem endLadder_platform (s : State) (i : Nat) : platform (endLadder s i) = platform s := by rfl

@[simp] theorem deliver_platform (s : State) (i info : Nat) : platform (deliver s i info) = platform s := by
  unfold deliver; dsimp only; split <;> simp

@[simp] theorem loseSector_platform (s : State) (sid c ix : Nat) : platform (loseSector s sid c ix) = platform s := by
  unfold loseSector; dsimp only; split <;> simp

@[simp] theorem rdLost_platform (s : State) (i : Nat) : platform (rdLost s i) = platform s := by
  unfold rdLost; dsimp only; split <;> simp

@[simp] theorem settleRebuild_platform (s : State) (p : Nat) : platform (settleRebuild s p) = platform s := by
  unfold settleRebuild; dsimp only; (repeat' split) <;> simp

@[simp] theorem toStep9_platform (s : State) (i : Nat) : platform (toStep9 s i) = platform s := by
  unfold toStep9; dsimp only; split <;> simp

@[simp] theorem reroute_platform (s : State) (p : Rd → Bool) : platform (reroute s p) = platform s := by
  simp [reroute]

@[simp] theorem checkpointOf_platform (s : State) (n : Nat) : platform (checkpointOf s n) = platform s := by rfl

@[simp] theorem journalPage_platform (s : State) (n : Nat) (m : MapImg) : platform (journalPage s n m) = platform s := by
  rfl

@[simp] theorem persistImage_platform (s : State) (i : PatImg) : platform (persistImage s i) = platform s := by rfl

@[simp] theorem plDone_platform (s : State) (sid : Nat) (j : PlJob) : platform (plDone s sid j) = platform s := by
  unfold plDone; split <;> simp

@[simp] theorem noteRelease_platform (s : State) (x : Stripe) : platform (noteRelease s x) = platform s := by
  simp [noteRelease]

@[simp] theorem issueUnit_platform (s : State) (sid c : Nat) : platform (issueUnit s sid c) = platform s := by
  simp [issueUnit]

@[simp] theorem leaveEnds_platform (s : State) (k r : Nat) : platform (leaveEnds s k r) = platform s := by
  simp [leaveEnds]

@[simp] theorem endStripe_platform (s : State) (sid : Nat) : platform (endStripe s sid) = platform s := by
  unfold endStripe; dsimp only; split
  · rfl
  · simp only [settle_platform, reroute_platform]; split <;> simp

@[simp] theorem tooManySplits_platform (s : State) (slot : Nat) (zone : Option Nat) (kr : Nat × Nat) :
    platform (tooManySplits s slot zone kr) = platform s := by
  unfold tooManySplits; split <;> simp

@[simp] theorem addSplit_platform (s : State) (k r : Nat) (c t typ : Nat) :
    platform (addSplit s k r c t typ) = platform s := by simp [addSplit]

@[simp] theorem retireInRow_platform (s : State) (c k r : Nat) : platform (retireInRow s c k r) = platform s := by
  simp [retireInRow]

@[simp] theorem strandOp_platform (s : State) (c k : Nat) (op : DieOp) :
    platform (strandOp s c k op) = platform s := by
  unfold strandOp; split <;> simp

@[simp] theorem narrowRank_platform (s : State) (k : Nat) : platform (narrowRank s k) = platform s := by
  simp [narrowRank]

@[simp] theorem retireDie_platform (s : State) (c k : Nat) : platform (retireDie s c k) = platform s := by
  unfold retireDie; dsimp only; split
  · rfl
  · simp

theorem takeSpare_platform (s : State) (c k : Nat) (f : Nat → Die → Die) (t : State) (h : takeSpare s c k f = some t) :
    platform t = platform s := by
  unfold takeSpare at h; dsimp only at h; split at h
  · cases h; rw [platform_foldl]
    · simp
    · intro a n; simp
  · cases h

@[simp] theorem programFailure_platform (s : State) (sid c : Nat) :
    platform (programFailure s sid c) = platform s := by
  unfold programFailure; dsimp only; simp only [nicheRec_platform, queueRecast_platform]
  split
  · rename_i t h; simp [takeSpare_platform _ _ _ _ _ h]
  · simp

@[simp] theorem endProgram_platform (s : State) (sid c : Nat) (good : Bool) :
    platform (endProgram s sid c good) = platform s := by
  unfold endProgram; dsimp only; (repeat' split) <;> simp

@[simp] theorem checkRanks_platform (s : State) : platform (checkRanks s) = platform s := by simp [checkRanks]

@[simp] theorem recastMissed_platform (s : State) (key : Nat) : platform (recastMissed s key) = platform s := by
  simp [recastMissed]

@[simp] theorem missedLow_platform (s : State) : platform (missedLow s) = platform s := by simp [missedLow]

@[simp] theorem dropMoves_platform (s : State) : platform (dropMoves s) = platform s := by
  unfold dropMoves; dsimp only
  rw [platform_foldl]
  · rw [platform_foldl]
    · simp
    · intro a x; apply platform_foldl; intro b y; simp
  · intro a x; simp

end Sys2Proof.Machine
end
section
/-! SUPPORT. Commands, zones and sectors, kept together. -/

namespace Sys2Proof.Machine

structure IoView where
  cmds : List (Nat × Cmd)
  zones : List (Nat × Zone)
  sectors : List (Nat × Sector)

def ioView (s : State) : IoView :=
  ⟨s.cmds, s.zones, s.sectors⟩

@[simp] theorem ioView_mk
    (x0 x1 x2 x3 x4 x5 x6 x7 x8 x9 x10 x11 x12 x13 x14 x15 x16 x17 x18
      x19 x20 x21 x22 x23 x24 x25 x26 x27 x28 x29 x30 x31 x32 x33 x34 x35 x36) :
    ioView (State.mk x0 x1 x2 x3 x4 x5 x6 x7 x8 x9 x10 x11 x12 x13 x14 x15 x16 x17 x18
      x19 x20 x21 x22 x23 x24 x25 x26 x27 x28 x29 x30 x31 x32 x33 x34 x35 x36) =
      ⟨x10, x13, x16⟩ := rfl

@[simp] theorem ioView_fold (s : State) : (⟨s.cmds, s.zones, s.sectors⟩ : IoView) = ioView s := rfl

@[simp] theorem ioView_ite (c : Prop) [Decidable c] (a b : State) :
    ioView (if c then a else b) = if c then ioView a else ioView b := apply_ite _ _ _ _

@[simp] theorem ioView_foldl {α : Type} (f : State → α → State) (l : List α) (s : State)
    (h : ∀ a x, ioView (f a x) = ioView a) : ioView (l.foldl f s) = ioView s := by
  induction l generalizing s with
  | nil => rfl
  | cons x t ih => simp [ih, h]

@[simp] theorem setCtrl_ioView (s : State) (c : Nat) (v : Ctrl) : ioView (setCtrl s c v) = ioView s := by rfl

@[simp] theorem setRow_ioView (s : State) (k : Nat) (v : Row) : ioView (setRow s k v) = ioView s := by rfl

@[simp] theorem setComm_ioView (s : State) (h : Nat) (v : Comm) : ioView (setComm s h v) = ioView s := by rfl

@[simp] theorem adone_ioView (s : State) (c cid : Nat) (st : Status) (dw0 dw1 : Nat) (data : List Fld) :
    ioView (adone s c cid st dw0 dw1 data) = ioView s := by rfl

@[simp] theorem pumpEvs_ioView (s : State) (c fuel : Nat) : ioView (pumpEvs s c fuel) = ioView s := by
  induction fuel generalizing s with
  | zero => rfl
  | succ n ih => unfold pumpEvs; dsimp only; split <;> simp [ih]

@[simp] theorem raiseOn_ioView (s : State) (c : Nat) (e : Ev) : ioView (raiseOn s c e) = ioView s := by
  unfold raiseOn; dsimp only; simp only [pumpEvs_ioView]; split <;> simp

@[simp] theorem raiseAll_ioView (s : State) (cs : List Nat) (e : Ev) : ioView (raiseAll s cs e) = ioView s := by
  simp [raiseAll]

@[simp] theorem glbSet_ioView (s : State) (b : Nat) : ioView (glbSet s b) = ioView s := by rfl

@[simp] theorem patNew_ioView (s : State) (sev : Nat) : ioView (patNew s sev) = ioView s := by simp [patNew]

@[simp] theorem patWrite_ioView (s : State) (r : PatRec) : ioView (patWrite s r) = ioView s := by
  unfold patWrite; dsimp only; (repeat' split) <;> simp

@[simp] theorem patStore_ioView (s : State) (r : PatRec) : ioView (patStore s r) = ioView s := by
  unfold patStore; split <;> simp

@[simp] theorem patina_ioView (s : State) (r : PatReq) : ioView (patina s r) = ioView s := by simp [patina]

@[simp] theorem nicheRec_ioView (s : State) (n typ : Nat) (sev p8 : Nat) (pb pc : Nat) :
    ioView (nicheRec s n typ sev p8 pb pc) = ioView s := by simp [nicheRec]

@[simp] theorem withIdent_ioView (s : State) (owner : Nat) : ioView (withIdent s owner) = ioView s := by
  simp [withIdent]

@[simp] theorem pruneIds_ioView (s : State) : ioView (pruneIds s) = ioView s := by rfl

@[simp] theorem passBuf_ioView (s : State) (k owner : Nat) (parts : List (Nat × Nat × Nat)) :
    ioView (passBuf s k owner parts) = ioView s := by simp [passBuf]

@[simp] theorem releaseBuf_ioView (s : State) (k : Nat) : ioView (releaseBuf s k) = ioView s := by
  unfold releaseBuf; dsimp only; (repeat' split) <;> simp

@[simp] theorem releaseBufs_ioView (s : State) (l : List Nat) : ioView (releaseBufs s l) = ioView s := by
  simp [releaseBufs]

@[simp] theorem unpark_ioView (s : State) (n i : Nat) : ioView (unpark s n i) = ioView s := by rfl

@[simp] theorem freeOwned_ioView (s : State) (owner : Nat) : ioView (freeOwned s owner) = ioView s := by
  simp [freeOwned]

@[simp] theorem leaveWaits_ioView (s : State) : ioView (leaveWaits s) = ioView s := by rfl

@[simp] theorem feedOne_ioView (s : State) : ioView (feedOne s) = ioView s := by rfl

@[simp] theorem feed_ioView (s : State) : ioView (feed s) = ioView s := by
  unfold feed; apply ioView_foldl; intro a x; simp

@[simp] theorem dropReads_ioView (s : State) (p : Owner → Bool) : ioView (dropReads s p) = ioView s := by
  unfold dropReads; dsimp only; split
  · rfl
  · simp

@[simp] theorem gcBuffer_ioView (s : State) (i : Nat) (place : Option (Nat × Nat)) :
    ioView (gcBuffer s i place) = ioView s := by
  unfold gcBuffer; dsimp only; apply ioView_foldl; intro a k; split <;> simp

@[simp] theorem recastMissed_ioView (s : State) (key : Nat) : ioView (recastMissed s key) = ioView s := by
  simp [recastMissed]

@[simp] theorem missedLow_ioView (s : State) : ioView (missedLow s) = ioView s := by simp [missedLow]

@[simp] theorem dropMoves_ioView (s : State) : ioView (dropMoves s) = ioView s := by
  unfold dropMoves; dsimp only
  rw [ioView_foldl]
  · rw [ioView_foldl]
    · simp
    · intro a x; apply ioView_foldl; intro b y; simp
  · intro a x; simp

end Sys2Proof.Machine
end
section
/-! SUPPORT. Commissions through their events, and the islands reset. -/

namespace Sys2Proof.Machine

/-! ### What the events of a commission leave of it -/

theorem pumpEvs_comms (c fuel : Nat) (s : State) : (pumpEvs s c fuel).comms = s.comms := by
  induction fuel generalizing s with
  | zero => rfl
  | succ n ih =>
    unfold pumpEvs
    dsimp only
    split
    · rw [ih]; rfl
    · rfl

theorem raiseOn_comms (s : State) (c : Nat) (e : Ev) : (raiseOn s c e).comms = s.comms := by
  unfold raiseOn
  dsimp only
  simp only [pumpEvs_comms, apply_ite State.comms, setCtrl_comms, ite_self]

theorem raiseAll_comms (s : State) (cs : List Nat) (e : Ev) : (raiseAll s cs e).comms = s.comms := by
  unfold raiseAll
  induction cs generalizing s with
  | nil => rfl
  | cons c r ih => exact (ih _).trans (raiseOn_comms s c e)

/-- A breached commission is no empty entry. -/
theorem Comm.ne_of_breached {c : Comm} (h : c.st = .breached) : c ≠ {} := fun e => by rw [e] at h; cases h

theorem getComm_setComm_breached {s : State} {i j : Nat} {v : Comm} (hv : v.st = .breached)
    (h : (getComm s j).st = .breached ∨ i = j) : (getComm (setComm s i v) j).st = .breached := by
  by_cases e : j = i
  · subst e
    rw [getComm_setComm_same _ _ _ (Comm.ne_of_breached hv)]
    exact hv
  · rw [getComm_setComm_ne _ e]
    exact h.resolve_right (Ne.symm e)

/-- The event of a breached commission leaves it and every other breached one breached. -/
theorem commEvent_breached {s : State} {i j code : Nat} (hi : (getComm s i).st = .breached)
    (hj : (getComm s j).st = .breached) : (getComm (commEvent s i code) j).st = .breached := by
  unfold commEvent
  dsimp only
  split
  · exact hj
  · unfold getComm
    rw [raiseAll_comms]
    have h := getComm_setComm_breached (i := i) (v := { getComm s i with fedtime := fedLogTime s }) hi (.inl hj)
    split <;> exact h

/-- The breach of one commission, as `breachAll` does it. -/
def breachOne (bit : Nat) (s : State) (i : Nat) : State :=
  let c := getComm s i
  let b := setComm s i { c with reason := setBit c.reason bit }
  if c.st == .breached then b else commEvent (setComm b i { getComm b i with st := .breached }) i 2

theorem breachAll_eq (s : State) (bit : Nat) : breachAll s bit = (liveComms s).foldl (breachOne bit) s := rfl

theorem breachOne_breached {s : State} {bit i j : Nat} (h : i = j ∨ (getComm s j).st = .breached) :
    (getComm (breachOne bit s i) j).st = .breached := by
  unfold breachOne
  dsimp only
  split
  next hi =>
    have hi : (getComm s i).st = .breached := by simpa using hi
    exact getComm_setComm_breached hi (.inl (h.elim (fun e => e ▸ hi) id))
  next hi =>
    have hi : (getComm s i).st ≠ .breached := by simpa using hi
    refine commEvent_breached (getComm_setComm_breached rfl (.inr rfl)) (getComm_setComm_breached rfl ?_)
    refine h.symm.imp (fun hb => ?_) id
    rw [getComm_setComm_ne _ (fun e : j = i => hi (e ▸ hb))]
    exact hb

/-- Every live commission is breached (R209). -/
theorem breachAll_breaches (s : State) (bit : Nat) : ∀ h ∈ liveComms s, (getComm (breachAll s bit) h).st = .breached := by
  rw [breachAll_eq]
  generalize liveComms s = l
  suffices H : ∀ h, h ∈ l ∨ (getComm s h).st = .breached → (getComm (l.foldl (breachOne bit) s) h).st = .breached from
    fun h hh => H h (.inl hh)
  induction l generalizing s with
  | nil => exact fun h hh => hh.resolve_left (by simp)
  | cons x r ih =>
    intro h hh
    refine ih _ h ?_
    rcases hh with hm | hb
    · exact (List.mem_cons.mp hm).symm.imp_right fun e => breachOne_breached (.inl e.symm)
    · exact .inr (breachOne_breached (.inr hb))

/-! ### The islands' reset (R88, R89, R456, R459) -/

/-- What the device clears is what a reset of its islands clears. -/
theorem deviceClear_resets (s : State) : IslandsReset s (deviceClear s) where
  ports := rfl
  ctrls := rfl
  sqs := rfl
  cqs := rfl
  cmds := rfl
  comms := rfl
  keys := rfl
  table := rfl
  sectors := rfl
  zones := rfl
  ns := rfl
  store := rfl

end Sys2Proof.Machine
end
section
/-! PROOFS. Clock faults, the switch to the fallback clocks and the clock services. -/

namespace Sys2Proof.Machine

/-! ### What a trip does (R397 to R400) -/

/-- A trip of the monitor or of a PLL: the clocks' own state aside it is counted and shown alone (R397, R398). -/
structure Tripped (s u : State) : Prop where
  eq : u = { s with clk := u.clk, glb := u.glb }
  rcoBad : u.clk.rcoBad = s.clk.rcoBad
  ready : fallbackReady u = fallbackReady s
  fallback : u.clk.fallback = s.clk.fallback
  trips : u.clk.trips = satAdd 16 s.clk.trips 1
  shown : bitOf u.glb.istat 0 = true
  released : u.glb.released = s.glb.released

theorem glbSet_shown (s : State) (b : Nat) : bitOf (glbSet s b).glb.istat b = true := bitOf_setBit_same _ _

theorem monitorTrip_trips {s : State} (n : Option Nat) (gap : Nat) (hm : monitorOn s = true)
    (hn : ∀ k, n = some k → countBad s k = true) :
    ∃ u, Tripped s u ∧ exec (.clockMonitorTrip n gap) s = .next (switchClocks u 7 true) := by
  cases n with
  | none =>
    have he : exec (.clockMonitorTrip none gap) s = .next (switchClocks (glbSet { s with clk := { s.clk with
        xoTrip := true, xoOk := false, trips := satAdd 16 s.clk.trips 1, gapNs := satTo 24 gap } } 0) 7 true) := by
      show (if (!monitorOn s) = true then _ else _) = _
      rw [hm]; rfl
    refine ⟨_, ?_, he⟩
    exact ⟨rfl, rfl, rfl, rfl, rfl, glbSet_shown _ 0, rfl⟩
  | some k =>
    have he : exec (.clockMonitorTrip (some k) gap) s = .next (switchClocks (glbSet { s with clk := { s.clk with
        lastCnt := satTo 16 k, xoTrip := true, xoOk := false, trips := satAdd 16 s.clk.trips 1
        gapNs := satTo 24 gap } } 0) 7 true) := by
      show (if (!monitorOn s) = true then _ else if (!countBad s k) = true then _ else _) = _
      rw [hm, hn k rfl]; rfl
    refine ⟨_, ?_, he⟩
    exact ⟨rfl, rfl, rfl, rfl, rfl, glbSet_shown _ 0, rfl⟩

theorem lossOfLock_trips {s : State} {p : Pll} (hp : p ∈ [Pll.q, .d, .m]) (hl : bitOf s.clk.lock (pllBit p) = true) :
    ∃ u m q, Tripped s u ∧ exec (.pllLossOfLock p) s = .next (switchClocks u m q) := by
  have go (p : Pll) (hb : bitOf s.clk.lock (pllBit p) = true) (h3 : 3 ≠ pllBit p)
      (he : exec (.pllLossOfLock p) s = if (!bitOf s.clk.lock (pllBit p)) = true then ok s else
        ok (switchClocks (glbSet { s with clk := { s.clk with
          lock := clrBit s.clk.lock (pllBit p), pllTrip := true, trips := satAdd 16 s.clk.trips 1
          gapNs := Config.lockGapNs (pllBit p) s.nowUs % 2 ^ 24 } } 0) (2 ^ pllBit p) (p == .q))) :
      ∃ u m q, Tripped s u ∧ exec (.pllLossOfLock p) s = .next (switchClocks u m q) := by
    have hready : (s.clk.rcoRun && bitOf (clrBit s.clk.lock (pllBit p)) 3) = fallbackReady s := by
      rw [bitOf_clrBit, beq_eq_false_iff_ne.mpr h3, Bool.not_false, Bool.and_true]; rfl
    rw [hb] at he
    refine ⟨_, _, _, ?_, he⟩
    exact ⟨rfl, rfl, hready, rfl, rfl, glbSet_shown _ 0, rfl⟩
  simp only [List.mem_cons, List.not_mem_nil, or_false] at hp
  rcases hp with rfl | rfl | rfl
  · exact go .q hl (by decide) rfl
  · exact go .d hl (by decide) rfl
  · exact go .m hl (by decide) rfl

/-! ### The switch (R398 to R400) -/

/-- The federation's clock lost: nothing but the unit, its output and its event changes, and no status bit falls. -/
theorem fedClockLost_eq (s : State) : ∃ f b v, fedClockLost s = { s with
    fed := f, board := { s.board with fedOut := b }, glb := { s.glb with istat := v } } ∧
    ∀ i, bitOf s.glb.istat i = true → bitOf v i = true := by
  unfold fedClockLost fedStop
  dsimp only
  split
  · exact ⟨s.fed, s.board.fedOut, s.glb.istat, rfl, fun _ h => h⟩
  · split
    · exact ⟨_, _, _, rfl, fun i h => bitOf_setBit_of 8 h⟩
    · exact ⟨_, _, _, rfl, fun _ h => h⟩

/-- The fallback clocks in force and the islands' channels on them, before the commissions are breached (R399). -/
structure FellBack (s r : State) : Prop where
  fallback : r.clk.fallback = true
  trips : r.clk.trips = s.clk.trips
  fbFlush : r.clk.fbFlush = s.glb.released
  comms : r.comms = s.comms
  bits : ∀ i, bitOf s.glb.istat i = true → bitOf r.glb.istat i = true
  stopped : r.clk.stopped = false
  xoOk : r.clk.xoOk = s.clk.xoOk
  boot : r.boot = s.boot
  pm : r.pm = s.pm
  io : ioView r = ioView s
  guarded : guarded r = guarded s

theorem enterFallback_eq (s : State) (m : Nat) (queue : Bool) :
    ∃ r, FellBack s r ∧ enterFallback s m queue = trigger (breachAll r 6) := by
  unfold enterFallback
  dsimp only
  generalize hs1 : glbSet { s with clk := _ } 0 = s1
  have h2 : ∃ f b v, (if queue = true then fedClockLost s1 else s1) = { s1 with
      fed := f, board := { s1.board with fedOut := b }, glb := { s1.glb with istat := v } } ∧
      ∀ i, bitOf s1.glb.istat i = true → bitOf v i = true := by
    cases queue with
    | false => exact ⟨s1.fed, s1.board.fedOut, s1.glb.istat, rfl, fun _ h => h⟩
    | true => exact fedClockLost_eq s1
  generalize (if queue = true then fedClockLost s1 else s1) = s2 at h2 ⊢
  obtain ⟨f, b, v, rfl, hv⟩ := h2
  subst hs1
  refine ⟨_, ?_, rfl⟩
  split
  · exact ⟨rfl, rfl, rfl, rfl, fun i h => bitOf_setBit_of 12 (hv i (bitOf_setBit_of 0 h)), rfl, rfl, rfl, rfl, rfl, rfl⟩
  · exact ⟨rfl, rfl, rfl, rfl, fun i h => hv i (bitOf_setBit_of 0 h), rfl, rfl, rfl, rfl, rfl, rfl⟩

theorem FellBack.noted (r : State) : Noted r (trigger (breachAll r 6)) := (noted_breachAll r 6).trans (noted_trigger _)

theorem trigger_comms (s : State) : (trigger s).comms = s.comms := by rw [trigger_only]

/-- A trip where the RCO can take over (R398, R399). -/
theorem switchClocks_ready {s u : State} (h : Tripped s u) (hb : s.clk.rcoBad = false) (hr : fallbackReady s = true)
    (m : Nat) (q : Bool) (t : State) (ht : t = switchClocks u m q) :
    t.clk.fallback = true ∧ t.clk.trips = satAdd 16 s.clk.trips 1 ∧ t.clk.fbFlush = s.glb.released ∧
      bitOf t.glb.istat 0 = true ∧ (∀ i ∈ liveComms s, (getComm t i).st = .breached) ∧ t.cmds = s.cmds ∧
      t.zones = s.zones ∧ t.sectors = s.sectors ∧ guarded t = guarded s := by
  obtain ⟨r, hf, he⟩ := enterFallback_eq u m q
  have hn : Noted r t := by
    rw [ht, switchClocks, h.rcoBad, hb, h.ready, hr]
    exact (show Noted r (enterFallback u m q) from he ▸ FellBack.noted r)
  have hc (i : Nat) : getComm t i = getComm (breachAll r 6) i := by
    rw [ht, switchClocks, h.rcoBad, hb, h.ready, hr]
    show tget _ (enterFallback u m q).comms i = _
    rw [he, trigger_comms]; rfl
  have hu := h.eq
  have hio : ioView r = ioView s := hf.io.trans (by rw [hu]; rfl)
  refine ⟨by rw [hn.clk, hf.fallback], by rw [hn.clk, hf.trips, h.trips], by rw [hn.clk, hf.fbFlush, h.released],
    hn.bits 0 (hf.bits 0 h.shown), fun i hi => ?_, hn.cmds.trans (congrArg IoView.cmds hio),
    hn.zones.trans (congrArg IoView.zones hio), hn.sectors.trans (congrArg IoView.sectors hio),
    hn.guarded.trans (hf.guarded.trans (by rw [hu]; rfl))⟩
  rw [hc]
  refine breachAll_breaches r 6 i ?_
  have hl : r.comms = s.comms := hf.comms.trans (by rw [hu])
  rwa [liveComms, hl]

/-- A trip where the RCO does not run yet (R398). -/
theorem switchClocks_stopped {s u : State} (h : Tripped s u) (hb : s.clk.rcoBad = false) (hr : fallbackReady s = false)
    (m : Nat) (q : Bool) (t : State) (ht : t = switchClocks u m q) :
    t.clk.stopped = true ∧ t.clk.fallback = s.clk.fallback ∧ t.cmds = s.cmds ∧ t.zones = s.zones ∧
      t.sectors = s.sectors := by
  have he : t = if q = true then fedClockLost { u with clk := { u.clk with stopped := true } }
      else { u with clk := { u.clk with stopped := true } } := by
    rw [ht, switchClocks, h.rcoBad, hb, h.ready, hr]; rfl
  have hu := h.eq
  have hc : u.cmds = s.cmds := by rw [hu]
  have hz : u.zones = s.zones := by rw [hu]
  have hs : u.sectors = s.sectors := by rw [hu]
  cases q with
  | false => rw [he]; exact ⟨rfl, h.fallback, hc, hz, hs⟩
  | true =>
    obtain ⟨f, b, v, hf, -⟩ := fedClockLost_eq { u with clk := { u.clk with stopped := true } }
    rw [he, if_pos rfl, hf]
    exact ⟨rfl, h.fallback, hc, hz, hs⟩

/-- A trip where the RCO is bad too (R400 step 4). -/
theorem switchClocks_failed {s u : State} (h : Tripped s u) (hb : s.clk.rcoBad = true) (m : Nat) (q : Bool) (t : State)
    (ht : t = switchClocks u m q) : t.boot.phase = .rcoFail ∧ t.clk.rcoFail = true ∧ IslandsReset s t := by
  have he : t = rcoFailure u := by rw [ht, switchClocks, h.rcoBad, hb]; rfl
  have hr : IslandsReset u t := by
    rw [he]; exact { deviceClear_resets u with }
  have hu := h.eq
  refine ⟨by rw [he]; rfl, by rw [he]; rfl, ?_⟩
  obtain ⟨h1, h2, h3, h4, h5, h6, h7, h8, h9, h10, h11, h12⟩ := hr
  exact ⟨h1, h2, h3, h4, h5, h6, h7, h8.trans (by rw [hu]), h9.trans (by rw [hu]), h10.trans (by rw [hu]),
    h11.trans (by rw [hu]), h12.trans (by rw [hu]; rfl)⟩

/-! ### A channel lost, the orderly flush and the statements -/

theorem getChan_of_platform {s t : State} (h : platform t = platform s) (n : Nat) : getChan t n = getChan s n := by
  have hc : t.chans = s.chans := congrArg Platform.chans h
  rw [getChan, getChan, hc]

/-- A lost channel is out of service: state 3 (R253). -/
theorem channelLost_state (s : State) (ch : Nat) : (getChan (channelLost s ch) ch).state = 3 := by
  unfold channelLost
  dsimp only
  generalize hv : ({ getChan s ch with
    state := 3, degraded := true, retrain := false, rate := 0, presets := [], stepPend := false
    making := false, full := false } : Chan) = v
  have h3 : v.state = 3 := by rw [← hv]
  have hne : v ≠ {} := fun e => by rw [e] at h3; cases h3
  generalize (if chanDegraded (getChan s ch) = true then s else glbSet s 12) = s0
  rw [getChan_of_platform (s := setChan s0 ch v) (by simp), getChan_setChan_same _ _ _ hne, h3]

/-- The orderly flush that follows a switch to the fallback clocks (R399). -/
theorem orderlyFlush_next {s : State} (hf : s.clk.fbFlush = true) (hd : s.clk.fbDone = false)
    (hs : inService s = true) (hb : s.hold.brace = false) (hc : ∀ kv ∈ s.cmds, kv.2.phase ≠ .started) :
    ∃ t, exec .orderlyFlushComplete s = .next t ∧ t.clk.fbDone = true ∧ t.glb.adminOnly = true ∧
      fetchStopped t = true ∧ guarded t = guarded s := by
  have hany : s.cmds.any (fun kv => kv.2.phase == .started) = false := by
    rw [List.any_eq_false]; exact fun kv hkv => by simpa using hc kv hkv
  have hgo : (!s.clk.fbFlush || s.clk.fbDone || !(inService s) || s.hold.brace ||
      s.cmds.any (fun kv => kv.2.phase == .started)) = false := by rw [hf, hd, hs, hb, hany]; rfl
  have hg := execOrderlyFlushComplete_guarded s
  have he : exec .orderlyFlushComplete s = execOrderlyFlushComplete s := rfl
  unfold execOrderlyFlushComplete at he hg
  rw [hgo, if_neg Bool.false_ne_true] at he hg
  refine ⟨_, he, ?_, ?_, ?_, hg⟩
  · rw [trigger_only]
  · rw [trigger_only]
  · rw [trigger_only]; simp [fetchStopped]

/-- Settles O46: a trip is counted and shown, and `switchClocks` takes what the RCO allows. -/
theorem clocksFallBack : Obligations.ClocksFallBack := by
  intro s
  refine ⟨fun n gap hm hb => ?_, fun i hi => ?_, fun hl => ?_, fun ch h2 hps => ?_, orderlyFlush_next⟩
  · show (if (!monitorOn s) = true then _ else if (!countBad s n) = true then _ else _) = _
    rw [hm, hb]; rfl
  · have htrip : ∃ u m q, Tripped s u ∧ exec i s = .next (switchClocks u m q) := by
      rcases hi with ⟨n, gap, rfl, hm, hb⟩ | ⟨gap, rfl, hm⟩ | ⟨p, rfl, hp, hl⟩
      · obtain ⟨u, hu, he⟩ := monitorTrip_trips (some n) gap hm (fun k hk => Option.some.inj hk ▸ hb)
        exact ⟨u, 7, true, hu, he⟩
      · obtain ⟨u, hu, he⟩ := monitorTrip_trips none gap hm (by simp)
        exact ⟨u, 7, true, hu, he⟩
      · exact lossOfLock_trips hp hl
    obtain ⟨u, m, q, hu, he⟩ := htrip
    exact ⟨fun hb hr => ⟨_, he, switchClocks_ready hu hb hr m q _ rfl⟩,
      fun hb hr => ⟨_, he, switchClocks_stopped hu hb hr m q _ rfl⟩,
      fun hb => ⟨_, he, switchClocks_failed hu hb m q _ rfl⟩⟩
  · show (if (!bitOf s.clk.lock 3) = true then _ else _) = _
    rw [hl]; rfl
  · refine ⟨channelLost s ch, ?_, channelLost_state s ch, channelLost_guarded s ch⟩
    show (if _ then ok s else ok (channelLost s ch)) = _
    rw [if_neg (by simp [h2, hps])]
    rfl

/-- Settles O47: each service changes the clocks' own state alone, and a fault of the RCO is shown and recorded. -/
theorem clockServicesRun : Obligations.ClockServicesRun := by
  intro s
  refine ⟨fun n hm hmode => ?_, fun hp => ?_, fun i hi => ?_, fun n hf => ⟨fun hr => ?_, fun hr => ?_⟩⟩
  · have he : exec (.rcoFaultJudged n) s = .next (devRec (glbSet { s with clk := { s.clk with
        rcoBad := true, monMode := true, lastCnt := satTo 16 n } } 0) 0xA0 6 0 0 n) := by
      show (if (!monitorOn s || s.clk.monMode) = true then _ else _) = _
      rw [hm, hmode]; rfl
    have hn := noted_devRec (glbSet { s with clk := { s.clk with
      rcoBad := true, monMode := true, lastCnt := satTo 16 n } } 0) 0xA0 6 0 0 n
    refine ⟨_, he, hn.clk, hn.bits 0 (glbSet_shown _ 0), (patina_quiet _ _ (show 6 ≠ 7 by decide)).2, hn.cmds, hn.zones, hn.sectors⟩
  · show (if (s.boot.phase != .rcoFail) = true then _ else _) = _
    rw [hp]; rfl
  · show (if islandUp s i = true then _ else _) = _
    rw [hi]; rfl
  · show (if (!s.clk.fRun) = true then _ else if (!refRuns s s.clk.fOn.2) = true then _ else _) = _
    rw [hf, hr]; rfl
  · show (if (!s.clk.fRun) = true then _ else if (!refRuns s s.clk.fOn.2) = true then _ else _) = _
    rw [hf, hr]; rfl

end Sys2Proof.Machine
end
section
/-! PROOFS. The sideband's answers. -/

namespace Sys2Proof.Machine

/-- An MCTP command that is served is its body's answer. -/
theorem mctp_served {s : State} (h : mctpUp s = true) (body : State → State) : mctp true s body = .next (body s) := by
  rw [mctp, h]; rfl

theorem miHealth_served {s : State} (h : mctpUp s = true) : miHealth s = (s.thm.composite, critWarn s 0 0, spareShare s 0) :=
  if_pos h

/-- Identifiers of a function (R72): those of a PF0 and of a VF differ. -/
theorem miController_eq (s : State) (c : Nat) : miController s c = [⟨0, 1, c / 64⟩,
    ⟨8, 2, if c % 64 = 0 then 0x1EA7 else 0xFFFF⟩, ⟨10, 2, if c % 64 = 0 then 0x0A24 else 0x0A25⟩, ⟨12, 2, 0x1EA7⟩,
    ⟨14, 2, 0x0024⟩] := by
  by_cases h : c % 64 = 0
  · simp [miController, identity, isPf0, fnOf, portOf, h]
  · simp [miController, identity, isPf0, fnOf, portOf, h]

section
variable {s : State} (h : mctpUp s = true)
include h

theorem readStructure_served (o d c : Nat) : exec (.readNvmeMiDataStructure true o d c) s = .next
    (if o ≠ 0 then miAnswer s 3 []
    else if d = 3 then if fnExists s c = true then miAnswer s 0 (miController s c) else miAnswer s 4 []
    else if d = 0 then miAnswer s 0 [⟨0, 1, b2n (portPresent s 1)⟩, ⟨1, 1, 1⟩, ⟨2, 1, 2⟩]
    else if d = 1 then miAnswer s 0 [⟨0, 1, 1⟩, ⟨2, 2, s.glb.miMtu⟩]
    else if d = 2 then miAnswer s 0 (ctrlList (liveFns s))
    else if d = 4 then miAnswer s 0 [] else miAnswer s 4 []) := by
  show execReadNvmeMiDataStructure true o d c s = _
  rw [execReadNvmeMiDataStructure, mctp_served h]
  by_cases ho : o = 0
  · subst ho
    match d with
    | 0 | 1 | 2 | 3 | 4 | n + 5 => simp
  · simp [ho]

theorem vpdRead_served (o l : Nat) : exec (.vpdRead true o l) s = .next
    (miAnswer s 0 ((List.range l).map (fun j => ⟨j, 1, Config.vpdByte (o + j)⟩))) := by
  show execVpdRead true o l s = _
  rw [execVpdRead, mctp_served h]

theorem health_served : exec (.nvmSubsystemHealthStatusPoll true) s = .next
    (miAnswer s 0 [⟨0, 1, miFlags s⟩, ⟨1, 1, 255 - critWarn s 0 0 % 256⟩, ⟨2, 1, min 126 (s.thm.composite - 273)⟩,
      ⟨3, 1, 100 - spareShare s 0⟩]) := by
  show execNvmSubsystemHealthStatusPoll true s = _
  rw [execNvmSubsystemHealthStatusPoll, mctp_served h, miHealth_served h]

theorem controllerHealth_served {c : Nat} (hc : fnExists s c = true) :
    ∃ l, exec (.controllerHealthStatusPoll true c) s = .next (miAnswer s 0 l) ∧
      ⟨4, 2, s.thm.composite⟩ ∈ l ∧ ⟨2, 2, b2n (getCtrl s c).rdy + 4 * (getCtrl s c).shst⟩ ∈ l := by
  have he : exec (.controllerHealthStatusPoll true c) s = execControllerHealthStatusPoll true c s := rfl
  rw [execControllerHealthStatusPoll, mctp_served h, hc] at he
  exact ⟨_, he, by simp, by simp⟩

theorem controllerHealth_refused {c : Nat} (hc : fnExists s c = false) :
    exec (.controllerHealthStatusPoll true c) s = .next (miAnswer s 4 []) := by
  show execControllerHealthStatusPoll true c s = _
  rw [execControllerHealthStatusPoll, mctp_served h, hc]; rfl

theorem configurationGet_served (d : Nat) : exec (.configurationGet true d) s = .next
    (if d = 1 then miAnswer s 0 [⟨0, 1, s.glb.miFreq⟩] else if d = 3 then miAnswer s 0 [⟨0, 2, s.glb.miMtu⟩]
    else miAnswer s 4 []) := by
  show execConfigurationGet true d s = _
  rw [execConfigurationGet, mctp_served h]
  match d with
  | 0 | 1 | 2 | 3 | n + 4 => simp

theorem configurationSet_served (d v : Nat) : exec (.configurationSet true d v) s = .next
    (if d = 1 then
      if 1 ≤ v ∧ v ≤ 3 then miAnswer { s with glb := { s.glb with miFreq := v } } 0 [] else miAnswer s 4 []
    else if d = 3 then
      if 64 ≤ v ∧ v ≤ 250 then miAnswer { s with glb := { s.glb with miMtu := v } } 0 [] else miAnswer s 4 []
    else miAnswer s 4 []) := by
  show execConfigurationSet true d v s = _
  rw [execConfigurationSet, mctp_served h]
  match d with
  | 0 | 1 | 2 | 3 | n + 4 => simp [between]

/-- Of the tunnelled commands Get Log Page, Identify and Get Features alone are served (R95). -/
theorem tunnelled_served (o : Nat) (r : LogReq) :
    ∃ st l, exec (.tunnelledAdminCommand true o r) s = .next (miAnswer s st l) ∧
      (o ∉ [2, 6, 0xA] → st = 3 ∧ l = []) ∧ (o ∈ [2, 6, 0xA] → st = 0 ∧ l ≠ []) := by
  have he : exec (.tunnelledAdminCommand true o r) s = execTunnelledAdminCommand true o r s := rfl
  rw [execTunnelledAdminCommand, mctp_served h] at he
  dsimp only at he
  split at he
  · exact ⟨_, _, he, by simp, by simp⟩
  · exact ⟨_, _, he, by simp, by simp⟩
  · exact ⟨_, _, he, by simp, by simp⟩
  next h2 h6 ha => exact ⟨_, _, he, by simp, by simpa using ⟨h2, h6, ha⟩⟩

end

/-- Settles O53: a bad PEC is dropped, and a command that is served gets its body's answer. -/
theorem sidebandAnswers : Obligations.SidebandAnswers := by
  intro s ans mi
  refine ⟨fun i hi => ?_, fun hb => ?_, fun h => ⟨fun o d c ho => ?_, fun c => readStructure_served h 0 0 c,
    fun c => readStructure_served h 0 2 c, fun c hc => ?_, fun c hc => ?_, health_served h,
    fun c hc => controllerHealth_served h hc, fun c hc => controllerHealth_refused h hc, configurationGet_served h 1,
    configurationGet_served h 3, fun v h1 h3 => ?_, fun v h1 h3 => ?_, fun d v h1 h3 => ?_, vpdRead_served h,
    tunnelled_served h⟩⟩
  · rcases hi with rfl | ⟨o, d, c, rfl⟩ | rfl | ⟨c, rfl⟩ | ⟨d, rfl⟩ | ⟨d, v, rfl⟩ | ⟨o, l, rfl⟩ | ⟨o, r, rfl⟩
    all_goals rfl
  · show (if (!true || !basicUp s) = true then _ else _) = _
    rw [hb]; rfl
  · rw [readStructure_served h, if_pos ho]; rfl
  · rw [readStructure_served h, if_neg (by decide), if_pos rfl, if_pos hc, miController_eq]; rfl
  · rw [readStructure_served h, if_neg (by decide), if_pos rfl, if_neg (by simp [hc])]; rfl
  · rw [configurationSet_served h, if_pos rfl, if_pos ⟨h1, h3⟩]; rfl
  · rw [configurationSet_served h, if_neg (by decide), if_pos rfl, if_pos ⟨h1, h3⟩]; rfl
  · rw [configurationSet_served h, if_neg h1, if_neg h3]; rfl

end Sys2Proof.Machine
end
section
/-! PROOFS. A flush that begins while a zone waits for its write slot: the write is discarded, the zone becomes Full and its
change is listed for its namespace, so the statements that keep every namespace as it was fail. -/

namespace Sys2Proof.Machine

/-- A device in service whose zone 0 of slot 0 is to be finished by the controller once the started write of command 0 gives
its write slot back (R171). -/
def finishing : State :=
  { glb := { released := true }
    boot := { phase := .released }
    cmds := [(0, { phase := .started, wslot := true, zone := some 0 })]
    zones := [(zk 0 0, { st := .implicit, finPend := true })] }

/-- The namespaces of the next state. -/
def nextNs : Out → Option (List (Nat × Ns))
  | .next t => some t.ns
  | _ => none

theorem flushBegun_ns {i : Instr} {s t : State} {ph : Phase} (he : exec i s = .next t) (h : FlushBegun s t ph) :
    nextNs (exec i s) = some s.ns := by rw [he, nextNs, h.ns]

/-- Refutes O36: both PERST# low begin the reset flush, whose discard of the write finishes the zone that waits for its slot
and lists its change for the namespace. -/
theorem not_deviceWarmResets : ¬ Obligations.DeviceWarmResets := by
  intro h
  obtain ⟨hflush, -⟩ := h { finishing with board := { straps := ⟨0, 1, 0, 0, 0, 0⟩ } }
  obtain ⟨t, he, hb, -⟩ := hflush 0 1 .bothPerstLow (by decide) (by decide)
  exact absurd (flushBegun_ns he hb) (by decide +kernel)

/-- Refutes O40: the sixteenth recovery within a second begins the flush, whose discard of the write finishes the zone that
waits for its slot and lists its change for the namespace. -/
theorem not_supplyFailureBraces : ¬ Obligations.SupplyFailureBraces := by
  intro h
  obtain ⟨-, -, -, hassert⟩ := h { finishing with hold := { recovered := List.replicate 16 0 } }
  obtain ⟨-, -, -, hflush, -⟩ := hassert (by decide)
  obtain ⟨t, he, -, hb⟩ := hflush (by decide) (by decide) (by decide) (by decide)
  exact absurd (flushBegun_ns he hb) (by decide +kernel)

/-- Refutes O41: a brace timer that expires with the supply low begins the flush, whose discard of the write finishes the zone
that waits for its slot and lists its change for the namespace. -/
theorem not_braceEndsOrFlushes : ¬ Obligations.BraceEndsOrFlushes := by
  intro h
  obtain ⟨-, hflush, -⟩ := h { finishing with board := { pfail := true }, hold := { brace := true } } (by decide)
  obtain ⟨t, he, hb⟩ := hflush (by decide)
  exact absurd (flushBegun_ns he hb) (by decide +kernel)

/-- Refutes O50: the PCIe rail's fault begins the flush, whose discard of the write finishes the zone that waits for its slot
and lists its change for the namespace. -/
theorem not_railsRiseAndFail : ¬ Obligations.RailsRiseAndFail := by
  intro h
  obtain ⟨-, -, -, -, -, hflush, -⟩ := h { finishing with board := { railEn := 255, pg := 255 } }
  obtain ⟨t, he, hb, -⟩ := hflush .pcie (by decide) (by decide) (by decide) (by decide) (by decide) (by decide)
  exact absurd (flushBegun_ns he hb) (by decide +kernel)

/-- Refutes O52: the service watchdog begins the reset flush, whose discard of the write finishes the zone that waits for its
slot and lists its change for the namespace. -/
theorem not_systemIsChosenMountedReleased : ¬ Obligations.SystemIsChosenMountedReleased := by
  intro h
  obtain ⟨-, -, -, -, hflush⟩ := h finishing
  obtain ⟨t, he, hb, -⟩ := hflush (by decide)
  exact absurd (flushBegun_ns he hb) (by decide +kernel)

end Sys2Proof.Machine
end
section
/-! PROOFS. Start-up from the RCO to the islands out of reset. -/

namespace Sys2Proof.Machine

/-! ### The source's start-up test (R305, R306) -/

/-- A reset of the islands that leaves another phase and the charger off. -/
theorem haltReset_resets (s : State) : IslandsReset s (haltReset s) := { deviceClear_resets s with }

/-- Events raised change the controllers' own state and their waiting entries alone. -/
theorem pumpEvs_only (c n : Nat) (s : State) : ∃ a b, pumpEvs s c n = { s with ctrls := a, cqs := b } := by
  induction n generalizing s with
  | zero => exact ⟨s.ctrls, s.cqs, rfl⟩
  | succ n ih =>
    unfold pumpEvs
    dsimp only
    split
    · obtain ⟨a, b, h⟩ := ih _
      exact ⟨a, b, h⟩
    · exact ⟨s.ctrls, s.cqs, rfl⟩

theorem raiseOn_only (s : State) (c : Nat) (e : Ev) : ∃ a b, raiseOn s c e = { s with ctrls := a, cqs := b } := by
  unfold raiseOn
  dsimp only
  generalize (if (getCtrl s c).waitLog.any (sameKind e) = true then 1 else 2) = lim
  split
  · obtain ⟨a, b, h⟩ := pumpEvs_only c 8 (setCtrl s c { getCtrl s c with evs := (getCtrl s c).evs ++ [e] })
    exact ⟨a, b, h⟩
  · exact pumpEvs_only c 8 s

theorem raiseAll_only (s : State) (cs : List Nat) (e : Ev) : ∃ a b, raiseAll s cs e = { s with ctrls := a, cqs := b } := by
  unfold raiseAll
  induction cs generalizing s with
  | nil => exact ⟨s.ctrls, s.cqs, rfl⟩
  | cons c r ih =>
    obtain ⟨a, b, h⟩ := raiseOn_only s c e
    obtain ⟨a', b', h'⟩ := ih (raiseOn s c e)
    exact ⟨a', b', by rw [List.foldl_cons, h', h]⟩

theorem raiseAll_pat (s : State) (cs : List Nat) (e : Ev) : (raiseAll s cs e).pat = s.pat := by
  obtain ⟨a, b, h⟩ := raiseAll_only s cs e
  rw [h]

theorem glbSet_pat (s : State) (b : Nat) : (glbSet s b).pat = s.pat := rfl

theorem patNew_pat (s : State) (v : Nat) : (patNew s v).pat = s.pat := by
  unfold patNew
  split
  · rw [glbSet_pat, raiseAll_pat]
  · rfl

theorem patWrite_events (s : State) (r : PatRec) : (patWrite s r).pat.events = s.pat.events + 1 := by
  unfold patWrite
  dsimp only
  split
  · rw [patNew_pat]; rfl
  · split
    · rw [patNew_pat]; rfl
    · rfl

/-- Every record asked for is one more event (R441). -/
theorem patina_events (s : State) (r : PatReq) : (patina s r).pat.events = s.pat.events + 1 := by
  unfold patina patStore
  split
  · split
    · rfl
    · exact patWrite_events s _
  · exact patWrite_events s _

/-- One of the failures the start-up test counts. -/
def countFail (s : State) (repetition : Bool) : State := if s.cipher.trng == 3 then s else sourceFails s repetition

theorem countFails_failed {s : State} (h : s.cipher.trng = 3) (l : List Bool) : l.foldl countFail s = s := by
  induction l with
  | nil => rfl
  | cons r l ih => rw [List.foldl_cons, show countFail s r = s by simp [countFail, h], ih]

/-- A failure short of the third restarts the source. -/
theorem countFail_early {s : State} (r : Bool) (h : s.cipher.trng ≠ 3) (hn : s.cipher.trngFails + 1 < 3) :
    ∃ x : Cipher, countFail s r = { s with cipher := x } ∧ x.trng ≠ 3 ∧ x.trngFails = s.cipher.trngFails + 1 := by
  have hn' : ¬ 3 ≤ s.cipher.trngFails + 1 := by omega
  refine ⟨_, by simp only [countFail, sourceFails, beq_iff_eq, if_neg h, if_neg hn']; rfl, by simp, rfl⟩

/-- The third failure in a row takes the source out of service, shown and recorded (R306). -/
theorem countFail_third {s : State} (r : Bool) (h : s.cipher.trng ≠ 3) (hn : 3 ≤ s.cipher.trngFails + 1) :
    (countFail s r).cipher.trng = 3 ∧ (countFail s r).pat.events = s.pat.events + 1 ∧
      bitOf (countFail s r).glb.istat 7 = true := by
  unfold countFail sourceFails
  simp only [beq_iff_eq, if_neg h, if_pos hn]
  have hr (u : State) : Noted u (devRec u 0x70 7) := noted_devRec u _ _ _ _ _
  exact ⟨by rw [(hr _).cipher]; rfl, patina_events _ _, (hr _).bits 7 (glbSet_shown _ 7)⟩

/-- Fewer than three failures in a row leave the source to be tested again. -/
theorem countFails_early (l : List Bool) (s : State) (h : s.cipher.trng ≠ 3) (hn : l = [] ∨ s.cipher.trngFails + l.length < 3) :
    ∃ x : Cipher, l.foldl countFail s = { s with cipher := x } ∧ x.trng ≠ 3 := by
  induction l generalizing s with
  | nil => exact ⟨s.cipher, rfl, h⟩
  | cons r l ih =>
    have hn : s.cipher.trngFails + (l.length + 1) < 3 := by simpa using hn
    obtain ⟨x, hx, ht, hf⟩ := countFail_early r h (by omega)
    obtain ⟨y, hy, hyt⟩ := ih (countFail s r) (by rw [hx]; exact ht) (.inr (by rw [hx]; show x.trngFails + _ < 3; omega))
    exact ⟨y, by rw [List.foldl_cons, hy, hx], hyt⟩

theorem countFails_third (l : List Bool) (s : State) (h : s.cipher.trng ≠ 3) (hne : l ≠ [])
    (hn : 3 ≤ s.cipher.trngFails + l.length) :
    (l.foldl countFail s).cipher.trng = 3 ∧ (l.foldl countFail s).pat.events = s.pat.events + 1 ∧
      bitOf (l.foldl countFail s).glb.istat 7 = true := by
  induction l generalizing s with
  | nil => exact absurd rfl hne
  | cons r l ih =>
    have hn : 3 ≤ s.cipher.trngFails + (l.length + 1) := hn
    rw [List.foldl_cons]
    by_cases h3 : 3 ≤ s.cipher.trngFails + 1
    · have h3 := countFail_third r h h3
      rwa [countFails_failed h3.1]
    · obtain ⟨x, hx, ht, hf⟩ := countFail_early r h (by omega)
      have hl : l ≠ [] := by rintro rfl; simp at hn; omega
      have := ih (countFail s r) (by rw [hx]; exact ht) hl (by rw [hx]; show 3 ≤ x.trngFails + _; omega)
      rwa [show (countFail s r).pat = s.pat by rw [hx]] at this

theorem testSource_eq {s : State} (fails : List Bool) (h : s.cipher.trng ≠ 3) :
    testSource s fails = if ((fails.take 3).foldl countFail s).cipher.trng = 3 then (fails.take 3).foldl countFail s
      else sourcePasses ((fails.take 3).foldl countFail s) := by
  have hf : (fails.take 3).foldl (fun a r => if a.cipher.trng == 3 then a else sourceFails a r) s =
      (fails.take 3).foldl countFail s := rfl
  unfold testSource
  rw [hf]
  simp only [beq_iff_eq, if_neg h]

theorem testSource_failed {s : State} (fails : List Bool) (h : s.cipher.trng = 3) : testSource s fails = s := by
  simp [testSource, h]

theorem testSource_passes {s : State} {fails : List Bool} (h : s.cipher.trng ≠ 3)
    (hn : fails = [] ∨ s.cipher.trngFails + fails.length < 3) :
    ∃ x : Cipher, testSource s fails = { s with cipher := x } ∧ x.trng = 1 ∧ x.trngFails = 0 := by
  have hl : fails.take 3 = fails := List.take_of_length_le (by rcases hn with rfl | hn; exacts [Nat.zero_le 3, by omega])
  obtain ⟨x, hx, ht⟩ := countFails_early fails s h hn
  rw [testSource_eq fails h, hl, hx, if_neg ht]
  exact ⟨_, rfl, rfl, rfl⟩

theorem testSource_fails {s : State} {fails : List Bool} (h : s.cipher.trng ≠ 3) (hne : fails ≠ [])
    (hn : 3 ≤ s.cipher.trngFails + fails.length) : (testSource s fails).cipher.trng = 3 ∧
      (testSource s fails).pat.events = s.pat.events + 1 ∧ bitOf (testSource s fails).glb.istat 7 = true := by
  have ht := countFails_third (fails.take 3) s h (by simp [hne]) (by rw [List.length_take]; omega)
  rw [testSource_eq fails h, if_pos ht.1]
  exact ht

/-- The islands out of reset with the source tested as `u` has it. -/
def islandsUp (u : State) : State :=
  let t := startDrbg u
  { goto_ t .choice with pm := operationalDomains t t.pm, clk := liveClocks t.clk }

theorem islandsUp_shows (u : State) : (islandsUp u).boot.phase = .choice ∧ (islandsUp u).cipher.drbg = 1 ∧
    (islandsUp u).board = u.board ∧ (islandsUp u).clk.fence = [] ∧ (islandsUp u).pm.domCore = true ∧
    (islandsUp u).pm.domXcr = true ∧ (islandsUp u).cipher.trng = u.cipher.trng ∧
    (islandsUp u).cipher.trngFails = u.cipher.trngFails ∧ (islandsUp u).cipher.seedSrc = (u.cipher.trng == 3) ∧
    (islandsUp u).pat = u.pat ∧ (islandsUp u).glb = u.glb ∧ (islandsUp u).sectors = u.sectors := by
  unfold islandsUp startDrbg
  have hc (c : Clk) : (liveClocks c).fence = [] := by unfold liveClocks; split <;> rfl
  cases h : u.cipher.trng == 3 with
  | true => exact ⟨rfl, rfl, rfl, hc _, rfl, rfl, rfl, rfl, rfl, rfl, rfl, rfl⟩
  | false => exact ⟨rfl, rfl, rfl, hc _, rfl, rfl, rfl, rfl, rfl, rfl, rfl, rfl⟩

theorem noted_countFail_sectors (s : State) (r : Bool) : (countFail s r).sectors = s.sectors ∧
    (countFail s r).board = s.board := by
  unfold countFail sourceFails
  dsimp only
  split
  · exact ⟨rfl, rfl⟩
  · split
    · have hr (u : State) : Noted u (devRec u 0x70 7) := noted_devRec u _ _ _ _ _
      exact ⟨(hr _).sectors, (hr _).board⟩
    · exact ⟨rfl, rfl⟩

theorem testSource_sectors (s : State) (fails : List Bool) : (testSource s fails).sectors = s.sectors ∧
    (testSource s fails).board = s.board := by
  by_cases h : s.cipher.trng = 3
  · rw [testSource_failed fails h]; exact ⟨rfl, rfl⟩
  · have hl (l : List Bool) : (l.foldl countFail s).sectors = s.sectors ∧ (l.foldl countFail s).board = s.board := by
      induction l using List.reverseRecOn with
      | nil => exact ⟨rfl, rfl⟩
      | append_singleton l r ih =>
        have hr := noted_countFail_sectors (l.foldl countFail s) r
        rw [List.foldl_append]
        exact ⟨hr.1.trans ih.1, hr.2.trans ih.2⟩
    rw [testSource_eq fails h]
    split
    · exact hl _
    · exact hl _

/-- The islands leave reset (R305 to R307, R389). -/
theorem islandsOutOfReset_next {s : State} (fails : List Bool) (hp : s.boot.phase = .islands) :
    exec (.islandsOutOfReset fails) s = .next (islandsUp (testSource (if s.board.chgEn then s else chargerOn s) fails)) := by
  show (if (s.boot.phase != .islands) = true then _ else _) = _
  rw [hp]; rfl

/-! ### The exit from PS4 (R422) -/

theorem leaveLow_released (s : State) (src : Nat) :
    (leaveLow s src).boot.phase = .released ∧ (leaveLow s src).pm.entry = .none := by
  unfold leaveLow
  dsimp only
  generalize missedLow _ = s1
  rw [trigger_only]
  refine ⟨rfl, ?_⟩
  show (withAssist _ _ _).entry = _
  unfold withAssist
  dsimp only
  split <;> rfl

theorem exitPs4_boots {s : State} (src : Nat) (h : fwCheck (fwImg s s.boot.fwSlot) s.board.fuses s.board.fuses.fwFloor = 0) :
    exitPs4 s src = leaveLow s src := by
  unfold exitPs4
  dsimp only
  rw [h, beq_self_eq_true, if_pos rfl]

/-- What the exit does on a device out of PS4 whose XO is gone. -/
def outOnFallback (t : State) : State :=
  if absorbs t then { t with clk := { t.clk with fallback := true } }
  else enterFallback { t with clk := { t.clk with xoOk := false } } 7 true

theorem exitOnFallback_eq (s : State) : exitOnFallback s = outOnFallback (exitPs4 s 3) := by
  delta exitOnFallback outOnFallback
  rfl

theorem outOnFallback_released {u : State} (hl : u.boot.phase = .released) :
    (outOnFallback u).boot = u.boot ∧ (outOnFallback u).pm = u.pm ∧
      (outOnFallback u).clk.fallback = true ∧ (outOnFallback u).clk.xoOk = false := by
  have ha : absorbs u = false := by rw [absorbs, hl]
  obtain ⟨r, hf, he⟩ := enterFallback_eq { u with clk := { u.clk with xoOk := false } } 7 true
  have hn := FellBack.noted r
  unfold outOnFallback
  rw [ha, if_neg Bool.false_ne_true, he]
  exact ⟨by rw [hn.boot, hf.boot], by rw [hn.pm, hf.pm], by rw [hn.clk, hf.fallback], by rw [hn.clk, hf.xoOk]⟩

/-- With the XO gone the device leaves PS4 on the fallback clocks. -/
theorem exitOnFallback_state {s : State} (h : fwCheck (fwImg s s.boot.fwSlot) s.board.fuses s.board.fuses.fwFloor = 0) :
    (exitOnFallback s).boot.phase = .released ∧ (exitOnFallback s).pm.entry = .none ∧
      (exitOnFallback s).clk.fallback = true ∧ (exitOnFallback s).clk.xoOk = false := by
  obtain ⟨hp, he⟩ := leaveLow_released s 3
  rw [exitOnFallback_eq, exitPs4_boots 3 h]
  obtain ⟨hb, hm, hf, hx⟩ := outOnFallback_released hp
  exact ⟨by rw [hb, hp], by rw [hm, he], hf, hx⟩

/-! ### The parts of the statement -/

section
variable {s : State}

theorem rcoStable_sampling {st : Straps} (hp : s.boot.phase = .rco ∨ (s.boot.phase = .rcoFail ∧ s.clk.stopped = false)) :
    exec (.rcoStable st) s = .next (takeStraps s st) := by
  show execRcoStable st s = _
  unfold execRcoStable
  rcases hp with hp | ⟨hp, hs⟩
  · rw [hp]; rfl
  · simp only [hp, hs]; rfl

theorem takeStraps_supplied (st : Straps) (hf : s.board.pfail = false) :
    let t := takeStraps s st
    (s.boot.warm = false → t.boot.phase = .fuse ∧ t.board.straps = st) ∧
      (s.boot.warm = true → t.boot.phase = .xo ∧ t.board.straps = s.board.straps ∧ t.boot.warm = false) ∧
      t.board.fuses = s.board.fuses ∧ t.board.chgEn = true ∧ t.clk = { s.clk with rcoRun := true } ∧
      t.sectors = s.sectors ∧ guarded t = guarded s := by
  unfold takeStraps
  dsimp only
  rw [hf, if_neg Bool.false_ne_true]
  cases hw : s.boot.warm <;> cases hc : s.board.chgEn
  all_goals simp [chargerOn, goto_]

theorem takeStraps_failed (st : Straps) (hf : s.board.pfail = true) : (takeStraps s st).boot.phase = .halted ∧
    (takeStraps s st).board.chgEn = false ∧ IslandsReset s (takeStraps s st) := by
  unfold takeStraps
  dsimp only
  rw [hf, if_pos rfl]
  exact ⟨rfl, rfl, { haltReset_resets _ with }⟩

theorem rcoStable_stopped (st : Straps) (hp : s.boot.phase = .released) (hs : s.clk.stopped = true) :
    ∃ t, exec (.rcoStable st) s = .next t ∧ t.clk.fallback = true ∧ t.clk.stopped = false ∧ t.cmds = s.cmds ∧
      t.sectors = s.sectors ∧ guarded t = guarded s := by
  have he : exec (.rcoStable st) s = .next (enterFallback s 7 true) := by
    show execRcoStable st s = _
    unfold execRcoStable
    simp only [hp, hs]; rfl
  obtain ⟨r, hf, hr⟩ := enterFallback_eq s 7 true
  have hn := FellBack.noted r
  rw [← hr] at hn
  exact ⟨_, he, by rw [hn.clk, hf.fallback], by rw [hn.clk, hf.stopped], hn.cmds.trans (congrArg IoView.cmds hf.io),
    hn.sectors.trans (congrArg IoView.sectors hf.io), hn.guarded.trans hf.guarded⟩

theorem fuseRise_rankEn (a b : Fuses) (i : Nat) (h : bitOf a.rankEn i = true) : bitOf (fuseRise a b).rankEn i = true := by
  rw [bitOf_eq_testBit] at h ⊢
  show ((a.rankEn ||| b.rankEn).testBit i) = true
  rw [Nat.testBit_or, h, Bool.true_or]

theorem pllLock_pll {p : Pll} (hm : p ∈ [Pll.q, .d, .m]) (hp : s.boot.phase = .pll)
    (hd : bitOf s.boot.pllDone (pllBit p) = false) :
    let done := setBit s.boot.pllDone (pllBit p)
    let ph : Phase := if bitOf done 0 = true ∧ bitOf done 1 = true then .islands else .pll
    exec (.pllLock p) s = .next { s with
      boot := { s.boot with phase := ph, pllDone := done }
      clk := { s.clk with lock := setBit s.clk.lock (pllBit p) } } ∧
    (bitOf s.boot.pllTried (pllBit p) = false → exec (.pllLockTimeout p) s = .next { s with
      boot := { s.boot with pllTried := setBit s.boot.pllTried (pllBit p) } }) ∧
    (bitOf s.boot.pllTried (pllBit p) = true → exec (.pllLockTimeout p) s = .next { s with
      boot := { s.boot with phase := ph, pllDone := done }, glb := { s.glb with istat := setBit s.glb.istat 0 }
      clk := { s.clk with fallback := true, lock := setBit s.clk.lock 3 } }) := by
  have done_eq (u : State) (h : u.boot.phase = .pll) : pllsDone u = { u with boot := { u.boot with
      phase := if bitOf u.boot.pllDone 0 = true ∧ bitOf u.boot.pllDone 1 = true then .islands else .pll } } := by
    unfold pllsDone
    simp only [Bool.and_eq_true]
    split
    · rfl
    · rw [← h]
  have hlock : exec (.pllLock p) s = .next (pllsDone { s with
      boot := { s.boot with pllDone := setBit s.boot.pllDone (pllBit p) }
      clk := { s.clk with lock := setBit s.clk.lock (pllBit p) } }) := by
    simp only [List.mem_cons, List.not_mem_nil, or_false] at hm
    rcases hm with rfl | rfl | rfl
    all_goals
      show (if (s.boot.phase == .pll && !(bitOf s.boot.pllDone _)) = true then _ else _) = _
      rw [hp, hd]; rfl
  have hout : exec (.pllLockTimeout p) s = if (!(bitOf s.boot.pllTried (pllBit p))) = true then
      ok { s with boot := { s.boot with pllTried := setBit s.boot.pllTried (pllBit p) } }
      else ok (pllsDone (glbSet { s with
        boot := { s.boot with pllDone := setBit s.boot.pllDone (pllBit p) }
        clk := { s.clk with fallback := true, lock := setBit s.clk.lock 3 } } 0)) := by
    simp only [List.mem_cons, List.not_mem_nil, or_false] at hm
    rcases hm with rfl | rfl | rfl
    all_goals
      show (if (s.boot.phase != .pll || bitOf s.boot.pllDone _) = true then _ else _) = _
      rw [hp, hd]; rfl
  refine ⟨?_, fun ht => ?_, fun ht => ?_⟩
  · rw [hlock]
    exact congrArg Host.Outcome.next (done_eq _ hp)
  · rw [hout, ht]; rfl
  · rw [hout, ht]
    exact congrArg Host.Outcome.next (done_eq _ hp)

theorem pllLock_mCipher (h : mayLockM s = true) :
    exec (.pllLock .m) s = .next { s with clk := { s.clk with lock := setBit s.clk.lock 2 } } := by
  have hp : s.boot.phase ≠ .pll := by
    intro hp
    have : absorbs s = true := by rw [absorbs, hp]
    rw [mayLockM, this] at h
    simp at h
  show (if (s.boot.phase == .pll && !(bitOf s.boot.pllDone _)) = true then _ else if (Pll.m == .m && mayLockM s) = true then _
    else _) = _
  rw [beq_false_of_ne hp, h]
  rfl

theorem islandsOutOfReset_state (fails : List Bool) (hp : s.boot.phase = .islands) :
    ∃ t, exec (.islandsOutOfReset fails) s = .next t ∧
      t.boot.phase = .choice ∧ t.cipher.drbg = 1 ∧ t.board.chgEn = true ∧ t.clk.fence = [] ∧ t.pm.domCore = true ∧
      t.pm.domXcr = true ∧
      (s.cipher.trng ≠ 3 → fails = [] ∨ s.cipher.trngFails + fails.length < 3 →
        t.cipher.trng = 1 ∧ t.cipher.trngFails = 0 ∧ t.cipher.seedSrc = false ∧ t.pat = s.pat) ∧
      (s.cipher.trng ≠ 3 → fails ≠ [] → 3 ≤ s.cipher.trngFails + fails.length →
        t.cipher.trng = 3 ∧ t.cipher.seedSrc = true ∧ t.pat.events = s.pat.events + 1 ∧ bitOf t.glb.istat 7 = true) ∧
      (s.cipher.trng = 3 → t.cipher.trng = 3 ∧ t.cipher.seedSrc = true ∧ t.pat = s.pat) ∧ t.sectors = s.sectors ∧
      guarded t = guarded s := by
  have he := islandsOutOfReset_next fails hp
  have hg : OutAll (guarded · = guarded s) (exec (.islandsOutOfReset fails) s) :=
    execIslandsOutOfReset_guarded fails s
  rw [he] at hg
  have hu : ∃ u : State, (if s.board.chgEn then s else chargerOn s) = u ∧ u.board.chgEn = true ∧ u.cipher = s.cipher ∧
      u.pat = s.pat ∧ u.sectors = s.sectors := by
    split
    next hc => exact ⟨s, rfl, hc, rfl, rfl, rfl⟩
    next => exact ⟨_, rfl, rfl, rfl, rfl, rfl⟩
  obtain ⟨u, hueq, huc, hux, hup, hus⟩ := hu
  rw [hueq] at he hg
  obtain ⟨hph, hd, hb, hfence, hcore, hxcr, htr, htf, hsrc, hpat, hglb, hsec⟩ := islandsUp_shows (testSource u fails)
  obtain ⟨hts, htb⟩ := testSource_sectors u fails
  rw [← hux, ← hup, ← hus]
  refine ⟨_, he, hph, hd, by rw [hb, htb]; exact huc, hfence, hcore, hxcr, fun h hn => ?_, fun h hne hn => ?_, fun h => ?_,
    hsec.trans hts, hg⟩
  · obtain ⟨x, hx, h1, h0⟩ := testSource_passes h hn
    rw [htr, htf, hsrc, hpat, hx]
    exact ⟨h1, h0, by show (x.trng == 3) = false; rw [h1]; rfl, rfl⟩
  · obtain ⟨h3, hev, hbit⟩ := testSource_fails h hne hn
    rw [htr, hsrc, hpat, hglb]
    exact ⟨h3, by rw [h3]; rfl, hev, hbit⟩
  · rw [htr, hsrc, hpat, testSource_failed fails h, h]
    exact ⟨rfl, rfl, rfl⟩

end

/-- Settles O51, clause by clause along start-up. -/
theorem clocksStartAndIslandsLeaveReset : Obligations.ClocksStartAndIslandsLeaveReset := by
  intro s
  refine ⟨fun st hp => ⟨fun hf => ⟨_, rcoStable_sampling hp, takeStraps_supplied st hf⟩,
      fun hf => ⟨_, rcoStable_sampling hp, takeStraps_failed st hf⟩⟩,
    fun st hp hs => ?_, fun st => rcoStable_stopped st, fun hp => ?_, fun hp hs => ?_, fun f g hp => ⟨fun e => ?_, rfl, rfl, rfl,
      fuseRise_rankEn _ _, fun hne => ?_⟩, fun hp => ⟨?_, ?_⟩, fun h4 hfw => ⟨_, ?_, exitOnFallback_state hfw⟩,
    fun p hm => pllLock_pll hm, fun hr => ?_, pllLock_mCipher, fun ch => ⟨rfl, rfl⟩, islandsOutOfReset_state⟩
  · show execRcoStable st s = _
    unfold execRcoStable
    simp only [hp, hs]; rfl
  · show execRcoStableTimeout s = _
    unfold execRcoStableTimeout
    rw [hp]; rfl
  · refine ⟨rcoFailure s, ?_, rfl, rfl, { deviceClear_resets s with }⟩
    show execRcoStableTimeout s = _
    unfold execRcoStableTimeout
    simp only [hp, hs]; rfl
  · subst e
    show (if (s.boot.phase != .fuse) = true then _ else if (f == f) = true then _ else _) = _
    rw [hp, beq_self_eq_true]; rfl
  · show (if (s.boot.phase != .fuse) = true then _ else if (f == g) = true then _ else _) = _
    rw [hp, beq_false_of_ne hne]; rfl
  · show (if (s.boot.phase != .xo) = true then _ else _) = _
    rw [hp]; rfl
  · have h4 : inPs4 s = false := by rw [inPs4, hp]; rfl
    show (if inPs4 s = true then _ else if (s.boot.phase != .xo) = true then _ else _) = _
    rw [h4, hp]; rfl
  · show (if inPs4 s = true then _ else _) = _
    rw [h4]; rfl
  · show (if s.clk.rcoRun = true then _ else _) = _
    rw [hr]; rfl

end Sys2Proof.Machine
end
section
/-! PROOFS. The flush: its units, its end and the halt. -/

namespace Sys2Proof.Machine

/-- A die's bus driven changes the channels alone. -/
theorem driveDie_only (s : State) (d n : Nat) : ∃ l, driveDie s d n = { s with chans := l } := by
  unfold driveDie
  dsimp only
  split
  · exact ⟨_, rfl⟩
  · exact ⟨_, rfl⟩

section
variable {s : State} {ch rank : Nat}

/-- Where a unit may be written now: on a free die in use, on a channel that serves, within the budgets (R343). -/
def bandReady (s : State) (ch rank : Nat) : Bool :=
  flushing s && (getDie s (dk ch rank)).used && !(getDie s (dk ch rank)).retired && dieFree (getDie s (dk ch rank)) &&
    !(getChan s ch).retrain && iccqFor s ch && decide (programsOn s < nFl s.arm.cfg) &&
    decide (iccUsed s + s.arm.cfg.geom.iProg ≤ s.arm.cfg.dev.icc)

/-- The bus time of a unit: two sectors of 4,096 B or of 4,160 B. -/
def bandNclk (s : State) (u : BandUnit) : Nat :=
  if u.sects.any (fun e => (getNs s e.2.1).fmt == 2) then 16928 else 16704

theorem bandUnitWrite_waits (f : Bool) (h : bandReady s ch rank = false) :
    exec (.bandUnitWrite ch rank f) s = .next s := by
  have hgo : (!(flushing s) || !(getDie s (dk ch rank)).used || (getDie s (dk ch rank)).retired ||
      !(dieFree (getDie s (dk ch rank))) || (getChan s ch).retrain || !(iccqFor s ch) ||
      decide (nFl s.arm.cfg ≤ programsOn s) || decide (s.arm.cfg.dev.icc < iccUsed s + s.arm.cfg.geom.iProg)) = true := by
    simp only [bandReady, Bool.and_eq_false_iff, Bool.not_eq_false', decide_eq_false_iff_not, not_lt, not_le] at h
    simp only [Bool.or_eq_true, Bool.not_eq_true', decide_eq_true_eq]
    tauto
  show (if _ then ok s else _) = _
  rw [if_pos hgo]; rfl

theorem bandUnitWrite_next (f : Bool) (h : bandReady s ch rank = true) {u0 : BandUnit} {l : List BandUnit}
    (hn : bandNext s ch rank = some (u0, l)) :
    exec (.bandUnitWrite ch rank f) s = if f then
        ok (bandFailed (driveDie s (dk ch rank) (bandNclk s u0)) { u0 with data := bandData s u0 } l)
      else
        let s1 := driveDie s (dk ch rank) (bandNclk s u0)
        ok { s1 with plinth := { s1.plinth with
          bandLeft := l, band := s1.plinth.band ++ [{ u0 with data := bandData s u0 }]
          bandUnits := s1.plinth.bandUnits + 1 } } := by
  have hgo : (!(flushing s) || !(getDie s (dk ch rank)).used || (getDie s (dk ch rank)).retired ||
      !(dieFree (getDie s (dk ch rank))) || (getChan s ch).retrain || !(iccqFor s ch) ||
      decide (nFl s.arm.cfg ≤ programsOn s) || decide (s.arm.cfg.dev.icc < iccUsed s + s.arm.cfg.geom.iProg)) = false := by
    simp only [bandReady, Bool.and_eq_true, Bool.not_eq_true', decide_eq_true_eq] at h
    simp only [Bool.or_eq_false_iff, Bool.not_eq_false', decide_eq_false_iff_not, not_lt, not_le]
    tauto
  show (if _ then ok s else _) = _
  rw [if_neg (by rw [hgo]; exact Bool.false_ne_true)]
  dsimp only
  rw [hn]
  rfl

theorem bandUnitWrite_written (h : bandReady s ch rank = true) (u0 : BandUnit) (l : List BandUnit)
    (hn : bandNext s ch rank = some (u0, l)) :
    exec (.bandUnitWrite ch rank false) s = .next { driveDie s (dk ch rank) (bandNclk s u0) with
      plinth := { s.plinth with
        bandLeft := l, band := s.plinth.band ++ [{ u0 with data := bandData s u0 }]
        bandUnits := s.plinth.bandUnits + 1 } } := by
  have hp : (driveDie s (dk ch rank) (bandNclk s u0)).plinth = s.plinth := by
    obtain ⟨cs, hd⟩ := driveDie_only s (dk ch rank) (bandNclk s u0)
    rw [hd]
  rw [bandUnitWrite_next false h hn, ← hp]
  rfl

theorem bandUnitWrite_none (f : Bool) (hn : bandNext s ch rank = none) : exec (.bandUnitWrite ch rank f) s = .next s := by
  show (if _ then ok s else _) = _
  split
  · rfl
  · dsimp only
    rw [hn]; rfl

/-! ### The unit a die takes next -/

/-- The parity unit of a line on a die. -/
def parityUnit (s : State) (ch rank line : Nat) : BandUnit :=
  { kind := 3, ch := ch, rank := rank, line := line, armseq := s.arm.seq, pwrcyc := s.pat.pwrcyc }

variable {u : BandUnit} {l : List BandUnit}

theorem bandNext_data (hb : s.plinth.bandLeft = u :: l) (hk : u.kind = 0) (hc : (bandChans s rank).contains ch = true)
    (he : bandEven s ch = true) : bandNext s ch rank =
      if bandParity s rank (bandLine s ch rank) = some ch then some (parityUnit s ch rank (bandLine s ch rank), u :: l)
      else some ({ u with ch := ch, rank := rank, line := bandLine s ch rank }, l) := by
  unfold bandNext
  dsimp only
  rw [hb]
  dsimp only
  rw [hk, hc, he]
  simp only [beq_iff_eq]
  rfl

theorem bandNext_state (hb : s.plinth.bandLeft = u :: l) (hk : u.kind ≠ 0) (hp : isPlinth s rank = true)
    (h4 : u.kind ≠ 4 ∨ u.rank = rank) : bandNext s ch rank = some ({ u with ch := ch, rank := rank }, l) := by
  have h4 : (u.kind != 4 || u.rank == rank) = true := by simpa using h4
  unfold bandNext
  dsimp only
  rw [hb]
  dsimp only
  rw [beq_false_of_ne hk, hp, h4]
  rfl

theorem bandNext_parity (hb : s.plinth.bandLeft = []) {x : Nat × Nat}
    (hf : (parityLeft s).find? (fun y => y.1 == rank && bandParity s rank y.2 == some ch) = some x) :
    bandNext s ch rank = some (parityUnit s ch rank x.2, []) := by
  unfold bandNext
  dsimp only
  rw [hb]
  dsimp only
  rw [hf]
  rfl

/-! ### A unit whose program fails -/

theorem bandCovers_true (u : BandUnit) : bandCovers s u = true ↔
    inBody u = true ∧ failedWith s u = [] ∧ (bandParity s u.rank u.line).isSome = true := by
  simp [bandCovers, and_assoc]

theorem mem_sentAgain (h : bandCovers s u = false) (v : BandUnit) : v ∈ sentAgain s u ↔
    v.kind ≠ 3 ∧ (v = u ∨ (inBody u = true ∧ v ∈ failedWith s u ∧ v.failed = 1)) := by
  simp only [sentAgain, h, Bool.false_eq_true, if_false, List.mem_filter, List.mem_cons, Bool.and_eq_true, beq_iff_eq,
    bne_iff_ne]
  tauto

/-- The marking of a unit in its own row whose loss the parity no longer covers. -/
def bandMark (u v : BandUnit) : BandUnit :=
  if inBody u && inBody v && v.rank == u.rank && v.line == u.line && v.failed == 1 then { v with failed := 2 } else v

theorem last_not (l : List BandUnit) : l.filter (fun v => v.kind != 2 && v.kind != 4) =
    l.filter (fun v => !(v.kind == 2 || v.kind == 4)) := by
  simp [bne]

theorem bandFailed_covered {s1 : State} (hs : ∃ cs, s1 = { s with chans := cs }) (l : List BandUnit)
    (h : bandCovers s u = true) : bandFailed s1 u l = { s1 with plinth := { s.plinth with
      band := s.plinth.band ++ [{ u with failed := 1 }]
      bandLeft := l.filter (fun v => !(v.kind == 2 || v.kind == 4)) ++ [] ++ l.filter (fun v => v.kind == 2 || v.kind == 4)
      bandUnits := s.plinth.bandUnits + 1 } } := by
  obtain ⟨cs, rfl⟩ := hs
  have hc : bandCovers { s with chans := cs } u = true := h
  unfold bandFailed sentAgain
  dsimp only
  rw [hc, last_not]
  rfl

theorem bandFailed_lost {s1 : State} (hs : ∃ cs, s1 = { s with chans := cs }) (l : List BandUnit)
    (h : bandCovers s u = false) : bandFailed s1 u l = { s1 with plinth := { s.plinth with
      band := s.plinth.band.map (bandMark u) ++ [{ u with failed := 2 }]
      bandLeft := l.filter (fun v => !(v.kind == 2 || v.kind == 4)) ++
        (sentAgain s u).map (fun v => { v with failed := 0 }) ++ l.filter (fun v => v.kind == 2 || v.kind == 4)
      bandUnits := s.plinth.bandUnits + 1 } } := by
  obtain ⟨cs, rfl⟩ := hs
  have hc : bandCovers { s with chans := cs } u = false := h
  unfold bandFailed
  dsimp only
  rw [hc, last_not]
  rfl

end

/-! ### The flush ended (R344 to R347) -/

/-- The flush's record changes the Plinth's newest record and the recorder alone. -/
theorem finalRecord_only (s : State) : ∃ p q, finalRecord s = { s with plinth := p, pat := q } ∧ p.media = s.plinth.media ∧
    p.newest = 3 ∧ p.bandSeq = s.arm.seq ∧ q.band = some (patImage (finalRecord s)) := by
  unfold finalRecord
  dsimp only
  have hq (u : State) (a b c : Nat) := (patina_quiet u ⟨0x83, 6, 255, a, b, c⟩ (show 6 ≠ 7 by decide)).1
  have hd (u : State) (a b c : Nat) : devRec u 0x83 6 a b c = { u with pat := (devRec u 0x83 6 a b c).pat } := hq u a b c
  rw [hd]
  exact ⟨_, _, rfl, rfl, rfl, rfl, rfl⟩

theorem endFlush_only (s : State) : ∃ p q, endFlush s = { s with plinth := p, pat := q } ∧ p.media = s.plinth.media ∧
    (s.plinth.mounted = true → p.newest = 3 ∧ p.bandSeq = s.arm.seq ∧ q.band = some (patImage (finalRecord s))) := by
  unfold endFlush
  split
  · obtain ⟨p, q, he, hm, h⟩ := finalRecord_only s
    exact ⟨p, q, he, hm, fun _ => h⟩
  next h => exact ⟨s.plinth, s.pat, rfl, rfl, fun hm => absurd hm h⟩

theorem flushHalt_next {s : State} (hp : s.boot.phase = .flushing) (hd : flushDone s = true) :
    exec .flushHalt s = .next (if s.boot.railPend then railFault (endFlush s) else haltReset (endFlush s)) := by
  show (if (s.boot.phase != .flushing || !(flushDone s)) = true then _ else if s.boot.railPend = true then _ else _) = _
  rw [hp, hd]
  cases s.boot.railPend <;> rfl

theorem resetFlushEnd_next {s : State} (hp : s.boot.phase = .resetFlush) (hd : flushDone s = true) :
    exec .resetFlushEnd s = .next (warmRestart (endFlush s)) := by
  show (if (s.boot.phase != .resetFlush || !(flushDone s)) = true then _ else _) = _
  rw [hp, hd]; rfl

theorem flushEnds_waits {s : State} (hd : flushDone s = false) :
    exec .flushHalt s = .next s ∧ exec .resetFlushEnd s = .next s := by
  constructor
  · show (if (s.boot.phase != .flushing || !(flushDone s)) = true then _ else _) = _
    rw [hd, Bool.not_false, Bool.or_true]; rfl
  · show (if (s.boot.phase != .resetFlush || !(flushDone s)) = true then _ else _) = _
    rw [hd, Bool.not_false, Bool.or_true]; rfl

theorem coldClear_resets (s : State) (why : Nat) : IslandsReset s (coldClear s why) := { deviceClear_resets s with }

theorem flushHaltColdStart_halted {s : State} (hp : s.boot.phase = .halted) (hf : s.board.pfail = false) :
    exec .flushHaltColdStart s = .next (coldClear s 6) := by
  show (if (s.boot.phase != .halted || s.board.pfail) = true then _ else _) = _
  rw [hp, hf]; rfl

theorem flushHaltColdStart_stays {s : State} (h : s.boot.phase ≠ .halted ∨ s.board.pfail = true) :
    exec .flushHaltColdStart s = .next s := by
  show (if (s.boot.phase != .halted || s.board.pfail) = true then _ else _) = _
  rw [if_pos (by simpa using h)]; rfl

/-- The flush ended and the islands reset, as both ends of a flush leave them. -/
theorem IslandsReset.of_endFlush {s : State} {p : Plinth} {q : Pat} {t : State}
    (h : IslandsReset { s with plinth := p, pat := q } t) : IslandsReset s t := { h with }

/-- Settles O42: the unit a die takes next is `bandNext`'s, and both ends of a flush reset the islands. -/
theorem flushWritesAndHalts : Obligations.FlushWritesAndHalts := by
  intro s
  refine ⟨fun ch rank => ?_, fun hp hd => ?_, flushHaltColdStart_stays, fun hp hf =>
    ⟨_, flushHaltColdStart_halted hp hf, rfl, rfl, rfl, rfl, coldClear_resets s 6⟩, flushEnds_waits, fun hp hd => ?_⟩
  · have hready : (flushing s = true ∧ (getDie s (dk ch rank)).used = true ∧ (getDie s (dk ch rank)).retired = false ∧
        dieFree (getDie s (dk ch rank)) = true ∧ (getChan s ch).retrain = false ∧ iccqFor s ch = true ∧
        programsOn s < nFl s.arm.cfg ∧ iccUsed s + s.arm.cfg.geom.iProg ≤ s.arm.cfg.dev.icc) ↔
        bandReady s ch rank = true := by
      simp [bandReady, and_assoc]
    dsimp only
    rw [hready]
    refine ⟨fun h f => bandUnitWrite_waits f (by simpa using h), fun hn f => bandUnitWrite_none f hn, fun hr u l hb => ⟨?_, ?_⟩,
      fun hr x hb hf => ?_, fun hr u0 l hn => ⟨fun hc => ?_, fun hc => ⟨?_, ?_⟩⟩⟩
    · intro hk hc he
      have hn := bandNext_data hb hk hc he
      exact ⟨fun hpar => bandUnitWrite_written hr { u with ch := ch, rank := rank, line := _ } l (by rw [hn, if_neg hpar]),
        fun hpar => bandUnitWrite_written hr (parityUnit s ch rank _) (u :: l) (by rw [hn, if_pos hpar])⟩
    · exact fun hk hpl h4 => bandUnitWrite_written hr { u with ch := ch, rank := rank } l (bandNext_state hb hk hpl h4)
    · exact bandUnitWrite_written hr (parityUnit s ch rank _) [] (bandNext_parity hb hf)
    · rw [bandUnitWrite_next true hr hn]
      exact congrArg Host.Outcome.next (bandFailed_covered (driveDie_only ..) l ((bandCovers_true _).mpr hc))
    · rw [bandUnitWrite_next true hr hn]
      exact congrArg Host.Outcome.next (bandFailed_lost (driveDie_only ..) l
        (by rw [← Bool.not_eq_true, bandCovers_true]; exact hc))
    · exact mem_sentAgain (by rw [← Bool.not_eq_true, bandCovers_true]; exact hc)
  · obtain ⟨p, q, he, hm, hrec⟩ := endFlush_only s
    refine ⟨_, flushHalt_next hp hd, ?_⟩
    rw [he]
    cases hr : s.boot.railPend with
    | true => exact ⟨.of_endFlush { deviceClear_resets _ with }, rfl, fun h => ⟨(hrec h).1, (hrec h).2.1, (hrec h).2.2, hm⟩⟩
    | false => exact ⟨.of_endFlush (haltReset_resets _), rfl, fun h => ⟨(hrec h).1, (hrec h).2.1, (hrec h).2.2, hm⟩⟩
  · obtain ⟨p, q, he, hm, hrec⟩ := endFlush_only s
    refine ⟨_, resetFlushEnd_next hp hd, ?_⟩
    rw [he]
    unfold warmRestart
    dsimp only
    cases hf : s.board.pfail with
    | true => 
      exact ⟨.of_endFlush { deviceClear_resets _ with }, rfl, fun _ => rfl, fun h => ⟨(hrec h).1, (hrec h).2.1, (hrec h).2.2, hm⟩⟩
    | false =>
      cases hc : s.clk.fallback with
      | true => exact ⟨.of_endFlush { deviceClear_resets _ with }, rfl, nofun,
          fun h => ⟨(hrec h).1, (hrec h).2.1, (hrec h).2.2, hm⟩⟩
      | false => exact ⟨.of_endFlush { deviceClear_resets _ with }, rfl, nofun,
          fun h => ⟨(hrec h).1, (hrec h).2.1, (hrec h).2.2, hm⟩⟩

end Sys2Proof.Machine
end
section
/-! PROOFS. Hold-up tests, the housekeeping scan, the throttle ladder and the thermal stops. -/

namespace Sys2Proof.Machine

/-! ### The reasons of degraded hold-up (R338 to R342) -/

theorem bitOf_foldl_setBit (l : List Nat) (n b : Nat) : bitOf (l.foldl setBit n) b = (bitOf n b || l.contains b) := by
  induction l generalizing n with
  | nil => simp
  | cons x r ih =>
    rw [List.foldl_cons, ih, List.contains_cons]
    by_cases h : b = x
    · subst h; rw [bitOf_setBit_same]; simp
    · rw [bitOf_setBit_ne n h, beq_false_of_ne h, Bool.false_or]

theorem bitOf_maskOf (l : List Nat) (b : Nat) : bitOf (maskOf l) b = l.contains b := by
  rw [maskOf, bitOf_foldl_setBit]
  simp [bitOf]

/-- Reason 3 holds while the charger's time-out is latched, reason 5 while a failed test is. -/
theorem reasonsNow_latched (s : State) :
    bitOf (reasonsNow s) 3 = bitOf s.hold.latched 3 ∧ bitOf (reasonsNow s) 5 = bitOf s.hold.latched 5 := by
  simp only [reasonsNow, bitOf_maskOf, List.contains_eq_mem, List.mem_append, apply_ite (3 ∈ ·), apply_ite (5 ∈ ·)]
  simp

/-- What is noted of new reasons aside, only the reasons change. -/
theorem noted_setReasons (s : State) (m : Nat) :
    Noted { s with hold := { s.hold with reasons := m } } (setReasons s m) := by
  unfold setReasons
  dsimp only
  exact .ite (.refl _) ((((noted_raiseAll _ _ _).trans (noted_glbSet _ 9)).trans (noted_devRec ..)).trans (noted_trigger _))

theorem noted_refreshHold (s : State) :
    ∃ m, Noted { s with hold := { s.hold with reasons := m } } (refreshHold s) := by
  unfold refreshHold
  split
  · exact ⟨_, noted_setReasons s _⟩
  · exact ⟨s.hold.reasons, .refl s⟩

/-- The reading of the bank as a test meets it: the test itself is untouched. -/
theorem readHuv_hold (s : State) (mv code : Nat) :
    (readHuv s mv code).hold.testing = s.hold.testing ∧ (readHuv s mv code).hold.v0 = s.hold.v0 ∧
      (readHuv s mv code).hold.testUs = s.hold.testUs ∧ (readHuv s mv code).hold.cmeas = s.hold.cmeas ∧
      (readHuv s mv code).hold.tests = s.hold.tests ∧ (readHuv s mv code).hold.huv = satTo 16 mv ∧
      (readHuv s mv code).thm.ch = s.thm.ch ∧ (readHuv s mv code).cmds = s.cmds ∧
      (readHuv s mv code).zones = s.zones ∧ (readHuv s mv code).sectors = s.sectors := by
  unfold readHuv
  dsimp only
  generalize hs1 : State.mk _ _ _ _ _ _ _ _ _ _ _ _ _ _ _ _ _ _ _ _ _ _ _ _ _ _ _ _ _ _ _ _ _ _ _ _ _ = s1
  obtain ⟨m, hn⟩ := noted_refreshHold s1
  rw [hn.hold, hn.thm, hn.cmds, hn.zones, hn.sectors, ← hs1]
  exact ⟨rfl, rfl, rfl, rfl, rfl, rfl, rfl, rfl, rfl, rfl⟩

/-- A test that measured nothing ends as failed (R340). -/
theorem testFailed_state (s : State) : bitOf (testFailed s).hold.reasons 5 = true ∧ (testFailed s).hold.testing = false ∧
    (testFailed s).hold.cmeas = s.hold.cmeas ∧ (testFailed s).board.huTest = false ∧
    (testFailed s).hold.tests = satAdd 16 s.hold.tests 1 := by
  unfold testFailed
  dsimp only
  generalize hs1 : afterTest _ = s1
  have h2 := (noted_glbSet s1 9).trans (noted_devRec (glbSet s1 9) 0x81 2 1 s1.hold.cmeas 0)
  generalize hs2 : devRec _ _ _ _ _ = s2 at h2 ⊢
  have hn := noted_setReasons { s2 with hold := { s2.hold with latched := setBit s2.hold.latched 5 } }
    (reasonsNow { s2 with hold := { s2.hold with latched := setBit s2.hold.latched 5 } })
  have hr := (reasonsNow_latched { s2 with hold := { s2.hold with latched := setBit s2.hold.latched 5 } }).2
  refine ⟨by rw [hn.hold]; exact hr.trans (bitOf_setBit_same _ _), ?_⟩
  rw [hn.hold, hn.board]
  simp only [h2.hold, h2.board, ← hs1]
  exact ⟨rfl, rfl, rfl, rfl⟩

/-- A test that measured the bank (R340). -/
theorem testPassed_state (s : State) (c : Nat) : (testPassed s c).hold.cmeas = satTo 16 c ∧
    (testPassed s c).hold.tested = true ∧ (testPassed s c).hold.testing = false ∧
    (testPassed s c).hold.tests = satAdd 16 s.hold.tests 1 ∧ bitOf (testPassed s c).hold.reasons 3 = false ∧
    bitOf (testPassed s c).hold.reasons 5 = false ∧ (testPassed s c).board.huTest = false ∧
    (testPassed s c).board.chgEn = true ∧ (testPassed s c).cmds = s.cmds ∧ (testPassed s c).zones = s.zones ∧
    (testPassed s c).sectors = s.sectors := by
  unfold testPassed
  dsimp only
  generalize hs1 : afterTest _ = s1
  have h2 := noted_devRec s1 0x81 2 0 (satTo 16 c) 0
  generalize devRec s1 0x81 2 0 (satTo 16 c) = s2 at h2 ⊢
  have hl : s2.hold.latched = 0 := by rw [h2.hold, ← hs1]; rfl
  obtain ⟨h3, h5⟩ := reasonsNow_latched s2
  have hn := (noted_setReasons { s2 with hold := { s2.hold with reasons := s.hold.reasons } } (reasonsNow s2)).trans
    (noted_trigger _)
  rw [hn.hold, hn.board, hn.cmds, hn.zones, hn.sectors]
  refine ⟨?_, ?_, ?_, ?_, by rw [hl] at h3; exact h3, by rw [hl] at h5; exact h5, ?_⟩
  all_goals simp only [h2.hold, h2.board, h2.cmds, h2.zones, h2.sectors, ← hs1]
  · rfl
  · rfl
  · rfl
  · rfl
  · exact ⟨rfl, rfl, rfl, rfl, rfl⟩

section
variable {s : State}

theorem healthTestStart_next (hs : inService s = true) (ht : s.hold.testing = false) :
    exec .healthTestStart s = .next (healthTest s) := by
  show (if (!(inService s) || s.hold.testing) = true then _ else _) = _
  rw [hs, ht]; rfl

theorem healthTestSample_first (mv : Nat) (ht : s.hold.testing = true) (hb : s.hold.brace = false)
    (hv : s.hold.v0 = none) : exec (.healthTestSample mv) s = .next
      (let s1 := readHuv s mv (senseCode 50 mv)
       { s1 with board := { s1.board with huTest := true }, hold := { s1.hold with v0 := some mv, testUs := 0 } }) := by
  show (if (!s.hold.testing || s.hold.brace) = true then _ else _) = _
  rw [ht, hb, if_neg (by decide)]
  dsimp only
  rw [(readHuv_hold s mv _).2.1, hv]
  rfl

theorem healthTestSample_next (mv v0 : Nat) (ht : s.hold.testing = true) (hb : s.hold.brace = false)
    (hv : s.hold.v0 = some v0) : exec (.healthTestSample mv) s =
      let s1 := readHuv s mv (senseCode 50 mv)
      let s2 := { s1 with hold := { s1.hold with testUs := s.hold.testUs + 64 } }
      if 100000 < s.hold.testUs + 64 then ok (testFailed s2)
      else if v0 < mv + 1000 then ok s2
      else if s.hold.testUs + 64 < 1000 then ok (testFailed s2)
      else ok (testPassed s2 (10 * (s.hold.testUs + 64) / (v0 - mv))) := by
  show (if (!s.hold.testing || s.hold.brace) = true then _ else _) = _
  rw [ht, hb, if_neg (by decide)]
  obtain ⟨-, h0, hu, -⟩ := readHuv_hold s mv (senseCode 50 mv)
  dsimp only
  rw [h0, hv, hu]

theorem healthTestTimeout_next (ht : s.hold.testing = true) (hv : s.hold.v0 ≠ none) :
    exec .healthTestTimeout s = .next (testFailed s) := by
  show (if (!s.hold.testing || s.hold.v0.isNone) = true then _ else _) = _
  rw [ht, if_neg (by simpa using hv)]
  rfl

end

/-- Settles O43: a test starts, draws and ends as `healthTest`, `testPassed` and `testFailed` have it. -/
theorem holdupTestsAndCharge : Obligations.HoldupTestsAndCharge := by
  intro s
  refine ⟨fun hs ht he hps => ⟨fun hr => ?_, fun hr => ?_⟩, fun ht hb =>
    ⟨fun mv hv => ?_, fun mv v0 hv hmax hlo => ?_, fun mv v0 hv hmax hhi hmin => ?_, fun mv v0 hv hbad => ?_, fun hv => ?_⟩,
    fun hc hw => ?_⟩
  · rw [healthTestStart_next hs ht, healthTest, he, beq_false_of_ne hps, hr]; rfl
  · rw [healthTestStart_next hs ht, healthTest, he, hr, Bool.not_false, Bool.or_true]; rfl
  · obtain ⟨h1, -, -, h4, -, -, -, hcm, hz, hsec⟩ := readHuv_hold s mv (senseCode 50 mv)
    exact ⟨_, healthTestSample_first mv ht hb hv, rfl, rfl, rfl, h1.trans ht, h4, hcm, hz, hsec⟩
  · have he := healthTestSample_next mv v0 ht hb hv
    dsimp only at he
    rw [if_neg (by omega), if_pos hlo] at he
    obtain ⟨h1, h2, -, h4, -⟩ := readHuv_hold s mv (senseCode 50 mv)
    exact ⟨_, he, rfl, h1.trans ht, h2.trans hv, h4⟩
  · have he := healthTestSample_next mv v0 ht hb hv
    dsimp only at he
    rw [if_neg (by omega), if_neg (by omega), if_neg (by omega)] at he
    obtain ⟨-, -, -, -, hts, -, -, hcm, hz, hsec⟩ := readHuv_hold s mv (senseCode 50 mv)
    refine ⟨_, he, ?_⟩
    rw [← hts, ← hcm, ← hz, ← hsec]
    exact testPassed_state _ _
  · have he := healthTestSample_next mv v0 ht hb hv
    dsimp only at he
    obtain ⟨-, -, -, h4, -⟩ := readHuv_hold s mv (senseCode 50 mv)
    generalize readHuv s mv (senseCode 50 mv) = s1 at he h4
    obtain ⟨h5, h1, h2, h3, -⟩ := testFailed_state { s1 with hold := { s1.hold with testUs := s.hold.testUs + 64 } }
    refine ⟨_, ?_, h5, h1, h2.trans h4, h3⟩
    rw [he]
    split
    · rfl
    · rw [if_neg (by omega), if_pos (by omega)]; rfl
  · obtain ⟨h5, h1, h2, h3, h4⟩ := testFailed_state s
    exact ⟨_, healthTestTimeout_next ht hv, h5, h1, h2, h3, h4⟩
  · have hn := noted_setReasons { s with hold := { s.hold with chgWait := false, latched := setBit s.hold.latched 3 } }
      (setBit s.hold.reasons 3)
    refine ⟨_, ?_, by rw [hn.hold], by rw [hn.hold], hn.cmds, hn.zones, hn.sectors⟩
    show (if (!s.board.chgEn || !(s.hold.low || s.hold.chgWait)) = true then _ else _) = _
    rw [hc, if_neg (by rcases hw with h | h <;> simp [h])]
    rfl

/-! ### The housekeeping scan (R330, R332, R428, R430) -/

theorem noted_thermEvent (s : State) : Noted s (thermEvent s) := noted_raiseAll s _ _

theorem noted_tempEvents (old s : State) : Noted s (tempEvents old s) :=
  Noted.foldl _ (fun a _ => .ite (noted_raiseStd a _ _ _) (.refl a)) _ (.refl s)

/-- What the end of a round of the scan leaves of its result, whatever the ladder does. -/
def scanView (s : State) : Nat × Nat × Nat × Nat × List (Nat × Zone) × List (Nat × Sector) :=
  (s.thm.ch, s.thm.rounds, s.thm.composite, s.thm.maxK, s.zones, s.sectors)

theorem Noted.scanView {s t : State} (h : Noted s t) : scanView t = scanView s := h.part Machine.scanView

theorem stageUp_scanView (s : State) : scanView (stageUp s) = scanView s := by
  unfold stageUp
  dsimp only
  rw [(noted_thermEvent _).scanView]
  rfl

theorem setLevel_scanView (s : State) (c : Bool) : scanView (setLevel s c) = scanView s := by
  have hs1 : scanView { s with thm := { s.thm with level := levelOf s c } } = scanView s := rfl
  have h := Noted.ite (p := (s.thm.level == 0 && levelOf s c != 0) = true)
    (noted_thermEvent { s with thm := { s.thm with level := levelOf s c } }) (.refl _)
  have h2 : Noted { s with thm := { s.thm with level := levelOf s c } } (setLevel s c) :=
    h.trans (.ite (noted_glbSet _ 2) (.refl _))
  rw [h2.scanView, hs1]

/-- What follows a round on a device whose thresholds are known. -/
def ladder (old s : State) (hot : Bool) (run : Nat) : State :=
  let s2 := tempEvents old s
  let s3 := if hot && !(flushing s2) && s2.thm.graceEnd.isNone && decide (s2.thm.stage < 4) then stageUp s2 else s2
  let s4 := setLevel s3 (decide (2 ≤ run))
  if 2 ≤ run then critical s4 else s4

theorem ladder_scanView (old s : State) (hot : Bool) {run : Nat} (h : ¬ 2 ≤ run) :
    scanView (ladder old s hot run) = scanView s := by
  unfold ladder
  dsimp only
  rw [if_neg h, setLevel_scanView]
  split
  · rw [stageUp_scanView, (noted_tempEvents old s).scanView]
  · rw [(noted_tempEvents old s).scanView]

/-- The round counted, with what the ladder judges. -/
def roundDone (s : State) : State :=
  let t := s.thm
  let k := compositeBut s 28
  { s with thm := { t with
    rounds := wrapAdd 16 t.rounds 1, composite := k, maxK := max t.maxK k
    critRun := if anyCritical s then t.critRun + 1 else 0
    warn := orDef s.arm.cfg.dev.warn t.warn
    hotUs := if decide (t.hot + 273 ≤ k) then t.hotUs + 1536 else t.hotUs
    coolFrom := if decide (k < t.hot + 270) then (if t.coolFrom.isSome then t.coolFrom else some s.nowUs) else none } }

theorem endRound_eq (s : State) : endRound s =
    if !(thermReady s) then { s with thm := { s.thm with
      rounds := wrapAdd 16 s.thm.rounds 1, composite := compositeBut s 28, maxK := max s.thm.maxK (compositeBut s 28) } }
    else ladder s (roundDone s) (decide (s.thm.hot + 273 ≤ compositeBut s 28))
      (if anyCritical s then s.thm.critRun + 1 else 0) := by
  delta endRound ladder roundDone
  rfl

theorem endRound_calm {s : State} (h : anyCritical s = false) : scanView (endRound s) =
    (s.thm.ch, wrapAdd 16 s.thm.rounds 1, compositeBut s 28, max s.thm.maxK (compositeBut s 28), s.zones, s.sectors) := by
  rw [endRound_eq, h, if_neg Bool.false_ne_true]
  split
  · simp only [scanView]
  · rw [ladder_scanView _ _ _ (by decide)]
    simp only [scanView, roundDone]

section
variable {s : State}

/-- The reading of the channel the scan stands at. -/
def scanRead (s : State) (c : Nat) (v : Int) : State :=
  let ch := s.thm.ch
  if ch < 28 then readSensor s ch c v
  else if ch == 28 then readVin s (senseMv (adcDivider ch) c) c
  else if ch == 29 then readHuv s (senseMv (adcDivider ch) c) c
  else { s with thm := { s.thm with codes := tset (0, 0) s.thm.codes ch (c, senseMv (adcDivider ch) c) } }

theorem scanRead_supply {c : Nat} {v : Int} (h : 30 ≤ s.thm.ch) : scanRead s c v = { s with thm := { s.thm with
    codes := tset (0, 0) s.thm.codes s.thm.ch (c, senseMv (adcDivider s.thm.ch) c) } } := by
  have h28 : s.thm.ch ≠ 28 := by omega
  have h29 : s.thm.ch ≠ 29 := by omega
  have hs : ¬ s.thm.ch < 28 := by omega
  unfold scanRead
  dsimp only
  rw [if_neg hs, beq_false_of_ne h28, beq_false_of_ne h29]
  rfl

theorem adcScanConversion_next (code : Nat) (v : Int) (hr : scanRuns s = true) : exec (.adcScanConversion code v) s =
    let s1 := scanRead s (code % 4096) v
    let s2 := { s1 with thm := { s1.thm with ch := (s.thm.ch + 1) % 48 } }
    .next (if s.thm.ch == 47 then endRound s2 else s2) := by
  show (if (!(scanRuns s)) = true then _ else _) = _
  rw [hr]; rfl

/-- A conversion that is not the scan's last. -/
theorem adcScanConversion_within (code : Nat) (v : Int) (hr : scanRuns s = true) (hch : s.thm.ch < 47) :
    exec (.adcScanConversion code v) s = .next
      (let s1 := scanRead s (code % 4096) v
       { s1 with thm := { s1.thm with ch := s.thm.ch + 1 } }) := by
  have h47 : s.thm.ch ≠ 47 := by omega
  rw [adcScanConversion_next code v hr, beq_false_of_ne h47, Nat.mod_eq_of_lt (show s.thm.ch + 1 < 48 by omega)]
  rfl

variable {n c : Nat} {v : Int}

theorem readSensor_valid (ha : inputAbsent n c = false) (hb : inputBroken n c v = false)
    (hc : c ≠ (tget ({} : Sensor) s.thm.sensors n).raw) (hs : (tget ({} : Sensor) s.thm.sensors n).st ≠ 2) :
    readSensor s n c v = { s with thm := { s.thm with
      sensors := tset {} s.thm.sensors n
        { temp := kelvin v, st := 0, raw := c, same := 0, okRun := (tget ({} : Sensor) s.thm.sensors n).okRun + 1
          comp0 := compositeBut s n }
      codes := tset (0, 0) s.thm.codes n (c, kelvin v) } } := by
  have h1024 : decide (1024 ≤ (if (c == (tget ({} : Sensor) s.thm.sensors n).raw) = true then
      (tget ({} : Sensor) s.thm.sensors n).same + 1 else 0)) = false := by
    rw [beq_false_of_ne hc]; rfl
  unfold readSensor
  dsimp only
  rw [ha, hb, h1024, beq_false_of_ne hc, beq_false_of_ne hs]
  rfl

theorem readSensor_broken (ha : inputAbsent n c = false) (hb : inputBroken n c v = true)
    (hs : (tget ({} : Sensor) s.thm.sensors n).st ≠ 2) :
    (tget ({} : Sensor) (readSensor s n c v).thm.sensors n).st = 2 ∧ (readSensor s n c v).pat.events = s.pat.events + 1 ∧
      bitOf (readSensor s n c v).glb.istat 2 = true ∧ (readSensor s n c v).zones = s.zones ∧
      (readSensor s n c v).sectors = s.sectors := by
  unfold readSensor
  dsimp only
  have hs' : ((2 : Nat) == 2 && (tget ({} : Sensor) s.thm.sensors n).st != 2) = true := by simpa using hs
  rw [ha, hb, Bool.true_or, Bool.not_false, Bool.true_and, if_pos rfl, if_pos rfl, hs', if_pos rfl]
  generalize hy : ({ temp := kelvin v, st := 2, raw := c, same := _, okRun := 0, comp0 := _ } : Sensor) = y
  have hst : y.st = 2 := by rw [← hy]
  have hne : y ≠ {} := fun e => by rw [e] at hst; cases hst
  generalize hs1 : { s with thm := { s.thm with
    sensors := tset {} s.thm.sensors n y, codes := tset (0, 0) s.thm.codes n (c, kelvin v) } } = s1
  have h1 : Noted (glbSet s1 2) (thermEvent (glbSet s1 2)) := noted_thermEvent _
  have h2 := h1.trans (noted_devRec (thermEvent (glbSet s1 2)) 0xB0 5 n 0 0)
  refine ⟨?_, ?_, h2.bits 2 (glbSet_shown s1 2), ?_, ?_⟩
  · rw [h2.thm, ← hs1]
    show (tget {} (tset {} s.thm.sensors n y) n).st = 2
    rw [tget_tset_same _ _ _ _ hne, hst]
  · obtain ⟨a, b, h⟩ := raiseAll_only (glbSet s1 2) (allCtrls (glbSet s1 2)) (vendor 6 0xC3)
    have hp : (thermEvent (glbSet s1 2)).pat = s.pat := by rw [thermEvent, h, ← hs1]; rfl
    rw [devRec, patina_events, hp]
  · rw [h2.zones, ← hs1]; rfl
  · rw [h2.sectors, ← hs1]; rfl

end

/-- Settles O44, channel by channel of the scan. -/
theorem temperaturesScanned : Obligations.TemperaturesScanned := by
  intro s code v hr
  have he := adcScanConversion_within code v hr
  have hlow (h : s.thm.ch < 28) : scanRead s (code % 4096) v = readSensor s s.thm.ch (code % 4096) v := if_pos h
  refine ⟨fun hch ha hb hc hs => ?_, fun hch ha hb hs => ?_, fun hch => ?_, fun hch => ?_, fun h30 h47 => ?_, fun hch hcrit => ?_⟩
  · rw [he (by omega), hlow hch, readSensor_valid ha hb hc hs]
  · obtain ⟨h1, h2, h3, h4, h5⟩ := readSensor_broken (s := s) ha hb hs
    rw [← hlow hch] at h1 h2 h3 h4 h5
    exact ⟨_, he (by omega), h1, rfl, h2, h3, h4, h5⟩
  · rw [he (by omega), scanRead, hch]; rfl
  · have h29 : scanRead s (code % 4096) v = readHuv s (senseMv (adcDivider 29) (code % 4096)) (code % 4096) := by
      rw [scanRead, hch]; rfl
    obtain ⟨-, -, -, -, -, h6, -, -, hz, hsec⟩ := readHuv_hold s (senseMv (adcDivider 29) (code % 4096)) (code % 4096)
    rw [← h29] at h6 hz hsec
    exact ⟨_, he (by omega), h6, by rw [hch], hz, hsec⟩
  · rw [he h47, scanRead_supply h30]
  · have he := adcScanConversion_next code v hr
    rw [hch, scanRead_supply (by omega)] at he
    have hv := endRound_calm (s := { s with thm := { s.thm with
      ch := 0, codes := tset (0, 0) s.thm.codes s.thm.ch (code % 4096, senseMv (adcDivider s.thm.ch) (code % 4096)) } }) hcrit
    simp only [scanView, Prod.mk.injEq] at hv
    exact ⟨_, he, hv⟩

/-! ### The throttle ladder (R432, R433) -/

theorem trigger_eq (s : State) : ∃ c, trigger s = { s with cms := c } ∧ c.wTherm = s.cms.wTherm := by
  unfold trigger
  split
  · exact ⟨_, rfl, rfl⟩
  · split
    · exact ⟨_, rfl, rfl⟩
    · exact ⟨_, rfl, rfl⟩

theorem withAssist_ps (n : Nat) (p : Pm) (ps : Nat) :
    (withAssist n p ps).ps = p.ps ∧ (withAssist n p ps).tcap = p.tcap := by
  unfold withAssist
  dsimp only
  split <;> exact ⟨rfl, rfl⟩

theorem setOperational_eq (s : State) (ps : Nat) : ∃ p c k, setOperational s ps = { s with pm := p, cms := c, clk := k } ∧
    p.ps = ps ∧ p.tcap = s.pm.tcap ∧ c.wTherm = s.cms.wTherm := by
  unfold setOperational
  split
  next h => exact ⟨s.pm, s.cms, s.clk, rfl, beq_iff_eq.mp h, rfl, rfl⟩
  next =>
    dsimp only
    obtain ⟨hps, hcap⟩ := withAssist_ps s.nowUs { s.pm with ps := ps, ps2 := if ps == 2 then limitDepth else 0 } ps
    obtain ⟨c, h, hw⟩ := trigger_eq { s with
      pm := withAssist s.nowUs { s.pm with ps := ps, ps2 := if ps == 2 then limitDepth else 0 } ps
      cms := { s.cms with wState := psWrite ps }, clk := withClocks s.clk ps }
    exact ⟨_, c, _, h, hps, hcap, hw⟩

/-- A stage put in force: its write limit, its power cap and the state they allow (R432, R433). -/
theorem enforce_eq (s : State) (e : Nat) : ∃ p c k, enforce s e = { s with
      thm := { s.thm with enforced := e }, pm := p, cms := c, clk := k } ∧
    c.wTherm = wOf e ∧ p.tcap = capOf e ∧ (s.pm.ps < 3 → s.pm.req < 3 → p.ps = max s.pm.req (capOf e)) := by
  unfold enforce
  dsimp only
  generalize hs1 : { s with
    thm := { s.thm with enforced := e }, cms := { s.cms with wTherm := wOf e }, pm := { s.pm with tcap := capOf e } } = s1
  have ha : ∃ p c k, applyState s1 = { s1 with pm := p, cms := c, clk := k } ∧ p.tcap = s1.pm.tcap ∧
      c.wTherm = s1.cms.wTherm ∧ (s1.pm.ps < 3 → s1.pm.req < 3 → p.ps = max s1.pm.req s1.pm.tcap) := by
    unfold applyState
    split
    next h => exact ⟨s1.pm, s1.cms, s1.clk, rfl, rfl, rfl, fun h1 h2 => by simp only [Bool.or_eq_true, decide_eq_true_eq] at h; omega⟩
    next =>
      obtain ⟨p, c, k, h, hp, hc, hw⟩ := setOperational_eq s1 (max s1.pm.req s1.pm.tcap)
      exact ⟨p, c, k, h, hc, hw, fun _ _ => hp⟩
  obtain ⟨p, c, k, h, hp, hc, hps⟩ := ha
  obtain ⟨c', h', hc'⟩ := trigger_eq (applyState s1)
  rw [h] at h' hc'
  rw [h, h']
  subst hs1
  exact ⟨p, c', k, rfl, hc'.trans hc, hp, hps⟩

/-- Of the ladder's notice only the controllers' events and entries and the status bits change. -/
theorem thermEvent_only (s : State) : ∃ a b, thermEvent s = { s with ctrls := a, cqs := b } := raiseAll_only ..

theorem setLevel_only (s : State) (c : Bool) : ∃ a b l v, setLevel s c = { s with
    ctrls := a, cqs := b, thm := { s.thm with level := l }, glb := { s.glb with istat := v } } := by
  have h2 : ∃ a b, (if (s.thm.level == 0 && levelOf s c != 0) = true then
      thermEvent { s with thm := { s.thm with level := levelOf s c } }
      else { s with thm := { s.thm with level := levelOf s c } }) =
      { s with ctrls := a, cqs := b, thm := { s.thm with level := levelOf s c } } := by
    split
    · exact thermEvent_only _
    · exact ⟨s.ctrls, s.cqs, rfl⟩
  obtain ⟨a, b, h2⟩ := h2
  unfold setLevel
  dsimp only
  rw [h2]
  split
  · exact ⟨a, b, _, _, rfl⟩
  · exact ⟨a, b, _, _, rfl⟩

theorem devRec_quiet (s : State) (typ sev a b c : Nat) (h : sev ≠ 7) :
    devRec s typ sev a b c = { s with pat := (devRec s typ sev a b c).pat } ∧
      (devRec s typ sev a b c).pat.events = s.pat.events + 1 := patina_quiet s ⟨typ, sev, 255, a, b, c⟩ h

section
variable {s : State}

theorem graceTimerExpiry_next (h : s.thm.graceEnd ≠ none) : exec .graceTimerExpiry s = .next
    (let s1 := enforce { s with thm := { s.thm with graceEnd := none } } s.thm.stage
     let s2 := glbSet (devRec s1 0xB1 4 s.thm.stage) 2
     if decide (s2.thm.hot + 273 ≤ s2.thm.composite) && decide (s.thm.stage < 4) then stageUp s2 else s2) := by
  show (if s.thm.graceEnd.isNone = true then _ else _) = _
  rw [if_neg (by simpa using h)]; rfl

/-- The stage put in force by the grace timer, before the next one is requested. -/
theorem graceEnds (s : State) :
    ∃ s2, glbSet (devRec (enforce { s with thm := { s.thm with graceEnd := none } } s.thm.stage) 0xB1 4 s.thm.stage) 2 = s2 ∧
      s2.thm = { s.thm with graceEnd := none, enforced := s.thm.stage } ∧ s2.cms.wTherm = wOf s.thm.stage ∧
      s2.pm.tcap = capOf s.thm.stage ∧ (s.pm.ps < 3 → s.pm.req < 3 → s2.pm.ps = max s.pm.req (capOf s.thm.stage)) ∧
      s2.pat.events = s.pat.events + 1 ∧ bitOf s2.glb.istat 2 = true ∧ s2.nowUs = s.nowUs ∧ s2.cmds = s.cmds ∧
      s2.zones = s.zones ∧ s2.sectors = s.sectors := by
  obtain ⟨p, c, k, h, hw, ht, hps⟩ := enforce_eq { s with thm := { s.thm with graceEnd := none } } s.thm.stage
  obtain ⟨hd, hev⟩ := devRec_quiet (enforce { s with thm := { s.thm with graceEnd := none } } s.thm.stage)
    0xB1 4 s.thm.stage 0 0 (by decide)
  refine ⟨_, rfl, ?_⟩
  rw [hd]
  refine ⟨?_, ?_, ?_, ?_, ?_, glbSet_shown _ 2, ?_⟩
  · rw [h]; rfl
  · rw [h]; exact hw
  · rw [h]; exact ht
  · rw [h]; exact hps
  · show (devRec _ 0xB1 4 s.thm.stage 0 0).pat.events = _
    rw [hev, h]
  · rw [h]; exact ⟨rfl, rfl, rfl, rfl⟩

theorem graceTimerExpiry_state (h : s.thm.graceEnd ≠ none) :
    ∃ t, exec .graceTimerExpiry s = .next t ∧ t.thm.enforced = s.thm.stage ∧
       t.cms.wTherm = wOf s.thm.stage ∧ t.pm.tcap = capOf s.thm.stage ∧
       (s.pm.ps < 3 → s.pm.req < 3 → t.pm.ps = max s.pm.req (capOf s.thm.stage)) ∧
       (s.thm.composite < s.thm.hot + 273 ∨ 4 ≤ s.thm.stage → t.thm.graceEnd = none ∧ t.thm.stage = s.thm.stage) ∧
       (s.thm.hot + 273 ≤ s.thm.composite → s.thm.stage < 4 → t.thm.stage = s.thm.stage + 1 ∧
         t.thm.graceEnd = some (s.nowUs + s.thm.graceMs * 1000)) ∧
       t.pat.events = s.pat.events + 1 ∧ bitOf t.glb.istat 2 = true ∧
       t.cmds = s.cmds ∧ t.zones = s.zones ∧ t.sectors = s.sectors := by
  have he := graceTimerExpiry_next h
  dsimp only at he
  obtain ⟨s2, hs2, hthm, hw, ht, hps, hev, hbit, hnow, hcmds, hz, hsec⟩ := graceEnds s
  rw [hs2, hthm] at he
  refine ⟨_, he, ?_⟩
  by_cases hup : s.thm.hot + 273 ≤ s.thm.composite ∧ s.thm.stage < 4
  · rw [if_pos (by simpa using hup)]
    obtain ⟨a, b, hst⟩ := thermEvent_only { s2 with thm := { s2.thm with
      stage := s2.thm.stage + 1, graceEnd := some (s2.nowUs + s2.thm.graceMs * 1000), stageUps := satAdd 32 s2.thm.stageUps 1
      stdTokens := if s2.thm.stage == 0 then limitDepth else s2.thm.stdTokens } }
    have hst : stageUp s2 = _ := hst
    rw [hst]
    exact ⟨by show s2.thm.enforced = _; rw [hthm], hw, ht, hps, fun h => by omega,
      fun _ _ => ⟨by show s2.thm.stage + 1 = _; rw [hthm], by show some (s2.nowUs + s2.thm.graceMs * 1000) = _; rw [hthm, hnow]⟩,
      hev, hbit, hcmds, hz, hsec⟩
  · rw [if_neg (by simpa using hup)]
    exact ⟨by rw [hthm], hw, ht, hps, fun _ => ⟨by rw [hthm], by rw [hthm]⟩, fun h1 h2 => absurd ⟨h1, h2⟩ hup, hev, hbit,
      hcmds, hz, hsec⟩

/-- A request withdrawn, where no stage comes into force (R433). -/
theorem thermalCoolTimer_withdraws (hc : s.thm.coolFrom ≠ none) (hg : s.thm.graceEnd ≠ none) :
    ∃ t, exec .thermalCoolTimer s = .next t ∧ t.thm.stage = s.thm.enforced ∧
      t.thm.graceEnd = none ∧ t.thm.enforced = s.thm.enforced ∧ t.thm.coolFrom = some s.nowUs ∧
      t.cms = s.cms ∧ t.pm = s.pm ∧ t.zones = s.zones ∧ t.sectors = s.sectors := by
  have he : exec .thermalCoolTimer s = .next (setLevel (thermEvent { s with thm := { s.thm with
      coolFrom := some s.nowUs, stage := s.thm.enforced, graceEnd := none } }) (s.thm.level == 3)) := by
    show (if s.thm.coolFrom.isNone = true then _ else if s.thm.graceEnd.isSome = true then _ else _) = _
    rw [if_neg (by simpa using hc), if_pos (Option.ne_none_iff_isSome.mp hg)]; rfl
  refine ⟨_, he, ?_⟩
  obtain ⟨a, b, hev⟩ := thermEvent_only { s with thm := { s.thm with
    coolFrom := some s.nowUs, stage := s.thm.enforced, graceEnd := none } }
  obtain ⟨a', b', l, v, hl⟩ := setLevel_only (thermEvent { s with thm := { s.thm with
    coolFrom := some s.nowUs, stage := s.thm.enforced, graceEnd := none } }) (s.thm.level == 3)
  rw [hl, hev]
  exact ⟨rfl, rfl, rfl, rfl, rfl, rfl, rfl, rfl⟩

/-- The stage in force lowered by one (R433). -/
theorem thermalCoolTimer_lowers (hc : s.thm.coolFrom ≠ none) (hg : s.thm.graceEnd = none) (h0 : s.thm.enforced ≠ 0) :
    ∃ t, exec .thermalCoolTimer s = .next t ∧
      t.thm.enforced = s.thm.enforced - 1 ∧ t.thm.stage = s.thm.enforced - 1 ∧
      t.cms.wTherm = wOf (s.thm.enforced - 1) ∧ t.pm.tcap = capOf (s.thm.enforced - 1) ∧
      t.thm.coolFrom = some s.nowUs ∧ t.zones = s.zones ∧ t.sectors = s.sectors := by
  have he : exec .thermalCoolTimer s = .next (setLevel (thermEvent (enforce { s with thm := { s.thm with
      coolFrom := some s.nowUs, stage := s.thm.enforced - 1 } } (s.thm.enforced - 1))) (s.thm.level == 3)) := by
    show (if s.thm.coolFrom.isNone = true then _ else if s.thm.graceEnd.isSome = true then _ else
      if (s.thm.enforced == 0) = true then _ else _) = _
    rw [if_neg (by simpa using hc), if_neg (by simp [hg]), beq_false_of_ne h0]; rfl
  refine ⟨_, he, ?_⟩
  obtain ⟨p, c, k, hen, hw, ht, -⟩ := enforce_eq { s with thm := { s.thm with
    coolFrom := some s.nowUs, stage := s.thm.enforced - 1 } } (s.thm.enforced - 1)
  generalize enforce _ _ = s1 at hen ⊢
  obtain ⟨a, b, hev⟩ := thermEvent_only s1
  obtain ⟨a', b', l, v, hl⟩ := setLevel_only (thermEvent s1) (s.thm.level == 3)
  rw [hl, hev, hen]
  exact ⟨rfl, rfl, hw, ht, rfl, rfl, rfl⟩

/-! ### The thermal halt and Trip (R436, R438, R462) -/

/-- The device halted on what `s1` holds, reading its warning temperature `w`. -/
def thermalStop (s1 : State) (w : Nat) : State :=
  let times := recentHalts s1 ++ [s1.opUs]
  let frozen := some (w, setBit (critWarn s1 0 0) 1, spareShare s1 0)
  let t := deviceClear s1
  { t with
    boot := { t.boot with phase := .thermal }
    glb := { t.glb with miFrozen := frozen }
    thm := { t.thm with
      halted := true, halts := satAdd 8 t.thm.halts 1, haltTimes := times, stay := decide (3 ≤ times.length) } }

theorem thermalHalt_next (hs : s.thm.stopping = true) (hp : s.boot.phase = .released) (hb : s.hold.brace = false)
    (hc : ∀ kv ∈ s.cmds, kv.2.phase ≠ .started) : exec .thermalHalt s = .next
      (thermalStop (commitAll (devRec s 0xB2 7 0 0 s.thm.composite) (allSlots s)) s.thm.composite) := by
  have hany : s.cmds.any (fun kv => kv.2.phase == .started) = false := by
    rw [List.any_eq_false]; exact fun kv hkv => by simpa using hc kv hkv
  show (if (!s.thm.stopping || s.boot.phase != .released || s.hold.brace ||
    s.cmds.any (fun kv => kv.2.phase == .started)) = true then _ else _) = _
  rw [hs, hp, hb, hany]; rfl

theorem thermalStop_state (s1 : State) (w : Nat) : (thermalStop s1 w).boot.phase = .thermal ∧
    (thermalStop s1 w).thm.halted = true ∧
    (thermalStop s1 w).thm.stay = decide (3 ≤ (thermalStop s1 w).thm.haltTimes.length) ∧
    (thermalStop s1 w).thm.haltTimes ≠ [] ∧ (thermalStop s1 w).glb.miFrozen ≠ none ∧ (thermalStop s1 w).cmds = [] ∧
    (thermalStop s1 w).ctrls = [] ∧ (thermalStop s1 w).sqs = [] ∧ (thermalStop s1 w).comms = [] ∧
    (thermalStop s1 w).cipher.keys = [] ∧ nonvolatile (thermalStop s1 w) = nonvolatile s1 :=
  ⟨rfl, rfl, rfl, List.append_ne_nil_of_right_ne_nil _ (List.cons_ne_nil _ _), Option.some_ne_none _, rfl, rfl, rfl, rfl, rfl, rfl⟩

theorem trip_next {n : Nat} (hn : n ∈ [0, 3, 5, 19]) (hp : s.boot.phase ≠ .off) : exec (.trip n) s = .next
    (let t := deviceClear s
     { t with
       board := { t.board with thermTrip := true, railEn := 0, chgEn := false }
       boot := { t.boot with phase := .tripped }
       plinth := { t.plinth with lossAll := t.plinth.newest != 3 }
       thm := { t.thm with trippedBit := true } }) := by
  show (if (s.boot.phase == .off || !([0, 3, 5, 19].contains n)) = true then _ else _) = _
  rw [beq_false_of_ne hp, List.contains_iff_mem.mpr hn]
  rfl

end

/-- Settles O45: the stage in force is what `enforce` leaves, and each stop resets the islands. -/
theorem thermalLadderHaltAndTrip : Obligations.ThermalLadderHaltAndTrip := by
  refine ⟨fun s => ⟨graceTimerExpiry_state, fun hc => ⟨thermalCoolTimer_withdraws hc, fun hg h0 => ?_,
    thermalCoolTimer_lowers hc⟩⟩, fun s => ⟨fun hs hp hb hc => ?_, fun hp hs => ?_, fun hp hs => ?_, fun n hn hp => ?_⟩⟩
  · show (if s.thm.coolFrom.isNone = true then _ else if s.thm.graceEnd.isSome = true then _ else
      if (s.thm.enforced == 0) = true then _ else _) = _
    rw [if_neg (by simpa using hc), if_neg (by simp [hg]), h0]; rfl
  · obtain ⟨h1, h2, h3, h4, h5, h6, h7, h8, h9, h10, h11⟩ := thermalStop_state
      (commitAll (devRec s 0xB2 7 0 0 s.thm.composite) (allSlots s)) s.thm.composite
    exact ⟨_, thermalHalt_next hs hp hb hc, h1, h2, h3, h4, h5, h6, h7, h8, h9, h10,
      h11.trans (nonvolatile_of_guarded ((commitAll_guarded _ _).trans (noted_devRec s 0xB2 7 0 0 s.thm.composite).guarded))⟩
  · refine ⟨_, ?_, rfl, rfl, rfl, rfl, coldClear_resets s 5⟩
    show (if (s.boot.phase != .thermal || s.thm.stay) = true then _ else _) = _
    rw [hp, hs]; rfl
  · show (if (s.boot.phase != .thermal || s.thm.stay) = true then _ else _) = _
    rw [hs, Bool.or_true]; rfl
  · exact ⟨_, trip_next hn hp, rfl, rfl, rfl, rfl, { deviceClear_resets s with }⟩

end Sys2Proof.Machine
end
section
/-! SUPPORT. The cipher's state, kept by an operation on the media. -/

namespace Sys2Proof.Machine

structure CipherView where
  cipher : Cipher

def cipherView (s : State) : CipherView :=
  ⟨s.cipher⟩

@[simp] theorem cipherView_mk
    (x0 x1 x2 x3 x4 x5 x6 x7 x8 x9 x10 x11 x12 x13 x14 x15 x16 x17 x18
      x19 x20 x21 x22 x23 x24 x25 x26 x27 x28 x29 x30 x31 x32 x33 x34 x35 x36) :
    cipherView (State.mk x0 x1 x2 x3 x4 x5 x6 x7 x8 x9 x10 x11 x12 x13 x14 x15 x16 x17 x18
      x19 x20 x21 x22 x23 x24 x25 x26 x27 x28 x29 x30 x31 x32 x33 x34 x35 x36) =
      ⟨x28⟩ := rfl

@[simp] theorem cipherView_fold (s : State) : (⟨s.cipher⟩ : CipherView) = cipherView s := rfl

@[simp] theorem cipherView_ite (c : Prop) [Decidable c] (a b : State) :
    cipherView (if c then a else b) = if c then cipherView a else cipherView b := apply_ite _ _ _ _

@[simp] theorem cipherView_foldl {α : Type} (f : State → α → State) (l : List α) (s : State)
    (h : ∀ a x, cipherView (f a x) = cipherView a) : cipherView (l.foldl f s) = cipherView s := by
  induction l generalizing s with
  | nil => rfl
  | cons x t ih => simp [ih, h]

@[simp] theorem setRow_cipherView (s : State) (k : Nat) (v : Row) : cipherView (setRow s k v) = cipherView s := by rfl

@[simp] theorem setComm_cipherView (s : State) (h : Nat) (v : Comm) : cipherView (setComm s h v) = cipherView s := by
  rfl

@[simp] theorem withIdent_cipherView (s : State) (owner : Nat) : cipherView (withIdent s owner) = cipherView s := by
  simp [withIdent]

@[simp] theorem pruneIds_cipherView (s : State) : cipherView (pruneIds s) = cipherView s := by rfl

@[simp] theorem passBuf_cipherView (s : State) (k owner : Nat) (parts : List (Nat × Nat × Nat)) :
    cipherView (passBuf s k owner parts) = cipherView s := by simp [passBuf]

@[simp] theorem releaseBuf_cipherView (s : State) (k : Nat) : cipherView (releaseBuf s k) = cipherView s := by
  unfold releaseBuf; dsimp only; (repeat' split) <;> simp

@[simp] theorem releaseBufs_cipherView (s : State) (l : List Nat) : cipherView (releaseBufs s l) = cipherView s := by
  simp [releaseBufs]

@[simp] theorem unpark_cipherView (s : State) (n i : Nat) : cipherView (unpark s n i) = cipherView s := by rfl

@[simp] theorem freeOwned_cipherView (s : State) (owner : Nat) : cipherView (freeOwned s owner) = cipherView s := by
  simp [freeOwned]

@[simp] theorem leaveWaits_cipherView (s : State) : cipherView (leaveWaits s) = cipherView s := by rfl

@[simp] theorem feedOne_cipherView (s : State) : cipherView (feedOne s) = cipherView s := by rfl

@[simp] theorem feed_cipherView (s : State) : cipherView (feed s) = cipherView s := by
  unfold feed; apply cipherView_foldl; intro a x; simp

@[simp] theorem dropReads_cipherView (s : State) (p : Owner → Bool) : cipherView (dropReads s p) = cipherView s := by
  unfold dropReads; dsimp only; split
  · rfl
  · simp

@[simp] theorem gcBuffer_cipherView (s : State) (i : Nat) (place : Option (Nat × Nat)) :
    cipherView (gcBuffer s i place) = cipherView s := by
  unfold gcBuffer; dsimp only; apply cipherView_foldl; intro a k; split <;> simp

@[simp] theorem dropMoves_cipherView (s : State) : cipherView (dropMoves s) = cipherView s := by
  unfold dropMoves; dsimp only
  rw [cipherView_foldl]
  · rw [cipherView_foldl]
    · simp
    · intro a x; apply cipherView_foldl; intro b y; simp
  · intro a x; simp

end Sys2Proof.Machine
end
section
/-! PROOFS. The low-power states and the power estimate. -/

namespace Sys2Proof.Machine

/-! ### Keys back from the shadow (R301, R313) -/

/-- A slot holds an entry's value in two shares. -/
def HoldsEntry (k : Key) (e : KeyEnt) (v : Nat) : Prop :=
  k.st = e.st ∧ k.ser = e.ser ∧ k.share0 ^^^ k.share1 = expandKey e.isSeal v

theorem unwrapEntry_congr {s t : State} (h : t.board.fuses = s.board.fuses) (i : Nat) (e : KeyEnt) :
    unwrapEntry t i e = unwrapEntry s i e := by
  delta unwrapEntry storageKey kdfDrk
  rw [h]

theorem shareKey_holds (s : State) (e : KeyEnt) (v : Nat) : HoldsEntry (shareKey s e.st e.isSeal e.ser v).1 e v := by
  refine ⟨rfl, rfl, ?_⟩
  unfold shareKey
  dsimp only
  rw [Nat.xor_comm (expandKey e.isSeal v), ← Nat.xor_assoc, Nat.xor_self, Nat.zero_xor]

/-- An entry whose value is known fills its slot. -/
theorem restoreKey_some {s : State} {i : Nat} {e : KeyEnt} {v : Nat} (h : unwrapEntry s i e = some v) (h0 : e.st ≠ 0) :
    HoldsEntry (getKey (restoreKey s (i, e)) i) e v := by
  have hk := shareKey_holds s e v
  rw [restoreKey_elim]
  dsimp only
  rw [h]
  dsimp only [Option.elim]
  generalize shareKey s e.st e.isSeal e.ser v = r at hk ⊢
  have hne : r.1 ≠ {} := fun h => h0 (hk.1.symm.trans (congrArg Key.st h))
  rw [getKey, tget_tset_same _ _ _ _ hne]
  exact hk

theorem restoreKey_other {s : State} {x : Nat × KeyEnt} {i : Nat} (h : i ≠ x.1) :
    getKey (restoreKey s x) i = getKey s i := by
  rw [restoreKey_elim]
  dsimp only
  cases unwrapEntry s x.1 x.2 with
  | none => rfl
  | some v =>
    dsimp only [Option.elim]
    have hk : (shareKey s x.2.st x.2.isSeal x.2.ser v).2.cipher.keys = s.cipher.keys :=
      keys_of_guarded (shareKey_guarded s x.2.st x.2.isSeal x.2.ser v)
    generalize shareKey s x.2.st x.2.isSeal x.2.ser v = r at hk ⊢
    rw [getKey, getKey, tget_tset_ne _ _ _ _ _ h, hk]

theorem restoreKeys_holds (l : List (Nat × KeyEnt)) (s : State) {i : Nat} {e : KeyEnt} {v : Nat} (hm : (i, e) ∈ l)
    (hu : ∀ d, (i, d) ∈ l → d = e) (h0 : e.st ≠ 0) (h : unwrapEntry s i e = some v) :
    HoldsEntry (getKey (l.foldl restoreKey s) i) e v := by
  induction l using List.reverseRecOn with
  | nil => cases hm
  | append_singleton l x ih =>
    rw [List.foldl_append, List.foldl_cons, List.foldl_nil]
    by_cases hx : i = x.1
    · obtain ⟨j, d⟩ := x
      obtain rfl : i = j := hx
      obtain rfl := hu d (by simp)
      refine restoreKey_some ?_ h0
      rwa [unwrapEntry_congr (congrArg (fun n : List (Nat × List Nat) × BootHdr × BootHdr × Fuses => n.2.2.2)
        (restoreKeys_store l s))]
    · rw [restoreKey_other hx]
      refine ih ?_ fun d hd => hu d (List.mem_append_left _ hd)
      rcases List.mem_append.mp hm with h | h
      · exact h
      · exact absurd (congrArg Prod.fst (List.mem_singleton.mp h)) hx

theorem fromShadow_holds (s : State) {i : Nat} {e : KeyEnt} {v : Nat} (hm : (i, e) ∈ s.cipher.shadow)
    (hu : ∀ d, (i, d) ∈ s.cipher.shadow → d = e) (h0 : e.st ≠ 0) (h : unwrapEntry s i e = some v) :
    HoldsEntry (getKey (fromShadow s) i) e v := by
  unfold fromShadow
  refine restoreKeys_holds s.cipher.shadow _ hm hu h0 ?_
  rw [unwrapEntry_congr]
  · exact h
  · rfl

/-- What a state with the guarded parts of `fromShadow`'s holds. -/
theorem KeysBack.of_guarded {s u t : State} (hs : u.cipher.shadow = s.cipher.shadow) (hf : u.board.fuses = s.board.fuses)
    (h : guarded t = guarded (fromShadow u)) : KeysBack s t := by
  intro i e v hm hu h0 hv
  have hk : getKey t i = getKey (fromShadow u) i := by
    rw [getKey, getKey, show t.cipher.keys = (fromShadow u).cipher.keys from congrArg Guarded.keys h]
  rw [hk]
  rw [← hs] at hm hu
  exact fromShadow_holds u hm hu h0 ((unwrapEntry_congr hf i e).trans hv)

/-! ### What a way out of a low-power state changes -/

theorem restoreKey_only (s : State) (x : Nat × KeyEnt) : ∃ c, restoreKey s x = { s with cipher := c } := by
  rw [restoreKey_elim]
  dsimp only
  cases unwrapEntry s x.1 x.2 with
  | none => exact ⟨s.cipher, rfl⟩
  | some v =>
    dsimp only [Option.elim]
    have h : ∃ c, (shareKey s x.2.st x.2.isSeal x.2.ser v).2 = { s with cipher := c } := by
      unfold shareKey
      dsimp only
      split
      · exact ⟨_, rfl⟩
      · exact ⟨s.cipher, rfl⟩
    generalize shareKey s x.2.st x.2.isSeal x.2.ser v = r at h ⊢
    obtain ⟨c, h⟩ := h
    exact ⟨_, by rw [h]⟩

theorem fromShadow_only (s : State) : ∃ c, fromShadow s = { s with cipher := c } := by
  have h (l : List (Nat × KeyEnt)) (s : State) : ∃ c, l.foldl restoreKey s = { s with cipher := c } := by
    induction l generalizing s with
    | nil => exact ⟨s.cipher, rfl⟩
    | cons x l ih =>
      obtain ⟨c, hx⟩ := restoreKey_only s x
      obtain ⟨d, hl⟩ := ih (restoreKey s x)
      exact ⟨d, by rw [List.foldl_cons, hl, hx]⟩
  obtain ⟨c, hc⟩ := h s.cipher.shadow { s with cipher := { s.cipher with keys := [] } }
  exact ⟨c, hc⟩

theorem startDrbg_only (s : State) : ∃ c, startDrbg s = { s with cipher := c } := by
  delta startDrbg
  dsimp only
  split
  · exact ⟨_, rfl⟩
  · exact ⟨_, rfl⟩

theorem quickAll_only (s : State) : ∃ l, quickAll s = { s with chans := l } := by
  unfold quickAll
  generalize List.range 32 = r
  induction r generalizing s with
  | nil => exact ⟨s.chans, rfl⟩
  | cons c r ih =>
    obtain ⟨l, h⟩ := ih (quickAtExit s c)
    have hc : ∃ l, quickAtExit s c = { s with chans := l } := by
      unfold quickAtExit
      dsimp only
      split
      · exact ⟨_, rfl⟩
      · exact ⟨s.chans, rfl⟩
    obtain ⟨l', h'⟩ := hc
    exact ⟨l, by rw [List.foldl_cons, h, h']⟩

theorem fedStart_only (s : State) : ∃ f b, fedStart s = { s with fed := f, board := { s.board with fedOut := b } } := by
  unfold fedStart
  dsimp only
  split
  · exact ⟨s.fed, s.board.fedOut, rfl⟩
  · exact ⟨_, _, rfl⟩

/-- The device's islands up again, as both the exit and a window begin. -/
theorem islandsBack (s : State) : ∃ c l, quickAll (fromShadow (startDrbg s)) = { s with cipher := c, chans := l } := by
  obtain ⟨c, hc⟩ := startDrbg_only s
  obtain ⟨d, hd⟩ := fromShadow_only (startDrbg s)
  obtain ⟨l, hl⟩ := quickAll_only (fromShadow (startDrbg s))
  exact ⟨d, l, by rw [hl, hd, hc]⟩

theorem withAssist_eq (n : Nat) (p : Pm) (ps : Nat) : withAssist n p ps = { p with
    vsram := (withAssist n p ps).vsram, rda := (withAssist n p ps).rda, wra := (withAssist n p ps).wra
    wlud := (withAssist n p ps).wlud, ramp := (withAssist n p ps).ramp } := by
  unfold withAssist
  dsimp only
  split <;> rfl

/-- The exit from PS4, or out of the wait for it (R313, R418, R420, R421). -/
theorem leaveLow_state (s : State) (src : Nat) : (leaveLow s src).pm.ps = max s.pm.back s.pm.tcap ∧
    (leaveLow s src).pm.entry = .none ∧ (leaveLow s src).pm.wakeSrc = src ∧ (leaveLow s src).pm.domXcr = true ∧
    KeysBack s (leaveLow s src) ∧ (leaveLow s src).boot.phase = .released ∧ (leaveLow s src).glb.miFrozen = none ∧
    (leaveLow s src).cmds = s.cmds ∧ (leaveLow s src).zones = s.zones ∧ (leaveLow s src).sectors = s.sectors := by
  have hg : guarded (leaveLow s src) = guarded (fromShadow (startDrbg s)) := by
    unfold leaveLow; dsimp only
    rw [trigger_guarded, guarded_mk]
    simp
  have hk : KeysBack s (leaveLow s src) := by
    obtain ⟨c, hc⟩ := startDrbg_only s
    exact .of_guarded (by rw [show (startDrbg s).cipher.shadow = s.cipher.shadow from congrArg Guarded.shadow (startDrbg_guarded s)])
      (by rw [hc]) hg
  have hs1 : ∃ s1, missedLow (fedStart (quickAll (fromShadow (startDrbg s)))) = s1 ∧ s1.pm = s.pm ∧ s1.cmds = s.cmds ∧
      s1.zones = s.zones ∧ s1.sectors = s.sectors := by
    obtain ⟨c, l, hb⟩ := islandsBack s
    obtain ⟨f, b, hf⟩ := fedStart_only (quickAll (fromShadow (startDrbg s)))
    have hp := missedLow_platform (fedStart (quickAll (fromShadow (startDrbg s))))
    have hv := missedLow_ioView (fedStart (quickAll (fromShadow (startDrbg s))))
    generalize missedLow (fedStart (quickAll (fromShadow (startDrbg s)))) = s1 at hp hv
    rw [hf, hb] at hp hv
    exact ⟨s1, rfl, congrArg Platform.pm hp, congrArg IoView.cmds hv, congrArg IoView.zones hv, congrArg IoView.sectors hv⟩
  obtain ⟨s1, he, hpm, hcmds, hz, hsec⟩ := hs1
  rw [← hpm, ← hcmds, ← hz, ← hsec]
  refine ⟨?_, (leaveLow_released s src).2, ?_, ?_, hk, (leaveLow_released s src).1, ?_⟩
  all_goals
    unfold leaveLow
    dsimp only
    rw [he, trigger_only]
    dsimp only
  · rw [withAssist_eq]
  · rw [withAssist_eq]
  · rw [withAssist_eq]; rfl
  · exact ⟨rfl, rfl, rfl, rfl⟩

theorem fedStop_only (s : State) : ∃ f b v, fedStop s = { s with
    fed := f, board := { s.board with fedOut := b }, glb := { s.glb with istat := v } } := by
  unfold fedStop
  dsimp only
  split
  · exact ⟨_, _, _, rfl⟩
  · exact ⟨_, _, _, rfl⟩

/-- The domains powered down for a low-power state: the key RAM emptied, its shadow and the media as they were. -/
theorem powerDown_state (s : State) : (powerDown s).pm.ps = s.pm.ps ∧ (powerDown s).pm.cnt3 = s.pm.cnt3 ∧
    (powerDown s).pm.domXcr = false ∧ (powerDown s).pm.domChg = 0 ∧ (powerDown s).cipher.keys = [] ∧
    (powerDown s).cipher.shadow = s.cipher.shadow ∧ (powerDown s).zones = s.zones ∧
    (powerDown s).sectors = s.sectors ∧ (powerDown s).pool = s.pool ∧ nonvolatile (powerDown s) = nonvolatile s := by
  obtain ⟨f, b, v, h⟩ := fedStop_only s
  unfold powerDown
  rw [h]
  dsimp only
  refine ⟨?_, ?_, ?_, ?_, rfl, rfl, rfl, rfl, rfl, rfl⟩
  all_goals rw [withAssist_eq]

/-- PS4 reached: its domains and clocks off (R420). -/
theorem reachPs4_state (s : State) : (reachPs4 s).pm.ps = 4 ∧ (reachPs4 s).pm.entry = .none ∧
    (reachPs4 s).pm.domCore = false ∧ (reachPs4 s).pm.cnt4 = satAdd 16 s.pm.cnt4 1 ∧ (reachPs4 s).clk.lock = 0 ∧
    (reachPs4 s).clk.xoOk = false ∧ (reachPs4 s).cipher = s.cipher ∧ (reachPs4 s).zones = s.zones ∧
    (reachPs4 s).sectors = s.sectors := by
  have hp := dropMoves_platform s
  have hv := dropMoves_ioView s
  have hc : (dropMoves s).cipher = s.cipher := congrArg CipherView.cipher (dropMoves_cipherView s)
  refine ⟨rfl, rfl, rfl, ?_, rfl, rfl, hc, congrArg IoView.zones hv, congrArg IoView.sectors hv⟩
  show satAdd 16 (dropMoves s).pm.cnt4 1 = _
  rw [show (dropMoves s).pm = s.pm from congrArg Platform.pm hp]

section
variable {s : State}

/-- Everything an entry waits for, in one flag of its command's guard. -/
theorem entryGuard {e : Entry} (he : s.pm.entry = e) (hq : quiet s = true) (hs : inService s = true) :
    (s.pm.entry != e || !(quiet s) || !(inService s)) = false := by
  rw [he, hq, hs]; cases e <;> rfl

theorem apstIdleTimer_next {e : ApstEntry} (hon : s.pm.apstOn = true) (hm : s.boot.maquette = false)
    (hs : inService s = true) (hen : s.pm.entry = .none) (hps : s.pm.ps < 3) (hq : quiet s = true)
    (hb : s.hold.brace = false) (he : apstEntry s = some e) : exec .apstIdleTimer s =
      if (!(liveComms s).isEmpty || entryBarred s) = true then
        .next { s with pm := { s.pm with apstSkip := satAdd 16 s.pm.apstSkip 1 } }
      else .next (beginEntry s e.itps) := by
  have hgo : (!s.pm.apstOn || s.boot.maquette || !(inService s) || s.pm.entry != .none || s.pm.ps == 4 || !(quiet s) ||
      s.hold.brace) = false := by
    rw [hon, hm, hs, hen, beq_false_of_ne (by omega), hq, hb]; rfl
  show (if (!s.pm.apstOn || s.boot.maquette || !(inService s) || s.pm.entry != .none || s.pm.ps == 4 || !(quiet s) ||
      s.hold.brace) = true then _ else _) = _
  rw [hgo, if_neg Bool.false_ne_true]
  dsimp only
  rw [he]
  have h3 : s.pm.ps ≠ 3 := by omega
  dsimp only
  rw [beq_false_of_ne h3]
  rfl

theorem ps3Entry_state (hen : s.pm.entry = .drain3) (hq : quiet s = true) (hs : inService s = true)
    (hd : degraded s = false) (hdies : diesQuiet s = true) :
    ∃ t, exec .ps3Entry s = .next t ∧ t.pm.ps = 3 ∧ t.pm.entry = .none ∧ t.pm.cnt3 = satAdd 16 s.pm.cnt3 1 ∧
      t.pm.domXcr = false ∧ t.pm.domChg = 0 ∧ t.cipher.keys = [] ∧ t.cipher.shadow = s.cipher.shadow ∧
      t.zones = s.zones ∧ t.sectors = s.sectors ∧ t.pool = s.pool := by
  obtain ⟨-, h2, h3, h4, h5, h6, h7, h8, h9, -⟩ := powerDown_state s
  refine ⟨{ powerDown s with pm := { (powerDown s).pm with
    ps := 3, entry := .none, cnt3 := satAdd 16 (powerDown s).pm.cnt3 1 } }, ?_, rfl, rfl, ?_, h3, h4, h5, h6, h7, h8, h9⟩
  · show (if (s.pm.entry != .drain3 || !(quiet s) || !(inService s)) = true then _ else ok (enterPs3 s)) = _
    rw [entryGuard hen hq hs, if_neg Bool.false_ne_true, enterPs3, hd]
    dsimp only
    rw [if_neg Bool.false_ne_true, hdies]
    rfl
  · show satAdd 16 (powerDown s).pm.cnt3 1 = _
    rw [h2]

theorem ps4Entry_state (hen : s.pm.entry = .drain4) (hq : quiet s = true) (hs : inService s = true)
    (hdies : diesQuiet (commitAll s (allSlots s)) = true) :
    ∃ t, exec .ps4Entry s = .next t ∧ t.pm.entry = .wait4 ∧ t.pm.domXcr = false ∧ t.cipher.keys = [] ∧
      t.cipher.shadow = s.cipher.shadow ∧ nonvolatile t = nonvolatile s := by
  have hg := commitAll_guarded s (allSlots s)
  have he : exec .ps4Entry s = .next { powerDown (commitAll s (allSlots s)) with
      pm := { (powerDown (commitAll s (allSlots s))).pm with entry := .wait4 } } := by
    show (if (s.pm.entry != .drain4 || !(quiet s) || !(inService s)) = true then _ else ok (enterPs4 s)) = _
    rw [entryGuard hen hq hs, if_neg Bool.false_ne_true, enterPs4]
    dsimp only
    rw [hdies]
    rfl
  obtain ⟨-, -, h3, -, h5, h6, -, -, -, h10⟩ := powerDown_state (commitAll s (allSlots s))
  exact ⟨_, he, rfl, h3, h5, h6.trans (congrArg Guarded.shadow hg), h10.trans (nonvolatile_of_guarded hg)⟩

theorem ps4L12Reached_state (hen : s.pm.entry = .wait4) (h0 : portReady s 0 = true) (h1 : portReady s 1 = true) :
    ∃ t, exec .ps4L12Reached s = .next t ∧ t.pm.ps = 4 ∧ t.pm.entry = .none ∧ t.pm.domCore = false ∧
      t.pm.cnt4 = satAdd 16 s.pm.cnt4 1 ∧ t.clk.lock = 0 ∧ t.clk.xoOk = false ∧ t.glb.miFrozen ≠ none ∧
      t.cipher = s.cipher ∧ t.zones = s.zones ∧ t.sectors = s.sectors := by
  have he : exec .ps4L12Reached s = .next { reachPs4 s with glb := { (reachPs4 s).glb with
      miFrozen := some (s.thm.composite, critWarn s 0 0, spareShare s 0) } } := by
    show (if (s.pm.entry != .wait4 || !(portReady s 0) || !(portReady s 1)) = true then _ else _) = _
    rw [hen, h0, h1]; rfl
  obtain ⟨a, b, c, d, e, f, g, h, i⟩ := reachPs4_state s
  exact ⟨_, he, a, b, c, d, e, f, Option.some_ne_none _, g, h, i⟩

theorem l12ExitWake_next {p : Nat} (hen : s.pm.entry = .none) (hps : s.pm.ps = 4)
    (hfw : fwCheck (fwImg s s.boot.fwSlot) s.board.fuses s.board.fuses.fwFloor = 0) (ha : absorbs s = false)
    (hd : (getPort s p).dlup = true) (hl : (getPort s p).link = .l12) :
    exec (.l12ExitWake p) s = .next (leaveLow (setPort s p { getPort s p with link := .l0 }) 3) := by
  have hw : exec (.l12ExitWake p) s = .next (if (setPort s p { getPort s p with link := .l0 }).pm.ps == 4 then
      wake (setPort s p { getPort s p with link := .l0 }) 3 else setPort s p { getPort s p with link := .l0 }) := by
    have hgo : (absorbs s || !(getPort s p).dlup || (getPort s p).link != .l12) = false := by rw [ha, hd, hl]; rfl
    show execL12ExitWake p s = _
    unfold execL12ExitWake
    dsimp only
    rw [hgo, if_neg Bool.false_ne_true, ok]
  have hwake (u : State) (h1 : u.pm.entry = .none) (h2 : u.pm.ps = 4) : wake u 3 = exitPs4 u 3 := by
    rw [wake, h1, h2, if_neg (by decide), if_neg (by decide), if_pos (by decide)]
  have hboot (u : State) (h1 : u.boot = s.boot) (h2 : u.board = s.board) :
      fwCheck (fwImg u u.boot.fwSlot) u.board.fuses u.board.fuses.fwFloor = 0 := by
    have hi : fwImg u = fwImg s := by delta fwImg; rw [h1]
    rw [hi, h1, h2]
    exact hfw
  have hpm := setPort_pm s p { getPort s p with link := .l0 }
  have hbt : (setPort s p { getPort s p with link := .l0 }).boot = s.boot := rfl
  have hbd : (setPort s p { getPort s p with link := .l0 }).board = s.board := rfl
  rw [hw]
  generalize setPort s p { getPort s p with link := .l0 } = u at hpm hbt hbd
  rw [hpm, hps, if_pos (by decide), hwake u (by rw [hpm, hen]) (by rw [hpm, hps]), exitPs4_boots 3 (hboot u hbt hbd)]

end

/-- Settles O48: the domains go down in `powerDown` and come back in `leaveLow`. -/
theorem lowPowerStatesEntered : Obligations.LowPowerStatesEntered := by
  intro s
  refine ⟨fun e hon hm hs hen hps hq hb he => ⟨fun hlive hbar ht => ?_, fun hbar => ?_⟩, ps3Entry_state, ps4Entry_state,
    ps4L12Reached_state, fun i src h => ?_⟩
  · rw [apstIdleTimer_next hon hm hs hen hps hq hb he, hlive, hbar, if_neg (by decide), beginEntry, ht]
    simp
  · rw [apstIdleTimer_next hon hm hs hen hps hq hb he, if_pos (by simpa using hbar)]
  · rcases h with ⟨hen, rfl, rfl⟩ | ⟨hen, hps, rfl, hfw, p, rfl, ha, hd, hl⟩
    · refine ⟨leaveLow s 7, ?_, leaveLow_state s 7⟩
      show (if (s.pm.entry != .wait4) = true then _ else _) = _
      rw [hen]; rfl
    · have he := l12ExitWake_next hen hps hfw ha hd hl
      have hu : ∃ u, setPort s p { getPort s p with link := .l0 } = u ∧ u.pm = s.pm ∧ u.board = s.board ∧
          u.cipher = s.cipher ∧ u.cmds = s.cmds ∧ u.zones = s.zones ∧ u.sectors = s.sectors :=
        ⟨_, rfl, rfl, rfl, rfl, rfl, rfl, rfl⟩
      obtain ⟨u, hu, hpm, hbd, hci, hcm, hzo, hse⟩ := hu
      rw [hu] at he
      rw [← hpm, ← hcm, ← hzo, ← hse]
      obtain ⟨h1, h2, h3, h4, h5, h6⟩ := leaveLow_state u 3
      refine ⟨_, he, h1, h2, h3, h4, fun i e v hm hu h0 hv => ?_, h6⟩
      rw [← hci] at hm hu
      exact h5 i e v hm hu h0 ((unwrapEntry_congr (by rw [hbd]) i e).trans hv)

section
variable {s : State}

/-- An estimate taken: the register, its peak, the slices over the budget in a row and the stop. -/
def estimated (s : State) (e : Nat) : State :=
  { s with pm := { s.pm with
    est := satTo 16 e, peak := max s.pm.peak (satTo 16 e)
    overMs := if budget s < e && s.pm.stopB then s.pm.overMs + 1 else 0
    stopB := if budget s < e + 50 then true else if e + 100 < budget s then false else s.pm.stopB } }

theorem powerEstimate_next (e : Nat) (hs : inService s = true) (hps : s.pm.ps < 3) : exec (.powerEstimate e) s =
    if (estimated s e).pm.overMs = 10 then
      .next (devRec (glbSet { estimated s e with pm := { (estimated s e).pm with overBudget := true } } 1) 0xB3 4 0 0 e)
    else .next (estimated s e) := by
  show (if (!(inService s) || decide (3 ≤ s.pm.ps)) = true then _ else
    if ((estimated s e).pm.overMs == 10) = true then _ else _) = _
  rw [hs, decide_eq_false (by omega), if_neg (by decide)]
  simp only [beq_iff_eq]
  rfl

theorem powerEstimate_state (e : Nat) (hs : inService s = true) (hps : s.pm.ps < 3) :
    ∃ t, exec (.powerEstimate e) s = .next t ∧ t.pm.est = satTo 16 e ∧ t.pm.peak = max s.pm.peak (satTo 16 e) ∧
      t.pm.overMs = (if budget s < e ∧ s.pm.stopB = true then s.pm.overMs + 1 else 0) ∧
      t.pm.stopB = (if budget s < e + 50 then true else if e + 100 < budget s then false else s.pm.stopB) ∧
      (t.pm.overMs = 10 → t.pm.overBudget = true ∧ bitOf t.glb.istat 1 = true ∧
        t.pat.events = s.pat.events + 1) ∧
      (t.pm.overMs ≠ 10 → t.pm.overBudget = s.pm.overBudget ∧ t.glb = s.glb ∧ t.pat = s.pat) ∧
      t.pm.ps = s.pm.ps ∧ t.cmds = s.cmds ∧ t.zones = s.zones ∧ t.sectors = s.sectors := by
  have he := powerEstimate_next e hs hps
  have hover : (estimated s e).pm.overMs = (if budget s < e ∧ s.pm.stopB = true then s.pm.overMs + 1 else 0) := by
    simp only [estimated, Bool.and_eq_true, decide_eq_true_eq]
  have hest : (estimated s e).pm.est = satTo 16 e ∧ (estimated s e).pm.peak = max s.pm.peak (satTo 16 e) ∧
      (estimated s e).pm.stopB = (if budget s < e + 50 then true else if e + 100 < budget s then false else s.pm.stopB) ∧
      (estimated s e).pm.overBudget = s.pm.overBudget ∧ (estimated s e).glb = s.glb ∧ (estimated s e).pat = s.pat ∧
      (estimated s e).pm.ps = s.pm.ps ∧ (estimated s e).cmds = s.cmds ∧ (estimated s e).zones = s.zones ∧
      (estimated s e).sectors = s.sectors := ⟨rfl, rfl, rfl, rfl, rfl, rfl, rfl, rfl, rfl, rfl⟩
  obtain ⟨h1, h2, h3, h4, h5, h6, h7, h8, h9, h10⟩ := hest
  generalize estimated s e = u at *
  by_cases h : u.pm.overMs = 10
  · rw [if_pos h] at he
    obtain ⟨hq, hev⟩ := devRec_quiet (glbSet { u with pm := { u.pm with overBudget := true } } 1) 0xB3 4 0 0 e (by decide)
    refine ⟨_, he, ?_⟩
    rw [hq]
    exact ⟨h1, h2, hover, h3, fun _ => ⟨rfl, glbSet_shown _ 1, by rw [← h6]; exact hev⟩, fun h' => absurd h h', h7, h8, h9, h10⟩
  · rw [if_neg h] at he
    exact ⟨_, he, h1, h2, hover, h3, fun h' => absurd h' h, fun _ => ⟨h4, h5, h6⟩, h7, h8, h9, h10⟩

theorem noppmeWindow_inPs3 (hps : s.pm.ps = 3) (hen : s.pm.entry = .none) (hs : inService s = true) :
    exec .noppmeWindow s =
      if s.pm.window = true then
        if (reserveDue s || !(diesQuiet s)) = true then ok s
        else ok { powerDown s with pm := { (powerDown s).pm with window := false } }
      else if (!s.pm.noppme || !(reserveDue s)) = true then ok s
      else
        let t := quickAll (fromShadow (startDrbg s))
        ok { t with
          pm := withAssist t.nowUs { operationalDomains t t.pm with window := true, wakeSrc := 5 } 2
          clk := { t.clk with lock := if t.clk.fallback then t.clk.lock else t.clk.lock + 4 * dramPll t } } := by
  have hgo : (s.pm.ps != 3 || s.pm.entry != .none || !(inService s)) = false := by rw [hps, hen, hs]; rfl
  show (if (s.pm.ps != 3 || s.pm.entry != .none || !(inService s)) = true then _ else _) = _
  rw [hgo, if_neg Bool.false_ne_true]

/-- A window opens: the islands up with their keys, the device in PS3 all the same (R417). -/
theorem noppmeWindow_opens (hps : s.pm.ps = 3) (hen : s.pm.entry = .none) (hs : inService s = true)
    (hw : s.pm.window = false) (hn : s.pm.noppme = true) (hdue : reserveDue s = true) :
    ∃ t, exec .noppmeWindow s = .next t ∧ t.pm.window = true ∧ t.pm.ps = 3 ∧ t.pm.wakeSrc = 5 ∧
      t.pm.domXcr = true ∧ KeysBack s t ∧ t.zones = s.zones ∧ t.sectors = s.sectors := by
  have he := noppmeWindow_inPs3 hps hen hs
  rw [hw, hn, hdue, if_neg Bool.false_ne_true, if_neg (by decide)] at he
  dsimp only at he
  obtain ⟨c, l, hb⟩ := islandsBack s
  have hg : guarded (quickAll (fromShadow (startDrbg s))) = guarded (fromShadow (startDrbg s)) := quickAll_guarded _
  generalize hu : quickAll (fromShadow (startDrbg s)) = u at he hb hg
  refine ⟨_, he, ?_, ?_, ?_, ?_, ?_, by rw [hb], by rw [hb]⟩
  · rw [withAssist_eq]
  · rw [withAssist_eq, hb]; exact hps
  · rw [withAssist_eq]
  · rw [withAssist_eq]; rfl
  · obtain ⟨c', hc'⟩ := startDrbg_only s
    exact .of_guarded (u := startDrbg s) (congrArg Guarded.shadow (startDrbg_guarded s)) (by rw [hc']) hg

end

/-- Settles O49: an estimate moves the estimate's own state alone, and a window is a stay in PS3 with the islands up. -/
theorem powerWatchedAndWindows : Obligations.PowerWatchedAndWindows := by
  intro s
  refine ⟨powerEstimate_state, fun hps hen hs => ⟨noppmeWindow_opens hps hen hs, fun hw hdue hdies => ?_, fun hw h => ?_⟩⟩
  · have he := noppmeWindow_inPs3 hps hen hs
    rw [hw, hdue, hdies, if_pos rfl, if_neg (by decide)] at he
    obtain ⟨h1, -, h3, -, h5, h6, h7, h8, -, -⟩ := powerDown_state s
    exact ⟨_, he, rfl, h1.trans hps, h3, h5, h6, h7, h8⟩
  · rw [noppmeWindow_inPs3 hps hen hs, hw, if_neg Bool.false_ne_true, if_pos (by rcases h with h | h <;> simp [h])]
    rfl

end Sys2Proof.Machine
end
section
/-! PROOFS. The host's registers: doorbells, links and functions, and the runs of a controller. -/

namespace Sys2Proof.Machine

/-! ### The host's accesses (R85, R420) -/

/-- The link of a port back in L0. -/
def linkUp (s : State) (p : Nat) : State :=
  if (getPort s p).link = .l0 then s else { s with ports := tset {} s.ports p { getPort s p with link := .l0 } }

theorem linkUp_only (s : State) (p : Nat) : linkUp s p = { s with ports := (linkUp s p).ports } := by
  unfold linkUp; split <;> rfl

theorem linkUp_ports (s : State) (p : Nat) : ∃ ps, linkUp s p = { s with ports := ps } :=
  ⟨(linkUp s p).ports, linkUp_only s p⟩

/-- Before the device wakes an access brings the link up alone. -/
theorem reached_eq (s : State) (p : Nat) : reached s p =
    if (linkUp s p).pm.ps == 4 && (linkUp s p).pm.entry == .none then wake (linkUp s p) 3 else linkUp s p := by
  have h : (if ((getPort s p).link == .l0) = true then s else setPort s p { getPort s p with link := .l0 }) = linkUp s p := by
    unfold linkUp; simp only [beq_iff_eq]; rfl
  unfold reached
  dsimp only
  rw [h]

theorem reached_linkUp {s : State} {p : Nat} (h : s.pm.entry ≠ .none ∨ s.pm.ps ≠ 4) : reached s p = linkUp s p := by
  rw [reached_eq, linkUp_only, if_neg]
  rcases h with h | h <;> simp [h]

theorem Awake.reached {s : State} (h : Awake s) (p : Nat) : reached s p = linkUp s p :=
  reached_linkUp (.inr (by have := h.2; omega))

theorem hostCan_absorbs {s : State} {c : Nat} (h : hostCan s c = true) : absorbs s = false := by
  simp only [hostCan, Bool.and_eq_true, Bool.not_eq_true'] at h
  exact h.1.1.1

theorem hostCan_dlup {s : State} {c : Nat} (h : hostCan s c = true) : (getPort s (portOf c)).dlup = true := by
  simp only [hostCan, Bool.and_eq_true] at h
  exact h.2

theorem linkUp_absorbs (s : State) (p : Nat) : absorbs (linkUp s p) = absorbs s := by rw [linkUp_only]; rfl

theorem Port.ne_of_dlup {v : Port} (h : v.dlup = true) : v ≠ {} := fun e => by rw [e] at h; cases h

/-- The link back in L0: the port's other registers stand. -/
theorem getPort_linkUp {s : State} {p : Nat} (hd : (getPort s p).dlup = true) :
    getPort (linkUp s p) p = { getPort s p with link := .l0 } := by
  unfold linkUp
  split
  next h => rw [← h]
  next => exact getPort_setPort_same _ _ _ (Port.ne_of_dlup hd)

/-- A port register written behind the link's return to L0 is one write. -/
theorem setPort_linkUp {s : State} {p : Nat} (hd : (getPort s p).dlup = true) (v : Port) :
    setPort (linkUp s p) p v = setPort s p v := by
  unfold linkUp
  split
  · rfl
  · show { s with ports := tset {} (tset {} s.ports p { getPort s p with link := .l0 }) p v } = _
    rw [tset_tset _ _ _ _ _ (Port.ne_of_dlup (v := { getPort s p with link := .l0 }) hd)]; rfl

/-- A host write to a device that is awake. -/
theorem hostWrite_awake {s : State} {c : Nat} (hc : hostCan s c = true) (ha : Awake s) (body : State → State) :
    hostWrite s (portOf c) body = .next (body (linkUp s (portOf c))) := by
  unfold hostWrite
  dsimp only
  rw [ha.reached, linkUp_absorbs, hostCan_absorbs hc]
  rfl

theorem portOf_pf0 (p : Nat) : portOf (p * 64) = p := by unfold portOf; omega

/-! ### Ports follow their links (R69, R71, R74, R85, R87, R374, R420) -/

section
variable {s : State} {port : Nat}

theorem linkSpeedWidthChange_next {gen width : Nat} (ha : absorbs s = false) (hp : portPresent s port = true)
    (hr : perstOf s port = false) (hl : (getPort s port).linkDown = false) (h1 : 1 ≤ gen)
    (hg : gen ≤ (if s.board.straps.gen = 1 then 4 else 5)) (hw : width ∈ [1, 2, 4, 8, 16]) (hm : width ≤ maxWidth s) :
    exec (.linkSpeedWidthChange port gen width) s = .next (trigger { s with
      ports := tset {} s.ports port { getPort s port with gen := gen, width := width, dlup := true, link := .l0 }
      clk := { s.clk with gate0 := setBit s.clk.gate0 (15 + port) } }) := by
  have hgo : (absorbs s || !(portPresent s port) || perstOf s port || (getPort s port).linkDown ||
      !(decide (1 ≤ gen) && decide (gen ≤ (if s.board.straps.gen == 1 then 4 else 5)) &&
        [1, 2, 4, 8, 16].contains width && decide (width ≤ maxWidth s))) = false := by
    simp only [beq_iff_eq]
    rw [ha, hp, hr, hl, decide_eq_true h1, decide_eq_true hg, List.contains_iff_mem.mpr hw, decide_eq_true hm]; rfl
  show (if (absorbs s || !(portPresent s port) || perstOf s port || (getPort s port).linkDown ||
      !(decide (1 ≤ gen) && decide (gen ≤ (if s.board.straps.gen == 1 then 4 else 5)) &&
        [1, 2, 4, 8, 16].contains width && decide (width ≤ maxWidth s))) = true then _ else _) = _
  rw [hgo, if_neg Bool.false_ne_true]
  rfl

theorem pf0MpsWrite_next {mps mrrs : Nat} (hc : hostCan s (port * 64) = true) (hp : port < 2) (ha : Awake s)
    (hm : mps ≤ 2) (hr : mrrs ≤ 5) : exec (.pf0MpsWrite port mps mrrs) s = .next (trigger { s with
      ports := tset {} s.ports port { getPort s port with link := .l0, mps := mps, mrrs := 128 * 2 ^ mrrs } }) := by
  have hd : (getPort s port).dlup = true := by have := hostCan_dlup hc; rwa [portOf_pf0] at this
  have hw := hostWrite_awake hc ha (fun t => trigger (setPort t port { getPort t port with mps := mps, mrrs := 128 * 2 ^ mrrs }))
  rw [portOf_pf0, getPort_linkUp hd, setPort_linkUp hd] at hw
  show (if (!(hostCan s (port * 64)) || 2 ≤ port || 2 < mps || 5 < mrrs : Bool) = true then _ else _) = _
  rw [hc, decide_eq_false (by omega : ¬ 2 ≤ port), decide_eq_false (by omega : ¬ 2 < mps),
    decide_eq_false (by omega : ¬ 5 < mrrs)]
  exact hw

theorem portCharged_iff : portCharged s port = true ↔ ∃ h ∈ liveComms s, (getComm s h).port = port := by
  simp [portCharged]

/-- Settles O39: each command's guard is the statement's premise, and its body one write of the port. -/
theorem portsFollowTheirLinks : Obligations.PortsFollowTheirLinks := by
  intro s port
  refine ⟨fun gen width => linkSpeedWidthChange_next, fun hc hp => ⟨fun mps mrrs ha hm hr => pf0MpsWrite_next hc hp ha hm hr,
    fun mps mrrs h => ?_, fun en => ?_⟩, fun m l hask => ?_, fun ha hd => ⟨fun hl h => ?_, fun hl h => ?_, fun b => ?_,
    fun hl hps => ?_⟩⟩
  · show (if (!(hostCan s (port * 64)) || 2 ≤ port || 2 < mps || 5 < mrrs : Bool) = true then _ else _) = _
    rw [if_pos (by rcases h with h | h <;> simp [h])]; rfl
  · show (if (!(hostCan s (port * 64)) || 2 ≤ port : Bool) = true then _ else _) = _
    rw [hc, decide_eq_false (by omega : ¬ 2 ≤ port)]; rfl
  · show (if (!(getPort s port).ptmAsk) = true then _ else _) = _
    rw [hask]; rfl
  · have hno : portCharged s port = false := by
      rw [← Bool.not_eq_true, portCharged_iff]; rintro ⟨i, hi, he⟩; exact h i hi he
    show (if (absorbs s || !(getPort s port).dlup || (getPort s port).link != .l0 || portCharged s port) = true then _
      else _) = _
    rw [ha, hd, hl, hno]; rfl
  · show (if (absorbs s || !(getPort s port).dlup || (getPort s port).link != .l0 || portCharged s port) = true then _
      else _) = _
    rw [portCharged_iff.mpr h, Bool.or_true]; rfl
  · show (if (absorbs s || !(getPort s port).dlup) = true then _ else _) = _
    rw [ha, hd]; rfl
  · have hgo : (absorbs s || !(getPort s port).dlup || (getPort s port).link != .l12) = false := by rw [ha, hd, hl]; rfl
    show execL12ExitWake port s = _
    unfold execL12ExitWake
    dsimp only
    rw [hgo, if_neg Bool.false_ne_true, if_neg (by simpa using hps)]
    rfl

end

end Sys2Proof.Machine
end
section
/-! PROOFS. Doorbells. -/

namespace Sys2Proof.Machine

/-! ### The device awake (R418, R420) -/

theorem missedLow_only (s : State) : ∃ r p, missedLow s = { s with rows := r, pat := p } := by
  have one (s : State) (k : Nat) : ∃ r p, recastMissed s k = { s with rows := r, pat := p } := by
    have hq (u : State) (n a b c : Nat) : nicheRec u n 0x53 4 a b c = { u with pat := (nicheRec u n 0x53 4 a b c).pat } :=
      (patina_quiet u _ (show 4 ≠ 7 by decide)).1
    unfold recastMissed
    dsimp only
    rw [hq]
    exact ⟨_, _, rfl⟩
  unfold missedLow
  generalize tkeys s.rows _ = l
  induction l generalizing s with
  | nil => exact ⟨s.rows, s.pat, rfl⟩
  | cons k l ih =>
    obtain ⟨r, p, h⟩ := one s k
    obtain ⟨r', p', h'⟩ := ih (recastMissed s k)
    exact ⟨r', p', by rw [List.foldl_cons, h', h]⟩

/-- The exit leaves the host's queues and ports as they were. -/
theorem leaveLow_host (s : State) (src : Nat) :
    (leaveLow s src).sqs = s.sqs ∧ (leaveLow s src).cqs = s.cqs ∧ (leaveLow s src).ports = s.ports := by
  obtain ⟨c, l, hb⟩ := islandsBack s
  obtain ⟨f, b, hf⟩ := fedStart_only (quickAll (fromShadow (startDrbg s)))
  obtain ⟨r, p, hm⟩ := missedLow_only (fedStart (quickAll (fromShadow (startDrbg s))))
  have hs1 : (missedLow (fedStart (quickAll (fromShadow (startDrbg s))))).sqs = s.sqs ∧
      (missedLow (fedStart (quickAll (fromShadow (startDrbg s))))).cqs = s.cqs ∧
      (missedLow (fedStart (quickAll (fromShadow (startDrbg s))))).ports = s.ports := by
    rw [hm, hf, hb]; exact ⟨rfl, rfl, rfl⟩
  unfold leaveLow
  dsimp only
  generalize missedLow _ = s1 at hs1
  rw [trigger_only]
  exact hs1

/-- The exit from PS4 as an equation of functions: unfolded at a state, the kernel would run the image's check. -/
theorem exitPs4_eq : exitPs4 = fun s src =>
    if fwCheck (fwImg s s.boot.fwSlot) s.board.fuses s.board.fuses.fwFloor == 0 then leaveLow s src
    else deviceWarm (bootRec (leaveLow s src) 0x02 5 (s.boot.fwSlot - 1) 0
      (fwCheck (fwImg s s.boot.fwSlot) s.board.fuses s.board.fuses.fwFloor)) 4 := by
  delta exitPs4
  rfl

theorem bootRec_pm (s : State) (typ sev a b c : Nat) : (bootRec s typ sev a b c).pm = s.pm := by
  unfold bootRec
  dsimp only
  split <;> rfl

theorem abandonSteps_pm (s : State) : (abandonSteps s).pm = s.pm := rfl

theorem beginFlush_entry (s : State) (ph : Phase) : (beginFlush s ph).pm.entry = .none := by
  unfold beginFlush
  dsimp only
  rw [abandonSteps_pm]
  split
  · obtain ⟨l, h⟩ := quickAll_only _
    rw [h]
  · rfl

theorem deviceWarm_entry {s : State} (h : s.pm.entry = .none) (why : Nat) : (deviceWarm s why).pm.entry = .none := by
  unfold deviceWarm
  dsimp only
  split
  · exact h
  · split
    · rfl
    · exact beginFlush_entry _ _

/-- The exit is a `leaveLow`, with a warm reset after it where the image fails its check (R422). -/
theorem exitPs4_cases {P : State → Prop} {s : State} {src : Nat} (h1 : P (leaveLow s src))
    (h2 : ∀ n, P (deviceWarm (bootRec (leaveLow s src) 0x02 5 (s.boot.fwSlot - 1) 0 n) 4)) : P (exitPs4 s src) := by
  have h (n : Nat) : P (if n == 0 then leaveLow s src
      else deviceWarm (bootRec (leaveLow s src) 0x02 5 (s.boot.fwSlot - 1) 0 n) 4) := by
    split
    · exact h1
    · exact h2 n
  rw [exitPs4_eq]
  exact h _

theorem exitPs4_entry (s : State) (src : Nat) : (exitPs4 s src).pm.entry = .none := by
  have hl := (leaveLow_released s src).2
  exact exitPs4_cases (P := fun t => t.pm.entry = .none) hl fun n => deviceWarm_entry (by rw [bootRec_pm]; exact hl) 4

/-- A device that is woken is in no entry any more. -/
theorem wake_entry (s : State) (src : Nat) : (wake s src).pm.entry = .none := by
  unfold wake
  split
  · unfold abandonEntry
    split
    next h => exact h
    next => exact (leaveLow_released s src).2
    next => rfl
  next h =>
    split
    · exact (leaveLow_released s src).2
    · split
      · exact exitPs4_entry s src
      · simpa using h

theorem wake_awake {s : State} (h : Awake s) (src : Nat) : wake s src = s := by
  have h3 : s.pm.ps ≠ 3 := by have := h.2; omega
  have h4 : s.pm.ps ≠ 4 := by have := h.2; omega
  rw [wake, h.1, if_neg (by decide), if_neg (by simpa using h3), if_neg (by simpa using h4)]

/-- What waking leaves of the host's queues, its commands and the media, out of an entry or out of PS3. -/
theorem wake_host {s : State} (h : s.pm.entry ≠ .none ∨ s.pm.ps = 3) (src : Nat) :
    (wake s src).sqs = s.sqs ∧ (wake s src).cqs = s.cqs ∧ (wake s src).cmds = s.cmds ∧ (wake s src).zones = s.zones ∧
      (wake s src).sectors = s.sectors ∧ (wake s src).ports = s.ports := by
  obtain ⟨-, -, -, -, -, -, -, hc, hz, hs⟩ := leaveLow_state s src
  obtain ⟨hq, hcq, hp⟩ := leaveLow_host s src
  unfold wake
  split
  · unfold abandonEntry
    split
    · exact ⟨rfl, rfl, rfl, rfl, rfl, rfl⟩
    · exact ⟨hq, hcq, hc, hz, hs, hp⟩
    · exact ⟨rfl, rfl, rfl, rfl, rfl, rfl⟩
  next he =>
    rw [if_pos (by simpa using h.resolve_left (by simpa using he))]
    exact ⟨hq, hcq, hc, hz, hs, hp⟩

/-! ### The doorbells (R80, R102, R118) -/

section
variable {s : State} {c q v : Nat}

theorem tailDoorbell_moves (hl : (getSq s (qk c q)).live = true) (hv : v < (getSq s (qk c q)).size)
    (hp : ¬ (getSq s (qk c q)).size ≤ (v + (getSq s (qk c q)).size - (getSq s (qk c q)).tail) % (getSq s (qk c q)).size +
      ((getSq s (qk c q)).tail + (getSq s (qk c q)).size - (getSq s (qk c q)).head) % (getSq s (qk c q)).size) :
    tailDoorbell s c q v = { s with sqs := tset {} s.sqs (qk c q) { getSq s (qk c q) with tail := v } } := by
  unfold tailDoorbell
  dsimp only
  rw [hl, if_neg (by decide), if_neg (by omega), if_neg hp]
  rfl

theorem tailDoorbell_absent (hl : (getSq s (qk c q)).live = false) : tailDoorbell s c q v = raiseOn s c ⟨0, 0, 1⟩ := by
  unfold tailDoorbell
  dsimp only
  rw [hl]
  rfl

theorem tailDoorbell_bad (hl : (getSq s (qk c q)).live = true) (h : (getSq s (qk c q)).size ≤ v ∨
    (getSq s (qk c q)).size ≤ (v + (getSq s (qk c q)).size - (getSq s (qk c q)).tail) % (getSq s (qk c q)).size +
      ((getSq s (qk c q)).tail + (getSq s (qk c q)).size - (getSq s (qk c q)).head) % (getSq s (qk c q)).size) :
    tailDoorbell s c q v = raiseOn s c ⟨0, 1, 1⟩ := by
  unfold tailDoorbell
  dsimp only
  rw [hl, if_neg (by decide)]
  by_cases hv : (getSq s (qk c q)).size ≤ v
  · rw [if_pos hv]; rfl
  · rw [if_neg hv, if_pos (h.resolve_left hv)]; rfl

/-- The entries a head doorbell frees. -/
def freedBy (y : Cq) (v : Nat) : Nat := (v + y.size - (y.tail + y.size - y.ring.length) % y.size) % y.size

theorem headDoorbell_frees (hl : (getCq s (qk c q)).live = true) (hv : v < (getCq s (qk c q)).size)
    (hu : freedBy (getCq s (qk c q)) v ≤ (getCq s (qk c q)).ring.length) : headDoorbell s c q v = { s with
      cqs := tset {} s.cqs (qk c q) { getCq s (qk c q) with
        ring := (getCq s (qk c q)).ring.drop (freedBy (getCq s (qk c q)) v) } } := by
  unfold headDoorbell
  dsimp only
  rw [hl, if_neg (by decide), if_neg (by omega)]
  exact if_neg (by unfold freedBy at hu; omega)

theorem headDoorbell_absent (hl : (getCq s (qk c q)).live = false) : headDoorbell s c q v = raiseOn s c ⟨0, 0, 1⟩ := by
  unfold headDoorbell
  dsimp only
  rw [hl]
  rfl

theorem headDoorbell_bad (hl : (getCq s (qk c q)).live = true)
    (h : (getCq s (qk c q)).size ≤ v ∨ (getCq s (qk c q)).ring.length < freedBy (getCq s (qk c q)) v) :
    headDoorbell s c q v = raiseOn s c ⟨0, 1, 1⟩ := by
  unfold headDoorbell
  dsimp only
  rw [hl, if_neg (by decide)]
  by_cases hv : (getCq s (qk c q)).size ≤ v
  · rw [if_pos hv]; rfl
  · rw [if_neg hv]
    exact if_pos (h.resolve_left hv)

/-- The state a doorbell's write finds: behind the link, and awake where a tail doorbell wakes it. -/
theorem doorbells_next (hc : hostCan s c = true) (ha : absorbs (reached s (portOf c)) = false) :
    exec (.sqTailDoorbell c q v) s = .next (tailDoorbell (doorbellWake (reached s (portOf c))) c q v) ∧
    exec (.cqHeadDoorbell c q v) s = .next (headDoorbell (headWake (reached s (portOf c))) c q v) := by
  constructor
  · show (if (!(hostCan s c)) = true then _ else if absorbs (reached s (portOf c)) = true then _ else _) = _
    rw [hc, ha]; rfl
  · show (if (!(hostCan s c)) = true then _ else if absorbs (reached s (portOf c)) = true then _ else _) = _
    rw [hc, ha]; rfl

theorem doorbells_absorbed (hc : hostCan s c = true) (ha : absorbs (reached s (portOf c)) = true) :
    exec (.sqTailDoorbell c q v) s = .next (reached s (portOf c)) ∧
    exec (.cqHeadDoorbell c q v) s = .next (reached s (portOf c)) := by
  constructor
  · show (if (!(hostCan s c)) = true then _ else if absorbs (reached s (portOf c)) = true then _ else _) = _
    rw [hc, ha]; rfl
  · show (if (!(hostCan s c)) = true then _ else if absorbs (reached s (portOf c)) = true then _ else _) = _
    rw [hc, ha]; rfl

theorem headWake_eq (s : State) : headWake s = if s.pm.entry = .none then doorbellWake s else s := by
  unfold headWake
  simp only [beq_iff_eq]

theorem linkUp_awake (h : Awake s) (p : Nat) : Awake (linkUp s p) := by rw [linkUp_only]; exact h

/-! ### The event of a wrong doorbell (R102, R118) -/

theorem raiseOn_held {a : State} {e : Ev} (hev : (getCtrl a c).evs = []) (hw : (getCtrl a c).waitLog = []) :
    ((getCtrl a c).aers = [] → raiseOn a c e = setCtrl a c { getCtrl a c with evs := [e] }) ∧
    (∀ cid l, (getCtrl a c).aers = cid :: l → raiseOn a c e =
      adone (setCtrl (setCtrl a c { getCtrl a c with evs := [e] }) c { getCtrl a c with aers := l, waitLog := [e] })
        c cid .success (e.typ + e.info * 256 + e.log * 65536)) := by
  have hne : ({ getCtrl a c with evs := [e] } : Ctrl) ≠ {} := fun h => by simpa using congrArg Ctrl.evs h
  have hs : raiseOn a c e = pumpEvs (setCtrl a c { getCtrl a c with evs := [e] }) c 8 := by
    unfold raiseOn
    dsimp only
    rw [hev, hw]
    rfl
  rw [hs]
  refine ⟨fun h => ?_, fun cid l h => ?_⟩
  · unfold pumpEvs
    dsimp only
    rw [getCtrl_setCtrl_same _ _ _ hne]
    dsimp only
    rw [h]
  · have hne2 : ({ getCtrl a c with aers := l, waitLog := [e] } : Ctrl) ≠ {} := fun h => by
      simpa using congrArg Ctrl.waitLog h
    have hstop (u : State) (n : Nat) (hu : (getCtrl u c).evs = []) : pumpEvs u c n = u := by
      cases n with
      | zero => rfl
      | succ n =>
        unfold pumpEvs
        dsimp only
        rw [hu, List.find?_nil]
        split
        next h => cases h
        next => rfl
    unfold pumpEvs
    dsimp only
    rw [getCtrl_setCtrl_same _ _ _ hne]
    dsimp only
    rw [h, hw]
    simp only [List.find?, List.any_nil, Bool.not_false, List.erase_cons_head, List.nil_append]
    refine (hstop _ 7 ?_).trans (by rw [hev])
    show (getCtrl (setCtrl _ c _) c).evs = []
    rw [getCtrl_setCtrl_same]
    exact fun h => by simpa using congrArg Ctrl.waitLog h

end

/-- Settles O34: each doorbell's write is one case of `tailDoorbell` or `headDoorbell` on the state that answers. -/
theorem doorbellsMoveQueues : Obligations.DoorbellsMoveQueues := by
  intro s c q v
  dsimp only
  refine ⟨fun hc => ?_, doorbells_absorbed, fun a hc ha => ?_, fun a hc ha => ?_, fun a info hev hw => ?_, fun hc h => ?_⟩
  · constructor
    · show (if (!(hostCan s c)) = true then _ else _) = _
      rw [hc]; rfl
    · show (if (!(hostCan s c)) = true then _ else _) = _
      rw [hc]; rfl
  · have hr : absorbs (reached s (portOf c)) = false ∧ a = doorbellWake (reached s (portOf c)) := by
      rcases ha with ⟨haw, rfl⟩ | h
      · rw [haw.reached, linkUp_absorbs, hostCan_absorbs hc]
        exact ⟨rfl, (wake_awake (linkUp_awake haw _) 1).symm⟩
      · exact h
    obtain ⟨hab, rfl⟩ := hr
    have he := (doorbells_next (q := q) (v := v) hc hab).1
    refine ⟨wake_entry _ 1, fun hl hv hp => ?_, fun hl => ?_, fun hl hv => ?_, fun hl hp => ?_⟩
    · rw [he, tailDoorbell_moves hl hv hp]
    · rw [he, tailDoorbell_absent hl]
    · rw [he, tailDoorbell_bad hl (.inl hv)]
    · rw [he, tailDoorbell_bad hl (.inr hp)]
  · have hr : absorbs (reached s (portOf c)) = false ∧ a = headWake (reached s (portOf c)) := by
      rw [headWake_eq]
      rcases ha with ⟨haw, rfl⟩ | h
      · rw [haw.reached, linkUp_absorbs, hostCan_absorbs hc, if_pos (linkUp_awake haw _).1]
        exact ⟨rfl, (wake_awake (linkUp_awake haw _) 1).symm⟩
      · exact h
    obtain ⟨hab, rfl⟩ := hr
    have he := (doorbells_next (q := q) (v := v) hc hab).2
    refine ⟨fun hl hv hu => ?_, fun hl => ?_, fun hl hv => ?_, fun hl hu => ?_⟩
    · rw [he]; exact congrArg _ (headDoorbell_frees hl hv hu)
    · rw [he, headDoorbell_absent hl]
    · rw [he, headDoorbell_bad hl (.inl hv)]
    · rw [he]; exact congrArg _ (headDoorbell_bad hl (.inr hu))
  · obtain ⟨h1, h2⟩ := raiseOn_held (c := c) (a := a) (e := ⟨0, info, 1⟩) hev hw
    refine ⟨h1, fun cid l h => (h2 cid l h).trans ?_⟩
    have hd : 0 + info * 256 + 1 * 65536 = info * 256 + 65536 := by omega
    dsimp only
    rw [hd]
    rfl
  · have hr := reached_linkUp (s := s) (p := portOf c) (h.imp_right fun h => by omega)
    have h' : (linkUp s (portOf c)).pm.entry ≠ .none ∨ (linkUp s (portOf c)).pm.ps = 3 := by rw [linkUp_only]; exact h
    obtain ⟨h1, h2, h3, h4, h5, h6⟩ := wake_host h' 1
    rw [hr]
    have hl := linkUp_only s (portOf c)
    exact ⟨h1.trans (by rw [hl]), h2.trans (by rw [hl]), h3.trans (by rw [hl]), h4.trans (by rw [hl]), h5.trans (by rw [hl]), h6⟩

end Sys2Proof.Machine
end
section
/-! PROOFS. Controllers enabled, reset and shut down, a niche's reset and the virtual functions. -/

namespace Sys2Proof.Machine

/-! ### A controller's registers while commissions close -/

/-- A controller's registers without what it holds of events. -/
def unheard (v : Ctrl) : Ctrl := { v with evs := [], waitLog := [] }

/-- From `s` to `t` controller `c`, where no request of it waits, keeps its registers but for the events it holds. -/
structure Deaf (c : Nat) (s t : State) : Prop where
  wf : twf {} s.ctrls = true → twf {} t.ctrls = true
  regs : twf {} s.ctrls = true → (getCtrl s c).aers = [] → unheard (getCtrl t c) = unheard (getCtrl s c)

namespace Deaf

variable {c : Nat}

theorem refl (s : State) : Deaf c s s := ⟨id, fun _ _ => rfl⟩

theorem trans {s t u : State} (h : Deaf c s t) (k : Deaf c t u) : Deaf c s u where
  wf w := k.wf (h.wf w)
  regs w ha := by
    have hr := h.regs w ha
    exact (k.regs (h.wf w) ((congrArg Ctrl.aers hr).trans ha)).trans hr

theorem foldl {β : Type} (f : State → β → State) (l : List β) (s : State) (h : ∀ a x, Deaf c a (f a x)) :
    Deaf c s (l.foldl f s) :=
  List.foldlRecOn l f (refl s) fun _ ha x _ => ha.trans (h _ x)

theorem same {s t : State} (h : t.ctrls = s.ctrls) : Deaf c s t where
  wf w := by rwa [h]
  regs _ _ := by rw [getCtrl, getCtrl, h]

theorem setCtrl_ne {s : State} {d : Nat} (h : c ≠ d) (v : Ctrl) : Deaf c s (setCtrl s d v) where
  wf := twf_tset _ _ _ _
  regs _ _ := by rw [getCtrl_setCtrl_ne _ h]

theorem raiseOn (s : State) (d : Nat) (e : Ev) : Deaf c s (raiseOn s d e) := by
  have pump (n : Nat) (s : State) : Deaf c s (pumpEvs s d n) := by
    induction n generalizing s with
    | zero => exact refl s
    | succ n ih =>
      unfold pumpEvs
      dsimp only
      split
      next cid rest x ha hx =>
        refine Deaf.trans ?_ (ih _)
        by_cases h : c = d
        · subst h
          exact ⟨twf_tset _ _ _ _, fun _ h0 => by rw [h0] at ha; cases ha⟩
        · exact (setCtrl_ne h _).trans (same rfl)
      · exact refl s
  have heard {s : State} (v : Ctrl) (hv : unheard v = unheard (getCtrl s d)) : Deaf c s (setCtrl s d v) := by
    refine ⟨twf_tset _ _ _ _, fun w _ => ?_⟩
    rw [getCtrl_setCtrl w]
    split
    next h => rw [hv, h]
    next => rfl
  unfold Machine.raiseOn
  dsimp only
  refine Deaf.trans ?_ (pump 8 _)
  generalize (if (getCtrl s d).waitLog.any (sameKind e) then 1 else 2 : Nat) = lim
  split
  · exact heard _ rfl
  · exact refl s

theorem commEvent (s : State) (h code : Nat) : Deaf c s (commEvent s h code) := by
  unfold Machine.commEvent
  dsimp only
  split
  · exact refl s
  · refine Deaf.trans ?_ (foldl _ _ _ fun a d => raiseOn a d _)
    split <;> exact same rfl

theorem closeGone (s : State) : Deaf c s (closeGone s) := by
  refine foldl _ _ _ fun a h => ?_
  unfold closeByDevice
  dsimp only
  split
  · exact refl a
  · refine Deaf.trans ?_ (commEvent _ _ _)
    exact same rfl

end Deaf

/-! ### The niches' table while a controller's queues go -/

/-- The niches' table stays in canonical form. -/
def NichesWf (s t : State) : Prop := twf {} s.niches = true → twf {} t.niches = true

theorem NichesWf.foldl {β : Type} (f : State → β → State) (l : List β) (s : State) (h : ∀ a x, NichesWf a (f a x)) :
    NichesWf s (l.foldl f s) :=
  List.foldlRecOn l f id fun _ ha x _ => h _ x ∘ ha

theorem NichesWf.same {s t : State} (h : t.niches = s.niches) : NichesWf s t := fun w => by rwa [h]

theorem nichesWf_freeOwned (s : State) (o : Nat) : NichesWf s (freeOwned s o) := by
  unfold freeOwned
  dsimp only
  intro w
  refine NichesWf.foldl _ _ _ (fun a n => ?_) (by rw [releaseBufs_eq]; exact w)
  exact twf_tset _ _ _ _

theorem nichesWf_discard {s : State} (h : NoFinishWaits s) (id : Nat) : NichesWf s (discard s id) := by
  unfold discard
  dsimp only
  rw [slotFreed_quiet]
  · unfold delCmd freeCmdBufs
    rw [releaseBufs_eq, dropReads_eq]
    exact twf_tset _ _ _ _
  · unfold NoFinishWaits delCmd freeCmdBufs
    rw [releaseBufs_eq, dropReads_eq]
    exact h

theorem nichesWf_closeGone (s : State) : NichesWf s (closeGone s) := by
  have ev (s : State) (h code : Nat) : NichesWf s (commEvent s h code) := by
    unfold commEvent
    dsimp only
    split
    · exact id
    · generalize hs3 : (if (code == 3) = true then _ else _ : State) = s3
      obtain ⟨a, b, hr⟩ := raiseAll_only s3 (ctrlsOf s3 (handleNiche h)) (vendor code 0xC1)
      rw [NichesWf, hr, ← hs3]
      split
      · exact id
      · exact twf_tset _ _ _ _
  refine NichesWf.foldl _ _ _ fun a h => ?_
  unfold closeByDevice
  dsimp only
  split
  · exact id
  · exact fun w => ev _ h 4 w

theorem nichesWf_dropQueues {s : State} (h : NoFinishWaits s) (c : Nat) : NichesWf s (dropQueues s c) := by
  unfold dropQueues
  dsimp only
  have h0 : NichesWf s ((s.pool.ctl.filter (fun r => r.c == c)).foldl dropCtl s) :=
    NichesWf.foldl _ _ _ fun a r => nichesWf_freeOwned a (ctlOwner r.num)
  have n0 : NoFinishWaits ((s.pool.ctl.filter (fun r => r.c == c)).foldl dropCtl s) := by
    rw [dropCtls_only]; exact h
  generalize (s.pool.ctl.filter (fun r => r.c == c)).foldl dropCtl s = s0 at h0 n0 ⊢
  have h1 (l : List Nat) : NoFinishWaits (l.foldl discard s0) ∧ NichesWf s0 (l.foldl discard s0) :=
    List.foldlRecOn (motive := fun t => NoFinishWaits t ∧ NichesWf s0 t) l discard ⟨n0, id⟩ fun a ha x _ => ⟨discard_noFinish ha.1 x, nichesWf_discard ha.1 x ∘ ha.2⟩
  have h1 := (h1 (tkeys s0.cmds (fun _ d => ctrlOfSq d.sq == c))).2
  generalize List.foldl discard s0 _ = s1 at h1 ⊢
  intro w
  show twf {} (List.foldl endHold s1 _).niches = true
  rw [endHolds_only]
  exact h1 (h0 w)

/-! ### A controller reset (R130) -/

/-- A controller's reset before its commissions close. -/
theorem dropController_eq {s : State} (hf : NoFlushWaits s) (hn : NoFinishWaits s) (c : Nat) :
    ∃ a, Drops {c} s a ∧ a.ctrls = s.ctrls ∧ a.ports = s.ports ∧ NichesWf s a ∧
      dropController s c = closeGone (setCtrl a c (keptCtrl (getCtrl s c))) ∧ Drops {c} s (dropController s c) := by
  obtain ⟨hq, hc, hp⟩ := dropQueues_quiet hn c
  have hw := nichesWf_dropQueues hn c
  unfold dropController
  dsimp only
  generalize dropQueues s c = a at hq hc hp hw ⊢
  have hr : getCtrl a c = getCtrl s c := by rw [getCtrl, getCtrl, hc]
  have hd : Drops {c} s (closeGone (setCtrl a c (keptCtrl (getCtrl a c)))) := by
    simpa using (hq.trans (drops_setCtrl a c _)).trans (closeStep_closeGone _).drops
  rw [settle_none _ (hd.noFlush hf)]
  exact ⟨a, hq, hc, hp, hw, by rw [hr], hd⟩

theorem dropController_ports {s : State} (hf : NoFlushWaits s) (hn : NoFinishWaits s) (c : Nat) :
    (dropController s c).ports = s.ports := by
  obtain ⟨a, -, -, hp, -, he, -⟩ := dropController_eq hf hn c
  obtain ⟨_, _, _, _, _, _, _, hg⟩ := (closeStep_closeGone (setCtrl a c (keptCtrl (getCtrl s c)))).rest
  rw [he, hg]
  exact hp

/-- The registers a controller's reset leaves it, and CC.EN of the others (R130, R456). -/
theorem dropController_regs {s : State} (hf : NoFlushWaits s) (hn : NoFinishWaits s) (w : twf {} s.ctrls = true) (c : Nat) :
    twf {} (dropController s c).ctrls = true ∧
      unheard (getCtrl (dropController s c) c) = keptCtrl (getCtrl s c) ∧
      ∀ d, d ≠ c → (getCtrl (dropController s c) d).en = (getCtrl s d).en := by
  obtain ⟨a, -, hc, -, -, he, -⟩ := dropController_eq hf hn c
  have wa : twf {} a.ctrls = true := hc ▸ w
  have hg : Deaf c (setCtrl a c (keptCtrl (getCtrl s c))) (closeGone (setCtrl a c (keptCtrl (getCtrl s c)))) := .closeGone _
  have hk : getCtrl (setCtrl a c (keptCtrl (getCtrl s c))) c = keptCtrl (getCtrl s c) := by
    rw [getCtrl_setCtrl wa, if_pos rfl]
  have hs := closeStep_closeGone (setCtrl a c (keptCtrl (getCtrl s c)))
  rw [he]
  refine ⟨hg.wf (twf_tset _ _ _ _ wa), ?_, fun d hd => ?_⟩
  · rw [hg.regs (twf_tset _ _ _ _ wa) (by rw [hk]; rfl), hk]; rfl
  · have := congrArg Prod.fst (hs.regs d)
    rw [getCtrl_setCtrl wa, if_neg hd] at this
    exact this.trans (by rw [getCtrl, hc]; rfl)

theorem nichesWf_dropController {s : State} (hf : NoFlushWaits s) (hn : NoFinishWaits s) (c : Nat) :
    NichesWf s (dropController s c) := by
  obtain ⟨a, -, -, -, hw, he, -⟩ := dropController_eq hf hn c
  rw [he]
  exact fun w => nichesWf_closeGone _ (hw w)

/-! ### A controller's runs (R89, R130, R131) -/

section
variable {s : State} {c : Nat}

theorem controllerEnable_next {cc aqa asq acq : Nat} (hc : hostCan s c = true) (ha : Awake s)
    (hen : (getCtrl s c).en = false) :
    exec (.controllerEnable c cc aqa asq acq) s = .next { linkUp s (portOf c) with
      ctrls := tset {} s.ctrls c { getCtrl s c with
        en := true, rdy := s.glb.released, shst := 0, cc := setBit cc 0, aqa := aqa, asq := asq, acq := acq }
      sqs := tset {} s.sqs (qk c 0) { live := true, size := aqa % 4096 + 1 }
      cqs := tset {} s.cqs (qk c 0) { live := true, size := aqa / 65536 % 4096 + 1, ien := true } } := by
  have hw := hostWrite_awake hc ha (fun t => adminQueues (setCtrl t c { getCtrl t c with
    en := true, rdy := t.glb.released, shst := 0, cc := setBit cc 0, aqa := aqa, asq := asq, acq := acq }) c aqa)
  obtain ⟨ps, hps⟩ := linkUp_ports s (portOf c)
  rw [hps] at hw ⊢
  have hgo : (!(hostCan s c) || (getCtrl s c).en) = false := by rw [hc, hen]; rfl
  exact (if_neg (by rw [hgo]; exact Bool.false_ne_true)).trans hw

theorem controllerReset_next (hc : hostCan s c = true) (ha : Awake s) (hen : (getCtrl s c).en = true) :
    exec (.controllerReset c) s = .next (dropController s c) := by
  have hw : wakeReset s = s := wake_awake ha 4
  show (if (!(hostCan s c) || !(getCtrl s c).en) = true then _ else ok (dropController (wakeReset s) c)) = _
  rw [hc, hen, hw]
  rfl

theorem shutdownNotification_next (b : Bool) (hc : hostCan s c = true) (ha : Awake s) (hr : (getCtrl s c).rdy = true)
    (h0 : (getCtrl s c).shst = 0) : exec (.shutdownNotification c b) s =
      .next (endShutdown (setCtrl (linkUp s (portOf c)) c { getCtrl s c with shst := 1 }) c) := by
  have hg : getCtrl (linkUp s (portOf c)) c = getCtrl s c := by rw [linkUp_only]; rfl
  show (if (!(hostCan s c) || !(getCtrl s c).rdy || (getCtrl s c).shst != 0) = true then _ else _) = _
  rw [hc, hr, h0, if_neg (by decide), hostWrite_awake hc ha, hg]

/-- A shutdown begun: it ends at once where no command of the controller is started (R131). -/
theorem endShutdown_begun {v : Ctrl} (s : State) :
    endShutdown (setCtrl s c { v with shst := 1 }) c =
      if s.cmds.any (fun kv => ctrlOfSq kv.2.sq == c && kv.2.phase == .started) then setCtrl s c { v with shst := 1 }
      else
        let s1 := commitAll (setCtrl s c { v with shst := 1 }) (shutdownSlots (setCtrl s c { v with shst := 1 }) c)
        setCtrl s1 c { getCtrl s1 c with shst := 2 } := by
  have hne : ({ v with shst := 1 } : Ctrl) ≠ {} := fun h => by simpa using congrArg Ctrl.shst h
  unfold endShutdown
  rw [getCtrl_setCtrl_same _ _ _ hne]
  rfl

end

/-- Settles O35: an enable is one write, a reset drops the controller, a shutdown waits for its started commands. -/
theorem controllersRun : Obligations.ControllersRun := by
  intro s c hc ha
  refine ⟨fun cc aqa asq acq hen => controllerEnable_next hc ha hen, fun hen hf hn w => ?_, fun b hr h0 => ⟨fun hs => ?_, fun hs => ?_⟩⟩
  · obtain ⟨-, hk, -⟩ := dropController_regs hf hn w c
    obtain ⟨-, -, -, -, -, -, hd⟩ := dropController_eq hf hn c
    refine ⟨dropController s c, controllerReset_next hc ha hen, hd.noQueues rfl, ?_⟩
    generalize getCtrl (dropController s c) c = x at hk
    have f {α : Type} (g : Ctrl → α) : g (unheard x) = g (keptCtrl (getCtrl s c)) := congrArg g hk
    exact ⟨f Ctrl.en, f Ctrl.rdy, f Ctrl.allot, f Ctrl.aers, f Ctrl.aqa, f Ctrl.asq, f Ctrl.acq, f Ctrl.errs,
      dropController_ports hf hn c, hd.toMediaStill.mediaKept⟩
  · have hany : (linkUp s (portOf c)).cmds.any (fun kv => ctrlOfSq kv.2.sq == c && kv.2.phase == .started) = true := by
      obtain ⟨kv, hm, h1, h2⟩ := hs
      rw [linkUp_only]
      exact List.any_eq_true.mpr ⟨kv, hm, by simp [h1, h2]⟩
    obtain ⟨ps, hps⟩ := linkUp_ports s (portOf c)
    have hg : exec (.shutdownNotification c b) s = .next { linkUp s (portOf c) with
        ctrls := tset {} s.ctrls c { getCtrl s c with shst := 1 } } := by
      rw [shutdownNotification_next b hc ha hr h0, endShutdown_begun, if_pos hany, hps]
      rfl
    exact hg
  · have hany : (linkUp s (portOf c)).cmds.any (fun kv => ctrlOfSq kv.2.sq == c && kv.2.phase == .started) = false := by
      rw [linkUp_only, List.any_eq_false]
      exact fun kv hm => by simpa using hs kv hm
    have he := shutdownNotification_next b hc ha hr h0
    rw [endShutdown_begun, hany, if_neg Bool.false_ne_true] at he
    refine ⟨_, he, ?_, ?_⟩
    · rw [getCtrl_setCtrl_same]
      exact fun h => by simpa using congrArg Ctrl.shst h
    · show guarded (commitAll _ _) = _
      rw [commitAll_guarded, linkUp_only]; rfl

end Sys2Proof.Machine
end
section
/-! PROOFS. A niche's reset and the virtual functions. -/

namespace Sys2Proof.Machine

/-! ### Controllers reset one after another (R211, R457) -/

/-- From `s` to `t` the controllers of `D` are reset. -/
structure Halts (D : Set Nat) (s t : State) : Prop extends Drops D s t where
  ctrls : twf {} s.ctrls = true → twf {} t.ctrls = true
  niches : NichesWf s t
  off : ∀ d ∈ D, (getCtrl t d).en = false

theorem halts_dropController {s : State} (hf : NoFlushWaits s) (hn : NoFinishWaits s) (w : twf {} s.ctrls = true) (c : Nat) :
    Halts {c} s (dropController s c) ∧ ∀ d, d ≠ c → (getCtrl (dropController s c) d).en = (getCtrl s d).en := by
  obtain ⟨hw, hk, hne⟩ := dropController_regs hf hn w c
  obtain ⟨-, -, -, -, -, -, hd⟩ := dropController_eq hf hn c
  refine ⟨{ hd with ctrls := fun _ => hw, niches := nichesWf_dropController hf hn c, off := ?_ }, hne⟩
  rintro d rfl
  generalize getCtrl (dropController s d) d = x at hk
  exact (congrArg Ctrl.en hk : (unheard x).en = _)

theorem halts_dropControllers (l : List Nat) {s : State} (hf : NoFlushWaits s) (hn : NoFinishWaits s)
    (w : twf {} s.ctrls = true) : Halts {c | c ∈ l} s (l.foldl dropController s) := by
  induction l using List.reverseRecOn with
  | nil => simpa using ({ Drops.refl s with ctrls := id, niches := id, off := fun _ h => h.elim } : Halts ∅ s s)
  | append_singleton l c ih =>
    rw [List.foldl_append, List.foldl_cons, List.foldl_nil]
    obtain ⟨hc, hne⟩ := halts_dropController (ih.toDrops.noFlush hf) (ih.toDrops.finish hn) (ih.ctrls w) c
    have e : {d | d ∈ l ++ [c]} = ({d | d ∈ l} ∪ {c} : Set Nat) := by ext d; simp [or_comm]
    rw [e]
    refine { ih.toDrops.trans hc.toDrops with ctrls := hc.ctrls ∘ ih.ctrls, niches := hc.niches ∘ ih.niches, off := ?_ }
    intro d hd
    by_cases h : d = c
    · exact hc.off d h
    · rw [hne d h]; exact ih.off d (hd.resolve_right h)

/-- Commissions closed by force: their queues let go, the media and the controllers as they were (R211). -/
theorem forceComms_only (s : State) (n : Nat) : ∃ a b c p, forceComms s n = { s with
    comms := a, sqs := b, cms := c, pat := p } := by
  have one (s : State) (h x y : Nat) : ∃ a b c p, nicheRec (removeComm s h) n 0x30 3 0 x y = { s with
      comms := a, sqs := b, cms := c, pat := p } := by
    have hq : nicheRec (removeComm s h) n 0x30 3 0 x y =
        { removeComm s h with pat := (nicheRec (removeComm s h) n 0x30 3 0 x y).pat } :=
      (patina_quiet _ _ (show 3 ≠ 7 by decide)).1
    exact ⟨_, _, _, _, hq⟩
  unfold forceComms
  generalize tkeys s.comms _ = l
  suffices H : ∀ u, ∃ a b c p, l.foldl (fun a h => nicheRec (removeComm a h) n 0x30 3 0 (getComm s h).tag h) u = { u with
      comms := a, sqs := b, cms := c, pat := p } from H s
  induction l with
  | nil => exact fun u => ⟨u.comms, u.sqs, u.cms, u.pat, rfl⟩
  | cons h l ih =>
    intro u
    obtain ⟨a, b, c, p, h1⟩ := one u h (getComm s h).tag h
    obtain ⟨a', b', c', p', h2⟩ := ih (nicheRec (removeComm u h) n 0x30 3 0 (getComm s h).tag h)
    exact ⟨a', b', c', p', by rw [List.foldl_cons, h2, h1]⟩

/-! ### A niche's reset (R138, R211, R457, R490) -/

theorem mem_ctrlsOf {s : State} {n d : Nat} : d ∈ ctrlsOf s n ↔ d < 128 ∧ binds s n d = true := by
  simp [ctrlsOf]

/-- A niche's reset: its controllers without queues, its counters and its status bits cleared, the media kept. -/
theorem resetNiche_state {s : State} (n : Nat) (force : Bool) (hf : NoFlushWaits s) (hn : NoFinishWaits s)
    (w : twf {} s.ctrls = true) (wn : twf {} s.niches = true) :
    (∀ d, binds s n d = true → d < 128 → NoQueues (resetNiche s n force) d ∧
      (getCtrl (resetNiche s n force) d).en = false) ∧
    (∃ v, getNch (resetNiche s n force) n = { clearCounters v with istat := 0 }) ∧
    MediaStill s (resetNiche s n force) := by
  have hs1 : ∃ a b c p, (if force then forceComms s n else s) = { s with comms := a, sqs := b, cms := c, pat := p } := by
    split
    · exact forceComms_only s n
    · exact ⟨s.comms, s.sqs, s.cms, s.pat, rfl⟩
  obtain ⟨a, b, c, p, hs1⟩ := hs1
  unfold resetNiche
  dsimp only
  rw [hs1]
  generalize hu : ({ s with comms := a, sqs := b, cms := c, pat := p } : State) = u
  have hm : MediaStill s u := .of_eq (by rw [← hu]; rfl)
  have hh : Halts {d | d ∈ ctrlsOf u n} u ((ctrlsOf u n).foldl dropController u) :=
    halts_dropControllers _ (by rw [← hu]; exact hf) (by rw [← hu]; exact hn) (by rw [← hu]; exact w)
  have hwn : twf {} ((ctrlsOf u n).foldl dropController u).niches = true := hh.niches (by rw [← hu]; exact wn)
  have hmem (d : Nat) (hb : binds s n d = true) (hd : d < 128) : d ∈ ctrlsOf u n := by
    rw [mem_ctrlsOf, ← hu]; exact ⟨hd, hb⟩
  generalize ctrlsOf u n = l at hh hwn hmem
  generalize l.foldl dropController u = t at hh hwn ⊢
  refine ⟨fun d hb hd => ?_, ⟨getNch t n, ?_⟩, hm.trans (hh.toMediaStill.trans (.of_eq rfl))⟩
  · have hq := hh.noQueues (hmem d hb hd)
    exact ⟨⟨hq.sqs, hq.cqs, hq.cmds⟩, hh.off d (hmem d hb hd)⟩
  · rw [getNch, setNch, tget_tset _ _ _ _ _ hwn, if_pos rfl]

theorem nicheReset_next {s : State} {c n : Nat} {force : Bool} (cid : Nat) (hs : adminServed s c = true) (hp : isPf0 c = true)
    (hm : s.boot.maquette = false) (hv : nicheValid s n = true) (hne : nicheOf s c ≠ some n)
    (hl : force = true ∨ liveOf s n = []) : exec (.nicheReset c cid n force 0) s = .next
      (adone (resetNiche (adminFetch s c) n force) c cid .success) := by
  have hm' : (adminFetch s c).boot.maquette = false := hm
  have hgo : (!(nicheValid (adminFetch s c) n) || nicheOf (adminFetch s c) c == some n) = false := by
    rw [Bool.or_eq_false_iff, Bool.not_eq_false', beq_eq_false_iff_ne]; exact ⟨hv, hne⟩
  have hlv : (!force && !(liveOf (adminFetch s c) n).isEmpty) = false := by
    rcases hl with rfl | h
    · rfl
    · have h' : liveOf (adminFetch s c) n = [] := h
      rw [h']; simp
  show execNicheReset c cid n force 0 s = _
  rw [execNicheReset, adminPf0_served s c cid _ hs hp, hm', if_neg Bool.false_ne_true, hgo, if_neg Bool.false_ne_true, hlv,
    if_neg Bool.false_ne_true]

theorem NoQueues.adone {t : State} {d c : Nat} (h : NoQueues t d) (hd : d ≠ c) (cid : Nat) (st : Status) :
    NoQueues (adone t c cid st) d where
  sqs := h.sqs
  cqs q hq := by
    rw [adone_other _ _ _ _ _ _ _ _ (fun e => hd ?_)]
    · exact h.cqs q hq
    · rw [← qk_ctrl d q hq, e, qk_ctrl c 0 (by omega)]
  cmds := h.cmds

/-! ### Virtual functions (R76, R79) -/

/-- A function reset on a port whose link is up leaves the port's registers (R456). -/
theorem dropFunction_state {s : State} (hf : NoFlushWaits s) (hn : NoFinishWaits s) (w : twf {} s.ctrls = true) (c : Nat) :
    Drops {c} s (dropFunction s c) ∧ twf {} (dropFunction s c).ctrls = true ∧
      ((getPort s (portOf c)).dlup = true →
        ∃ a, getPort (dropFunction s c) (portOf c) = { getPort s (portOf c) with aer := a }) := by
  have da : Drops ∅ s (dropAer s c) := drops_setPort _ _ _
  have hf' := da.noFlush hf
  have hn' := da.finish hn
  obtain ⟨-, -, -, -, -, -, hd⟩ := dropController_eq hf' hn' c
  obtain ⟨hw, -, -⟩ := dropController_regs hf' hn' w c
  have hp := dropController_ports hf' hn' c
  unfold dropFunction
  dsimp only
  generalize dropController (dropAer s c) c = t at hd hw hp ⊢
  refine ⟨by simpa using (da.trans hd).trans (drops_setCtrl t c _), twf_tset _ _ _ _ hw,
    fun hu => ⟨(getPort s (portOf c)).aer.filter (fun x => x.1 != fnOf c), ?_⟩⟩
  show tget {} t.ports (portOf c) = _
  rw [hp]
  exact getPort_setPort_same s (portOf c) _ (Port.ne_of_dlup (v := { getPort s (portOf c) with
    aer := (getPort s (portOf c)).aer.filter (fun x => x.1 != fnOf c) }) hu)

theorem dropFunctions_state (l : List Nat) {p : Nat} (hl : ∀ c ∈ l, portOf c = p) {s : State} (hf : NoFlushWaits s)
    (hn : NoFinishWaits s) (w : twf {} s.ctrls = true) (hu : (getPort s p).dlup = true) :
    Drops {c | c ∈ l} s (l.foldl dropFunction s) ∧
      ∃ a, getPort (l.foldl dropFunction s) p = { getPort s p with aer := a } := by
  induction l generalizing s with
  | nil => exact ⟨by simpa using Drops.refl s, ⟨_, rfl⟩⟩
  | cons c l ih =>
    obtain ⟨hd, hw, hp⟩ := dropFunction_state hf hn w c
    rw [hl c List.mem_cons_self] at hp
    obtain ⟨a, ha⟩ := hp hu
    obtain ⟨hd', a', ha'⟩ := ih (fun d hd => hl d (List.mem_cons_of_mem _ hd)) (hd.noFlush hf) (hd.finish hn) hw
      (by rw [ha]; exact hu)
    have e : {d | d ∈ c :: l} = ({c} ∪ {d | d ∈ l} : Set Nat) := by ext d; simp
    rw [List.foldl_cons, e]
    exact ⟨hd.trans hd', a', by rw [ha', ha]⟩

section
variable {s : State} {port num : Nat}

theorem vfEnable_next (en : Bool) (hc : hostCan s (port * 64) = true) (hp : port < 2) (ha : Awake s)
    (hv : (getPort s port).vfOn = !en) (hn : en = true → num ≤ totalVfs s port) :
    exec (.vfEnable port num en) s = .next (if en then
        setPort (linkUp s port) port { getPort (linkUp s port) port with vfOn := true, numVfs := num }
      else
        let s1 := ((List.range 63).map (fun i => port * 64 + i + 1)).foldl dropFunction (linkUp s port)
        setPort s1 port { getPort s1 port with vfOn := false }) := by
  have hgo : (!(hostCan s (port * 64)) || 2 ≤ port || (getPort s port).vfOn == en ||
      (en && totalVfs s port < num) : Bool) = false := by
    have h1 : decide (2 ≤ port) = false := decide_eq_false (by omega)
    cases en with
    | true => rw [hc, h1, hv, decide_eq_false (by have := hn rfl; omega)]; rfl
    | false => rw [hc, h1, hv]; rfl
  have hw := hostWrite_awake hc ha (fun t => if en then setPort t port { getPort t port with vfOn := true, numVfs := num }
    else
      let s1 := ((List.range 63).map (fun i => port * 64 + i + 1)).foldl dropFunction t
      setPort s1 port { getPort s1 port with vfOn := false })
  rw [portOf_pf0] at hw
  show (if _ then ok s else hostWrite s port _) = _
  rw [if_neg (by rw [hgo]; exact Bool.false_ne_true)]
  exact hw

end

/-- Settles O38: the niche's controllers are reset one by one, and so are the functions that VF Enable takes away. -/
theorem nicheResetAndFunctions : Obligations.NicheResetAndFunctions := by
  refine ⟨fun s c cid n force hs hp hm hv hne hl hf hn w wn => ?_, fun s port num hc hp ha => ⟨fun hv hn => ?_, fun hv hf hn w => ?_⟩⟩
  · obtain ⟨hq, ⟨v, hnch⟩, hmed⟩ := resetNiche_state (s := adminFetch s c) n force hf hn w wn
    have hms : MediaStill s (adminFetch s c) := .of_eq rfl
    have he := nicheReset_next cid hs hp hm hv hne hl
    generalize resetNiche (adminFetch s c) n force = u at hq hnch hmed he
    have hnch' : getNch (adone u c cid .success) n = { clearCounters v with istat := 0 } := hnch
    have hma : MediaStill u (adone u c cid .success) := .of_eq rfl
    exact ⟨_, he, cqeWaits_adone u c cid .success,
      fun d hb hd hdc => ⟨(hq d hb hd).1.adone hdc cid .success, (hq d hb hd).2⟩, congrArg Nch.istat hnch',
      congrArg Nch.hostWritten hnch', congrArg Nch.hostRead hnch', congrArg Nch.mediaWritten hnch',
      congrArg Nch.unrecovered hnch', (hms.trans (hmed.trans hma)).mediaKept⟩
  · have hd : (getPort s port).dlup = true := by have := hostCan_dlup hc; rwa [portOf_pf0] at this
    rw [vfEnable_next true hc hp ha (by rw [hv]; rfl) (fun _ => hn), if_pos rfl, getPort_linkUp hd, setPort_linkUp hd]
    rfl
  · have hd : (getPort s port).dlup = true := by have := hostCan_dlup hc; rwa [portOf_pf0] at this
    obtain ⟨ps, hps⟩ := linkUp_ports s port
    have hmu : MediaStill s (linkUp s port) := by rw [hps]; exact .of_eq rfl
    have he := vfEnable_next (num := num) false hc hp ha (by rw [hv]; rfl) nofun
    rw [if_neg Bool.false_ne_true] at he
    have hgu := getPort_linkUp hd
    obtain ⟨hdr, a, hgp⟩ := dropFunctions_state ((List.range 63).map (fun i => port * 64 + i + 1)) (p := port)
      (fun c hc => ((mem_vfs port c).1 hc).1) (s := linkUp s port) (by rw [hps]; exact hf) (by rw [hps]; exact hn)
      (by rw [hps]; exact w) (by rw [hgu]; exact hd)
    dsimp only at he
    generalize List.foldl dropFunction (linkUp s port) _ = t at he hdr hgp
    have hgt : getPort (setPort t port { getPort t port with vfOn := false }) port = { getPort t port with vfOn := false } :=
      getPort_setPort_same _ _ _ (Port.ne_of_dlup (v := { getPort t port with vfOn := false }) (by rw [hgp, hgu]; exact hd))
    have hms : MediaStill t (setPort t port { getPort t port with vfOn := false }) := .of_eq rfl
    refine ⟨_, he, by rw [hgt], by rw [hgt, hgp, hgu]; exact hd, by rw [hgt, hgp, hgu], fun i hi => ?_,
      (hmu.trans (hdr.toMediaStill.trans hms)).mediaKept⟩
    have hq := hdr.noQueues (c := port * 64 + i + 1) (List.mem_map.mpr ⟨i, List.mem_range.mpr hi, rfl⟩)
    exact ⟨hq.sqs, hq.cqs, hq.cmds⟩

end Sys2Proof.Machine
end
section
/-! PROOFS. The federation keeps time: its markers, its misses and its frames. -/

namespace Sys2Proof.Machine

/-! ### What a federation action touches -/

/-- From `s` to `t` only the federation unit and what is noted change. -/
def FedStep (s t : State) : Prop := Noted { s with fed := t.fed } t

theorem FedStep.trans {s t u : State} (h : FedStep s t) (k : FedStep t u) : FedStep s u := by
  have e : unnoted { t with fed := u.fed } = unnoted { s with fed := u.fed } :=
    congrArg (fun x : State => { x with fed := u.fed }) h.same
  exact ⟨k.same.trans e, fun b hb => k.bits b (h.bits b hb)⟩

theorem FedStep.of_noted {s t : State} (f : Fed) (h : Noted { s with fed := f } t) : FedStep s t := by
  have e : t.fed = f := h.fed
  rw [FedStep, e]
  exact h

theorem FedStep.set (s : State) (f : Fed) : FedStep s { s with fed := f } := Noted.refl _

/-! ### Frames (R362, R363) -/

theorem xor_xor_beq_left (a b c : Nat) : (Nat.xor a (Nat.xor b c) == a) = (b == c) := by
  rw [Bool.eq_iff_iff, beq_iff_eq, beq_iff_eq]
  show a ^^^ (b ^^^ c) = a ↔ b = c
  constructor
  · intro h
    have h0 : b ^^^ c = 0 := Nat.xor_right_injective (x := a) (by simpa using h)
    exact Nat.xor_eq_zero_iff.mp h0
  · rintro rfl
    simp

/-- The CRC is no part of a frame's payload. -/
theorem payloadOf_withCrc (g : FedFrame) (c : Nat) : payloadOf { g with crc := c } = payloadOf g := by cases g; rfl

theorem goodFrame_withCrc (g : FedFrame) (c : Nat) :
    goodFrame { g with crc := c } = (g.ver == 1 && g.rsv == 0 && c == frameCrc (payloadOf g)) := by
  delta goodFrame
  rw [payloadOf_withCrc]

/-- A forwarded frame is as good as the one received. -/
theorem goodFrame_regenFrame (rx g : FedFrame) (hv : g.ver = rx.ver) (hr : g.rsv = rx.rsv) :
    goodFrame (regenFrame rx g) = goodFrame rx := by
  delta regenFrame
  rw [goodFrame_withCrc, xor_xor_beq_left, hv, hr]
  rfl

theorem regenFrame_withCrc (rx g : FedFrame) : ∃ c, regenFrame rx g = { g with crc := c } := ⟨_, rfl⟩

theorem sealFrame_withCrc (g : FedFrame) : ∃ c, sealFrame g = { g with crc := c } := ⟨_, rfl⟩

theorem sendWith_sent {s : State} (f : FedFrame) (crc : FedFrame → FedFrame) (h : s.fed.ovf = false) :
    sendWith s f crc = { s with fed := { s.fed with sent := [crc { f with out := 0 }, crc { f with out := 1 }] } } := by
  unfold sendWith
  rw [h, if_neg Bool.false_ne_true]

/-! ### Following a good marker (R364, R365, R369) -/

theorem setId_noted {s : State} {f : FedFrame} (hm : fedMode s = 1) (ho : s.fed.ovf = false) (hid : 2 * f.pid + 1 + f.out ≤ 8190) :
    Noted { s with fed := { s.fed with id := 2 * f.pid + 1 + f.out, idSet := true, idValid := true } } (setId s f) := by
  have hov : decide (8190 < 2 * f.pid + 1 + f.out) = false := decide_eq_false (by omega)
  unfold setId
  rw [if_neg (by rw [hm]; decide)]
  dsimp only
  rw [hov, Bool.false_and, if_neg Bool.false_ne_true]
  have e : ({ s.fed with id := 2 * f.pid + 1 + f.out, idSet := true, idValid := !false, ovf := false } : Fed) =
      { s.fed with id := 2 * f.pid + 1 + f.out, idSet := true, idValid := true } := by
    show ({ s.fed with id := 2 * f.pid + 1 + f.out, idSet := true, idValid := true, ovf := false } : Fed) = _
    rw [← ho]
  rw [e]
  exact .ite ((noted_raiseAll _ _ _).trans (noted_devRec _ _ _ _ _ _)) (.refl _)

/-- The federation unit once its time has followed `t`: by rate adjustment, or by a step above 1 µs. -/
def trackedFed (v : Fed) (t : Nat) : Fed :=
  if ((t : Int) - (v.time : Int)).natAbs ≤ 1000 then { v with adj := (t : Int) - (v.time : Int), adjUs := 1000 }
  else { v with time := t, adj := 0, adjUs := 0, steps := satAdd 32 v.steps 1 }

theorem trackTime_noted (s : State) (t : Nat) : Noted { s with fed := trackedFed s.fed t } (trackTime s t) := by
  unfold trackTime trackedFed setFedTime
  dsimp only
  split
  · exact .refl _
  · exact noted_devRec _ _ _ _ _ _

/-- The federation unit once a good marker without a take marker has been accepted. -/
def acceptedFed (v : Fed) (f : FedFrame) (edge : Nat) (sp : Nat) (off : Int) : Fed :=
  let w := trackedFed { v with spacing := sp, id := 2 * f.pid + 1 + f.out, idSet := true, idValid := true }
    (f.time + 400 * f.hop + f.cdly + v.cable)
  { w with
    trace := f.trace, hopRx := f.hop, cdlyRx := f.cdly, lastTime := f.time, lastEdge := edge, missRun := 0
    silentRun := true, hasFrame := true, badFwd := false, off := off, maxOff := max w.maxOff off.natAbs }

theorem takeFrame_noted {s : State} {f : FedFrame} {edge : Nat} (hm : fedMode s = 1) (ho : s.fed.ovf = false)
    (hid : 2 * f.pid + 1 + f.out ≤ 8190) (htk : f.tkv = false) (sp : Nat) (off : Int) (u : State)
    (hu : u = takeFrame trackTime { s with fed := { s.fed with spacing := sp } } f edge) :
    Noted { s with fed := acceptedFed s.fed f edge sp off }
      { u with fed := { u.fed with off := off, maxOff := max u.fed.maxOff off.natAbs } } := by
  have h1 := setId_noted (s := { s with fed := { s.fed with spacing := sp } }) hm ho hid
  generalize hv : setId { s with fed := { s.fed with spacing := sp } } f = v at h1
  have h2 := trackTime_noted v (f.time + 400 * f.hop + f.cdly + s.fed.cable)
  generalize hw : trackTime v (f.time + 400 * f.hop + f.cdly + s.fed.cable) = w at h2
  have hmv : fedMode v = 1 := (congrArg (fun b : Board => b.straps.fed) h1.board).trans hm
  have hmw : fedMode w = 1 := (congrArg (fun b : Board => b.straps.fed) h2.board).trans hmv
  have hmode : fedMode { s with fed := { s.fed with spacing := sp } } = 1 := hm
  have eu : u = { w with fed := { w.fed with
      trace := f.trace, hopRx := f.hop, cdlyRx := f.cdly, lastTime := f.time, lastEdge := edge, missRun := 0
      silentRun := true, hasFrame := true, badFwd := false } } := by
    rw [hu]
    unfold takeFrame
    dsimp only
    rw [htk, Bool.false_and, if_neg Bool.false_ne_true, hv, hw, hmode]
    simp
  have e1 : unnoted { w with fed := v.fed } = unnoted { v with fed := v.fed } :=
    congrArg (fun x : State => { x with fed := v.fed }) h2.same
  have e2 : unnoted v = unnoted { s with fed := v.fed } := by
    rw [h1.fed]; exact h1.same
  have ev : v.fed = { s.fed with spacing := sp, id := 2 * f.pid + 1 + f.out, idSet := true, idValid := true } := h1.fed
  have ef : w.fed = trackedFed v.fed (f.time + 400 * f.hop + f.cdly + s.fed.cable) := h2.fed
  rw [eu]
  refine ⟨?_, fun b hb => h2.bits b (h1.bits b hb)⟩
  have e3 : unnoted { w with fed := acceptedFed s.fed f edge sp off } =
      unnoted { s with fed := acceptedFed s.fed f edge sp off } :=
    congrArg (fun x : State => { x with fed := acceptedFed s.fed f edge sp off }) (e1.trans e2)
  rw [← e3, ef, ev]
  rfl

/-- What the frames that forward `f` carry. -/
structure Forwards (f : FedFrame) (v : Fed) (l : List FedFrame) : Prop where
  two : l.length = 2
  fields : ∀ g ∈ l, g.hop = f.hop + 1 ∧ g.cdly = f.cdly + v.cable ∧ g.pid = v.id ∧ g.time = f.time
  good : ∀ g ∈ l, goodFrame g = goodFrame f

theorem forward_member {s : State} (f : FedFrame) (hm : fedMode s = 1) (ho : s.fed.ovf = false) :
    ∃ l, forward s f = { s with fed := { s.fed with sent := l } } ∧ Forwards f s.fed l := by
  have he : forward s f = sendWith s { f with hop := f.hop + 1, cdly := f.cdly + s.fed.cable, pid := s.fed.id }
      (regenFrame f) := by
    unfold forward
    rw [if_neg (by rw [hm]; decide)]
  rw [he, sendWith_sent _ _ ho]
  refine ⟨_, rfl, rfl, ?_, ?_⟩
  · have hg (g : FedFrame) (o : Nat) : (regenFrame f { g with out := o }).hop = g.hop ∧
        (regenFrame f { g with out := o }).cdly = g.cdly ∧ (regenFrame f { g with out := o }).pid = g.pid ∧
        (regenFrame f { g with out := o }).time = g.time := by
      obtain ⟨c, hc⟩ := regenFrame_withCrc f { g with out := o }
      rw [hc]
      exact ⟨rfl, rfl, rfl, rfl⟩
    intro g hm'
    rcases List.mem_pair.mp hm' with rfl | rfl <;> exact hg _ _
  · intro g hm'
    rcases List.mem_pair.mp hm' with rfl | rfl <;> exact goodFrame_regenFrame _ _ rfl rfl

theorem federationFrameReceived_in {s : State} (f : FedFrame) (edge : Nat) (hu : s.fed.unit = true) (hm : fedMode s = 1) :
    exec (.federationFrameReceived f edge) s = .next (markerIn (takeCable s) f edge) := by
  show execFederationFrameReceived f edge s = _
  have hgo : (!s.fed.unit || (fedMode s != 1 && fedMode s != 3)) = false := by rw [hu, hm]; rfl
  rw [execFederationFrameReceived, hgo, if_neg Bool.false_ne_true]
  rfl

theorem markerIn_good {s : State} {f : FedFrame} {edge : Nat} (hl : s.fed.locked = true) (hg : goodFrame f = true)
    (h1 : expected s ≤ edge + 40) (h2 : edge ≤ expected s + 40) : markerIn s f edge = acceptMarker s f edge := by
  unfold markerIn
  dsimp only
  rw [hg, hl, if_pos rfl, if_pos rfl, if_neg (by omega), if_neg (by decide), if_neg (by omega)]

theorem markerIn_bad {s : State} {f : FedFrame} {edge : Nat} (hl : s.fed.locked = true) (hg : goodFrame f = false)
    (h1 : expected s ≤ edge + 40) (h2 : edge ≤ expected s + 40) : markerIn s f edge =
      forwardBad { s with fed := { s.fed with crcErr := satAdd 32 s.fed.crcErr 1 } } f := by
  unfold markerIn
  dsimp only
  rw [hg, hl, if_neg Bool.false_ne_true, if_pos rfl, if_neg (by omega), if_pos (by decide), if_neg (by omega)]

theorem acceptMarker_member {s : State} {f : FedFrame} {edge : Nat} (hm : fedMode s = 1) (ho : s.fed.ovf = false)
    (hid : 2 * f.pid + 1 + f.out ≤ 8190) (htk : f.tkv = false) : ∃ l t, acceptMarker s f edge = t ∧
      Noted { s with fed := { acceptedFed s.fed f edge (learn s edge) ((edge : Int) - (expected s : Int)) with sent := l } } t ∧
      Forwards f (acceptedFed s.fed f edge (learn s edge) ((edge : Int) - (expected s : Int))) l := by
  have h := takeFrame_noted (edge := edge) hm ho hid htk (learn s edge) ((edge : Int) - (expected s : Int)) _ rfl
  unfold acceptMarker
  dsimp only
  generalize takeFrame trackTime { s with fed := { s.fed with spacing := learn s edge } } f edge = u at h
  generalize hw : ({ u with fed := { u.fed with
    off := (edge : Int) - (expected s : Int)
    maxOff := max u.fed.maxOff ((edge : Int) - (expected s : Int)).natAbs } } : State) = w at h
  have hf : w.fed = acceptedFed s.fed f edge (learn s edge) ((edge : Int) - (expected s : Int)) := h.fed
  have hov (v : Fed) (t : Nat) : (trackedFed v t).ovf = v.ovf := by unfold trackedFed; split <;> rfl
  have how : w.fed.ovf = false := by rw [hf]; exact (hov _ _).trans ho
  obtain ⟨l, hl, hfw⟩ := forward_member (s := w) f ((congrArg (fun b : Board => b.straps.fed) h.board).trans hm) how
  rw [hf] at hfw
  refine ⟨l, _, hl, ⟨?_, h.bits⟩, hfw⟩
  have e3 := congrArg (fun x : State => { x with fed := { x.fed with sent := l } }) h.same
  exact e3

theorem acceptedFed_fields (v : Fed) (f : FedFrame) (edge sp : Nat) (off : Int) (hl : v.locked = true)
    (w : Fed) (hw : w = acceptedFed v f edge sp off) (tin : Nat) (ht : tin = f.time + 400 * f.hop + f.cdly + v.cable) :
    let d : Int := (tin : Int) - (v.time : Int)
    (d.natAbs ≤ 1000 → w.time = v.time ∧ w.adj = d ∧ w.adjUs = 1000 ∧ w.steps = v.steps) ∧
    (1000 < d.natAbs → w.time = tin ∧ w.adj = 0 ∧ w.steps = satAdd 32 v.steps 1) ∧ w.lastEdge = edge ∧ w.missRun = 0 ∧
    w.spacing = sp ∧ w.id = 2 * f.pid + 1 + f.out ∧ w.locked = true ∧ w.cable = v.cable := by
  subst hw ht
  intro d
  unfold acceptedFed trackedFed
  dsimp only
  split
  next h => exact ⟨fun _ => ⟨rfl, rfl, rfl, rfl⟩, fun h' => absurd h (Nat.not_le.mpr h'), rfl, rfl, rfl, rfl, hl, rfl⟩
  next h => exact ⟨fun h' => absurd h' h, fun _ => ⟨rfl, rfl, rfl⟩, rfl, rfl, rfl, rfl, hl, rfl⟩

theorem takeCable_eq {s : State} (h : s.boot.maquette = false) :
    takeCable s = { s with fed := { s.fed with cable := s.arm.cfg.dev.cable } } := by
  unfold takeCable
  rw [h, if_neg Bool.false_ne_true]

/-! ### A missed marker (R366, R368, R370) -/

/-- The federation unit without what a root's frame changes. -/
def unsent (v : Fed) : Fed :=
  { v with
    sent := [], rep := none, wait := none, tkId := 0, tkKind := 0, tkValid := false, tkT := 0, badFwd := false }

/-- From `s` to `t` frames are sent, a root's take marker with its command's entry among them. -/
structure Sends (s t : State) : Prop where
  step : FedStep s t
  fed : unsent t.fed = unsent s.fed

theorem Sends.trans {s t u : State} (h : Sends s t) (k : Sends t u) : Sends s u :=
  ⟨h.step.trans k.step, k.fed.trans h.fed⟩

theorem Sends.of_noted {s t : State} (h : Noted s t) : Sends s t := by
  have e : t.fed = s.fed := h.fed
  exact ⟨.of_noted s.fed h, congrArg unsent e⟩

theorem Sends.set (s : State) {v : Fed} (h : unsent v = unsent s.fed) : Sends s { s with fed := v } :=
  ⟨.set s v, h⟩

theorem sends_sendWith (s : State) (f : FedFrame) (crc : FedFrame → FedFrame) : Sends s (sendWith s f crc) := by
  unfold sendWith
  split
  · exact .of_noted (.refl s)
  · exact .set s rfl

theorem sends_takeAccept (s : State) (id kind tk : Nat) : Sends s (takeAccept s id kind tk) := by
  unfold takeAccept
  split
  · exact .of_noted (.refl s)
  · have h : Sends s { s with fed := { s.fed with tkId := id, tkKind := kind, tkValid := true, tkT := tk } } := .set s rfl
    exact h.trans (.of_noted (noted_devRec _ _ _ _ _ _))

theorem sends_nextMarker (s : State) (time : Nat) : Sends s (nextMarker s time).2 := by
  unfold nextMarker
  cases hr : s.fed.rep with
  | some r => exact .set s rfl
  | none =>
    cases hw : s.fed.wait with
    | none => exact .of_noted (.refl s)
    | some w =>
      dsimp only
      split
      · exact .of_noted (.refl s)
      · obtain ⟨c, cid, id, kind, f⟩ := w
        have h : Sends s { s with fed := { s.fed with wait := none, rep := some (id, kind, 1) } } := .set s rfl
        exact (h.trans (sends_takeAccept _ _ _ _)).trans (.of_noted (noted_adone _ _ _ _ _ _ _))

theorem sends_rootSend (s : State) (t : Nat) (trace : Bool) : Sends s (rootSend s t trace) :=
  (sends_nextMarker s t).trans (sends_sendWith _ _ _)

theorem sends_missSend (s : State) (f : FedFrame) (t : Nat) : Sends s (missSend s f t) := by
  unfold missSend
  split
  · exact .set s rfl
  · split
    · exact sends_rootSend s t false
    · exact sends_sendWith s f _

/-- The frames that leave in a member's missed instant. -/
theorem missSend_member {s : State} (f : FedFrame) (t : Nat) (hm : fedMode s = 1) (ho : s.fed.ovf = false)
    (hb : s.fed.badFwd = false) :
    (missSend s f t).fed.sent = [sealFrame { f with out := 0 }, sealFrame { f with out := 1 }] := by
  unfold missSend
  rw [hb, if_neg Bool.false_ne_true, if_neg (by rw [hm]; decide)]
  unfold sendBoth
  rw [sendWith_sent _ _ ho]

theorem sealFrame_fields (f : FedFrame) : (sealFrame f).time = f.time ∧ (sealFrame f).trace = f.trace ∧
    (sealFrame f).tkv = f.tkv ∧ (sealFrame f).hop = f.hop ∧ (sealFrame f).cdly = f.cdly := by
  obtain ⟨c, hc⟩ := sealFrame_withCrc f
  rw [hc]
  exact ⟨rfl, rfl, rfl, rfl, rfl⟩

/-- The federation unit once a marker has been missed, before its frames leave. -/
def missedFed (s : State) (quiet : Bool) : Fed :=
  { s.fed with
    missed := satAdd 32 s.fed.missed 1, missRun := s.fed.missRun + 1, lastEdge := expected s
    lastTime := s.fed.lastTime + 1000000, silentRun := quiet }

/-- What a missed marker leaves: the frames `u` has sent, and from the fourth on the lock lost. -/
structure Missed (s u t : State) : Prop where
  step : FedStep s t
  missed : t.fed.missed = u.fed.missed ∧ t.fed.missRun = u.fed.missRun ∧ t.fed.lastEdge = u.fed.lastEdge ∧
    t.fed.time = u.fed.time ∧ t.fed.sent = u.fed.sent
  locked : t.fed.locked = decide (s.fed.missRun + 1 < 4)
  unlocks : 4 ≤ s.fed.missRun + 1 → t.fed.unlocks = satAdd 32 u.fed.unlocks 1 ∧ bitOf t.glb.istat 8 = true

theorem missMarker_missed {s : State} (q : Bool) (hl : s.fed.locked = true) (u : State)
    (hu : u = missSend { s with fed := missedFed s (s.fed.silentRun && q) } (freeFrame s (missedTime s)) (missedTime s))
    (hs : Sends s { u with fed := { u.fed with
      missed := s.fed.missed, missRun := s.fed.missRun, lastEdge := s.fed.lastEdge, lastTime := s.fed.lastTime
      silentRun := s.fed.silentRun } }) : Missed s u (missMarker s q) := by
  have e : missMarker s q = if s.fed.missRun + 1 < 4 then u else
      devRec (fedEvent (glbSet { u with fed := { u.fed with
        locked := false, run := 0, trace := u.fed.trace && fedMode s != 3, nextAt := u.fed.time + 1000000
        unlocks := satAdd 32 u.fed.unlocks 1, loss := s.fed.silentRun && q } } 8)) 0x90 4 0 u.fed.time := by
    rw [hu]; rfl
  have hstep : FedStep s u := hs.step.trans (FedStep.set _ u.fed)
  have hlock : u.fed.locked = true := (congrArg Fed.locked hs.fed).trans hl
  rw [e]
  split
  next h => exact ⟨hstep, ⟨rfl, rfl, rfl, rfl, rfl⟩, hlock.trans (decide_eq_true h).symm, fun h' => absurd h (by omega)⟩
  next h =>
    generalize hv : ({ u.fed with
        locked := false, run := 0, trace := u.fed.trace && fedMode s != 3, nextAt := u.fed.time + 1000000
        unlocks := satAdd 32 u.fed.unlocks 1, loss := s.fed.silentRun && q } : Fed) = v
    have h3 : FedStep s { u with fed := v } := hstep.trans (.set u v)
    have h4 : Noted (glbSet { u with fed := v } 8) (devRec (fedEvent (glbSet { u with fed := v } 8)) 0x90 4 0 u.fed.time) :=
      (noted_raiseAll _ _ _).trans (noted_devRec _ _ _ _ _ _)
    have h5 : Noted { u with fed := v } (devRec (fedEvent (glbSet { u with fed := v } 8)) 0x90 4 0 u.fed.time) :=
      (noted_glbSet _ _).trans h4
    have hb := h4.bits 8 (glbSet_shown _ _)
    generalize devRec (fedEvent (glbSet { u with fed := v } 8)) 0x90 4 0 u.fed.time = t at h5 hb
    have ef : t.fed = v := h5.fed
    refine ⟨h3.trans (.of_noted v h5), ?_, ?_, fun _ => ⟨?_, hb⟩⟩
    · rw [ef, ← hv]; exact ⟨rfl, rfl, rfl, rfl, rfl⟩
    · rw [ef, ← hv]; exact (decide_eq_false h).symm
    · rw [ef, ← hv]

theorem windowMiss_misses {s : State} (q : Bool) (hu : s.fed.unit = true) (hl : s.fed.locked = true) :
    ∃ u, exec (.federationWindowMiss q) s = .next (missMarker s q) ∧ Missed s u (missMarker s q) ∧
      unsent u.fed = unsent (missedFed s (s.fed.silentRun && q)) ∧
      (fedMode s = 1 → s.fed.ovf = false → s.fed.badFwd = false →
        u.fed.sent = [sealFrame { freeFrame s (missedTime s) with out := 0 },
          sealFrame { freeFrame s (missedTime s) with out := 1 }]) := by
  have he : exec (.federationWindowMiss q) s = .next (missMarker s q) := by
    show execFederationWindowMiss q s = _
    rw [execFederationWindowMiss, hu, hl]
    rfl
  have hs := sends_missSend { s with fed := missedFed s (s.fed.silentRun && q) } (freeFrame s (missedTime s)) (missedTime s)
  have hf : fedMode s = 1 → s.fed.ovf = false → s.fed.badFwd = false → _ :=
    fun hm ho hb => missSend_member (s := { s with fed := missedFed s (s.fed.silentRun && q) })
      (freeFrame s (missedTime s)) (missedTime s) hm ho hb
  generalize hv : missSend { s with fed := missedFed s (s.fed.silentRun && q) } (freeFrame s (missedTime s)) (missedTime s) = u
    at hs hf
  refine ⟨u, he, missMarker_missed q hl u hv.symm ⟨?_, ?_⟩, hs.fed, hf⟩
  · exact ((FedStep.set s _).trans hs.step).trans (.set u _)
  · exact congrArg (fun v : Fed => { v with
      missed := s.fed.missed, missRun := s.fed.missRun, lastEdge := s.fed.lastEdge, lastTime := s.fed.lastTime
      silentRun := s.fed.silentRun }) hs.fed

/-! ### Frames of a root and Federation Control (R366, R373) -/

theorem frameOriginate_root {s : State} (hu : s.fed.unit = true) (hm : fedMode s = 2) (ho : s.fed.ovf = false)
    (ht : s.fed.setT = []) (hw : s.fed.wait = none) (hr : s.fed.rep = none) (hn : s.fed.nextAt ≤ s.fed.time) (due : Nat)
    (hd : due = s.fed.time - (s.fed.time - s.fed.nextAt) % 1000000) :
    exec .federationFrameOriginate s = .next { s with fed := { s.fed with
      nextAt := due + 1000000
      sent := [sealFrame ⟨1, true, false, 0, 0, 0, 0, 0, due, 0, 0, 0, 0⟩, sealFrame ⟨1, true, false, 0, 0, 1, 0, 0, due, 0, 0, 0, 0⟩] } } := by
  have hgo : (!s.fed.unit || fedMode s == 0 || (fedMode s != 2 && s.fed.locked) || decide (s.fed.time < s.fed.nextAt)) = false := by
    rw [hu, hm, decide_eq_false (Nat.not_lt.mpr hn)]; rfl
  have hset : applySetTime s = s := by
    unfold applySetTime
    dsimp only
    rw [ht]
    show ({ s with fed := { s.fed with setT := [] } } : State) = s
    rw [← ht]
  have hdue : dueTime s s = due := by
    unfold dueTime
    rw [if_neg (by simp), hd]
  have hx : sentTime s due = due := by
    unfold sentTime
    rw [hm]
    rfl
  show execFederationFrameOriginate s = _
  unfold execFederationFrameOriginate
  rw [hgo, if_neg Bool.false_ne_true]
  dsimp only
  rw [hset, hdue, hx, hm]
  have hnm : nextMarker { s with fed := { s.fed with nextAt := due + 1000000, lastTime := s.fed.lastTime } } due =
      (none, { s with fed := { s.fed with nextAt := due + 1000000, lastTime := s.fed.lastTime } }) := by
    unfold nextMarker
    dsimp only
    rw [hr, hw]
  show Host.Outcome.next (rootSend { s with fed := { s.fed with nextAt := due + 1000000, lastTime := s.fed.lastTime } } due true) = _
  unfold rootSend
  rw [hnm]
  dsimp only
  unfold sendBoth
  rw [sendWith_sent]
  · rfl
  · exact ho

theorem takeMarker_waits {s : State} {c : Nat} (cid : Nat) {id kind : Nat} (ha : adminServed s c = true) (hp : isPf0 c = true)
    (hq : s.boot.maquette = false) (hi : id % 2 ^ 24 ≠ 0) (hk : kind < 3) (hm : fedMode s = 2) (ht : fedTraced s = true)
    (hw : s.fed.wait = none) :
    exec (.federationControlTakeMarker c cid id kind 0) s = .next { adminFetch s c with
      fed := { s.fed with wait := some (c, cid, id, kind, s.nowUs) } } := by
  show execFederationControlTakeMarker c cid id kind 0 s = _
  unfold execFederationControlTakeMarker adminFed
  rw [adminPf0_served s c cid _ ha hp]
  have h1 : (adminFetch s c).boot.maquette = false := hq
  have h2 : fedMode (adminFetch s c) = 2 := hm
  have h3 : fedTraced (adminFetch s c) = true := ht
  have h4 : (adminFetch s c).fed.wait = none := hw
  rw [h1, if_neg Bool.false_ne_true]
  dsimp only [takeMarker]
  rw [h2, h3, h4, if_neg (by simp only [bne_self_eq_false, Bool.false_or, Bool.or_eq_true, beq_iff_eq, decide_eq_true_eq]; omega)]
  rfl

theorem setTime_waits {s : State} {c : Nat} (cid time : Nat) (ha : adminServed s c = true) (hp : isPf0 c = true)
    (hq : s.boot.maquette = false) (hm : fedMode s = 2) :
    exec (.federationControlSetTime c cid time 0) s = .next { adminFetch s c with
      fed := { s.fed with setT := s.fed.setT ++ [(c, cid, time % 2 ^ 64, s.nowUs)] } } := by
  show execFederationControlSetTime c cid time 0 s = _
  unfold execFederationControlSetTime adminFed
  rw [adminPf0_served s c cid _ ha hp]
  have h1 : (adminFetch s c).boot.maquette = false := hq
  have h2 : fedMode (adminFetch s c) = 2 := hm
  rw [h1, if_neg Bool.false_ne_true]
  dsimp only [setTimeCmd]
  rw [h2]
  rfl

/-- Settles O33, by the frames each instant sends and what the federation unit keeps of it. -/
theorem federationKeepsTime : Obligations.FederationKeepsTime := by
  unfold Obligations.FederationKeepsTime
  refine ⟨?_, ?_, ?_, ?_, ?_, ?_⟩
  · intro s f edge hu hm hl ho hg htk hid hq h1 h2 cable tin d
    have he := federationFrameReceived_in f edge hu hm
    rw [takeCable_eq hq] at he
    generalize hs' : ({ s with fed := { s.fed with cable := s.arm.cfg.dev.cable } } : State) = s' at he
    have hin : markerIn s' f edge = acceptMarker s' f edge := by subst hs'; exact markerIn_good hl hg h1 h2
    obtain ⟨l, t, ht, hn, hfw⟩ := acceptMarker_member (s := s') (f := f) (edge := edge) (by subst hs'; exact hm)
      (by subst hs'; exact ho) hid htk
    rw [hin, ht] at he
    generalize hv : acceptedFed s'.fed f edge (learn s' edge) ((edge : Int) - (expected s' : Int)) = v at hn hfw
    obtain ⟨hnear, hfar, hedge, hrun, hsp, hvid, hlock, hcab⟩ := acceptedFed_fields s'.fed f edge _ _ (by subst hs'; exact hl)
      v hv.symm tin (by subst hs'; rfl)
    have ef : t.fed = { v with sent := l } := hn.fed
    subst hs'
    refine ⟨t, he, ?_, ?_, ?_, ?_, ?_, ?_, ?_, ?_, ?_, hn.zones, hn.cmds, hn.guarded⟩
    · rw [ef]; exact hnear
    · rw [ef]; exact hfar
    · rw [ef]; exact hedge
    · rw [ef]; exact hrun
    · rw [ef]
      refine hsp.trans ?_
      unfold learn
      simp only [beq_iff_eq]
    · rw [ef]; exact hvid
    · rw [ef]; exact hlock
    · rw [ef]; exact hfw.two
    · rw [ef]
      intro g hg'
      obtain ⟨hh, hc, hp, htm⟩ := hfw.fields g hg'
      exact ⟨hh, hc.trans (by rw [hcab]), hp, htm, (hfw.good g hg').trans hg⟩
  · intro s f edge hu hm hl ho hg h1 h2
    have he := federationFrameReceived_in f edge hu hm
    generalize hs' : takeCable s = s' at he
    have hin : markerIn s' f edge = forwardBad { s' with fed := { s'.fed with crcErr := satAdd 32 s'.fed.crcErr 1 } } f := by
      subst hs'; exact markerIn_bad hl hg h1 h2
    obtain ⟨l, hlf, hfw⟩ := forward_member (s := { s' with fed := { s'.fed with
      crcErr := satAdd 32 s'.fed.crcErr 1, badFwd := true } }) f (by subst hs'; exact hm) (by subst hs'; exact ho)
    have hb : forwardBad { s' with fed := { s'.fed with crcErr := satAdd 32 s'.fed.crcErr 1 } } f =
        { s' with fed := { s'.fed with crcErr := satAdd 32 s'.fed.crcErr 1, badFwd := true, sent := l } } := by
      unfold forwardBad
      rw [if_neg (by subst hs'; show ¬(fedMode s != 1) = true; rw [hm]; decide)]
      exact hlf
    rw [hin, hb] at he
    refine ⟨_, he, ?_⟩
    subst hs'
    exact ⟨rfl, rfl, rfl, hfw.two, fun g hg' => (hfw.good g hg').trans hg, rfl, rfl⟩
  · intro s q hu hl
    obtain ⟨u, he, hm, huf, hsent⟩ := windowMiss_misses q hu hl
    obtain ⟨hmis, hrun, hedge, htime, hst⟩ := hm.missed
    refine ⟨_, he, ?_, ?_, hm.locked, ?_, ?_, ?_, ?_, hm.step.zones, hm.step.cmds⟩
    · exact hmis.trans (congrArg (fun v : Fed => v.missed) huf)
    · exact hrun.trans (congrArg (fun v : Fed => v.missRun) huf)
    · exact hedge.trans (congrArg (fun v : Fed => v.lastEdge) huf)
    · have e : (unsent u.fed).time = (unsent (missedFed s (s.fed.silentRun && q))).time := congrArg (fun v : Fed => v.time) huf
      exact htime.trans e
    · intro h1 h2 h3
      rw [hst, hsent h1 h2 h3]
      refine ⟨rfl, fun g hg => ?_⟩
      have hfree : freeFrame s (missedTime s) = ⟨1, false, false, 0, s.fed.hopRx + 1, 0, s.fed.id, s.fed.cdlyRx + s.fed.cable,
          s.fed.lastTime + 1000000, 0, 0, 0, 0⟩ := by
        unfold freeFrame missedTime
        dsimp only
        rw [h1]
        rfl
      rw [hfree] at hg
      rcases List.mem_pair.mp hg with rfl | rfl <;>
      · obtain ⟨ht, htr, htk, hh, hc⟩ := sealFrame_fields _
        exact ⟨ht, htr, htk, hh, hc⟩
    · intro h4
      obtain ⟨hun, hbit⟩ := hm.unlocks h4
      have e : (unsent u.fed).unlocks = (unsent (missedFed s (s.fed.silentRun && q))).unlocks := congrArg (fun v : Fed => v.unlocks) huf
      exact ⟨hun.trans (congrArg (satAdd 32 · 1) e), hbit⟩
  · intro s hu hm ho ht hw hr hn due
    refine ⟨_, frameOriginate_root hu hm ho ht hw hr hn due rfl, rfl, ?_, rfl, rfl, rfl⟩
    intro g hg
    rcases List.mem_pair.mp hg with rfl | rfl <;>
    · obtain ⟨ht, htr, htk, hh, hc⟩ := sealFrame_fields _
      exact ⟨ht, hh, hc, htr, htk⟩
  · intro s c cid id kind ha hp hq hi hk hm ht hw
    exact takeMarker_waits cid ha hp hq hi hk hm ht hw
  · intro s c cid time ha hp hq hm
    exact setTime_waits cid time ha hp hq hm

end Sys2Proof.Machine
end
section
/-! PROOFS. Key Import, the reseeds and the entropy source. -/

namespace Sys2Proof.Machine

/-! ### Key Import (R314 to R317) -/

/-- What of a state Key Import reads before it installs a key. -/
structure SameImport (s t : State) : Prop where
  arm : t.arm = s.arm
  boot : t.boot = s.boot
  board : t.board = s.board
  ns : t.ns = s.ns
  cmds : t.cmds = s.cmds
  zones : t.zones = s.zones
  sectors : t.sectors = s.sectors
  cipher : t.cipher = s.cipher
  nextCmd : t.arb.nextCmd = s.arb.nextCmd

theorem sameImport_served (s : State) (c len : Nat) : SameImport s (ctlServed (adminFetch s c) c len) := by
  rw [ctlServed_only, adminFetch_only]
  exact ⟨rfl, rfl, rfl, rfl, rfl, rfl, rfl, rfl, rfl⟩

/-- A wrapped seal key has no bit beyond its 40 bytes. -/
theorem noTail {action wrapped : Nat} (hw : action = 1 → wrapped < 2 ^ 320) :
    (action == 1 && wrapped >>> 320 != 0) = false := by
  by_cases e : action = 1
  · rw [Nat.shiftRight_eq_zero wrapped 320 (hw e)]
    simp
  · simp [e]

section
variable {s t : State} (h : SameImport s t)
include h

theorem SameImport.myNiche (c : Nat) : myNiche t c = myNiche s c := by
  unfold Machine.myNiche nicheOf binds validNiches Machine.nicheCfg
  rw [h.arm, h.boot]

theorem SameImport.nicheCfg (n : Nat) : nicheCfg t n = nicheCfg s n := by
  unfold Machine.nicheCfg
  rw [h.arm]

theorem SameImport.namedBy (a k : Nat) : namedBy t a k = namedBy s a k := by
  unfold Machine.namedBy
  rw [h.ns]

theorem SameImport.nsBusy (i : Nat) : nsBusy t i = nsBusy s i := by
  unfold Machine.nsBusy
  rw [h.cmds]

theorem SameImport.lockAvail (n : Nat) : lockAvail t n = lockAvail s n := by
  unfold Machine.lockAvail validNiches locksOf Machine.nicheCfg
  rw [h.cmds, h.arm, h.boot]

theorem SameImport.holdsData (i : Nat) : holdsData t i = holdsData s i := by
  unfold Machine.holdsData
  rw [h.zones, h.sectors]

theorem SameImport.importKey (n k x y : Nat) : importKey t n k x y = importKey s n k x y := by
  have hs : transportScalar t n = transportScalar s n := by
    delta transportScalar kdfDrk
    rw [h.arm, h.board]
  delta Machine.importKey
  rw [hs]

theorem SameImport.importWaits {c action slot wrapped i : Nat} (ha : action ≤ 1) (hw : action = 1 → wrapped < 2 ^ 320)
    (hm : bitOf (Machine.nicheCfg s (Machine.myNiche s c)).keyMask slot = true) (hn : Machine.namedBy s action slot = some i) :
    importWaits t c action slot 0 wrapped = (Machine.nsBusy s i || !(Machine.lockAvail s (Machine.myNiche s c))) := by
  unfold Machine.importWaits
  rw [h.myNiche, h.nicheCfg, h.namedBy, hm, hn]
  dsimp only
  rw [h.nsBusy, h.lockAvail]
  rw [noTail hw, decide_eq_false (Nat.not_lt.mpr ha)]
  rfl

theorem SameImport.keyImport {c cid action slot i ex ey wrapped v : Nat} (ha : action ≤ 1)
    (hw : action = 1 → wrapped < 2 ^ 320) (hm : bitOf (Machine.nicheCfg s (Machine.myNiche s c)).keyMask slot = true)
    (hn : Machine.namedBy s action slot = some i) (hd : Machine.holdsData s i = false) (hl : s.board.fuses.lifecycle ≠ 7)
    (hc : onCurve ex ey = true)
    (hu : importUnwrap (Machine.importKey s (Machine.myNiche s c) slot ex ey) action wrapped = some v)
    (hv : action = 0 → v % 2 ^ 256 ≠ v >>> 256) :
    Machine.keyImport t c cid action slot 0 ex ey wrapped = adone (installKey t slot (action == 1) v) c cid .success := by
  have hgo : (decide (1 < action) || (0 != 0) || (action == 1 && wrapped >>> 320 != 0)) = false := by
    rw [noTail hw, decide_eq_false (Nat.not_lt.mpr ha)]; rfl
  have hvg : ¬ (action == 0 && v % 2 ^ 256 == v >>> 256) = true := by
    rw [Bool.and_eq_true, beq_iff_eq, beq_iff_eq]
    exact fun ⟨h0, h1⟩ => hv h0 h1
  unfold Machine.keyImport
  dsimp only
  rw [hgo, if_neg Bool.false_ne_true, h.myNiche, h.nicheCfg, hm, h.namedBy, hn]
  dsimp only
  rw [if_neg (by decide), h.holdsData, hd, if_neg Bool.false_ne_true, h.board, if_neg (by simpa using hl), hc,
    if_neg (by decide), h.importKey, hu]
  exact if_neg hvg

end

/-- What installing a key changes of the cipher. -/
structure Installs (slot v : Nat) (isSeal : Bool) (s t : State) : Prop where
  st : (getKey t slot).st = 2
  ser : (getKey t slot).ser = s.cipher.nextSer
  value : (getKey t slot).share0 ^^^ (getKey t slot).share1 = expandKey isSeal v
  nextSer : t.cipher.nextSer = s.cipher.nextSer + 1
  others : ∀ j, j ≠ slot → getKey t j = getKey s j
  shadow : t.cipher.shadow = t.cipher.table
  seq : t.cipher.tableSeq = s.cipher.tableSeq + 1
  imports : t.cipher.imports = satAdd 8 s.cipher.imports 1
  flash : nonvolatile t = nonvolatile s
  zones : t.zones = s.zones

theorem shareKey_only (s : State) (st : Nat) (b : Bool) (ser v : Nat) :
    ∃ r, (shareKey s st b ser v).2 = { s with cipher := { s.cipher with rng := r } } := by
  unfold shareKey
  dsimp only
  split
  · exact ⟨_, rfl⟩
  · exact ⟨s.cipher.rng, rfl⟩

theorem saveKeys_only (s : State) (d : Bool) : ∃ t b o, saveKeys s d = { s with cipher := { s.cipher with
    table := t, shadow := t, tableSeq := s.cipher.tableSeq + 1, tableBlk := b, older := o } } := ⟨_, _, _, rfl⟩

theorem installKey_eq (s : State) (slot : Nat) (b : Bool) (v : Nat) : ∃ g, installKey s slot b v =
    devRec (saveKeys { s with cipher := { s.cipher with
      rng := g, keys := tset {} s.cipher.keys slot (shareKey s 2 b s.cipher.nextSer v).1
      nextSer := s.cipher.nextSer + 1, imports := satAdd 8 s.cipher.imports 1 } } false) 0x73 2 slot := by
  obtain ⟨g, hg⟩ := shareKey_only s 2 b s.cipher.nextSer v
  refine ⟨g, ?_⟩
  delta installKey
  dsimp only
  rw [hg]
  rfl

theorem installKey_installs (s : State) (slot v : Nat) (isSeal : Bool) : Installs slot v isSeal s (installKey s slot isSeal v) := by
  have hk := shareKey_holds s ⟨2, isSeal, s.cipher.nextSer, 0⟩ v
  obtain ⟨g, hg⟩ := installKey_eq s slot isSeal v
  rw [hg]
  dsimp only at hk
  obtain ⟨hst, hser, hval⟩ := hk
  generalize (shareKey s 2 isSeal s.cipher.nextSer v).1 = r at *
  have hne : r ≠ {} := fun e => absurd (hst.symm.trans (congrArg Key.st e)) (by decide : (2 : Nat) ≠ 0)
  obtain ⟨tab, b, o, hs⟩ := saveKeys_only { s with cipher := { s.cipher with
      rng := g, keys := tset {} s.cipher.keys slot r
      nextSer := s.cipher.nextSer + 1, imports := satAdd 8 s.cipher.imports 1 } } false
  rw [hs]
  have hn := noted_devRec { s with cipher := { s.cipher with
      rng := g, keys := tset {} s.cipher.keys slot r
      nextSer := s.cipher.nextSer + 1, imports := satAdd 8 s.cipher.imports 1
      table := tab, shadow := tab, tableSeq := s.cipher.tableSeq + 1, tableBlk := b, older := o } } 0x73 2 slot 0 0
  generalize devRec _ 0x73 2 slot 0 0 = t at hn ⊢
  have hc := hn.cipher
  have hkeys : t.cipher.keys = tset {} s.cipher.keys slot r := by rw [hc]
  have hslot : getKey t slot = r := by rw [getKey, hkeys, tget_tset_same _ _ _ _ hne]
  have hst' : (getKey t slot).st = 2 := by rw [hslot, hst]
  refine ⟨hst', by rw [hslot, hser], by rw [hslot, hval], by rw [hc], ?_, by rw [hc], by rw [hc], by rw [hc], ?_, hn.zones⟩
  · intro j hj
    rw [getKey, hkeys, tget_tset_ne _ _ _ _ _ hj]
    rfl
  · unfold nonvolatile
    rw [hn.boot, hn.board]

theorem keyImport_installs {s : State} {c action slot i ex ey wrapped v : Nat} (cid : Nat) (hs : adminServed s c = true)
    (hq : s.boot.maquette = false) (ha : action ≤ 1)
    (hw : action = 1 → wrapped < 2 ^ 320) (hm : bitOf (nicheCfg s (myNiche s c)).keyMask slot = true)
    (hn : namedBy s action slot = some i) (hb : nsBusy s i = false) (hk : lockAvail s (myNiche s c) = true)
    (hd : holdsData s i = false) (hl : s.board.fuses.lifecycle ≠ 7) (hc : onCurve ex ey = true)
    (hu : importUnwrap (importKey s (myNiche s c) slot ex ey) action wrapped = some v)
    (hv : action = 0 → v % 2 ^ 256 ≠ v >>> 256) (hmet : ctlMet (adminFetch s c) c 168 = true) :
    exec (.keyImport c cid action slot 0 ex ey wrapped) s =
      .next (adone (installKey (ctlServed (adminFetch s c) c 168) slot (action == 1) v) c cid .success) := by
  have h := sameImport_served s c 168
  show execKeyImport c cid action slot 0 ex ey wrapped s = _
  unfold execKeyImport
  rw [adminFull_served s c cid _ hs hq, ctlData_met hmet]
  generalize ctlServed (adminFetch s c) c 168 = t at h ⊢
  rw [h.importWaits ha hw hm hn, hb, hk, if_neg (by decide), h.keyImport ha hw hm hn hd hl hc hu hv]

theorem keyImport_waits {s : State} {c action slot i wrapped : Nat} (cid ex ey : Nat) (hs : adminServed s c = true)
    (hq : s.boot.maquette = false) (ha : action ≤ 1)
    (hw : action = 1 → wrapped < 2 ^ 320) (hm : bitOf (nicheCfg s (myNiche s c)).keyMask slot = true)
    (hn : namedBy s action slot = some i) (hb : nsBusy s i = true ∨ lockAvail s (myNiche s c) = false)
    (hmet : ctlMet (adminFetch s c) c 168 = true) (g : State) (hg : g = ctlServed (adminFetch s c) c 168) :
    exec (.keyImport c cid action slot 0 ex ey wrapped) s = .next { g with
      arb := { g.arb with nextCmd := g.arb.nextCmd + 1 }
      cipher := { s.cipher with imps := s.cipher.imps ++ [⟨s.arb.nextCmd, c, cid, action, slot, 0, ex, ey, wrapped⟩] } } := by
  have h := sameImport_served s c 168
  have hwait : (nsBusy s i || !(lockAvail s (myNiche s c))) = true := by
    rcases hb with hb | hb <;> simp [hb]
  show execKeyImport c cid action slot 0 ex ey wrapped s = _
  unfold execKeyImport
  rw [adminFull_served s c cid _ hs hq, ctlData_met hmet, ← hg]
  rw [← hg] at h
  rw [h.importWaits ha hw hm hn, if_pos hwait, h.nextCmd, h.cipher]

/-! ### Reseeds and the source (R302 to R307) -/

section
variable {s : State}

theorem drbgReseed_reseeds (hd : s.cipher.drbg = 1) (hf : s.cipher.seedSrc = false) (hr : reseedDue s = true)
    (ht : s.cipher.trng = 1) : exec .drbgReseed s = .next (reseed s) := by
  show execDrbgReseed s = _
  unfold execDrbgReseed
  rw [hd, hf, hr, ht, if_neg (by decide)]
  exact if_pos rfl

theorem drbgReseed_stops (hd : s.cipher.drbg = 1) (hf : s.cipher.seedSrc = false) (hr : reseedDue s = true)
    (ht : s.cipher.trng = 3) : exec .drbgReseed s =
      .next (devRec (glbSet { s with cipher := { s.cipher with drbg := 2 } } 7) 0x71 6) := by
  show execDrbgReseed s = _
  unfold execDrbgReseed
  rw [hd, hf, hr, ht, if_neg (by decide), if_neg (by decide)]
  exact if_pos rfl

theorem drbgReseed_idle (h : reseedDue s = false ∨ s.cipher.drbg ≠ 1 ∨ s.cipher.seedSrc = true ∨ s.cipher.trng = 2) :
    exec .drbgReseed s = .next s := by
  show execDrbgReseed s = _
  unfold execDrbgReseed
  split
  · rfl
  next hgo =>
    rcases h with h | h | h | h
    · exact absurd (by rw [h]; simp) hgo
    · exact absurd (by simp [h]) hgo
    · exact absurd (by rw [h]; simp) hgo
    · rw [h, if_neg (by decide), if_neg (by decide)]
      rfl

theorem sourceFails_restarts (hn : s.cipher.trngFails < 2) : sourceFails s true = { s with
    cipher := { s.cipher with
      trng := 2, rct := satAdd 8 s.cipher.rct 1, trngFails := s.cipher.trngFails + 1, rawNo := s.cipher.rawNo + 2
      sourceRestarts := satAdd 8 s.cipher.sourceRestarts 1 } } := by
  unfold sourceFails
  dsimp only
  rw [if_neg (by omega)]
  rfl

theorem sourceFails_fails (hn : 2 ≤ s.cipher.trngFails) : sourceFails s false = devRec (glbSet { s with
    cipher := { s.cipher with
      trng := 3, apt := satAdd 8 s.cipher.apt 1, trngFails := s.cipher.trngFails + 1, rawNo := s.cipher.rawNo + 2 } } 7)
      0x70 7 := by
  unfold sourceFails
  dsimp only
  rw [if_pos (by omega)]
  rfl

end

/-! ### Fresh masks (R301 to R303) -/

theorem remask_holds (m : Nat) (k : Key) :
    (remask m k).share0 ^^^ (remask m k).share1 = k.share0 ^^^ k.share1 ∧ (remask m k).st = k.st ∧ (remask m k).ser = k.ser := by
  unfold remask
  split
  · exact ⟨rfl, rfl, rfl⟩
  · refine ⟨?_, rfl, rfl⟩
    show (k.share0 ^^^ m) ^^^ (k.share1 ^^^ m) = k.share0 ^^^ k.share1
    rw [Nat.xor_assoc, Nat.xor_comm k.share1 m, ← Nat.xor_assoc m, Nat.xor_self, Nat.zero_xor]

theorem randomBlocks_only (s : State) (n : Nat) :
    ∃ g, (randomBlocks s n).2 = { s with cipher := { s.cipher with rng := g } } := ⟨_, rfl⟩

/-- A slot under a fresh mask. -/
def Remasked (x y : Nat × Key) : Prop := y.1 = x.1 ∧ ∃ m, y.2 = remask m x.2

theorem tget_remasked {l l' : List (Nat × Key)} (h : List.Forall₂ Remasked l l') (i : Nat) :
    (tget {} l' i).share0 ^^^ (tget {} l' i).share1 = (tget {} l i).share0 ^^^ (tget {} l i).share1 ∧
      (tget {} l' i).st = (tget {} l i).st ∧ (tget {} l' i).ser = (tget {} l i).ser := by
  induction h with
  | nil => exact ⟨rfl, rfl, rfl⟩
  | @cons x y l l' hxy _ ih =>
    obtain ⟨k, v⟩ := x
    obtain ⟨k', v'⟩ := y
    obtain ⟨hk', m, hv'⟩ := hxy
    obtain rfl : k' = k := hk'
    obtain rfl : v' = remask m v := hv'
    by_cases hk : i = k'
    · simpa [tget, hk] using remask_holds m v
    · simpa [tget, hk] using ih

/-- One slot takes a fresh mask. -/
def remaskStep (a : State × List (Nat × Key)) (kv : Nat × Key) : State × List (Nat × Key) :=
  ((randomBlocks a.1 30).2, a.2 ++ [(kv.1, remask (randomBlocks a.1 30).1 kv.2)])

theorem foldl_remaskStep (l : List (Nat × Key)) (a : State × List (Nat × Key)) :
    ∃ g l', l.foldl remaskStep a = ({ a.1 with cipher := { a.1.cipher with rng := g } }, a.2 ++ l') ∧
      List.Forall₂ Remasked l l' := by
  induction l generalizing a with
  | nil => exact ⟨a.1.cipher.rng, [], by simp, .nil⟩
  | cons x r ih =>
    obtain ⟨g, l', he, hl⟩ := ih (remaskStep a x)
    refine ⟨g, (x.1, remask (randomBlocks a.1 30).1 x.2) :: l', ?_, .cons ⟨rfl, _, rfl⟩ hl⟩
    obtain ⟨g', hg⟩ := randomBlocks_only a.1 30
    rw [List.foldl_cons, he]
    unfold remaskStep
    dsimp only
    rw [hg, List.append_assoc]
    rfl

theorem remaskAll_remasks (s : State) : ∃ g l, remaskAll s = { s with cipher := { s.cipher with rng := g, keys := l } } ∧
    List.Forall₂ Remasked s.cipher.keys l := by
  obtain ⟨g, l, he, hl⟩ := foldl_remaskStep s.cipher.keys (s, [])
  refine ⟨g, l, ?_, hl⟩
  have e : remaskAll s = { (s.cipher.keys.foldl remaskStep (s, [])).1 with
      cipher := { (s.cipher.keys.foldl remaskStep (s, [])).1.cipher with keys := (s.cipher.keys.foldl remaskStep (s, [])).2 } } := rfl
  rw [e, he]
  rfl

theorem maskReseed_reseeds {s : State} {e : Nat} (he : e < 6) (hd : s.cipher.drbg = 1) (hx : s.pm.domXcr = true)
    (hb : 65536 ≤ (s.cipher.engs.getD e {}).blocks) : ∃ g l, exec (.maskGeneratorReseed e) s = .next
      (remaskAll { s with cipher := { s.cipher with rng := g, maskSeeds := satAdd 16 s.cipher.maskSeeds 1, engs := l } }) := by
  have hgo : (decide (6 ≤ e) || s.cipher.drbg != 1 || !s.pm.domXcr ||
      decide ((s.cipher.engs.getD e {}).blocks < 65536)) = false := by
    rw [decide_eq_false (by omega), hd, hx, decide_eq_false (by omega)]; rfl
  show ∃ g l, execMaskGeneratorReseed e s = _
  unfold execMaskGeneratorReseed
  dsimp only
  rw [hgo, if_neg Bool.false_ne_true]
  cases (s.cipher.engs.getD e {}).seed with
  | some x =>
    dsimp only
    obtain ⟨g, hg⟩ := randomBlocks_only s 76
    rw [hg]
    exact ⟨_, _, rfl⟩
  | none =>
    dsimp only
    obtain ⟨g, hg⟩ := randomBlocks_only s 76
    rw [hg]
    obtain ⟨g', hg'⟩ := randomBlocks_only { s with cipher := { s.cipher with rng := g } } 76
    rw [hg']
    exact ⟨_, _, rfl⟩

/-- Settles O32: Key Import reads what it reads of the state its data's buffers leave, a remasked slot holds its key
still, and the source's failures are counted one by one. -/
theorem keysAndEntropy : Obligations.KeysAndEntropy := by
  unfold Obligations.KeysAndEntropy
  refine ⟨?_, ?_, ?_⟩
  · intro s c cid action slot i ex ey wrapped v hs hq ha hw hm hn hb hk hd hl hc hu hv hmet
    have he := keyImport_installs cid hs hq ha hw hm hn hb hk hd hl hc hu hv hmet
    have hsame := sameImport_served s c 168
    generalize ctlServed (adminFetch s c) c 168 = t at he hsame
    have hi := installKey_installs t slot v (action == 1)
    generalize installKey t slot (action == 1) v = u at he hi
    have hcip := hsame.cipher
    refine ⟨_, he, cqeWaits_adone u c cid .success, hi.st, ?_, hi.value, ?_, ?_, hi.shadow, ?_, ?_, ?_, ?_⟩
    · exact hi.ser.trans (congrArg Cipher.nextSer hcip)
    · exact hi.nextSer.trans (by rw [hcip])
    · intro j hj
      exact (hi.others j hj).trans (by rw [getKey, getKey, hcip])
    · exact hi.seq.trans (by rw [hcip])
    · exact hi.imports.trans (by rw [hcip])
    · refine hi.flash.trans ?_
      unfold nonvolatile
      rw [hsame.boot, hsame.board]
    · exact hi.zones.trans hsame.zones
  · intro s c cid action slot i ex ey wrapped hs hq ha hw hm hn hb hmet g
    exact keyImport_waits cid ex ey hs hq ha hw hm hn hb hmet g rfl
  · intro s
    refine ⟨?_, ?_, drbgReseed_idle, ?_, ?_, ?_, ?_, ?_, ?_⟩
    · intro hd hf hr ht
      exact ⟨_, drbgReseed_reseeds hd hf hr ht, rfl, rfl, rfl, reseed_guarded s, rfl⟩
    · intro hd hf hr ht
      have he := drbgReseed_stops hd hf hr ht
      obtain ⟨hq, hev⟩ := devRec_quiet (glbSet { s with cipher := { s.cipher with drbg := 2 } } 7) 0x71 6 0 0 0 (by decide)
      refine ⟨_, he, ?_, ?_, hev⟩
      · rw [hq]; rfl
      · rw [hq]; rfl
    · intro e h6 hd hx hb _
      obtain ⟨g, l, he⟩ := maskReseed_reseeds h6 hd hx hb
      obtain ⟨g', k, hr, hk⟩ := remaskAll_remasks { s with cipher := { s.cipher with
        rng := g, maskSeeds := satAdd 16 s.cipher.maskSeeds 1, engs := l } }
      rw [hr] at he
      exact ⟨_, he, rfl, fun i => tget_remasked hk i, rfl, rfl, rfl⟩
    · intro hr ht hn
      show ok (if (!running s || s.cipher.trng == 3) = true then s else sourceFails s true) = _
      rw [if_neg (by simpa [hr] using ht), sourceFails_restarts hn]
      rfl
    · intro hr ht hn
      have he : exec (.trngHealthTestFailure false) s = .next (sourceFails s false) := by
        show ok (if (!running s || s.cipher.trng == 3) = true then s else sourceFails s false) = _
        rw [if_neg (by simpa [hr] using ht)]
        rfl
      rw [sourceFails_fails hn] at he
      have hnoted := noted_devRec (glbSet { s with cipher := { s.cipher with
        trng := 3, apt := satAdd 8 s.cipher.apt 1, trngFails := s.cipher.trngFails + 1, rawNo := s.cipher.rawNo + 2 } } 7)
        0x70 7 0 0 0
      have hev := patina_events (glbSet { s with cipher := { s.cipher with
        trng := 3, apt := satAdd 8 s.cipher.apt 1, trngFails := s.cipher.trngFails + 1, rawNo := s.cipher.rawNo + 2 } } 7)
        ⟨0x70, 7, 255, 0, 0, 0⟩
      refine ⟨_, he, ?_, ?_, hnoted.bits 7 (glbSet_shown _ _), ?_, hev⟩
      · rw [hnoted.cipher]; rfl
      · rw [hnoted.cipher]; rfl
      · rw [hnoted.cipher]; rfl
    · intro hr h1 h3
      show ok (if (!running s || s.cipher.trng == 3 || s.cipher.trng == 1) = true then s else sourcePasses s) = _
      rw [if_neg (by simp [hr, h1, h3])]
      rfl
    · intro hb hn
      show execTransportKeyReady s = _
      delta execTransportKeyReady
      dsimp only
      rw [hb, if_neg (by decide), hn, if_pos rfl]
      generalize transportPoint s s.cipher.tkSel = q
      rfl
    · intro hb hn
      show execTransportKeyReady s = _
      delta execTransportKeyReady
      dsimp only
      rw [hb, if_neg (by decide), hn, if_neg Bool.false_ne_true]
      rfl

end Sys2Proof.Machine
end
section
/-! PROOFS. How admin commands begin and end; queues created, deleted, frozen and thawed. -/

namespace Sys2Proof.Machine

/-! ### Entries (R116) -/

theorem getCq_schedule (s : State) (c q cid : Nat) (st : Status) (dw0 dw1 : Nat) (data : List Fld) :
    ∃ k, ∀ j, getCq (schedule s c q cid st dw0 dw1 data) j =
      if j = k then { getCq s k with waiting := (getCq s k).waiting ++ [mkCqe s c q cid st dw0 dw1 data] } else getCq s j := by
  refine ⟨qk c (if q == 0 then 0 else (getSq s (qk c q)).cqid), fun j => ?_⟩
  unfold schedule
  dsimp only
  generalize qk c (if q == 0 then 0 else (getSq s (qk c q)).cqid) = k
  by_cases h : j = k
  · rw [h, if_pos rfl, getCq_setCq_same]
    intro e
    have := congrArg Cq.waiting e
    simp at this
  · rw [if_neg h, getCq_setCq_ne s h]

/-- An entry that waits goes on waiting while others are made. -/
theorem CqeWaits.schedule {s : State} {c q cid : Nat} {st : Status} (h : CqeWaits s c q cid st) (c' q' cid' : Nat)
    (st' : Status) (dw0 dw1 : Nat) (data : List Fld) : CqeWaits (schedule s c' q' cid' st' dw0 dw1 data) c q cid st := by
  obtain ⟨e, he, h1⟩ := h
  obtain ⟨k, hk⟩ := getCq_schedule s c' q' cid' st' dw0 dw1 data
  refine ⟨e, ?_, h1⟩
  show e ∈ (getCq (Machine.schedule s c' q' cid' st' dw0 dw1 data) (qk c (if q == 0 then 0 else (getSq s (qk c q)).cqid))).waiting
  rw [hk]
  generalize qk c (if q == 0 then 0 else (getSq s (qk c q)).cqid) = n at he
  by_cases h : n = k
  · rw [if_pos h]
    rw [h] at he
    exact List.mem_append_left _ he
  · rw [if_neg h]
    exact he

theorem cqeWaits_schedule (s : State) {c q : Nat} (cid : Nat) (st : Status) (dw0 dw1 : Nat) (data : List Fld) :
    CqeWaits (schedule s c q cid st dw0 dw1 data) c q cid st :=
  ⟨_, schedule_waits s c q cid st dw0 dw1 data, rfl, rfl, rfl⟩

/-! ### Abort (R128, R129) -/

/-- An Abort's own entry, marked, comes after those that wait; the queues and all else stand. -/
theorem abortDone_only (s : State) (c cid : Nat) (st : Status) (dw0 : Nat) :
    ∃ v, abortDone s c cid st dw0 = { s with cqs := v } := ⟨_, rfl⟩

theorem getCq_abortDone (s : State) (c cid : Nat) (st : Status) (dw0 j : Nat) :
    (getCq (abortDone s c cid st dw0) j).waiting = if j = qk c 0 then
      (getCq s (qk c 0)).waiting ++ [{ mkCqe s c 0 cid st dw0 0 [] with abort := true }] else (getCq s j).waiting := by
  unfold abortDone
  dsimp only
  split
  next h =>
    rw [h, getCq_setCq_same, adone_waits]
    · simp
    · intro e
      have := congrArg Cq.waiting e
      rw [adone_waits] at this
      simp at this
  next h => rw [getCq_setCq_ne _ h, adone_other _ _ _ _ _ _ _ _ h]

theorem CqeWaits.abortDone {s : State} {c q cid : Nat} {st : Status} (h : CqeWaits s c q cid st) (c' cid' : Nat)
    (st' : Status) (dw0 : Nat) : CqeWaits (abortDone s c' cid' st' dw0) c q cid st := by
  obtain ⟨e, he, h1⟩ := h
  refine ⟨e, ?_, h1⟩
  show e ∈ (getCq (Machine.abortDone s c' cid' st' dw0) (qk c (if q == 0 then 0 else (getSq s (qk c q)).cqid))).waiting
  rw [getCq_abortDone]
  generalize qk c (if q == 0 then 0 else (getSq s (qk c q)).cqid) = n at he
  by_cases h : n = qk c' 0
  · rw [if_pos h]
    rw [h] at he
    exact List.mem_append_left _ he
  · rw [if_neg h]
    exact he

theorem cqeWaits_abortDone (s : State) (c cid : Nat) (st : Status) (dw0 : Nat) :
    CqeWaits (abortDone s c cid st dw0) c 0 cid st := by
  refine ⟨{ mkCqe s c 0 cid st dw0 0 [] with abort := true }, ?_, rfl, rfl, rfl⟩
  show _ ∈ (getCq (abortDone s c cid st dw0) (qk c 0)).waiting
  rw [getCq_abortDone, if_pos rfl]
  simp

/-- An Abort of the head of an SQ's staged entries. -/
theorem abortCmd_head {f : State} {c sqid acid : Nat} (cid : Nat) {io : IoCmd} {l : List IoCmd} (ha : abortsOut f c < 8)
    (hq : sqid ≠ 0) (hn : findCmd f (qk c sqid) acid = none) (hs : (getSq f (qk c sqid)).staged = io :: l) (hi : io.cid = acid) :
    abortCmd f c cid sqid acid = abortDone
      (ioCqe (setSq f (qk c sqid) { getSq f (qk c sqid) with staged := l }) (qk c sqid) acid .abortRequested) c cid .success 0 := by
  have hfind : (io :: l).find? (fun x => x.cid == acid) = some io := by simp [hi]
  unfold abortCmd
  dsimp only
  rw [if_neg (by omega), if_neg (by simpa using hq), hn, hs, hfind]
  dsimp only
  rw [List.erase_cons_head]

theorem abort_head {s : State} {c sqid acid : Nat} (cid : Nat) {io : IoCmd} {l : List IoCmd} (h : adminServed s c = true)
    (hm : s.boot.maquette = false) (ha : abortsOut s c < 8) (hq : sqid ≠ 0) (h64 : sqid < 65536)
    (hn : findCmd s (qk c sqid) acid = none) (hl : (getSq (adminFetch s c) (qk c sqid)).live = true)
    (hs : (getSq (adminFetch s c) (qk c sqid)).staged = io :: l) (hi : io.cid = acid) :
    ∃ t, exec (.abort c cid sqid acid) s = .next t ∧ CqeWaits t c sqid acid .abortRequested ∧
      CqeWaits t c 0 cid .success ∧ (getSq t (qk c sqid)).staged = l ∧ t.cmds = s.cmds ∧
      t.zones = s.zones ∧ t.sectors = s.sectors ∧ guarded t = guarded s := by
  have he : exec (.abort c cid sqid acid) s = .next (abortCmd (adminFetch s c) c cid sqid acid) := by
    show execAbort c cid sqid acid s = _
    unfold execAbort
    rw [adminFull_served s c cid _ h hm]
  rw [abortCmd_head (f := adminFetch s c) cid ha hq hn hs hi] at he
  refine ⟨_, he, ?_, cqeWaits_abortDone _ _ _ _ _, ?_, ?_⟩
  · refine CqeWaits.abortDone ?_ _ _ _ _
    unfold ioCqe
    rw [ctrlOfSq_qk _ _ h64, qidOfSq_qk _ _ h64]
    exact cqeWaits_schedule _ _ _ _ _ _
  · obtain ⟨v, hv⟩ := abortDone_only (ioCqe (setSq (adminFetch s c) (qk c sqid)
      { getSq (adminFetch s c) (qk c sqid) with staged := l }) (qk c sqid) acid .abortRequested) c cid .success 0
    rw [hv]
    show (getSq (setSq (adminFetch s c) (qk c sqid) { getSq (adminFetch s c) (qk c sqid) with staged := l }) (qk c sqid)).staged = l
    rw [getSq_setSq_same]
    intro e
    have e2 : (getSq (adminFetch s c) (qk c sqid)).live = false := congrArg (fun q : Sq => q.live) e
    rw [hl] at e2
    cases e2
  · obtain ⟨v, hv⟩ := abortDone_only (ioCqe (setSq (adminFetch s c) (qk c sqid)
      { getSq (adminFetch s c) (qk c sqid) with staged := l }) (qk c sqid) acid .abortRequested) c cid .success 0
    rw [hv]
    exact ⟨rfl, rfl, rfl, rfl⟩

/-! ### Other admin commands (R126, R134, R158) -/

theorem pumpEvs_none {s : State} {c : Nat} (h : (getCtrl s c).evs = []) (n : Nat) : pumpEvs s c n = s := by
  cases n with
  | zero => rfl
  | succ n =>
    unfold pumpEvs
    dsimp only
    rw [h]
    split
    next h' => cases h'
    next => rfl

theorem eventRequest_held {s : State} {c : Nat} (cid : Nat) (h : adminServed s c = true) (ha : (getCtrl s c).aers.length < 8)
    (he : (getCtrl s c).evs = []) : exec (.asynchronousEventRequest c cid) s = .next { adminFetch s c with
      ctrls := tset {} s.ctrls c { getCtrl s c with aers := (getCtrl s c).aers ++ [cid] } } := by
  have hc : getCtrl (setCtrl (adminFetch s c) c { getCtrl s c with aers := (getCtrl s c).aers ++ [cid] }) c =
      { getCtrl s c with aers := (getCtrl s c).aers ++ [cid] } := by
    refine getCtrl_setCtrl_same _ _ _ ?_
    intro e
    have := congrArg Ctrl.aers e
    simp at this
  show execAsynchronousEventRequest c cid s = _
  unfold execAsynchronousEventRequest
  rw [admin_served s c _ h]
  dsimp only
  have hf : getCtrl (adminFetch s c) c = getCtrl s c := rfl
  rw [hf, if_neg (by omega), pumpEvs_none (by rw [hc]; exact he)]
  rfl

theorem endFreeze_none {s : State} {k : Nat} (h : (getSq s k).frz = none) : endFreeze s k = s := by
  unfold endFreeze
  rw [h]

theorem endFreeze_unheld {s : State} {k : Nat} {f : Frz} (h : (getSq s k).frz = some f) (hh : f.held = none) :
    endFreeze s k = setCtrl s (ctrlOfSq k) { getCtrl s (ctrlOfSq k) with frzGen := (getCtrl s (ctrlOfSq k)).frzGen + 1 } := by
  have hold : endHold s k = s := by
    unfold endHold
    rw [h]
    dsimp only [Option.bind]
    rw [hh]
  unfold endFreeze
  rw [h, hold]

theorem drainComplete_deletes {s : State} {c qid cid : Nat} (hd : (getSq s (qk c qid)).del = some cid)
    (hs : startedOf s (qk c qid) = []) (hi : (getSq s (qk c qid)).inflight = 0) (hf : (getSq s (qk c qid)).frz = none)
    (ht : (getSq s (qk c qid)).thaw = none) : exec (.deleteSqDrainComplete c qid) s =
      .next (adone { s with sqs := tset {} s.sqs (qk c qid) {} } c cid .success) := by
  show execDeleteSqDrainComplete c qid s = _
  unfold execDeleteSqDrainComplete
  dsimp only
  rw [hd]
  dsimp only
  rw [hs, hi, if_neg (by decide), endFreeze_none hf, ht]
  rfl

theorem thawResume_thaws {s : State} {c sqid cid : Nat} {f : Frz} (h64 : sqid < 65536)
    (ht : (getSq s (qk c sqid)).thaw = some cid) (hf : (getSq s (qk c sqid)).frz = some f) (hh : f.held = none)
    (hl : f.logged = true) (hs : startedOf s (qk c sqid) = []) (hi : (getSq s (qk c sqid)).inflight = 0)
    (hd : (getSq s (qk c sqid)).del = none) : exec (.queueThawResume c sqid) s = .next (adone { s with
      ctrls := tset {} s.ctrls c { getCtrl s c with frzGen := (getCtrl s c).frzGen + 1 }
      sqs := tset {} s.sqs (qk c sqid) { getSq s (qk c sqid) with frz := none, thaw := none } } c cid .success f.head) := by
  have hgo : (!(startedOf s (qk c sqid)).isEmpty || (getSq s (qk c sqid)).inflight != 0 || !f.logged ||
      (getSq s (qk c sqid)).del.isSome) = false := by rw [hs, hi, hl, hd]; rfl
  show execQueueThawResume c sqid s = _
  unfold execQueueThawResume
  dsimp only
  rw [ht, hf]
  dsimp only
  rw [hgo, if_neg Bool.false_ne_true, endFreeze_unheld hf hh, ctrlOfSq_qk _ _ h64]
  rfl

theorem queueThaw_waits {s : State} {c sqid : Nat} (cid : Nat) (h : adminServed s c = true) (hm : s.boot.maquette = false)
    (hq : sqid ≠ 0) (hl : (getSq (adminFetch s c) (qk c sqid)).live = true)
    (hf : (getSq (adminFetch s c) (qk c sqid)).frz.isSome = true) (ht : (getSq (adminFetch s c) (qk c sqid)).thaw = none) :
    exec (.queueThaw c cid sqid) s = .next { adminFetch s c with
      sqs := tset {} (adminFetch s c).sqs (qk c sqid) { getSq (adminFetch s c) (qk c sqid) with thaw := some cid } } := by
  have hnone : (getSq (adminFetch s c) (qk c sqid)).frz.isNone = false := by
    rw [← Option.not_isSome, hf]; rfl
  show execQueueThaw c cid sqid s = _
  unfold execQueueThaw
  rw [adminFull_served s c cid _ h hm]
  dsimp only [queueThaw]
  rw [hl, hnone, ht, if_neg (by simpa using hq), if_neg (by decide)]
  rfl

/-- Settles O23, each command by its own equation on the state its fetch leaves. -/
theorem adminCommandsBeginAndEnd : Obligations.AdminCommandsBeginAndEnd := by
  unfold Obligations.AdminCommandsBeginAndEnd
  refine ⟨⟨?_, fun s c cid d0 d1 st data => rfl⟩, ?_, ?_, ?_, ?_⟩
  · intro s c hz q h
    unfold adminFetch
    dsimp only
    rw [if_neg (by simpa using hz)]
    simp only [beq_iff_eq]
    rfl
  · intro s c cid h f
    refine ⟨?_, eventRequest_held cid h, admin_served s c (fun t => adone t c cid .success) h⟩
    intro sqid acid io l hm ha hq _ h64 hn hl hs hi
    exact abort_head cid h hm ha hq h64 hn hl hs hi
  · intro s c qid cid q hd hs hi hf ht
    exact drainComplete_deletes hd hs hi hf ht
  · intro s c sqid cid f k q _ h64 _ ht hf hh hl hs hi hd
    exact thawResume_thaws h64 ht hf hh hl hs hi hd
  · intro s c cid sqid h hm f q hq hl hf ht
    exact queueThaw_waits cid h hm hq hl hf ht

/-! ### Queues (R98 to R101, R110) -/

section
variable {s : State} {c qid : Nat} (cid : Nat) (h : adminServed s c = true) (hr : s.boot.romRec = false)
include h hr

theorem createIoCq_creates (hm : s.boot.maquette = false) {qsize iv : Nat} (ien : Bool) (h0 : qid ≠ 0) (ha : qid ≤ (getCtrl s c).allot)
    (hl : (getCq s (qk c qid)).live = false) (hz : qsize ≠ 0) (hz' : qsize ≤ 65535)
    (hv : iv < (nicheCfg s (myNiche s c)).vecs) :
    exec (.createIoCq c cid qid qsize true ien iv) s = .next (adone { adminFetch s c with
      cqs := tset {} s.cqs (qk c qid) { live := true, size := qsize + 1, iv := iv, ien := ien } } c cid .success) := by
  refine exec_adminRom (createCq · c cid qid qsize true ien iv) rfl h hr ?_
  unfold createCq
  have hgo : ((adminFetch s c).boot.maquette || qid == 0 || decide ((getCtrl (adminFetch s c) c).allot < qid) ||
      (getCq (adminFetch s c) (qk c qid)).live) = false := by
    show (s.boot.maquette || qid == 0 || decide ((getCtrl s c).allot < qid) || (getCq s (qk c qid)).live) = false
    rw [hm, hl, decide_eq_false (Nat.not_lt.mpr ha)]
    simpa using h0
  have hvec : ¬ (nicheCfg (adminFetch s c) (myNiche (adminFetch s c) c)).vecs ≤ iv := Nat.not_le.mpr hv
  rw [hgo, if_neg Bool.false_ne_true, if_neg (by simp only [Bool.or_eq_true, beq_iff_eq, decide_eq_true_eq]; omega),
    if_neg (by decide), if_neg hvec]
  rfl

theorem createIoSq_creates (hm : s.boot.maquette = false) {qsize cqid : Nat} (h0 : qid ≠ 0) (ha : qid ≤ (getCtrl s c).allot)
    (hl : (getSq (adminFetch s c) (qk c qid)).live = false) (hz : qsize ≠ 0) (hz' : qsize ≤ 65535) (hc0 : cqid ≠ 0)
    (hc : cqid ≤ (getCtrl s c).allot) (hcl : (getCq s (qk c cqid)).live = true) :
    exec (.createIoSq c cid qid qsize cqid true) s = .next (adone { adminFetch s c with
      sqs := tset {} (adminFetch s c).sqs (qk c qid) { live := true, size := qsize + 1, cqid := cqid } } c cid .success) := by
  refine exec_adminRom (createSq · c cid qid qsize cqid true) rfl h hr ?_
  unfold createSq
  dsimp only
  have hgo : ((adminFetch s c).boot.maquette || qid == 0 || decide ((getCtrl (adminFetch s c) c).allot < qid) ||
      (getSq (adminFetch s c) (qk c qid)).live) = false := by
    rw [hl]
    show (s.boot.maquette || qid == 0 || decide ((getCtrl s c).allot < qid) || false) = false
    rw [hm, decide_eq_false (Nat.not_lt.mpr ha)]
    simpa using h0
  have hcq : (cqid == 0 || decide ((getCtrl (adminFetch s c) c).allot < cqid)) = false := by
    show (cqid == 0 || decide ((getCtrl s c).allot < cqid)) = false
    rw [decide_eq_false (Nat.not_lt.mpr hc)]
    simpa using hc0
  have hlive : (getCq (adminFetch s c) (qk c cqid)).live = true := hcl
  rw [hgo, if_neg Bool.false_ne_true, if_neg (by simp only [Bool.or_eq_true, beq_iff_eq, decide_eq_true_eq]; omega),
    if_neg (by decide), hcq, if_neg Bool.false_ne_true, hlive, if_neg (by decide)]
  rfl

theorem deleteIoCq_deletes (hm : s.boot.maquette = false) (h0 : qid ≠ 0) (hl : (getCq s (qk c qid)).live = true)
    (hn : ∀ kv ∈ (adminFetch s c).sqs, kv.2.cqid ≠ qid) :
    exec (.deleteIoCq c cid qid) s = .next (adone { adminFetch s c with cqs := tset {} s.cqs (qk c qid) {} } c cid .success) := by
  refine exec_adminRom (deleteCq · c cid qid) rfl h hr ?_
  unfold deleteCq
  have hgo : ((adminFetch s c).boot.maquette || qid == 0 || !(getCq (adminFetch s c) (qk c qid)).live) = false := by
    show (s.boot.maquette || qid == 0 || !(getCq s (qk c qid)).live) = false
    rw [hm, hl]
    simpa using h0
  have hany : (adminFetch s c).sqs.any
      (fun kv => ctrlOfSq kv.1 == c && qidOfSq kv.1 != 0 && kv.2.live && kv.2.cqid == qid) = false := by
    rw [List.any_eq_false]
    intro kv hkv
    simp [hn kv hkv]
  rw [hgo, if_neg Bool.false_ne_true, hany, if_neg Bool.false_ne_true]
  rfl

theorem numberOfQueues_allots (hm : s.boot.maquette = false) {left m : Nat} (nsqr ncqr : Nat)
    (hleft : left = (nicheCfg s (myNiche s c)).qcount -
        sumBy (fun d => (getCtrl s d).allot) ((ctrlsOf s (myNiche s c)).filter (fun d => d != c)))
    (hmin : m = min (min (nsqr + 1) (ncqr + 1)) left) (h0 : left ≠ 0)
    (hs : ∀ kv ∈ (adminFetch s c).sqs, kv.1 / 65536 = c → kv.1 % 65536 = 0)
    (hc : ∀ kv ∈ s.cqs, kv.1 / 65536 = c → kv.1 % 65536 = 0) :
    exec (.setFeaturesNumberOfQueues c cid nsqr ncqr) s = .next (adone { adminFetch s c with
      ctrls := tset {} s.ctrls c { getCtrl s c with allot := m } } c cid .success ((m - 1) + (m - 1) * 65536)) := by
  refine exec_adminRom (numberOfQueues · c cid nsqr ncqr) rfl h hr ?_
  have h1 : (adminFetch s c).sqs.any (fun kv => ctrlOfSq kv.1 == c && qidOfSq kv.1 != 0 && kv.2.live) = false := by
    rw [List.any_eq_false]
    intro kv hkv
    by_cases e : kv.1 / 65536 = c
    · simp [qidOfSq, hs kv hkv e]
    · simp [ctrlOfSq, e]
  have h2 : (adminFetch s c).cqs.any (fun kv => kv.1 / 65536 == c && kv.1 % 65536 != 0 && kv.2.live) = false := by
    rw [List.any_eq_false]
    intro kv hkv
    by_cases e : kv.1 / 65536 = c
    · simp [hc kv hkv e]
    · simp [e]
  have h3 : (nicheCfg (adminFetch s c) (myNiche (adminFetch s c) c)).qcount -
      sumBy (fun d => (getCtrl (adminFetch s c) d).allot)
        ((ctrlsOf (adminFetch s c) (myNiche (adminFetch s c) c)).filter (fun d => d != c)) = left := hleft.symm
  have h4 : ((adminFetch s c).boot.maquette || left == 0) = false := by
    show (s.boot.maquette || left == 0) = false
    rw [hm]
    simpa using h0
  unfold numberOfQueues
  dsimp only
  rw [h1, h2, h3, h4, if_neg Bool.false_ne_true, if_neg (by decide), ← hmin]
  rfl

theorem urgentMapping_maps {cls : Nat} (h0 : qid ≠ 0) (hcl : cls < 3)
    (hu : cls = 1 → (nicheCfg s (myNiche s c)).urgentOk = true) (hl : (getSq (adminFetch s c) (qk c qid)).live = true)
    (hn : (getSq (adminFetch s c) (qk c qid)).comm = none) :
    exec (.setFeaturesUrgentClassSqMapping c cid qid cls 0) s = .next (adone { adminFetch s c with
      sqs := tset {} (adminFetch s c).sqs (qk c qid) { getSq (adminFetch s c) (qk c qid) with cls := cls } } c cid .success) := by
  refine exec_adminRom (urgentMapping · c cid qid cls 0) rfl h hr ?_
  unfold urgentMapping
  dsimp only
  have hgo : ((0 : Nat) != 0 || qid == 0 || !(getSq (adminFetch s c) (qk c qid)).live || cls == 3 ||
      (cls == 1 && !(nicheCfg (adminFetch s c) (myNiche (adminFetch s c) c)).urgentOk)) = false := by
    rw [hl]
    have hu' : (cls == 1 && !(nicheCfg (adminFetch s c) (myNiche (adminFetch s c) c)).urgentOk) = false := by
      by_cases e : cls = 1
      · have := hu e
        show (cls == 1 && !(nicheCfg s (myNiche s c)).urgentOk) = false
        rw [this]; simp
      · simp [e]
    rw [hu']
    simp only [bne_self_eq_false, Bool.false_or, Bool.or_false, Bool.not_true, Bool.or_eq_false_iff, beq_eq_false_iff_ne]
    omega
  have hb : boundLive (adminFetch s c) (getSq (adminFetch s c) (qk c qid)) = false := by
    unfold boundLive
    rw [hn]
  rw [hgo, if_neg Bool.false_ne_true, hb, Bool.false_and, if_neg Bool.false_ne_true]
  rfl

end

/-! ### An SQ deleted (R101) -/

/-- From `s` to `t` waiting commands end: media, zones and SQs stand. -/
structure EndsWaiting (s t : State) : Prop where
  sectors : t.sectors = s.sectors
  zones : t.zones = s.zones
  sqs : t.sqs = s.sqs
  guarded : guarded t = guarded s
  finish : NoFinishWaits t

theorem endWaiting_ends {s : State} (h : NoFinishWaits s) (k : Nat) (st : Status) (id : Nat) :
    EndsWaiting s (endWaiting k st s id) := by
  have hu (a : State) (c : Cmd) : ∃ v, uncount a c st = { a with comms := v } := by
    unfold uncount
    split
    · split
      · exact ⟨_, rfl⟩
      · exact ⟨a.comms, rfl⟩
    · exact ⟨a.comms, rfl⟩
  unfold endWaiting
  obtain ⟨v, hv⟩ := hu (ioCqe s k (getCmd s id).io.cid st) (getCmd s id)
  rw [hv]
  have h0 : NoFinishWaits { ioCqe s k (getCmd s id).io.cid st with comms := v } := h
  generalize hw : ({ ioCqe s k (getCmd s id).io.cid st with comms := v } : State) = w at h0
  have hz : w.zones = s.zones ∧ w.sectors = s.sectors ∧ w.sqs = s.sqs ∧ Machine.guarded w = Machine.guarded s := by
    rw [← hw]; exact ⟨rfl, rfl, rfl, rfl⟩
  obtain ⟨hz1, hz2, hz3, hz4⟩ := hz
  have hd := (discard_quiet h0 id).1
  have hg : Machine.guarded (discard w id) = Machine.guarded w := discard_guarded w id
  have hn := discard_noFinish h0 id
  refine ⟨?_, ?_, ?_, hg.trans hz4, hn⟩
  · rw [hd]; exact hz2
  · rw [hd]; exact hz1
  · rw [hd]; exact hz3

theorem endWaitings_end (k : Nat) (st : Status) (l : List Nat) {s : State} (h : NoFinishWaits s) :
    EndsWaiting s (l.foldl (endWaiting k st) s) := by
  induction l generalizing s with
  | nil => exact ⟨rfl, rfl, rfl, rfl, h⟩
  | cons x r ih =>
    have h1 := endWaiting_ends h k st x
    have h2 := ih h1.finish
    exact ⟨h2.sectors.trans h1.sectors, h2.zones.trans h1.zones, h2.sqs.trans h1.sqs, h2.guarded.trans h1.guarded, h2.finish⟩

theorem completeStaged_only (s : State) (k : Nat) (st : Status) : ∃ v, completeStaged s k st =
    { s with cqs := v, sqs := tset {} s.sqs k { getSq s k with staged := [] } } := by
  have hc (l : List IoCmd) (a : State) : ∃ v, l.foldl (fun a io => ioCqe a k io.cid st) a = { a with cqs := v } := by
    induction l generalizing a with
    | nil => exact ⟨a.cqs, rfl⟩
    | cons x r ih =>
      obtain ⟨v, hv⟩ := ih (ioCqe a k x.cid st)
      exact ⟨v, hv⟩
  obtain ⟨v, hv⟩ := hc (getSq s k).staged s
  unfold completeStaged
  dsimp only
  rw [hv]
  exact ⟨v, rfl⟩

theorem deleteIoSq_begins {s : State} {c qid : Nat} (cid : Nat) (h : adminServed s c = true) (hr : s.boot.romRec = false)
    (hm : s.boot.maquette = false) (h0 : qid ≠ 0) (hl : (getSq (adminFetch s c) (qk c qid)).live = true)
    (hd : (getSq (adminFetch s c) (qk c qid)).del = none) (hn : (getSq (adminFetch s c) (qk c qid)).comm = none)
    (hf : NoFinishWaits s) :
    ∃ t, exec (.deleteIoSq c cid qid) s = .next t ∧ (getSq t (qk c qid)).del = some cid ∧ (getSq t (qk c qid)).staged = [] ∧
      t.zones = s.zones ∧ t.sectors = s.sectors ∧ guarded t = guarded s := by
  have hgo : ((adminFetch s c).boot.maquette || qid == 0 || !(getSq (adminFetch s c) (qk c qid)).live ||
      (getSq (adminFetch s c) (qk c qid)).del.isSome) = false := by
    rw [hl, hd]
    show (s.boot.maquette || qid == 0 || !true || false) = false
    rw [hm]
    simpa using h0
  have hb : boundLive (adminFetch s c) (getSq (adminFetch s c) (qk c qid)) = false := by
    unfold boundLive
    rw [hn]
  refine ⟨completeUnstarted (setSq (adminFetch s c) (qk c qid) { getSq (adminFetch s c) (qk c qid) with del := some cid })
      (qk c qid) .abortSqDel, exec_adminRom (deleteSq · c cid qid) rfl h hr ?_, ?_⟩
  · unfold deleteSq
    dsimp only
    rw [hgo, if_neg Bool.false_ne_true, hb, if_neg Bool.false_ne_true]
  · have hf' : NoFinishWaits (setSq (adminFetch s c) (qk c qid) { getSq (adminFetch s c) (qk c qid) with del := some cid }) := hf
    have hsq : (getSq (setSq (adminFetch s c) (qk c qid) { getSq (adminFetch s c) (qk c qid) with del := some cid })
        (qk c qid)).del = some cid := by
      rw [getSq_setSq_same]
      intro e
      have := congrArg Sq.del e
      simp at this
    have hg : guarded (setSq (adminFetch s c) (qk c qid) { getSq (adminFetch s c) (qk c qid) with del := some cid }) =
      guarded s := rfl
    have hzs : (setSq (adminFetch s c) (qk c qid) { getSq (adminFetch s c) (qk c qid) with del := some cid }).zones =
      s.zones ∧ (setSq (adminFetch s c) (qk c qid) { getSq (adminFetch s c) (qk c qid) with del := some cid }).sectors =
      s.sectors := ⟨rfl, rfl⟩
    generalize setSq (adminFetch s c) (qk c qid) { getSq (adminFetch s c) (qk c qid) with del := some cid } = w at *
    unfold completeUnstarted
    have he := endWaitings_end (qk c qid) .abortSqDel (waitingOf w (qk c qid)) hf'
    generalize (waitingOf w (qk c qid)).foldl (endWaiting (qk c qid) .abortSqDel) w = u at he
    obtain ⟨v, hv⟩ := completeStaged_only u (qk c qid) .abortSqDel
    have hdel : (getSq u (qk c qid)).del = some cid := by
      rw [getSq, he.sqs]; exact hsq
    rw [hv]
    have hget : getSq { u with cqs := v, sqs := tset {} u.sqs (qk c qid) { getSq u (qk c qid) with staged := [] } } (qk c qid) =
        { getSq u (qk c qid) with staged := [] } := by
      refine tget_tset_same _ _ _ _ ?_
      intro e
      have e2 : (getSq u (qk c qid)).del = none := congrArg Sq.del e
      rw [hdel] at e2
      cases e2
    refine ⟨by rw [hget]; exact hdel, by rw [hget], he.zones.trans hzs.1, he.sectors.trans hzs.2, ?_⟩
    exact he.guarded.trans hg

/-- Settles O24, each command by its own equation on the state its fetch leaves. -/
theorem queuesManaged : Obligations.QueuesManaged := by
  unfold Obligations.QueuesManaged
  intro s c cid qid h hr hm f k
  refine ⟨?_, ?_, ?_, ?_, ?_, ?_⟩
  · intro qsize iv ien h0 ha hl hz hz' hv
    exact createIoCq_creates cid h hr hm ien h0 ha hl hz hz' hv
  · intro qsize cqid h0 ha hl hz hz' hc0 hc hcl
    exact createIoSq_creates cid h hr hm h0 ha hl hz hz' hc0 hc hcl
  · intro h0 hl hn
    exact deleteIoCq_deletes cid h hr hm h0 hl hn
  · intro h0 hl hd hn hf
    exact deleteIoSq_begins cid h hr hm h0 hl hd hn hf
  · intro nsqr ncqr left m h0 hs hc
    exact numberOfQueues_allots cid h hr hm nsqr ncqr rfl rfl h0 hs hc
  · intro cls h0 hcl hu hl hn
    exact urgentMapping_maps cid h hr h0 hcl hu hl hn

end Sys2Proof.Machine
end
section
/-! PROOFS. Firmware images and Armature staging. -/

namespace Sys2Proof.Machine

/-- A row of the PF0s that a sanitize does not hold, where its data's buffers are to be had at once. -/
theorem exec_pf0San {i : Instr} {s : State} {c cid len : Nat} (body : State → State)
    (hi : exec i s = adminPf0 s c cid (afterSan c cid (ctlData c cid len body))) (h : adminServed s c = true)
    (hp : isPf0 c = true) (hs : sanStatus s c = none) (hm : ctlMet (adminFetch s c) c len = true) :
    exec i s = .next (body (ctlServed (adminFetch s c) c len)) := by
  have hs' : sanStatus (adminFetch s c) c = none := hs
  rw [hi, adminPf0_served s c cid _ h hp, afterSan, hs']
  dsimp only
  rw [ctlData_met hm]

theorem exec_pf0San_plain {i : Instr} {s : State} {c cid : Nat} (body : State → State)
    (hi : exec i s = adminPf0 s c cid (afterSan c cid body)) (h : adminServed s c = true)
    (hp : isPf0 c = true) (hs : sanStatus s c = none) : exec i s = .next (body (adminFetch s c)) := by
  have hs' : sanStatus (adminFetch s c) c = none := hs
  rw [hi, adminPf0_served s c cid _ h hp, afterSan, hs']

/-! ### Firmware (R133, R380, R381, R383) -/

theorem imageDownload_stages {s : State} {c offset : Nat} {data : List Nat} (cid : Nat) (h : adminServed s c = true)
    (hp : isPf0 c = true) (hs : sanStatus s c = none) (ho : offset % 4096 = 0) (hl : data.length % 4096 = 0) (hd : data ≠ [])
    (he : offset + data.length ≤ 4194304) (hm : ctlMet (adminFetch s c) c data.length = true) (dl : List (Nat × List Nat))
    (hdl : dl = blkWrite data.length s.boot.dl (offset / 256) data) :
    exec (.firmwareImageDownload c cid offset data) s = .next (adone { ctlServed (adminFetch s c) c data.length with
      boot := { s.boot with
        dl := dl, dlChk := some (fwCheck (blkByte dl) s.board.fuses s.board.fuses.fwFloor) } } c cid .success) := by
  rw [exec_pf0San _ rfl h hp hs hm]
  have hg := sameImport_served s c data.length
  generalize ctlServed (adminFetch s c) c data.length = g at hg
  have hgo : (offset % 4096 != 0 || data.length % 4096 != 0 || data.isEmpty || decide (4194304 < offset + data.length)) = false := by
    rw [ho, hl, decide_eq_false (Nat.not_lt.mpr he), List.isEmpty_eq_false_iff.mpr hd]; rfl
  have hchk : fwCheck (blkByte dl) g.board.fuses g.board.fuses.fwFloor = fwCheck (blkByte dl) s.board.fuses s.board.fuses.fwFloor := by
    rw [hg.board]
  rw [hgo, if_neg Bool.false_ne_true, hg.boot]
  dsimp only
  rw [← hdl, hchk]

/-- The status that R383's checks give for a result `r` of the image's own. -/
def verdict (fits : Bool) : Nat → Option Status
  | 0 => if fits then none else some .fwProhibited
  | 5 => some .fwProhibited
  | _ => some .fwImage

theorem commitCheck_eq : commitCheck = fun (t : State) (m : Img) (rd : Bool) => if rd then some .fwImage else
    verdict (t.boot.maquette || armFits t (fwVec m) 0 || armFits t (fwVec m) 1) (fwCheck m t.board.fuses t.board.fuses.fwFloor) := by
  delta commitCheck verdict
  rfl

theorem armFits_congr {s t : State} (hb : t.boot = s.boot) (hd : t.board = s.board) (v : FwVec) (k : Nat) :
    armFits t v k = armFits s v k := by
  unfold armFits armImg
  rw [hb, hd]

theorem commitCheck_congr {s t : State} (hb : t.boot = s.boot) (hd : t.board = s.board) (m : Img) (rd : Bool) :
    commitCheck t m rd = commitCheck s m rd := by
  have e (x : State) := congrFun (congrFun (congrFun commitCheck_eq x) m) rd
  rw [e t, e s, armFits_congr hb hd, armFits_congr hb hd, hb, hd]

theorem commitCheck_fetched (s : State) (c : Nat) (m : Img) (rd : Bool) :
    commitCheck (adminFetch s c) m rd = commitCheck s m rd :=
  commitCheck_congr (s := s) (t := adminFetch s c) rfl rfl m rd

theorem firmwareCommit_commits {s : State} {c k : Nat} (cid : Nat) {rd : Bool} (h : adminServed s c = true) (hp : isPf0 c = true)
    (hs : sanStatus s c = none) (hk : k = 1 ∨ k = 2) (hc : commitCheck s (fwImg s k) rd = none) :
    exec (.firmwareCommit c cid 2 k rd) s =
      .next (adone { adminFetch s c with boot := setActive s.boot k } c cid .success) := by
  rw [exec_pf0San_plain (fun t => fwCommit t c cid 2 k rd) rfl h hp hs]
  have hf : commitCheck (adminFetch s c) (fwImg (adminFetch s c) k) rd = none := (commitCheck_fetched s c _ rd).trans hc
  have hk0 : (if (k == 0) = true then if ((adminFetch s c).boot.fwSlot == 1) = true then 2 else 1 else k) = k :=
    if_neg (by simp only [beq_iff_eq]; omega)
  delta fwCommit
  dsimp only
  rw [hk0, if_neg (by decide), if_neg (by decide), if_neg (by omega), if_pos (by decide), beq_self_eq_true, Bool.true_and, hf]
  rfl

theorem firmwareCommit_unread {s : State} {c k : Nat} (cid : Nat) (h : adminServed s c = true) (hp : isPf0 c = true)
    (hs : sanStatus s c = none) (hk : k = 1 ∨ k = 2) :
    exec (.firmwareCommit c cid 2 k true) s = .next (adone (adminFetch s c) c cid .fwImage) := by
  rw [exec_pf0San_plain (fun t => fwCommit t c cid 2 k true) rfl h hp hs]
  have hf (m : Img) : commitCheck (adminFetch s c) m true = some .fwImage := by
    unfold commitCheck
    rw [if_pos rfl]
  have hk0 : (if (k == 0) = true then if ((adminFetch s c).boot.fwSlot == 1) = true then 2 else 1 else k) = k :=
    if_neg (by simp only [beq_iff_eq]; omega)
  delta fwCommit
  dsimp only
  rw [hk0, if_neg (by decide), if_neg (by decide), if_neg (by omega), if_pos (by decide), beq_self_eq_true, Bool.true_and, hf]

theorem activate_waits {s : State} {c k : Nat} (cid : Nat) {rd : Bool} (h : adminServed s c = true) (hp : isPf0 c = true)
    (hs : sanStatus s c = none) (hk : k = 1 ∨ k = 2) (hl : liveComms s = []) (ha : s.boot.activation = none)
    (hc : commitCheck s (fwImg s k) rd = none) :
    exec (.firmwareActivateWithoutReset c cid k rd) s =
      .next (raiseStd { adminFetch s c with boot := { s.boot with activation := some (c, cid, k) } }
        (allCtrls (adminFetch s c)) 9 ⟨2, 1, 3⟩) := by
  rw [exec_pf0San_plain (fun t => activate t c cid k rd) rfl h hp hs]
  have hf : commitCheck (adminFetch s c) (fwImg (adminFetch s c) k) rd = none := (commitCheck_fetched s c _ rd).trans hc
  have hl' : liveComms (adminFetch s c) = [] := hl
  have ha' : (adminFetch s c).boot.activation = none := ha
  unfold activate
  rw [hl', if_neg (by decide), ha', if_neg (by decide),
    if_neg (by simp only [Bool.and_eq_true, bne_iff_ne]; omega), hf]
  rfl

theorem setActive_kept (b : Boot) (k : Nat) : (setActive b k).activation = b.activation ∧ (setActive b k).fwSlot = b.fwSlot ∧
    (setActive b k).flash = b.flash := by
  unfold setActive
  dsimp only
  split <;> exact ⟨rfl, rfl, rfl⟩

theorem drained_activates {s : State} {c cid k : Nat} (ha : s.boot.activation = some (c, cid, k)) (hn : anyStarted s = false) :
    exec .firmwareActivationDrained s = .next (adone { s with boot :=
      { setActive (runFw { s.boot with activation := none } (fwImg s k) k) k with fwFallback := false } } c cid .success) := by
  show execFirmwareActivationDrained s = _
  delta execFirmwareActivationDrained
  dsimp only
  rw [ha]
  dsimp only
  rw [hn, if_neg Bool.false_ne_true]
  rfl

theorem timeout_refuses {s : State} {c cid k : Nat} (ha : s.boot.activation = some (c, cid, k)) (hn : anyStarted s = true) :
    exec .firmwareActivationTimeout s = .next (adone { s with
      boot := { s.boot with activation := none } } c cid .fwNeedsReset) := by
  show execFirmwareActivationTimeout s = _
  unfold execFirmwareActivationTimeout
  rw [ha]
  dsimp only
  rw [hn]
  rfl

/-- Settles O30, each command by its own equation. -/
theorem firmwareManaged : Obligations.FirmwareManaged := by
  unfold Obligations.FirmwareManaged
  refine ⟨?_, ?_⟩
  · intro s c cid h hp hs f
    refine ⟨?_, ?_, ?_, ?_⟩
    · intro offset data ho hl hd he hm dl
      exact imageDownload_stages cid h hp hs ho hl hd he hm dl rfl
    · intro k rd hk hc
      exact firmwareCommit_commits cid h hp hs hk hc
    · intro k hk
      exact firmwareCommit_unread cid h hp hs hk
    · intro k rd hk hl ha hc
      have he := activate_waits cid h hp hs hk hl ha hc
      have hn := noted_raiseStd { adminFetch s c with boot := { s.boot with activation := some (c, cid, k) } }
        (allCtrls (adminFetch s c)) 9 ⟨2, 1, 3⟩
      have hb := hn.boot
      exact ⟨_, he, by rw [hb], by rw [hb], hn.cmds, hn.zones, hn.guarded⟩
  · intro s c cid k ha
    refine ⟨fun hn => ?_, timeout_refuses ha⟩
    have he := drained_activates ha hn
    obtain ⟨h1, h2, h3⟩ := setActive_kept (runFw { s.boot with activation := none } (fwImg s k) k) k
    exact ⟨_, he, h1, h2, rfl, cqeWaits_adone _ _ _ _, h3, rfl⟩

/-! ### Armature Stage (R57 to R64) -/

theorem stageForeign_none {s : State} (h : s.arm.stage = none) (c slot : Nat) : stageForeign s c slot = false := by
  unfold stageForeign
  rw [h]

/-- The boot flash with `data` at the start of an erased Armature slot. -/
def restaged (f : List (Nat × List Nat)) (slot count : Nat) (data : List Nat) : List (Nat × List Nat) :=
  blkWrite count (blkErase f (armBase slot / 256) (armBase slot / 256 + 1023)) (armBase slot / 256) (data.take count)

theorem stageWrite_writes {g : State} {c slot count : Nat} (cid : Nat) (data : List Nat) (h1 : slot ≤ 1) (h2 : count % 256 = 0)
    (h3 : 256 ≤ count) (h4 : count ≤ 65536) (h5 : g.boot.maquette = true ∨ g.arm.src ≠ slot) (h6 : g.arm.stage = none) :
    stageWrite g c cid slot 0 count data false = adone { g with
      arm := { g.arm with stage := some (slot, portOf c) }
      boot := { g.boot with flash := restaged g.boot.flash slot count data } } c cid .success := by
  have hsrc : (!g.boot.maquette && g.arm.src == slot) = false := by
    rcases h5 with h | h
    · rw [h]; rfl
    · rw [beq_eq_false_iff_ne.mpr h, Bool.and_false]
  have hgo : (decide (1 < slot) || (0 : Nat) % 256 != 0 || count % 256 != 0 || !(between 256 65536 count) ||
      decide (262144 < 0 + count) || (!g.boot.maquette && g.arm.src == slot)) = false := by
    have hb : between 256 65536 count = true := by simp [between, h3, h4]
    rw [hsrc, h2, hb, decide_eq_false (by omega), decide_eq_false (by omega)]
    rfl
  unfold stageWrite
  dsimp only
  rw [hgo, if_neg Bool.false_ne_true, stageForeign_none h6, if_neg (by simp), if_neg Bool.false_ne_true, if_pos (by decide)]
  rfl

/-- The validation's result in the slot's register. -/
theorem noteVal_arm (s : State) (slot : Nat) (e : ValErr) :
    (noteVal s slot e).arm = (if slot == 0 then { s.arm with errA := e } else { s.arm with errB := e }) ∧
      guarded (noteVal s slot e) = guarded s := by
  unfold noteVal
  dsimp only
  split <;> exact ⟨rfl, rfl⟩

theorem stageVerify_notes {s : State} {c slot : Nat} (cid : Nat) (rd : Option Nat) (v : ValErr) (h1 : slot ≤ 1)
    (h2 : s.arm.stage = none)
    (hv : v = validateArm (armImg s slot) s.board.fuses s.board.straps s.board.fuses.armEpoch (runVec s) rd) (h0 : v.code ≠ 0) :
    stageVerify s c cid slot rd =
      adone (noteVal s slot v) c cid .success (v.code + v.sect * 256 + v.rule * 4096) v.off := by
  delta stageVerify
  dsimp only
  rw [if_neg (by omega), stageForeign_none h2, if_neg Bool.false_ne_true, h2, ← hv, beq_eq_false_iff_ne.mpr h0, Bool.false_and,
    if_neg Bool.false_ne_true]
  rfl

theorem refreshGcs_only (l : List Nat) (s : State) : ∃ v, l.foldl refreshGc s = { s with niches := v } := by
  induction l generalizing s with
  | nil => exact ⟨s.niches, rfl⟩
  | cons x r ih =>
    have h1 : ∃ v, refreshGc s x = { s with niches := v } := by
      unfold refreshGc
      dsimp only
      split <;> exact ⟨_, rfl⟩
    obtain ⟨v, hv⟩ := h1
    obtain ⟨w, hw⟩ := ih (refreshGc s x)
    refine ⟨w, ?_⟩
    rw [List.foldl_cons, hw, hv]

/-- The record of one patch (R64). -/
def patchRec (a : State) (r : PatchRec) : State := devRec a 0x10 2 r.section_ r.value (r.index * 256 + r.field)

theorem patchRecs_only (l : List PatchRec) (s : State) : ∃ p, l.foldl patchRec s = { s with pat := p } ∧
    p.events = s.pat.events + l.length := by
  induction l generalizing s with
  | nil => exact ⟨s.pat, rfl, rfl⟩
  | cons x r ih =>
    obtain ⟨hd, hev⟩ := devRec_quiet s 0x10 2 x.section_ x.value (x.index * 256 + x.field) (by decide)
    obtain ⟨p, hp, hpe⟩ := ih (patchRec s x)
    refine ⟨p, ?_, ?_⟩
    · rw [List.foldl_cons, hp]
      unfold patchRec
      rw [hd]
    · rw [hpe]
      unfold patchRec
      rw [hev, List.length_cons]
      omega

theorem stagePatch_patches {g : State} {c : Nat} (cid : Nat) {l : List PatchRec} (hm : g.boot.maquette = false) (hl : l ≠ [])
    (h64 : l.length ≤ 64) (hb : badPatch g.board.fuses g.arm.cfg 0 l = none) : ∃ p v, p.events = g.pat.events + l.length ∧
    stagePatch g c cid l = adone { g with
      dies := policyDies g (l.foldl (patchOne g.board.fuses) g.arm.cfg).urgPolicy
      arm := { g.arm with
        cfg := l.foldl (patchOne g.board.fuses) g.arm.cfg
        patched := g.arm.patched ++ l.map (fun r => (r.section_, r.index, r.field))
        patchCnt := satAdd 16 g.arm.patchCnt l.length }
      pat := p, niches := v } c cid .success := by
  obtain ⟨p, hp, hpe⟩ := patchRecs_only l { g with
      dies := policyDies g (l.foldl (patchOne g.board.fuses) g.arm.cfg).urgPolicy
      arm := { g.arm with
        cfg := l.foldl (patchOne g.board.fuses) g.arm.cfg
        patched := g.arm.patched ++ l.map (fun r => (r.section_, r.index, r.field))
        patchCnt := satAdd 16 g.arm.patchCnt l.length } }
  have hgo : (l.isEmpty || decide (64 < l.length)) = false := by
    rw [List.isEmpty_eq_false_iff.mpr hl, decide_eq_false (Nat.not_lt.mpr h64)]; rfl
  have e : stagePatch g c cid l = adone ((validNiches (l.foldl patchRec { g with
      dies := policyDies g (l.foldl (patchOne g.board.fuses) g.arm.cfg).urgPolicy
      arm := { g.arm with
        cfg := l.foldl (patchOne g.board.fuses) g.arm.cfg
        patched := g.arm.patched ++ l.map (fun r => (r.section_, r.index, r.field))
        patchCnt := satAdd 16 g.arm.patchCnt l.length } })).foldl refreshGc (l.foldl patchRec { g with
      dies := policyDies g (l.foldl (patchOne g.board.fuses) g.arm.cfg).urgPolicy
      arm := { g.arm with
        cfg := l.foldl (patchOne g.board.fuses) g.arm.cfg
        patched := g.arm.patched ++ l.map (fun r => (r.section_, r.index, r.field))
        patchCnt := satAdd 16 g.arm.patchCnt l.length } })) c cid .success := by
    unfold stagePatch
    rw [hm, if_neg Bool.false_ne_true, hgo, if_neg Bool.false_ne_true, hb]
    rfl
  rw [e, hp]
  obtain ⟨v, hv⟩ := refreshGcs_only (validNiches { g with
      dies := policyDies g (l.foldl (patchOne g.board.fuses) g.arm.cfg).urgPolicy
      arm := { g.arm with
        cfg := l.foldl (patchOne g.board.fuses) g.arm.cfg
        patched := g.arm.patched ++ l.map (fun r => (r.section_, r.index, r.field))
        patchCnt := satAdd 16 g.arm.patchCnt l.length }
      pat := p }) { g with
      dies := policyDies g (l.foldl (patchOne g.board.fuses) g.arm.cfg).urgPolicy
      arm := { g.arm with
        cfg := l.foldl (patchOne g.board.fuses) g.arm.cfg
        patched := g.arm.patched ++ l.map (fun r => (r.section_, r.index, r.field))
        patchCnt := satAdd 16 g.arm.patchCnt l.length }
      pat := p }
  refine ⟨p, v, hpe, ?_⟩
  rw [hv]

theorem clearPatches_clears {g : State} (c cid : Nat) (hm : g.boot.maquette = false) : ∃ p v,
    clearPatches g c cid = adone { g with
      dies := policyDies g g.arm.base.urgPolicy, arm := { g.arm with cfg := g.arm.base, patched := [] }
      pat := p, niches := v } c cid .success := by
  obtain ⟨hd, -⟩ := devRec_quiet { g with
      dies := policyDies g g.arm.base.urgPolicy, arm := { g.arm with cfg := g.arm.base, patched := [] } }
      0x11 2 0 0 g.arm.patched.length (by decide)
  have e : clearPatches g c cid = adone ((validNiches (devRec { g with
      dies := policyDies g g.arm.base.urgPolicy, arm := { g.arm with cfg := g.arm.base, patched := [] } }
      0x11 2 0 0 g.arm.patched.length)).foldl refreshGc (devRec { g with
      dies := policyDies g g.arm.base.urgPolicy, arm := { g.arm with cfg := g.arm.base, patched := [] } }
      0x11 2 0 0 g.arm.patched.length)) c cid .success := by
    unfold clearPatches
    rw [hm, if_neg Bool.false_ne_true]
  rw [e]
  generalize devRec _ 0x11 2 0 0 g.arm.patched.length = u at hd
  obtain ⟨v, hv⟩ := refreshGcs_only (validNiches u) u
  rw [hv, hd]
  exact ⟨_, v, rfl⟩

theorem sameDies_served (s : State) (c len : Nat) : (ctlServed (adminFetch s c) c len).dies = s.dies ∧
    (ctlServed (adminFetch s c) c len).pat = s.pat := by
  rw [ctlServed_only]
  exact ⟨rfl, rfl⟩

/-- Settles O31, each action by its own equation on the state its data's buffers leave. -/
theorem armatureStaged : Obligations.ArmatureStaged := by
  unfold Obligations.ArmatureStaged
  intro s c cid h hp f
  refine ⟨?_, ?_, ?_, ?_⟩
  · intro slot count data h1 h2 h3 h4 h5 h6 hmet
    have hg := sameImport_served s c count
    have he : exec (.armatureStageWrite c cid slot 0 count data false) s =
        .next (stageWrite (ctlServed (adminFetch s c) c count) c cid slot 0 count data false) := by
      show execArmatureStageWrite c cid slot 0 count data false s = _
      unfold execArmatureStageWrite
      rw [adminPf0_served s c cid _ h hp, ctlData_met hmet]
    rw [he, stageWrite_writes cid data h1 h2 h3 h4 (by rw [hg.boot, hg.arm]; exact h5) (by rw [hg.arm]; exact h6), hg.arm, hg.boot]
    rfl
  · intro slot rd h1 h2 v h0
    have he : exec (.armatureStageVerify c cid slot rd) s = .next (stageVerify (adminFetch s c) c cid slot rd) := by
      show execArmatureStageVerify c cid slot rd s = _
      unfold execArmatureStageVerify
      rw [adminPf0_served s c cid _ h hp]
    have hv : v = validateArm (armImg (adminFetch s c) slot) (adminFetch s c).board.fuses (adminFetch s c).board.straps
        (adminFetch s c).board.fuses.armEpoch (runVec (adminFetch s c)) rd := by
      show validateArm _ _ _ _ _ _ = _
      delta armImg runVec
      rfl
    rw [stageVerify_notes (s := adminFetch s c) cid rd v h1 h2 hv h0] at he
    obtain ⟨ha, hg⟩ := noteVal_arm (adminFetch s c) slot v
    generalize noteVal (adminFetch s c) slot v = t at he ha hg
    have harm : (adminFetch s c).arm = s.arm := rfl
    rw [harm] at ha
    refine ⟨_, he, cqeWaits_schedule .., ?_, ?_, ?_, hg⟩
    · intro h; subst h
      show t.arm.errA = v ∧ t.arm.errB = s.arm.errB
      rw [ha]
      exact ⟨rfl, rfl⟩
    · intro h; subst h
      show t.arm.errB = v ∧ t.arm.errA = s.arm.errA
      rw [ha]
      exact ⟨rfl, rfl⟩
    · show t.arm.cfg = _
      rw [ha]
      split <;> rfl
  · intro l hm hl h64 hb hmet
    have hg := sameImport_served s c (8 * l.length)
    obtain ⟨hdies, hpat⟩ := sameDies_served s c (8 * l.length)
    have hgd : guarded (ctlServed (adminFetch s c) c (8 * l.length)) = guarded s :=
      (ctlServed_guarded _ _ _).trans rfl
    have he : exec (.armatureStagePatch c cid l) s =
        .next (stagePatch (ctlServed (adminFetch s c) c (8 * l.length)) c cid l) := by
      show execArmatureStagePatch c cid l s = _
      unfold execArmatureStagePatch
      rw [adminPf0_served s c cid _ h hp, ctlData_met hmet]
    generalize ctlServed (adminFetch s c) c (8 * l.length) = g at *
    obtain ⟨p, v, hpe, hst⟩ := stagePatch_patches (g := g) (c := c) cid (by rw [hg.boot]; exact hm) hl h64
      (by rw [hg.board, hg.arm]; exact hb)
    rw [hst] at he
    refine ⟨_, he, cqeWaits_adone .., ?_, ?_, ?_, ?_, ?_, hgd⟩
    · show l.foldl (patchOne g.board.fuses) g.arm.cfg = _
      rw [hg.board, hg.arm]
    · show g.arm.base = _
      rw [hg.arm]
    · show policyDies g _ = _
      unfold policyDies
      rw [hg.board, hg.arm, hdies]
    · show satAdd 16 g.arm.patchCnt l.length = _
      rw [hg.arm]
    · exact hpe.trans (by rw [hpat])
  · intro hm
    have he : exec (.armatureStageClearPatches c cid) s = .next (clearPatches (adminFetch s c) c cid) := by
      show execArmatureStageClearPatches c cid s = _
      unfold execArmatureStageClearPatches
      rw [adminPf0_served s c cid _ h hp]
    obtain ⟨p, v, hc⟩ := clearPatches_clears (g := adminFetch s c) c cid hm
    rw [hc] at he
    exact ⟨_, he, cqeWaits_adone .., rfl, rfl, rfl, rfl⟩

end Sys2Proof.Machine
end
section
/-! PROOFS. What the report commands return. -/

namespace Sys2Proof.Machine

/-! ### Identify (R139) -/

/-- An Identify answers with the status and the data that its CNS gives, its data in buffers of its own. -/
theorem identify_answers {s : State} {c : Nat} (cid cns nsid cntid csi : Nat) (h : adminServed s c = true) {st : Status}
    {d : List Fld} (hd : identifyData (adminFetch s c) c cns nsid cntid csi = (st, d))
    (hm : st = .success → ctlMet (adminFetch s c) c 4096 = true) :
    exec (.identify c cid cns nsid cntid csi) s = .next
      (adone (if st = .success then ctlServed (adminFetch s c) c 4096 else adminFetch s c) c cid st 0 0
        (d.filter (fun x => x.v != 0))) := by
  show execIdentify c cid cns nsid cntid csi s = _
  unfold execIdentify
  rw [admin_served s c _ h]
  dsimp only
  rw [hd]
  by_cases hs : st = .success
  · rw [if_pos hs, if_pos (by rw [hs]; rfl), ctlData_met (hm hs)]
  · rw [if_neg hs, if_neg (by simpa using hs), ctlData_zero]

section
variable (f : State) (c nsid cntid csi : Nat)

theorem identifyData_lists :
    identifyData f c 1 nsid cntid csi = (.success, idController f c) ∧
    identifyData f c 2 nsid cntid csi = (.success, nsList f (myNiche f c) nsid (fun v => v.attached.contains c)) ∧
    identifyData f c 0x10 nsid cntid csi = (.success, nsList f (myNiche f c) nsid (fun _ => true)) ∧
    identifyData f c 7 nsid cntid csi = (.success, nsList f (myNiche f c) nsid
      (fun v => v.attached.contains c && (if v.attr.zoned then 2 else 0) == csi)) ∧
    identifyData f c 0x13 nsid 0 csi = (.success, ctrlList ((nicheCtrls f (myNiche f c)).filter (fun _ => true))) := by
  refine ⟨rfl, rfl, rfl, rfl, ?_⟩
  have hge : (fun x : Nat => decide (0 ≤ x)) = fun _ => true := funext fun x => decide_eq_true (Nat.zero_le x)
  show (Status.success, ctrlList ((nicheCtrls f (myNiche f c)).filter (fun x => decide (0 ≤ x)))) = _
  rw [hge]

theorem identifyData_set {csi : Nat} (h : csi = 0 ∨ csi = 2) :
    identifyData f c 6 nsid cntid csi = (.success, idCtrlSet csi) := by
  rcases h with rfl | rfl <;> rfl

theorem identifyData_foreign (he : fnExists f cntid = true) (hb : binds f (myNiche f c) cntid = false) :
    identifyData f c 0x1C nsid cntid csi = (.nicheBoundary, []) ∧
    (cntid ≠ 0 → identifyData f c 0x12 nsid cntid csi = (.nicheBoundary, []) ∧
      identifyData f c 0x13 nsid cntid csi = (.nicheBoundary, [])) := by
  have ho : (fnExists f cntid && !(binds f (myNiche f c) cntid)) = true := by rw [he, hb]; rfl
  refine ⟨if_pos ho, fun h0 => ?_⟩
  have hf : (cntid != 0 && (fnExists f cntid && !(binds f (myNiche f c) cntid))) = true := by
    rw [ho, Bool.and_true]; simpa using h0
  exact ⟨if_pos hf, if_pos hf⟩

theorem identifyData_own (hb : binds f (myNiche f c) cntid = true) :
    identifyData f c 0x1C nsid cntid csi = (.success, [⟨0, 8, 5⟩]) := by
  refine if_neg ?_
  show ¬ (fnExists f cntid && !(binds f (myNiche f c) cntid)) = true
  rw [hb, Bool.not_true, Bool.and_false]
  exact Bool.false_ne_true

theorem identifyData_noNs (h : slotOf f (myNiche f c) nsid = none) :
    ∀ cns ∈ [0, 3, 5, 8, 0x11], identifyData f c cns nsid cntid csi = (.invalidNsOrFormat, []) := by
  intro cns hc
  simp only [List.mem_cons, List.not_mem_nil, or_false] at hc
  rcases hc with rfl | rfl | rfl | rfl | rfl <;> simp [identifyData, h]

theorem identifyData_ns {i : Nat} (h : slotOf f (myNiche f c) nsid = some i) :
    ((getNs f i).attached.contains c = true → identifyData f c 0 nsid cntid csi = (.success, idNamespace f i)) ∧
    ((getNs f i).attached.contains c = true → zonedAt f i = true →
      identifyData f c 5 nsid cntid 2 = (.success, idZoned f i)) ∧
    ((getNs f i).attached.contains c = false → identifyData f c 0 nsid cntid csi = (.success, [])) ∧
    identifyData f c 0x11 nsid cntid csi = (.success, idNamespace f i) ∧
    identifyData f c 0x12 nsid 0 csi = (.success, ctrlList ((getNs f i).attached.filter (fun _ => true))) := by
  have hge : (fun x : Nat => decide (0 ≤ x)) = fun _ => true := funext fun x => decide_eq_true (Nat.zero_le x)
  refine ⟨fun ha => ?_, fun ha hz => ?_, fun ha => ?_, ?_, ?_⟩
  · simp only [identifyData, h, ha, beq_self_eq_true, if_true]
  · simp only [identifyData, h, ha, hz, beq_self_eq_true, if_true]
  · simp only [identifyData, h, ha, beq_self_eq_true, if_true, Bool.false_eq_true, if_false]
  · simp only [identifyData, h]
    rfl
  · simp only [identifyData, h, bne_self_eq_false, Bool.false_and, Bool.false_eq_true, if_false, hge]

theorem identifyData_other {cns : Nat} (h : cns ∉ [0, 1, 2, 3, 5, 6, 7, 8, 0x10, 0x11, 0x12, 0x13, 0x1C]) :
    identifyData f c cns nsid cntid csi = (.invalidField, []) := by
  simp only [List.mem_cons, List.not_mem_nil, or_false, not_or] at h
  unfold identifyData
  dsimp only
  split
  any_goals omega
  rfl

end

/-! ### Get Log Page (R142 to R146) -/

theorem getLogPage_page {s : State} {c : Nat} (cid : Nat) (r : LogReq) (h : adminServed s c = true) {d : List Fld} (g : State)
    (hg : g = ctlServed (adminFetch s c) c r.len) (hf : (logPage (adminFetch s c) c r).1 = .success)
    (hd : logPage g c r = (.success, d, 0)) (hl : r.lid ≠ 0xC6) (hm : ctlMet (adminFetch s c) c r.len = true) :
    exec (.getLogPage c cid r) s = .next
      (if r.rae = true then adone g c cid .success 0 0 (window d r.lpo r.len)
        else logRead (adone g c cid .success 0 0 (window d r.lpo r.len)) c r) := by
  show execGetLogPage c cid r s = _
  unfold execGetLogPage
  rw [admin_served s c _ h, hf, if_pos (by rfl), ctlData_met hm, ← hg]
  unfold getLog
  rw [hd]
  dsimp only
  rw [Nat.sub_zero, beq_eq_false_iff_ne.mpr hl, Bool.or_false]

theorem getLogPage_refused {s : State} {c : Nat} (cid : Nat) (r : LogReq) (h : adminServed s c = true) {st : Status}
    (hst : st ≠ .success) (hd : logPage (adminFetch s c) c r = (st, [], 0)) :
    exec (.getLogPage c cid r) s = .next (adone (adminFetch s c) c cid st) := by
  show execGetLogPage c cid r s = _
  unfold execGetLogPage
  rw [admin_served s c _ h, hd, if_neg (by simpa using hst), ctlData_zero]
  unfold getLog
  rw [hd]
  cases st
  case success => exact absurd rfl hst
  all_goals rfl

section
variable (s : State) (c : Nat) {r : LogReq}

/-- The pages that no field of the request chooses among. -/
theorem logPage_plain :
    (r.lid = 1 → logPage s c r = (.success, errorLog s c, 0)) ∧
    (r.lid = 2 → r.nsid = 0 ∨ r.nsid = 0xFFFFFFFF → logPage s c r = (.success, smartLog s c (myNiche s c)
      (getNch s (myNiche s c)).hostRead (getNch s (myNiche s c)).hostWritten, 0)) ∧
    (r.lid = 3 → logPage s c r = (.success, fwSlotLog s, 0)) ∧
    (r.lid = 4 → logPage s c r = (.success, changedNsLog s c, 0)) ∧
    (r.lid = 5 → logPage s c r = (.success, effectsLog s c, 0)) ∧
    (r.lid = 0x80 → logPage s c r = (.success, sanitizeLog s (myNiche s c), 0)) ∧
    (r.lid = 0xC0 → r.lsi = 0xFFFF → logPage s c r =
      (.success, patinaLog s (if isPf0 c then 0xFFFF else myNiche s c), 0)) ∧
    (r.lid = 0xC1 → logPage s c r = (.success, commissionLog s (myNiche s c), 0)) ∧
    (r.lid = 0xC2 → logPage s c r = (.success, freezeLog s c, 0)) ∧
    (r.lid = 0xC3 → logPage s c r = (.success, thermalLog s, 0)) ∧
    (r.lid = 0xC4 → logPage s c r = (.success, federationLog s, 0)) ∧
    (r.lid = 0xC5 → r.lsi = 0xFFFF → logPage s c r = (.success, nicheLog s (myNiche s c), 0)) := by
  obtain ⟨lid, nsid, lsp, lsi, rae, len, lpo⟩ := r
  dsimp only
  refine ⟨?_, ?_, ?_, ?_, ?_, ?_, ?_, ?_, ?_, ?_, ?_, ?_⟩
  · rintro rfl; rfl
  · rintro rfl h
    exact if_pos (by simpa using h)
  · rintro rfl; rfl
  · rintro rfl; rfl
  · rintro rfl; rfl
  · rintro rfl; rfl
  · rintro rfl rfl; rfl
  · rintro rfl; rfl
  · rintro rfl; rfl
  · rintro rfl; rfl
  · rintro rfl; rfl
  · rintro rfl rfl; rfl

theorem logPage_refused :
    (r.lid = 7 → isPf0 c = false → logPage s c r = (.invalidLog, [], 0)) ∧
    (r.lid ∈ [0xC0, 0xC5] → r.lsi ≠ 0xFFFF → isPf0 c = false → r.lsi ≠ myNiche s c →
      logPage s c r = (.nicheBoundary, [], 0)) ∧
    (r.lid ∈ [0xBF, 0xC6] → r.nsid ≠ 0xFFFFFFFF → slotOf s (myNiche s c) r.nsid = none →
      logPage s c r = (.invalidNsOrFormat, [], 0)) ∧
    (r.lid ∉ [1, 2, 3, 4, 5, 7, 0x80, 0xBF, 0xC0, 0xC1, 0xC2, 0xC3, 0xC4, 0xC5, 0xC6] →
      logPage s c r = (.invalidLog, [], 0)) := by
  obtain ⟨lid, nsid, lsp, lsi, rae, len, lpo⟩ := r
  dsimp only
  refine ⟨?_, ?_, ?_, ?_⟩
  · rintro rfl h
    exact if_neg (by rw [h]; exact Bool.false_ne_true)
  · intro hl h1 h2 h3
    have hn : lsiNiche s c lsi = (.nicheBoundary, 0) := by
      unfold lsiNiche
      dsimp only
      rw [if_neg (by simpa using h1), h2, if_neg Bool.false_ne_true, if_neg (by simpa using h3)]
    simp only [List.mem_cons, List.not_mem_nil, or_false] at hl
    rcases hl with rfl | rfl
    · simp only [logPage, hn, beq_eq_false_iff_ne.mpr h1, Bool.false_eq_true, if_false]
    · simp only [logPage, hn]
  · intro hl h1 h2
    simp only [List.mem_cons, List.not_mem_nil, or_false] at hl
    rcases hl with rfl | rfl
    · simp only [logPage, h2]
    · simp only [logPage, h2, beq_eq_false_iff_ne.mpr h1, Bool.false_eq_true, if_false]
  · intro h
    simp only [List.mem_cons, List.not_mem_nil, or_false, not_or] at h
    unfold logPage
    dsimp only
    split
    any_goals omega
    rfl

theorem logPage_zones {i : Nat} (h : slotOf s (myNiche s c) r.nsid = some i) :
    (r.lid = 0xBF → zonedAt s i = true → logPage s c r = (.success, changedZoneLog s i, 0)) ∧
    (r.lid = 0xBF → zonedAt s i = false → logPage s c r = (.invalidField, [], 0)) := by
  obtain ⟨lid, nsid, lsp, lsi, rae, len, lpo⟩ := r
  dsimp only at h ⊢
  constructor
  · rintro rfl hz
    simp only [logPage, h, hz, if_true]
  · rintro rfl hz
    simp only [logPage, h, hz, Bool.false_eq_true, if_false]

end

theorem getFeatures_schedule (s : State) (c nsid w : Nat) :
    getFeature s c 0xC2 0 nsid w = (.success, s.hold.period + 65536 * s.hold.first, []) := rfl

/-- Settles O26: a report's status and data come from `identifyData` and `logPage`, read of the state that its data's
buffers leave. -/
theorem reportsReturn : Obligations.ReportsReturn := by
  unfold Obligations.ReportsReturn
  intro s c cid h hr f
  refine ⟨?_, ?_, ?_, ?_⟩
  · intro nsid w
    exact getFeatures_value h hr cid (getFeature_grace f c nsid w)
  · intro nsid w
    exact getFeatures_value h hr cid (getFeatures_schedule f c nsid w)
  · intro ident n nsid cntid csi
    have answer {cns nsid cntid csi : Nat} {st : Status} {d : List Fld}
        (hd : identifyData f c cns nsid cntid csi = (st, d)) : ident cns nsid cntid csi st d :=
      identify_answers cid cns nsid cntid csi h hd
    obtain ⟨h1, h2, h10, h7, h13⟩ := identifyData_lists f c nsid cntid csi
    refine ⟨answer h1, answer h2, answer h10, fun hc => answer (identifyData_set f c nsid cntid hc), answer h7, answer h13,
      ?_, ?_, ?_, ?_, ?_⟩
    · intro he hb
      obtain ⟨ha, hb'⟩ := identifyData_foreign f c nsid cntid csi he hb
      exact ⟨answer ha, fun h0 => ⟨answer (hb' h0).1, answer (hb' h0).2⟩⟩
    · intro hb
      exact answer (identifyData_own f c nsid cntid csi hb)
    · intro hs cns hc
      exact answer (identifyData_noNs f c nsid cntid csi hs cns hc)
    · intro i hi
      obtain ⟨ha, hb, hc, hd, he⟩ := identifyData_ns f c nsid cntid csi hi
      exact ⟨fun k => answer (ha k), fun k z => answer (hb k z), fun k => answer (hc k), answer hd, answer he⟩
    · intro cns hc
      exact answer (identifyData_other f c nsid cntid csi hc)
  · intro r g page refused n
    have hsame := sameImport_served s c r.len
    have hn : myNiche g c = n := hsame.myNiche c
    have shown {d : List Fld} (hf : (logPage f c r).1 = .success) (hd : logPage g c r = (.success, d, 0))
        (hl : r.lid ≠ 0xC6) : page d := fun hm => getLogPage_page cid r h g rfl hf hd hl hm
    have turned {st : Status} (hst : st ≠ .success) (hd : logPage f c r = (st, [], 0)) : refused st :=
      getLogPage_refused cid r h hst hd
    obtain ⟨f1, f2, f3, f4, f5, f80, fC0, fC1, fC2, fC3, fC4, fC5⟩ := logPage_plain f c (r := r)
    obtain ⟨g1, g2, g3, g4, g5, g80, gC0, gC1, gC2, gC3, gC4, gC5⟩ := logPage_plain g c (r := r)
    rw [hn] at g2 g80 gC0 gC1 gC5
    obtain ⟨r7, rB, rN, rX⟩ := logPage_refused f c (r := r)
    have first {d : List Fld} (e : logPage f c r = (.success, d, 0)) : (logPage f c r).1 = .success := by rw [e]
    refine ⟨?_, ?_, ?_, ?_, ?_, ?_, ?_, ?_, ?_, ?_, ?_, ?_, ?_, ?_, ?_, ?_, ?_⟩
    · exact fun e => shown (first (f1 e)) (g1 e) (by omega)
    · exact fun e k => shown (first (f2 e k)) (g2 e k) (by omega)
    · exact fun e => shown (first (f3 e)) (g3 e) (by omega)
    · exact fun e => shown (first (f4 e)) (g4 e) (by omega)
    · exact fun e => shown (first (f5 e)) (g5 e) (by omega)
    · exact fun e k => turned (by decide) (r7 e k)
    · exact fun e => shown (first (f80 e)) (g80 e) (by omega)
    · exact fun e k => shown (first (fC0 e k)) (gC0 e k) (by omega)
    · exact fun e => shown (first (fC1 e)) (gC1 e) (by omega)
    · exact fun e => shown (first (fC2 e)) (gC2 e) (by omega)
    · exact fun e => shown (first (fC3 e)) (gC3 e) (by omega)
    · exact fun e => shown (first (fC4 e)) (gC4 e) (by omega)
    · exact fun e k => shown (first (fC5 e k)) (gC5 e k) (by omega)
    · exact fun e k1 k2 k3 => turned (by decide) (rB e k1 k2 k3)
    · intro i hi
      obtain ⟨hf1, hf2⟩ := logPage_zones f c (r := r) hi
      have hi' : slotOf g (myNiche g c) r.nsid = some i := by
        rw [hn]
        unfold slotOf
        rw [hsame.ns, hsame.boot]
        exact hi
      obtain ⟨hg1, -⟩ := logPage_zones g c (r := r) hi'
      have hz : zonedAt g i = zonedAt f i := by
        unfold zonedAt getNs
        rw [hsame.ns]
        rfl
      exact ⟨fun e k => shown (first (hf1 e k)) (hg1 e (hz.trans k)) (by omega), fun e k => turned (by decide) (hf2 e k)⟩
    · exact fun e k1 k2 => turned (by decide) (rN e k1 k2)
    · exact fun e => turned (by decide) (rX e)

end Sys2Proof.Machine
end
section
/-! PROOFS. Commissions are opened, modified and closed. -/

namespace Sys2Proof.Machine

/-! ### Open (R192, R195 to R197, R203) -/

/-- What an Open's checks need of its descriptor and of the state its fetch leaves (R196), but for admission. -/
structure Opens (g : State) (c : Nat) (d : CommDesc) (i idx : Nat) : Prop where
  ranges : rangesOk d.rate d.burst d.prio d.zconc d.rdecl = true
  rsv : d.rsv = 0
  some_ : d.nsq ≠ 0
  most : d.nsq ≤ 16
  sqs : d.sqs.length = d.nsq
  slot : slotOf g (myNiche g c) d.nsid = some i
  zoned : zonedAt g i = true
  bound : ∀ x ∈ d.sqs, binds g (myNiche g c) x.2 = true ∧ portOf x.2 = portOf ((d.sqs.headD (0, 0)).2)
  bindable : ∀ k ∈ descKeys d, bindable g k = true
  distinct : (descKeys d).eraseDups = descKeys d
  index : freeIndex g (myNiche g c) = some idx
  room : (liveOf g (myNiche g c)).length < (nicheCfg g (myNiche g c)).maxComm
  entries : (g.comms.filter (fun kv => kv.2.used)).length < 256
  zconc : zconcOn g i none + d.zconc ≤ (getNs g i).attr.maxOpen
  admitted : admitCheck g (askCharge g (myNiche g c) (portOf ((d.sqs.headD (0, 0)).2)) i d.rate d.rdecl d.burst d.zconc)
    d.burst d.zconc none = none

theorem Opens.commOpen {g : State} {c i idx : Nat} {d : CommDesc} (h : Opens g c d i idx) (cid : Nat) (dry : Bool) :
    commOpen g c cid dry 0 d = if dry then adone g c cid .success 0xFFFF (resvOf g d.rate d.burst d.zconc / 1024)
      else adone (openComm g (myNiche g c) i (portOf ((d.sqs.headD (0, 0)).2)) d idx).1 c cid .success
        (openComm g (myNiche g c) i (portOf ((d.sqs.headD (0, 0)).2)) d idx).2 (resvOf g d.rate d.burst d.zconc / 1024) := by
  have h1 : (!(rangesOk d.rate d.burst d.prio d.zconc d.rdecl) || (0 : Nat) != 0 || d.rsv != 0 || d.nsq == 0 ||
      decide (16 < d.nsq) || d.sqs.length != d.nsq) = false := by
    rw [h.ranges, h.rsv, decide_eq_false (Nat.not_lt.mpr h.most), h.sqs]
    simpa using h.some_
  have h2 : d.sqs.any (fun x => !(binds g (myNiche g c) x.2)) = false := by
    rw [List.any_eq_false]
    intro x hx
    simp [(h.bound x hx).1]
  have h3 : (!((descKeys d).all (Machine.bindable g)) || (descKeys d).eraseDups.length != (descKeys d).length) = false := by
    rw [h.distinct, List.all_eq_true.mpr h.bindable]
    simp
  have h4 : d.sqs.any (fun x => portOf x.2 != portOf ((d.sqs.headD (0, 0)).2)) = false := by
    rw [List.any_eq_false]
    intro x hx
    simp [(h.bound x hx).2]
  unfold Machine.commOpen
  dsimp only
  rw [h1, if_neg Bool.false_ne_true, h.slot]
  dsimp only
  rw [h.zoned, if_neg (by decide), h2, if_neg Bool.false_ne_true, h3, if_neg Bool.false_ne_true, h.index]
  dsimp only
  rw [if_neg (Nat.not_le.mpr h.room), if_neg (Nat.not_le.mpr h.entries), if_neg (Nat.not_lt.mpr h.zconc), h4,
    if_neg Bool.false_ne_true, h.admitted]

/-- The SQs of a list bound to commission `h`. -/
def bindSqs (h : Nat) (l : List Nat) (s : State) : State := l.foldl (fun a k => setSq a k { getSq a k with comm := some h }) s

theorem bindSqs_only (h : Nat) (l : List Nat) (s : State) : ∃ v, bindSqs h l s = { s with sqs := v } := by
  induction l generalizing s with
  | nil => exact ⟨s.sqs, rfl⟩
  | cons x r ih =>
    obtain ⟨v, hv⟩ := ih (setSq s x { getSq s x with comm := some h })
    exact ⟨v, hv⟩

theorem bindSqs_other (h : Nat) (l : List Nat) (s : State) {k : Nat} (hk : k ∉ l) : getSq (bindSqs h l s) k = getSq s k := by
  induction l generalizing s with
  | nil => rfl
  | cons x r ih =>
    rw [List.mem_cons, not_or] at hk
    obtain ⟨hx, hr⟩ := hk
    exact (ih (setSq s x { getSq s x with comm := some h }) hr).trans (getSq_setSq_ne _ hx _)

theorem bindSqs_bound (h : Nat) (l : List Nat) (s : State) {k : Nat} (hk : k ∈ l) : (getSq (bindSqs h l s) k).comm = some h := by
  induction l generalizing s with
  | nil => cases hk
  | cons x r ih =>
    by_cases hr : k ∈ r
    · exact ih (setSq s x { getSq s x with comm := some h }) hr
    · obtain rfl : k = x := by
        rcases List.mem_cons.mp hk with e | e
        · exact e
        · exact absurd e hr
      have e : getSq (bindSqs h (k :: r) s) k = getSq (setSq s k { getSq s k with comm := some h }) k :=
        bindSqs_other h r _ hr
      rw [e, getSq_setSq_same]
      intro e2
      have := congrArg Sq.comm e2
      simp at this

/-- The entry of a commission opened from a descriptor. -/
structure OpenedAs (s : State) (d : CommDesc) (i : Nat) (e : Comm) : Prop where
  used : e.used = true
  live : e.st = .live
  rate : e.rate = d.rate
  burst : e.burst = d.burst
  resv : e.resv = resvOf s d.rate d.burst d.zconc
  tokens : e.tokens = d.burst * 4096
  slot : e.slot = i

/-- The handle an Open gives for index `idx` of niche `n` (R190). -/
def openHandle (s : State) (n idx : Nat) : Nat := tget 0 s.cms.hgen (n * 64 + idx) * 4096 + n * 64 + idx

/-- The commission manager's counts once index `idx` of niche `n` is open. -/
def openedCms (s : State) (n idx : Nat) : Cms :=
  (countChange { s with cms := { s.cms with
    opens := s.cms.opens + 1
    hgen := tset 0 s.cms.hgen (n * 64 + idx) ((tget 0 s.cms.hgen (n * 64 + idx) + 1) % 16) } } n).cms

theorem openComm_opens (s : State) (n i port : Nat) (d : CommDesc) (idx : Nat) : ∃ w e,
    openComm s n i port d idx = ({ s with
      cms := openedCms s n idx, comms := tset {} s.comms (openHandle s n idx) e, sqs := w }, openHandle s n idx) ∧
    OpenedAs s d i e ∧ ∀ k ∈ descKeys d, (tget {} w k).comm = some (openHandle s n idx) := by
  generalize he : ({ used := true, st := .live, nsid := d.nsid, slot := i, rate := d.rate, burst := d.burst
                     prio := d.prio, zconc := d.zconc, rdecl := d.rdecl, tag := d.tag, sqs := descKeys d
                     port := port, srate := d.rate, resv := resvOf s d.rate d.burst d.zconc
                     resvNew := resvOf s d.rate d.burst d.zconc, resvEff := resvOf s d.rate d.burst d.zconc
                     tokens := d.burst * 4096, openUs := s.opUs, fedtime := fedLogTime s, seq := s.cms.opens } : Comm) = e
  have ho : OpenedAs s d i e := by rw [← he]; exact ⟨rfl, rfl, rfl, rfl, rfl, rfl, rfl⟩
  generalize ha : setComm { s with cms := { s.cms with
    opens := s.cms.opens + 1
    hgen := tset 0 s.cms.hgen (n * 64 + idx) ((tget 0 s.cms.hgen (n * 64 + idx) + 1) % 16) } } (openHandle s n idx) e = a
  have hopen : openComm s n i port d idx =
      (countChange (bindSqs (openHandle s n idx) (descKeys d) a) n, openHandle s n idx) := by rw [← ha, ← he]; rfl
  obtain ⟨w, hw⟩ := bindSqs_only (openHandle s n idx) (descKeys d) a
  refine ⟨w, e, ?_, ho, fun k h => ?_⟩
  · rw [hopen, hw, ← ha]
    rfl
  · have hk := bindSqs_bound (openHandle s n idx) (descKeys d) a h
    rw [hw] at hk
    exact hk

theorem commissionOpen_served {s : State} {c : Nat} (cid : Nat) (dry : Bool) (d : CommDesc) (h : adminServed s c = true)
    (hr : s.boot.romRec = false) (hok : (nicheCfg s (myNiche s c)).commOk = true) (hb : openBarred s = false)
    (hm : ctlMet (adminFetch s c) c 128 = true) :
    exec (.commissionOpen c cid dry 0 d) s = .next (commOpen (ctlServed (adminFetch s c) c 128) c cid dry 0 d) := by
  have hok' : (nicheCfg (adminFetch s c) (myNiche (adminFetch s c) c)).commOk = true := hok
  have hb' : openBarred (adminFetch s c) = false := hb
  show execCommissionOpen c cid dry 0 d s = _
  unfold execCommissionOpen
  rw [adminRom_served s c cid _ h hr, hok', Bool.not_true, Bool.and_false, if_neg Bool.false_ne_true, hb', if_neg Bool.false_ne_true, ctlData_met hm]

theorem cms_served (s : State) (c len : Nat) : (ctlServed (adminFetch s c) c len).cms = s.cms := by
  rw [ctlServed_only]
  rfl

/-! ### Close and Modify (R198, R199) -/

theorem commissionClose_closes {s : State} {c hdl : Nat} (cid : Nat) (h : adminServed s c = true) (hr : s.boot.romRec = false)
    (hq : s.boot.maquette = false) (hok : (nicheCfg s (myNiche s c)).commOk = true) (hn : handleNiche hdl = myNiche s c)
    (hu : (getComm s hdl).used = true) :
    exec (.commissionClose c cid hdl) s = .next (adone (trigger (removeComm (adminFetch s c) hdl)) c cid .success) := by
  show execCommissionClose c cid hdl s = _
  unfold execCommissionClose
  rw [adminRom_served s c cid _ h hr]
  have hok' : (nicheCfg (adminFetch s c) (myNiche (adminFetch s c) c)).commOk = true := hok
  have hq' : (adminFetch s c).boot.maquette = false := hq
  have hn' : handleNiche hdl = myNiche (adminFetch s c) c := hn
  have hu' : (getComm (adminFetch s c) hdl).used = true := hu
  rw [hq', if_neg Bool.false_ne_true, hok', if_neg (by decide)]
  unfold commClose
  rw [hn', if_neg (by simp), hu', if_neg (by decide)]

theorem shrinkResv_kept (m : Comm) : (shrinkResv m).rate = m.rate ∧ (shrinkResv m).burst = m.burst ∧
    (shrinkResv m).prio = m.prio ∧ (shrinkResv m).zconc = m.zconc ∧ (shrinkResv m).tokens = m.tokens := by
  unfold shrinkResv
  split <;> exact ⟨rfl, rfl, rfl, rfl, rfl⟩

theorem modified_values (m : Comm) (rate rdecl burst prio zconc r : Nat) :
    let w := modified m rate rdecl burst prio zconc r
    w.rate = rate ∧ w.burst = burst ∧ w.prio = prio ∧ w.zconc = zconc ∧ w.tokens = min m.tokens (burst * 4096) :=
  shrinkResv_kept _

theorem commissionModify_modifies {s : State} {c hdl : Nat} (cid : Nat) {rate rdecl burst prio zconc : Nat}
    (h : adminServed s c = true) (hr : s.boot.romRec = false)
    (hq : s.boot.maquette = false) (hok : (nicheCfg s (myNiche s c)).commOk = true) (hn : handleNiche hdl = myNiche s c)
    (hl : commLive (getComm s hdl) = true) (hrg : rangesOk rate burst prio zconc rdecl = true)
    (hz : zconcOn s (getComm s hdl).slot (some hdl) + zconc ≤ (getNs s (getComm s hdl).slot).attr.maxOpen)
    (ha : admitCheck (adminFetch s c) (askCharge (adminFetch s c) (myNiche s c) (getComm s hdl).port (getComm s hdl).slot
      rate rdecl burst zconc) burst zconc (some (hdl, fullCharge (adminFetch s c) hdl)) = none) :
    exec (.commissionModify c cid hdl false 0 rate rdecl burst prio zconc) s = .next (adone (trigger
      (setComm (adminFetch s c) hdl (modified (getComm s hdl) rate rdecl burst prio zconc (resvOf s rate burst zconc))))
      c cid .success hdl (resvOf s rate burst zconc / 1024)) := by
  show execCommissionModify c cid hdl false 0 rate rdecl burst prio zconc s = _
  unfold execCommissionModify
  rw [adminRom_served s c cid _ h hr]
  have hok' : (nicheCfg (adminFetch s c) (myNiche (adminFetch s c) c)).commOk = true := hok
  have hq' : (adminFetch s c).boot.maquette = false := hq
  have hn' : handleNiche hdl = myNiche (adminFetch s c) c := hn
  have hl' : commLive (getComm (adminFetch s c) hdl) = true := hl
  have hz' : ¬ (getNs (adminFetch s c) (getComm (adminFetch s c) hdl).slot).attr.maxOpen <
      zconcOn (adminFetch s c) (getComm (adminFetch s c) hdl).slot (some hdl) + zconc := Nat.not_lt.mpr hz
  have ha' : admitCheck (adminFetch s c) (askCharge (adminFetch s c) (handleNiche hdl) (getComm (adminFetch s c) hdl).port
      (getComm (adminFetch s c) hdl).slot rate rdecl burst zconc) burst zconc (some (hdl, fullCharge (adminFetch s c) hdl)) =
      none := by rw [hn]; exact ha
  rw [hq', if_neg Bool.false_ne_true, hok', if_neg (by decide)]
  unfold commModify
  dsimp only
  rw [ha', if_neg (by rw [hn']; simp), hl', if_neg (by decide), hrg, if_neg (by decide), if_neg hz']
  rfl

/-- Settles O27, each action by its own equation: an Open's checks are gathered in `Opens`. -/
theorem commissionsManaged : Obligations.CommissionsManaged := by
  unfold Obligations.CommissionsManaged
  intro s c cid h hr hq hok f n
  refine ⟨?_, ?_, ?_⟩
  · intro d i idx hb hm g h1 h2 h3 h4 h5 h6 h7 h8 h9 h10 h11 h12 h13 h14 h15 hdl r
    have hsame := sameImport_served s c 128
    have hcms : g.cms = s.cms := cms_served s c 128
    have hgd : guarded g = guarded s := (ctlServed_guarded _ _ _).trans rfl
    have hd := commissionOpen_served cid true d h hr hok hb hm
    have ho := commissionOpen_served cid false d h hr hok hb hm
    change exec (.commissionOpen c cid true 0 d) s = .next (commOpen g c cid true 0 d) at hd
    change exec (.commissionOpen c cid false 0 d) s = .next (commOpen g c cid false 0 d) at ho
    change SameImport s g at hsame
    have hn : myNiche g c = n := hsame.myNiche c
    have hopens : Opens g c d i idx := by
      have hslot : slotOf g (myNiche g c) d.nsid = some i := by
        rw [hn]; unfold slotOf; rw [hsame.ns, hsame.boot]; exact h6
      have hzoned : zonedAt g i = true := by
        unfold zonedAt getNs; rw [hsame.ns]; exact h7
      have hbound (x : Nat × Nat) : binds g (myNiche g c) x.2 = binds s n x.2 := by
        rw [hn]; unfold binds nicheCfg; rw [hsame.arm, hsame.boot]
      have hroom : (nicheCfg g (myNiche g c)).maxComm = (nicheCfg s n).maxComm := by
        rw [hn, hsame.nicheCfg]
      have hopen : (getNs g i).attr.maxOpen = (getNs s i).attr.maxOpen := by
        unfold getNs; rw [hsame.ns]
      exact ⟨h1, h2, h3, h4, h5, hslot, hzoned, fun x hx => ⟨(hbound x).trans (h8 x hx).1, (h8 x hx).2⟩, h9, h10,
        by rw [hn]; exact h11, by rw [hroom, hn]; exact h12, h13, by rw [hopen]; exact h14, by rw [hn]; exact h15⟩
    have hresv : resvOf g d.rate d.burst d.zconc = r := by
      unfold resvOf; rw [hsame.arm]
    rw [hopens.commOpen, if_pos rfl, hresv] at hd
    rw [hopens.commOpen, if_neg Bool.false_ne_true, hresv] at ho
    refine ⟨hd, ?_⟩
    obtain ⟨w, e, heq, hop, hk⟩ := openComm_opens g (myNiche g c) i (portOf ((d.sqs.headD (0, 0)).2)) d idx
    have hh : openHandle g (myNiche g c) idx = hdl := by
      unfold openHandle; rw [hn, hcms]
    rw [hh] at heq hk
    rw [heq] at ho
    have hne : e ≠ {} := fun e0 => by
      have := hop.used
      rw [e0] at this
      cases this
    refine ⟨_, ho, cqeWaits_schedule .., ?_⟩
    have hget : getComm (adone { g with cms := openedCms g (myNiche g c) idx, comms := tset {} g.comms hdl e, sqs := w }
        c cid .success hdl (r / 1024)) hdl = e := tget_tset_same _ _ _ _ hne
    rw [hget]
    exact ⟨hop.used, hop.live, hop.rate, hop.burst, hop.resv.trans hresv, hop.tokens, hop.slot, hk, hsame.zones, hsame.sectors,
      hgd⟩
  · intro hdl hn hu
    have he := commissionClose_closes cid h hr hq hok hn hu
    rw [trigger_only] at he
    exact ⟨_, he, cqeWaits_adone .., rfl, rfl, rfl⟩
  · intro hdl rate rdecl burst prio zconc hn hl hrg hz ha
    have he := commissionModify_modifies cid h hr hq hok hn hl hrg hz ha
    obtain ⟨v1, v2, v3, v4, v5⟩ := modified_values (getComm s hdl) rate rdecl burst prio zconc (resvOf s rate burst zconc)
    generalize modified (getComm s hdl) rate rdecl burst prio zconc (resvOf s rate burst zconc) = m at *
    have hne : m ≠ {} := by
      intro e0
      have hr0 : rate = 0 := by rw [← v1, e0]
      rw [hr0] at hrg
      simp [rangesOk] at hrg
    rw [trigger_only] at he
    refine ⟨_, he, cqeWaits_schedule .., ?_⟩
    have hget : getComm (setComm (adminFetch s c) hdl m) hdl = m := tget_tset_same _ _ _ _ hne
    refine ⟨?_, ?_, ?_, ?_, ?_, rfl, rfl⟩
    · exact (congrArg Comm.rate hget).trans v1
    · exact (congrArg Comm.burst hget).trans v2
    · exact (congrArg Comm.prio hget).trans v3
    · exact (congrArg Comm.zconc hget).trans v4
    · exact (congrArg Comm.tokens hget).trans v5

end Sys2Proof.Machine
end
section
/-! SUPPORT. What emptying a namespace leaves alone: commands, keys, the boot state; no sector is mapped by it. -/

namespace Sys2Proof.Machine

/-- From `s` to `t` content goes and comes not: commands, keys, boot state stand, no LBA is mapped, and no live namespace
ends. -/
structure Wipes (s t : State) : Prop where
  cmds : t.cmds = s.cmds
  guards : guarded t = guarded s
  boot : t.boot = s.boot
  board : t.board = s.board
  sectors : ∀ k, tget ({} : Sector) s.sectors k = {} → tget ({} : Sector) t.sectors k = {}
  live : ∀ j, (getNs s j).live = true → (getNs t j).live = true
  nsWf : twf {} s.ns = true → twf {} t.ns = true
  niches : NichesWf s t

namespace Wipes

theorem refl (s : State) : Wipes s s := ⟨rfl, rfl, rfl, rfl, fun _ h => h, fun _ h => h, id, id⟩

theorem trans {s t u : State} (h : Wipes s t) (k : Wipes t u) : Wipes s u :=
  ⟨k.cmds.trans h.cmds, k.guards.trans h.guards, k.boot.trans h.boot, k.board.trans h.board, fun j hj => k.sectors j (h.sectors j hj),
    fun j hj => k.live j (h.live j hj), k.nsWf ∘ h.nsWf, k.niches ∘ h.niches⟩

theorem foldl {β : Type} (f : State → β → State) (l : List β) (s : State) (h : ∀ a x, Wipes a (f a x)) : Wipes s (l.foldl f s) :=
  List.foldlRecOn l f (refl s) fun a ha x _ => ha.trans (h a x)

theorem ite {s a b : State} {p : Prop} [Decidable p] (ha : Wipes s a) (hb : Wipes s b) : Wipes s (if p then a else b) := by
  split <;> assumption

theorem of_noted {s t : State} (h : Noted s t) (hn : NichesWf s t) : Wipes s t :=
  ⟨h.cmds, h.guarded, h.boot, h.board, fun _ hk => by rw [h.sectors]; exact hk,
    fun j hj => by unfold getNs at hj ⊢; rw [h.ns]; exact hj, fun w => by rw [h.ns]; exact w, hn⟩

theorem of_mediaStep {s t : State} (h : MediaStep s t) (hn : NichesWf s t) : Wipes s t := by
  obtain ⟨_, _, _, _, _, _, _, rfl⟩ := h
  exact ⟨rfl, rfl, rfl, rfl, fun _ h => h, fun _ h => h, id, hn⟩

end Wipes

theorem wipes_setZone (s : State) (k : Nat) (v : Zone) : Wipes s (setZone s k v) :=
  ⟨rfl, rfl, rfl, rfl, fun _ h => h, fun _ h => h, id, id⟩

theorem wipes_setNch (s : State) (n : Nat) (v : Nch) : Wipes s (setNch s n v) :=
  .of_noted (noted_setNch s n v) (twf_tset _ _ _ _)

/-- A namespace that stays live takes other values. -/
theorem wipes_setNs (s : State) (i : Nat) (v : Ns) (h : (getNs s i).live = true → v.live = true) : Wipes s (setNs s i v) := by
  refine ⟨rfl, rfl, rfl, rfl, fun _ h => h, fun j hj => ?_, twf_tset _ _ _ _, id⟩
  by_cases e : j = i
  · subst e
    have hv := h hj
    have hne : v ≠ {} := fun e => by rw [e] at hv; cases hv
    rw [getNs, setNs, tget_tset_same _ _ _ _ hne]
    exact hv
  · rw [getNs, setNs, tget_tset_ne _ _ _ _ _ e]
    exact hj

/-! ### Events and records -/

theorem wipes_raiseAll (s : State) (cs : List Nat) (e : Ev) : Wipes s (raiseAll s cs e) := by
  refine .of_noted (noted_raiseAll s cs e) ?_
  obtain ⟨a, b, h⟩ := raiseAll_only s cs e
  exact .same (by rw [h])

theorem wipes_nchSet (s : State) (n b : Nat) : Wipes s (nchSet s n b) := .of_noted (noted_nchSet s n b) (twf_tset _ _ _ _)

theorem patNew_niches (s : State) (v : Nat) : (patNew s v).niches = s.niches := by
  unfold patNew
  split
  · obtain ⟨a, b, h⟩ := raiseAll_only s [0, 64] (vendor 9 0xC0)
    rw [h]
    rfl
  · rfl

theorem patina_niches (s : State) (r : PatReq) : (patina s r).niches = s.niches := by
  have hw (p : PatRec) : (patWrite s p).niches = s.niches := by
    unfold patWrite
    dsimp only
    split
    · rw [patNew_niches]
    · split
      · rw [patNew_niches]
      · rfl
  unfold patina patStore
  split
  · split
    · rfl
    · exact hw _
  · exact hw _

theorem wipes_commEvent (s : State) (h code : Nat) : Wipes s (commEvent s h code) := by
  unfold commEvent
  dsimp only
  split
  · exact .refl s
  · generalize hs2 : ({ countChange _ _ with cms := _ } : State) = s2
    have h2 : Wipes s s2 := by rw [← hs2]; exact .of_noted ⟨rfl, fun _ h => h⟩ id
    refine h2.trans (.trans (.ite (.refl _) ?_) (wipes_raiseAll _ _ _))
    exact (Wipes.of_noted (noted_glbSet s2 6) id).trans (wipes_nchSet _ _ _)

theorem wipes_closeByDevice (s : State) (why h : Nat) : Wipes s (closeByDevice s why h) := by
  unfold closeByDevice
  dsimp only
  split
  · exact .refl s
  · generalize hs1 : setComm _ h _ = s1
    have h1 : Wipes s s1 := by rw [← hs1]; exact .of_noted ⟨rfl, fun _ h => h⟩ id
    exact h1.trans (wipes_commEvent _ _ _)

/-! ### Zones finished by the controller (R167, R171) -/

theorem wipes_zoneChanged (s : State) (i z : Nat) : Wipes s (zoneChanged s i z) := by
  unfold zoneChanged
  dsimp only
  have h (v : Ns) (e : v.live = (getNs s i).live) : Wipes s (if (getNs s i).changed.contains z then s else setNs s i v) :=
    .ite (.refl s) (wipes_setNs s i v fun hl => e.trans hl)
  exact (h { getNs s i with changed := (getNs s i).changed ++ [z] } rfl).trans (wipes_raiseAll _ _ _)

theorem wipes_completeStripe (s : State) (sid : Nat) (padded : Bool) : Wipes s (completeStripe s sid padded) := by
  have h (x : Stripe) : Wipes s (setStripe s sid x) := ⟨rfl, rfl, rfl, rfl, fun _ h => h, fun _ h => h, id, id⟩
  unfold completeStripe
  dsimp only
  split
  · exact .ite (.of_mediaStep ⟨_, _, _, _, _, _, _, rfl⟩ id) (h _)
  · exact h _

theorem wipes_finishByController (s : State) (i z : Nat) : Wipes s (finishByController s i z) := by
  have hp : Wipes s (terminalPad s i z) := by
    unfold terminalPad
    split
    · exact (wipes_completeStripe s _ true).trans (wipes_setZone _ _ _)
    · exact .refl s
  unfold finishByController
  dsimp only
  exact (hp.trans (wipes_setZone _ _ _)).trans (wipes_zoneChanged _ _ _)

theorem wipes_finishWhenFree (s : State) (i z : Nat) : Wipes s (finishWhenFree s i z) :=
  .ite (wipes_setZone _ _ _) (wipes_finishByController s i z)

/-! ### The lost-sector table (R270, R279) -/

theorem wipes_readOnlyNiche (s : State) (n why : Nat) : Wipes s (readOnlyNiche s n why) := by
  unfold readOnlyNiche
  split
  · exact .refl s
  · dsimp only
    generalize hs1 : List.foldl _ s (slotsOf s n) = s1
    have h1 : Wipes s s1 := by
      rw [← hs1]
      exact .foldl _ _ _ fun a i => .foldl _ _ _ fun b z => wipes_finishWhenFree b i z
    generalize hs2 : List.foldl (fun a h => closeByDevice a 2 h) s1 (liveOf s1 n) = s2
    have h2 : Wipes s1 s2 := by
      rw [← hs2]
      exact .foldl _ _ _ fun a h => wipes_closeByDevice a 2 h
    generalize hs3 : nchSet (setNch s2 n { getNch s2 n with readOnly := true }) n 0 = s3
    have h3 : Wipes s2 s3 := by
      rw [← hs3]
      exact (wipes_setNch s2 n _).trans (wipes_nchSet _ _ _)
    have h4 : Wipes s3 (mediaEvent s3 n) := (wipes_raiseAll s3 _ _).trans (wipes_nchSet _ _ _)
    have h5 (a : State) : Wipes a (smartEvent a n 3 0) := wipes_raiseAll a _ _
    have h6 (a : State) : Wipes a (nicheRec a n 0x54 7 why) := .of_noted (noted_nicheRec _ _ _ _ _ _ _) (.same (patina_niches _ _))
    exact (h1.trans (h2.trans h3)).trans ((h4.trans (h5 _)).trans (h6 _))

theorem wipes_lostCut (s : State) (i lo hi : Nat) : Wipes s (lostCut s i lo hi) := by
  unfold lostCut putLost
  dsimp only
  split
  · exact (wipes_setNch s _ _).trans (wipes_readOnlyNiche _ _ _)
  · exact wipes_setNch s _ _

/-! ### Rows, zones and namespaces emptied (R149, R153, R187) -/

theorem unbindRow_niches (st : RowSt) (s : State) (kr : Nat × Nat) : NichesWf s (unbindRow st s kr) := by
  unfold unbindRow
  dsimp only
  generalize hs : List.foldl discardStripe s _ = s1
  have h1 : s1.niches = s.niches := by rw [← hs, foldl_discardStripe_eq]
  generalize hm : mapRank _ kr.1 _ = s2
  have h2 : s2.niches = s1.niches := by rw [← hm]; rfl
  generalize (if (st == RowSt.pending && !(stripesOfRow s1 kr.1 kr.2).isEmpty) = true then RowSt.leaving else st) = st1 at hm ⊢
  generalize hr : (if (st1 == RowSt.erased) = true then setRow s2 _ _ else s2) = s3
  have h3 : s3.niches = s2.niches := by rw [← hr]; split <;> rfl
  have h4 : NichesWf s (freeOwned s3 (copyOwner (rk kr.1 kr.2))) := fun w =>
    nichesWf_freeOwned s3 _ (by rw [h3, h2, h1]; exact w)
  split
  · exact h4
  · exact h4

theorem wipes_unbindRows (s : State) (st : RowSt) (l : List (Nat × Nat)) : Wipes s (unbindRows s st l) :=
  .foldl _ _ _ fun a x => .of_mediaStep (mediaStep_unbindRow st a x) (unbindRow_niches st a x)

/-- Sectors leave the map by their keys. -/
theorem wipes_dropSectors (s : State) (p : Nat → Bool) (fine : List (Nat × Fine)) (fineQ : List Nat) (plinth : Plinth) :
    Wipes s { s with sectors := tdrop s.sectors (fun k _ => p k), fine := fine, fineQ := fineQ, plinth := plinth } := by
  refine ⟨rfl, rfl, rfl, rfl, fun k hk => ?_, fun _ h => h, id, id⟩
  show tget {} (tdrop s.sectors (fun k _ => p k)) k = {}
  rw [tget_tdrop_key, hk]
  split <;> rfl

theorem wipes_resetZone (s : State) (i z : Nat) : Wipes s (resetZone s i z) := by
  unfold resetZone
  dsimp only
  exact (((wipes_unbindRows s _ _).trans (wipes_lostCut _ _ _ _)).trans (wipes_dropSectors _ _ _ _ _)).trans (wipes_setZone _ _ _)

theorem wipes_emptyZone (i : Nat) (s : State) (z : Nat) : Wipes s (emptyZone i s z) :=
  (wipes_resetZone s i z).trans (wipes_setZone _ _ _)

/-- No sector of slot `i` is mapped. -/
def Unmapped (s : State) (i : Nat) : Prop := ∀ l, l < 281474976710656 → tget ({} : Sector) s.sectors (lk i l) = {}

theorem Unmapped.wipes {s t : State} {i : Nat} (h : Unmapped s i) (k : Wipes s t) : Unmapped t i := fun l hl => k.sectors _ (h l hl)

/-- A namespace's content gone, once the commands started on it have ended. -/
theorem wipeSlot_wipes (s : State) (i : Nat) : Wipes (finishStarted s i) (wipeSlot s i) ∧ Unmapped (wipeSlot s i) i := by
  unfold wipeSlot
  dsimp only
  generalize finishStarted s i = s0
  generalize hs1 : List.foldl (emptyZone i) _ _ = s1
  have h1 : Wipes s0 s1 := by
    rw [← hs1]
    exact (wipes_setNs s0 i { getNs s0 i with gen := wrapAdd 32 (getNs s0 i).gen 1 } id).trans
      (.foldl _ _ _ fun a z => wipes_emptyZone i a z)
  generalize hs2 : (if (getNs s1 i).attr.zoned = true then s1 else _) = s2
  have h2 : Wipes s1 s2 := by
    rw [← hs2]
    refine .ite (.refl s1) (.trans ?_ (wipes_unbindRows _ _ _))
    exact wipes_setNs s1 i { getNs s1 i with hostRow := none, nextRow := none, gcRow := none, fill := none, gcFill := none } id
  generalize hs3 : ({ s2 with
    sectors := tdrop s2.sectors (fun k _ => k / 281474976710656 == i), fine := tdrop s2.fine (fun k _ => k / 281474976710656 == i)
    fineQ := s2.fineQ.filter (fun k => !(k / 281474976710656 == i))
    plinth := { s2.plinth with media := tdrop s2.plinth.media (fun k _ => k / 281474976710656 == i) } } : State) = s3
  have h3 : Wipes s2 s3 := by rw [← hs3]; exact wipes_dropSectors s2 (fun k => k / 281474976710656 == i) _ _ _
  have h4 : Unmapped s3 i := by
    intro l hl
    rw [← hs3]
    show tget {} (tdrop s2.sectors (fun k _ => k / 281474976710656 == i)) (lk i l) = {}
    rw [tget_tdrop_key, if_pos]
    have : lk i l / 281474976710656 = i := by unfold lk; omega
    simp [this]
  have h5 := wipes_lostCut s3 i 0 (2 ^ 48)
  exact ⟨((h1.trans h2).trans h3).trans h5, h4.wipes h5⟩

/-- Where no command is started on a slot there is none to end first. -/
theorem finishStarted_idle {s : State} {i : Nat} (h : nsBusy s i = false) : finishStarted s i = s := by
  have hn : tkeys s.cmds (fun _ c => c.slot == i && c.phase == .started) = [] := by
    unfold tkeys
    rw [List.filter_eq_nil_iff.mpr]
    · rfl
    · intro kv hkv
      exact List.any_eq_false.mp h kv hkv
  unfold finishStarted
  rw [hn]
  rfl

theorem nsBusy_of_cmds {s t : State} (h : t.cmds = s.cmds) (i : Nat) : nsBusy t i = nsBusy s i := by
  unfold nsBusy
  rw [h]

end Sys2Proof.Machine
end
section
/-! PROOFS. Namespaces are created, attached, formatted and deleted. -/

namespace Sys2Proof.Machine

/-! ### Keys drawn and destroyed (R310, R312) -/

theorem drawPair_only (f : Nat) (s : State) : ∃ g, (drawPair f s).2 = { s with cipher := { s.cipher with rng := g } } := by
  induction f generalizing s with
  | zero => exact randomBlocks_only s 4
  | succ n ih =>
    obtain ⟨g, hg⟩ := randomBlocks_only s 4
    unfold drawPair
    dsimp only
    generalize randomBlocks s 4 = r at hg ⊢
    split
    · obtain ⟨g', hg'⟩ := ih r.2
      exact ⟨g', by rw [hg', hg]⟩
    · exact ⟨g, hg⟩

theorem drawKey_only (s : State) (b : Bool) : ∃ g, (drawKey s b).2 = { s with cipher := { s.cipher with rng := g } } := by
  unfold drawKey
  split
  · exact randomBlocks_only s 2
  · exact drawPair_only 64 s

theorem reseed_only (s : State) : ∃ g, reseed s = { s with cipher := { s.cipher with
    rng := g, rawNo := s.cipher.rawNo + 3, reseedUs := s.nowUs, reseeds := satAdd 16 s.cipher.reseeds 1 } } := ⟨_, rfl⟩

theorem shareKey_st (s : State) (st : Nat) (b : Bool) (ser v : Nat) : (shareKey s st b ser v).1.st = st := by
  unfold shareKey
  rfl

/-- A slot that a key is drawn for holds a generated one; the other slots stand. -/
theorem generateKey_draws (s : State) (ik : Nat × Bool) (h : ik.1 < 128) : ∃ t k, generateKey s ik = t ∧
    t = { s with cipher := t.cipher } ∧ t.cipher.keys = tset {} s.cipher.keys ik.1 k ∧ k.st = 1 := by
  delta generateKey
  dsimp only
  rw [if_neg (Nat.not_le.mpr h)]
  obtain ⟨g1, h1⟩ := reseed_only s
  obtain ⟨g2, h2⟩ := drawKey_only (reseed s) ik.2
  rw [h1] at h2 ⊢
  generalize hs1 : ({ s with cipher := { s.cipher with
    rng := g1, rawNo := s.cipher.rawNo + 3, reseedUs := s.nowUs, reseeds := satAdd 16 s.cipher.reseeds 1 } } : State) = s1 at h2 ⊢
  generalize drawKey s1 ik.2 = d at h2 ⊢
  have h3 := shareKey_st d.2 1 ik.2 d.2.cipher.nextSer d.1
  obtain ⟨g3, h4⟩ := shareKey_only d.2 1 ik.2 d.2.cipher.nextSer d.1
  generalize shareKey d.2 1 ik.2 d.2.cipher.nextSer d.1 = r at h3 h4 ⊢
  refine ⟨_, r.1, rfl, ?_, ?_, h3⟩
  · rw [h4, h2, ← hs1]
    rfl
  · rw [h4, h2, ← hs1]
    rfl

theorem generateKeys_draw (l : List (Nat × Bool)) (s : State) : ∃ t, l.foldl generateKey s = t ∧ t = { s with cipher := t.cipher } ∧
    (∀ k ∈ l, k.1 < 128 → (getKey t k.1).st = 1) ∧ ∀ j, (getKey s j).st = 1 → (getKey t j).st = 1 := by
  induction l generalizing s with
  | nil => exact ⟨s, rfl, rfl, fun _ h => absurd h List.not_mem_nil, fun _ h => h⟩
  | cons x r ih =>
    obtain ⟨t, ht, hc, hk, hj⟩ := ih (generateKey s x)
    rw [List.foldl_cons]
    by_cases hx : x.1 < 128
    · obtain ⟨u, k, hu, huc, huk, hst⟩ := generateKey_draws s x hx
      rw [hu] at ht hc hj ⊢
      have hne : k ≠ {} := fun e => by rw [e] at hst; cases hst
      have h1 : (getKey u x.1).st = 1 := by rw [getKey, huk, tget_tset_same _ _ _ _ hne]; exact hst
      refine ⟨t, ht, ?_, ?_, ?_⟩
      · rw [hc, huc]
      · intro y hy h128
        rcases List.mem_cons.mp hy with rfl | hy
        · exact hj _ h1
        · exact hk y hy h128
      · intro j h
        by_cases e : j = x.1
        · exact hj _ (e ▸ h1)
        · refine hj j ?_
          rw [getKey, huk, tget_tset_ne _ _ _ _ _ e]
          exact h
    · have hu : generateKey s x = s := by
        delta generateKey
        exact if_pos (Nat.not_lt.mp hx)
      rw [hu] at ht hc hj ⊢
      refine ⟨t, ht, hc, fun y hy h128 => ?_, hj⟩
      rcases List.mem_cons.mp hy with rfl | hy
      · exact absurd h128 hx
      · exact hk y hy h128

theorem generateAll_draws {s : State} {l : List (Nat × Bool)} (h : l = [] ∨ canGenerate s = true) : ∃ t, generateAll s l = (t, true) ∧
    t = { s with cipher := t.cipher } ∧ ∀ k ∈ l, k.1 < 128 → (getKey t k.1).st = 1 := by
  cases l with
  | nil => exact ⟨s, rfl, rfl, fun _ h => absurd h List.not_mem_nil⟩
  | cons x r =>
    have hg : canGenerate s = true := h.resolve_left (List.cons_ne_nil x r)
    obtain ⟨t, ht, hc, hk, -⟩ := generateKeys_draw (x :: r) s
    obtain ⟨a, b, o, hs⟩ := saveKeys_only t false
    refine ⟨saveKeys t false, ?_, ?_, ?_⟩
    · delta generateAll
      rw [if_neg (show ¬ (x :: r).isEmpty = true from Bool.false_ne_true), if_pos hg, ht]
    · rw [hs, hc]
    · rw [hs]; exact hk

/-- What a destruction of keys leaves of the cipher: the source and the DRBG as they ran. -/
structure Destroys (s t : State) : Prop where
  only : t = { s with cipher := t.cipher }
  drbg : t.cipher.drbg = s.cipher.drbg
  seedSrc : t.cipher.seedSrc = s.cipher.seedSrc
  trng : t.cipher.trng = s.cipher.trng

theorem Destroys.trans {s t u : State} (h : Destroys s t) (k : Destroys t u) : Destroys s u :=
  ⟨by rw [k.only, h.only], k.drbg.trans h.drbg, k.seedSrc.trans h.seedSrc, k.trng.trans h.trng⟩

theorem destroyKey_destroys (s : State) (i : Nat) : Destroys s (destroyKey s i) := by
  obtain ⟨g, hg⟩ := randomBlocks_only s 60
  delta destroyKey
  dsimp only
  split
  · exact ⟨rfl, rfl, rfl, rfl⟩
  · rw [hg]
    split <;> exact ⟨rfl, rfl, rfl, rfl⟩

theorem destroyKeys_destroy (l : List Nat) (s : State) : Destroys s (l.foldl destroyKey s) :=
  List.foldlRecOn l destroyKey ⟨rfl, rfl, rfl, rfl⟩ fun _ ha x _ => ha.trans (destroyKey_destroys _ x)

theorem saveKeys_destroys (s : State) (d : Bool) : Destroys s (saveKeys s d) := by
  obtain ⟨a, b, o, hs⟩ := saveKeys_only s d
  rw [hs]
  exact ⟨rfl, rfl, rfl, rfl⟩

theorem destroyAll_destroys (s : State) (l : List Nat) : Destroys s (destroyAll s l) := by
  unfold destroyAll
  split
  · exact ⟨rfl, rfl, rfl, rfl⟩
  · exact (destroyKeys_destroy l s).trans (saveKeys_destroys _ _)

theorem Destroys.canGenerate {s t : State} (h : Destroys s t) : canGenerate t = canGenerate s := by
  have hb : t.board = s.board := by rw [h.only]
  unfold Machine.canGenerate
  rw [h.drbg, h.seedSrc, h.trng, hb]

theorem regenerate_only {s : State} (l : List (Nat × Bool)) (h : canGenerate s = true) : ∃ t, regenerate s l = (t, true) ∧
    t = { s with cipher := t.cipher } := by
  have hd := destroyKeys_destroy (l.map (·.1)) s
  delta regenerate
  dsimp only
  generalize (l.map (·.1)).foldl destroyKey s = s1 at hd ⊢
  split
  · exact ⟨s, rfl, rfl⟩
  · obtain ⟨t, ht, hc, -, -⟩ := generateKeys_draw l s1
    obtain ⟨a, b, o, hs⟩ := saveKeys_only t true
    rw [hd.canGenerate, h, if_pos rfl, ht]
    exact ⟨_, rfl, by rw [hs, hc, hd.only]⟩

/-! ### Create (R150) -/

theorem afterSan_none {s : State} {c : Nat} (h : sanStatus s c = none) (cid : Nat) (body : State → State) :
    afterSan c cid body s = body s := by
  unfold afterSan
  rw [h]

theorem createNs_creates {g : State} {c csi flbas i fmt : Nat} (cid : Nat) (hc : csi = 0 ∨ csi = 2)
    (hf : createFmt g (slotCfg g i) (flbas % 16) = some fmt)
    (hi : ((freeSlots g (myNiche g c) csi).filter (fun j => (createFmt g (slotCfg g j) (flbas % 16)).isSome)).head? = some i)
    {r : State} (hr : generateAll g (keySlots (slotCfg g i)) = (r, true)) :
    createNs g c cid csi flbas 0 0 0 =
      adone (journal (newNs r i fmt 0 (bitOf flbas 4) [])) c cid .success (slotCfg g i).nsid := by
  obtain ⟨l, hl⟩ := List.head?_eq_some_iff.mp hi
  have hmem : i ∈ freeSlots g (myNiche g c) csi := List.mem_of_mem_filter (hl ▸ List.mem_cons_self)
  have hfree : (freeSlots g (myNiche g c) csi).isEmpty = false :=
    List.isEmpty_eq_false_iff.mpr (List.ne_nil_of_mem hmem)
  have hcsi : (csi != 0 && csi != 2) = false := by rcases hc with rfl | rfl <;> rfl
  have hall (x : List Nat) : x.filter (fun i => ((0 : Nat) == 0 && (0 : Nat) == 0) ||
      ((0 : Nat) == nsLbas (slotCfg g i) && (0 : Nat) == nsLbas (slotCfg g i))) = x :=
    List.filter_eq_self.mpr fun _ _ => rfl
  have hdps : (((i :: l).isEmpty || (flbas % 16 != 1 && (0 : Nat) % 8 != 0)) || decide (3 < (0 : Nat))) = false := by
    simp
  delta createNs
  dsimp only
  rw [hcsi, if_neg Bool.false_ne_true, hfree, if_neg Bool.false_ne_true, hl, hdps, if_neg Bool.false_ne_true, hall]
  dsimp only
  rw [hr, if_neg (by simp), hf]
  rfl

theorem plinth_served (s : State) (c len : Nat) : (ctlServed (adminFetch s c) c len).plinth = s.plinth := by
  rw [ctlServed_only]
  rfl

theorem create_creates {s : State} {c csi flbas i fmt : Nat} (cid : Nat) (h : adminServed s c = true)
    (hq : s.boot.maquette = false) (hs : sanStatus s c = none) (hc : csi = 0 ∨ csi = 2)
    (hf : createFmt s (slotCfg s i) (flbas % 16) = some fmt)
    (hi : ((freeSlots s (myNiche s c) csi).filter (fun j => (createFmt s (slotCfg s j) (flbas % 16)).isSome)).head? = some i)
    (hk : keySlots (slotCfg s i) = [] ∨ canGenerate s = true)
    (hr : sourceRestarts s (freeSlots s (myNiche s c) csi) = false) (hm : ctlMet (adminFetch s c) c 4096 = true) :
    ∃ t, exec (.namespaceManagementCreate c cid csi flbas 0 0 0) s = .next t ∧ CqeWaits t c 0 cid .success ∧
      (getNs t i).live = true ∧ (getNs t i).attr = slotCfg s i ∧ (getNs t i).fmt = fmt ∧
      (getNs t i).attached = [] ∧ (∀ k ∈ keySlots (slotCfg s i), k.1 < 128 → (getKey t k.1).st = 1) ∧
      t.plinth.jrnl = s.plinth.jrnl + 1 ∧ t.sectors = s.sectors ∧ t.cmds = s.cmds := by
  have hs' : sanStatus (adminFetch s c) c = none := hs
  have he : exec (.namespaceManagementCreate c cid csi flbas 0 0 0) s =
      .next (createNs (ctlServed (adminFetch s c) c 4096) c cid csi flbas 0 0 0) := by
    show execNamespaceManagementCreate c cid csi flbas 0 0 0 s = _
    unfold execNamespaceManagementCreate
    rw [hr, if_neg Bool.false_ne_true, adminFull_served s c cid _ h hq, afterSan_none hs', ctlData_met hm]
  have hg := sameImport_served s c 4096
  have hp := plinth_served s c 4096
  generalize ctlServed (adminFetch s c) c 4096 = g at he hg hp
  have hslot (j : Nat) : slotCfg g j = slotCfg s j := by unfold slotCfg; rw [hg.arm]
  have hfmt (a : SlotCfg) (x : Nat) : createFmt g a x = createFmt s a x := by unfold createFmt fmtOk; rw [hp]
  have hfree : freeSlots g (myNiche g c) csi = freeSlots s (myNiche s c) csi := by
    rw [hg.myNiche]
    unfold freeSlots slotCfg getNs
    rw [hg.arm, hg.ns]
  have hcan : canGenerate g = canGenerate s := by
    unfold canGenerate
    rw [hg.cipher, hg.board]
  obtain ⟨r, hgen, honly, hkeys⟩ := generateAll_draws (s := g) (l := keySlots (slotCfg g i)) (by rw [hslot, hcan]; exact hk)
  rw [createNs_creates (g := g) cid hc (by rw [hfmt, hslot]; exact hf)
    (by rw [hfree]; simpa only [hfmt, hslot] using hi) hgen] at he
  refine ⟨_, he, cqeWaits_schedule .., ?_⟩
  have hget : getNs (adone (journal (newNs r i fmt 0 (bitOf flbas 4) [])) c cid .success (slotCfg g i).nsid) i =
      { live := true, attr := slotCfg r i, fmt := fmt, pi := 0, ext := bitOf flbas 4, attached := [], gen := (getNs r i).gen } := by
    refine tget_tset_same _ _ _ _ ?_
    intro e
    have := congrArg Ns.live e
    cases this
  have hrslot : slotCfg r i = slotCfg s i := by
    rw [← hslot, honly]
    rfl
  rw [hget]
  refine ⟨rfl, hrslot, rfl, rfl, ?_, ?_, ?_, ?_⟩
  · rw [← hslot]; exact hkeys
  · show r.plinth.jrnl + 1 = _
    rw [honly, ← hp]
  · show r.sectors = _
    rw [honly]; exact hg.sectors
  · show r.cmds = _
    rw [honly]; exact hg.cmds

/-! ### Attachment (R152) -/

/-- One controller's view of a namespace changes. -/
def nsSeen (nsid : Nat) (a : State) (c : Nat) : State :=
  raiseStd (if (getCtrl a c).changedNs.contains nsid || !(getCtrl a c).rdy then a
    else setCtrl a c { getCtrl a c with changedNs := (getCtrl a c).changedNs ++ [nsid] }) [c] 8 ⟨2, 0, 4⟩

theorem noted_nsChanged (s : State) (nsid : Nat) (l : List Nat) : Noted s (nsChanged s nsid l) := by
  refine Noted.foldl (nsSeen nsid) (fun a c => ?_) l (.refl s)
  exact (Noted.ite (.refl a) (noted_setCtrl a c _)).trans (noted_raiseStd _ _ _ _)

theorem nsChanged_niches (s : State) (nsid : Nat) (l : List Nat) : (nsChanged s nsid l).niches = s.niches := by
  show (l.foldl (nsSeen nsid) s).niches = s.niches
  induction l generalizing s with
  | nil => rfl
  | cons x r ih =>
    rw [List.foldl_cons, ih]
    unfold nsSeen raiseStd
    obtain ⟨a, b, h⟩ := raiseAll_only (if (getCtrl s x).changedNs.contains nsid || !(getCtrl s x).rdy then s
      else setCtrl s x { getCtrl s x with changedNs := (getCtrl s x).changedNs ++ [nsid] })
      ([x].filter (fun c => bitOf (getCtrl (if (getCtrl s x).changedNs.contains nsid || !(getCtrl s x).rdy then s
      else setCtrl s x { getCtrl s x with changedNs := (getCtrl s x).changedNs ++ [nsid] }) c).aec 8)) ⟨2, 0, 4⟩
    rw [h]
    split <;> rfl

theorem attach_attaches {s : State} {c nsid i d : Nat} (cid : Nat) (h : adminServed s c = true)
    (hq : s.boot.maquette = false) (hs : sanStatus s c = none) (hi : slotOf s (myNiche s c) nsid = some i)
    (hb : binds s (myNiche s c) d = true) (ha : attachable s i = true) (hn : (getNs s i).attached.contains d = false)
    (hm : ctlMet (adminFetch s c) c 4096 = true) :
    ∃ t, exec (.namespaceAttachment c cid nsid true [d]) s = .next t ∧ CqeWaits t c 0 cid .success ∧
      t.ns = tset {} s.ns i { getNs s i with attached := (getNs s i).attached ++ [d] } ∧
      t.zones = s.zones ∧ t.sectors = s.sectors ∧ guarded t = guarded s := by
  have hs' : sanStatus (adminFetch s c) c = none := hs
  have he : exec (.namespaceAttachment c cid nsid true [d]) s =
      .next (attachNs (ctlServed (adminFetch s c) c 4096) c cid nsid true [d]) := by
    show execNamespaceAttachment c cid nsid true [d] s = _
    unfold execNamespaceAttachment
    rw [adminFull_served s c cid _ h hq, afterSan_none hs', ctlData_met hm]
  have hg := sameImport_served s c 4096
  have hgd : guarded (ctlServed (adminFetch s c) c 4096) = guarded s := (ctlServed_guarded _ _ _).trans rfl
  generalize ctlServed (adminFetch s c) c 4096 = g at he hg hgd
  have hns : getNs g i = getNs s i := by unfold getNs; rw [hg.ns]
  have hbg : binds g (myNiche g c) d = true := by
    rw [hg.myNiche]; unfold binds nicheCfg; rw [hg.arm, hg.boot]; exact hb
  have hig : slotOf g (myNiche g c) nsid = some i := by
    rw [hg.myNiche]; unfold slotOf; rw [hg.ns, hg.boot]; exact hi
  have hag : attachable g i = true := by
    unfold attachable slotCfg; rw [hns, hg.arm]; exact ha
  have hat : attachNs g c cid nsid true [d] = adone (nsChanged (setNs g i { getNs s i with
      attached := (getNs s i).attached ++ [d] }) nsid [d]) c cid .success := by
    have hany : [d].any (fun x => !(binds g (myNiche g c) x)) = false := by simp [hbg]
    have hmoved : ([d].eraseDups).filter (fun x => (getNs s i).attached.contains x != true) = [d] := by
      simp only [List.eraseDups_cons, List.filter_nil, List.eraseDups_nil]
      rw [List.filter_cons_of_pos (by rw [hn]; rfl), List.filter_nil]
    unfold attachNs
    dsimp only
    rw [hany, if_neg Bool.false_ne_true, hig]
    dsimp only
    rw [hag, if_neg (by decide), hns, hmoved]
    rfl
  rw [hat] at he
  have hnoted := noted_nsChanged (setNs g i { getNs s i with attached := (getNs s i).attached ++ [d] }) nsid [d]
  refine ⟨_, he, cqeWaits_adone .., ?_, ?_, ?_, ?_⟩
  · refine hnoted.ns.trans ?_
    show tset {} g.ns i _ = _
    rw [hg.ns]
  · exact hnoted.zones.trans hg.zones
  · exact hnoted.sectors.trans hg.sectors
  · exact hnoted.guarded.trans hgd

/-! ### Delete and Format (R149, R151) -/

theorem wipes_nsChanged (s : State) (nsid : Nat) (l : List Nat) : Wipes s (nsChanged s nsid l) :=
  .of_noted (noted_nsChanged s nsid l) (.same (nsChanged_niches s nsid l))

/-- From `s` to `t` content goes and keys with it: commands and the boot state stand, and no LBA is mapped. -/
structure WipesKeys (s t : State) : Prop where
  cmds : t.cmds = s.cmds
  boot : t.boot = s.boot
  board : t.board = s.board
  nsWf : twf {} s.ns = true → twf {} t.ns = true
  sectors : ∀ k, tget ({} : Sector) s.sectors k = {} → tget ({} : Sector) t.sectors k = {}
  niches : NichesWf s t

theorem Wipes.keys {s t : State} (h : Wipes s t) : WipesKeys s t := ⟨h.cmds, h.boot, h.board, h.nsWf, h.sectors, h.niches⟩

theorem WipesKeys.trans {s t u : State} (h : WipesKeys s t) (k : WipesKeys t u) : WipesKeys s u :=
  ⟨k.cmds.trans h.cmds, k.boot.trans h.boot, k.board.trans h.board, k.nsWf ∘ h.nsWf, fun j hj => k.sectors j (h.sectors j hj),
    k.niches ∘ h.niches⟩

theorem WipesKeys.of_cipher {s t : State} (h : t = { s with cipher := t.cipher }) : WipesKeys s t := by
  rw [h]
  exact ⟨rfl, rfl, rfl, id, fun _ h => h, id⟩

theorem WipesKeys.nonvolatile {s t : State} (h : WipesKeys s t) : nonvolatile t = nonvolatile s := by
  unfold Machine.nonvolatile
  rw [h.boot, h.board]

/-- A deleted namespace leaves no mapped LBA, Empty zones and, where none of its commands is started, a free slot. -/
theorem deleteSlot_deletes (s : State) (i : Nat) : Unmapped (deleteSlot s i) i ∧
    (∀ kv ∈ (deleteSlot s i).zones, kv.1 / 131072 = i → kv.2 = { ({} : Zone) with gen := kv.2.gen }) ∧
    (nsBusy s i = false → WipesKeys s (deleteSlot s i) ∧
      (twf {} s.ns = true → (getNs (deleteSlot s i) i).live = false)) := by
  unfold deleteSlot
  dsimp only
  have h0 := wipes_nsChanged s (getNs s i).attr.nsid (getNs s i).attached
  generalize nsChanged s (getNs s i).attr.nsid (getNs s i).attached = s0 at h0 ⊢
  have hd := destroyAll_destroys (finishStarted s0 i) ((keySlots (getNs s i).attr).map (·.1))
  generalize destroyAll (finishStarted s0 i) ((keySlots (getNs s i).attr).map (·.1)) = s1 at hd ⊢
  obtain ⟨hw, hu⟩ := wipeSlot_wipes s1 i
  generalize wipeSlot s1 i = s2 at hw hu ⊢
  refine ⟨hu, ?_, ?_⟩
  · intro kv hkv hi
    have hkv' : kv ∈ tmap {} s2.zones (fun k z => if (k / 131072 == i) = true then { ({} : Zone) with gen := z.gen } else z) := hkv
    obtain ⟨v, -, hv⟩ := mem_tmap hkv'
    have hif : kv.2 = { ({} : Zone) with gen := v.gen } := by
      rw [hv, if_pos (by simpa using hi)]
    rw [hif]
  · intro hb
    have hb0 : nsBusy s0 i = false := (nsBusy_of_cmds h0.cmds i).trans hb
    rw [finishStarted_idle hb0] at hd
    have h1 : WipesKeys s0 s1 := .of_cipher hd.only
    have hb1 : nsBusy s1 i = false := (nsBusy_of_cmds h1.cmds i).trans hb0
    rw [finishStarted_idle hb1] at hw
    have h2 := (h0.keys.trans h1).trans hw.keys
    have h3 : WipesKeys s (setNs { s2 with zones := tmap {} s2.zones (fun k z =>
        if (k / 131072 == i) = true then { ({} : Zone) with gen := z.gen } else z) } i { ({} : Ns) with gen := (getNs s2 i).gen }) :=
      ⟨h2.cmds, h2.boot, h2.board, fun w => twf_tset _ _ _ _ (h2.nsWf w), h2.sectors, h2.niches⟩
    refine ⟨h3, fun w => ?_⟩
    have hget : getNs (setNs { s2 with zones := tmap {} s2.zones (fun k z =>
        if (k / 131072 == i) = true then { ({} : Zone) with gen := z.gen } else z) } i { ({} : Ns) with gen := (getNs s2 i).gen }) i =
        { ({} : Ns) with gen := (getNs s2 i).gen } := by
      refine (tget_tset _ s2.ns i i _ (h2.nsWf w)).trans ?_
      rw [if_pos rfl]
    rw [hget]

theorem delete_deletes {s : State} {c nsid i : Nat} (cid : Nat) (h : adminServed s c = true)
    (hq : s.boot.maquette = false) (hs : sanStatus s c = none) (hi : slotOf s (myNiche s c) nsid = some i)
    (hn : nsid ≠ 0xFFFFFFFF) (hl : liveOn s i = []) :
    exec (.namespaceManagementDelete c cid nsid) s =
      .next (adone (refreshGc (deleteSlot (adminFetch s c) i) (myNiche s c)) c cid .success) := by
  have hs' : sanStatus (adminFetch s c) c = none := hs
  show execNamespaceManagementDelete c cid nsid s = _
  unfold execNamespaceManagementDelete
  rw [adminFull_served s c cid _ h hq, afterSan_none hs']
  have hlist : deleteList (adminFetch s c) (myNiche (adminFetch s c) c) nsid = [i] := by
    show deleteList s (myNiche s c) nsid = [i]
    unfold deleteList
    rw [if_neg (by simpa using hn), hi]
    rfl
  have hlive : [i].any (fun j => !(liveOn (adminFetch s c) j).isEmpty) = false := by
    have : liveOn (adminFetch s c) i = [] := hl
    simp [this]
  delta deleteNs
  dsimp only
  rw [hlist, if_neg (by simp), hlive, if_neg Bool.false_ne_true]
  rfl

theorem format_formats {s : State} {c nsid i lbaf : Nat} (cid : Nat) (h : adminServed s c = true)
    (hq : s.boot.maquette = false) (hs : sanStatus s c = none) (hi : slotOf s (myNiche s c) nsid = some i)
    (hn : nsid ≠ 0xFFFFFFFF) (hf : fmtOk s (slotCfg s i).lbafMask (lbaf % 16) = true) (hl : liveOn s i = []) :
    exec (.formatNvm c cid nsid lbaf 0 0) s = .next (adone (refreshGc
      (setNs (wipeSlot (finishStarted (adminFetch s c) i) i) i
        { getNs (wipeSlot (finishStarted (adminFetch s c) i) i) i with fmt := lbaf % 16, pi := 0, ext := bitOf lbaf 4 })
      (myNiche s c)) c cid .success) := by
  have hs' : sanStatus (adminFetch s c) c = none := hs
  show execFormatNvm c cid nsid lbaf 0 0 s = _
  unfold execFormatNvm
  rw [if_neg (by simp), adminFull_served s c cid _ h hq, afterSan_none hs']
  have hi' : slotOf (adminFetch s c) (myNiche (adminFetch s c) c) nsid = some i := hi
  have hl' : liveOn (adminFetch s c) i = [] := hl
  have hgo : (!(fmtOk (adminFetch s c) (slotCfg (adminFetch s c) i).lbafMask (lbaf % 16)) || (lbaf % 16 != 1 && (0 : Nat) != 0) ||
      decide (3 < (0 : Nat))) = false := by
    have : fmtOk (adminFetch s c) (slotCfg (adminFetch s c) i).lbafMask (lbaf % 16) = true := hf
    rw [this]
    simp
  delta formatNs
  dsimp only
  rw [if_neg (by simpa using hn), hi']
  dsimp only
  rw [hgo, if_neg Bool.false_ne_true, hl', if_pos (show ((0 : Nat) == 0) = true from rfl)]
  generalize finishStarted (adminFetch s c) i = u
  rw [if_neg (by simp), if_neg (by simp), if_neg (by simp)]
  rfl

/-- Settles O28: `Wipes` says what emptying a namespace leaves, `Unmapped` what it takes. -/
theorem namespacesManaged : Obligations.NamespacesManaged := by
  unfold Obligations.NamespacesManaged
  intro s c cid h hq hs n
  refine ⟨?_, ?_, ?_, ?_⟩
  · intro csi flbas i fmt hc hf hi hk hr hm
    exact create_creates cid h hq hs hc hf hi hk hr hm
  · intro nsid i hi hn hl
    have he := delete_deletes cid h hq hs hi hn hl
    obtain ⟨hu, hz, hb⟩ := deleteSlot_deletes (adminFetch s c) i
    generalize deleteSlot (adminFetch s c) i = u at he hu hz hb
    obtain ⟨v, hv⟩ := refreshGcs_only [myNiche s c] u
    change refreshGc u (myNiche s c) = _ at hv
    rw [hv] at he
    refine ⟨_, he, cqeWaits_adone .., hu, hz, fun hbusy => ?_⟩
    obtain ⟨hw, hlive⟩ := hb hbusy
    exact ⟨hw.cmds, hw.nonvolatile, hlive⟩
  · intro nsid i d hi hb ha hn hm
    exact attach_attaches cid h hq hs hi hb ha hn hm
  · intro nsid i lbaf hi hn hf hl hlive
    have he := format_formats cid h hq hs hi hn hf hl
    obtain ⟨hw, hu⟩ := wipeSlot_wipes (finishStarted (adminFetch s c) i) i
    have hbusy : nsBusy s i = false → Wipes (adminFetch s c) (wipeSlot (finishStarted (adminFetch s c) i) i) := by
      intro hb
      have hb' : nsBusy (adminFetch s c) i = false := hb
      rw [finishStarted_idle hb', finishStarted_idle hb'] at hw
      rw [finishStarted_idle hb']
      exact hw
    generalize wipeSlot (finishStarted (adminFetch s c) i) i = u at he hu hbusy
    obtain ⟨v, hv⟩ := refreshGcs_only [myNiche s c] (setNs u i { getNs u i with fmt := lbaf % 16, pi := 0, ext := bitOf lbaf 4 })
    change refreshGc _ (myNiche s c) = _ at hv
    rw [hv] at he
    refine ⟨_, he, cqeWaits_adone .., hu, fun hb => ?_⟩
    have hw := hbusy hb
    have hul : (getNs u i).live = true := hw.live i hlive
    have hget : getNs (adone { setNs u i { getNs u i with fmt := lbaf % 16, pi := 0, ext := bitOf lbaf 4 } with niches := v }
        c cid .success) i = { getNs u i with fmt := lbaf % 16, pi := 0, ext := bitOf lbaf 4 } := by
      refine tget_tset_same _ _ _ _ ?_
      intro e
      have e2 : (getNs u i).live = false := congrArg (fun x : Ns => x.live) e
      rw [hul] at e2
      cases e2
    rw [hget]
    exact ⟨hul, rfl, rfl, rfl, hw.cmds, hw.guards⟩

end Sys2Proof.Machine
end
section
/-! SUPPORT. The entropy source and the DRBG, kept by an operation on the media. -/

namespace Sys2Proof.Machine

/-- How the entropy source and the DRBG stand. -/
structure SourceView where
  drbg : Nat
  seedSrc : Bool
  trng : Nat

def sourceView (s : State) : SourceView :=
  ⟨s.cipher.drbg, s.cipher.seedSrc, s.cipher.trng⟩

@[simp] theorem sourceView_mk
    (x0 x1 x2 x3 x4 x5 x6 x7 x8 x9 x10 x11 x12 x13 x14 x15 x16 x17 x18
      x19 x20 x21 x22 x23 x24 x25 x26 x27 x28 x29 x30 x31 x32 x33 x34 x35 x36) :
    sourceView (State.mk x0 x1 x2 x3 x4 x5 x6 x7 x8 x9 x10 x11 x12 x13 x14 x15 x16 x17 x18
      x19 x20 x21 x22 x23 x24 x25 x26 x27 x28 x29 x30 x31 x32 x33 x34 x35 x36) =
      ⟨x28.drbg, x28.seedSrc, x28.trng⟩ := rfl

@[simp] theorem sourceView_fold (s : State) : (⟨s.cipher.drbg, s.cipher.seedSrc, s.cipher.trng⟩ : SourceView) = sourceView s := rfl

@[simp] theorem sourceView_ite (c : Prop) [Decidable c] (a b : State) :
    sourceView (if c then a else b) = if c then sourceView a else sourceView b := apply_ite _ _ _ _

@[simp] theorem sourceView_foldl {α : Type} (f : State → α → State) (l : List α) (s : State)
    (h : ∀ a x, sourceView (f a x) = sourceView a) : sourceView (l.foldl f s) = sourceView s := by
  induction l generalizing s with
  | nil => rfl
  | cons x t ih => simp [ih, h]

@[simp] theorem setCtrl_sourceView (s : State) (c : Nat) (v : Ctrl) : sourceView (setCtrl s c v) = sourceView s := by
  rfl

@[simp] theorem setSq_sourceView (s : State) (k : Nat) (v : Sq) : sourceView (setSq s k v) = sourceView s := by rfl

@[simp] theorem setCmd_sourceView (s : State) (i : Nat) (v : Cmd) : sourceView (setCmd s i v) = sourceView s := by rfl

@[simp] theorem delCmd_sourceView (s : State) (i : Nat) : sourceView (delCmd s i) = sourceView s := by rfl

@[simp] theorem setNs_sourceView (s : State) (i : Nat) (v : Ns) : sourceView (setNs s i v) = sourceView s := by rfl

@[simp] theorem setZone_sourceView (s : State) (k : Nat) (v : Zone) : sourceView (setZone s k v) = sourceView s := by
  rfl

@[simp] theorem setStripe_sourceView (s : State) (i : Nat) (v : Stripe) :
    sourceView (setStripe s i v) = sourceView s := by rfl

@[simp] theorem setNch_sourceView (s : State) (i : Nat) (v : Nch) : sourceView (setNch s i v) = sourceView s := by rfl

@[simp] theorem setComm_sourceView (s : State) (h : Nat) (v : Comm) : sourceView (setComm s h v) = sourceView s := by
  rfl

@[simp] theorem schedule_sourceView (s : State) (c q cid : Nat) (st : Status) (dw0 dw1 : Nat) (data : List Fld) :
    sourceView (schedule s c q cid st dw0 dw1 data) = sourceView s := by rfl

@[simp] theorem adone_sourceView (s : State) (c cid : Nat) (st : Status) (dw0 dw1 : Nat) (data : List Fld) :
    sourceView (adone s c cid st dw0 dw1 data) = sourceView s := by rfl

@[simp] theorem pumpEvs_sourceView (s : State) (c fuel : Nat) : sourceView (pumpEvs s c fuel) = sourceView s := by
  induction fuel generalizing s with
  | zero => rfl
  | succ n ih => unfold pumpEvs; dsimp only; split <;> simp [ih]

@[simp] theorem raiseOn_sourceView (s : State) (c : Nat) (e : Ev) : sourceView (raiseOn s c e) = sourceView s := by
  unfold raiseOn; dsimp only; simp only [pumpEvs_sourceView]; split <;> simp

@[simp] theorem raiseAll_sourceView (s : State) (cs : List Nat) (e : Ev) :
    sourceView (raiseAll s cs e) = sourceView s := by simp [raiseAll]

@[simp] theorem raiseStd_sourceView (s : State) (cs : List Nat) (bit : Nat) (e : Ev) :
    sourceView (raiseStd s cs bit e) = sourceView s := by simp [raiseStd]

@[simp] theorem addJob_sourceView (s : State) (j : PlJob) : sourceView (addJob s j) = sourceView s := by simp [addJob]

@[simp] theorem glbSet_sourceView (s : State) (b : Nat) : sourceView (glbSet s b) = sourceView s := by rfl

@[simp] theorem nchSet_sourceView (s : State) (n b : Nat) : sourceView (nchSet s n b) = sourceView s := by rfl

@[simp] theorem mediaEvent_sourceView (s : State) (n : Nat) : sourceView (mediaEvent s n) = sourceView s := by
  simp [mediaEvent]

@[simp] theorem zoneChanged_sourceView (s : State) (slot z : Nat) :
    sourceView (zoneChanged s slot z) = sourceView s := by simp [zoneChanged]

@[simp] theorem patNew_sourceView (s : State) (sev : Nat) : sourceView (patNew s sev) = sourceView s := by
  simp [patNew]

@[simp] theorem patWrite_sourceView (s : State) (r : PatRec) : sourceView (patWrite s r) = sourceView s := by
  unfold patWrite; dsimp only; (repeat' split) <;> simp

@[simp] theorem patStore_sourceView (s : State) (r : PatRec) : sourceView (patStore s r) = sourceView s := by
  unfold patStore; split <;> simp

@[simp] theorem patina_sourceView (s : State) (r : PatReq) : sourceView (patina s r) = sourceView s := by
  simp [patina]

@[simp] theorem nicheRec_sourceView (s : State) (n typ : Nat) (sev p8 : Nat) (pb pc : Nat) :
    sourceView (nicheRec s n typ sev p8 pb pc) = sourceView s := by simp [nicheRec]

@[simp] theorem countChange_sourceView (s : State) (n : Nat) : sourceView (countChange s n) = sourceView s := by rfl

@[simp] theorem commEvent_sourceView (s : State) (h code : Nat) : sourceView (commEvent s h code) = sourceView s := by
  simp [commEvent]

@[simp] theorem withIdent_sourceView (s : State) (owner : Nat) : sourceView (withIdent s owner) = sourceView s := by
  simp [withIdent]

@[simp] theorem pruneIds_sourceView (s : State) : sourceView (pruneIds s) = sourceView s := by rfl

@[simp] theorem passBuf_sourceView (s : State) (k owner : Nat) (parts : List (Nat × Nat × Nat)) :
    sourceView (passBuf s k owner parts) = sourceView s := by simp [passBuf]

@[simp] theorem releaseBuf_sourceView (s : State) (k : Nat) : sourceView (releaseBuf s k) = sourceView s := by
  unfold releaseBuf; dsimp only; (repeat' split) <;> simp

@[simp] theorem releaseBufs_sourceView (s : State) (l : List Nat) : sourceView (releaseBufs s l) = sourceView s := by
  simp [releaseBufs]

@[simp] theorem journal_sourceView (s : State) : sourceView (journal s) = sourceView s := by rfl

@[simp] theorem bindRow_sourceView (s : State) (slot : Nat) (zone : Option Nat) (pos : Nat) (kr : Nat × Nat) :
    sourceView (bindRow s slot zone pos kr) = sourceView s := by rfl

@[simp] theorem openStripe_sourceView (s : State) (i : Nat) (zone : Option Nat) (gc : Bool) (kr : Nat × Nat) (t : Nat) :
    sourceView (openStripe s i zone gc kr t).1 = sourceView s := by rfl

@[simp] theorem completeStripe_sourceView (s : State) (sid : Nat) (padded : Bool) :
    sourceView (completeStripe s sid padded) = sourceView s := by
  unfold completeStripe; dsimp only; split <;> simp

@[simp] theorem takeFineRow_sourceView (s : State) (i : Nat) (gc : Bool) :
    sourceView (takeFineRow s i gc) = sourceView s := by
  unfold takeFineRow; dsimp only; (repeat' split) <;> simp

@[simp] theorem readyRow_sourceView (s : State) (i : Nat) (gc : Bool) : sourceView (readyRow s i gc) = sourceView s := by
  simp [readyRow]

@[simp] theorem fillStripe_sourceView (s : State) (i : Nat) (zone : Option Nat) (gc : Bool) :
    sourceView (fillStripe s i zone gc).1 = sourceView s := by
  unfold fillStripe; dsimp only; (repeat' split) <;> simp

@[simp] theorem endFill_sourceView (s : State) (i : Nat) (zone : Option Nat) (gc : Bool) :
    sourceView (endFill s i zone gc) = sourceView s := by
  unfold endFill; split <;> simp

@[simp] theorem placeSector_sourceView (s : State) (w : Writer) (lba val : Nat) :
    sourceView (placeSector s w lba val).1 = sourceView s := by
  unfold placeSector; dsimp only; (repeat' split) <;> simp

@[simp] theorem placeAll_sourceView (w : Writer) (l : List (Nat × Nat)) (s : State) :
    sourceView (placeAll w l s).1 = sourceView s := by
  induction l generalizing s with
  | nil => rfl
  | cons h t ih => simp [placeAll, ih]

@[simp] theorem terminalPad_sourceView (s : State) (i z : Nat) : sourceView (terminalPad s i z) = sourceView s := by
  unfold terminalPad; split <;> simp

@[simp] theorem finishByController_sourceView (s : State) (i z : Nat) :
    sourceView (finishByController s i z) = sourceView s := by simp [finishByController]

@[simp] theorem finishWhenFree_sourceView (s : State) (i z : Nat) :
    sourceView (finishWhenFree s i z) = sourceView s := by simp [finishWhenFree]

@[simp] theorem interiorPad_sourceView (s : State) (i z : Nat) : sourceView (interiorPad s i z) = sourceView s := by
  unfold interiorPad; dsimp only; split <;> simp

@[simp] theorem finePad_sourceView (s : State) (i : Nat) (gc : Bool) :
    sourceView (finePad s i gc) = sourceView s := by
  unfold finePad; split <;> simp

@[simp] theorem closeByDevice_sourceView (s : State) (why h : Nat) :
    sourceView (closeByDevice s why h) = sourceView s := by simp [closeByDevice]

@[simp] theorem smartEvent_sourceView (s : State) (n b info : Nat) :
    sourceView (smartEvent s n b info) = sourceView s := by simp [smartEvent]

@[simp] theorem readOnlyNiche_sourceView (s : State) (n why : Nat) :
    sourceView (readOnlyNiche s n why) = sourceView s := by simp [readOnlyNiche]

@[simp] theorem putLost_sourceView (s : State) (n : Nat) (v : Nch) : sourceView (putLost s n v) = sourceView s := by
  simp [putLost]

@[simp] theorem lostCut_sourceView (s : State) (slot lo hi : Nat) :
    sourceView (lostCut s slot lo hi) = sourceView s := by simp [lostCut]

@[simp] theorem refreshGc_sourceView (s : State) (n : Nat) : sourceView (refreshGc s n) = sourceView s := by
  simp [refreshGc]

@[simp] theorem finishZone_sourceView (s : State) (i z : Nat) : sourceView (finishZone s i z) = sourceView s := by
  simp [finishZone]

@[simp] theorem leaveWaits_sourceView (s : State) : sourceView (leaveWaits s) = sourceView s := by rfl

@[simp] theorem feedOne_sourceView (s : State) : sourceView (feedOne s) = sourceView s := by rfl

@[simp] theorem feed_sourceView (s : State) : sourceView (feed s) = sourceView s := by
  unfold feed; apply sourceView_foldl; intro a x; simp

@[simp] theorem dropReads_sourceView (s : State) (p : Owner → Bool) : sourceView (dropReads s p) = sourceView s := by
  unfold dropReads; dsimp only; split
  · rfl
  · simp

@[simp] theorem freeCmdBufs_sourceView (s : State) (id : Nat) : sourceView (freeCmdBufs s id) = sourceView s := by
  simp [freeCmdBufs]

@[simp] theorem unqueueCmd_sourceView (s : State) (id : Nat) : sourceView (unqueueCmd s id) = sourceView s := by rfl

@[simp] theorem slotFreed_sourceView (s : State) (c : Cmd) : sourceView (slotFreed s c) = sourceView s := by
  unfold slotFreed; split <;> simp

@[simp] theorem discard_sourceView (s : State) (id : Nat) : sourceView (discard s id) = sourceView s := by
  unfold discard; simp

@[simp] theorem logError_sourceView (s : State) (c : Nat) (e : ErrEnt) : sourceView (logError s c e) = sourceView s := by
  rfl

@[simp] theorem ioCqe_sourceView (s : State) (k cid : Nat) (st : Status) :
    sourceView (ioCqe s k cid st) = sourceView s := by rfl

@[simp] theorem completeStaged_sourceView (s : State) (k : Nat) (st : Status) :
    sourceView (completeStaged s k st) = sourceView s := by simp [completeStaged]

@[simp] theorem uncount_sourceView (s : State) (c : Cmd) (st : Status) :
    sourceView (uncount s c st) = sourceView s := by
  unfold uncount; split <;> simp

@[simp] theorem endWaiting_sourceView (k : Nat) (st : Status) (s : State) (id : Nat) :
    sourceView (endWaiting k st s id) = sourceView s := by simp [endWaiting]

@[simp] theorem completeUnstarted_sourceView (s : State) (k : Nat) (st : Status) :
    sourceView (completeUnstarted s k st) = sourceView s := by simp [completeUnstarted]

@[simp] theorem freezeSq_sourceView (s : State) (k : Nat) (c : Cmd) (st : Status) :
    sourceView (freezeSq s k c st) = sourceView s := by
  unfold freezeSq; dsimp only; split <;> simp

@[simp] theorem endCmd_sourceView (s : State) (id : Nat) (st : Status) (dw0 dw1 : Nat) (data : List Fld) :
    sourceView (endCmd s id st dw0 dw1 data) = sourceView s := by simp [endCmd]

@[simp] theorem padFor_sourceView (s : State) (sid : Nat) : sourceView (padFor s sid) = sourceView s := by
  unfold padFor; dsimp only; (repeat' split) <;> simp

@[simp] theorem settleOne_sourceView (a : State) (id : Nat) : sourceView (settleOne a id) = sourceView a := by
  simp [settleOne]

@[simp] theorem flushNote_sourceView (s : State) (id : Nat) (sids : List Nat) :
    sourceView (flushNote s id sids) = sourceView s := by rfl

@[simp] theorem settle_sourceView (s : State) : sourceView (settle s) = sourceView s := by simp [settle]

@[simp] theorem complete_sourceView (s : State) (id : Nat) (st : Status) (dw0 dw1 : Nat) (data : List Fld) :
    sourceView (complete s id st dw0 dw1 data) = sourceView s := by simp [complete]

@[simp] theorem noteLost_sourceView (s : State) (niche n : Nat) : sourceView (noteLost s niche n) = sourceView s := by
  rfl

@[simp] theorem finishReceive_sourceView (s : State) (id : Nat) : sourceView (finishReceive s id) = sourceView s := by
  simp [finishReceive]

@[simp] theorem finishSeal_sourceView (s : State) (id : Nat) : sourceView (finishSeal s id) = sourceView s := by
  unfold finishSeal; dsimp only; split <;> simp

@[simp] theorem passSegment_sourceView (s : State) (id : Nat) : sourceView (passSegment s id) = sourceView s := by rfl

@[simp] theorem passAll_sourceView (s : State) (id : Nat) : sourceView (passAll s id) = sourceView s := by
  simp [passAll]

@[simp] theorem passBufs_sourceView (l m : List (Nat × Nat)) (s : State) :
    sourceView (passBufs l m s) = sourceView s := by
  induction l generalizing m s with
  | nil => rfl
  | cons h t ih => unfold passBufs; simp [ih]

@[simp] theorem commitZone_sourceView (s : State) (c : Cmd) (z : Nat) :
    sourceView (commitZone s c z).1 = sourceView s := by simp [commitZone]

@[simp] theorem commitCounts_sourceView (s : State) (c : Cmd) : sourceView (commitCounts s c) = sourceView s := by
  unfold commitCounts; dsimp only; (repeat' split) <;> simp

@[simp] theorem commitWrite_sourceView (s : State) (id : Nat) : sourceView (commitWrite s id) = sourceView s := by
  unfold commitWrite; dsimp only; split <;> simp

@[simp] theorem countRead_sourceView (s : State) (c : Cmd) : sourceView (countRead s c) = sourceView s := by rfl

@[simp] theorem readSent_sourceView (s : State) (id : Nat) : sourceView (readSent s id) = sourceView s := by
  unfold readSent; dsimp only; (repeat' split) <;> simp

@[simp] theorem finishRead_sourceView (s : State) (id : Nat) : sourceView (finishRead s id) = sourceView s := by
  unfold finishRead; dsimp only; (repeat' split) <;> simp

@[simp] theorem finishWrite_sourceView (s : State) (id : Nat) : sourceView (finishWrite s id) = sourceView s := by
  unfold finishWrite; simp

@[simp] theorem finishStarted_sourceView (s : State) (i : Nat) : sourceView (finishStarted s i) = sourceView s := by
  unfold finishStarted; apply sourceView_foldl; intro a x; dsimp only; (repeat' split) <;> simp

@[simp] theorem finishNiche_sourceView (s : State) (n : Nat) : sourceView (finishNiche s n) = sourceView s := by
  simp [finishNiche]

end Sys2Proof.Machine
end
section
/-! PROOFS. Sanitize (R153, R154): its begin, its end and the failed niche let go. -/

namespace Sys2Proof.Machine

theorem canGenerate_finishNiche (s : State) (n : Nat) : canGenerate (finishNiche s n) = canGenerate s := by
  have hv := finishNiche_sourceView s n
  have hg : (finishNiche s n).board.fuses = s.board.fuses := congrArg Guarded.fuses (finishNiche_guarded s n)
  have hd : (finishNiche s n).cipher.drbg = s.cipher.drbg := congrArg SourceView.drbg hv
  have hs : (finishNiche s n).cipher.seedSrc = s.cipher.seedSrc := congrArg SourceView.seedSrc hv
  have ht : (finishNiche s n).cipher.trng = s.cipher.trng := congrArg SourceView.trng hv
  unfold canGenerate
  rw [hd, hs, ht, hg]

/-! ### Content goes (R154) -/

theorem idle_of_unstarted {s : State} (h : ∀ kv ∈ s.cmds, kv.2.phase ≠ .started) (i : Nat) : nsBusy s i = false := by
  unfold nsBusy
  refine List.any_eq_false.mpr fun kv hkv => ?_
  have := h kv hkv
  simp [this]

theorem finishNiche_idle {s : State} (h : ∀ kv ∈ s.cmds, kv.2.phase ≠ .started) (n : Nat) : finishNiche s n = s := by
  unfold finishNiche
  induction nsOfNiche s n with
  | nil => rfl
  | cons i l ih => rw [List.foldl_cons, finishStarted_idle (idle_of_unstarted h i), ih]

theorem wipes_eraseOwned (s : State) (n : Nat) : Wipes s (eraseOwned s n) :=
  .foldl _ _ s fun a _ => .ite ⟨rfl, rfl, rfl, rfl, fun _ h => h, fun _ h => h, id, id⟩ (.refl a)

theorem eraseOwned_niches (s : State) (n : Nat) : (eraseOwned s n).niches = s.niches := by
  unfold eraseOwned
  refine List.foldlRecOn (motive := fun (t : State) => t.niches = s.niches) _ _ rfl fun a ha _ _ => ?_
  dsimp only
  split <;> exact ha

theorem wipes_checkpointOf (s : State) (n : Nat) : Wipes s (checkpointOf s n) :=
  (wipes_setNch s n { getNch s n with ckptUs := s.opUs, sinceCkpt := 0 }).trans
    ⟨rfl, rfl, rfl, rfl, fun _ h => h, fun _ h => h, id, id⟩

/-- One namespace of a sanitized niche: its content goes and its own counters with it. -/
def sanSlot (a : State) (i : Nat) : State :=
  setNs (wipeSlot a i) i { getNs (wipeSlot a i) i with hostWritten := 0, hostRead := 0 }

theorem sanSlot_wipes {s : State} (h : ∀ kv ∈ s.cmds, kv.2.phase ≠ .started) (i : Nat) :
    Wipes s (sanSlot s i) ∧ Unmapped (sanSlot s i) i := by
  obtain ⟨hw, hu⟩ := wipeSlot_wipes s i
  rw [finishStarted_idle (idle_of_unstarted h i)] at hw
  have hn := wipes_setNs (wipeSlot s i) i { getNs (wipeSlot s i) i with hostWritten := 0, hostRead := 0 } id
  exact ⟨hw.trans hn, hu.wipes hn⟩

theorem sanSlots_wipe (l : List Nat) {s : State} (h : ∀ kv ∈ s.cmds, kv.2.phase ≠ .started) :
    Wipes s (l.foldl sanSlot s) ∧ ∀ j ∈ l, Unmapped (l.foldl sanSlot s) j := by
  induction l generalizing s with
  | nil => exact ⟨.refl s, fun _ h => absurd h List.not_mem_nil⟩
  | cons i l ih =>
    obtain ⟨hw, hu⟩ := sanSlot_wipes h i
    obtain ⟨hwl, hul⟩ := ih (s := sanSlot s i) (fun kv hkv => h kv (hw.cmds ▸ hkv))
    rw [List.foldl_cons]
    refine ⟨hw.trans hwl, fun j hj => ?_⟩
    rcases List.mem_cons.mp hj with rfl | hj
    · exact hu.wipes hwl
    · exact hul j hj

theorem sanWipe_eq (s : State) (n : Nat) : sanWipe s n =
    if (setNch ((nsOfNiche s n).foldl sanSlot s) n (clearCounters (getNch ((nsOfNiche s n).foldl sanSlot s) n))).plinth.mounted = true then
      checkpointOf (setNch ((nsOfNiche s n).foldl sanSlot s) n (clearCounters (getNch ((nsOfNiche s n).foldl sanSlot s) n))) n
    else setNch ((nsOfNiche s n).foldl sanSlot s) n (clearCounters (getNch ((nsOfNiche s n).foldl sanSlot s) n)) := rfl

/-- The counters of a sanitized niche. -/
def Cleared (s : State) (n : Nat) : Prop := (getNch s n).hostWritten = 0 ∧ (getNch s n).unrecovered = 0

theorem getNch_setNch {s : State} (h : twf {} s.niches = true) (n : Nat) (v : Nch) : getNch (setNch s n v) n = v := by
  refine (tget_tset _ s.niches n n v h).trans ?_
  rw [if_pos rfl]

theorem sanWipe_wipes {s : State} (h : ∀ kv ∈ s.cmds, kv.2.phase ≠ .started) (n : Nat) :
    Wipes s (sanWipe s n) ∧ (∀ j ∈ nsOfNiche s n, Unmapped (sanWipe s n) j) ∧ (twf {} s.niches = true → Cleared (sanWipe s n) n) := by
  obtain ⟨hw, hu⟩ := sanSlots_wipe (nsOfNiche s n) h
  rw [sanWipe_eq]
  generalize (nsOfNiche s n).foldl sanSlot s = s1 at hw hu
  have h2 := wipes_setNch s1 n (clearCounters (getNch s1 n))
  have hc : twf {} s1.niches = true → Cleared (setNch s1 n (clearCounters (getNch s1 n))) n := fun w => by
    unfold Cleared
    rw [getNch_setNch w]
    exact ⟨rfl, rfl⟩
  generalize setNch s1 n (clearCounters (getNch s1 n)) = s2 at h2 hc ⊢
  split
  · have h3 := wipes_checkpointOf s2 n
    refine ⟨(hw.trans h2).trans h3, fun j hj => ((hu j hj).wipes h2).wipes h3, fun w => ?_⟩
    have hn : getNch (checkpointOf s2 n) n = { getNch s2 n with ckptUs := s2.opUs, sinceCkpt := 0 } :=
      getNch_setNch (h2.niches (hw.niches w)) n _
    unfold Cleared at hc ⊢
    rw [hn]
    exact hc (hw.niches w)
  · exact ⟨hw.trans h2, fun j hj => (hu j hj).wipes h2, fun w => hc (hw.niches w)⟩

/-- A niche as its sanitize leaves it: no LBA of it mapped, its counters cleared, commands and boot state as they were. -/
structure Sanitized (s t : State) (n : Nat) : Prop where
  wipes : WipesKeys s t
  unmapped : ∀ j ∈ nsOfNiche s n, Unmapped t j
  cleared : twf {} s.niches = true → Cleared t n

/-- The mark of the sanitize under way is put on the niche last. -/
theorem sanMark_cleared {s : State} {n : Nat} (h : twf {} s.niches = true → Cleared s n) (v : San) :
    twf {} s.niches = true → Cleared (setNch s n { getNch s n with san := v }) n := fun w => by
  unfold Cleared
  rw [getNch_setNch w]
  exact h w

theorem getNch_sanMark (s : State) (n : Nat) {v : San} (h : v ≠ .none) :
    (getNch (setNch s n { getNch s n with san := v }) n).san = v := by
  have hne : { getNch s n with san := v } ≠ ({} : Nch) := fun e => h (congrArg Nch.san e)
  rw [getNch, setNch, tget_tset_same _ _ _ _ hne]

theorem Sanitized.marked {s k t : State} {n : Nat} (hk : k = { s with cipher := k.cipher }) (v : San)
    (hw : Wipes k t) (hu : ∀ j ∈ nsOfNiche k n, Unmapped t j) (hc : twf {} k.niches = true → Cleared t n) :
    Sanitized s (setNch t n { getNch t n with san := v }) n := by
  have hm := wipes_setNch t n { getNch t n with san := v }
  have hkey : WipesKeys s k := .of_cipher hk
  have hns : nsOfNiche k n = nsOfNiche s n := by rw [hk]; rfl
  refine ⟨(hkey.trans hw.keys).trans hm.keys, fun j hj => (hu j (hns ▸ hj)).wipes hm, fun w => ?_⟩
  exact sanMark_cleared (fun _ => hc (hkey.niches w)) v (hw.niches (hkey.niches w))

theorem sanBlock_sanitizes (s : State) (n : Nat) : (getNch (sanBlock s n) n).san = .block ∧
    ((∀ kv ∈ s.cmds, kv.2.phase ≠ .started) → Sanitized s (sanBlock s n) n) := by
  unfold sanBlock
  dsimp only
  refine ⟨getNch_sanMark _ _ (by decide), fun h => ?_⟩
  rw [finishNiche_idle h]
  have hk := (destroyAll_destroys s ((nicheKeys s n).map (·.1))).only
  generalize destroyAll s ((nicheKeys s n).map (·.1)) = k at hk ⊢
  have hcm : k.cmds = s.cmds := by rw [hk]
  obtain ⟨hw, hu, hc⟩ := sanWipe_wipes (s := k) (fun kv hkv => h kv (hcm ▸ hkv)) n
  have he := wipes_eraseOwned (sanWipe k n) n
  refine .marked hk _ (hw.trans he) (fun j hj => (hu j hj).wipes he) fun w => ?_
  unfold Cleared getNch
  rw [eraseOwned_niches]
  exact hc w

theorem sanCrypto_sanitizes {s : State} (n : Nat) (hg : canGenerate s = true) : ∃ t, sanCrypto s n = (t, true) ∧
    (getNch t n).san = .crypto ∧ ((∀ kv ∈ s.cmds, kv.2.phase ≠ .started) → Sanitized s t n) := by
  obtain ⟨k, hk, hc⟩ := regenerate_only (nicheKeys s n) ((canGenerate_finishNiche s n).trans hg)
  unfold sanCrypto
  rw [hk]
  refine ⟨_, if_neg (by simp), getNch_sanMark _ _ (by decide), fun h => ?_⟩
  rw [finishNiche_idle h] at hc
  have hcm : k.cmds = s.cmds := by rw [hc]
  obtain ⟨hw, hu, hcl⟩ := sanWipe_wipes (s := k) (fun kv hkv => h kv (hcm ▸ hkv)) n
  exact .marked hc _ hw hu hcl

/-! ### The commands -/

theorem sanRefuse_none {s : State} {c : Nat} (hq : s.boot.maquette = false) (hl : liveOf s (myNiche s c) = [])
    (hs : (getNch s (myNiche s c)).san = .none ∨ (getNch s (myNiche s c)).san = .failed) : sanRefuse s c false = none := by
  have hn : sanNiches s c = [myNiche s c] := by unfold sanNiches; rw [hq]; rfl
  unfold sanRefuse
  rw [hn, hq]
  rcases hs with h | h <;> simp [hl, h]

theorem WipesKeys.done {s t : State} (h : WipesKeys s t) (c cid : Nat) (st : Status) : WipesKeys s (adone t c cid st) :=
  ⟨h.cmds, h.boot, h.board, h.nsWf, h.sectors, h.niches⟩

theorem blockErase_begins {s : State} {c : Nat} (cid : Nat) (h : adminServed s c = true) (hq : s.boot.maquette = false)
    (hr : s.boot.romRec = false) (hl : liveOf s (myNiche s c) = [])
    (hs : (getNch s (myNiche s c)).san = .none ∨ (getNch s (myNiche s c)).san = .failed) :
    exec (.sanitizeBlockErase c cid false) s = .next (adone (sanBlock (adminFetch s c) (myNiche s c)) c cid .success) := by
  show execSanitizeBlockErase c cid false s = _
  unfold execSanitizeBlockErase
  have hf : sanRefuse (adminFetch s c) c false = none := sanRefuse_none (s := adminFetch s c) hq hl hs
  have hn : sanNiches (adminFetch s c) c = [myNiche s c] := if_neg (by rw [show (adminFetch s c).boot = s.boot from rfl, hq]; simp)
  rw [adminRom_served s c cid _ h hr, hf, hn]
  rfl

theorem cryptoErase_begins {s : State} {c : Nat} (cid : Nat) (h : adminServed s c = true) (hq : s.boot.maquette = false)
    (hr : s.boot.romRec = false) (hl : liveOf s (myNiche s c) = [])
    (hs : (getNch s (myNiche s c)).san = .none ∨ (getNch s (myNiche s c)).san = .failed)
    (hsr : sourceRestarts s ((sanNiches s c).flatMap (slotsOf s)) = false) {t : State}
    (ht : sanCrypto (adminFetch s c) (myNiche s c) = (t, true)) :
    exec (.sanitizeCryptoErase c cid false) s = .next (adone t c cid .success) := by
  show execSanitizeCryptoErase c cid false s = _
  unfold execSanitizeCryptoErase
  have hf : sanRefuse (adminFetch s c) c false = none := sanRefuse_none (s := adminFetch s c) hq hl hs
  have hn : sanNiches (adminFetch s c) c = [myNiche s c] := if_neg (by rw [show (adminFetch s c).boot = s.boot from rfl, hq]; simp)
  rw [hsr, if_neg Bool.false_ne_true, adminRom_served s c cid _ h hr, hf, hn]
  dsimp only [List.foldl]
  rw [ht]
  rfl

theorem exitFailureMode_exits {s : State} {c : Nat} (cid : Nat) (h : adminServed s c = true) (hq : s.boot.maquette = false)
    (hr : s.boot.romRec = false) (hl : liveOf s (myNiche s c) = []) (hs : (getNch s (myNiche s c)).san = .failed) :
    exec (.sanitizeExitFailureMode c cid false) s = .next (adone { adminFetch s c with
      niches := tset {} s.niches (myNiche s c) { getNch s (myNiche s c) with san := .none } } c cid .success) := by
  show execSanitizeExitFailureMode c cid false s = _
  unfold execSanitizeExitFailureMode
  have hf : sanRefuse (adminFetch s c) c false = none := sanRefuse_none (s := adminFetch s c) hq hl (.inr hs)
  have hn : sanNiches (adminFetch s c) c = [myNiche s c] := if_neg (by rw [show (adminFetch s c).boot = s.boot from rfl, hq]; simp)
  have hm : ((getNch (adminFetch s c) (myNiche s c)).san == .failed) = true := by
    show ((getNch s (myNiche s c)).san == .failed) = true
    rw [hs]
    rfl
  rw [adminRom_served s c cid _ h hr, hf, hn]
  dsimp only [List.foldl]
  rw [hm, if_pos rfl]
  rfl

theorem sanitizeComplete_ends {s : State} {n : Nat}
    (h : (getNch s n).san = .crypto ∨ ((getNch s n).san = .block ∧ rowsLeft s n = false)) :
    ∃ t, exec (.sanitizeComplete n) s = .next t ∧ (getNch t n).san = .none ∧ (getNch t n).sanDone = 1 ∧
      (getNch t n).istat = setBit (getNch s n).istat 7 ∧
      (getNch t n).readOnly = ((getNch s n).readOnly && ((getNch s n).san == .crypto || narrowSet s n)) ∧
      t.zones = s.zones ∧ t.sectors = s.sectors := by
  have hover : ((getNch s n).san == .crypto || ((getNch s n).san == .block && !(rowsLeft s n))) = true := by
    rcases h with h | ⟨h, hr⟩
    · rw [h]; rfl
    · rw [h, hr]; rfl
  have he : exec (.sanitizeComplete n) s = .next (nchSet (setNch s n { getNch s n with
      san := .none, sanDone := 1, readOnly := (getNch s n).readOnly && ((getNch s n).san == .crypto || narrowSet s n) }) n 7) := by
    show execSanitizeComplete n s = _
    unfold execSanitizeComplete
    dsimp only
    rw [hover]
    rfl
  generalize hv : ({ getNch s n with
      san := .none, sanDone := 1, readOnly := (getNch s n).readOnly && ((getNch s n).san == .crypto || narrowSet s n) } : Nch) = v at he
  have hd : v.sanDone = 1 := by rw [← hv]
  have hget : getNch (setNch s n v) n = v := tget_tset_same _ _ _ _ fun e => by rw [e] at hd; cases hd
  have hget2 : getNch (nchSet (setNch s n v) n 7) n = { v with istat := setBit v.istat 7 } := by
    unfold nchSet
    rw [hget]
    refine tget_tset_same _ _ _ _ fun e => ?_
    have hd' : ({ v with istat := setBit v.istat 7 } : Nch).sanDone = 1 := hd
    rw [e] at hd'
    cases hd'
  refine ⟨_, he, ?_, ?_, ?_, ?_, rfl, rfl⟩ <;> rw [hget2, ← hv]

/-- Settles O29: `Sanitized` says how the erase leaves the niche. -/
theorem sanitizeRuns : Obligations.SanitizeRuns := by
  unfold Obligations.SanitizeRuns
  refine ⟨?_, ?_, ?_⟩
  · intro s c cid i h hq hr n hl hs hi
    rcases hi with rfl | ⟨rfl, hg, hsr⟩
    · obtain ⟨hsan, hz⟩ := sanBlock_sanitizes (adminFetch s c) n
      have he := blockErase_begins cid h hq hr hl hs
      change exec _ s = .next (adone (sanBlock (adminFetch s c) n) c cid .success) at he
      generalize sanBlock (adminFetch s c) n = t at he hsan hz
      refine ⟨_, he, cqeWaits_adone .., ?_, fun hc => ?_⟩
      · rw [if_pos rfl]
        exact hsan
      · obtain ⟨hw, hu, hcl⟩ := hz hc
        exact ⟨hcl, fun j l hj hl => hu j hj l hl, hw.cmds, hw.nonvolatile⟩
    · obtain ⟨t, ht, hsan, hz⟩ := sanCrypto_sanitizes (s := adminFetch s c) n hg
      have he := cryptoErase_begins cid h hq hr hl hs hsr ht
      refine ⟨_, he, cqeWaits_adone .., ?_, fun hc => ?_⟩
      · rw [if_neg (by simp)]
        exact hsan
      · obtain ⟨hw, hu, hcl⟩ := hz hc
        exact ⟨hcl, fun j l hj hl => hu j hj l hl, hw.cmds, hw.nonvolatile⟩
  · intro s c cid h hq hr n hl hs
    exact exitFailureMode_exits cid h hq hr hl hs
  · intro s n h
    exact sanitizeComplete_ends h

end Sys2Proof.Machine
end
section
/-! PROOFS. A Deallocate beyond LBA 2^64 (R135). -/

namespace Sys2Proof.Machine

/-- A zoned namespace of more than 2^64 LBAs, and a started command that holds its LBA 2^64. -/
def wideNs : State :=
  { State.reset with
    board := { pgAon := true, railEn := 255, pg := 255, perst0 := false }
    boot := { phase := .released, fwSlot := 1 }
    arm := { src := 0, seq := 1, cfg :=
      { niches := [{ valid := true, weight := 1, calShare := 100, thermShare := 100, rankSet := 1, qbase := 1, qcount := 64 }] } }
    ports := [(0, { gen := 5, width := 8, dlup := true })]
    ctrls := [(0, { en := true, rdy := true, allot := 8 })]
    sqs := [(0, { live := true, size := 16 }), (1, { live := true, size := 16, cqid := 1 })]
    cqs := [(0, { live := true, size := 16, ien := true }), (1, { live := true, size := 16 })]
    ns := [(0, { live := true, attr := { valid := true, nsid := 1, zoned := true, size := 8796093022209 }, attached := [0] })]
    cmds := [(9, { sq := 1, io := { op := .write, cid := 1, nsid := 1 }, phase := .started, lo := 18446744073709551616, hi := 18446744073709551616, lock := true })]
    plinth := { mounted := true, exists_ := true }
    glb := { released := true } }

/-- A Deallocate of one LBA just beyond. -/
def farDeallocate : IoCmd := { op := .datasetManagement, cid := 7, nsid := 1, ad := true, ranges := [(18446744073709551617, 1)] }

/-- The state in which an entry that lands in I/O queue 1 of controller 0 is granted. -/
def grantOf (s : State) (io : IoCmd) : State := (arbGrant (landed s 0 1 io)).1

/-- What a grant in I/O queue 1 of controller 0 takes, as a check that runs. -/
def grantRuns (s : State) (io : IoCmd) (id : Nat) : Bool :=
  let u := grantOf s io
  fetches s (qk 0 1) && (getSq s (qk 0 1)).inflight == 0 && (arbGrant (landed s 0 1 io)).2 == some id && hasCmd u id &&
    (getCmd u id).phase == .granted && (getCmd u id).io == io && (getCmd u id).sq == qk 0 1 && !(fetchStopped u) &&
    !(portLost u 0) && (getSq u (qk 0 1)).frz.isNone && u.cmds.all (fun kv => kv.2.io.op != .flush || kv.1 == id)

theorem granted_of_runs {s : State} {io : IoCmd} {id : Nat} (h : grantRuns s io id = true) : Granted s 0 1 io (grantOf s io) id := by
  unfold grantRuns at h
  simp only [Bool.and_eq_true, beq_iff_eq, Bool.not_eq_true', Option.isNone_iff_eq_none, List.all_eq_true] at h
  obtain ⟨⟨⟨⟨⟨⟨⟨⟨⟨⟨hf, hq⟩, hg⟩, hh⟩, hp⟩, he⟩, hs⟩, hgo⟩, hup⟩, hz⟩, hn⟩ := h
  refine ⟨by decide, hf, hq, Prod.ext rfl hg, hh, hp, he, hs, by decide, by decide, hgo, hup, hz, fun kv hkv hop => ?_⟩
  have := hn kv hkv
  simpa [hop] using this

/-- Does a completion of the command `cid` wait on completion queue 1 of controller 0 in the next state? -/
def cqeRuns (o : Out) (cid : Nat) : Bool :=
  match o with
  | .next t => (getCq t (qk 0 (getSq t (qk 0 1)).cqid)).waiting.any (fun e => e.cid == cid)
  | _ => false

theorem cqeRuns_of_waits {o : Out} {t : State} {cid : Nat} {st : Status} (ho : o = .next t) (h : CqeWaits t 0 1 cid st) :
    cqeRuns o cid = true := by
  obtain ⟨e, he, hc, -⟩ := h
  rw [ho]
  exact List.any_eq_true.mpr ⟨e, he, by simpa using hc⟩

/-- Refutes O3: a Deallocate takes the least of its ranges' first LBAs and 2^64, so one that lies beyond 2^64 waits for the command
that holds LBA 2^64, with which it has no LBA in common. -/
theorem not_spanCommandsComplete : ¬ Obligations.SpanCommandsComplete := by
  intro h
  have hg : Granted wideNs 0 1 farDeallocate (grantOf wideNs farDeallocate) 1 := granted_of_runs (by decide +kernel)
  obtain ⟨-, hd, -⟩ := h (.datasetManagement 0 1 7 1 true [(18446744073709551617, 1)]) wideNs _ 0 1 1 farDeallocate rfl hg
    (by decide +kernel) (by decide +kernel) (by decide +kernel)
  obtain ⟨t, he, hw, -⟩ := hd 18446744073709551617 0 rfl (.inr ⟨by decide +kernel, rfl, by decide +kernel⟩)
  exact absurd (cqeRuns_of_waits he hw) (by decide +kernel)

end Sys2Proof.Machine
end
section
/-! PROOFS. Tables that hold two entries under one key: where the first becomes the default value it goes, and the second is
found in its place. -/

namespace Sys2Proof.Machine

/-- Two entries for niche 0, the second with 4,097 lost extents of namespace slot 1; two Full zones of slot 0 and an open zone of
slot 1 that fills a stripe. -/
def twoNiches : State :=
  { State.reset with
    board := { pgAon := true, railEn := 255, pg := 255, perst0 := false }
    boot := { phase := .released, fwSlot := 1 }
    arm := { src := 0, seq := 1, cfg :=
      { niches := [{ valid := true, weight := 1, calShare := 100, thermShare := 100, rankSet := 1, qbase := 1, qcount := 64 }] } }
    ports := [(0, { gen := 5, width := 8, dlup := true })]
    ctrls := [(0, { en := true, rdy := true, allot := 8 })]
    sqs := [(0, { live := true, size := 16 }), (1, { live := true, size := 16, cqid := 1 })]
    cqs := [(0, { live := true, size := 16, ien := true }), (1, { live := true, size := 16 })]
    ns := [(0, { live := true, attr := { valid := true, nsid := 1, zoned := true, size := 4 }, attached := [0] })
          , (1, { live := true, attr := { valid := true, nsid := 2, zoned := true, size := 4 } })]
    zones := [(zk 0 0, { st := .full }), (zk 0 1, { st := .full }), (zk 1 0, { st := .implicit, fill := some 3 })]
    niches := [(0, {}), (0, { lost := List.replicate 4097 (1, 0, 0) })]
    plinth := { mounted := true, exists_ := true }
    glb := { released := true } }

def resetAll : IoCmd := { op := .zoneReset, cid := 7, nsid := 1, selectAll := true }

/-- The state of a zone in the next state. -/
def nextZone (o : Out) (k : Nat) : Option Zone :=
  match o with
  | .next t => some (getZone t k)
  | _ => none

/-- A die in the next state. -/
def nextDie (o : Out) (k : Nat) : Option Die :=
  match o with
  | .next t => some (getDie t k)
  | _ => none

/-- Refutes O4: the reset of the first zone takes the default entry of the niche away, that of the second finds 4,097 lost extents
beside it, makes the niche read-only and finishes the open zone of the other namespace. -/
theorem not_zoneActionsComplete : ¬ Obligations.ZoneActionsComplete := by
  intro h
  have hg : Granted twoNiches 0 1 resetAll (grantOf twoNiches resetAll) 1 := granted_of_runs (by decide +kernel)
  obtain ⟨-, -, -, hall⟩ := h (.zoneReset 0 1 7 1 0 true) twoNiches _ 0 1 1 resetAll rfl hg (by decide +kernel)
  obtain ⟨t, he, -, -, -, hother⟩ := hall rfl (by decide +kernel) (by decide +kernel) (by decide +kernel) (by decide +kernel)
    (fun _ => by decide +kernel) (.inr (.inr (.inl rfl)))
  have hz : getZone t (zk 1 0) = getZone twoNiches (zk 1 0) := hother 1 0 (by decide) (fun e => absurd e (by decide +kernel))
  have hn : nextZone (exec (.zoneReset 0 1 7 1 0 true) twoNiches) (zk 1 0) = some (getZone twoNiches (zk 1 0)) := by
    rw [he, nextZone, hz]
  exact absurd hn (by decide +kernel)

/-- An urgent read waits for a die with two entries, the second with an erase suspended. -/
def twoDies : State :=
  { State.reset with
    boot := { phase := .released }
    cmds := [(5, { phase := .started })]
    reads := [(1, { own := .cmd 5 0, cls := 0, st := .wait })]
    dies := [(0, { suspRd := some 1 }), (0, { susp := some (.erase 0) })] }

/-- Refutes O15: the die's entry becomes the default one as it forgets the read it was suspended for, and the read starts on the
second entry, over the erase suspended there. -/
theorem not_suspensionsAndUrgentReads : ¬ Obligations.SuspensionsAndUrgentReads := by
  intro h
  obtain ⟨-, hurgent⟩ := h
  obtain ⟨hidle, -, -⟩ := hurgent twoDies 5 1 (by decide +kernel) (by decide +kernel) (by decide +kernel) (by decide +kernel)
    (by decide +kernel) (by decide +kernel) (by decide +kernel) (by decide +kernel)
    (fun j hj hne => absurd hne (by revert j; decide +kernel)) (by decide +kernel) (by decide +kernel)
  obtain ⟨t, he, -, hs, -⟩ := hidle (by decide +kernel) (by decide +kernel) (by decide +kernel)
  have hn : (nextDie (exec (.urgentReadGrant 5) twoDies) 0).map (·.susp) = some none := by
    rw [he, nextDie]
    exact congrArg some hs
  exact absurd hn (by decide +kernel)

/-- A die with two entries programs the copy of row 1, the second entry with a bad block. -/
def twoCopies : State :=
  { State.reset with
    boot := { phase := .released }
    arm := { src := 0, seq := 1, cfg := { spare := 1 } }
    rows := [(rk 0 1, { dest := some 2 })]
    dies := [(0, { op := .copy 1 }), (0, { bad := [7] })] }

/-- Refutes O20: the die's entry becomes the default one as its program ends, and the failed block joins the bad blocks of the
second entry. -/
theorem not_rowsRecastAndCollected : ¬ Obligations.RowsRecastAndCollected := by
  intro h
  obtain ⟨hrecast, -⟩ := h
  obtain ⟨-, -, -, -, -, hfail, -⟩ := hrecast twoCopies 0 1
  obtain ⟨t, he, -, hbad, -⟩ := hfail 0 2 0 (by decide +kernel) (by decide +kernel) (by decide +kernel) (by decide +kernel)
    (by decide +kernel) (by decide +kernel) (by decide +kernel)
  have hn : (nextDie (exec (.statusPoll 0 0 .failed) twoCopies) 0).map (·.bad) =
      some ((getDie twoCopies (dk 0 0)).bad ++ [blockOf (getDie twoCopies (dk 0 0)) 2]) := by
    rw [he, nextDie]
    exact congrArg some hbad
  exact absurd hn (by decide +kernel)

end Sys2Proof.Machine
end
section
/-! PROOFS. Entries that are posted and vectors that are signalled (R115 to R118); token buckets and re-evaluation (R192, R208). -/

namespace Sys2Proof.Machine

/-! ### Two writes of one key -/

theorem tset_from_above {α : Type} [DecidableEq α] (d : α) (r : List (Nat × α)) {lo i : Nat} (v : α) (h : i ≤ lo)
    (w : twfFrom d (some lo) r = true) : tset d r i v = if v = d then r else (i, v) :: r := by
  cases r with
  | nil => rfl
  | cons x r =>
    obtain ⟨k, y⟩ := x
    rw [twfFrom_cons] at w
    have hk : lo < k := by simpa [above] using w.1
    rw [tset, if_pos (h.trans_lt hk)]

theorem tsetFrom_tset {α : Type} [DecidableEq α] (d : α) (t : List (Nat × α)) (lo : Option Nat) (i : Nat) (w : α)
    (h : twfFrom d lo t = true) : tset d (tset d t i d) i w = tset d t i w := by
  induction t generalizing lo with
  | nil => simp [tset]
  | cons x r ih =>
    obtain ⟨k, y⟩ := x
    rw [twfFrom_cons] at h
    obtain ⟨-, -, hr⟩ := h
    by_cases h1 : i < k
    · simp [tset, h1]
    · by_cases h2 : i = k
      · subst h2
        simp only [tset, lt_irrefl, if_false, if_true]
        exact tset_from_above d r w le_rfl hr
      · simp only [tset, h1, h2, if_false]
        rw [ih (some k) hr]

/-- In a table in canonical form the later of two writes of one key stands, the default too. -/
theorem tset_tset_wf {α : Type} [DecidableEq α] (d : α) {t : List (Nat × α)} (i : Nat) (v w : α) (h : twf d t = true) :
    tset d (tset d t i v) i w = tset d t i w := by
  by_cases hv : v = d
  · rw [hv]
    exact tsetFrom_tset d t none i w h
  · exact tset_tset d t i v w hv

/-! ### Tokens and re-evaluation (R192, R208) -/

theorem commEvent_dCap (s : State) (h code : Nat) : (commEvent s h code).cms.dCap = s.cms.dCap := by
  unfold commEvent
  dsimp only
  split
  · rfl
  · obtain ⟨a, b, hr⟩ := raiseAll_only (if (code == 3) = true then _ else nchSet (glbSet _ 6) (handleNiche h) (if (code == 4) = true then 3 else code))
      (ctrlsOf (if (code == 3) = true then _ else nchSet (glbSet _ 6) (handleNiche h) (if (code == 4) = true then 3 else code)) (handleNiche h))
      (vendor code 0xC1)
    rw [hr]
    split <;> rfl

theorem reevalOne_notes (s : State) (l : List Charge) (left h : Nat) :
    Noted s (reevalOne s l left h).1 ∧ (reevalOne s l left h).1.cms.dCap = s.cms.dCap :=
  ⟨(noted_setComm s h _).trans (noted_commEvent _ _ _), commEvent_dCap _ _ _⟩

theorem reevalWalk_notes (hs : List Nat) (l : List Charge) (left : Nat) (s : State) :
    Noted s (reevalWalk hs l left s) ∧ (reevalWalk hs l left s).cms.dCap = s.cms.dCap := by
  induction hs generalizing l left s with
  | nil => exact ⟨.refl s, rfl⟩
  | cons h t ih =>
    obtain ⟨hn, hd⟩ := reevalOne_notes s l left h
    obtain ⟨hn', hd'⟩ := ih ((reevalOne s l left h).2 :: l) (left - (reevalOne s l left h).2.resv5) (reevalOne s l left h).1
    exact ⟨hn.trans hn', hd'.trans hd⟩

theorem noted_comms (s : State) (l : List (Nat × Comm)) (c : Cms) : Noted s { s with comms := l, cms := c } := ⟨rfl, fun _ h => h⟩

theorem reevaluate_notes (s : State) : Noted s (reevaluate s) ∧ (reevaluate s).cms.dCap = dCap s := by
  unfold reevaluate
  dsimp only
  generalize hu : ({ s with comms := tmap {} s.comms _, cms := { s.cms with dCap := dCap s } } : State) = u
  have h0 : Noted s u := by
    rw [← hu]
    exact noted_comms s _ _
  have h1 : u.cms.dCap = dCap s := by rw [← hu]
  obtain ⟨hn, hd⟩ := reevalWalk_notes (walkOrder u) [] (dCap s * 1048576) u
  exact ⟨h0.trans hn, hd.trans h1⟩

theorem commLive_iff (c : Comm) : commLive c = true ↔ c.used = true ∧ c.st ≠ .closed := by
  unfold commLive
  simp

/-- Settles O14: the walk of a re-evaluation touches what is noted alone. -/
theorem tokensAndReevaluation : Obligations.TokensAndReevaluation := by
  unfold Obligations.TokensAndReevaluation
  have hstd (s : State) : exec .standardLimitTokenRefill s = .next { s with
      thm := if s.thm.stage = 0 then s.thm else { s.thm with stdTokens := min (s.thm.stdTokens + stdLimit s.thm.stage) 8388608 }
      pm := if s.pm.ps = 2 then { s.pm with ps2 := min (s.pm.ps2 + 2000) 8388608 } else s.pm } := by
    show execStandardLimitTokenRefill s = _
    unfold execStandardLimitTokenRefill ok
    simp only [beq_iff_eq]
    rfl
  refine ⟨?_, ?_, ?_, hstd, ?_, ?_⟩
  · intro s
    show execCommissionTokenRefill s = _
    unfold execCommissionTokenRefill ok
    simp only [commLive_iff]
  · intro s h1 h2
    rw [hstd, if_neg h1, if_pos h2]
  · intro s h1 h2
    rw [hstd, if_pos h1, if_neg h2]
  · intro s h
    show execReEvaluation s = _
    unfold execReEvaluation
    rw [h]
    rfl
  · intro s h
    have he : exec .reEvaluation s = .next { reevaluate s with
        cms := { (reevaluate s).cms with reeval := s.cms.again, again := false } } := by
      show execReEvaluation s = _
      unfold execReEvaluation
      rw [h]
      rfl
    obtain ⟨hn, hd⟩ := reevaluate_notes s
    exact ⟨_, he, hd, rfl, rfl, hn.zones, hn.sectors, hn.pool, hn.guarded⟩

/-! ### Entries and vectors (R115 to R118, R84) -/

/-- A signalled vector is sent a message, or stays pending where a mask holds it. -/
def signalled (x : Ctrl) (n : Nat) : Ctrl :=
  if x.fmask = false ∧ x.unmasked.contains n = true then { x with msgs := x.msgs + 1 }
  else { x with pend := if x.pend.contains n then x.pend else x.pend ++ [n] }

theorem sendMsg_signals (s : State) (c n : Nat) :
    sendMsg s c n = { s with ctrls := tset {} s.ctrls c (signalled (getCtrl s c) n) } := by
  unfold sendMsg signalled
  dsimp only
  by_cases hx : (getCtrl s c).fmask = false ∧ (getCtrl s c).unmasked.contains n = true
  · rw [if_pos hx, if_pos (by rw [hx.1, hx.2]; rfl)]
    rfl
  · rw [if_neg hx, if_neg (by simpa using hx)]
    rfl

theorem interrupt_off {s : State} {c q : Nat} (h : (getCq s (qk c q)).ien = false) : interrupt s c q = s := by
  unfold interrupt
  dsimp only
  rw [h]
  rfl

theorem interrupt_direct {s : State} {c q : Nat} (h : (getCq s (qk c q)).ien = true)
    (hd : q = 0 ∨ (getCtrl s c).coal % 256 = 0 ∨ tget 0 (getCtrl s c).ivConf (getCq s (qk c q)).iv ≠ 0) :
    interrupt s c q = { s with ctrls := tset {} s.ctrls c (signalled (getCtrl s c) (getCq s (qk c q)).iv) } := by
  unfold interrupt
  dsimp only
  rw [h, if_neg (by simp), if_pos (by simpa [or_assoc] using hd), sendMsg_signals]

/-- A vector whose entries are counted: below the threshold the count rises, above it the vector is signalled. -/
theorem interrupt_counts {s : State} {c q : Nat} (h : (getCq s (qk c q)).ien = true) (hq : q ≠ 0)
    (hc : (getCtrl s c).coal % 256 ≠ 0) (hv : tget 0 (getCtrl s c).ivConf (getCq s (qk c q)).iv = 0) :
    let x := getCtrl s c
    let v := (getCq s (qk c q)).iv
    let n := tget 0 x.coalCnt v + 1
    interrupt s c q = if n ≤ x.coal % 256 then { s with ctrls := tset {} s.ctrls c { x with coalCnt := tset 0 x.coalCnt v n } }
      else { s with ctrls := tset {} s.ctrls c (signalled { x with coalCnt := tset 0 x.coalCnt v 0 } v) } := by
  intro x v n
  have hd : (q == 0 || x.coal % 256 == 0 || tget 0 x.ivConf v != 0) = false := by
    simp only [Bool.or_eq_false_iff, beq_eq_false_iff_ne, bne_eq_false_iff_eq]
    exact ⟨⟨hq, hc⟩, hv⟩
  have hne : ({ x with coalCnt := tset 0 x.coalCnt v 0 } : Ctrl) ≠ {} := fun e => hc (by
    have : x.coal = 0 := congrArg Ctrl.coal e
    show x.coal % 256 = 0
    rw [this])
  unfold interrupt
  dsimp only
  rw [h, if_neg (by simp), hd, if_neg Bool.false_ne_true]
  split
  · rfl
  · rw [sendMsg_signals]
    have hg : getCtrl (setCtrl s c { x with coalCnt := tset 0 x.coalCnt v 0 }) c = { x with coalCnt := tset 0 x.coalCnt v 0 } :=
      tget_tset_same _ _ _ _ hne
    have ht := tset_tset ({} : Ctrl) s.ctrls c { x with coalCnt := tset 0 x.coalCnt v 0 }
      (signalled { x with coalCnt := tset 0 x.coalCnt v 0 } v) hne
    rw [hg]
    exact congrArg (fun l => ({ s with ctrls := l } : State)) ht

/-- The completion queue once the oldest entry that waits has gone to its ring. -/
def posted (v : Cq) (e : Cqe) (r : List Cqe) : Cq :=
  { v with
    waiting := r, ring := v.ring ++ [e], tail := if v.tail + 1 = v.size then 0 else v.tail + 1
    phase := if v.tail + 1 = v.size then !v.phase else v.phase }

theorem cqePosting_posts {s : State} {c q : Nat} {e : Cqe} {r : List Cqe} (hw : (getCq s (qk c q)).waiting = e :: r)
    (hp : portLost s c = false) (hl : (getCq s (qk c q)).live = true)
    (hs : (getCq s (qk c q)).ring.length + 1 < (getCq s (qk c q)).size) :
    exec (.cqePosting c q) s = .next (interrupt (setCq s (qk c q) (posted (getCq s (qk c q)) e r)) c q) := by
  show execCqePosting c q s = _
  unfold execCqePosting
  dsimp only
  rw [hw]
  dsimp only
  rw [hp, if_neg Bool.false_ne_true, if_neg (by simpa [hl] using hs)]
  unfold posted ok
  simp only [beq_iff_eq]

theorem getCq_posted (s : State) (k : Nat) (v : Cq) (e : Cqe) (r : List Cqe) : getCq (setCq s k (posted v e r)) k = posted v e r :=
  tget_tset_same _ _ _ _ fun h => absurd (congrArg Cq.ring h) (by simp [posted])

theorem freezeLog_stays {s : State} {c q : Nat} (h : ∀ f, (getSq s (qk c q)).frz = some f → f.logged = true ∨ (getSq s (qk c q)).inflight ≠ 0) :
    exec (.queueFreezeLogEntry c q) s = .next s := by
  show execQueueFreezeLogEntry c q s = _
  unfold execQueueFreezeLogEntry
  dsimp only
  split
  · next f hf => rw [if_pos (by simpa using h f hf)]; rfl
  · rfl

theorem pumpEvs_frzGen (c n : Nat) (s : State) : (getCtrl (pumpEvs s c n) c).frzGen = (getCtrl s c).frzGen := by
  induction n generalizing s with
  | zero => rfl
  | succ n ih =>
    unfold pumpEvs
    dsimp only
    split
    · next cid rest e _ _ =>
      rw [ih]
      show (getCtrl (setCtrl s c { getCtrl s c with
        aers := rest, evs := (getCtrl s c).evs.erase e, waitLog := (getCtrl s c).waitLog ++ [e] }) c).frzGen = _
      rw [getCtrl_setCtrl_same _ _ _ fun h => absurd (congrArg Ctrl.waitLog h) (by simp)]
    · rfl

theorem raiseOn_frzGen (s : State) (c : Nat) (e : Ev) : (getCtrl (raiseOn s c e) c).frzGen = (getCtrl s c).frzGen := by
  unfold raiseOn
  dsimp only
  rw [pumpEvs_frzGen]
  generalize (if (getCtrl s c).waitLog.any (sameKind e) = true then 1 else 2) = lim
  split
  · rw [getCtrl_setCtrl_same _ _ _ fun h => absurd (congrArg Ctrl.evs h) (by simp)]
  · rfl

theorem freezeLog_logs {s : State} {c q : Nat} {f : Frz} (hf : (getSq s (qk c q)).frz = some f) (hl : f.logged = false)
    (hi : (getSq s (qk c q)).inflight = 0) :
    ∃ t, exec (.queueFreezeLogEntry c q) s = .next t ∧
      t.sqs = tset {} s.sqs (qk c q) { getSq s (qk c q) with frz := some { f with logged := true, head := (getSq s (qk c q)).head } } ∧
      (getCtrl t c).frzGen = (getCtrl s c).frzGen + 1 ∧ t.cmds = s.cmds ∧ t.zones = s.zones ∧ guarded t = guarded s := by
  generalize hv : getSq s (qk c q) = v at hf hi ⊢
  generalize hs1 : setSq s (qk c q) { v with frz := some { f with logged := true, head := v.head } } = s1
  have he : exec (.queueFreezeLogEntry c q) s =
      .next (raiseOn (setCtrl s1 c { getCtrl s1 c with frzGen := (getCtrl s1 c).frzGen + 1 }) c (vendor 0 0xC2)) := by
    show execQueueFreezeLogEntry c q s = _
    unfold execQueueFreezeLogEntry
    dsimp only
    rw [hv, hf]
    dsimp only
    rw [if_neg (by simp [hl, hi]), hs1]
    rfl
  generalize hu : setCtrl s1 c { getCtrl s1 c with frzGen := (getCtrl s1 c).frzGen + 1 } = u at he
  have hg : (getCtrl u c).frzGen = (getCtrl s c).frzGen + 1 := by
    rw [← hu, getCtrl_setCtrl_same _ _ _ fun h => absurd (congrArg Ctrl.frzGen h) (by simp), ← hs1]
    rfl
  have hn := noted_raiseOn u c (vendor 0 0xC2)
  obtain ⟨a, b, hr⟩ := raiseOn_only u c (vendor 0 0xC2)
  refine ⟨_, he, ?_, (raiseOn_frzGen u c _).trans hg, ?_, ?_, ?_⟩
  · rw [hr, ← hu, ← hs1]
    rfl
  · rw [hn.cmds, ← hu, ← hs1]
    rfl
  · rw [hn.zones, ← hu, ← hs1]
    rfl
  · rw [hn.guarded, ← hu, ← hs1]
    rfl

/-- Settles O13: `signalled` says what a signal leaves of a vector's controller, `posted` what a posting leaves of its queue. -/
theorem entriesPostedAndSignalled : Obligations.EntriesPostedAndSignalled := by
  unfold Obligations.EntriesPostedAndSignalled
  intro signal
  refine ⟨?_, ?_, ?_, ?_⟩
  · intro s c q v x
    refine ⟨fun h => ?_, fun e r hw => ?_⟩
    · show execCqePosting c q s = _
      unfold execCqePosting
      dsimp only
      rw [h]
      rfl
    intro w n
    refine ⟨fun hp => ?_, fun hp h => ?_, fun hp hl hs => ?_⟩
    · show execCqePosting c q s = _
      unfold execCqePosting
      dsimp only
      rw [hw]
      dsimp only
      rw [hp]
      rfl
    · show execCqePosting c q s = _
      unfold execCqePosting
      dsimp only
      rw [hw]
      dsimp only
      rw [hp, if_neg Bool.false_ne_true, if_pos (by simpa using h)]
      rfl
    · have he := cqePosting_posts hw hp hl hs
      have hg := getCq_posted s (qk c q) v e r
      refine ⟨fun hi => ?_, fun hi hd => ?_, fun hi hq hc hv => ⟨fun hle => ?_, fun hlt => ?_⟩⟩
      · rw [he, interrupt_off (by rw [hg]; exact hi)]
        rfl
      · rw [he, interrupt_direct (by rw [hg]; exact hi) (by rw [hg]; exact hd), hg]
        rfl
      · have hk := interrupt_counts (s := setCq s (qk c q) (posted v e r)) (c := c) (q := q) (by rw [hg]; exact hi) hq hc
          (by rw [hg]; exact hv)
        rw [hg] at hk
        rw [he, hk]
        exact congrArg Host.Outcome.next (if_pos hle)
      · have hk := interrupt_counts (s := setCq s (qk c q) (posted v e r)) (c := c) (q := q) (by rw [hg]; exact hi) hq hc
          (by rw [hg]; exact hv)
        rw [hg] at hk
        rw [he, hk]
        exact congrArg Host.Outcome.next (if_neg (Nat.not_le.mpr hlt))
  · intro s c n hw x
    refine ⟨fun h => ?_, fun h => ?_⟩
    · show execAggregationTimeExpiry c n s = _
      unfold execAggregationTimeExpiry
      dsimp only
      rw [if_pos (by simpa using h)]
      rfl
    · show execAggregationTimeExpiry c n s = _
      unfold execAggregationTimeExpiry
      dsimp only
      rw [if_neg (by simpa using h), sendMsg_signals]
      have hg : getCtrl (setCtrl s c { x with coalCnt := tset 0 x.coalCnt n 0 }) c = { x with coalCnt := tset 0 x.coalCnt n 0 } :=
        (tget_tset _ _ _ _ _ hw).trans (if_pos rfl)
      rw [hg]
      exact congrArg (fun l => Host.Outcome.next ({ s with ctrls := l } : State)) (tset_tset_wf _ c _ _ hw)
  · intro s c b x sent
    refine ⟨fun n => rfl, rfl, fun n hf hu hp => ?_⟩
    have hy : sent { x with unmasked := if x.unmasked.contains n then x.unmasked else x.unmasked ++ [n] } =
        { x with unmasked := x.unmasked ++ [n], pend := [], msgs := x.msgs + 1 } := by
      have hm : n ∉ x.unmasked := by simpa using hu
      simp [sent, hm, hp, hf]
    have he : exec (.msixVectorUnmask c (some n) false) s = .next { s with
        ctrls := tset {} s.ctrls c (sent { x with unmasked := if x.unmasked.contains n then x.unmasked else x.unmasked ++ [n] }) } := rfl
    rw [hy] at he
    have hget : getCtrl ({ s with ctrls := tset {} s.ctrls c { x with
        unmasked := x.unmasked ++ [n], pend := [], msgs := x.msgs + 1 } } : State) c =
        { x with unmasked := x.unmasked ++ [n], pend := [], msgs := x.msgs + 1 } :=
      tget_tset_same _ _ _ _ fun e => absurd (congrArg Ctrl.unmasked e) (by simp)
    exact ⟨_, he, by rw [hget], by rw [hget], by rw [hget], rfl⟩
  · intro s c q v
    exact ⟨freezeLog_stays, fun f hf hl hi => freezeLog_logs hf hl hi⟩

end Sys2Proof.Machine
end
section
/-! PROOFS. Fetches (R103), grants (R105, R107) and the start of a read (R111, R163). -/

namespace Sys2Proof.Machine

/-! ### Fetches (R101, R103) -/

theorem unfetched_none {q : Sq} (h : q.inflight = 0) (hs : q.size ≠ 0) : unfetched q = (q.tail + q.size - q.head) % q.size := by
  unfold unfetched
  rw [if_neg (by simpa using hs), h, Nat.sub_zero]

theorem fetchRequest_asks {s : State} {c q : Nat} (hq : q ≠ 0) (h16 : q < 65536) (hf : fetches s (qk c q) = true)
    (hi : (getSq s (qk c q)).inflight = 0) (hs : (getSq s (qk c q)).size ≠ 0) (hr : requestsOut s (portOf c) < 768) :
    exec (.sqFetchRequest c q) s = .next { s with sqs := tset {} s.sqs (qk c q) { getSq s (qk c q) with
      inflight := min (min (((getSq s (qk c q)).tail + (getSq s (qk c q)).size - (getSq s (qk c q)).head) % (getSq s (qk c q)).size)
          ((getSq s (qk c q)).size - (getSq s (qk c q)).head))
        (min (8 - (getSq s (qk c q)).staged.length)
          (min ((getPort s (portOf c)).mrrs / 64) (stageFree s (nicheOfSq s (qk c q))))) } } := by
  have hgo : (q == 0 || !(fetches s (qk c q)) || (getSq s (qk c q)).inflight != 0 || decide (768 ≤ requestsOut s (portOf c))) = false := by
    simp [hq, hf, hi, hr]
  have hn : fetchCount s (qk c q) = min (min (((getSq s (qk c q)).tail + (getSq s (qk c q)).size - (getSq s (qk c q)).head) %
      (getSq s (qk c q)).size) ((getSq s (qk c q)).size - (getSq s (qk c q)).head)) (min (8 - (getSq s (qk c q)).staged.length)
        (min ((getPort s (portOf c)).mrrs / 64) (stageFree s (nicheOfSq s (qk c q))))) := by
    unfold fetchCount
    dsimp only
    rw [unfetched_none hi hs, ctrlOfSq_qk c q h16]
  show execSqFetchRequest c q s = _
  unfold execSqFetchRequest
  dsimp only
  rw [hgo, if_neg Bool.false_ne_true, hn]
  rfl

theorem fetchCompletion_fetched {s : State} {c q : Nat} {l : List IoCmd} (hl : (getSq s (qk c q)).live = true)
    (hi : (getSq s (qk c q)).inflight ≠ 0) (hn : l.length = (getSq s (qk c q)).inflight) (hs : (getSq s (qk c q)).size ≠ 0) :
    exec (.sqFetchCompletion c q l) s =
      let v := getSq s (qk c q)
      let e := { v with inflight := 0, head := (v.head + v.inflight) % v.size }
      .next (if v.del.isSome = true then l.foldl (fun a io => ioCqe a (qk c q) io.cid .abortSqDel) (setSq s (qk c q) e)
        else l.foldl (fun a io => land a (qk c q) io) (setSq s (qk c q) e)) := by
  have hgo : (!(getSq s (qk c q)).live || (getSq s (qk c q)).inflight == 0 || l.length != (getSq s (qk c q)).inflight) = false := by
    simp [hl, hi, hn]
  show execSqFetchCompletion c q l s = _
  unfold execSqFetchCompletion
  dsimp only
  rw [hgo, if_neg Bool.false_ne_true, if_neg (show ¬ ((getSq s (qk c q)).size == 0) = true by simpa using hs)]
  split <;> rfl

/-- The entries of a queue that is deleted complete, and the queue itself is left alone. -/
theorem ioCqes_only (l : List IoCmd) (k : Nat) (st : Status) (s : State) : ∃ b,
    l.foldl (fun a io => ioCqe a k io.cid st) s = { s with cqs := b } := by
  induction l generalizing s with
  | nil => exact ⟨s.cqs, rfl⟩
  | cons io r ih =>
    obtain ⟨b, hb⟩ := ih (ioCqe s k io.cid st)
    exact ⟨b, hb⟩

theorem ioCqes_wait (l : List IoCmd) {c q : Nat} (h16 : q < 65536) (st : Status) (s : State) :
    (∀ c' q' cid' st', CqeWaits s c' q' cid' st' → CqeWaits (l.foldl (fun a io => ioCqe a (qk c q) io.cid st) s) c' q' cid' st') ∧
    ∀ io ∈ l, CqeWaits (l.foldl (fun a io => ioCqe a (qk c q) io.cid st) s) c q io.cid st := by
  induction l generalizing s with
  | nil => exact ⟨fun _ _ _ _ h => h, fun _ h => absurd h List.not_mem_nil⟩
  | cons io r ih =>
    have hio : ioCqe s (qk c q) io.cid st = schedule s c q io.cid st := by
      unfold ioCqe
      rw [ctrlOfSq_qk c q h16, qidOfSq_qk c q h16]
    obtain ⟨hk, hr⟩ := ih (ioCqe s (qk c q) io.cid st)
    rw [List.foldl_cons]
    refine ⟨fun c' q' cid' st' h => hk _ _ _ _ ?_, fun x hx => ?_⟩
    · rw [hio]
      exact h.schedule ..
    · rcases List.mem_cons.mp hx with rfl | hx
      · refine hk _ _ _ _ ?_
        rw [hio]
        exact cqeWaits_schedule ..
      · exact hr x hx

/-- Settles O7: the entries that come are staged, or complete where their queue is being deleted. -/
theorem fetchesBringEntries : Obligations.FetchesBringEntries := by
  unfold Obligations.FetchesBringEntries
  refine ⟨fun s c q hq h16 hf hi hs hr => fetchRequest_asks hq h16 hf hi hs hr, ?_⟩
  intro s c q l v e hl hi hn hs
  refine ⟨fun hz hd => ?_, fun hd => ?_⟩
  · rw [fetchCompletion_fetched hl hi hn hs]
    show Host.Outcome.next (if v.del.isSome = true then _ else _) = _
    rw [if_neg (show ¬ v.del.isSome = true by rw [hd]; simp)]
    exact congrArg Host.Outcome.next (land_fold l s (qk c q) e hl hz)
  · have he := fetchCompletion_fetched hl hi hn hs
    change _ = Host.Outcome.next (if v.del.isSome = true then l.foldl (fun a io => ioCqe a (qk c q) io.cid .abortSqDel) (setSq s (qk c q) e) else _) at he
    rw [hd, if_pos rfl] at he
    obtain ⟨b, hb⟩ := ioCqes_only l (qk c q) .abortSqDel (setSq s (qk c q) e)
    have hw := fun (_ : q ≠ 0) h16 => (ioCqes_wait l (c := c) (q := q) h16 .abortSqDel (setSq s (qk c q) e)).2
    rw [hb] at he hw
    exact ⟨_, he, rfl, rfl, rfl, rfl, hw⟩

/-! ### Grants (R105, R107) -/

theorem arbPick_nextCmd {s : State} {k : Nat} {a : Arb} (h : arbPick s = some (k, a)) : a.nextCmd = s.arb.nextCmd := by
  unfold arbPick at h
  dsimp only at h
  split at h
  · split at h
    · next n _ =>
      simp only [Option.map_eq_some_iff] at h
      obtain ⟨j, -, hj⟩ := h
      rw [← (Prod.mk.inj hj).2]
    · cases h
  · split at h
    · cases h
      rfl
    · cases h

theorem takeTokens_only (s : State) (n : Nat) (cl : Class) (io : IoCmd) :
    ∃ a b p, takeTokens s n cl io = { s with comms := a, thm := b, pm := p } := ⟨_, _, _, takeTokens_eq s n cl io⟩

/-- The command a grant makes. -/
def grantedCmd (s : State) (k : Nat) (io : IoCmd) : Cmd :=
  { sq := k, io := io, cls := (classOf s k io).cls, conf := (classOf s k io).conf, excess := (classOf s k io).excess
    phase := .granted, niche := nicheOfSq s k, slot := slotOr s (nicheOfSq s k) io.nsid
    order := s.arb.nextOrder, grantUs := s.nowUs, need := io.nlb + 1 }

theorem grantHead_grants {s : State} {k : Nat} {io : IoCmd} {r : List IoCmd} (hs : (getSq s k).staged = io :: r) :
    ∃ a b p c o, grantHead s k = { s with
      sqs := tset {} s.sqs k { getSq s k with staged := r }, comms := a, thm := b, pm := p, arb := c
      cmds := tset {} s.cmds s.arb.nextCmd { grantedCmd s k io with order := o } } ∧ c.nextCmd = s.arb.nextCmd + 1 := by
  obtain ⟨a, b, p, ht⟩ := takeTokens_only (setSq s k { getSq s k with staged := r }) (nicheOfSq s k) (classOf s k io) io
  unfold grantHead
  dsimp only
  rw [hs]
  dsimp only
  rw [ht]
  exact ⟨a, b, p, _, _, rfl, rfl⟩

theorem grant_takes {s : State} {k : Nat} {a : Arb} {io : IoCmd} {r : List IoCmd} (hp : arbPick s = some (k, a))
    (hs : (getSq s k).staged = io :: r) (hl : (getSq s k).live = true) :
    ∃ t, exec .arbiterGrant s = .next t ∧ (getSq t k).staged = r ∧
      (getCmd t s.arb.nextCmd).io = io ∧ (getCmd t s.arb.nextCmd).sq = k ∧
      (getCmd t s.arb.nextCmd).phase = .granted ∧ (getCmd t s.arb.nextCmd).need = io.nlb + 1 ∧
      t.arb.nextCmd = s.arb.nextCmd + 1 ∧ t.zones = s.zones ∧ t.sectors = s.sectors ∧ t.cqs = s.cqs ∧
      t.pool = s.pool ∧ guarded t = guarded s := by
  have hn := arbPick_nextCmd hp
  have he : exec .arbiterGrant s = .next (grantHead { s with arb := a } k) := by
    show execArbiterGrant s = _
    unfold execArbiterGrant arbGrant
    rw [hp]
    rfl
  obtain ⟨x, y, p, b, o, hg, hb⟩ := grantHead_grants (s := { s with arb := a }) hs
  rw [hg] at he
  have hsq : getSq { s with sqs := tset {} s.sqs k { getSq s k with staged := r } } k = { getSq s k with staged := r } :=
    tget_tset_same _ _ _ _ fun e => by
      have : (getSq s k).live = false := congrArg Sq.live e
      rw [hl] at this
      cases this
  have hcmd : getCmd { s with cmds := tset {} s.cmds a.nextCmd { grantedCmd { s with arb := a } k io with order := o } } a.nextCmd =
      { grantedCmd { s with arb := a } k io with order := o } :=
    tget_tset_same _ _ _ _ fun e => absurd (congrArg Cmd.need e) (Nat.succ_ne_zero _)
  rw [← hn]
  exact ⟨_, he, congrArg Sq.staged hsq, congrArg Cmd.io hcmd, congrArg Cmd.sq hcmd, congrArg Cmd.phase hcmd, congrArg Cmd.need hcmd,
    hb, rfl, rfl, rfl, rfl, rfl⟩

/-! ### The start of a read (R111, R163, R284) -/

/-- The command of a read that has started. -/
def startedRead (s : State) (c : Cmd) : Cmd :=
  { c with
    phase := .started, lo := c.io.slba, hi := c.io.slba + c.io.nlb, lock := true, excl := false, wslot := false, zone := none
    want := requests (getNs s c.slot).fmt false (readRooms s c.slot c.io.slba (c.io.nlb + 1)) (c.io.nlb + 1) }

theorem startRead_starts {s : State} {id : Nat} (hc : conflicts s (getCmd s id).slot (getCmd s id).io.slba
      ((getCmd s id).io.slba + (getCmd s id).io.nlb) false = false)
    (hl : lockAvail s (getCmd s id).niche = true)
    (hz : zonedAt s (getCmd s id).slot = true →
      zoneOfLba s (getCmd s id).slot (getCmd s id).io.slba =
        zoneOfLba s (getCmd s id).slot ((getCmd s id).io.slba + (getCmd s id).io.nlb) ∧
      (getZone s (zk (getCmd s id).slot (zoneOfLba s (getCmd s id).slot (getCmd s id).io.slba))).st ≠ .offline)
    (hn : lostIn s (getCmd s id).slot (getCmd s id).io.slba ((getCmd s id).io.nlb + 1) = 0) :
    startRead s id = setCmd s id (startedRead s (getCmd s id)) := by
  have h2 : (zonedAt s (getCmd s id).slot && zoneOfLba s (getCmd s id).slot (getCmd s id).io.slba !=
      zoneOfLba s (getCmd s id).slot ((getCmd s id).io.slba + (getCmd s id).io.nlb)) = false := by
    by_cases h : zonedAt s (getCmd s id).slot = true
    · simp [h, (hz h).1]
    · simp [h]
  have h3 : (zonedAt s (getCmd s id).slot &&
      (getZone s (zk (getCmd s id).slot (zoneOfLba s (getCmd s id).slot (getCmd s id).io.slba))).st == .offline) = false := by
    by_cases h : zonedAt s (getCmd s id).slot = true
    · simp [h, (hz h).2]
    · simp [h]
  unfold startRead
  dsimp only
  rw [hc, hl, if_neg (by simp), h2, if_neg Bool.false_ne_true, h3, if_neg Bool.false_ne_true, hn, if_neg (lt_irrefl 0)]
  unfold markStarted
  rw [get_set_cmd _ _ _ rfl]
  exact congrArg (fun l => ({ s with cmds := l } : State)) (tset_tset _ _ _ _ _ (started_ne rfl))

theorem getCmd_startedRead (s : State) (id : Nat) : getCmd (setCmd s id (startedRead s (getCmd s id))) id = startedRead s (getCmd s id) :=
  get_set_cmd _ _ _ rfl

/-- Settles O2: `startedRead` is the command as its start leaves it. -/
theorem readsStart : Obligations.ReadsStart := by
  unfold Obligations.ReadsStart
  intro i s u c q id io hrow hread g hchk m hc hl hz hn
  have hio : m.io = io := g.entry
  have he := row_exec hrow g
  have ht := try_op g hchk
  have hop : io.op = .read ∨ io.op = .compare ∨ io.op = .verify := by
    revert hread
    cases io.op <;> simp [isRead]
  have hs : startRead u id = setCmd u id (startedRead u m) := startRead_starts (by rw [← hio] at hc; exact hc) hl (by rw [← hio] at hz; exact hz)
    (by rw [← hio] at hn; exact hn)
  have ht' : startCmd.tryStart u id = setCmd u id (startedRead u m) := by
    rcases hop with h | h | h <;> rw [ht, h] <;> exact hs
  have hgo := start_go g (.inr (by rw [ht']; exact congrArg Cmd.phase (getCmd_startedRead u id)))
  rw [hgo, ht'] at he
  have hget : getCmd (noted (setCmd u id (startedRead u m)) m.niche u.nowUs) id = startedRead u m := getCmd_startedRead u id
  have hu := granted_eq g
  refine ⟨_, he, ?_, ?_, ?_, ?_, ?_, ?_, ?_, ?_, ?_, ?_⟩
  · rw [hget]; rfl
  · rw [hget, ← hio]; rfl
  · rw [hget, ← hio]; rfl
  · rw [hget]; rfl
  · rw [hget]; rfl
  · rw [hget, ← hio]; rfl
  · rw [hu]; rfl
  · rw [hu]; rfl
  · rw [hu]; rfl
  · rw [hu]; rfl

theorem tryStart_reads {u : State} {id : Nat} (hp : (getCmd u id).phase = .granted) (hs : fetchStopped u = false)
    (hf : (getSq u (getCmd u id).sq).frz = none) (hl : portLost u (ctrlOfSq (getCmd u id).sq) = false)
    (hc : ioCheck u (getCmd u id) = none) (hr : isRead (getCmd u id).io.op = true) :
    startCmd.tryStart u id = startRead u id := by
  have hop : (getCmd u id).io.op = .read ∨ (getCmd u id).io.op = .compare ∨ (getCmd u id).io.op = .verify := by
    revert hr
    cases (getCmd u id).io.op <;> simp [isRead]
  unfold startCmd.tryStart
  dsimp only
  rw [hp, hs, hf, hl, if_neg (by simp), hc]
  rcases hop with h | h | h <;> rw [h]

/-- Settles O8: `grantedCmd` is the command a grant makes, `startedRead` the read as its start leaves it. -/
theorem grantsAndStarts : Obligations.GrantsAndStarts := by
  unfold Obligations.GrantsAndStarts
  refine ⟨fun s k a io r hp hs hl => grant_takes hp hs hl, ?_⟩
  intro u id m hh hp hst hf hlost hchk hr hz hl hc hn
  have ht : startCmd.tryStart u id = setCmd u id (startedRead u m) := (tryStart_reads hp hst hf hlost hchk hr).trans
    (startRead_starts hc hl (fun h => by rw [hz] at h; cases h) hn)
  have hget : getCmd (setCmd u id (startedRead u m)) id = startedRead u m := getCmd_startedRead u id
  have he : exec (.commandStart id) u = .next (noted (setCmd u id (startedRead u m)) m.niche u.nowUs) := by
    show execCommandStart id u = _
    unfold execCommandStart startCmd
    dsimp only
    rw [if_pos hh, hh, if_neg (by simp), ht, hget, if_pos (by simp [startedRead])]
    rfl
  have hget' : getCmd (noted (setCmd u id (startedRead u m)) m.niche u.nowUs) id = startedRead u m := hget
  exact ⟨_, he, congrArg Cmd.phase hget', congrArg Cmd.lock hget', congrArg Cmd.excl hget', congrArg Cmd.lo hget',
    congrArg Cmd.hi hget', rfl, rfl, rfl⟩

end Sys2Proof.Machine
end
section
/-! SUPPORT. What the end of a command leaves: entries wait on, no command comes, the data stand; and the queue it freezes. -/

namespace Sys2Proof.Machine

/-- From `s` to `t` commands end: entries are added to those that wait, no command comes, SQs and data stand. -/
structure Ends (s t : State) : Prop where
  waits : ∀ k, (getCq s k).waiting <+: (getCq t k).waiting
  sqs : t.sqs = s.sqs
  cmds : ∀ kv ∈ t.cmds, kv ∈ s.cmds
  sectors : t.sectors = s.sectors

namespace Ends

theorem refl (s : State) : Ends s s := ⟨fun _ => List.prefix_refl _, rfl, fun _ h => h, rfl⟩

theorem trans {s t u : State} (h : Ends s t) (k : Ends t u) : Ends s u :=
  ⟨fun j => (h.waits j).trans (k.waits j), k.sqs.trans h.sqs, fun kv hkv => h.cmds kv (k.cmds kv hkv), k.sectors.trans h.sectors⟩

theorem ite {s a b : State} {p : Prop} [Decidable p] (ha : Ends s a) (hb : Ends s b) : Ends s (if p then a else b) := by
  split <;> assumption

theorem foldl {β : Type} (f : State → β → State) (l : List β) (s : State) (h : ∀ a x, Ends a (f a x)) : Ends s (l.foldl f s) :=
  List.foldlRecOn l f (refl s) fun a ha x _ => ha.trans (h a x)

/-- A step on neither queues nor commands nor data. -/
theorem of_eq {s t : State} (hq : t.cqs = s.cqs) (hs : t.sqs = s.sqs) (hc : t.cmds = s.cmds) (hd : t.sectors = s.sectors) : Ends s t :=
  ⟨fun k => by unfold getCq; rw [hq], hs, fun kv hkv => hc ▸ hkv, hd⟩

theorem cqeWaits {s t : State} (h : Ends s t) {c q cid : Nat} {st : Status} (hw : CqeWaits s c q cid st) : CqeWaits t c q cid st := by
  obtain ⟨e, he, h1⟩ := hw
  refine ⟨e, ?_, h1⟩
  have hcq : (getSq t (qk c q)).cqid = (getSq s (qk c q)).cqid := by unfold getSq; rw [h.sqs]
  rw [hcq]
  exact (h.waits _).subset he

theorem getSq {s t : State} (h : Ends s t) (k : Nat) : getSq t k = getSq s k := by
  unfold Machine.getSq
  rw [h.sqs]

theorem noFlush {s t : State} (h : Ends s t) {id : Nat} (hf : ∀ kv ∈ s.cmds, kv.2.io.op = .flush → kv.1 = id) :
    ∀ kv ∈ t.cmds, kv.2.io.op = .flush → kv.1 = id := fun kv hkv => hf kv (h.cmds kv hkv)

theorem gone {s t : State} (h : Ends s t) {id : Nat} (hf : hasCmd s id = false) : hasCmd t id = false := by
  refine List.any_eq_false.mpr fun kv hkv => ?_
  exact List.any_eq_false.mp hf kv (h.cmds kv hkv)

end Ends

theorem ends_schedule (s : State) (c q cid : Nat) (st : Status) (dw0 dw1 : Nat) (data : List Fld) :
    Ends s (schedule s c q cid st dw0 dw1 data) := by
  obtain ⟨k, hk⟩ := getCq_schedule s c q cid st dw0 dw1 data
  refine ⟨fun j => ?_, rfl, fun _ h => h, rfl⟩
  rw [hk]
  by_cases e : j = k
  · rw [if_pos e, e]
    exact List.prefix_append _ _
  · rw [if_neg e]

theorem ends_ioCqe (s : State) (k cid : Nat) (st : Status) : Ends s (ioCqe s k cid st) := ends_schedule ..

theorem ends_setCtrl (s : State) (c : Nat) (v : Ctrl) : Ends s (setCtrl s c v) := .of_eq rfl rfl rfl rfl

theorem ends_pumpEvs (c n : Nat) (s : State) : Ends s (pumpEvs s c n) := by
  induction n generalizing s with
  | zero => exact .refl s
  | succ n ih =>
    unfold pumpEvs
    dsimp only
    split
    · exact ((ends_setCtrl s c _).trans (ends_schedule ..)).trans (ih _)
    · exact .refl s

theorem ends_raiseOn (s : State) (c : Nat) (e : Ev) : Ends s (raiseOn s c e) :=
  (Ends.ite (ends_setCtrl s c _) (.refl s)).trans (ends_pumpEvs c 8 _)

theorem ends_raiseAll (s : State) (cs : List Nat) (e : Ev) : Ends s (raiseAll s cs e) := .foldl _ cs s fun a c => ends_raiseOn a c e

theorem ends_zoneChanged (s : State) (i z : Nat) : Ends s (zoneChanged s i z) := by
  unfold zoneChanged raiseStd
  dsimp only
  refine Ends.trans ?_ (ends_raiseAll _ _ _)
  exact .ite (.refl s) (.of_eq rfl rfl rfl rfl)

theorem ends_completeStripe (s : State) (sid : Nat) (padded : Bool) : Ends s (completeStripe s sid padded) := by
  unfold completeStripe
  dsimp only
  split
  · exact .ite (.of_eq rfl rfl rfl rfl) (.of_eq rfl rfl rfl rfl)
  · exact .of_eq rfl rfl rfl rfl

theorem ends_setZone (s : State) (k : Nat) (v : Zone) : Ends s (setZone s k v) := .of_eq rfl rfl rfl rfl

theorem ends_terminalPad (s : State) (i z : Nat) : Ends s (terminalPad s i z) := by
  unfold terminalPad
  split
  · exact (ends_completeStripe _ _ _).trans (ends_setZone _ _ _)
  · exact .refl s

theorem ends_finishByController (s : State) (i z : Nat) : Ends s (finishByController s i z) :=
  ((ends_terminalPad s i z).trans (ends_setZone _ _ _)).trans (ends_zoneChanged _ i z)

theorem ends_slotFreed (s : State) (c : Cmd) : Ends s (slotFreed s c) := by
  unfold slotFreed
  split
  · exact .ite (.refl s) (.ite ((ends_setZone _ _ _).trans (ends_finishByController _ _ _)) (ends_setZone _ _ _))
  · exact .refl s

theorem ends_releaseBufs (s : State) (l : List Nat) : Ends s (releaseBufs s l) := by
  rw [releaseBufs_eq]
  exact .of_eq rfl rfl rfl rfl

theorem ends_dropReads (s : State) (p : Owner → Bool) : Ends s (dropReads s p) := by
  rw [dropReads_eq]
  exact .of_eq rfl rfl rfl rfl

theorem ends_delCmd (s : State) (i : Nat) : Ends s (delCmd s i) ∧ hasCmd (delCmd s i) i = false :=
  ⟨⟨fun _ => List.prefix_refl _, rfl, fun _ h => List.mem_of_mem_filter h, rfl⟩, by simp [hasCmd, delCmd, tdrop]⟩

/-- A command that goes leaves its SQ and the data, and the finish that waited for it adds entries only. -/
theorem ends_discard (s : State) (id : Nat) : Ends s (discard s id) ∧ hasCmd (discard s id) id = false := by
  unfold discard
  dsimp only
  generalize hs1 : unqueueCmd (dropReads s (fun o => match o with | .cmd i _ => i == id | _ => false)) id = s1
  have h1 : Ends s s1 := by
    rw [← hs1]
    exact (ends_dropReads s _).trans (.of_eq rfl rfl rfl rfl)
  have h2 := h1.trans (ends_releaseBufs s1 (ownedBufs s1 id))
  change Ends s (freeCmdBufs s1 id) at h2
  generalize freeCmdBufs s1 id = s2 at h2
  obtain ⟨hd, hg⟩ := ends_delCmd s2 id
  have hf := ends_slotFreed (delCmd s2 id) (getCmd s id)
  exact ⟨(h2.trans hd).trans hf, hf.gone hg⟩

theorem ends_uncount (s : State) (c : Cmd) (st : Status) : Ends s (uncount s c st) := by
  unfold uncount
  split
  · exact .ite (.of_eq rfl rfl rfl rfl) (.refl s)
  · exact .refl s

theorem ends_endWaiting (k : Nat) (st : Status) (s : State) (id : Nat) : Ends s (endWaiting k st s id) :=
  ((ends_ioCqe s k _ st).trans (ends_uncount _ _ st)).trans (ends_discard _ id).1

/-! ### The queue that freezes (R122 to R125) -/

/-- From `s` to `t` queue `k` freezes for the command `c` that ended with `st`: entries wait on, nothing of the queue stays
staged, and the data stand. -/
structure Freezes (s t : State) (k : Nat) (c : Cmd) (st : Status) : Prop where
  waits : ∀ j, (getCq s j).waiting <+: (getCq t j).waiting
  cqid : ∀ j, (getSq t j).cqid = (getSq s j).cqid
  cmds : ∀ kv ∈ t.cmds, kv ∈ s.cmds
  sectors : t.sectors = s.sectors
  staged : (getSq t k).staged = []
  inflight : (getSq t k).inflight = (getSq s k).inflight
  frz : ∃ f, (getSq t k).frz = some f ∧ f.cid = c.io.cid ∧ f.status = st ∧ f.nsid = c.io.nsid ∧ f.slba = c.io.slba ∧
    f.opc = opcodeOf c.io.op

theorem Freezes.cqeWaits {s t : State} {k : Nat} {c : Cmd} {st : Status} (h : Freezes s t k c st) {c' q cid : Nat} {st' : Status}
    (hw : CqeWaits s c' q cid st') : CqeWaits t c' q cid st' := by
  obtain ⟨e, he, h1⟩ := hw
  refine ⟨e, ?_, h1⟩
  rw [h.cqid]
  exact (h.waits _).subset he

theorem Freezes.gone {s t : State} {k : Nat} {c : Cmd} {st : Status} (h : Freezes s t k c st) {id : Nat} (hf : hasCmd s id = false) :
    hasCmd t id = false := by
  refine List.any_eq_false.mpr fun kv hkv => ?_
  exact List.any_eq_false.mp hf kv (h.cmds kv hkv)

theorem ends_completeStaged (s : State) (k : Nat) (st : Status) : ∃ v, completeStaged s k st =
    { s with cqs := v, sqs := tset {} s.sqs k { getSq s k with staged := [] } } ∧ Ends s { s with cqs := v } := by
  have hc (l : List IoCmd) (a : State) : ∃ v, l.foldl (fun a io => ioCqe a k io.cid st) a = { a with cqs := v } ∧ Ends a { a with cqs := v } := by
    induction l generalizing a with
    | nil => exact ⟨a.cqs, rfl, .refl a⟩
    | cons x r ih =>
      obtain ⟨v, hv, he⟩ := ih (ioCqe a k x.cid st)
      exact ⟨v, hv, (ends_ioCqe a k x.cid st).trans he⟩
  obtain ⟨v, hv, he⟩ := hc (getSq s k).staged s
  unfold completeStaged
  dsimp only
  rw [hv]
  exact ⟨v, rfl, he⟩

/-- The zone that a frozen SQ holds, where its command wrote one (R123). -/
def heldOf (s : State) (c : Cmd) : Option Nat := if (isZoneWrite c.io.op && zonedAt s c.slot) = true then c.zone else none

def holdZone (s : State) (k : Nat) (c : Cmd) : State :=
  match heldOf s c with
  | some z => setZone s (zk c.slot z) { getZone s (zk c.slot z) with held := (getZone s (zk c.slot z)).held ++ [k] }
  | none => s

/-- What a frozen SQ notes of the command it froze for. -/
def frzOf (s : State) (k : Nat) (c : Cmd) (st : Status) : Frz :=
  { cid := c.io.cid, status := st, opc := opcodeOf c.io.op, nsid := c.io.nsid, slba := c.io.slba
    zslba := match heldOf s c with | some z => z * zsze (getNs s c.slot).attr.zw | none => 0
    held := (heldOf s c).map (fun z => zk c.slot z), n80 := (waitingOf s k).length + (getSq s k).staged.length
    nrun := (startedOf s k).length, us := s.opUs, fedtime := fedLogTime s }

theorem freezeSq_eq (s : State) (k : Nat) (c : Cmd) (st : Status) : freezeSq s k c st = completeUnstarted
    (setSq (nchSet (holdZone s k c) ((nicheOf s (ctrlOfSq k)).getD 0) 4) k
      { getSq (holdZone s k c) k with frz := some (frzOf s k c st) }) k .queueFrozen := rfl

theorem ends_holdZone (s : State) (k : Nat) (c : Cmd) : Ends s (holdZone s k c) := by
  unfold holdZone
  split
  · exact ends_setZone s _ _
  · exact .refl s

theorem freezeSq_freezes (s : State) (k : Nat) (c : Cmd) (st : Status) : Freezes s (freezeSq s k c st) k c st := by
  rw [freezeSq_eq]
  have h1 : Ends s (nchSet (holdZone s k c) ((nicheOf s (ctrlOfSq k)).getD 0) 4) :=
    (ends_holdZone s k c).trans (.of_eq rfl rfl rfl rfl)
  have hq : getSq (holdZone s k c) k = getSq s k := (ends_holdZone s k c).getSq k
  rw [hq]
  generalize nchSet (holdZone s k c) ((nicheOf s (ctrlOfSq k)).getD 0) 4 = s1 at h1
  generalize hv : ({ getSq s k with frz := some (frzOf s k c st) } : Sq) = v
  have hne : v ≠ {} := fun e => by
    have := congrArg Sq.frz e
    rw [← hv] at this
    cases this
  have h2 : Ends (setSq s1 k v) ((waitingOf (setSq s1 k v) k).foldl (endWaiting k .queueFrozen) (setSq s1 k v)) :=
    .foldl _ _ _ fun a x => ends_endWaiting k .queueFrozen a x
  unfold completeUnstarted
  generalize (waitingOf (setSq s1 k v) k).foldl (endWaiting k .queueFrozen) (setSq s1 k v) = s2 at h2
  obtain ⟨b, hb, h3⟩ := ends_completeStaged s2 k .queueFrozen
  rw [hb]
  have hg2 : getSq s2 k = v := (h2.getSq k).trans (tget_tset_same _ _ _ _ hne)
  rw [hg2]
  have hw : ({ v with staged := [] } : Sq) ≠ {} := fun e => by
    have := congrArg Sq.frz e
    rw [← hv] at this
    cases this
  have hg3 : getSq { s2 with cqs := b, sqs := tset {} s2.sqs k { v with staged := [] } } k = { v with staged := [] } :=
    tget_tset_same _ _ _ _ hw
  refine ⟨fun j => ?_, fun j => ?_, fun kv hkv => h1.cmds kv (h2.cmds kv hkv), h2.sectors.trans h1.sectors, ?_, ?_, ?_⟩
  · exact ((h1.waits j).trans (h2.waits j)).trans (h3.waits j)
  · by_cases e : j = k
    · rw [e, hg3, ← hv]
    · have hj : getSq { s2 with cqs := b, sqs := tset {} s2.sqs k { v with staged := [] } } j = getSq s2 j :=
        tget_tset_ne _ _ _ _ _ e
      have hj1 : getSq (setSq s1 k v) j = getSq s1 j := tget_tset_ne _ _ _ _ _ e
      rw [hj, h2.getSq, hj1, h1.getSq]
  · rw [hg3]
  · rw [hg3, ← hv]
  · exact ⟨frzOf s k c st, by rw [hg3, ← hv], rfl, rfl, rfl, rfl, rfl⟩

/-! ### A command that ends (R116, R122) -/

theorem ends_logError (s : State) (c : Nat) (e : ErrEnt) : Ends s (logError s c e) := .of_eq rfl rfl rfl rfl

/-- A command that ends with a status that freezes: its entry waits, it is gone, and its queue is frozen for it. -/
theorem complete_freezes {s : State} {id : Nat} {st : Status} (dw0 dw1 : Nat) (data : List Fld) (hst : freezes st = true)
    (hz : (getSq s (getCmd s id).sq).frz = none) (hf : ∀ kv ∈ s.cmds, kv.2.io.op = .flush → kv.1 = id) :
    Freezes s (complete s id st dw0 dw1 data) (getCmd s id).sq (getCmd s id) st ∧
    hasCmd (complete s id st dw0 dw1 data) id = false ∧
    CqeWaits (complete s id st dw0 dw1 data) (ctrlOfSq (getCmd s id).sq) (qidOfSq (getCmd s id).sq) (getCmd s id).io.cid st := by
  unfold complete endCmd
  dsimp only
  generalize hc : getCmd s id = c at hz
  have h0 := ends_schedule s (ctrlOfSq c.sq) (qidOfSq c.sq) c.io.cid st dw0 dw1 data
  have hw0 := cqeWaits_schedule s (c := ctrlOfSq c.sq) (q := qidOfSq c.sq) c.io.cid st dw0 dw1 data
  generalize schedule s (ctrlOfSq c.sq) (qidOfSq c.sq) c.io.cid st dw0 dw1 data = s0 at h0 hw0
  obtain ⟨h1, hgone⟩ := ends_discard s0 id
  generalize discard s0 id = s1 at h1 hgone
  have h2 := ends_logError s1 (ctrlOfSq c.sq) { sq := qidOfSq c.sq, cid := c.io.cid, status := st, lba := c.io.slba, nsid := c.io.nsid }
  generalize logError s1 (ctrlOfSq c.sq) { sq := qidOfSq c.sq, cid := c.io.cid, status := st, lba := c.io.slba, nsid := c.io.nsid } = s2 at h2
  have h := (h0.trans h1).trans h2
  have hz2 : (getSq s2 c.sq).frz.isSome = false := by rw [h.getSq, hz]; rfl
  rw [if_pos hst, hz2, if_neg Bool.false_ne_true]
  have hfr := freezeSq_freezes s2 c.sq c st
  generalize freezeSq s2 c.sq c st = t at hfr
  have hnf : ∀ kv ∈ t.cmds, kv.2.io.op ≠ .flush := by
    intro kv hkv hop
    have hid := h.noFlush hf kv (hfr.cmds kv hkv) hop
    have := List.any_eq_false.mp (h2.gone hgone) kv (hfr.cmds kv hkv)
    simp [hid] at this
  rw [settle_none t hnf]
  refine ⟨⟨fun j => (h.waits j).trans (hfr.waits j), fun j => (hfr.cqid j).trans (by rw [h.getSq]),
    fun kv hkv => h.cmds kv (hfr.cmds kv hkv), hfr.sectors.trans h.sectors, hfr.staged, hfr.inflight.trans (by rw [h.getSq]), hfr.frz⟩,
    hfr.gone (h2.gone hgone), hfr.cqeWaits ((h1.trans h2).cqeWaits hw0)⟩

end Sys2Proof.Machine
end
section
/-! PROOFS. Commands that end with a status that freezes their queue (R86, R122 to R124, R135). -/

namespace Sys2Proof.Machine

/-- An entry that lands and is granted at once starts or waits. -/
theorem submitIo_granted {s u : State} {c q : Nat} {io : IoCmd} {id : Nat} (g : Granted s c q io u id) :
    submitIo s c q io = startCmd u id := by
  have hgo : (q == 0 || !(fetches s (qk c q)) || (getSq s (qk c q)).inflight != 0) = false := by
    simp [g.ioQueue, g.fetched, g.quiet]
  have hg := g.granted
  unfold landed at hg
  dsimp only at hg
  unfold submitIo
  dsimp only
  rw [hgo, if_neg Bool.false_ne_true, hg]

theorem entry_exec {i : Instr} {s u : State} {c q : Nat} {io : IoCmd} {id : Nat} (h : ioEntry s i = some (c, q, io))
    (g : Granted s c q io u id) : exec i s = .next (startCmd u id) := by
  by_cases hrow : ioRow i = some (c, q, io)
  · exact row_exec hrow g
  · unfold ioEntry at h
    split at h
    · next c' q' cid n nsid w d =>
      split at h
      · cases h
      · next hn =>
        cases h
        have hq : (q == 0) = false := by simpa using g.ioQueue
        have hc : (!((ioOpcodes s).contains n) || (n == 0x79 && !([1, 2, 3, 4, 5].contains (d % 256)))) = true := by
          by_cases h1 : (ioOpcodes s).contains n = true
          · simp only [h1, Bool.true_and, Bool.not_eq_true, Bool.or_eq_false_iff] at hn
            obtain ⟨h2, h3⟩ := hn
            rw [h1, h3]
            simpa using h2
          · simp only [Bool.not_eq_true] at h1
            rw [h1]
            rfl
        show execUnsupportedOpcode c q cid n nsid w d s = _
        unfold execUnsupportedOpcode
        rw [hq, if_neg Bool.false_ne_true, hc, if_pos rfl, submitIo_granted g]
        rfl
    · exact absurd h hrow

theorem tryStart_refused {s u : State} {c q : Nat} {io : IoCmd} {id : Nat} {st : Status} (g : Granted s c q io u id)
    (h : ioCheck u (getCmd u id) = some st) : startCmd.tryStart u id = complete (namesZone u id) id st := by
  have hup : portLost u (ctrlOfSq (getCmd u id).sq) = false := by rw [g.from_, ctrlOfSq_qk c q g.queue_]; exact g.up
  have hz : (getSq u (getCmd u id).sq).frz = none := by rw [g.from_]; exact g.thawed
  unfold startCmd.tryStart
  dsimp only
  rw [g.waits, g.goes, hz, hup, if_neg (by simp), h]

/-- The zone a command names is noted in it alone. -/
theorem namesZone_only (s : State) (id : Nat) : ∃ z l, namesZone s id = { s with cmds := l } ∧
    getCmd (namesZone s id) id = { getCmd s id with zone := z } ∧ ∀ kv ∈ l, kv.1 = id ∨ kv ∈ s.cmds := by
  unfold namesZone
  dsimp only
  split
  · split
    · refine ⟨_, _, rfl, tget_tset_same _ _ _ _ fun e => ?_, fun kv hkv => ?_⟩
      · have := congrArg Cmd.zone e
        cases this
      · rcases mem_tset _ _ _ _ _ hkv with h | h
        · exact .inl (by rw [h])
        · exact .inr h
    · exact ⟨_, s.cmds, rfl, rfl, fun kv h => .inr h⟩
  · exact ⟨_, s.cmds, rfl, rfl, fun kv h => .inr h⟩

theorem refused_freezes {i : Instr} {s u : State} {c q id : Nat} {io : IoCmd} {st : Status}
    (he : ioEntry s i = some (c, q, io)) (g : Granted s c q io u id) (hc : ioCheck u (getCmd u id) = some st)
    (hst : freezes st = true) :
    ∃ t f, exec i s = .next t ∧ CqeWaits t c q io.cid st ∧ (getSq t (qk c q)).frz = some f ∧
      f.cid = io.cid ∧ f.status = st ∧ f.nsid = io.nsid ∧ f.slba = io.slba ∧ f.opc = opcodeOf io.op ∧
      (getSq t (qk c q)).staged = [] ∧ t.sectors = s.sectors ∧ guarded t = guarded s := by
  obtain ⟨z, l, hn, hg, hl⟩ := namesZone_only u id
  have hg' := hg
  rw [hn] at hg'
  have hsq : (getCmd (namesZone u id) id).sq = qk c q := by rw [hg]; exact g.from_
  have hio : (getCmd (namesZone u id) id).io = io := by rw [hg]; exact g.entry
  have hz : (getSq (namesZone u id) (getCmd (namesZone u id) id).sq).frz = none := by
    rw [hsq, hn]
    exact g.thawed
  have hnf : ∀ kv ∈ (namesZone u id).cmds, kv.2.io.op = .flush → kv.1 = id := by
    intro kv hkv hop
    rw [hn] at hkv
    rcases hl kv hkv with h | h
    · exact h
    · exact g.noFlush kv h hop
  obtain ⟨hf, hgone, hw⟩ := complete_freezes 0 0 [] hst hz hnf
  have hguard : guarded (complete (namesZone u id) id st) = guarded s := by
    rw [complete_guarded, namesZone_guarded, granted_eq g]
    rfl
  have hsec : (complete (namesZone u id) id st).sectors = s.sectors := by
    rw [hf.sectors, hn, granted_eq g]
  rw [hsq, hio, ctrlOfSq_qk c q g.queue_, qidOfSq_qk c q g.queue_] at hw
  rw [hsq] at hf
  have ht := tryStart_refused g hc
  have hx := entry_exec he g
  rw [start_go g (.inl (by rw [ht]; exact hgone)), ht] at hx
  obtain ⟨f, hfz, hcid, hfst, hnsid, hslba, hop⟩ := hf.frz
  rw [hio] at hcid hnsid hslba hop
  exact ⟨_, f, hx, hw, hfz, hcid, hfst, hnsid, hslba, hop, hf.staged, hsec, hguard⟩

/-! ### Poisoned completions and timeouts (R86) -/

theorem dataError_freezes {s : State} {id : Nat} (status : Nat) (adv : Bool)
    (hz : (getSq s (getCmd s id).sq).frz = none) (hn : NoFlushWaits s) :
    let c := getCmd s id
    let t := complete (aerRec s (ctrlOfSq c.sq) status adv) id .dataXfer
    CqeWaits t (ctrlOfSq c.sq) (qidOfSq c.sq) c.io.cid .dataXfer ∧ hasCmd t id = false ∧
      (∃ f, (getSq t c.sq).frz = some f ∧ f.cid = c.io.cid ∧ f.status = .dataXfer) ∧ t.sectors = s.sectors ∧ guarded t = guarded s ∧
      (getPort t (portOf (ctrlOfSq c.sq))).aer = (getPort s (portOf (ctrlOfSq c.sq))).aer ++
        [(fnOf (ctrlOfSq c.sq), status, aerMsg status adv)] := by
  intro c t
  have hp := aerRec_only s (ctrlOfSq c.sq) status adv
  generalize (aerRec s (ctrlOfSq c.sq) status adv).pat = p at hp
  have hcmd : getCmd (aerRec s (ctrlOfSq c.sq) status adv) id = c := by rw [hp]; rfl
  have hz' : (getSq (aerRec s (ctrlOfSq c.sq) status adv) (getCmd (aerRec s (ctrlOfSq c.sq) status adv) id).sq).frz = none := by
    rw [hcmd, hp]
    exact hz
  obtain ⟨hf, hgone, hw⟩ := complete_freezes (s := aerRec s (ctrlOfSq c.sq) status adv) (id := id) 0 0 [] (st := .dataXfer) rfl hz'
    (fun kv hkv hop => absurd hop (hn kv (by rw [hp] at hkv; exact hkv)))
  have hports : t.ports = (aerRec s (ctrlOfSq c.sq) status adv).ports := congrArg Platform.ports (complete_platform _ _ _ _ _ _)
  rw [hcmd] at hf hw
  obtain ⟨f, hfz, hcid, hst, -⟩ := hf.frz
  refine ⟨hw, hgone, ⟨f, hfz, hcid, hst⟩, ?_, ?_, ?_⟩
  · rw [hf.sectors, hp]
    rfl
  · rw [complete_guarded, hp]
    rfl
  · unfold getPort
    rw [hports, hp]
    exact congrArg Port.aer (tget_tset_same _ s.ports _ _ fun e => by
      have := congrArg Port.aer e
      simp at this)

/-- Entries that land in a frozen queue complete: the queue stays frozen for the same command, with nothing staged. -/
theorem lands_frozen (l : List Nat) (k : Nat) (f : Nat → IoCmd) {s : State} {z : Frz} (hz : (getSq s k).frz = some z) :
    ∃ a b z', l.foldl (fun a y => land a k (f y)) s = { s with sqs := a, cqs := b } ∧
      (getSq (l.foldl (fun a y => land a k (f y)) s) k).frz = some z' ∧ z'.status = z.status ∧
      (getSq (l.foldl (fun a y => land a k (f y)) s) k).inflight = (getSq s k).inflight ∧
      (getSq (l.foldl (fun a y => land a k (f y)) s) k).staged = (getSq s k).staged := by
  induction l generalizing s z with
  | nil => exact ⟨s.sqs, s.cqs, z, rfl, hz, rfl, rfl, rfl⟩
  | cons y r ih =>
    have hl : land s k (f y) = setSq (ioCqe s k (f y).cid .queueFrozen) k { getSq s k with frz := some { z with n80 := z.n80 + 1 } } := by
      unfold land
      dsimp only
      rw [hz]
      rfl
    have hg : getSq (land s k (f y)) k = { getSq s k with frz := some { z with n80 := z.n80 + 1 } } := by
      rw [hl]
      exact tget_tset_same _ _ _ _ fun e => by
        have := congrArg Sq.frz e
        cases this
    obtain ⟨a, b, z', hs, hf, hst, hi, hst'⟩ := ih (s := land s k (f y)) (z := { z with n80 := z.n80 + 1 }) (by rw [hg])
    rw [hg] at hi hst'
    refine ⟨a, b, z', ?_, hf, hst, hi, hst'⟩
    rw [List.foldl_cons, hs, hl]
    rfl

/-- The state in which a timed-out fetch leaves its queue, before the queue is frozen. -/
theorem fetchTimeout_eq {s : State} {c q : Nat} (hi : (getSq s (qk c q)).inflight ≠ 0) (hz : (getSq s (qk c q)).frz = none) :
    ∃ (io : IoCmd) (e : ErrEnt) (l : List Nat), fetchTimeout s c q =
      let v := getSq s (qk c q)
      let s1 := setSq (aerRec s c aerTimeout false) (qk c q) { v with inflight := 0, head := (v.head + v.inflight) % v.size }
      l.foldl (fun a y => land a (qk c q) (lostIo (qk c q) y))
        (freezeSq (logError (ioCqe s1 (qk c q) io.cid .dataXfer) c e) (qk c q) { sq := qk c q, io := io } .dataXfer) := by
  obtain ⟨n, hn⟩ := Nat.exists_eq_succ_of_ne_zero hi
  have hx : (List.range (getSq s (qk c q)).inflight).map (fun j => ((getSq s (qk c q)).head + j) % (getSq s (qk c q)).size) =
      ((getSq s (qk c q)).head + 0) % (getSq s (qk c q)).size :: ((List.range n).map Nat.succ).map
        (fun j => ((getSq s (qk c q)).head + j) % (getSq s (qk c q)).size) := by
    rw [hn, Nat.succ_eq_add_one, List.range_succ_eq_map]
    rfl
  generalize hx0 : lostIo (qk c q) (((getSq s (qk c q)).head + 0) % (getSq s (qk c q)).size) = io
  refine ⟨io, { sq := q, cid := io.cid, status := .dataXfer, lba := io.slba, nsid := io.nsid },
    ((List.range n).map Nat.succ).map fun j => ((getSq s (qk c q)).head + j) % (getSq s (qk c q)).size, ?_⟩
  unfold fetchTimeout
  dsimp only
  rw [hx, hz, ← hx0]

theorem fetchTimeout_freezes {s : State} {c q : Nat} (hi : (getSq s (qk c q)).inflight ≠ 0) (hz : (getSq s (qk c q)).frz = none)
    (hq : 0 < q) :
    ∃ t f, exec (.completionTimeout (.fetch c q)) s = .next t ∧ (getSq t (qk c q)).frz = some f ∧
      f.status = .dataXfer ∧ (getSq t (qk c q)).inflight = 0 ∧ (getSq t (qk c q)).staged = [] ∧
      t.sectors = s.sectors ∧ guarded t = guarded s := by
  have he : exec (.completionTimeout (.fetch c q)) s = .next (fetchTimeout s c q) := by
    show execCompletionTimeout (.fetch c q) s = _
    unfold execCompletionTimeout
    dsimp only
    rw [if_neg (show ¬ (q == 0) = true by simp; omega), if_neg (by simpa using hi)]
    rfl
  obtain ⟨io, e, l, heq⟩ := fetchTimeout_eq hi hz
  dsimp only at heq
  have hp := aerRec_only s c aerTimeout false
  generalize hs1 : setSq (aerRec s c aerTimeout false) (qk c q) { getSq s (qk c q) with
    inflight := 0
    head := ((getSq s (qk c q)).head + (getSq s (qk c q)).inflight) % (getSq s (qk c q)).size } = s1 at heq
  have hsec : s1.sectors = s.sectors := by rw [← hs1, hp]; rfl
  have hin : (getSq s1 (qk c q)).inflight = 0 := by
    rw [← hs1, getSq_setSq_same]
    intro e
    have hsize := congrArg Sq.size e
    have hhead := congrArg Sq.head e
    dsimp only at hsize hhead
    rw [hsize, Nat.mod_zero] at hhead
    omega
  have hE := (ends_ioCqe s1 (qk c q) io.cid .dataXfer).trans (ends_logError _ c e)
  have hF := freezeSq_freezes (logError (ioCqe s1 (qk c q) io.cid .dataXfer) c e) (qk c q) { sq := qk c q, io := io } .dataXfer
  obtain ⟨f, hf, -, hst, -⟩ := hF.frz
  obtain ⟨a, b, z', hl, hzz, hzs, hli, hls⟩ := lands_frozen l (qk c q) (lostIo (qk c q)) hf
  rw [← heq] at hl hzz hli hls
  refine ⟨_, z', he, hzz, hzs.trans hst, ?_, ?_, ?_, ?_⟩
  · rw [hli, hF.inflight, hE.getSq, hin]
  · rw [hls, hF.staged]
  · rw [hl]
    exact hF.sectors.trans (hE.sectors.trans hsec)
  · exact fetchTimeout_guarded s c q

/-- The status the checks give an entry whose opcode the device does not serve. -/
theorem other_refused (u : State) (m : Cmd) (n : Nat) (hop : m.io.op = .other n) (hn : n ≠ 0x79) :
    ioCheck u m = some .invalidOpcode := by
  unfold ioCheck
  dsimp only
  rw [hop]
  split
  · next h =>
    injection h with h
    exact absurd h hn
  · rfl
  · next h => exact absurd rfl (h n)

/-- A Zone Management Send with an action there is none of is refused on a zoned namespace. -/
theorem badSend_refused (u : State) (m : Cmd) (j : Nat) (hop : m.io.op = .other 0x79) (hj : slotOf u m.niche m.io.nsid = some j)
    (hs : (getNch u m.niche).san = .none) (hz : (getNs u j).attr.zoned = true) : ioCheck u m = some .invalidField := by
  unfold ioCheck
  dsimp only
  rw [hop]
  unfold badSend
  rw [hj]
  dsimp only
  rw [hs, hz]
  rfl

theorem unsupported_admin {s : State} {c : Nat} (cid n nsid w d : Nat) (h : adminServed s c = true) :
    ((adminOpcodes s c).contains n = false →
      exec (.unsupportedOpcode c 0 cid n nsid w d) s = .next (adone (adminFetch s c) c cid .invalidOpcode)) ∧
    ((adminOpcodes s c).contains n = true → badAction n w = true →
      exec (.unsupportedOpcode c 0 cid n nsid w d) s = .next (adone (adminFetch s c) c cid .invalidField)) := by
  have hx : exec (.unsupportedOpcode c 0 cid n nsid w d) s = execUnsupportedOpcode c 0 cid n nsid w d s := rfl
  rw [hx]
  unfold execUnsupportedOpcode
  rw [if_pos (show ((0 : Nat) == 0) = true from rfl)]
  constructor
  · intro hn
    rw [hn, if_pos (show (!false) = true from rfl), admin_served _ _ _ h]
  · intro hn hb
    rw [hn, if_neg (show ¬ (!true) = true by simp), hb, if_pos rfl, admin_served _ _ _ h]

theorem dataError_exec {i : Instr} {s : State} {id : Nat} (hi : i = .poisonedCompletion id ∨ i = .completionTimeout (.command id))
    (hc : hasCmd s id = true) (hp : (getCmd s id).phase = .started) (hr : (getCmd s id).recv.length ≠ (getCmd s id).need) :
    ∃ status adv, exec i s = .next (complete (aerRec s (ctrlOfSq (getCmd s id).sq) status adv) id .dataXfer) ∧
      (status, aerMsg status adv) = (if i = .poisonedCompletion id then (4096, 0) else (16384, 1)) := by
  have hg : (!(hasCmd s id) || (getCmd s id).phase != .started || decide ((getCmd s id).recv.length = (getCmd s id).need)) = false := by
    simp [hc, hp, hr]
  rcases hi with rfl | rfl
  · refine ⟨aerPoison, true, ?_, ?_⟩
    · show execPoisonedCompletion id s = _
      unfold execPoisonedCompletion
      dsimp only
      rw [hg, if_neg Bool.false_ne_true]
      rfl
    · rw [if_pos rfl]
      rfl
  · refine ⟨aerTimeout, false, ?_, ?_⟩
    · show execCompletionTimeout (.command id) s = _
      unfold execCompletionTimeout
      dsimp only
      rw [hg, if_neg Bool.false_ne_true]
      rfl
    · rw [if_neg (by simp)]
      rfl

/-- Settles O6: a command that ends with such a status completes with it, and its queue freezes over it. -/
theorem errorsFreezeQueues : Obligations.ErrorsFreezeQueues := by
  unfold Obligations.ErrorsFreezeQueues
  refine ⟨⟨fun i s u c q id io st he g hc hst => refused_freezes he g hc hst,
    fun u m n hop => ⟨fun hn => other_refused u m n hop hn, fun j hn hj hs hz => badSend_refused u m j (hn ▸ hop) hj hs hz⟩,
    fun s c cid n nsid w d h => unsupported_admin cid n nsid w d h⟩, ?_, ?_⟩
  · intro i s id c hi hc hp hr hq hz hn
    obtain ⟨status, adv, he, hm⟩ := dataError_exec hi hc hp hr
    obtain ⟨hw, hgone, ⟨f, hf, hcid, hst⟩, hsec, hguard, haer⟩ := dataError_freezes status adv hz hn
    refine ⟨_, f, he, hw, hgone, hf, hcid, hst, hsec, hguard, ?_⟩
    rw [haer, ← hm]
  · intro s c q v hi hz hc hq hb
    exact fetchTimeout_freezes hi hz hq

end Sys2Proof.Machine
end
section
/-! SUPPORT. What the end of a command leaves, whatever its status (R116, R122). -/

namespace Sys2Proof.Machine

/-! ### Entries wait on, commands go -/

/-- From `s` to `t` entries wait on, queues keep their completion queue, no command comes and the data stand. -/
structure Posts (s t : State) : Prop where
  waits : ∀ k, (getCq s k).waiting <+: (getCq t k).waiting
  cqid : ∀ k, (getSq t k).cqid = (getSq s k).cqid
  cmds : ∀ kv ∈ t.cmds, kv ∈ s.cmds
  sectors : t.sectors = s.sectors

theorem Ends.posts {s t : State} (h : Ends s t) : Posts s t := ⟨h.waits, fun k => by rw [h.getSq], h.cmds, h.sectors⟩

theorem Freezes.posts {s t : State} {k : Nat} {c : Cmd} {st : Status} (h : Freezes s t k c st) : Posts s t :=
  ⟨h.waits, h.cqid, h.cmds, h.sectors⟩

namespace Posts

theorem trans {s t u : State} (h : Posts s t) (k : Posts t u) : Posts s u :=
  ⟨fun j => (h.waits j).trans (k.waits j), fun j => (k.cqid j).trans (h.cqid j), fun kv hkv => h.cmds kv (k.cmds kv hkv),
    k.sectors.trans h.sectors⟩

/-- The entry scheduled first waits at the end, in the completion queue its queue has. -/
theorem entry {s t : State} {c q cid : Nat} {st : Status} {dw0 dw1 : Nat} {data : List Fld}
    (h : Posts (schedule s c q cid st dw0 dw1 data) t) :
    mkCqe s c q cid st dw0 dw1 data ∈ (getCq t (qk c (if q == 0 then 0 else (getSq t (qk c q)).cqid))).waiting := by
  have := (h.waits _).subset (schedule_waits s c q cid st dw0 dw1 data)
  rw [h.cqid]
  exact this

theorem cqeWaits {s t : State} {c q cid : Nat} {st : Status} {dw0 dw1 : Nat} {data : List Fld}
    (h : Posts (schedule s c q cid st dw0 dw1 data) t) : CqeWaits t c q cid st := ⟨_, h.entry, rfl, rfl, rfl⟩

theorem gone {s t : State} (h : Posts s t) {id : Nat} (hf : hasCmd s id = false) : hasCmd t id = false :=
  List.any_eq_false.mpr fun kv hkv => List.any_eq_false.mp hf kv (h.cmds kv hkv)

end Posts

/-- A command that ends, with whatever status: its entry waits and it is gone. -/
theorem complete_posts {s : State} {id : Nat} (st : Status) (dw0 dw1 : Nat) (data : List Fld) (hn : NoFlushWaits s) :
    let c := getCmd s id
    Posts (schedule s (ctrlOfSq c.sq) (qidOfSq c.sq) c.io.cid st dw0 dw1 data) (complete s id st dw0 dw1 data) ∧
      hasCmd (complete s id st dw0 dw1 data) id = false := by
  intro c
  unfold complete endCmd
  dsimp only
  have hn0 : ∀ kv ∈ (schedule s (ctrlOfSq c.sq) (qidOfSq c.sq) c.io.cid st dw0 dw1 data).cmds, kv.2.io.op ≠ .flush := hn
  generalize schedule s (ctrlOfSq c.sq) (qidOfSq c.sq) c.io.cid st dw0 dw1 data = s0 at hn0
  obtain ⟨h1, hgone⟩ := ends_discard s0 id
  generalize discard s0 id = s1 at h1 hgone
  have key {t : State} (hp : Posts s1 t) : Posts s0 (settle t) ∧ hasCmd (settle t) id = false := by
    rw [settle_none t fun kv hkv => hn0 kv (h1.cmds kv (hp.cmds kv hkv))]
    exact ⟨h1.posts.trans hp, hp.gone hgone⟩
  have h2 := ends_logError s1 (ctrlOfSq c.sq) { sq := qidOfSq c.sq, cid := c.io.cid, status := st, lba := c.io.slba, nsid := c.io.nsid }
  split
  · split
    · exact key h2.posts
    · exact key (h2.posts.trans (freezeSq_freezes _ _ _ _).posts)
  · exact key (Ends.refl s1).posts

/-! ### Stripes stand where no finish waits for a write slot (R29, R171) -/

/-- No finish waits in `s` still, and its stripes stand. -/
structure StripesStand (s t : State) : Prop where
  none : NoFinishWaits t
  stripes : t.stripes = s.stripes

theorem StripesStand.trans {s t u : State} (h : StripesStand s t) (k : StripesStand t u) : StripesStand s u :=
  ⟨k.none, k.stripes.trans h.stripes⟩

theorem StripesStand.of_eq {s t : State} (h : NoFinishWaits s) (hz : t.zones = s.zones) (hs : t.stripes = s.stripes) :
    StripesStand s t := ⟨by unfold NoFinishWaits; rw [hz]; exact h, hs⟩

theorem StripesStand.foldl {β : Type} (f : State → β → State) (hf : ∀ a x, NoFinishWaits a → StripesStand a (f a x)) (l : List β) :
    ∀ s, NoFinishWaits s → StripesStand s (l.foldl f s) := by
  induction l with
  | nil => exact fun s h => ⟨h, rfl⟩
  | cons x r ih => exact fun s h => (hf s x h).trans (ih _ (hf s x h).none)

theorem stripesStand_discard {s : State} (h : NoFinishWaits s) (id : Nat) : StripesStand s (discard s id) :=
  .of_eq h (by rw [(discard_quiet h id).1]) (by rw [(discard_quiet h id).1])

theorem stripesStand_holdZone {s : State} (h : NoFinishWaits s) (k : Nat) (c : Cmd) : StripesStand s (holdZone s k c) := by
  unfold holdZone
  split
  · refine ⟨fun kv hkv => ?_, rfl⟩
    rcases mem_tset _ _ _ _ _ hkv with e | hm
    · rw [e]
      exact h.finPend _
    · exact h kv hm
  · exact ⟨h, rfl⟩

theorem stripesStand_endWaiting {s : State} (h : NoFinishWaits s) (k : Nat) (st : Status) (id : Nat) :
    StripesStand s (endWaiting k st s id) := by
  have hu (t : State) (c : Cmd) : (uncount t c st).zones = t.zones ∧ (uncount t c st).stripes = t.stripes := by
    unfold uncount
    split
    · split <;> exact ⟨rfl, rfl⟩
    · exact ⟨rfl, rfl⟩
  obtain ⟨hz, hs⟩ := hu (ioCqe s k (getCmd s id).io.cid st) (getCmd s id)
  have h1 := StripesStand.of_eq (t := uncount (ioCqe s k (getCmd s id).io.cid st) (getCmd s id) st) h (hz.trans rfl) (hs.trans rfl)
  exact h1.trans (stripesStand_discard h1.none id)

theorem stripesStand_freezeSq {s : State} (h : NoFinishWaits s) (k : Nat) (c : Cmd) (st : Status) :
    StripesStand s (freezeSq s k c st) := by
  rw [freezeSq_eq]
  have h0 := stripesStand_holdZone h k c
  generalize getSq (holdZone s k c) k = v
  generalize holdZone s k c = s0 at h0
  generalize hs1 : setSq (nchSet s0 ((nicheOf s (ctrlOfSq k)).getD 0) 4) k { v with frz := some (frzOf s k c st) } = s1
  have h1 : StripesStand s s1 := h0.trans (.of_eq h0.none (by rw [← hs1]; rfl) (by rw [← hs1]; rfl))
  unfold completeUnstarted
  have h2 := StripesStand.foldl (endWaiting k .queueFrozen) (fun a x ha => stripesStand_endWaiting ha k .queueFrozen x) (waitingOf s1 k) s1 h1.none
  generalize (waitingOf s1 k).foldl (endWaiting k .queueFrozen) s1 = s2 at h2
  obtain ⟨v', hv, -⟩ := ends_completeStaged s2 k .queueFrozen
  rw [hv]
  exact (h1.trans h2).trans (.of_eq h2.none rfl rfl)

theorem stripesStand_complete {s : State} (hf : NoFinishWaits s) (id : Nat) (st : Status) (dw0 dw1 : Nat) (data : List Fld)
    (hn : NoFlushWaits s) : StripesStand s (complete s id st dw0 dw1 data) := by
  unfold complete endCmd
  dsimp only
  generalize hc : getCmd s id = c
  have hn0 : ∀ kv ∈ (schedule s (ctrlOfSq c.sq) (qidOfSq c.sq) c.io.cid st dw0 dw1 data).cmds, kv.2.io.op ≠ .flush := hn
  have h0 : StripesStand s (schedule s (ctrlOfSq c.sq) (qidOfSq c.sq) c.io.cid st dw0 dw1 data) := .of_eq hf rfl rfl
  generalize schedule s (ctrlOfSq c.sq) (qidOfSq c.sq) c.io.cid st dw0 dw1 data = s0 at h0 hn0
  have h1 := h0.trans (stripesStand_discard h0.none id)
  have hp1 := (ends_discard s0 id).1
  generalize discard s0 id = s1 at h1 hp1
  have key {t : State} (hs : StripesStand s1 t) (hp : Posts s1 t) : StripesStand s (settle t) := by
    rw [settle_none t fun kv hkv => hn0 kv (hp1.cmds kv (hp.cmds kv hkv))]
    exact h1.trans hs
  have h2 := ends_logError s1 (ctrlOfSq c.sq) { sq := qidOfSq c.sq, cid := c.io.cid, status := st, lba := c.io.slba, nsid := c.io.nsid }
  have hs2 : StripesStand s1 (logError s1 (ctrlOfSq c.sq)
      { sq := qidOfSq c.sq, cid := c.io.cid, status := st, lba := c.io.slba, nsid := c.io.nsid }) := .of_eq h1.none rfl rfl
  split
  · split
    · exact key hs2 h2.posts
    · exact key (hs2.trans (stripesStand_freezeSq hs2.none _ _ _)) (h2.posts.trans (freezeSq_freezes _ _ _ _).posts)
  · exact key ⟨h1.none, rfl⟩ (Ends.refl s1).posts

end Sys2Proof.Machine
end

section
/-! PROOFS. Write data comes in and passes the engines (R26, R147, R148, R295). -/

namespace Sys2Proof.Machine

/-- The sectors that come in, as the port passes them on. -/
def sectorsIn (s : State) (c : Cmd) (data : List Nat) : List (Nat × Option Status) :=
  (data.take (c.need - c.recv.length)).zipIdx.map
    (fun dj => hostSector (getNs s c.slot) c.io (c.recv.length + dj.2) (c.lo + c.recv.length + dj.2) dj.1)

theorem hostData_exec {s : State} {id : Nat} (data : List Nat) (hc : hasCmd s id = true) (hp : (getCmd s id).phase = .started)
    (ht : (writesData s (getCmd s id).slot (getCmd s id).io = true ∧ (getCmd s id).io.op ≠ .writeZeroes) ∨ (getCmd s id).io.op = .compare)
    (hw : (getCmd s id).want = []) (hr : (getCmd s id).recv.length < (getCmd s id).need)
    (hl : portLost s (ctrlOfSq (getCmd s id).sq) = false) :
    exec (.hostDataTlpReceived id data) s = .next (match (sectorsIn s (getCmd s id) data).findSome? (fun r => r.2) with
      | some st => complete s id st
      | none =>
        let r := (getCmd s id).recv ++ (sectorsIn s (getCmd s id) data).map (·.1)
        if r.length == (getCmd s id).need then queueSegs (setCmd s id { getCmd s id with recv := r }) id
        else setCmd s id { getCmd s id with recv := r }) := by
  have htk : ((writesData s (getCmd s id).slot (getCmd s id).io && (getCmd s id).io.op != .writeZeroes) ||
      (getCmd s id).io.op == .compare) = true := by
    rcases ht with ⟨h1, h2⟩ | h1
    · simp [h1, h2]
    · simp [h1]
  show execHostDataTlpReceived id data s = _
  unfold execHostDataTlpReceived
  dsimp only
  rw [htk, hc, hp, hw, hl, if_neg (by simpa using hr)]
  change (match (sectorsIn s (getCmd s id) data).findSome? (fun r => r.2) with | some st => _ | none => _) = _
  cases (sectorsIn s (getCmd s id) data).findSome? (fun r => r.2) <;> rfl

theorem queueSegs_received {s : State} {id : Nat} (c : Cmd) (hp : c.phase = .started) :
    queueSegs (setCmd s id c) id = { s with
      cmds := tset {} s.cmds id { c with segUs := s.nowUs }
      cipher := { s.cipher with segs := s.cipher.segs ++ List.replicate (c.hi / 16 - c.lo / 16 + 1) (c.cls, s.arb.nextOrder, id) }
      arb := { s.arb with nextOrder := s.arb.nextOrder + 1 } } := by
  unfold queueSegs
  rw [get_set_cmd _ _ _ hp]
  dsimp only
  have hc : tset {} (setCmd s id c).cmds id { c with segUs := s.nowUs } = tset {} s.cmds id { c with segUs := s.nowUs } :=
    tset_tset _ _ _ _ _ (started_ne hp)
  show ({ setCmd s id c with cmds := tset {} (setCmd s id c).cmds id { c with segUs := s.nowUs }, cipher := _, arb := _ } : State) = _
  rw [hc]
  rfl

theorem hostData_received {s : State} {id : Nat} {data : List Nat}
    (h : ∀ j d, j < (getCmd s id).need - (getCmd s id).recv.length → data[j]? = some d →
      (hostSector (getNs s (getCmd s id).slot) (getCmd s id).io ((getCmd s id).recv.length + j)
        ((getCmd s id).lo + (getCmd s id).recv.length + j) d).2 = none) :
    (sectorsIn s (getCmd s id) data).findSome? (fun r => r.2) = none := by
  unfold sectorsIn
  rw [List.findSome?_eq_none_iff]
  intro r hr
  obtain ⟨⟨d, j⟩, hdj, rfl⟩ := List.mem_map.mp hr
  have hm := List.mem_zipIdx' hdj
  obtain ⟨hlt, he⟩ := hm
  have hlt' := hlt
  rw [List.length_take] at hlt'
  refine h j d (by omega) ?_
  rw [he, List.getElem_take, List.getElem?_eq_getElem]

/-! ### Protection information (R148) -/

theorem byteSwap_byteSwap (v : Nat) : byteSwap 8 (byteSwap 8 v) = v % 2 ^ 64 := by
  have hmod (a b : Nat) : (a * 256 + b % 256) % 256 = b % 256 := by omega
  have hdiv (a b : Nat) : (a * 256 + b % 256) / 256 = a := by omega
  simp only [byteSwap, beNum, leBytes, List.foldl, hmod, hdiv]
  omega

/-- The reference tag of a sector is the one its protection information was made with. -/
theorem piRefOf_withPi (v guard app ref : Nat) : piRefOf (withPi v (piWord guard app ref)) = ref % 2 ^ 32 := by
  unfold piRefOf withPi piWord
  have hs : (v % 2 ^ 32768 + (byteSwap 8 (guard * 2 ^ 48 + app % 65536 * 2 ^ 32 + ref % 2 ^ 32) <<< 32768)) >>> 32768 =
      byteSwap 8 (guard * 2 ^ 48 + app % 65536 * 2 ^ 32 + ref % 2 ^ 32) := by
    rw [Nat.shiftLeft_eq, Nat.shiftRight_eq_div_pow, Nat.add_mul_div_right _ _ (Nat.two_pow_pos _),
      Nat.div_eq_of_lt (Nat.mod_lt _ (Nat.two_pow_pos _)), Nat.zero_add]
  rw [hs, byteSwap_byteSwap]
  omega

theorem hostSector_noPi (n : Ns) (io : IoCmd) (j lba v : Nat) (h : hasPi n = false) :
    hostSector n io j lba v = (v % 2 ^ (8 * storedBytes n.fmt), none) := by
  unfold hostSector hostBytes
  rw [h]
  rfl

/-- With PIREMAP an append's reference tag becomes the low 32 bits of the LBA assigned. -/
theorem hostSector_remap (n : Ns) (io : IoCmd) (j lba v : Nat) (h : hasPi n = true) (hp : n.pi ≠ 3) (hr : io.piremap = true)
    (hop : io.op = .zoneAppend ∨ io.op = .frameAppend) : piRefOf (hostSector n io j lba v).1 = lba % 2 ^ 32 := by
  have hc : (io.piremap && (io.op == .zoneAppend || io.op == .frameAppend)) = true := by
    rcases hop with e | e <;> rw [hr, e] <;> rfl
  unfold hostSector remapRef
  dsimp only
  rw [h, hc, if_neg (show ¬ (!true) = true by simp), if_pos rfl, if_neg (by simpa using hp)]
  rw [piRefOf_withPi, Nat.mod_mod]

/-! ### The engines (R26, R295, R302, R329) -/

theorem segment_passes {s : State} {x : Nat × Nat × Nat} (h : argMin segKey s.cipher.segs = some x) :
    let m := getCmd s x.2.2
    let n := segBlocks s m
    let e := s.cipher.engs.getD s.cipher.nextEng {}
    let wait := (s.nowUs - m.segUs) * (if s.clk.fallback = true then 400 else 1200)
    exec .cipherSegmentStart s = .next { s with
      cmds := tset {} s.cmds x.2.2 { m with out := m.out ++ segOut s m, segs := m.segs + 1 }
      cipher := { s.cipher with
        segs := s.cipher.segs.erase x
        nextEng := (s.cipher.nextEng + 1) % 6
        engs := s.cipher.engs.set s.cipher.nextEng { e with
          blocks := e.blocks + n, bank := if n = 0 then e.bank else Config.genAfter e.bank n
          urgWait := if m.cls = 0 then max e.urgWait wait else e.urgWait
          recent := e.recent.filter (fun r => decide (s.nowUs < r.1 + 1000)) ++ [(s.nowUs, n)] } } } := by
  intro m n e wait
  have hx : exec .cipherSegmentStart s = .next (passSegment { s with cipher := { s.cipher with segs := s.cipher.segs.erase x } } x.2.2) := by
    show execCipherSegmentStart s = _
    unfold execCipherSegmentStart
    rw [h]
    rfl
  have ho : segOut { s with cipher := { s.cipher with segs := s.cipher.segs.erase x } } m = segOut s m := rfl
  have hb : segBlocks { s with cipher := { s.cipher with segs := s.cipher.segs.erase x } } m = n := rfl
  rw [hx]
  unfold passSegment
  dsimp only
  change Host.Outcome.next (enterEngine (setCmd { s with cipher := { s.cipher with segs := s.cipher.segs.erase x } } x.2.2
    { m with out := m.out ++ segOut { s with cipher := { s.cipher with segs := s.cipher.segs.erase x } } m, segs := m.segs + 1 }) m.cls
      (segBlocks { s with cipher := { s.cipher with segs := s.cipher.segs.erase x } } m) (s.nowUs - m.segUs)) = _
  rw [ho, hb]
  generalize n = n'
  generalize segOut s m = o
  unfold enterEngine
  simp only [beq_iff_eq]
  rfl

/-- Settles O10: the data come in as the port passes them on, and the segments pass the engines in order. -/
theorem dataReachesTheEngines : Obligations.DataReachesTheEngines := by
  unfold Obligations.DataReachesTheEngines
  refine ⟨?_, hostSector_noPi, hostSector_remap, fun s x h => segment_passes h, fun s h => ?_⟩
  · intro s id data c sec hc hp ht hw hr hl
    have he := hostData_exec data hc hp ht hw hr hl
    refine ⟨fun hok => ?_, fun d l st hd hst hq hn hf => ?_⟩
    · intro r
      have hr' : (getCmd s id).recv ++ (sectorsIn s (getCmd s id) data).map (·.1) = r := by
        unfold sectorsIn
        rw [List.map_map]
        rfl
      rw [he, hostData_received hok]
      dsimp only
      rw [hr']
      by_cases hlen : r.length = c.need
      · rw [if_pos (beq_iff_eq.mpr hlen), if_pos hlen, queueSegs_received { getCmd s id with recv := r } hp]
      · rw [if_neg (by simpa using hlen), if_neg hlen]
        rfl
    · have hfind : (sectorsIn s (getCmd s id) data).findSome? (fun r => r.2) = some st := by
        obtain ⟨m, hm⟩ : ∃ m, (getCmd s id).need - (getCmd s id).recv.length = m + 1 := ⟨_, (Nat.succ_pred_eq_of_pos (Nat.sub_pos_of_lt hr)).symm⟩
        unfold sectorsIn
        rw [hm, hd, List.take_succ_cons, List.zipIdx_cons, List.map_cons, List.findSome?_cons, show
          (hostSector (getNs s (getCmd s id).slot) (getCmd s id).io ((getCmd s id).recv.length + 0)
            ((getCmd s id).lo + (getCmd s id).recv.length + 0) d).2 = some st from hst]
      rw [hfind] at he
      obtain ⟨hpo, hg⟩ := complete_posts (s := s) (id := id) st 0 0 [] hn
      exact ⟨_, he, hpo.cqeWaits, hg, hpo.sectors, (stripesStand_complete hf id st 0 0 [] hn).stripes, complete_guarded _ _ _ _ _ _⟩
  · show execCipherSegmentStart s = _
    unfold execCipherSegmentStart
    rw [h]
    rfl

end Sys2Proof.Machine
end
section
/-! SUPPORT. Codeword reads that are added to the table of reads (R181, R268, R326). -/

namespace Sys2Proof.Machine

theorem mem_tset_self {α : Type} [DecidableEq α] {d v : α} (hv : v ≠ d) (l : List (Nat × α)) (i : Nat) : (i, v) ∈ tset d l i v := by
  induction l with
  | nil => simp [tset, hv]
  | cons x r ih =>
    obtain ⟨k, w⟩ := x
    unfold tset
    split
    · simp
    · split
      · simp
      · exact List.mem_cons_of_mem _ ih

theorem mem_tset_other {α : Type} [DecidableEq α] (d v : α) {l : List (Nat × α)} {i : Nat} {x : Nat × α} (h : x ∈ l) (hi : x.1 ≠ i) :
    x ∈ tset d l i v := by
  induction l with
  | nil => cases h
  | cons y r ih =>
    obtain ⟨k, w⟩ := y
    unfold tset
    rcases List.mem_cons.mp h with rfl | hr
    · split
      · split <;> simp
      · split
        · next he => exact absurd he.symm hi
        · simp
    · split
      · split <;> simp [hr]
      · split
        · split <;> simp [hr]
        · exact List.mem_cons_of_mem _ (ih hr)

/-- `t` is `s` with other reads, the next number no lower, and every read with a number given before it still there. -/
structure ReadsAdded (s t : State) : Prop where
  only : t = { s with reads := t.reads, sched := { s.sched with nextRd := t.sched.nextRd } }
  next : s.sched.nextRd ≤ t.sched.nextRd
  keep : ∀ kv ∈ s.reads, kv.1 < s.sched.nextRd → kv ∈ t.reads

theorem ReadsAdded.trans {s t u : State} (h : ReadsAdded s t) (k : ReadsAdded t u) : ReadsAdded s u := by
  refine ⟨?_, h.next.trans k.next, fun kv hkv hlt => k.keep kv (h.keep kv hkv hlt) (Nat.lt_of_lt_of_le hlt h.next)⟩
  have := k.only
  rw [h.only] at this
  exact this

theorem readsAdded_newRd (s : State) (r : Rd) : ReadsAdded s (newRd s r).1 :=
  ⟨rfl, Nat.le_succ _, fun _ hkv hlt => mem_tset_other _ _ hkv (Nat.ne_of_lt hlt)⟩

theorem readsAdded_foldl {β : Type} (f : State → β → State) (h : ∀ a x, ReadsAdded a (f a x)) (l : List β) (s : State) :
    ReadsAdded s (l.foldl f s) := by
  induction l generalizing s with
  | nil => exact ⟨rfl, Nat.le_refl _, fun _ h _ => h⟩
  | cons x r ih => exact (h s x).trans (ih _)

/-- A read that needs the other units of its stripe asks for each of them and waits in step 9. -/
theorem startRebuild_adds (s : State) (i : Nat) :
    ReadsAdded (setRd s i { getRd s i with step := 9, st := .rebuild }) (startRebuild s i) :=
  readsAdded_foldl _ (fun a _ => readsAdded_newRd a _) _ _

/-- A read asked for is in the table, under its own number, with its owner. -/
theorem addRd_listed (s : State) (r : Rd) (h : r.own ≠ .scrub) :
    (∃ kv ∈ (addRd s r).1.reads, kv.2.own = r.own) ∧
    (addRd s r).1 = { s with reads := (addRd s r).1.reads, sched := { s.sched with nextRd := (addRd s r).1.sched.nextRd } } := by
  have hne : ({ r with us := s.opUs } : Rd) ≠ {} := fun e => h (congrArg Rd.own e)
  unfold addRd
  dsimp only
  split
  · have ha := startRebuild_adds (newRd s r).1 (newRd s r).2
    have hr : getRd (newRd s r).1 (newRd s r).2 = { r with us := s.opUs } := tget_tset_same _ _ _ _ hne
    rw [hr] at ha
    have hne' : ({ r with us := s.opUs, step := 9, st := .rebuild } : Rd) ≠ {} := fun e => h (congrArg Rd.own e)
    refine ⟨⟨_, ha.keep _ (mem_tset_self hne' _ _) (Nat.lt_succ_self _), rfl⟩, ?_⟩
    rw [ha.only]
    rfl
  · exact ⟨⟨_, mem_tset_self hne _ _, rfl⟩, rfl⟩

/-- A read of the Plinth that is asked for is in the table, whether it was there before or not. -/
theorem askPlinth_listed (s : State) (own : Owner) (n : Nat) (h : own ≠ .scrub) :
    (∃ kv ∈ (askPlinth s own n).reads, kv.2.own = own) ∧ askPlinth s own n =
      { s with reads := (askPlinth s own n).reads, sched := { s.sched with nextRd := (askPlinth s own n).sched.nextRd } } := by
  unfold askPlinth
  split
  · next ha =>
    obtain ⟨kv, hkv, he⟩ := List.any_eq_true.mp ha
    exact ⟨⟨kv, hkv, beq_iff_eq.mp he⟩, rfl⟩
  · exact addRd_listed s (plinthRd s own (plinthRanks s).1 n) h

end Sys2Proof.Machine
end

section
/-! PROOFS. A Read completes with its sectors deciphered; the fine map (R33, R116, R145, R147, R181). -/

namespace Sys2Proof.Machine

theorem readDataSent_exec {s : State} {id : Nat} (hc : hasCmd s id = true) (hp : (getCmd s id).phase = .started)
    (hr : isRead (getCmd s id).io.op = true) (hw : (getCmd s id).want = []) (hne : (getCmd s id).rds ≠ [])
    (hd : ∀ r ∈ (getCmd s id).rds, rdDone r.st = true) (hs : (getCmd s id).segs = segCount (getCmd s id).lo (getCmd s id).hi) :
    exec (.readDataSentNotice id) s = .next (readSent s id) := by
  show execReadDataSentNotice id s = _
  unfold execReadDataSentNotice
  dsimp only
  rw [if_neg]
  · rfl
  · have he : (getCmd s id).rds.isEmpty = false := by simpa using hne
    simp [hc, hp, hr, hw, hs, he]
    exact hd

/-- What the successful end of a command without a write slot leaves of the data and zones. -/
theorem complete_success {s : State} {id : Nat} (data : List Fld) (hn : NoFlushWaits s) (hw : (getCmd s id).wslot = false) :
    let c := getCmd s id
    let t := complete s id .success 0 0 data
    CqeWaits t (ctrlOfSq c.sq) (qidOfSq c.sq) c.io.cid .success ∧ hasCmd t id = false ∧
    (qidOfSq c.sq ≠ 0 → ∃ e ∈ (getCq t (qk (ctrlOfSq c.sq) (getSq t (qk (ctrlOfSq c.sq) (qidOfSq c.sq))).cqid)).waiting,
      e.cid = c.io.cid ∧ e.data = data) ∧ t.sectors = s.sectors ∧ t.zones = s.zones ∧ guarded t = guarded s := by
  intro c t
  obtain ⟨hpo, hg⟩ := complete_posts (s := s) (id := id) .success 0 0 data hn
  refine ⟨hpo.cqeWaits, hg, fun hq => ⟨mkCqe s (ctrlOfSq c.sq) (qidOfSq c.sq) c.io.cid .success 0 0 data, ?_, rfl, rfl⟩, hpo.sectors, ?_, complete_guarded _ _ _ _ _ _⟩
  · have := hpo.entry
    rw [if_neg (by simpa using hq)] at this
    exact this
  · have hco := complete_ok s id 0 0 data (fun kv hkv hop => absurd hop (hn kv hkv)) hw
    show (complete s id .success 0 0 data).zones = s.zones
    rw [hco, discard_eq]
    · rfl
    · exact hw

theorem countRead_only (s : State) (c : Cmd) : ∃ a b, countRead s c = { s with niches := a, ns := b } := ⟨_, _, rfl⟩

/-- The sectors a read sends, each with the status its check gives. -/
def sectorsOut (s : State) (c : Cmd) : List (Nat × Option Status) :=
  c.out.zipIdx.map (fun vj => sentSector (getNs s c.slot) c.io vj.2 vj.1)

theorem sectorsOut_good {s : State} {c : Cmd} (h : ∀ j v, c.out[j]? = some v → (sentSector (getNs s c.slot) c.io j v).2 = none) :
    (sectorsOut s c).findSome? (fun r => r.2) = none := by
  unfold sectorsOut
  rw [List.findSome?_eq_none_iff]
  intro r hr
  obtain ⟨⟨v, j⟩, hm, rfl⟩ := List.mem_map.mp hr
  obtain ⟨hlt, he⟩ := List.mem_zipIdx' hm
  exact h j v (by rw [he, List.getElem?_eq_getElem])

theorem readSent_eq (s : State) (id : Nat) : readSent s id =
    if (getCmd s id).io.op == .compare then
      complete s id (if (getCmd s id).rds.map (storedSec s (getCmd s id).slot) == (getCmd s id).out then .success else .compareFail)
    else match (sectorsOut s (getCmd s id)).findSome? (fun r => r.2) with
      | some st => complete s id st
      | none =>
        if (getCmd s id).io.op == .read then complete (countRead s (getCmd s id)) id .success 0 0
          (readFlds (getNs s (getCmd s id).slot) (getCmd s id).io ((sectorsOut s (getCmd s id)).map (·.1)))
        else complete s id .success := by
  unfold readSent sectorsOut
  rfl

theorem fineMap_updates {s : State} {k : Nat} {l : List Nat} (hq : s.fineQ = k :: l) (hp : pageHeld s (k / 2048) = true) :
    let v := tget ({} : Sector) s.sectors k
    let x := getStripe s v.sid
    let cache := (k / 2048) :: s.fineCache.filter (fun q => q != k / 2048)
    exec .fineMapUpdate s = .next { s with
      fineQ := l
      fineCache := if s.arm.cfg.dev.dramMode = 0 then cache.take 512 else cache
      fine := tset {} s.fine k (if v = {} then {} else if v.unc = true then { state := 2 } else { state := 1, rank := x.rank, row := x.row, stripe := x.t, sector := v.pos }) } := by
  intro v x cache
  have hx : exec .fineMapUpdate s = .next (setFine { s with fineQ := l } k) := by
    show execFineMapUpdate s = _
    unfold execFineMapUpdate
    rw [hq]
    dsimp only
    rw [hp, if_pos rfl]
    rfl
  rw [hx]
  unfold setFine touchPage fineEntry
  simp only [beq_iff_eq]
  rfl

/-- Settles O12: the last data of a Read end it with what its checks find, and a fine-map update makes its entry. -/
theorem readsComplete : Obligations.ReadsComplete := by
  unfold Obligations.ReadsComplete
  refine ⟨?_, ?_, ?_⟩
  · intro s id c n hc hp hr hw hne hd hs hq hsl hn
    have he := readDataSent_exec hc hp hr hw hne hd hs
    rw [readSent_eq] at he
    refine ⟨fun hchk hcmp => ?_, fun hop hdiff => ?_, fun v l st hop hout hst => ?_⟩
    · by_cases hop : c.io.op = .compare
      · rw [if_pos (beq_iff_eq.mpr hop), if_pos (beq_iff_eq.mpr (hcmp hop))] at he
        obtain ⟨h1, h2, -, h3, h4, h5⟩ := complete_success (s := s) (id := id) [] hn hsl
        exact ⟨_, he, h1, h2, fun e => absurd (hop.symm.trans e) (by simp), h3, h4, h5⟩
      · rw [if_neg (by simpa using hop), sectorsOut_good (hchk hop)] at he
        dsimp only at he
        by_cases hrd : c.io.op = .read
        · rw [if_pos (beq_iff_eq.mpr hrd)] at he
          obtain ⟨a, b, hcr⟩ := countRead_only s (getCmd s id)
          rw [hcr] at he
          obtain ⟨h1, h2, h0, h3, h4, h5⟩ := complete_success (s := { s with niches := a, ns := b }) (id := id)
            (readFlds (getNs s (getCmd s id).slot) (getCmd s id).io ((sectorsOut s (getCmd s id)).map (·.1))) hn hsl
          refine ⟨_, he, h1, h2, fun _ => ?_, h3, h4, h5⟩
          obtain ⟨e, hm, hcid, hdata⟩ := h0 hq
          refine ⟨e, hm, hcid, hdata.trans ?_⟩
          unfold sectorsOut
          rw [List.map_map]
          rfl
        · rw [if_neg (by simpa using hrd)] at he
          obtain ⟨h1, h2, -, h3, h4, h5⟩ := complete_success (s := s) (id := id) [] hn hsl
          exact ⟨_, he, h1, h2, fun e => absurd e hrd, h3, h4, h5⟩
    · rw [if_pos (beq_iff_eq.mpr hop), if_neg (by simpa using hdiff)] at he
      obtain ⟨hpo, hg⟩ := complete_posts (s := s) (id := id) .compareFail 0 0 [] hn
      exact ⟨_, he, hpo.cqeWaits, hg, hpo.sectors, complete_guarded _ _ _ _ _ _⟩
    · have hf : (sectorsOut s (getCmd s id)).findSome? (fun r => r.2) = some st := by
        unfold sectorsOut
        rw [show (getCmd s id).out = v :: l from hout, List.zipIdx_cons, List.map_cons, List.findSome?_cons,
          show (sentSector (getNs s (getCmd s id).slot) (getCmd s id).io 0 v).2 = some st from hst]
      rw [if_neg (by simpa using hop), hf] at he
      obtain ⟨hpo, hg⟩ := complete_posts (s := s) (id := id) st 0 0 [] hn
      exact ⟨_, he, hpo.cqeWaits, hg, hpo.sectors, complete_guarded _ _ _ _ _ _⟩
  · intro s k l hq v x cache
    refine ⟨fun hp => fineMap_updates hq hp, fun hp => ?_⟩
    have hx : exec .fineMapUpdate s = .next (askPlinth s (.page (k / 2048)) (k / 2048)) := by
      show execFineMapUpdate s = _
      unfold execFineMapUpdate
      rw [hq]
      dsimp only
      rw [hp, if_neg Bool.false_ne_true]
      rfl
    obtain ⟨hl, ho⟩ := askPlinth_listed s (.page (k / 2048)) (k / 2048) (by simp)
    refine ⟨_, hx, ?_, ?_, hl, ?_, ?_⟩ <;> rw [ho]
  · intro s h
    show execFineMapUpdate s = _
    unfold execFineMapUpdate
    rw [h]
    rfl

end Sys2Proof.Machine
end
section
/-! SUPPORT. Rows that are bound to a zone or a slot (R165, R182). -/

namespace Sys2Proof.Machine

/-- Binding rows changes the table of rows and notes each in the journal. -/
theorem bindRows_only (i : Nat) (zone : Option Nat) (l : List (Nat × Nat)) (pos : Nat) (s : State) :
    ∃ r, bindRows s i zone pos l = { s with rows := r, plinth := { s.plinth with jrnl := s.plinth.jrnl + l.length } } := by
  induction l generalizing s pos with
  | nil => exact ⟨s.rows, rfl⟩
  | cons kr t ih =>
    obtain ⟨r, hr⟩ := ih (pos + 1) (bindRow s i zone pos kr)
    refine ⟨r, ?_⟩
    rw [bindRows, hr, List.length_cons, Nat.add_comm t.length 1, ← Nat.add_assoc]
    rfl

/-- The row at a key is bound to the slot. -/
def BoundTo (s : State) (i key : Nat) : Prop := (getRow s key).st = .bound ∧ (getRow s key).slot = i

theorem getRow_bindRow_same (s : State) (i : Nat) (zone : Option Nat) (pos : Nat) (kr : Nat × Nat) :
    getRow (bindRow s i zone pos kr) (rk kr.1 kr.2) = { st := .bound, slot := i, zone := zone, pos := pos, chmask := maskOf (healthy s kr.1), p := 2, d := nk s kr.1 - 2, seq := s.sched.seqNo } :=
  tget_tset_same _ _ _ _ fun e => by
    have := congrArg Row.st e
    cases this

theorem boundTo_bindRow {s : State} {i key : Nat} (zone : Option Nat) (pos : Nat) (kr : Nat × Nat)
    (h : key = rk kr.1 kr.2 ∨ BoundTo s i key) : BoundTo (bindRow s i zone pos kr) i key := by
  by_cases e : key = rk kr.1 kr.2
  · rw [e, BoundTo, getRow_bindRow_same]
    exact ⟨rfl, rfl⟩
  · have hr : getRow (bindRow s i zone pos kr) key = getRow s key := tget_tset_ne _ _ _ _ _ e
    rw [BoundTo, hr]
    exact h.resolve_left e

theorem boundTo_bindRows (i : Nat) (zone : Option Nat) (key : Nat) (l : List (Nat × Nat)) (pos : Nat) (s : State)
    (h : BoundTo s i key ∨ ∃ kr ∈ l, key = rk kr.1 kr.2) : BoundTo (bindRows s i zone pos l) i key := by
  induction l generalizing s pos with
  | nil =>
    rcases h with h | ⟨kr, hkr, -⟩
    · exact h
    · cases hkr
  | cons x t ih =>
    rw [bindRows]
    refine ih (pos + 1) _ ?_
    rcases h with h | ⟨kr, hkr, he⟩
    · exact .inl (boundTo_bindRow zone pos x (.inr h))
    · rcases List.mem_cons.mp hkr with rfl | hm
      · exact .inl (boundTo_bindRow zone pos kr (.inl he))
      · exact .inr ⟨kr, hm, he⟩

theorem bindPlan_ne_nil {s : State} {n w : Nat} {l : List (Nat × Nat)} (hw : 0 < w) (h : bindPlan s n w = .rows l) : l ≠ [] := by
  unfold bindPlan at h
  dsimp only at h
  split at h
  · injection h with h
    rw [← h]
    simp
    omega
  · split at h <;> cases h

/-- The rows of a zone that has just had them bound (R165). -/
def boundZone (v : Zone) (l : List (Nat × Nat)) (cap : Nat) : Zone :=
  { v with wp := 0, rows := l, zcap := cap, waste := 0, pads := [], npad := 0, nstripe := 0, fill := none }

theorem zoneChanged_noted (s : State) (i z : Nat) : ∃ l, Noted { s with ns := l } (zoneChanged s i z) := by
  unfold zoneChanged
  dsimp only
  split
  · exact ⟨s.ns, noted_raiseStd s _ _ _⟩
  · exact ⟨_, noted_raiseStd (setNs s i _) _ _ _⟩

theorem zoneBind_noted (s : State) (i z : Nat) (l : List (Nat × Nat)) : ∃ n cap,
    Noted { setZone (bindRows s i (some z) 0 l) (zk i z) (boundZone (getZone s (zk i z)) l cap) with ns := n } (zoneBind s i z l) := by
  obtain ⟨r, hr⟩ := bindRows_only i (some z) l 0 s
  have hz : getZone (bindRows s i (some z) 0 l) (zk i z) = getZone s (zk i z) := by rw [hr]; rfl
  unfold zoneBind
  dsimp only
  rw [hz]
  generalize sumBy _ l = cap
  have hc (x : State) (p : Prop) [Decidable p] : ∃ n, Noted { x with ns := n } (if p then x else zoneChanged x i z) := by
    split
    · exact ⟨x.ns, .refl x⟩
    · exact zoneChanged_noted x i z
  obtain ⟨n, hn⟩ := hc (setZone (bindRows s i (some z) 0 l) (zk i z) (boundZone (getZone s (zk i z)) l cap))
    ((cap == zcap0 (setZone (bindRows s i (some z) 0 l) (zk i z) (boundZone (getZone s (zk i z)) l cap))
      (getNs (setZone (bindRows s i (some z) 0 l) (zk i z) (boundZone (getZone s (zk i z)) l cap)) i).attr) = true)
  exact ⟨n, cap, hn⟩

end Sys2Proof.Machine
end

section
/-! PROOFS. Writes and appends start (R111, R113, R165, R169, R170, R182). -/

namespace Sys2Proof.Machine

/-- Where a zone write begins (R170). -/
def writeLo (s : State) (c : Cmd) : Nat :=
  if isAppend c.io.op then zoneOfLba s c.slot c.io.slba * zsze (getNs s c.slot).attr.zw +
    (getZone s (zk c.slot (zoneOfLba s c.slot c.io.slba))).wp else c.io.slba

/-- A zone that is written is opened (R167). -/
def openedZone (v : Zone) : Zone := { v with st := if v.st == .empty || v.st == .closed then .implicit else v.st }

/-- The start of a zone write whose zone has its rows. -/
def zoneGo (t : State) (id i z lo nlb : Nat) : State :=
  let t2 := setZone t (zk i z) (openedZone (getZone t (zk i z)))
  withRequests (markStarted t2 id lo (lo + nlb) true true true (some z)) id (rooms t2 i z (nlb + 1))

theorem withRequests_markStarted (s : State) (id lo hi : Nat) (lock excl wslot : Bool) (zone : Option Nat) (room : List Nat) :
    withRequests (markStarted s id lo hi lock excl wslot zone) id room = setCmd s id { getCmd s id with
      phase := .started, lo := lo, hi := hi, lock := lock, excl := excl, wslot := wslot, zone := zone,
      want := requests (getNs s (getCmd s id).slot).fmt (getCmd s id).conf.isSome room ((getCmd s id).io.nlb + 1) } := by
  unfold withRequests markStarted
  rw [get_set_cmd _ _ _ rfl]
  exact congrArg (fun l => ({ s with cmds := l } : State)) (tset_tset _ _ _ _ _ (started_ne rfl))

/-- The command as it starts, with its range and the buffers it asks for. -/
def startedWrite (c : Cmd) (lo hi : Nat) (wslot : Bool) (zone : Option Nat) (w : List (Nat × Nat)) : Cmd :=
  { c with phase := .started, lo := lo, hi := hi, lock := true, excl := true, wslot := wslot, zone := zone, want := w }

theorem zoneGo_eq (t : State) (id i z lo nlb : Nat) : ∃ w, zoneGo t id i z lo nlb = { t with
    zones := tset {} t.zones (zk i z) (openedZone (getZone t (zk i z)))
    cmds := tset {} t.cmds id (startedWrite (getCmd t id) lo (lo + nlb) true (some z) w) } := by
  unfold zoneGo
  dsimp only
  rw [withRequests_markStarted]
  exact ⟨_, rfl⟩

theorem zoneGo_cmd (t : State) (id i z lo nlb : Nat) : ∃ w,
    getCmd (zoneGo t id i z lo nlb) id = startedWrite (getCmd t id) lo (lo + nlb) true (some z) w := by
  obtain ⟨w, hw⟩ := zoneGo_eq t id i z lo nlb
  rw [hw]
  exact ⟨w, tget_tset_same _ _ _ _ (started_ne rfl)⟩

section
variable {s : State} {id : Nat}
  (h1 : slotTaken s (getCmd s id).slot (zoneOfLba s (getCmd s id).slot (getCmd s id).io.slba) = false)
  (h2 : (getZone s (zk (getCmd s id).slot (zoneOfLba s (getCmd s id).slot (getCmd s id).io.slba))).held = [])
  (h3 : conflicts s (getCmd s id).slot (writeLo s (getCmd s id)) (writeLo s (getCmd s id) + (getCmd s id).io.nlb) true = false)
  (h4 : lockAvail s (getCmd s id).niche = true) (h5 : (getNch s (getCmd s id).niche).readOnly = false)
  (h6 : zoneWriteCheck s (getCmd s id).slot (zoneOfLba s (getCmd s id).slot (getCmd s id).io.slba) (getCmd s id).io = none)
  (h7 : limitCheck s (getCmd s id).slot
    (getZone s (zk (getCmd s id).slot (zoneOfLba s (getCmd s id).slot (getCmd s id).io.slba))) = (.success, none))
include h1 h2 h3 h4 h5 h6 h7

/-- A zone write whose checks pass, by whether its zone has rows. -/
theorem startZoneWrite_eq : startZoneWrite s id =
    let c := getCmd s id
    let z := zoneOfLba s c.slot c.io.slba
    let s1 := setCmd s id { c with zone := some z }
    if (getZone s (zk c.slot z)).st == .empty then
      match bindPlan s c.niche (2 ^ (getNs s c.slot).attr.zw) with
      | .rows l => zoneGo (zoneBind (waitErase s1 id []) c.slot z l) id c.slot z (writeLo s c) c.io.nlb
      | .wait l => waitErase s1 id l
      | .none => complete (nicheRec s1 c.niche 0x32 3 0 (z * zsze (getNs s c.slot).attr.zw) c.slot) id .capExceeded
    else zoneGo s1 id c.slot z (writeLo s c) c.io.nlb := by
  unfold startZoneWrite
  dsimp only
  change (if (_ || _ || conflicts s (getCmd s id).slot (writeLo s (getCmd s id)) (writeLo s (getCmd s id) + (getCmd s id).io.nlb) true || _) = true then _ else _) = _
  rw [h1, h2, h3, h4, if_neg (by simp), h5, if_neg Bool.false_ne_true, h6, h7]
  rfl

end

/-- Zone writes go by `startZoneWrite`. -/
theorem tryStart_zoneWrite {s u : State} {c q : Nat} {io : IoCmd} {id : Nat} (g : Granted s c q io u id)
    (hchk : ioCheck u (getCmd u id) = none) (hw : isZoneWrite io.op = true) (hz : zonedAt u (getCmd u id).slot = true) :
    startCmd.tryStart u id = startZoneWrite u id := by
  have hop : io.op = .write ∨ io.op = .writeZeroes ∨ io.op = .zoneAppend ∨ io.op = .frameAppend := by
    revert hw
    cases io.op <;> simp [isZoneWrite]
  have ht := try_op g hchk
  rcases hop with h | h | h | h <;> rw [ht, h] <;> exact if_pos hz

/-- Writes of a conventional namespace go by `startFineWrite`. -/
theorem tryStart_fineWrite {s u : State} {c q : Nat} {io : IoCmd} {id : Nat} (g : Granted s c q io u id)
    (hchk : ioCheck u (getCmd u id) = none) (hw : writesData u (getCmd u id).slot io = true) (hz : zonedAt u (getCmd u id).slot = false) :
    startCmd.tryStart u id = startFineWrite u id := by
  unfold writesData at hw
  obtain ⟨hzw, hd⟩ := Bool.and_eq_true_iff.mp hw
  have hd' : deallocates u (getCmd u id).slot io = false := by simpa using hd
  have hop : io.op = .write ∨ io.op = .writeZeroes ∨ io.op = .zoneAppend ∨ io.op = .frameAppend := by
    revert hzw
    cases io.op <;> simp [isZoneWrite]
  have ht := try_op g hchk
  rcases hop with h | h | h | h <;> rw [ht, h] <;> rw [hz, hd'] <;> rfl

/-- The write to a zone that has its rows. -/
theorem zoneWrite_opens {i : Instr} {s u : State} {c q id : Nat} {io : IoCmd} (hrow : ioRow i = some (c, q, io))
    (g : Granted s c q io u id) {t : State} {k z lo nlb : Nat} (ht : startCmd.tryStart u id = zoneGo t id k z lo nlb) :
    ∃ x w, exec i s = .next x ∧ getCmd x id = startedWrite (getCmd t id) lo (lo + nlb) true (some z) w ∧
      x = noted (zoneGo t id k z lo nlb) (getCmd u id).niche u.nowUs := by
  obtain ⟨w, hw⟩ := zoneGo_cmd t id k z lo nlb
  have hgo := start_go g (.inr (by rw [ht, hw]; rfl))
  rw [ht] at hgo
  exact ⟨_, w, (row_exec hrow g).trans (congrArg _ hgo), hw, rfl⟩

theorem zoneGo_boundZone {s : State} {i z : Nat} {l : List (Nat × Nat)} (id lo nlb : Nat) (hl : l ≠ [])
    (hv : (getZone s (zk i z)).st = .empty) :
    let t := zoneGo (zoneBind s i z l) id i z lo nlb
    (getZone t (zk i z)).st = .implicit ∧ (getZone t (zk i z)).rows = l ∧ (getZone t (zk i z)).wp = 0 ∧
    (∀ kr ∈ l, BoundTo t i (rk kr.1 kr.2)) ∧ t.plinth.jrnl = s.plinth.jrnl + l.length ∧ t.sectors = s.sectors := by
  intro t
  obtain ⟨n, cap, hn⟩ := zoneBind_noted s i z l
  obtain ⟨r, hr⟩ := bindRows_only i (some z) l 0 s
  have hne : boundZone (getZone s (zk i z)) l cap ≠ {} := fun e => hl (congrArg Zone.rows e)
  have hz : getZone (zoneBind s i z l) (zk i z) = boundZone (getZone s (zk i z)) l cap := by
    unfold getZone
    rw [hn.zones]
    exact tget_tset_same _ _ _ _ hne
  obtain ⟨w, hw⟩ := zoneGo_eq (zoneBind s i z l) id i z lo nlb
  have hzt : getZone t (zk i z) = openedZone (boundZone (getZone s (zk i z)) l cap) := by
    rw [← hz]
    show getZone (zoneGo (zoneBind s i z l) id i z lo nlb) (zk i z) = _
    rw [hw]
    refine tget_tset_same _ _ _ _ fun e => hl ?_
    rw [hz] at e
    exact congrArg Zone.rows e
  have hrow : t.rows = (bindRows s i (some z) 0 l).rows := by
    show (zoneGo (zoneBind s i z l) id i z lo nlb).rows = _
    rw [hw]
    exact hn.rows
  refine ⟨?_, by rw [hzt]; rfl, by rw [hzt]; rfl, fun kr hkr => ?_, ?_, ?_⟩
  · rw [hzt, openedZone, boundZone]
    dsimp only
    rw [hv]
    rfl
  · have hb := boundTo_bindRows i (some z) (rk kr.1 kr.2) l 0 s (.inr ⟨kr, hkr, rfl⟩)
    unfold BoundTo getRow at hb ⊢
    rw [hrow]
    exact hb
  · show (zoneGo (zoneBind s i z l) id i z lo nlb).plinth.jrnl = _
    rw [hw]
    show (zoneBind s i z l).plinth.jrnl = _
    rw [hn.plinth]
    show (bindRows s i (some z) 0 l).plinth.jrnl = _
    rw [hr]
  · show (zoneGo (zoneBind s i z l) id i z lo nlb).sectors = _
    rw [hw]
    show (zoneBind s i z l).sectors = _
    rw [hn.sectors]
    show (bindRows s i (some z) 0 l).sectors = _
    rw [hr]

theorem zoneGo_guarded (t : State) (id i z lo nlb : Nat) : guarded (zoneGo t id i z lo nlb) = guarded t := by
  obtain ⟨w, hw⟩ := zoneGo_eq t id i z lo nlb
  rw [hw]
  rfl

theorem granted_guarded {s u : State} {c q : Nat} {io : IoCmd} {id : Nat} (g : Granted s c q io u id) : guarded u = guarded s := by
  rw [granted_eq g]
  rfl

/-! ### A write to a conventional namespace (R111, R182) -/

theorem refreshGc_only (s : State) (n : Nat) : ∃ l, refreshGc s n = { s with niches := l } := by
  unfold refreshGc
  dsimp only
  split
  · exact ⟨_, rfl⟩
  · exact ⟨_, rfl⟩

/-- The start of a write of a conventional namespace that has room. -/
def fineGo (t : State) (id lo nlb n : Nat) : State :=
  refreshGc (withRequests (markStarted (waitErase t id []) id lo (lo + nlb) true true false none) id []) n

theorem fineGo_eq (t : State) (id lo nlb n : Nat) (hs : (getCmd t id).sq ≠ 0) : ∃ l, fineGo t id lo nlb n = { t with
    niches := l
    cmds := tset {} t.cmds id (startedWrite { getCmd t id with erase := [] } lo (lo + nlb) false none
      (requests (getNs t (getCmd t id).slot).fmt (getCmd t id).conf.isSome [] ((getCmd t id).io.nlb + 1))) } := by
  have hne : ({ getCmd t id with erase := [] } : Cmd) ≠ {} := fun e => hs (congrArg Cmd.sq e)
  have hg : getCmd (waitErase t id []) id = { getCmd t id with erase := [] } := tget_tset_same _ _ _ _ hne
  unfold fineGo
  rw [withRequests_markStarted, hg]
  obtain ⟨l, hl⟩ := refreshGc_only (setCmd (waitErase t id []) id (startedWrite { getCmd t id with erase := [] } lo (lo + nlb) false none
      (requests (getNs t (getCmd t id).slot).fmt (getCmd t id).conf.isSome [] ((getCmd t id).io.nlb + 1)))) n
  refine ⟨l, hl.trans ?_⟩
  exact congrArg (fun c => ({ t with niches := l, cmds := c } : State)) (tset_tset _ _ _ _ _ hne)

section
variable {s : State} {id : Nat}
  (h1 : conflicts s (getCmd s id).slot (getCmd s id).io.slba ((getCmd s id).io.slba + (getCmd s id).io.nlb) true = false)
  (h2 : lockAvail s (getCmd s id).niche = true) (h3 : (getNch s (getCmd s id).niche).readOnly = false)
  (h4 : (getNch s (getCmd s id).niche).fgGc = false)
include h1 h2 h3 h4

theorem startFineWrite_room (h5 : (getCmd s id).io.nlb + 1 ≤ fineRoom s (getCmd s id).slot) :
    startFineWrite s id = fineGo s id (getCmd s id).io.slba (getCmd s id).io.nlb (getCmd s id).niche := by
  unfold startFineWrite
  dsimp only
  rw [h1, h2, if_neg (by simp), h3, if_neg Bool.false_ne_true, h4, if_neg (by simp), if_pos h5, if_neg Bool.false_ne_true]
  rfl

theorem startFineWrite_takes {l : List (Nat × Nat)} (h5 : fineRoom s (getCmd s id).slot < (getCmd s id).io.nlb + 1)
    (h6 : (getNs s (getCmd s id).slot).nextRow = none)
    (h7 : fineH s (getCmd s id).slot < fineRows s (getNs s (getCmd s id).slot).attr)
    (h8 : bindPlan s (getCmd s id).niche 1 = .rows l)
    (h9 : (getCmd s id).io.nlb + 1 ≤ fineRoom (takeFineRow s (getCmd s id).slot false) (getCmd s id).slot) :
    startFineWrite s id = fineGo (takeFineRow s (getCmd s id).slot false) id (getCmd s id).io.slba (getCmd s id).io.nlb
      (getCmd s id).niche := by
  unfold startFineWrite
  dsimp only
  rw [h1, h2, if_neg (by simp), h3, if_neg Bool.false_ne_true, h4, if_neg (by simp), if_neg (Nat.not_le.mpr h5), h6,
    if_neg (by simpa using h7), h8]
  dsimp only
  rw [if_pos h9, if_neg Bool.false_ne_true]
  rfl

end

theorem takeFineRow_host {s : State} {i : Nat} {kr : Nat × Nat} (h1 : fineH s i < fineRows s (getNs s i).attr)
    (h2 : bindPlan s (getNs s i).attr.niche 1 = .rows [kr]) (h3 : (getNs s i).hostRow = none) :
    takeFineRow s i false = setNs (bindRow s i none 0 kr) i { getNs s i with hostRow := some kr } := by
  unfold takeFineRow
  dsimp only
  rw [if_neg (by simpa using h1), h2]
  dsimp only
  rw [h3, if_neg (by simp)]
  rfl

/-- A write of a conventional namespace that starts in a state with room for it. -/
theorem fineWrite_starts {i : Instr} {s u : State} {c q id : Nat} {io : IoCmd} (hrow : ioRow i = some (c, q, io))
    (g : Granted s c q io u id) {t : State} (hc : t.cmds = u.cmds)
    (ht : startCmd.tryStart u id = fineGo t id io.slba io.nlb (getCmd u id).niche) :
    ∃ x, exec i s = .next x ∧
      getCmd x id = startedWrite { getCmd u id with erase := [] } io.slba (io.slba + io.nlb) false none
        (requests (getNs t (getCmd u id).slot).fmt (getCmd u id).conf.isSome [] (io.nlb + 1)) ∧
      x = { t with niches := x.niches, cmds := x.cmds } := by
  have hsq : (getCmd u id).sq ≠ 0 := by
    rw [g.from_, qk]
    have := g.ioQueue
    omega
  have hcmd : getCmd t id = getCmd u id := by unfold getCmd; rw [hc]
  obtain ⟨l, hl⟩ := fineGo_eq t id io.slba io.nlb (getCmd u id).niche (by rw [hcmd]; exact hsq)
  rw [hcmd] at hl
  have hget : getCmd (fineGo t id io.slba io.nlb (getCmd u id).niche) id = startedWrite { getCmd u id with erase := [] } io.slba
      (io.slba + io.nlb) false none (requests (getNs t (getCmd u id).slot).fmt (getCmd u id).conf.isSome [] (io.nlb + 1)) := by
    rw [hl, g.entry]
    exact tget_tset_same _ _ _ _ (started_ne rfl)
  have hgo := start_go g (.inr (by rw [ht, hget]; rfl))
  rw [ht] at hgo
  refine ⟨_, (row_exec hrow g).trans (congrArg _ hgo), hget, ?_⟩
  rw [hl]
  rfl

/-- Settles O1: a write or append that meets its checks starts, with rows bound first where its zone or slot has none. -/
theorem writesStart : Obligations.WritesStart := by
  unfold Obligations.WritesStart
  refine ⟨?_, ?_, ?_, ?_⟩
  · intro i s u c q id z io hrow hw g hchk hza hz m v lo hst h1 h2 h3 h4 h5 h6 h7
    have hio : (getCmd u id).io = io := g.entry
    subst hz
    have hlo : writeLo u (getCmd u id) = lo := by unfold writeLo; rw [hio]
    have ht := tryStart_zoneWrite g hchk hw hza
    rw [startZoneWrite_eq (by rw [hio]; exact h1) (by rw [hio]; exact h2) (by rw [hlo, hio]; exact h3) h4 h5 (by rw [hio]; exact h6)
      (by rw [hio]; exact h7)] at ht
    dsimp only at ht
    generalize hs1 : setCmd u id { getCmd u id with zone := some (zoneOfLba u (getCmd u id).slot (getCmd u id).io.slba) } = s1 at ht
    rw [hio, if_neg (by simpa using hst), hlo] at ht
    obtain ⟨x, w, he, hget, hx⟩ := zoneWrite_opens hrow g ht
    obtain ⟨w', hgo⟩ := zoneGo_eq s1 id (getCmd u id).slot (zoneOfLba u (getCmd u id).slot io.slba) lo io.nlb
    have hzone : openedZone v = { v with st := if v.st = .closed then .implicit else v.st } := by
      unfold openedZone
      cases hv : v.st <;> simp_all
    have hu := granted_eq g
    refine ⟨x, he, ?_, ?_, ?_, ?_, ?_, ?_, ?_, ?_, ?_, ?_, ?_, ?_⟩
    · rw [hget]; rfl
    · rw [hget]; rfl
    · rw [hget]; rfl
    · rw [hget]; rfl
    · rw [hget]; rfl
    · rw [hget]; rfl
    · rw [hget]; rfl
    · rw [hx, hgo, ← hzone, show s.zones = u.zones by rw [hu], ← hs1]
      rfl
    · rw [hx, hgo, show s.sectors = u.sectors by rw [hu], ← hs1]
      rfl
    · rw [hx, hgo, show s.stripes = u.stripes by rw [hu], ← hs1]
      rfl
    · rw [hx, hgo, show s.pool = u.pool by rw [hu], ← hs1]
      rfl
    · rw [hx, ← granted_guarded g, noted_guarded, zoneGo_guarded, ← hs1]
      rfl
  · intro i s u c q id z io l hrow hw g hchk hza hz m k v lo hst h1 h2 h3 h4 h5 h6 h7 hb
    have hio : (getCmd u id).io = io := g.entry
    subst hz
    have hlo : writeLo u (getCmd u id) = lo := by unfold writeLo; rw [hio]
    have ht := tryStart_zoneWrite g hchk hw hza
    rw [startZoneWrite_eq (by rw [hio]; exact h1) (by rw [hio]; exact h2) (by rw [hlo, hio]; exact h3) h4 h5 (by rw [hio]; exact h6)
      (by rw [hio]; exact h7)] at ht
    dsimp only at ht
    rw [if_pos (by rw [hio]; simpa using hst), hb] at ht
    dsimp only at ht
    generalize hs2 : waitErase (setCmd u id
      { getCmd u id with zone := some (zoneOfLba u (getCmd u id).slot (getCmd u id).io.slba) }) id [] = s2 at ht
    rw [hio, hlo] at ht
    obtain ⟨x, w, he, hget, hx⟩ := zoneWrite_opens hrow g ht
    have hu := granted_eq g
    have hz2 : getZone s2 k = v := by rw [← hs2]; rfl
    obtain ⟨a1, a2, a3, a4, a5, a6⟩ := zoneGo_boundZone (s := s2) (i := m.slot) (z := zoneOfLba u (getCmd u id).slot io.slba) (l := l) id lo io.nlb
      (bindPlan_ne_nil (Nat.two_pow_pos _) hb) (by rw [← hst]; exact congrArg Zone.st hz2)
    refine ⟨x, he, ?_, ?_, ?_, ?_, ?_, ?_, ?_, ?_, ?_, ?_, ?_, ?_⟩
    · rw [hget]; rfl
    · rw [hget]; rfl
    · rw [hget]; rfl
    · rw [hget]; rfl
    · rw [hget]; rfl
    · rw [hx]; exact a1
    · rw [hx]; exact a2
    · rw [hx]; exact a3
    · rw [hx]; exact a4
    · rw [hx]
      exact a5.trans (by rw [← hs2, show s.plinth = u.plinth by rw [hu]]; rfl)
    · rw [hx]
      exact a6.trans (by rw [← hs2, show s.sectors = u.sectors by rw [hu]]; rfl)
    · rw [hx, ← granted_guarded g, noted_guarded, zoneGo_guarded, zoneBind_guarded, ← hs2]
      rfl
  · intro i s u c q id io hrow g hchk m hza hw h1 h2 h3 h4 h5
    have hio : (getCmd u id).io = io := g.entry
    have ht := tryStart_fineWrite g hchk hw hza
    rw [startFineWrite_room (by rw [hio]; exact h1) h2 h3 h4 (by rw [hio]; exact h5), hio] at ht
    obtain ⟨x, he, hget, hx⟩ := fineWrite_starts hrow g rfl ht
    have hu := granted_eq g
    refine ⟨x, he, ?_, ?_, ?_, ?_, ?_, ?_, ?_, ?_, ?_, ?_, ?_⟩
    · rw [hget]; rfl
    · rw [hget]; rfl
    · rw [hget]; rfl
    · rw [hget]; rfl
    · rw [hget]; rfl
    · rw [hget]; rfl
    · rw [hget]; rfl
    · rw [hx, hu]
    · rw [hx, hu]
    · rw [hx, hu]
    · rw [hx, ← granted_guarded g]
      rfl
  · intro i s u c q id io kr hrow g hchk m hza hw h1 h2 h3 h4 h5 h6 h7 h8 h9 h10 h11
    have hio : (getCmd u id).io = io := g.entry
    have ht := tryStart_fineWrite g hchk hw hza
    have htk := takeFineRow_host h8 (by rw [h9]; exact h10) h6
    rw [startFineWrite_takes (by rw [hio]; exact h1) h2 h3 h4 (by rw [hio]; exact h5) h7 h8 h10 (by rw [hio]; exact h11), hio] at ht
    change startCmd.tryStart u id = fineGo (takeFineRow u m.slot false) id io.slba io.nlb _ at ht
    rw [htk] at ht
    obtain ⟨x, he, hget, hx⟩ := fineWrite_starts hrow g (by rfl) ht
    have hns : (getNs x m.slot).hostRow = some kr := by
      rw [hx]
      exact congrArg Ns.hostRow (tget_tset_same _ _ _ _ fun e => by
        have := congrArg Ns.hostRow e
        cases this)
    have hrw : getRow x (rk kr.1 kr.2) = getRow (bindRow u m.slot none 0 kr) (rk kr.1 kr.2) := by rw [hx]; rfl
    rw [getRow_bindRow_same] at hrw
    have hu := granted_eq g
    refine ⟨x, he, ?_, ?_, ?_, ?_, hns, ?_, ?_, ?_, ?_, ?_, ?_⟩
    · rw [hget]; rfl
    · rw [hget]; rfl
    · rw [hget]; rfl
    · rw [hget]; rfl
    · rw [hrw]
    · rw [hrw]
    · rw [hrw]
    · rw [hx, show s.zones = u.zones by rw [hu]]
      rfl
    · rw [hx, show s.sectors = u.sectors by rw [hu]]
      rfl
    · rw [hx, ← granted_guarded g]
      rfl

end Sys2Proof.Machine
end
section
/-! SUPPORT. A command that ends well, where no finish waits for its write slot; buffers for a command (R116, R171, R287). -/

namespace Sys2Proof.Machine

/-! ### The end of a command that holds a write slot no finish waits for -/

/-- No finish waits for the write slot the command holds, if it holds one. -/
def SlotQuiet (s : State) (c : Cmd) : Prop := ∀ z, c.zone = some z → c.wslot = true → (getZone s (zk c.slot z)).finPend = false

theorem slotQuiet_of_none {s : State} {c : Cmd} (h : c.wslot = false) : SlotQuiet s c := fun _ _ hw => by rw [h] at hw; cases hw

theorem slotFreed_of_quiet {s : State} {c : Cmd} (h : SlotQuiet s c) : slotFreed s c = s := by
  unfold slotFreed
  split
  · next z hz =>
    dsimp only
    by_cases hw : c.wslot = true
    · rw [h z hz hw, if_pos (by simp)]
    · rw [if_pos (by simp [hw])]
  · rfl

theorem discard_of_quiet {s : State} {id : Nat} (h : SlotQuiet s (getCmd s id)) :
    discard s id = { s with pool := (discard s id).pool, comms := (discard s id).comms, niches := (discard s id).niches
                            reads := (discard s id).reads, sched := (discard s id).sched, rows := (discard s id).rows
                            cipher := { s.cipher with segs := (discard s id).cipher.segs }
                            cmds := tdrop s.cmds (fun k _ => k == id) } := by
  unfold discard
  dsimp only
  rw [slotFreed_of_quiet]
  · unfold delCmd freeCmdBufs
    rw [releaseBufs_eq, dropReads_eq]
    rfl
  · unfold SlotQuiet delCmd freeCmdBufs
    rw [releaseBufs_eq, dropReads_eq]
    exact h

/-- What the successful end of a command leaves. -/
structure EndsWell (s t : State) (id : Nat) (data : List Fld) (dw0 dw1 : Nat := 0) : Prop where
  posts : Posts (schedule s (ctrlOfSq (getCmd s id).sq) (qidOfSq (getCmd s id).sq) (getCmd s id).io.cid .success dw0 dw1 data) t
  gone : hasCmd t id = false
  zones : t.zones = s.zones
  stripes : t.stripes = s.stripes
  ns : t.ns = s.ns
  hold : t.hold = s.hold
  cipher : t.cipher = { s.cipher with segs := t.cipher.segs }
  guard : guarded t = guarded s

theorem endCmd_endsWell {s : State} {id : Nat} (data : List Fld) (h : SlotQuiet s (getCmd s id)) (dw0 dw1 : Nat := 0) :
    EndsWell s (endCmd s id .success dw0 dw1 data) id data dw0 dw1 := by
  unfold endCmd
  dsimp only
  rw [if_neg (by simp [freezes])]
  have hq : SlotQuiet (schedule s (ctrlOfSq (getCmd s id).sq) (qidOfSq (getCmd s id).sq) (getCmd s id).io.cid .success dw0 dw1 data)
      (getCmd (schedule s (ctrlOfSq (getCmd s id).sq) (qidOfSq (getCmd s id).sq) (getCmd s id).io.cid .success dw0 dw1 data) id) := h
  have hg : guarded (schedule s (ctrlOfSq (getCmd s id).sq) (qidOfSq (getCmd s id).sq) (getCmd s id).io.cid .success dw0 dw1 data) = guarded s := rfl
  have hd := discard_of_quiet hq
  obtain ⟨he, hgone⟩ := ends_discard (schedule s (ctrlOfSq (getCmd s id).sq) (qidOfSq (getCmd s id).sq) (getCmd s id).io.cid .success dw0 dw1 data) id
  refine ⟨he.posts, hgone, ?_, ?_, ?_, ?_, ?_, ?_⟩
  · rw [hd]; rfl
  · rw [hd]; rfl
  · rw [hd]; rfl
  · rw [hd]; rfl
  · rw [hd]; rfl
  · rw [discard_guarded, hg]

theorem complete_endsWell {s : State} {id : Nat} (data : List Fld) (hn : NoFlushWaits s) (h : SlotQuiet s (getCmd s id)) (dw0 dw1 : Nat := 0) :
    EndsWell s (complete s id .success dw0 dw1 data) id data dw0 dw1 := by
  have he := endCmd_endsWell data h dw0 dw1
  have hs : complete s id .success dw0 dw1 data = endCmd s id .success dw0 dw1 data :=
    settle_none _ fun kv hkv => hn kv (he.posts.cmds kv hkv)
  rw [hs]
  exact he

/-- The entry of a command that ended well, in the completion queue of its SQ. -/
theorem EndsWell.entryWith {s t : State} {id dw0 dw1 : Nat} {data : List Fld} (h : EndsWell s t id data dw0 dw1) (hq : qidOfSq (getCmd s id).sq ≠ 0) :
    ∃ e ∈ (getCq t (qk (ctrlOfSq (getCmd s id).sq) (getSq t (getCmd s id).sq).cqid)).waiting,
      e.cid = (getCmd s id).io.cid ∧ e.sq = qidOfSq (getCmd s id).sq ∧ e.status = .success ∧ e.dw0 = dw0 ∧ e.dw1 = dw1 ∧ e.data = data := by
  have hk (k : Nat) : qk (ctrlOfSq k) (qidOfSq k) = k := by
    unfold qk ctrlOfSq qidOfSq
    omega
  refine ⟨mkCqe s (ctrlOfSq (getCmd s id).sq) (qidOfSq (getCmd s id).sq) (getCmd s id).io.cid .success dw0 dw1 data, ?_, rfl, rfl, rfl, rfl, rfl, rfl⟩
  have he := h.posts.entry
  rw [if_neg (by simpa using hq), hk] at he
  exact he

theorem EndsWell.entry {s t : State} {id : Nat} {data : List Fld} (h : EndsWell s t id data) (hq : qidOfSq (getCmd s id).sq ≠ 0) :
    ∃ e ∈ (getCq t (qk (ctrlOfSq (getCmd s id).sq) (getSq t (getCmd s id).sq).cqid)).waiting,
      e.cid = (getCmd s id).io.cid ∧ e.status = .success ∧ e.data = data := by
  obtain ⟨e, hm, hc, -, hs, -, -, hd⟩ := h.entryWith hq
  exact ⟨e, hm, hc, hs, hd⟩

/-! ### A buffer for a command (R287) -/

/-- The parts of the state that a request for a buffer leaves. -/
structure Buffers (s t : State) : Prop where
  cmds : t.cmds = s.cmds
  zones : t.zones = s.zones
  sectors : t.sectors = s.sectors
  ns : t.ns = s.ns
  cipher : t.cipher = s.cipher
  guard : guarded t = guarded s

theorem Buffers.trans {s t u : State} (h : Buffers s t) (k : Buffers t u) : Buffers s u :=
  ⟨k.cmds.trans h.cmds, k.zones.trans h.zones, k.sectors.trans h.sectors, k.ns.trans h.ns, k.cipher.trans h.cipher,
    k.guard.trans h.guard⟩

theorem Buffers.of_noted {s t : State} (h : Noted s t) (hc : t.cipher = s.cipher) (hg : guarded t = guarded s) : Buffers s t :=
  ⟨h.cmds, h.zones, h.sectors, h.ns, hc, hg⟩

theorem noted_breachIf (s : State) (h size : Nat) : Noted s (breachIf s h size) :=
  .ite ((noted_setComm _ _ _).trans (noted_commEvent _ _ _)) (.refl s)

theorem buffers_takeBuf (s : State) (n c want owner : Nat) (dirty : Bool) (conf : Option Nat) :
    Buffers s (takeBuf s n c want owner dirty conf).1 := by
  unfold takeBuf
  rw [withIdent_only]
  cases conf <;> exact ⟨rfl, rfl, rfl, rfl, rfl, rfl⟩

theorem buffers_allocate (s : State) (n c owner : Nat) (dirty : Bool) (conf : Option Nat) :
    Buffers s (allocate s n c owner dirty conf).1 := by
  have key (s0 : State) (h0 : Buffers s s0) (k : Option Nat) (past : Bool) : Buffers s (match k with
      | some k => if gate s0 n k dirty conf past then
          ((takeBuf s0 n k c owner dirty conf).1, some (takeBuf s0 n k c owner dirty conf).2) else (allocate.failed n c s0, none)
      | none => (allocate.failed n c s0, none) : State × Option Nat).1 := by
    have hf : Buffers s (allocate.failed n c s0) := h0.trans ⟨rfl, rfl, rfl, rfl, rfl, rfl⟩
    split
    · split
      · exact h0.trans (buffers_takeBuf _ _ _ _ _ _ _)
      · exact hf
    · exact hf
  cases conf with
  | none => exact key s ⟨rfl, rfl, rfl, rfl, rfl, rfl⟩ _ _
  | some h => exact key (breachIf s h _) (.of_noted (noted_breachIf s h _) (noted_breachIf s h _).cipher (breachIf_guarded _ _ _)) _ _

/-- The command as it has the last of its buffers. -/
def withBuf (c : Cmd) (b n : Nat) : Cmd := { c with want := [], got := c.got ++ [(b, n)], parked := false }

/-- The last buffer a command waits for: it has it, and goes on. -/
theorem lastBuffer_exec {s : State} {id b cls n : Nat} (h1 : atPort s id = true) (h2 : portFirst s id = true)
    (hw : (getCmd s id).want = [(cls, n)])
    (ha : (allocate s (getCmd s id).niche cls id (writesData s (getCmd s id).slot (getCmd s id).io) (confOf s (getCmd s id))).2 = some b) :
    ∃ u, exec (.bufferAllocation id) s = .next (allocated u id) ∧ Buffers { s with cmds := u.cmds } u ∧
      u.cmds = tset {} s.cmds id (withBuf (getCmd s id) b n) := by
  have hx : exec (.bufferAllocation id) s = .next (requestOne s id) := by
    show ok (if (atPort s id && portFirst s id) = true then requestOne s id else s) = _
    rw [h1, h2]
    rfl
  have hb := buffers_allocate s (getCmd s id).niche cls id (writesData s (getCmd s id).slot (getCmd s id).io) (confOf s (getCmd s id))
  unfold requestOne at hx
  dsimp only at hx
  rw [hw] at hx
  dsimp only at hx
  rw [ha] at hx
  dsimp only at hx
  generalize (allocate s (getCmd s id).niche cls id (writesData s (getCmd s id).slot (getCmd s id).io) (confOf s (getCmd s id))).1 = v at hb hx
  refine ⟨_, hx, ⟨rfl, hb.zones, hb.sectors, hb.ns, hb.cipher, hb.guard⟩, ?_⟩
  show tset {} v.cmds id _ = _
  rw [hb.cmds]
  rfl

end Sys2Proof.Machine
end
section
/-! SUPPORT. What the arbiter picks has an entry staged (R107, R109). -/

namespace Sys2Proof.Machine

theorem nextAfter_mem {l : List Nat} {last x : Nat} (h : nextAfter l last = some x) : x ∈ l := by
  unfold nextAfter at h
  cases hf : l.find? (fun x => decide (last < x)) with
  | some y =>
    rw [hf] at h
    cases h
    exact List.mem_of_find?_eq_some hf
  | none =>
    rw [hf] at h
    exact List.mem_of_mem_head? h

theorem classStage_mem {s : State} {n k : Nat} {l : List Nat} (h : classStage s n l = some k) : k ∈ l := by
  unfold classStage at h
  dsimp only at h
  split at h
  · exact List.mem_of_mem_filter (nextAfter_mem h)
  · split at h
    · exact List.mem_of_mem_filter (List.mem_of_mem_filter (nextAfter_mem h))
    · split at h
      · exact List.mem_of_mem_filter (nextAfter_mem h)
      · exact List.mem_of_mem_filter (nextAfter_mem h)

theorem drr_picks {s : State} {ns : List Nat} {pick : Nat → Option Nat} {f cur n k : Nat} {d e : List (Nat × Nat)}
    (h : drr s ns pick f cur d = some (n, k, e)) : pick n = some k := by
  induction f generalizing cur d with
  | zero => cases h
  | succ f ih =>
    unfold drr at h
    dsimp only at h
    split at h
    · next j hs =>
      cases h
      split at hs
      · split at hs
        · next j' hp =>
          split at hs
          · cases hs
            exact hp
          · cases hs
        · cases hs
      · cases hs
    · split at h
      · exact ih h
      · cases h

theorem arbPick_eligible {s : State} {k : Nat} {a : Arb} (h : arbPick s = some (k, a)) : eligible s k = true := by
  have hm {n : Nat} {l : List Nat} {p : Nat → Bool} (hc : classStage s n ((l.filter (eligible s)).filter p) = some k) :
      eligible s k = true := (List.mem_filter.mp (List.mem_of_mem_filter (classStage_mem hc))).2
  unfold arbPick at h
  dsimp only at h
  split at h
  · split at h
    · simp only [Option.map_eq_some_iff] at h
      obtain ⟨j, hj, he⟩ := h
      obtain ⟨rfl, -⟩ := Prod.mk.inj he
      exact hm hj
    · cases h
  · split at h
    · next n j d hd =>
      cases h
      exact hm (drr_picks hd)
    · cases h

theorem eligible_staged {s : State} {k : Nat} (h : eligible s k = true) :
    (∃ io r, (getSq s k).staged = io :: r) ∧ (getSq s k).frz = none := by
  unfold eligible at h
  dsimp only at h
  split at h
  · cases h
  · next io r hs =>
    refine ⟨⟨io, r, hs⟩, ?_⟩
    simp only [Bool.and_eq_true, Option.isNone_iff_eq_none] at h
    obtain ⟨⟨⟨⟨⟨⟨⟨⟨⟨-, hf⟩, -⟩, -⟩, -⟩, -⟩, -⟩, -⟩, -⟩, -⟩ := h
    exact hf

/-- An entry that lands in a queue that is not frozen then leaves the completion queues as they are. -/
theorem landed_cqs {s : State} {c q : Nat} {io : IoCmd} (h : (getSq (landed s c q io) (qk c q)).frz = none) :
    (landed s c q io).cqs = s.cqs := by
  have key (t : State) (k : Nat) (hl : (getSq (land t k io) k).frz = none) : (land t k io).cqs = t.cqs := by
    unfold land at hl ⊢
    dsimp only at hl ⊢
    split at hl
    · rw [getSq_setSq_same] at hl
      · cases hl
      · intro e
        have := congrArg Sq.frz e
        cases this
    · rfl
  exact key _ _ h

/-- A command just granted holds no write slot, and the completion queues stand. -/
theorem granted_cmd {s u : State} {c q : Nat} {io : IoCmd} {id : Nat} (g : Granted s c q io u id) :
    (getCmd u id).wslot = false ∧ u.cqs = s.cqs := by
  have hg := g.granted
  unfold arbGrant at hg
  split at hg
  · cases hg
  · next k a hp =>
    obtain ⟨hu, hid⟩ := Prod.mk.inj hg
    have hid' := Option.some.inj hid
    obtain ⟨⟨io', r, hs⟩, hf⟩ := eligible_staged (arbPick_eligible hp)
    obtain ⟨a', b, p, c', o, hgr, -⟩ := grantHead_grants (s := { landed s c q io with arb := a }) (k := k) (io := io') (r := r) hs
    have hn : a.nextCmd = id := (arbPick_nextCmd hp).trans hid'
    have hcmd : getCmd u id = { grantedCmd { landed s c q io with arb := a } k io' with order := o } := by
      rw [← hu, hgr, ← hn]
      exact tget_tset_same _ _ _ _ fun e => Nat.succ_ne_zero _ (congrArg Cmd.need e)
    have hk : k = qk c q := by
      have := g.from_
      rw [hcmd] at this
      exact this
    refine ⟨by rw [hcmd]; rfl, ?_⟩
    rw [← hu, hgr]
    exact landed_cqs (by rw [← hk]; exact hf)

end Sys2Proof.Machine
end
section
/-! PROOFS. Report Zones, Zone Seal and Flush (R120, R168, R178, R285, R319, R323, R324, R326). -/

namespace Sys2Proof.Machine

/-! ### Report Zones (R168, R178) -/

theorem zoneReceive_starts {i : Instr} {s u : State} {c q id : Nat} {io : IoCmd} (hrow : ioRow i = some (c, q, io))
    (g : Granted s c q io u id) (hchk : ioCheck u (getCmd u id) = none) (hop : io.op = .zoneReceive) :
    ∃ t, exec i s = .next t ∧ (getCmd t id).phase = .started ∧
      (getCmd t id).want = requests 0 false []
        ((min ((io.numd + 1) * 4) (64 + 64 * (getNs u (getCmd u id).slot).attr.size) + 4095) / 4096) ∧
      t.zones = s.zones ∧ t.sectors = s.sectors ∧ guarded t = guarded s := by
  generalize hw : requests 0 false []
        ((min ((io.numd + 1) * 4) (64 + 64 * (getNs u (getCmd u id).slot).attr.size) + 4095) / 4096) = w
  have ht : startCmd.tryStart u id = setCmd u id { getCmd u id with phase := .started, want := w } := by
    rw [try_op g hchk, hop, ← hw, ← g.entry]
    rfl
  have hget : getCmd (startCmd.tryStart u id) id = { getCmd u id with phase := .started, want := w } := by
    rw [ht, get_set_cmd _ _ _ rfl]
  have hgo := start_go g (.inr (by rw [hget]))
  have hu := granted_eq g
  refine ⟨_, (row_exec hrow g).trans (congrArg _ hgo), ?_, ?_, ?_, ?_, ?_⟩
  · rw [noted_cmd, hget]
  · rw [noted_cmd, hget]
  · rw [noted_zones, ht, show s.zones = u.zones by rw [hu]]
    rfl
  · rw [noted_sectors, ht, show s.sectors = u.sectors by rw [hu]]
    rfl
  · rw [noted_guarded, ht, ← granted_guarded g]
    rfl

/-- The zones a report lists. -/
def zonesShown (s : State) (c : Cmd) : List Nat :=
  (List.range (getNs s c.slot).attr.size).filter (fun z =>
    decide (c.io.slba / zsze (getNs s c.slot).attr.zw ≤ z) && reports c.io.zrasf (getZone s (zk c.slot z)).st)

theorem finishReceive_eq (s : State) (id : Nat) : ∃ l, finishReceive s id = complete s id .success 0 0
    (⟨0, 8, if (getCmd s id).io.partialRep then
      ((zonesShown s (getCmd s id)).take ((((getCmd s id).io.numd + 1) * 4 - 64) / 64)).length
      else (zonesShown s (getCmd s id)).length⟩ :: l) := ⟨_, rfl⟩

/-! ### Zone Seal (R319, R323, R324, R326) -/

/-- The command as the seal starts. -/
def startedSeal (c : Cmd) (z : Nat) : Cmd :=
  { c with phase := .started, zone := some z, wslot := true, want := requests 0 false [] 1 }

section
variable {s : State} {id z : Nat} {v : Zone}
  (hz : zoneOfLba s (getCmd s id).slot (getCmd s id).io.slba = z) (hv : getZone s (zk (getCmd s id).slot z) = v)
  (h1 : slotTaken s (getCmd s id).slot z = false) (h2 : v.held = []) (h3 : (getCmd s id).io.fuse = 0)
  (h4 : (getCmd s id).io.rsv = 0) (h5 : (getCmd s id).io.slba % zsze (getNs s (getCmd s id).slot).attr.zw = 0)
  (h6 : (getCmd s id).io.slba < nsLbas (getNs s (getCmd s id).slot).attr) (h7 : (getNch s (getCmd s id).niche).readOnly = false)
  (h8 : v.st = .full)
include hz hv h1 h2 h3 h4 h5 h6 h7 h8

/-- A Zone Seal of a full zone, by whether it is sealed. -/
theorem startSeal_full : startSeal s id =
    let c := getCmd s id
    let a := (getNs s c.slot).attr
    if v.sealed.isSome then setCmd s id (startedSeal c z)
    else if c.io.nonce == 0 || c.io.nonce == 2 ^ 96 - 1 then complete s id .nonceFormat
    else if (getKey s a.sealSlot).st == 0 || !(keysReady s a .flush) then complete s id .nsNotReady
    else if v.sealSaved then askSealState s c.slot z
    else setCmd s id (startedSeal c z) := by
  unfold startSeal
  dsimp only
  rw [hz, hv, h1, h2, if_neg (by simp), h3, h4, h5, if_neg (by simpa using h6), h7, if_neg Bool.false_ne_true, h8]
  cases v.sealed <;> rfl

end

theorem tryStart_seal {s u : State} {c q : Nat} {io : IoCmd} {id : Nat} (g : Granted s c q io u id)
    (hchk : ioCheck u (getCmd u id) = none) (hop : io.op = .zoneSeal) : startCmd.tryStart u id = startSeal u id := by
  rw [try_op g hchk, hop]

/-- A seal whose zone's state lies on the Plinth waits for the read of it. -/
theorem startCmd_waits {s u : State} {c q : Nat} {io : IoCmd} {id : Nat} (g : Granted s c q io u id)
    (h : (startCmd.tryStart u id).cmds = u.cmds) : startCmd u id = startCmd.tryStart u id := by
  have hc : getCmd (startCmd.tryStart u id) id = getCmd u id := by unfold getCmd; rw [h]
  have hh : hasCmd (startCmd.tryStart u id) id = true := by unfold hasCmd; rw [h]; exact g.has
  unfold startCmd
  dsimp only
  rw [g.has, if_neg (by simp), hh, hc, g.waits]
  rfl

theorem seal_asks {i : Instr} {s u : State} {c q id z : Nat} {io : IoCmd} (hrow : ioRow i = some (c, q, io))
    (g : Granted s c q io u id) (h : startCmd.tryStart u id = askSealState u (getCmd u id).slot z) :
    ∃ t, exec i s = .next t ∧ (getCmd t id).phase = .granted ∧ t.zones = s.zones ∧
      ∃ kv ∈ t.reads, kv.2.own = .sealState (getCmd u id).slot z := by
  obtain ⟨hl, ho⟩ := askPlinth_listed u (.sealState (getCmd u id).slot z) (zk (getCmd u id).slot z) (by simp)
  change startCmd.tryStart u id = askPlinth u (.sealState (getCmd u id).slot z) (zk (getCmd u id).slot z) at h
  have hu := granted_eq g
  have hgo := startCmd_waits g (by rw [h, ho])
  refine ⟨_, (row_exec hrow g).trans (congrArg _ (hgo.trans h)), ?_, ?_, hl⟩
  · rw [ho]
    exact g.waits
  · rw [ho, show s.zones = u.zones by rw [hu]]

theorem seal_starts {i : Instr} {s u : State} {c q id z : Nat} {io : IoCmd} (hrow : ioRow i = some (c, q, io))
    (g : Granted s c q io u id) (h : startCmd.tryStart u id = setCmd u id (startedSeal (getCmd u id) z)) :
    ∃ t, exec i s = .next t ∧ (getCmd t id).phase = .started ∧ (getCmd t id).wslot = true ∧
      (getCmd t id).zone = some z ∧ (getCmd t id).want = requests 0 false [] 1 ∧ t.zones = s.zones ∧
      t.sectors = s.sectors ∧ guarded t = guarded s := by
  have hget : getCmd (startCmd.tryStart u id) id = startedSeal (getCmd u id) z := by rw [h, get_set_cmd _ _ _ rfl]
  have hgo := start_go g (.inr (by rw [hget]; rfl))
  have hu := granted_eq g
  refine ⟨_, (row_exec hrow g).trans (congrArg _ hgo), ?_, ?_, ?_, ?_, ?_, ?_, ?_⟩
  · rw [noted_cmd, hget]; rfl
  · rw [noted_cmd, hget]; rfl
  · rw [noted_cmd, hget]; rfl
  · rw [noted_cmd, hget]; rfl
  · rw [noted_zones, h, show s.zones = u.zones by rw [hu]]
    rfl
  · rw [noted_sectors, h, show s.sectors = u.sectors by rw [hu]]
    rfl
  · rw [noted_guarded, h, ← granted_guarded g]
    rfl

/-- The seal record without its tag, of the zone as it stands in `t` (R319, R323). -/
def sealRecord (s t : State) (c : Cmd) : SealRec :=
  let z := zoneOfLba s c.slot c.io.slba
  let v := getZone t (zk c.slot z)
  { tag := 0, nonce := c.io.nonce, zslba := c.io.slba, nsec := v.wp, nsid := c.io.nsid
    lbaf := (getNs s c.slot).fmt, encMeta := (getNs s c.slot).attr.encMeta, zfc := v.zfc, fedtime := (fedStamp s).1
    fedstate := (fedStamp s).2, take := takeNow s, nent := v.frames.length, gen := genOf t c.slot z, us := s.opUs }

/-- The seal record with the tag its seal key gives. -/
def sealedRecord (s t : State) (c : Cmd) : SealRec :=
  let v := getZone t (zk c.slot (zoneOfLba s c.slot c.io.slba))
  { sealRecord s t c with
    tag := sealTag (getKey s (getNs s c.slot).attr.sealSlot) v.ghash v.absorbed c.io.nonce (trailerNum (sealRecord s t c)) }

/-- The zone as it stands in `t` with the record in place of its accumulator. -/
def withSeal (t : State) (k : Nat) (r : SealRec) : State := { t with
  zones := tset {} t.zones k { getZone t k with sealed := some r, ghash := 0, absorbed := 0, sealSaved := false }
  cipher := { t.cipher with seals := satAdd 32 t.cipher.seals 1 } }

section
variable {s : State} {id z : Nat} (hz : zoneOfLba s (getCmd s id).slot (getCmd s id).io.slba = z)
include hz

theorem finishSeal_unsealed (hs : (getZone s (zk (getCmd s id).slot z)).sealed = none) :
    finishSeal s id =
      let t := if (getZone s (zk (getCmd s id).slot z)).st == .full then s else finishZone s (getCmd s id).slot z
      complete (withSeal t (zk (getCmd s id).slot z) (sealedRecord s t (getCmd s id))) id .success 0 0
        (sealFlds (sealedRecord s t (getCmd s id)) false) := by
  subst hz
  unfold finishSeal
  dsimp only
  rw [hs]
  rfl

theorem finishSeal_full (hf : (getZone s (zk (getCmd s id).slot z)).st = .full) (hs : (getZone s (zk (getCmd s id).slot z)).sealed = none) :
    finishSeal s id = complete (withSeal s (zk (getCmd s id).slot z) (sealedRecord s s (getCmd s id))) id .success 0 0
      (sealFlds (sealedRecord s s (getCmd s id)) false) := by
  rw [finishSeal_unsealed hz hs, hf]
  rfl

theorem finishSeal_sealed {r : SealRec} (hs : (getZone s (zk (getCmd s id).slot z)).sealed = some r) :
    finishSeal s id = complete s id .success 0 0 (sealFlds r true) := by
  subst hz
  unfold finishSeal
  dsimp only
  rw [hs]

end

/-- The tag of a record is not part of its trailer. -/
theorem trailerNum_tag (r : SealRec) (x : Nat) : trailerNum { r with tag := x } = trailerNum r := rfl

/-! ### The last buffer of a report or a seal -/

section
variable {s u : State} {id b n : Nat} (hb : Buffers { s with cmds := u.cmds } u)
  (hu : u.cmds = tset {} s.cmds id (withBuf (getCmd s id) b n)) (hop : (getCmd s id).io.op ≠ .flush)
include hu hop

theorem getCmd_withBuf : getCmd u id = withBuf (getCmd s id) b n := by
  unfold getCmd
  rw [hu]
  exact tget_tset_same _ _ _ _ fun e => hop (congrArg (fun c : Cmd => c.io.op) e)

theorem noFlush_withBuf (hn : NoFlushWaits s) : NoFlushWaits u := by
  intro kv hkv
  rw [hu] at hkv
  rcases mem_tset _ _ _ _ _ hkv with e | hm
  · rw [e]
    exact hop
  · exact hn kv hm

end

section
variable {s u : State} {id b n : Nat} (hb : Buffers { s with cmds := u.cmds } u)
  (hu : u.cmds = tset {} s.cmds id (withBuf (getCmd s id) b n)) (hn : NoFlushWaits s) (hq : qidOfSq (getCmd s id).sq ≠ 0)
include hb hu hn hq

theorem report_ends (hop : (getCmd s id).io.op = .zoneReceive) (hw : (getCmd s id).wslot = false) :
    (allocated u id).zones = s.zones ∧ (allocated u id).sectors = s.sectors ∧ guarded (allocated u id) = guarded s ∧
    hasCmd (allocated u id) id = false ∧
    ∃ e ∈ (getCq (allocated u id) (qk (ctrlOfSq (getCmd s id).sq) (getSq (allocated u id) (getCmd s id).sq).cqid)).waiting,
      e.cid = (getCmd s id).io.cid ∧ e.status = .success ∧ e.data.head? = some ⟨0, 8,
        if (getCmd s id).io.partialRep then
          ((zonesShown s (getCmd s id)).take ((((getCmd s id).io.numd + 1) * 4 - 64) / 64)).length
        else (zonesShown s (getCmd s id)).length⟩ := by
  have hne : (getCmd s id).io.op ≠ .flush := by rw [hop]; simp
  have hc := getCmd_withBuf hu hne
  have ha : allocated u id = finishReceive u id := by
    unfold allocated
    dsimp only
    rw [hc]
    unfold withBuf
    dsimp only
    rw [hop]
    rfl
  have hz : zonesShown u (getCmd u id) = zonesShown s (getCmd s id) := by
    rw [hc]
    unfold zonesShown getNs getZone
    rw [hb.ns, hb.zones]
    rfl
  obtain ⟨l, hl⟩ := finishReceive_eq u id
  rw [hz, hc] at hl
  have he := complete_endsWell (s := u) (id := id) (⟨0, 8, if (withBuf (getCmd s id) b n).io.partialRep then
      ((zonesShown s (getCmd s id)).take ((((withBuf (getCmd s id) b n).io.numd + 1) * 4 - 64) / 64)).length
      else (zonesShown s (getCmd s id)).length⟩ :: l) (noFlush_withBuf hu hne hn)
    (slotQuiet_of_none (by rw [hc]; exact hw))
  rw [← hl, ← ha] at he
  obtain ⟨e, hm, hcid, hst, hd⟩ := he.entry (by rw [hc]; exact hq)
  refine ⟨he.zones.trans hb.zones, he.posts.sectors.trans hb.sectors, he.guard.trans hb.guard, he.gone, e, ?_, ?_, hst, by rw [hd]; rfl⟩
  · rw [hc] at hm
    exact hm
  · rw [hcid, hc]
    rfl

section
variable (hop : (getCmd s id).io.op = .zoneSeal)
include hop

omit hb hn hq in
theorem allocated_seal : allocated u id = finishSeal u id := by
  have hne : (getCmd s id).io.op ≠ .flush := by rw [hop]; simp
  unfold allocated
  dsimp only
  rw [getCmd_withBuf hu hne]
  unfold withBuf
  dsimp only
  rw [hop]
  rfl

variable {z : Nat} (hz : zoneOfLba s (getCmd s id).slot (getCmd s id).io.slba = z) (hcz : (getCmd s id).zone = some z)
  (hf : (getZone s (zk (getCmd s id).slot z)).st = .full) (hp : (getZone s (zk (getCmd s id).slot z)).finPend = false)
include hz hcz hf hp

omit hq in
theorem seal_makes (hs : (getZone s (zk (getCmd s id).slot z)).sealed = none) :
    let m := getCmd s id
    let k := zk m.slot z
    let v := getZone s k
    let t := allocated u id
    ∃ r, CqeWaits t (ctrlOfSq m.sq) (qidOfSq m.sq) m.io.cid .success ∧ hasCmd t id = false ∧
      t.zones = tset {} s.zones k { v with sealed := some r, ghash := 0, absorbed := 0, sealSaved := false } ∧
      r.nonce = m.io.nonce ∧ r.zslba = m.io.slba ∧ r.nsec = v.wp ∧ r.nsid = m.io.nsid ∧
      r.gen = genOf s m.slot z ∧ r.zfc = v.zfc ∧ r.nent = v.frames.length ∧
      r.tag = sealTag (getKey s (getNs s m.slot).attr.sealSlot) v.ghash v.absorbed m.io.nonce (trailerNum r) ∧
      t.cipher.seals = satAdd 32 s.cipher.seals 1 ∧ t.cipher.keys = s.cipher.keys := by
  intro m k v t
  have hne : (getCmd s id).io.op ≠ .flush := by rw [hop]; simp
  have hc : getCmd u id = withBuf m b n := getCmd_withBuf hu hne
  have hns : getNs u m.slot = getNs s m.slot := by unfold getNs; rw [hb.ns]
  have hzn : getZone u k = v := by unfold getZone; rw [hb.zones]; rfl
  have hkey : getKey u (getNs s m.slot).attr.sealSlot = getKey s (getNs s m.slot).attr.sealSlot := by unfold getKey; rw [hb.cipher]
  have hgen : genOf u m.slot z = genOf s m.slot z := by
    unfold genOf
    rw [hns, show getZone u (zk m.slot z) = getZone s (zk m.slot z) from hzn]
  have hzu : zoneOfLba u (getCmd u id).slot (getCmd u id).io.slba = z := by
    rw [hc]
    unfold zoneOfLba
    rw [show (withBuf m b n).slot = m.slot from rfl, hns]
    exact hz
  have hfs : finishSeal u id = complete (withSeal u k (sealedRecord u u (withBuf m b n))) id .success 0 0
      (sealFlds (sealedRecord u u (withBuf m b n)) false) := by
    have h0 := finishSeal_full (s := u) (id := id) hzu (by rw [hc]; exact (congrArg Zone.st hzn).trans hf)
      (by rw [hc]; exact (congrArg Zone.sealed hzn).trans hs)
    rw [hc] at h0
    exact h0
  rw [hc] at hzu
  generalize hr : sealedRecord u u (withBuf m b n) = r at hfs
  have hzw : getZone (withSeal u k r) k = { getZone u k with sealed := some r, ghash := 0, absorbed := 0, sealSaved := false } :=
    tget_tset_same _ _ _ _ fun e => by
      have := congrArg Zone.sealed e
      cases this
  have hcw : getCmd (withSeal u k r) id = withBuf m b n := hc
  have hquiet : SlotQuiet (withSeal u k r) (getCmd (withSeal u k r) id) := by
    intro y hy _
    rw [hcw] at hy ⊢
    have hyz : z = y := Option.some.inj (hcz.symm.trans hy)
    subst hyz
    show (getZone (withSeal u k r) k).finPend = false
    rw [hzw, hzn]
    exact hp
  have he := complete_endsWell (sealFlds r false) (noFlush_withBuf hu hne hn : NoFlushWaits (withSeal u k r)) hquiet
  have hat : allocated u id = finishSeal u id := allocated_seal hu hop
  rw [← hfs, ← hat] at he
  have hw := he.posts.cqeWaits
  rw [hcw] at hw
  refine ⟨r, hw, he.gone, ?_, ?_, ?_, ?_, ?_, ?_, ?_, ?_, ?_, ?_, ?_⟩
  · rw [he.zones]
    show tset {} u.zones k _ = _
    rw [hb.zones, hzn]
  · rw [← hr]; rfl
  · rw [← hr]; rfl
  · rw [← hr, ← hzn, ← show zk (withBuf m b n).slot (zoneOfLba u (withBuf m b n).slot (withBuf m b n).io.slba) = k by rw [hzu]; rfl]
    rfl
  · rw [← hr]; rfl
  · rw [← hgen, ← hr]
    show genOf u m.slot (zoneOfLba u (withBuf m b n).slot (withBuf m b n).io.slba) = _
    rw [hzu]
  · rw [← hr, ← hzn, ← show zk (withBuf m b n).slot (zoneOfLba u (withBuf m b n).slot (withBuf m b n).io.slba) = k by rw [hzu]; rfl]
    rfl
  · rw [← hr, ← hzn, ← show zk (withBuf m b n).slot (zoneOfLba u (withBuf m b n).slot (withBuf m b n).io.slba) = k by rw [hzu]; rfl]
    rfl
  · have ht : r.tag = sealTag (getKey u (getNs u m.slot).attr.sealSlot)
        (getZone u (zk m.slot (zoneOfLba u (withBuf m b n).slot (withBuf m b n).io.slba))).ghash
        (getZone u (zk m.slot (zoneOfLba u (withBuf m b n).slot (withBuf m b n).io.slba))).absorbed m.io.nonce
        (trailerNum (sealRecord u u (withBuf m b n))) := by
      rw [← hr]
      rfl
    have htr : trailerNum r = trailerNum (sealRecord u u (withBuf m b n)) := by
      rw [← hr]
      exact trailerNum_tag _ _
    rw [ht, htr, hzu, hns, hkey, show getZone u (zk m.slot z) = v from hzn]
  · rw [he.cipher]
    show satAdd 32 u.cipher.seals 1 = _
    rw [hb.cipher]
  · rw [he.cipher]
    show u.cipher.keys = _
    rw [hb.cipher]

omit hf in
theorem seal_returns {r : SealRec} (hs : (getZone s (zk (getCmd s id).slot z)).sealed = some r) :
    let m := getCmd s id
    let t := allocated u id
    t.zones = s.zones ∧ t.cipher.seals = s.cipher.seals ∧ hasCmd t id = false ∧
    ∃ e ∈ (getCq t (qk (ctrlOfSq m.sq) (getSq t m.sq).cqid)).waiting,
      e.cid = m.io.cid ∧ e.status = .success ∧ e.data = sealFlds r true := by
  intro m t
  have hne : (getCmd s id).io.op ≠ .flush := by rw [hop]; simp
  have hc : getCmd u id = withBuf m b n := getCmd_withBuf hu hne
  have hns : getNs u m.slot = getNs s m.slot := by unfold getNs; rw [hb.ns]
  have hzn : getZone u (zk m.slot z) = getZone s (zk m.slot z) := by unfold getZone; rw [hb.zones]
  have hzu : zoneOfLba u (getCmd u id).slot (getCmd u id).io.slba = z := by
    rw [hc]
    unfold zoneOfLba
    rw [show (withBuf m b n).slot = m.slot from rfl, hns]
    exact hz
  have hfs : finishSeal u id = complete u id .success 0 0 (sealFlds r true) :=
    finishSeal_sealed hzu (by rw [hc]; exact (congrArg Zone.sealed hzn).trans hs)
  have hquiet : SlotQuiet u (getCmd u id) := by
    intro y hy _
    rw [hc] at hy ⊢
    have hyz : z = y := Option.some.inj (hcz.symm.trans hy)
    subst hyz
    show (getZone u (zk m.slot z)).finPend = false
    rw [hzn]
    exact hp
  have he := complete_endsWell (sealFlds r true) (noFlush_withBuf hu hne hn) hquiet
  have hat : allocated u id = finishSeal u id := allocated_seal hu hop
  rw [← hfs, ← hat] at he
  obtain ⟨e, hm, hcid, hst, hd⟩ := he.entry (by rw [hc]; exact hq)
  rw [hc] at hm hcid
  refine ⟨he.zones.trans hb.zones, ?_, he.gone, e, hm, hcid, hst, hd⟩
  rw [he.cipher]
  show u.cipher.seals = _
  rw [hb.cipher]

end
end

/-! ### Flush (R120) -/

/-- Writes of a flush's namespaces that started before it. -/
def flushWrites (s : State) (c : Cmd) : List Nat :=
  tkeys s.cmds (fun _ d => d.phase == .started && (flushSlots s c).contains d.slot && writesData s d.slot d.io)

/-- The flush as it starts. -/
def startedFlush (s : State) (c : Cmd) : Cmd :=
  { c with phase := .started, waits := flushWrites s c, sids := (flushSlots s c).flatMap (unprogrammed s) }

/-- Where the one flush there is has started, `settle` looks at it alone. -/
theorem settle_flush {s : State} {id : Nat} {v : Cmd} (hv : v.phase = .started) (hop : v.io.op = .flush)
    (hf : ∀ kv ∈ s.cmds, kv.2.io.op = .flush → kv.1 = id) :
    ∃ n, settle (setCmd s id v) = (List.replicate (n + 1) id).foldl settleOne (setCmd s id v) := by
  generalize hl : tkeys (setCmd s id v).cmds (fun _ c => c.io.op == .flush && c.phase == .started) = l
  have hall : ∀ k ∈ l, k = id := by
    intro k hk
    rw [← hl] at hk
    obtain ⟨kv, hkv, rfl⟩ := List.mem_map.mp hk
    obtain ⟨hm, hp⟩ := List.mem_filter.mp hkv
    rcases mem_tset _ _ _ _ _ hm with e | hs
    · rw [e]
    · exact hf kv hs (beq_iff_eq.mp (Bool.and_eq_true_iff.mp hp).1)
  have hin : id ∈ l := by
    rw [← hl]
    exact List.mem_map.mpr ⟨(id, v), List.mem_filter.mpr ⟨mem_tset_self (started_ne hv) _ _, by simp [hv, hop]⟩, rfl⟩
  obtain ⟨n, hn⟩ : ∃ n, l.length = n + 1 := ⟨_, (Nat.succ_pred_eq_of_pos (List.length_pos_of_mem hin)).symm⟩
  refine ⟨n, ?_⟩
  show (tkeys (setCmd s id v).cmds (fun _ c => c.io.op == .flush && c.phase == .started)).foldl settleOne _ = _
  rw [hl, ← hn, ← List.eq_replicate_iff.mpr ⟨rfl, hall⟩]

/-- A flush that waits for no write, with hold-up good, ends. -/
theorem settleOne_ends {s : State} {id : Nat} (hw : (getCmd s id).waits = []) (hd : degraded s = false) :
    settleOne s id = endCmd s id .success 0 0 [] := by
  unfold settleOne
  dsimp only
  rw [hw, hd, if_neg (by simp), if_neg Bool.false_ne_true]

/-- Once it has ended there is nothing more to settle of it. -/
theorem settles_gone {s : State} {id : Nat} (n : Nat) (hg : hasCmd s id = false) (hd : degraded s = false) :
    Posts s ((List.replicate n id).foldl settleOne s) ∧ ((List.replicate n id).foldl settleOne s).zones = s.zones ∧
    guarded ((List.replicate n id).foldl settleOne s) = guarded s := by
  induction n generalizing s with
  | zero => exact ⟨(Ends.refl s).posts, rfl, rfl⟩
  | succ n ih =>
    have hc : getCmd s id = {} := by
      rcases tget_mem_or {} s.cmds id with hm | he
      · have := List.any_eq_false.mp hg _ hm
        simp at this
      · exact he
    have he := endCmd_endsWell (s := s) (id := id) [] (slotQuiet_of_none (by rw [hc]))
    rw [List.replicate_succ, List.foldl_cons, settleOne_ends (by rw [hc]) hd]
    have hd' : degraded (endCmd s id .success 0 0 []) = false := by
      unfold degraded
      rw [he.hold]
      exact hd
    obtain ⟨h1, h2, h3⟩ := ih he.gone hd'
    exact ⟨((ends_schedule _ _ _ _ _ _ _ _).posts.trans he.posts).trans h1, h2.trans he.zones, h3.trans he.guard⟩

theorem flush_ends {s u : State} {c q id cid nsid : Nat} (g : Granted s c q { op := .flush, cid := cid, nsid := nsid } u id)
    (hchk : ioCheck u (getCmd u id) = none) (hw : flushWrites u (getCmd u id) = []) (hd : degraded u = false) :
    ∃ t, exec (.flush c q cid nsid) s = .next t ∧ CqeWaits t c q cid .success ∧
      t.zones = s.zones ∧ t.sectors = s.sectors ∧ guarded t = guarded s := by
  obtain ⟨hslot, -⟩ := granted_cmd g
  have hop : (startedFlush u (getCmd u id)).io.op = .flush := congrArg IoCmd.op g.entry
  obtain ⟨n, hn⟩ := settle_flush (s := u) (id := id) (v := startedFlush u (getCmd u id)) rfl hop g.noFlush
  have hget : getCmd (setCmd u id (startedFlush u (getCmd u id))) id = startedFlush u (getCmd u id) := get_set_cmd _ _ _ rfl
  have hg1 : guarded (setCmd u id (startedFlush u (getCmd u id))) = guarded u := rfl
  have ht : startCmd.tryStart u id = (List.replicate (n + 1) id).foldl settleOne (setCmd u id (startedFlush u (getCmd u id))) := by
    rw [try_op g hchk, ← hn]
    rfl
  have hw1 : (getCmd (setCmd u id (startedFlush u (getCmd u id))) id).waits = [] := by
    rw [hget]
    exact hw
  have he := endCmd_endsWell (s := setCmd u id (startedFlush u (getCmd u id))) (id := id) []
    (slotQuiet_of_none (by rw [hget]; exact hslot))
  rw [List.replicate_succ, List.foldl_cons, settleOne_ends hw1 hd] at ht
  generalize hv : setCmd u id (startedFlush u (getCmd u id)) = v at he hget hg1 ht
  obtain ⟨h1, h2, h3⟩ := settles_gone n he.gone (show degraded (endCmd v id .success 0 0 []) = false by
    unfold degraded
    rw [he.hold, ← hv]
    exact hd)
  rw [← ht] at h1 h2 h3
  have hgo := start_go g (.inl (h1.gone he.gone))
  have hpo := he.posts.trans h1
  have hcq := hpo.cqeWaits
  rw [hget, show (startedFlush u (getCmd u id)).sq = qk c q from g.from_, ctrlOfSq_qk _ _ g.queue_, qidOfSq_qk _ _ g.queue_,
    show (startedFlush u (getCmd u id)).io.cid = cid from congrArg IoCmd.cid g.entry] at hcq
  have hu := granted_eq g
  refine ⟨_, (row_exec rfl g).trans (congrArg _ hgo), hcq, ?_, ?_, ?_⟩
  · rw [noted_zones, h2, he.zones, ← hv, show s.zones = u.zones by rw [hu]]
    rfl
  · rw [noted_sectors, hpo.sectors, ← hv, show s.sectors = u.sectors by rw [hu]]
    rfl
  · rw [noted_guarded, h3, he.guard, hg1, granted_guarded g]

/-- A flush that waits for writes that are there stays as it is. -/
theorem settles_waiting {s : State} {id : Nat} {v : Cmd} (n : Nat) (hv : v.phase = .started) (hc : getCmd s id = v) (hw : v.waits ≠ [])
    (hh : ∀ k ∈ v.waits, hasCmd s k = true) :
    ∃ l, (List.replicate n id).foldl settleOne s = { s with cmds := l } ∧ getCmd ((List.replicate n id).foldl settleOne s) id = v := by
  induction n generalizing s with
  | zero => exact ⟨s.cmds, rfl, hc⟩
  | succ n ih =>
    have hs : settleOne s id = setCmd s id v := by
      have hf : v.waits.filter (hasCmd s) = v.waits := List.filter_eq_self.mpr hh
      have he : v.waits.isEmpty = false := by simpa using hw
      unfold settleOne
      dsimp only
      rw [hc, hf, he, if_pos (by rfl)]
    rw [List.replicate_succ, List.foldl_cons, hs]
    obtain ⟨l, hl, hg⟩ := ih (s := setCmd s id v) (get_set_cmd _ _ _ hv) fun k hk => by
      by_cases e : k = id
      · rw [e]
        exact List.any_eq_true.mpr ⟨(id, v), mem_tset_self (started_ne hv) _ _, by simp⟩
      · obtain ⟨kv, hkv, hke⟩ := List.any_eq_true.mp (hh k hk)
        exact List.any_eq_true.mpr ⟨kv, mem_tset_other _ _ hkv (by rw [beq_iff_eq.mp hke]; exact e), hke⟩
    exact ⟨l, hl, hg⟩

theorem flush_waits {s u : State} {c q id cid nsid : Nat} (g : Granted s c q { op := .flush, cid := cid, nsid := nsid } u id)
    (hchk : ioCheck u (getCmd u id) = none) (hw : flushWrites u (getCmd u id) ≠ []) :
    ∃ t, exec (.flush c q cid nsid) s = .next t ∧ (getCmd t id).phase = .started ∧
      (getCmd t id).waits = flushWrites u (getCmd u id) ∧
      (getCmd t id).sids = (flushSlots u (getCmd u id)).flatMap (unprogrammed u) ∧ t.cqs = s.cqs ∧ t.zones = s.zones := by
  obtain ⟨-, hcqs⟩ := granted_cmd g
  have hop : (startedFlush u (getCmd u id)).io.op = .flush := congrArg IoCmd.op g.entry
  obtain ⟨n, hn⟩ := settle_flush (s := u) (id := id) (v := startedFlush u (getCmd u id)) rfl hop g.noFlush
  have ht : startCmd.tryStart u id = (List.replicate (n + 1) id).foldl settleOne (setCmd u id (startedFlush u (getCmd u id))) := by
    rw [try_op g hchk, ← hn]
    rfl
  obtain ⟨l, hl, hget⟩ := settles_waiting (s := setCmd u id (startedFlush u (getCmd u id))) (n + 1) rfl (get_set_cmd _ _ _ rfl) hw fun k hk => by
    obtain ⟨kv, hkv, rfl⟩ := List.mem_map.mp hk
    have hm := List.mem_of_mem_filter hkv
    by_cases e : kv.1 = id
    · rw [e]
      exact List.any_eq_true.mpr ⟨(id, startedFlush u (getCmd u id)), mem_tset_self (started_ne rfl) _ _, by simp⟩
    · exact List.any_eq_true.mpr ⟨kv, mem_tset_other _ _ hm e, by simp⟩
  rw [← ht] at hl hget
  have hgo := start_go g (.inr (by rw [hget]; rfl))
  have hu := granted_eq g
  refine ⟨_, (row_exec rfl g).trans (congrArg _ hgo), ?_, ?_, ?_, ?_, ?_⟩
  · rw [noted_cmd, hget]; rfl
  · rw [noted_cmd, hget]; rfl
  · rw [noted_cmd, hget]; rfl
  · rw [noted_cqs, hl, ← hcqs]
    rfl
  · rw [noted_zones, hl, show s.zones = u.zones by rw [hu]]
    rfl

theorem nonce_valid {n : Nat} (h0 : n ≠ 0) (h1 : n ≠ 2 ^ 96 - 1) : (n == 0 || n == 2 ^ 96 - 1) = false := by
  rw [beq_false_of_ne h0, beq_false_of_ne h1]
  rfl

/-- Settles O5: a report and a seal end with the buffer they asked for, and a flush once no write before it is left. -/
theorem reportsSealsAndFlushes : Obligations.ReportsSealsAndFlushes := by
  unfold Obligations.ReportsSealsAndFlushes
  refine ⟨?_, ?_, ?_⟩
  · intro i s u c q id io hrow g hchk m a
    refine ⟨fun hop => zoneReceive_starts hrow g hchk hop, fun hop => ?_⟩
    intro z v h1 h2 h3 h4 h5 h6 h7 h8
    have hio : m.io = io := g.entry
    have ht := tryStart_seal g hchk hop
    rw [startSeal_full (z := z) (v := v) (by rw [show (getCmd u id).io = io from hio]) rfl h1 h2 (hio ▸ h3) (hio ▸ h4) (hio ▸ h5) (hio ▸ h6) h7 h8] at ht
    dsimp only at ht
    refine ⟨fun g1 g2 g3 g4 g5 g6 => ?_, fun hg => ?_⟩
    · have hz0 : ((getCmd u id).io.nonce == 0 || (getCmd u id).io.nonce == 2 ^ 96 - 1) = false := by
        rw [show (getCmd u id).io = io from hio]
        exact nonce_valid g2 g3
      have hk0 : ((getKey u (getNs u (getCmd u id).slot).attr.sealSlot).st == 0 ||
          !(keysReady u (getNs u (getCmd u id).slot).attr .flush)) = false := by
        rw [show keysReady u (getNs u (getCmd u id).slot).attr .flush = true from g5]
        simpa using g4
      rw [g1, if_neg (by simp), hz0, if_neg Bool.false_ne_true, hk0, if_neg Bool.false_ne_true, g6, if_pos rfl] at ht
      exact seal_asks hrow g ht
    · refine seal_starts hrow g (ht.trans ?_)
      cases hs : v.sealed with
      | some r => rfl
      | none =>
        obtain ⟨g2, g3, g4, g5, g6⟩ := hg.resolve_left (by simp [hs])
        have hz0 : ((getCmd u id).io.nonce == 0 || (getCmd u id).io.nonce == 2 ^ 96 - 1) = false := by
          rw [show (getCmd u id).io = io from hio]
          exact nonce_valid g2 g3
        have hk0 : ((getKey u (getNs u (getCmd u id).slot).attr.sealSlot).st == 0 ||
            !(keysReady u (getNs u (getCmd u id).slot).attr .flush)) = false := by
          rw [show keysReady u (getNs u (getCmd u id).slot).attr .flush = true from g5]
          simpa using g4
        rw [if_neg (by simp), hz0, if_neg Bool.false_ne_true, hk0, if_neg Bool.false_ne_true, g6, if_neg Bool.false_ne_true]
  · intro s id b cls n m a h1 h2 hw hn ha hq
    obtain ⟨u, hx, hb, hu⟩ := lastBuffer_exec h1 h2 hw ha
    refine ⟨fun hop hsl => ?_, fun hop => ?_⟩
    · intro l
      obtain ⟨a1, a2, a3, a4, e, a5, a6, a7, a8⟩ := report_ends hb hu hn hq hop hsl
      exact ⟨_, hx, a1, a2, a3, a4, e, a5, a6, a7, a8⟩
    · intro z k v hf hp hcz
      refine ⟨fun hs => ?_, fun r hs => ?_⟩
      · obtain ⟨r, hr⟩ := seal_makes hb hu hn hop rfl hcz hf hp hs
        exact ⟨_, r, hx, hr⟩
      · exact ⟨_, hx, seal_returns hb hu hn hq hop rfl hcz hp hs⟩
  · intro s u c q id cid nsid g hchk m w
    exact ⟨fun hw hd => flush_ends g hchk hw hd, fun hw => flush_waits g hchk hw⟩

end Sys2Proof.Machine
end
section
/-! SUPPORT. The dies, kept by an operation that ends or closes. -/

namespace Sys2Proof.Machine

structure DieView where
  dies : List (Nat × Die)

def dieView (s : State) : DieView :=
  ⟨s.dies⟩

@[simp] theorem dieView_mk
    (x0 x1 x2 x3 x4 x5 x6 x7 x8 x9 x10 x11 x12 x13 x14 x15 x16 x17 x18
      x19 x20 x21 x22 x23 x24 x25 x26 x27 x28 x29 x30 x31 x32 x33 x34 x35 x36) :
    dieView (State.mk x0 x1 x2 x3 x4 x5 x6 x7 x8 x9 x10 x11 x12 x13 x14 x15 x16 x17 x18
      x19 x20 x21 x22 x23 x24 x25 x26 x27 x28 x29 x30 x31 x32 x33 x34 x35 x36) =
      ⟨x21⟩ := rfl

@[simp] theorem dieView_fold (s : State) : (⟨s.dies⟩ : DieView) = dieView s := rfl

@[simp] theorem dieView_ite (c : Prop) [Decidable c] (a b : State) :
    dieView (if c then a else b) = if c then dieView a else dieView b := apply_ite _ _ _ _

@[simp] theorem dieView_foldl {α : Type} (f : State → α → State) (l : List α) (s : State)
    (h : ∀ a x, dieView (f a x) = dieView a) : dieView (l.foldl f s) = dieView s := by
  induction l generalizing s with
  | nil => rfl
  | cons x t ih => simp [ih, h]

@[simp] theorem setCtrl_dieView (s : State) (c : Nat) (v : Ctrl) : dieView (setCtrl s c v) = dieView s := by rfl

@[simp] theorem setNs_dieView (s : State) (i : Nat) (v : Ns) : dieView (setNs s i v) = dieView s := by rfl

@[simp] theorem setZone_dieView (s : State) (k : Nat) (v : Zone) : dieView (setZone s k v) = dieView s := by rfl

@[simp] theorem setStripe_dieView (s : State) (i : Nat) (v : Stripe) : dieView (setStripe s i v) = dieView s := by rfl

@[simp] theorem setNch_dieView (s : State) (i : Nat) (v : Nch) : dieView (setNch s i v) = dieView s := by rfl

@[simp] theorem setComm_dieView (s : State) (h : Nat) (v : Comm) : dieView (setComm s h v) = dieView s := by rfl

@[simp] theorem adone_dieView (s : State) (c cid : Nat) (st : Status) (dw0 dw1 : Nat) (data : List Fld) :
    dieView (adone s c cid st dw0 dw1 data) = dieView s := by rfl

@[simp] theorem pumpEvs_dieView (s : State) (c fuel : Nat) : dieView (pumpEvs s c fuel) = dieView s := by
  induction fuel generalizing s with
  | zero => rfl
  | succ n ih => unfold pumpEvs; dsimp only; split <;> simp [ih]

@[simp] theorem raiseOn_dieView (s : State) (c : Nat) (e : Ev) : dieView (raiseOn s c e) = dieView s := by
  unfold raiseOn; dsimp only; simp only [pumpEvs_dieView]; split <;> simp

@[simp] theorem raiseAll_dieView (s : State) (cs : List Nat) (e : Ev) : dieView (raiseAll s cs e) = dieView s := by
  simp [raiseAll]

@[simp] theorem raiseStd_dieView (s : State) (cs : List Nat) (bit : Nat) (e : Ev) :
    dieView (raiseStd s cs bit e) = dieView s := by simp [raiseStd]

@[simp] theorem glbSet_dieView (s : State) (b : Nat) : dieView (glbSet s b) = dieView s := by rfl

@[simp] theorem nchSet_dieView (s : State) (n b : Nat) : dieView (nchSet s n b) = dieView s := by rfl

@[simp] theorem mediaEvent_dieView (s : State) (n : Nat) : dieView (mediaEvent s n) = dieView s := by
  simp [mediaEvent]

@[simp] theorem zoneChanged_dieView (s : State) (slot z : Nat) : dieView (zoneChanged s slot z) = dieView s := by
  simp [zoneChanged]

@[simp] theorem patNew_dieView (s : State) (sev : Nat) : dieView (patNew s sev) = dieView s := by simp [patNew]

@[simp] theorem patWrite_dieView (s : State) (r : PatRec) : dieView (patWrite s r) = dieView s := by
  unfold patWrite; dsimp only; (repeat' split) <;> simp

@[simp] theorem patStore_dieView (s : State) (r : PatRec) : dieView (patStore s r) = dieView s := by
  unfold patStore; split <;> simp

@[simp] theorem patina_dieView (s : State) (r : PatReq) : dieView (patina s r) = dieView s := by simp [patina]

@[simp] theorem nicheRec_dieView (s : State) (n typ : Nat) (sev p8 : Nat) (pb pc : Nat) :
    dieView (nicheRec s n typ sev p8 pb pc) = dieView s := by simp [nicheRec]

@[simp] theorem countChange_dieView (s : State) (n : Nat) : dieView (countChange s n) = dieView s := by rfl

@[simp] theorem commEvent_dieView (s : State) (h code : Nat) : dieView (commEvent s h code) = dieView s := by
  simp [commEvent]

@[simp] theorem completeStripe_dieView (s : State) (sid : Nat) (padded : Bool) :
    dieView (completeStripe s sid padded) = dieView s := by
  unfold completeStripe; dsimp only; split <;> simp

@[simp] theorem endFill_dieView (s : State) (i : Nat) (zone : Option Nat) (gc : Bool) :
    dieView (endFill s i zone gc) = dieView s := by
  unfold endFill; split <;> simp

@[simp] theorem terminalPad_dieView (s : State) (i z : Nat) : dieView (terminalPad s i z) = dieView s := by
  unfold terminalPad; split <;> simp

@[simp] theorem finishByController_dieView (s : State) (i z : Nat) : dieView (finishByController s i z) = dieView s := by
  simp [finishByController]

@[simp] theorem finishWhenFree_dieView (s : State) (i z : Nat) : dieView (finishWhenFree s i z) = dieView s := by
  simp [finishWhenFree]

@[simp] theorem closeByDevice_dieView (s : State) (why h : Nat) : dieView (closeByDevice s why h) = dieView s := by
  simp [closeByDevice]

@[simp] theorem smartEvent_dieView (s : State) (n b info : Nat) : dieView (smartEvent s n b info) = dieView s := by
  simp [smartEvent]

@[simp] theorem readOnlyNiche_dieView (s : State) (n why : Nat) : dieView (readOnlyNiche s n why) = dieView s := by
  simp [readOnlyNiche]

@[simp] theorem narrowRank_dieView (s : State) (k : Nat) : dieView (narrowRank s k) = dieView s := by
  simp [narrowRank]

@[simp] theorem checkRanks_dieView (s : State) : dieView (checkRanks s) = dieView s := by simp [checkRanks]

end Sys2Proof.Machine
end
section
/-! SUPPORT. What a drive of the bus, a training and the loss of a channel leave (R231, R244 to R252). -/

namespace Sys2Proof.Machine

/-- A channel after its bus was driven for a CE#: 16 NCLK more where its CE# changes. -/
def drivenChan (s : State) (v : Chan) (ce n : Nat) : Chan := { v with
  ce := ce, drv := (s.nowUs, if v.ce = ce then n else n + 16) :: v.drv.filter (fun e => decide (s.nowUs < e.1 + 1000)) }

theorem drivenChan_ne (s : State) (v : Chan) (ce n : Nat) : drivenChan s v ce n ≠ {} := fun e => by
  have := congrArg Chan.drv e
  simp [drivenChan] at this

/-- Driving the bus of a channel in service changes that channel alone. -/
theorem driveDie_drives {s : State} {d : Nat} (n : Nat) (h : (getChan s (d / 32)).state ≠ 0) :
    getChan (driveDie s d n) (d / 32) = drivenChan s (getChan s (d / 32)) (d % 32 / 4) n ∧
    ∀ c, c ≠ d / 32 → getChan (driveDie s d n) c = getChan s c := by
  unfold driveDie
  dsimp only
  by_cases he : (getChan s (d / 32)).ce = d % 32 / 4
  · rw [if_pos (beq_iff_eq.mpr he)]
    have hd : drive s (d / 32) n = setChan s (d / 32) (drivenChan s (getChan s (d / 32)) (d % 32 / 4) n) := by
      unfold drive drivenChan
      rw [if_pos he, ← he]
    rw [hd]
    exact ⟨getChan_setChan_same _ _ _ (drivenChan_ne _ _ _ _), fun c hc => getChan_setChan_ne _ hc _⟩
  · rw [if_neg (by simpa using he)]
    have hne : ({ getChan s (d / 32) with ce := d % 32 / 4 } : Chan) ≠ {} := fun e => h (congrArg Chan.state e)
    have hg := getChan_setChan_same s (d / 32) _ hne
    have hd : drive (setChan s (d / 32) { getChan s (d / 32) with ce := d % 32 / 4 }) (d / 32) (n + 16) =
        setChan (setChan s (d / 32) { getChan s (d / 32) with ce := d % 32 / 4 }) (d / 32)
          (drivenChan s (getChan s (d / 32)) (d % 32 / 4) n) := by
      unfold drive drivenChan
      rw [hg, if_neg he]
      rfl
    rw [hd]
    refine ⟨getChan_setChan_same _ _ _ (drivenChan_ne _ _ _ _), fun c hc => ?_⟩
    rw [getChan_setChan_ne _ hc _, getChan_setChan_ne _ hc _]

theorem trigger_chans (s : State) : (trigger s).chans = s.chans := (noted_trigger s).chans

/-- Back in service: the channel at its new rate, with a record where that is lower. -/
def servedChan (v : Chan) (r rd wr : Nat) (pre : List Nat) (low : Bool) : Chan := { v with
  rate := r, presets := pre, retrain := false, full := false, rdStart := rd, stepPend := v.stepPend && !v.full && r == v.rate, wrStart := wr, degraded := low, stepdowns := if r < v.rate then satAdd 8 v.stepdowns 1 else v.stepdowns }

theorem backInService_noted (s : State) (ch r rd wr : Nat) (pre : List Nat) (low : Bool) :
    Noted (setChan s ch (servedChan (getChan s ch) r rd wr pre low)) (backInService s ch r rd wr pre low) := by
  unfold backInService
  exact .ite ((noted_devRec _ _ _ _ _ _).trans (noted_trigger _)) (.refl _)

theorem backInService_same {s : State} {ch r : Nat} (rd wr : Nat) (pre : List Nat) (low : Bool) (h : ¬ r < (getChan s ch).rate) :
    backInService s ch r rd wr pre low = setChan s ch (servedChan (getChan s ch) r rd wr pre low) := by
  unfold backInService
  dsimp only
  rw [if_neg h]
  rfl

/-- A channel that is lost stays out of service at no rate, whatever of its dies is retired. -/
theorem channelLost_chan (s : State) (ch : Nat) : (getChan (channelLost s ch) ch).state = 3 ∧ (getChan (channelLost s ch) ch).rate = 0 := by
  have hp (t : State) (l : List Nat) : (trigger (checkRanks (l.foldl (fun a k =>
      if (getDie a (dk ch k)).used then retireDie a ch k else a) t))).chans = t.chans := by
    have h : platform (checkRanks (l.foldl (fun a k => if (getDie a (dk ch k)).used then retireDie a ch k else a) t)) = platform t := by
      rw [checkRanks_platform]
      exact platform_foldl _ _ _ fun a k => by
        split
        · exact retireDie_platform a ch k
        · rfl
    rw [trigger_chans]
    exact congrArg Platform.chans h
  have hd (t : State) : (devRec t 0x41 6 ch 0 0).chans = t.chans := (noted_devRec t _ _ _ _ _).chans
  unfold channelLost
  dsimp only
  unfold getChan
  rw [hp, hd]
  generalize (if chanDegraded (tget {} s.chans ch) = true then s else glbSet s 12) = s0
  have hg : tget {} (setChan s0 ch { tget {} s.chans ch with state := 3, degraded := true, retrain := false, rate := 0, presets := [], stepPend := false, making := false, full := false }).chans ch =
      { tget {} s.chans ch with state := 3, degraded := true, retrain := false, rate := 0, presets := [], stepPend := false, making := false, full := false } :=
    tget_tset_same _ _ _ _ fun e => by
      have := congrArg Chan.state e
      simp at this
  rw [hg]
  exact ⟨rfl, rfl⟩

end Sys2Proof.Machine
end

section
/-! PROOFS. Channels train, are calibrated and tracked, and step down (R244, R245, R248 to R254). -/

namespace Sys2Proof.Machine

/-! ### Calibration and tracking (R248, R249) -/

theorem slotFor_facts {s : State} {ch ce : Nat} (h : slotFor s ch ce = true) : (getChan s ch).state = 2 ∧ ce < 8 := by
  unfold slotFor at h
  simp only [Bool.and_eq_true] at h
  obtain ⟨⟨⟨⟨⟨⟨⟨hst, -⟩, -⟩, hce⟩, -⟩, -⟩, -⟩, -⟩ := h
  exact ⟨beq_iff_eq.mp hst, of_decide_eq_true hce⟩

theorem slot_drives {s : State} {ch ce : Nat} (h : slotFor s ch ce = true) : ∃ l,
    driveDie s (dk ch (4 * ce)) 1040 = { s with chans := l } ∧
    getChan { s with chans := l } ch = drivenChan s (getChan s ch) ce 1040 ∧
    ∀ c, c ≠ ch → getChan { s with chans := l } c = getChan s c := by
  obtain ⟨hst, hce⟩ := slotFor_facts h
  have h1 : dk ch (4 * ce) / 32 = ch := by unfold dk; omega
  have h2 : dk ch (4 * ce) % 32 / 4 = ce := by unfold dk; omega
  obtain ⟨l, hl⟩ := driveDie_only s (dk ch (4 * ce)) 1040
  have hd := driveDie_drives (s := s) (d := dk ch (4 * ce)) 1040 (by rw [h1, hst]; decide)
  rw [hl, h1, h2] at hd
  exact ⟨l, hl, hd⟩

theorem zqCalibration_counts {s : State} {ch ce : Nat} (h : slotFor s ch ce = true) :
    ∃ t, exec (.zqCalibrationShort ch ce) s = .next t ∧
      getChan t ch = { drivenChan s (getChan s ch) ce 1040 with zq := satAdd 16 (getChan s ch).zq 1 } ∧
      (∀ c, c ≠ ch → getChan t c = getChan s c) ∧ t.dies = s.dies ∧ t.cmds = s.cmds := by
  obtain ⟨l, hl, hg, hne⟩ := slot_drives h
  have he : exec (.zqCalibrationShort ch ce) s = .next (setChan { s with chans := l } ch
      { drivenChan s (getChan s ch) ce 1040 with zq := satAdd 16 (getChan s ch).zq 1 }) := by
    show execZqCalibrationShort ch ce s = _
    unfold execZqCalibrationShort
    dsimp only
    rw [h, if_neg (by simp), hl, hg]
    rfl
  refine ⟨_, he, getChan_setChan_same _ _ _ fun e => ?_, fun c hc => ?_, rfl, rfl⟩
  · have := congrArg Chan.drv e
    simp [drivenChan] at this
  · rw [getChan_setChan_ne _ hc _, hne c hc]

/-- A channel after its eye was looked at. -/
def trackedChan (s : State) (v : Chan) (ce rd wr : Nat) : Chan :=
  { drivenChan s v ce 1040 with track := satAdd 16 v.track 1, rdNow := rd, wrNow := wr }

theorem eyeTracking_exec {s : State} {ch ce : Nat} (rd wr : Nat) (h : slotFor s ch ce = true) : ∃ l,
    exec (.eyeTracking ch ce rd wr) s = .next
      (if eyeWarn ≤ min rd wr || (getChan s ch).stepPend then setChan { s with chans := l } ch (trackedChan s (getChan s ch) ce rd wr)
      else trigger (setChan (if chanDegraded (drivenChan s (getChan s ch) ce 1040) then { s with chans := l } else glbSet { s with chans := l } 12) ch
        { trackedChan s (getChan s ch) ce rd wr with
          stepPend := true, stepUs := s.nowUs, target := (getChan s ch).presets.headD ((stepsBelow s (getChan s ch).rate).headD (getChan s ch).rate) })) ∧
    ∀ c, c ≠ ch → getChan { s with chans := l } c = getChan s c := by
  obtain ⟨l, hl, hg, hne⟩ := slot_drives h
  refine ⟨l, ?_, hne⟩
  show execEyeTracking ch ce rd wr s = _
  unfold execEyeTracking
  dsimp only
  rw [h, if_neg (by simp), hl, hg, show (drivenChan s (getChan s ch) ce 1040).stepPend = (getChan s ch).stepPend from rfl]
  by_cases hc : (decide (eyeWarn ≤ min rd wr) || (getChan s ch).stepPend) = true
  · rw [if_pos hc, if_pos hc]
    rfl
  · rw [if_neg hc, if_neg hc]
    rfl

/-! ### Enumeration and training (R244, R245) -/

/-- What the mount makes of the die of a CE# that is enabled, or not, and that answers as the geometry says, or not. -/
def enumDie (s : State) (ch : Nat) (pages : List DiePage) (a : State) (k : Nat) : State :=
  let d := getDie a (dk ch k)
  let p := pages.getD k ⟨false, false, 0, 0, 0, 0, false, 0⟩
  if !(bitOf s.arm.cfg.rankEn k) then setDie a (dk ch k) { d with used := false }
  else if pageFits s p then setDie a (dk ch k) { d with used := true, notUsed := false, spare := p.spare }
  else retireDie (devRec (setDie a (dk ch k) { d with used := false, notUsed := true }) 0x40 5 ch 0 k) ch k

/-- From `s` to `t` dies that are in use stay so, but for those of CE#s of channel `ch` that are not enabled. -/
structure Enumerates (s : State) (ch : Nat) (a t : State) : Prop where
  only : ∃ l, t = { a with dies := l }
  retired : ∀ j, (∀ k, k < 32 → j = dk ch k → bitOf s.arm.cfg.rankEn k = true) → (getDie t j).retired = (getDie a j).retired
  used : ∀ j, (∀ k, k < 32 → j = dk ch k → bitOf s.arm.cfg.rankEn k = true) → (getDie a j).used = true → (getDie t j).used = true

theorem Enumerates.refl (s : State) (ch : Nat) (a : State) : Enumerates s ch a a := ⟨⟨a.dies, rfl⟩, fun _ _ => rfl, fun _ _ h => h⟩

theorem Enumerates.trans {s : State} {ch : Nat} {a b c : State} (h : Enumerates s ch a b) (k : Enumerates s ch b c) : Enumerates s ch a c := by
  refine ⟨?_, fun j hj => (k.retired j hj).trans (h.retired j hj), fun j hj hu => k.used j hj (h.used j hj hu)⟩
  obtain ⟨l, hl⟩ := h.only
  obtain ⟨m, hm⟩ := k.only
  exact ⟨m, by rw [hm, hl]⟩

theorem dk_inj {ch k j : Nat} (h : dk ch k = dk ch j) : k = j := by
  unfold dk at h
  omega

section
variable {s : State} {ch : Nat} {pages : List DiePage} (hp : ∀ k, k < 32 → bitOf s.arm.cfg.rankEn k = true →
    pageFits s (pages.getD k ⟨false, false, 0, 0, 0, 0, false, 0⟩) = true)
include hp

theorem enumDie_enumerates (a : State) {k : Nat} (hk : k < 32) : Enumerates s ch a (enumDie s ch pages a k) ∧
    (bitOf s.arm.cfg.rankEn k = true → (getDie (enumDie s ch pages a k) (dk ch k)).used = true) := by
  unfold enumDie
  dsimp only
  by_cases he : bitOf s.arm.cfg.rankEn k = true
  · rw [he, if_neg (by simp), if_pos (hp k hk he)]
    have hg := getDie_setDie_same a (dk ch k) { getDie a (dk ch k) with
      used := true
      notUsed := false
      spare := (pages.getD k ⟨false, false, 0, 0, 0, 0, false, 0⟩).spare } fun e => by
        have := congrArg Die.used e
        cases this
    refine ⟨⟨⟨_, rfl⟩, fun j _ => ?_, fun j _ hu => ?_⟩, fun _ => by rw [hg]⟩
    · by_cases e : j = dk ch k
      · rw [e, hg]
      · rw [getDie_setDie_ne _ e]
    · by_cases e : j = dk ch k
      · rw [e, hg]
      · rw [getDie_setDie_ne _ e]
        exact hu
  · have hne (j : Nat) (hj : ∀ k, k < 32 → j = dk ch k → bitOf s.arm.cfg.rankEn k = true) : j ≠ dk ch k :=
      fun e => he (hj k hk e)
    rw [if_pos (by simp [he])]
    refine ⟨⟨⟨_, rfl⟩, fun j hj => ?_, fun j hj hu => ?_⟩, fun h => absurd h he⟩
    · rw [getDie_setDie_ne _ (hne j hj)]
    · rw [getDie_setDie_ne _ (hne j hj)]
      exact hu

theorem enumDies_enumerates (l : List Nat) (hl : ∀ k ∈ l, k < 32) (a : State) : Enumerates s ch a (l.foldl (enumDie s ch pages) a) ∧
    ∀ k ∈ l, bitOf s.arm.cfg.rankEn k = true → (getDie (l.foldl (enumDie s ch pages) a) (dk ch k)).used = true := by
  induction l generalizing a with
  | nil => exact ⟨.refl s ch a, fun k hk => by cases hk⟩
  | cons x r ih =>
    obtain ⟨h1, h2⟩ := enumDie_enumerates hp a (hl x (by simp))
    obtain ⟨h3, h4⟩ := ih (fun k hk => hl k (List.mem_cons_of_mem _ hk)) (enumDie s ch pages a x)
    refine ⟨h1.trans h3, fun k hk he => ?_⟩
    rcases List.mem_cons.mp hk with rfl | hr
    · exact h3.used _ (fun j _ hj => by rw [← dk_inj hj]; exact he) (h2 he)
    · exact h4 k hr he

end

theorem Enumerates.nk_le {s a t : State} {ch k : Nat} (h : Enumerates s ch a t) (he : bitOf s.arm.cfg.rankEn k = true) (hk : k < 32) :
    nk a k ≤ nk t k := by
  unfold nk healthy
  refine List.Sublist.length_le (List.monotone_filter_right _ fun c hc => ?_)
  have hj : ∀ j, j < 32 → dk c k = dk ch j → bitOf s.arm.cfg.rankEn j = true := fun j hj e => by
    have hjk : j = k := by
      unfold dk at e
      omega
    rw [hjk]
    exact he
  simp only [Bool.and_eq_true, Bool.not_eq_true'] at hc ⊢
  exact ⟨h.used _ hj hc.1, by rw [h.retired _ hj]; exact hc.2⟩

/-- Training once the dies have been asked: the first step whose eyes pass, or the loss of the channel. -/
def trainChan (s : State) (ch : Nat) (eyes : List (Nat × Nat)) : State :=
  let tried := (rateSteps s).zip eyes
  let v := getChan s ch
  match tried.find? (fun re => decide (eyePass ≤ min re.2.1 re.2.2)) with
  | some (r, rd, wr) =>
    if !((List.range 32).any (fun k => (getDie s (dk ch k)).used)) then channelLost s ch
    else checkRanks (setChan s ch { v with
      state := 2, degraded := false, retrain := false, rate := r, startRate := r, presets := (stepsBelow s r).take 2
      rdStart := rd, wrStart := wr
      fails := satAdd 8 v.fails (tried.takeWhile (fun re => decide (min re.2.1 re.2.2 < eyePass))).length })
  | none => channelLost (setChan s ch { v with fails := satAdd 8 v.fails tried.length }) ch

theorem enumeration_trains {s : State} {ch : Nat} (eyes : List (Nat × Nat)) (pages : List DiePage)
    (h1 : s.boot.phase = .mount) (h2 : chanOn s ch = true) (h3 : ch < 32) (h4 : (getChan s ch).state ≠ 2) (h5 : (getChan s ch).state ≠ 3) :
    exec (.channelEnumeration ch pages eyes) s = .next (trainChan ((List.range 32).foldl (enumDie s ch pages) s) ch eyes) := by
  show execChannelEnumeration ch pages eyes s = _
  unfold execChannelEnumeration
  rw [if_neg (by simp [h1, h2, h4, h5]; omega)]
  dsimp only
  generalize hs1 : List.foldl _ s (List.range 32) = s1
  rw [show (List.range 32).foldl (enumDie s ch pages) s = s1 from hs1]
  unfold trainChan
  dsimp only
  generalize (List.range 32).any (fun k => (getDie s1 (dk ch k)).used) = live
  generalize ((rateSteps s1).zip eyes).find? (fun re => decide (eyePass ≤ min re.2.1 re.2.2)) = found
  rcases found with - | ⟨r, rd, wr⟩
  · rfl
  · dsimp only
    cases live
    · rw [if_pos (show (!false) = true from rfl), if_pos (show (!false) = true from rfl)]
      rfl
    · rw [if_neg (show ¬ (!true) = true by simp), if_neg (show ¬ (!true) = true by simp)]
      rfl

/-- A channel with a die in use whose eyes pass at the first step is put in service at that rate. -/
theorem trainChan_first {s : State} {ch r rd wr : Nat} {rs : List Nat} (eyes : List (Nat × Nat))
    (hl : (List.range 32).any (fun k => (getDie s (dk ch k)).used) = true) (hr : rateSteps s = r :: rs) (hm : 103 ≤ min rd wr) :
    trainChan s ch ((rd, wr) :: eyes) = checkRanks (setChan s ch { getChan s ch with
      state := 2, degraded := false, retrain := false, rate := r, startRate := r, presets := (stepsBelow s r).take 2
      rdStart := rd, wrStart := wr, fails := satAdd 8 (getChan s ch).fails 0 }) := by
  have hpass : decide (eyePass ≤ min rd wr) = true := decide_eq_true hm
  have hfail : ¬ decide (min rd wr < eyePass) = true := by simpa [eyePass] using hm
  unfold trainChan
  dsimp only
  rw [hl, hr, List.zip_cons_cons, List.find?_cons_of_pos (by exact hpass), List.takeWhile_cons_of_neg (by exact hfail)]
  rfl

theorem enumeration_exec {s : State} {ch r rd wr : Nat} {rs : List Nat} (eyes : List (Nat × Nat)) (pages : List DiePage)
    (h1 : s.boot.phase = .mount) (h2 : chanOn s ch = true) (h3 : ch < 32) (h4 : (getChan s ch).state ≠ 2) (h5 : (getChan s ch).state ≠ 3)
    (hp : ∀ k, k < 32 → bitOf s.arm.cfg.rankEn k = true → pageFits s (pages.getD k ⟨false, false, 0, 0, 0, 0, false, 0⟩) = true)
    (he : ∃ k, k < 32 ∧ bitOf s.arm.cfg.rankEn k = true) (hr : rateSteps s = r :: rs) (hm : 103 ≤ min rd wr) :
    exec (.channelEnumeration ch pages ((rd, wr) :: eyes)) s = .next (checkRanks (setChan ((List.range 32).foldl (enumDie s ch pages) s) ch
      { getChan s ch with
        state := 2, degraded := false, retrain := false, rate := r, startRate := r, presets := (stepsBelow s r).take 2
        rdStart := rd, wrStart := wr, fails := satAdd 8 (getChan s ch).fails 0 })) := by
  obtain ⟨hE, hU⟩ := enumDies_enumerates hp (List.range 32) (fun k hk => List.mem_range.mp hk) s
  rw [enumeration_trains ((rd, wr) :: eyes) pages h1 h2 h3 h4 h5]
  generalize (List.range 32).foldl (enumDie s ch pages) s = s1 at hE hU
  obtain ⟨l, hl⟩ := hE.only
  have hlive : (List.range 32).any (fun k => (getDie s1 (dk ch k)).used) = true := by
    obtain ⟨k, hk, hke⟩ := he
    exact List.any_eq_true.mpr ⟨k, List.mem_range.mpr hk, hU k (List.mem_range.mpr hk) hke⟩
  rw [trainChan_first eyes hlive (by rw [hl]; exact hr) hm, hl]
  rfl

theorem narrowed_none {s : State} (h : ∀ k, k < 32 → bitOf s.arm.cfg.rankEn k = true → 3 ≤ nk s k) : checkRanks s = s := by
  have hl (l : List Nat) (hl : ∀ k ∈ l, k < 32 ∧ bitOf s.arm.cfg.rankEn k = true) : l.foldl narrowRank s = s := by
    induction l with
    | nil => rfl
    | cons k r ih =>
      obtain ⟨hk, he⟩ := hl k (by simp)
      have hn : narrowRank s k = s := by
        unfold narrowRank
        rw [if_neg]
        have := h k hk he
        simp
        omega
      rw [List.foldl_cons, hn]
      exact ih fun j hj => hl j (List.mem_cons_of_mem _ hj)
  unfold checkRanks
  split
  · refine hl _ fun k hk => ?_
    obtain ⟨h1, h2⟩ := List.mem_filter.mp hk
    exact ⟨List.mem_range.mp h1, h2⟩
  · rfl

theorem enumeration_serves {s : State} {ch r rd wr : Nat} {rs : List Nat} (eyes : List (Nat × Nat)) (pages : List DiePage)
    (h1 : s.boot.phase = .mount) (h2 : chanOn s ch = true) (h3 : ch < 32) (h4 : (getChan s ch).state ≠ 2) (h5 : (getChan s ch).state ≠ 3)
    (hp : ∀ k, k < 32 → bitOf s.arm.cfg.rankEn k = true → pageFits s (pages.getD k ⟨false, false, 0, 0, 0, 0, false, 0⟩) = true)
    (he : ∃ k, k < 32 ∧ bitOf s.arm.cfg.rankEn k = true) (hr : rateSteps s = r :: rs) (hm : 103 ≤ min rd wr) :
    ∃ t, exec (.channelEnumeration ch pages ((rd, wr) :: eyes)) s = .next t ∧ (getChan t ch).state = 2 ∧
      (getChan t ch).rate = r ∧ (getChan t ch).startRate = r ∧
      (getChan t ch).presets = ((rateSteps s).filter (fun x => decide (x < r))).take 2 ∧
      chanDegraded (getChan t ch) = (getChan s ch).stepPend ∧ (getChan t ch).rdStart = rd ∧ (getChan t ch).wrStart = wr ∧
      (∀ k, k < 32 → bitOf s.arm.cfg.rankEn k = true → (getDie t (dk ch k)).used = true) ∧
      ((∀ k, k < 32 → bitOf s.arm.cfg.rankEn k = true → 3 ≤ nk s k) → t.cmds = s.cmds ∧ t.zones = s.zones) := by
  have hx := enumeration_exec eyes pages h1 h2 h3 h4 h5 hp he hr hm
  obtain ⟨hE, hU⟩ := enumDies_enumerates hp (List.range 32) (fun k hk => List.mem_range.mp hk) s
  generalize (List.range 32).foldl (enumDie s ch pages) s = s1 at hx hE hU
  obtain ⟨l, hl⟩ := hE.only
  generalize hv : ({ getChan s ch with
    state := 2, degraded := false, retrain := false, rate := r, startRate := r, presets := (stepsBelow s r).take 2
    rdStart := rd, wrStart := wr, fails := satAdd 8 (getChan s ch).fails 0 } : Chan) = v at hx
  have hvs : v.state = 2 := by rw [← hv]
  have hc : getChan (checkRanks (setChan s1 ch v)) ch = v := by
    have := congrArg Platform.chans (checkRanks_platform (setChan s1 ch v))
    unfold getChan
    rw [show (checkRanks (setChan s1 ch v)).chans = (setChan s1 ch v).chans from this]
    exact tget_tset_same _ _ _ _ fun e => by
      rw [e] at hvs
      cases hvs
  refine ⟨_, hx, ?_, ?_, ?_, ?_, ?_, ?_, ?_, fun k hk hke => ?_, fun hn => ?_⟩
  · rw [hc, hvs]
  · rw [hc, ← hv]
  · rw [hc, ← hv]
  · rw [hc, ← hv]; rfl
  · rw [hc, ← hv]
    simp [chanDegraded]
  · rw [hc, ← hv]
  · rw [hc, ← hv]
  · have hd := congrArg DieView.dies (checkRanks_dieView (setChan s1 ch v))
    unfold getDie
    rw [show (checkRanks (setChan s1 ch v)).dies = s1.dies from hd]
    exact hU k (List.mem_range.mpr hk) hke
  · have hk : checkRanks (setChan s1 ch v) = setChan s1 ch v := narrowed_none fun k hk hke => by
      have hen : bitOf s.arm.cfg.rankEn k = true := by
        rw [hl] at hke
        exact hke
      exact le_trans (hn k hk hen) (hE.nk_le hen hk)
    rw [hk, hl]
    exact ⟨rfl, rfl⟩

/-! ### Gaps and retrains (R250 to R252) -/

theorem channelGap_exec {s : State} {ch : Nat} (h1 : (getChan s ch).stepPend = true) (h2 : (getChan s ch).retrain = false)
    (h3 : gapNow s ch = true) (h4 : mayRetrain s ch = true) : exec (.channelGap ch) s = .next
      (if (getChan s ch).presets.isEmpty then setChan s ch { getChan s ch with retrain := true, full := true, making := false }
      else if quickEarly s (getChan s ch) then s
      else setChan s ch { getChan s ch with
        retrain := true, full := false, making := false, target := (getChan s ch).presets.headD (getChan s ch).rate }) := by
  show execChannelGap ch s = _
  unfold execChannelGap
  dsimp only
  rw [if_neg (by simp [h1, h2, h3, h4])]
  cases (getChan s ch).presets.isEmpty <;> cases quickEarly s (getChan s ch) <;> rfl

theorem gaps_stand {s : State} {ch : Nat} (h : mayRetrain s ch = false) :
    exec (.channelGap ch) s = .next s ∧ exec (.makeGap ch) s = .next s := by
  constructor
  · show execChannelGap ch s = _
    unfold execChannelGap
    dsimp only
    rw [h, if_pos (by simp)]
    rfl
  · show execMakeGap ch s = _
    unfold execMakeGap
    dsimp only
    rw [h, if_pos (by simp)]
    rfl

theorem resumeDies_only (l : List Nat) (ch : Nat) (s : State) :
    ∃ d, l.foldl (fun a k => setDie a (dk ch k) (resumeDie (getDie a (dk ch k)))) s = { s with dies := d } := by
  induction l generalizing s with
  | nil => exact ⟨s.dies, rfl⟩
  | cons x r ih =>
    obtain ⟨d, hd⟩ := ih (setDie s (dk ch x) (resumeDie (getDie s (dk ch x))))
    exact ⟨d, hd⟩

theorem makeGap_makes {s : State} {ch : Nat} (h1 : (getChan s ch).stepPend = true) (h2 : (getChan s ch).retrain = false)
    (h3 : (getChan s ch).making = false) (h4 : mayRetrain s ch = true) : ∃ t, exec (.makeGap ch) s = .next t ∧
      t.chans = tset {} s.chans ch { getChan s ch with making := true, stepUs := s.nowUs } ∧ t.cmds = s.cmds := by
  obtain ⟨d, hd⟩ := resumeDies_only (List.range 32) ch (setChan s ch { getChan s ch with making := true, stepUs := s.nowUs })
  have he : exec (.makeGap ch) s = .next { setChan s ch { getChan s ch with making := true, stepUs := s.nowUs } with dies := d } := by
    show execMakeGap ch s = _
    unfold execMakeGap
    dsimp only
    rw [if_neg (by simp [h1, h2, h3, h4])]
    exact congrArg ok hd
  exact ⟨_, he, rfl, rfl⟩

/-- A channel whose quick retrain has been tried. -/
def triedChan (s : State) (v : Chan) : Chan := { v with
  quick := satAdd 8 v.quick 1, lastQuick := some s.nowUs, zq := satAdd 16 v.zq 8 }

/-- A channel whose quick retrain was tried and failed. -/
def failedChan (s : State) (v : Chan) (rest : List Nat) : Chan := { triedChan s v with
  fails := satAdd 8 v.fails 1, presets := rest, stepPend := true, stepUs := s.nowUs }

theorem quickVerify_exec {s : State} {ch rd wr : Nat} (h1 : (getChan s ch).retrain = true) (h2 : (getChan s ch).full = false)
    (h3 : quickEarly s (getChan s ch) = false) : exec (.quickRetrainVerify ch rd wr) s = .next
      (let v := getChan s ch
      let rest := if v.target == v.rate then v.presets else v.presets.drop 1
      if eyePass ≤ min rd wr then backInService (setChan s ch (triedChan s v)) ch v.target rd wr rest v.degraded
      else if !(mayRetrain s ch) then setChan s ch { failedChan s v rest with retrain := false, presets := v.presets, stepPend := false }
      else match rest with
      | p :: _ => setChan s ch { failedChan s v rest with retrain := false, target := p }
      | [] => setChan s ch { failedChan s v rest with full := true, target := (stepsBelow s v.rate).headD v.rate }) := by
  show execQuickRetrainVerify ch rd wr s = _
  unfold execQuickRetrainVerify
  dsimp only
  rw [if_neg (by simp [h1, h2, h3])]
  generalize (if ((getChan s ch).target == (getChan s ch).rate) = true then (getChan s ch).presets else (getChan s ch).presets.drop 1) = rest
  by_cases hm : eyePass ≤ min rd wr
  · rw [if_pos hm, if_pos hm]
    rfl
  · rw [if_neg hm, if_neg hm]
    by_cases hr : (!mayRetrain s ch) = true
    · rw [if_pos hr, if_pos hr]
      rfl
    · rw [if_neg hr, if_neg hr]
      cases rest <;> rfl

theorem triedChan_ne (s : State) (v : Chan) : triedChan s v ≠ {} := fun e => by
  have := congrArg Chan.lastQuick e
  cases this

theorem getChan_noted {s t : State} (h : Noted s t) (ch : Nat) : getChan t ch = getChan s ch := by
  unfold getChan
  rw [h.chans]

/-- A quick retrain that ends below the rate there was. -/
theorem quickVerify_lower {s : State} {ch rd wr : Nat} (h1 : (getChan s ch).retrain = true) (h2 : (getChan s ch).full = false)
    (h3 : quickEarly s (getChan s ch) = false) (hm : 103 ≤ min rd wr) (ht : (getChan s ch).target < (getChan s ch).rate) :
    ∃ t, exec (.quickRetrainVerify ch rd wr) s = .next t ∧ t.dies = s.dies ∧
      getChan t ch = servedChan (triedChan s (getChan s ch)) (getChan s ch).target rd wr ((getChan s ch).presets.drop 1) (getChan s ch).degraded := by
  have hx := quickVerify_exec (rd := rd) (wr := wr) h1 h2 h3
  dsimp only at hx
  rw [if_pos (show eyePass ≤ min rd wr from hm), if_neg (by simp; omega)] at hx
  have hg := getChan_setChan_same s ch _ (triedChan_ne s (getChan s ch))
  have hn := backInService_noted (setChan s ch (triedChan s (getChan s ch))) ch (getChan s ch).target rd wr
    ((getChan s ch).presets.drop 1) (getChan s ch).degraded
  refine ⟨_, hx, hn.dies, ?_⟩
  rw [getChan_noted hn, hg, getChan_setChan_same]
  intro e
  have := congrArg Chan.lastQuick e
  cases this

theorem quickVerify_same {s : State} {ch rd wr : Nat} (h1 : (getChan s ch).retrain = true) (h2 : (getChan s ch).full = false)
    (h3 : quickEarly s (getChan s ch) = false) (hm : 103 ≤ min rd wr) (ht : (getChan s ch).target = (getChan s ch).rate) :
    exec (.quickRetrainVerify ch rd wr) s = .next (setChan (setChan s ch (triedChan s (getChan s ch))) ch
      { triedChan s (getChan s ch) with retrain := false, rdStart := rd, wrStart := wr }) := by
  have hx := quickVerify_exec (rd := rd) (wr := wr) h1 h2 h3
  dsimp only at hx
  have hg := getChan_setChan_same s ch _ (triedChan_ne s (getChan s ch))
  rw [if_pos (show eyePass ≤ min rd wr from hm), if_pos (beq_iff_eq.mpr ht), ht, backInService_same _ _ _ _ (by
    rw [hg]
    exact lt_irrefl _), hg] at hx
  rw [hx]
  have hv : servedChan (triedChan s (getChan s ch)) (getChan s ch).rate rd wr (getChan s ch).presets (getChan s ch).degraded =
      { triedChan s (getChan s ch) with retrain := false, rdStart := rd, wrStart := wr } := by
    unfold servedChan triedChan
    rw [h2, beq_self_eq_true, if_neg (lt_irrefl _)]
    simp
  rw [hv]

theorem quickVerify_failed {s : State} {ch rd wr : Nat} (h1 : (getChan s ch).retrain = true) (h2 : (getChan s ch).full = false)
    (h3 : quickEarly s (getChan s ch) = false) (hm : min rd wr < 103) (h4 : mayRetrain s ch = true) :
    exec (.quickRetrainVerify ch rd wr) s = .next
      (let v := getChan s ch
      let rest := if v.target == v.rate then v.presets else v.presets.drop 1
      match rest with
      | p :: _ => setChan s ch { failedChan s v rest with retrain := false, target := p }
      | [] => setChan s ch { failedChan s v rest with full := true, target := (stepsBelow s v.rate).headD v.rate }) := by
  have hx := quickVerify_exec (rd := rd) (wr := wr) h1 h2 h3
  dsimp only at hx
  rw [if_neg (show ¬ eyePass ≤ min rd wr from Nat.not_le.mpr hm), h4, if_neg (by simp)] at hx
  exact hx

theorem fullTraining_serves {s : State} {ch rd wr : Nat} (h1 : (getChan s ch).retrain = true) (h2 : (getChan s ch).full = true)
    (hm : 103 ≤ min rd wr) : ∃ t, exec (.fullTrainingEnd ch rd wr) s = .next t ∧ t.dies = s.dies ∧
      getChan t ch = servedChan (getChan s ch) (getChan s ch).target rd wr ((stepsBelow s (getChan s ch).target).take 2)
        ((getChan s ch).degraded || (getChan s ch).target == (getChan s ch).rate) := by
  have hx : exec (.fullTrainingEnd ch rd wr) s = .next (backInService s ch (getChan s ch).target rd wr
      ((stepsBelow s (getChan s ch).target).take 2) ((getChan s ch).degraded || (getChan s ch).target == (getChan s ch).rate)) := by
    show execFullTrainingEnd ch rd wr s = _
    unfold execFullTrainingEnd
    dsimp only
    rw [if_neg (by simp [h1, h2]), if_pos (show eyePass ≤ min rd wr from hm)]
    rfl
  have hn := backInService_noted s ch (getChan s ch).target rd wr
      ((stepsBelow s (getChan s ch).target).take 2) ((getChan s ch).degraded || (getChan s ch).target == (getChan s ch).rate)
  refine ⟨_, hx, hn.dies, ?_⟩
  rw [getChan_noted hn, getChan_setChan_same]
  intro e
  have hr : (getChan s ch).target = 0 := congrArg Chan.rate e
  have hd : ((getChan s ch).degraded || (getChan s ch).target == (getChan s ch).rate) = false := congrArg Chan.degraded e
  have hs : (if (getChan s ch).target < (getChan s ch).rate then satAdd 8 (getChan s ch).stepdowns 1 else (getChan s ch).stepdowns) = 0 :=
    congrArg Chan.stepdowns e
  rw [hr] at hd hs
  have h0 : (getChan s ch).rate ≠ 0 := fun h => by rw [h] at hd; simp at hd
  rw [if_pos (Nat.pos_of_ne_zero h0)] at hs
  unfold satAdd at hs
  omega

theorem fullTraining_failed {s : State} {ch rd wr : Nat} (h1 : (getChan s ch).retrain = true) (h2 : (getChan s ch).full = true)
    (hm : min rd wr < 103) : exec (.fullTrainingEnd ch rd wr) s = .next
      (let w := { getChan s ch with fails := satAdd 8 (getChan s ch).fails 1 }
      match stepsBelow s (getChan s ch).target with
      | t :: _ => setChan s ch { w with target := t }
      | [] => channelLost (setChan s ch w) ch) := by
  show execFullTrainingEnd ch rd wr s = _
  unfold execFullTrainingEnd
  dsimp only
  rw [if_neg (by simp [h1, h2]), if_neg (show ¬ eyePass ≤ min rd wr from Nat.not_le.mpr hm)]
  cases stepsBelow s (getChan s ch).target <;> rfl

theorem domain_off {s : State} {d : Nat} (h1 : d < 8) (h2 : ∀ j, j < 4 → (getChan s (4 * d + j)).state = 3) (h3 : s.pm.ps < 3)
    (h4 : bitOf s.pm.domChg d = true) :
    exec (.channelDomainOff d) s = .next { s with pm := { s.pm with domChg := clrBit s.pm.domChg d } } := by
  have ha : ((List.range 4).map (fun j => 4 * d + j)).all (fun c => (getChan s c).state == 3) = true := by
    simp only [List.all_map, List.all_eq_true, List.mem_range, Function.comp, beq_iff_eq]
    exact h2
  show execChannelDomainOff d s = _
  unfold execChannelDomainOff
  dsimp only
  rw [ha, h4, if_pos (by simp [h1, h3])]
  rfl

/-- Settles O22: channels train at the first step that passes, and a closed eye takes them a step down. -/
theorem channelsTrainAndStepDown : Obligations.ChannelsTrainAndStepDown := by
  unfold Obligations.ChannelsTrainAndStepDown
  refine ⟨fun s ch r rd wr rs eyes pages h1 h2 h3 h4 h5 hp he hr hm => enumeration_serves eyes pages h1 h2 h3 h4 h5 hp he hr hm, ?_⟩
  intro s ch v e
  refine ⟨fun ce h => zqCalibration_counts h, ?_, ?_, ?_, ?_, fun h => gaps_stand h, fun h1 h2 h3 h4 => makeGap_makes h1 h2 h3 h4, ?_, ?_, ?_, ?_,
    fun d h1 h2 h3 h4 => domain_off h1 h2 h3 h4⟩
  · intro ce rd wr h hm
    obtain ⟨l, hx, hne⟩ := eyeTracking_exec rd wr h
    rw [if_pos (by simp [eyeWarn, hm])] at hx
    refine ⟨_, hx, getChan_setChan_same _ _ _ fun e => ?_, fun c hc => ?_, rfl, rfl⟩
    · have := congrArg Chan.drv e
      simp [trackedChan, drivenChan] at this
    · rw [getChan_setChan_ne _ hc, hne c hc]
  · intro ce rd wr p l h hm hs hp
    obtain ⟨c, hx, -⟩ := eyeTracking_exec rd wr h
    rw [if_neg (by simp [eyeWarn, show (getChan s ch).stepPend = false from hs]; omega)] at hx
    generalize hs0 : (if chanDegraded (drivenChan s (getChan s ch) ce 1040) = true then ({ s with chans := c } : State)
      else glbSet { s with chans := c } 12) = s0 at hx
    have h0 : s0.cmds = s.cmds ∧ s0.dies = s.dies := by
      rw [← hs0]
      split <;> exact ⟨rfl, rfl⟩
    have hn := noted_trigger (setChan s0 ch { trackedChan s (getChan s ch) ce rd wr with
      stepPend := true
      stepUs := s.nowUs
      target := (getChan s ch).presets.headD ((stepsBelow s (getChan s ch).rate).headD (getChan s ch).rate) })
    refine ⟨_, hx, ?_, ?_, ?_, ?_, ?_, hn.cmds.trans h0.1, hn.dies.trans h0.2⟩ <;> rw [getChan_noted hn, getChan_setChan_same _ _ _ (fun e => by
      have := congrArg Chan.stepPend e
      cases this)]
    · simp [chanDegraded]
    · show (getChan s ch).presets.headD _ = p
      rw [show (getChan s ch).presets = p :: l from hp]
      rfl
    · rfl
  · intro p l h1 h2 h3 h4 hp hq
    have hne : (getChan s ch).presets.isEmpty = false := by rw [show (getChan s ch).presets = p :: l from hp]; rfl
    have hhd : (getChan s ch).presets.headD (getChan s ch).rate = p := by rw [show (getChan s ch).presets = p :: l from hp]; rfl
    rw [channelGap_exec h1 h2 h3 h4, hne, if_neg Bool.false_ne_true, show quickEarly s (getChan s ch) = false from hq,
      if_neg Bool.false_ne_true, hhd]
    rfl
  · intro h1 h2 h3 h4 hp
    have hem : (getChan s ch).presets.isEmpty = true := by rw [show (getChan s ch).presets = [] from hp]; rfl
    rw [channelGap_exec h1 h2 h3 h4, hem, if_pos rfl]
    rfl
  · intro rd wr h1 h2 h3
    refine ⟨fun hm ht => ?_, fun hm ht => ?_, fun hm h4 => ?_, fun hm h4 hp ht => ?_, fun p l hm h4 hp ht => ?_⟩
    · obtain ⟨t, hx, hd, hg⟩ := quickVerify_lower h1 h2 h3 hm ht
      refine ⟨t, hx, ?_, ?_, ?_, ?_, ?_, ?_, ?_, ?_, hd⟩ <;> rw [hg]
      · rfl
      · rfl
      · have hne : (v.target == v.rate) = false := by simpa using Nat.ne_of_lt ht
        show (_ && v.target == v.rate) = false
        rw [hne, Bool.and_false]
      · rfl
      · exact if_pos ht
      · rfl
      · rfl
      · rfl
    · exact ⟨_, quickVerify_same h1 h2 h3 hm ht, rfl, rfl⟩
    · have hx := quickVerify_exec (rd := rd) (wr := wr) h1 h2 h3
      dsimp only at hx
      rw [if_neg (show ¬ eyePass ≤ min rd wr from Nat.not_le.mpr hm), h4, if_pos (by simp)] at hx
      exact hx
    · have hx := quickVerify_failed h1 h2 h3 hm h4
      dsimp only at hx
      have hdrop : (getChan s ch).presets.drop 1 = [] := by rw [show (getChan s ch).presets = [(getChan s ch).target] from hp]; rfl
      rw [if_neg (by simpa using ht), hdrop] at hx
      dsimp only at hx
      refine ⟨_, hx, ?_, ?_, ?_, ?_, ?_, rfl⟩ <;> rw [getChan_setChan_same _ _ _ (fun e => by
        have := congrArg Chan.lastQuick e
        cases this)]
      · rfl
      · exact h1
      · rfl
    · have hx := quickVerify_failed h1 h2 h3 hm h4
      dsimp only at hx
      have hdrop : (getChan s ch).presets.drop 1 = p :: l := by rw [show (getChan s ch).presets = [(getChan s ch).target] ++ p :: l from hp]; rfl
      rw [if_neg (by simpa using ht), hdrop] at hx
      dsimp only at hx
      refine ⟨_, hx, ?_, ?_, ?_, ?_, ?_, rfl⟩ <;> rw [getChan_setChan_same _ _ _ (fun e => by
        have := congrArg Chan.lastQuick e
        cases this)]
      · rfl
      · rfl
      · rfl
  · intro rd wr h1 h2 hm
    obtain ⟨t, hx, hd, hg⟩ := fullTraining_serves h1 h2 hm
    refine ⟨t, hx, ?_, ?_, ?_, ?_, ?_, hd⟩ <;> rw [hg]
    · rfl
    · rfl
    · rfl
    · show (v.stepPend && !v.full && v.target == v.rate) = false
      rw [h2]
      simp
    · rfl
  · intro rd wr r l h1 h2 hm hb
    rw [fullTraining_failed h1 h2 hm, show stepsBelow s (getChan s ch).target = r :: l from hb]
    rfl
  · intro rd wr h1 h2 hm hb
    have hx := fullTraining_failed h1 h2 hm
    dsimp only at hx
    rw [show stepsBelow s (getChan s ch).target = [] from hb] at hx
    exact ⟨_, hx, channelLost_chan _ ch⟩

end Sys2Proof.Machine
end
section
/-! PROOFS. Bursts on the channels and programs issued (R30, R31, R229, R233, R247, R268). -/

namespace Sys2Proof.Machine

/-! ### A codeword's way to the decoders (R266, R267) -/

/-- The reads at the decoders and those that wait for one. -/
def atDecoders (h : Sched) : List Nat := h.hard ++ h.hardQ ++ h.soft ++ h.softQ

theorem mem_atDecoders {h : Sched} {i : Nat} : i ∈ atDecoders h ↔ i ∈ h.hard ∨ i ∈ h.hardQ ∨ i ∈ h.soft ∨ i ∈ h.softQ := by
  simp [atDecoders]

/-- A hard decoder that is free takes the next read that waits for one. -/
def takeHard (s : State) (h : Sched) : Sched :=
  match (if h.hard.length < 16 then nextDecode s h.hardQ else none) with
  | some i => { h with hard := h.hard ++ [i], hardQ := h.hardQ.erase i }
  | none => h

/-- A soft decoder that is free takes the next read that waits for one. -/
def takeSoft (s : State) (h : Sched) : Sched :=
  match (if h.soft.length < 4 then nextDecode s h.softQ else none) with
  | some i => { h with soft := h.soft ++ [i], softQ := h.softQ.erase i }
  | none => h

theorem feedOne_eq (s : State) : feedOne s = { s with sched := takeSoft s (takeHard s s.sched) } := rfl

theorem mem_append_or_erase {a b : List Nat} {i : Nat} (j : Nat) (h : i ∈ a ∨ i ∈ b) : i ∈ a ++ [j] ∨ i ∈ b.erase j := by
  by_cases e : i = j
  · exact .inl (by simp [e])
  · rcases h with h | h
    · exact .inl (List.mem_append_left _ h)
    · exact .inr ((List.mem_erase_of_ne e).mpr h)

theorem takeHard_keeps {s : State} {h : Sched} {i : Nat} (hi : i ∈ atDecoders h) : i ∈ atDecoders (takeHard s h) := by
  rw [mem_atDecoders] at hi ⊢
  unfold takeHard
  split
  · next j _ =>
    rcases hi with h' | h' | h' | h'
    · exact (mem_append_or_erase j (.inl h')).elim .inl fun h => .inr (.inl h)
    · exact (mem_append_or_erase j (.inr h')).elim .inl fun h => .inr (.inl h)
    · exact .inr (.inr (.inl h'))
    · exact .inr (.inr (.inr h'))
  · exact hi

theorem takeSoft_keeps {s : State} {h : Sched} {i : Nat} (hi : i ∈ atDecoders h) : i ∈ atDecoders (takeSoft s h) := by
  rw [mem_atDecoders] at hi ⊢
  unfold takeSoft
  split
  · next j _ =>
    rcases hi with h' | h' | h' | h'
    · exact .inl h'
    · exact .inr (.inl h')
    · exact .inr (.inr (mem_append_or_erase j (.inl h')))
    · exact .inr (.inr (mem_append_or_erase j (.inr h')))
  · exact hi

/-- The decoders take a read that waits; none leaves. -/
theorem feedOne_keeps (s : State) : (feedOne s).reads = s.reads ∧ ∀ i, i ∈ atDecoders s.sched → i ∈ atDecoders (feedOne s).sched :=
  ⟨rfl, fun _ hi => takeSoft_keeps (takeHard_keeps hi)⟩

theorem feed_keeps (s : State) : (feed s).reads = s.reads ∧ ∀ i, i ∈ atDecoders s.sched → i ∈ atDecoders (feed s).sched := by
  unfold feed
  generalize List.range 16 = l
  induction l generalizing s with
  | nil => exact ⟨rfl, fun _ h => h⟩
  | cons x r ih =>
    obtain ⟨h1, h2⟩ := ih (feedOne s)
    obtain ⟨h3, h4⟩ := feedOne_keeps s
    exact ⟨h1.trans h3, fun i hi => h2 i (h4 i hi)⟩

/-- A codeword that came from its die is at a decoder or waits for one. -/
theorem toDecoder_decodes (s : State) (i : Nat) : ∃ l h, toDecoder s i = { s with reads := l, sched := h } ∧
    getRd (toDecoder s i) i = { getRd s i with st := .decode } ∧ i ∈ atDecoders (toDecoder s i).sched := by
  have hg : getRd (setRd s i { getRd s i with st := .decode }) i = { getRd s i with st := .decode } :=
    tget_tset_same _ _ _ _ fun e => by
      have := congrArg Rd.st e
      cases this
  have fed (h : Sched) (hi : i ∈ atDecoders h) : ∃ l k, feed { setRd s i { getRd s i with st := .decode } with sched := h } = { s with reads := l, sched := k } ∧
      getRd (feed { setRd s i { getRd s i with st := .decode } with sched := h }) i = { getRd s i with st := .decode } ∧
      i ∈ atDecoders (feed { setRd s i { getRd s i with st := .decode } with sched := h }).sched := by
    obtain ⟨h1, h2⟩ := feed_keeps { setRd s i { getRd s i with st := .decode } with sched := h }
    exact ⟨_, _, feed_eq _, (congrArg (fun l => tget ({} : Rd) l i) h1).trans hg, h2 i hi⟩
  unfold toDecoder
  dsimp only
  split
  · exact fed _ (mem_atDecoders.mpr (.inr (.inr (.inr (by simp)))))
  · split
    · exact ⟨_, _, rfl, hg, mem_atDecoders.mpr (.inl (by simp))⟩
    · exact fed _ (mem_atDecoders.mpr (.inr (.inl (by simp))))

/-! ### A burst (R229, R233, R247) -/

/-- The channel after a burst of class `cl` for a die. -/
def burstChan (s : State) (ch cl d n : Nat) : Chan := drivenChan s { getChan s ch with lastUrgent := cl == 0 } (d % 32 / 4) n

section
variable {s : State} {ch cl o d : Nat} (hd : d / 32 = ch) (h1 : (getChan s ch).retrain = false) (h2 : (getChan s ch).state = 2)
  (h3 : iccqFor s ch = true) (h4 : nextBurst s ch = some (cl, o, d))

include hd h2 in
/-- The bus as the burst leaves it, and nothing else of the state. -/
theorem burst_drives (n : Nat) : ∃ l, driveDie (setChan s ch { getChan s ch with lastUrgent := cl == 0 }) d n = { s with chans := l } ∧
    getChan { s with chans := l } ch = burstChan s ch cl d n := by
  have hne : ({ getChan s ch with lastUrgent := cl == 0 } : Chan) ≠ {} := fun e => by
    have := congrArg Chan.state e
    rw [show ({ getChan s ch with lastUrgent := cl == 0 } : Chan).state = (getChan s ch).state from rfl, h2] at this
    cases this
  have hg := getChan_setChan_same s ch _ hne
  obtain ⟨l, hl⟩ := driveDie_only (setChan s ch { getChan s ch with lastUrgent := cl == 0 }) d n
  have hdr := (driveDie_drives (s := setChan s ch { getChan s ch with lastUrgent := cl == 0 }) (d := d) n (by
    rw [hd, hg]
    show (getChan s ch).state ≠ 0
    rw [h2]
    decide)).1
  rw [hl, hd, hg] at hdr
  exact ⟨l, hl, hdr⟩

include h1 h2 h3 h4 in
theorem burst_exec : exec (.channelBurstSelect ch) s = .next
    (let x := getDie s d
    let s1 := setChan s ch { getChan s ch with lastUrgent := cl == 0 }
    match x.xfer, x.op with
    | some i, _ => crossed (setDie (driveDie s1 d (burstNclk (getStripe s (getRd s i).sid).fmt)) d { x with xfer := none }) i
    | none, .load sid => setDie (driveDie s1 d (burstNclk (getStripe s sid).fmt)) d { x with bursts := x.bursts + 1 }
    | none, .copyLoad r => setDie (driveDie s1 d (copyNclk s d r)) d { x with bursts := x.bursts + 1 }
    | none, .copyXfer r =>
      let s2 := setDie (driveDie s1 d (copyNclk s d r + 64)) d { x with bursts := x.bursts + 1 }
      if x.bursts + 1 < 64 then s2 else copyStep (idleDie s2 d) (d % 32) r
    | none, _ => s1) := by
  show execChannelBurstSelect ch s = _
  unfold execChannelBurstSelect
  dsimp only
  rw [if_neg (by simp [h1, h2, h3]), h4]
  dsimp only
  cases (getDie s d).xfer with
  | some i => rfl
  | none => cases (getDie s d).op <;> rfl

include hd h1 h2 h3 h4

theorem burst_loads {sid : Nat} (hx : (getDie s d).xfer = none) (hop : (getDie s d).op = .load sid) :
    ∃ t, exec (.channelBurstSelect ch) s = .next t ∧ getChan t ch = burstChan s ch cl d (burstNclk (getStripe s sid).fmt) ∧
      t.dies = tset {} s.dies d { getDie s d with bursts := (getDie s d).bursts + 1 } ∧
      t.stripes = s.stripes ∧ t.cmds = s.cmds ∧ t.reads = s.reads ∧ t.sched = s.sched := by
  obtain ⟨l, hl, hg⟩ := burst_drives (cl := cl) hd h2 (burstNclk (getStripe s sid).fmt)
  have he := burst_exec h1 h2 h3 h4
  dsimp only at he
  generalize hv : ({ getDie s d with bursts := (getDie s d).bursts + 1 } : Die) = v at he
  rw [hx, hop] at he
  dsimp only at he
  rw [hl] at he
  subst hv
  exact ⟨_, he, hg, rfl, rfl, rfl, rfl, rfl⟩

theorem burst_copies {r : Nat} (hx : (getDie s d).xfer = none) (hop : (getDie s d).op = .copyLoad r) :
    ∃ t, exec (.channelBurstSelect ch) s = .next t ∧ getChan t ch = burstChan s ch cl d (copyNclk s d r) ∧
      t.dies = tset {} s.dies d { getDie s d with bursts := (getDie s d).bursts + 1 } ∧
      t.rows = s.rows ∧ t.stripes = s.stripes ∧ t.reads = s.reads ∧ t.sched = s.sched := by
  obtain ⟨l, hl, hg⟩ := burst_drives (cl := cl) hd h2 (copyNclk s d r)
  have he := burst_exec h1 h2 h3 h4
  dsimp only at he
  generalize hv : ({ getDie s d with bursts := (getDie s d).bursts + 1 } : Die) = v at he
  rw [hx, hop] at he
  dsimp only at he
  rw [hl] at he
  subst hv
  exact ⟨_, he, hg, rfl, rfl, rfl, rfl, rfl⟩

theorem burst_transfers {r : Nat} (hx : (getDie s d).xfer = none) (hop : (getDie s d).op = .copyXfer r)
    (hb : (getDie s d).bursts + 1 < 64) :
    ∃ t, exec (.channelBurstSelect ch) s = .next t ∧ getChan t ch = burstChan s ch cl d (copyNclk s d r + 64) ∧
      t.dies = tset {} s.dies d { getDie s d with bursts := (getDie s d).bursts + 1 } ∧
      t.rows = s.rows ∧ t.stripes = s.stripes ∧ t.reads = s.reads ∧ t.sched = s.sched := by
  obtain ⟨l, hl, hg⟩ := burst_drives (cl := cl) hd h2 (copyNclk s d r + 64)
  have he := burst_exec h1 h2 h3 h4
  dsimp only at he
  generalize hv : ({ getDie s d with bursts := (getDie s d).bursts + 1 } : Die) = v at he
  rw [hx, hop] at he
  dsimp only at he
  rw [if_pos hb, hl] at he
  subst hv
  exact ⟨_, he, hg, rfl, rfl, rfl, rfl, rfl⟩

/-- The burst that brings a read's codeword: the read is then crossed over from the die's page register. -/
theorem burst_crosses {i : Nat} (hx : (getDie s d).xfer = some i) : ∃ l,
    exec (.channelBurstSelect ch) s = .next (crossed { s with chans := l, dies := tset {} s.dies d { getDie s d with xfer := none } } i) ∧
    getChan { s with chans := l } ch = burstChan s ch cl d (burstNclk (getStripe s (getRd s i).sid).fmt) := by
  obtain ⟨l, hl, hg⟩ := burst_drives (cl := cl) hd h2 (burstNclk (getStripe s (getRd s i).sid).fmt)
  have he := burst_exec h1 h2 h3 h4
  dsimp only at he
  generalize hv : ({ getDie s d with xfer := none } : Die) = v at he
  rw [hx] at he
  dsimp only at he
  rw [hl] at he
  subst hv
  exact ⟨l, he, hg⟩

theorem burst_reads {i : Nat} (hx : (getDie s d).xfer = some i) (hr : hasRd s i = true) :
    ((getRd s i).step = 8 → (getRd s i).soft < 2 → ∃ t, exec (.channelBurstSelect ch) s = .next t ∧
      getChan t ch = burstChan s ch cl d (burstNclk (getStripe s (getRd s i).sid).fmt) ∧ t.dies = tset {} s.dies d { getDie s d with xfer := none } ∧
      getRd t i = { getRd s i with soft := (getRd s i).soft + 1, st := .wait } ∧
      t.stripes = s.stripes ∧ t.cmds = s.cmds ∧ t.sched = s.sched) ∧
    ((getRd s i).step ≠ 8 ∨ 2 ≤ (getRd s i).soft → ∃ t, exec (.channelBurstSelect ch) s = .next t ∧
      getChan t ch = burstChan s ch cl d (burstNclk (getStripe s (getRd s i).sid).fmt) ∧ t.dies = tset {} s.dies d { getDie s d with xfer := none } ∧
      getRd t i = { getRd s i with st := .decode } ∧
      (i ∈ t.sched.hard ++ t.sched.hardQ ++ t.sched.soft ++ t.sched.softQ) ∧
      t.stripes = s.stripes ∧ t.cmds = s.cmds) := by
  obtain ⟨l, he, hg⟩ := burst_crosses hd h1 h2 h3 h4 hx
  generalize hu : ({ s with chans := l, dies := tset {} s.dies d { getDie s d with xfer := none } } : State) = u at he
  have hru : getRd u i = getRd s i := by rw [← hu]; rfl
  have hgu : getChan u ch = burstChan s ch cl d (burstNclk (getStripe s (getRd s i).sid).fmt) := by rw [← hu]; exact hg
  have hc : crossed u i = if (getRd s i).step == 8 && decide ((getRd s i).soft < 2) then
      setRd u i { getRd s i with soft := (getRd s i).soft + 1, st := .wait } else toDecoder u i := by
    have hh : hasRd u i = true := by rw [← hu]; exact hr
    unfold crossed
    dsimp only
    rw [hh, if_neg (by simp), hru]
  rw [hc] at he
  refine ⟨fun ha hb => ?_, fun hor => ?_⟩
  · rw [if_pos (by simp [ha, hb])] at he
    refine ⟨_, he, hgu, by rw [← hu]; rfl, tget_tset_same _ _ _ _ fun e => Nat.succ_ne_zero _ (congrArg Rd.soft e), ?_, ?_, ?_⟩
    · rw [← hu]; rfl
    · rw [← hu]; rfl
    · rw [← hu]; rfl
  · rw [if_neg (by simp; omega)] at he
    obtain ⟨m, k, hm, hrd, hin⟩ := toDecoder_decodes u i
    rw [hru] at hrd
    refine ⟨_, he, ?_, ?_, hrd, hin, ?_, ?_⟩
    · rw [hm]; exact hgu
    · rw [hm, ← hu]
    · rw [hm, ← hu]
    · rw [hm, ← hu]

end

/-! ### A program issued (R30, R31, R229) -/

/-- The die once a program, or the program of a copy, is issued to it. -/
def issuedDie (s : State) (d k : Nat) (op : DieOp) : Die := { getDie s d with
  op := op, opUs := s.nowUs, suspCnt := 0, polHeld := false, suspLimit := if charged s k then kC s else s.arm.cfg.urgMax }

theorem noted_noteRelease (s : State) (x : Stripe) : ∃ h, Noted { s with sched := h } (noteRelease s x) := by
  unfold noteRelease
  split
  · exact ⟨s.sched, .refl s⟩
  · dsimp only
    split
    · exact ⟨_, .refl _⟩
    · exact ⟨_, (noted_glbSet _ 5).trans (noted_nicheRec _ _ _ _ _ _ _)⟩

/-- The stripe with one more unit issued. -/
def unitIssued (x : Stripe) (c : Nat) : Stripe :=
  let y := { x with issued := setBit x.issued c }
  { y with released := releasable y, phase := if y.issued == y.chmask && y.phase == .granted then .issued else y.phase }

/-- The row a stripe lies in, once the whole of the stripe is issued. -/
def rowIssued (s : State) (x : Stripe) (us : Nat) : State :=
  let v := getRow s (rk x.rank x.row)
  if v.st == .bound then setRow (if x.pl.isSome then s else journal s) (rk x.rank x.row)
    { v with nstripe := v.nstripe + 1, firstUs := if v.nstripe == 0 then us else v.firstUs }
  else s

theorem issueUnit_eq (s : State) (sid c : Nat) : issueUnit s sid c =
    let x := getStripe s sid
    let s1 := sweepBufs (setStripe s sid (unitIssued x c)) sid
    if !((unitIssued x c).issued == x.chmask) then s1 else noteRelease (rowIssued s1 (unitIssued x c) s.opUs) (unitIssued x c) := rfl

theorem rowIssued_only (s : State) (x : Stripe) (us : Nat) : ∃ r p, rowIssued s x us = { s with rows := r, plinth := p } := by
  unfold rowIssued
  dsimp only
  split
  · split <;> exact ⟨_, _, rfl⟩
  · exact ⟨_, _, rfl⟩

/-- A unit that is issued is noted in its stripe; the dies, zones, sectors and commands stand. -/
theorem issueUnit_notes (s : State) (sid c : Nat) : (getStripe (issueUnit s sid c) sid).issued = setBit (getStripe s sid).issued c ∧
    (issueUnit s sid c).dies = s.dies ∧ (issueUnit s sid c).zones = s.zones ∧ (issueUnit s sid c).sectors = s.sectors ∧
    (issueUnit s sid c).cmds = s.cmds := by
  have hne : unitIssued (getStripe s sid) c ≠ {} := fun e => by
    have h := bitOf_setBit_same (getStripe s sid).issued c
    rw [show setBit (getStripe s sid).issued c = 0 from congrArg Stripe.issued e] at h
    simp [bitOf] at h
  have hg : (getStripe (setStripe s sid (unitIssued (getStripe s sid) c)) sid).issued = setBit (getStripe s sid).issued c := by
    rw [getStripe_setStripe_same _ _ _ hne]
    rfl
  have hs := sweepBufs_eq (setStripe s sid (unitIssued (getStripe s sid) c)) sid
  rw [issueUnit_eq]
  dsimp only
  split
  · rw [hs]
    exact ⟨hg, rfl, rfl, rfl, rfl⟩
  · obtain ⟨r, p, hr⟩ := rowIssued_only (sweepBufs (setStripe s sid (unitIssued (getStripe s sid) c)) sid) (unitIssued (getStripe s sid) c) s.opUs
    obtain ⟨h, hn⟩ := noted_noteRelease (rowIssued (sweepBufs (setStripe s sid (unitIssued (getStripe s sid) c)) sid)
      (unitIssued (getStripe s sid) c) s.opUs) (unitIssued (getStripe s sid) c)
    rw [hr, hs] at hn
    refine ⟨?_, ?_, ?_, ?_, ?_⟩
    · rw [hr, hs]
      exact (congrArg (fun l => (tget ({} : Stripe) l sid).issued) hn.stripes).trans hg
    · rw [hr, hs, hn.dies]; rfl
    · rw [hr, hs, hn.zones]; rfl
    · rw [hr, hs, hn.sectors]; rfl
    · rw [hr, hs, hn.cmds]; rfl

theorem getDie_issuedDie (s : State) {d k : Nat} {op : DieOp} (h : op ≠ .idle) :
    getDie (issueProgram s d k op) d = issuedDie s d k op :=
  tget_tset_same _ _ _ _ fun e => h (congrArg Die.op e)

section
variable {s : State} {ch rank : Nat}

theorem program_issues {sid : Nat} (hop : (getDie s (dk ch rank)).op = .load sid)
    (hb : loadBursts (getStripe s sid) ≤ (getDie s (dk ch rank)).bursts) (hr : (getChan s ch).retrain = false)
    (ht : commStripe s (getStripe s sid) = true ∨ tokensFor s s.arm.cfg.geom.iProg = true) :
    exec (.programIssued ch rank true) s =
      .next (notePeak (issueUnit (issueProgram s (dk ch rank) rank (.program sid)) sid ch)) := by
  show execProgramIssued ch rank true s = _
  unfold execProgramIssued
  dsimp only
  rw [hop]
  dsimp only
  rw [if_neg (by simp), if_neg (by simp [hr]; omega), if_neg (by rcases ht with h | h <;> simp [h])]
  rfl

theorem copy_issues {r : Nat} (hop : (getDie s (dk ch rank)).op = .copyLoad r) (hd : (getRow s (rk rank r)).dest ≠ none)
    (hb : 64 ≤ (getDie s (dk ch rank)).bursts) (hr : (getChan s ch).retrain = false)
    (ht : tokensFor s s.arm.cfg.geom.iProg = true) :
    exec (.programIssued ch rank true) s = .next (notePeak (issueProgram s (dk ch rank) rank (.copy r))) := by
  show execProgramIssued ch rank true s = _
  unfold execProgramIssued
  dsimp only
  rw [hop]
  dsimp only
  rw [if_neg (by simpa using hd), if_neg (by simp), if_neg (by simp [hr, ht]; omega)]
  rfl

end

/-- Settles O17: a burst moves one codeword on, and a whole load is issued as a program. -/
theorem burstsAndIssue : Obligations.BurstsAndIssue := by
  unfold Obligations.BurstsAndIssue
  refine ⟨?_, ?_, ?_⟩
  · intro s ch cl o d v x ce e f hd h1 h2 h3 h4
    refine ⟨fun sid hx hop => burst_loads hd h1 h2 h3 h4 hx hop, fun r hx hop => burst_copies hd h1 h2 h3 h4 hx hop,
      fun r hx hop hb => burst_transfers hd h1 h2 h3 h4 hx hop hb, ?_⟩
    intro i hx hr r
    exact burst_reads hd h1 h2 h3 h4 hx hr
  · intro s ch rank sid d hop hb hr ht
    have he := program_issues hop hb hr ht
    obtain ⟨a1, a2, a3, a4, a5⟩ := issueUnit_notes (issueProgram s (dk ch rank) rank (.program sid)) sid ch
    have hdie : getDie (notePeak (issueUnit (issueProgram s (dk ch rank) rank (.program sid)) sid ch)) (dk ch rank) =
        issuedDie s (dk ch rank) rank (.program sid) := by
      rw [← getDie_issuedDie s (by simp)]
      exact congrArg (fun l => tget ({} : Die) l (dk ch rank)) a2
    refine ⟨_, he, ?_, ?_, ?_, a1, a3, a4, a5⟩
    · rw [hdie]; rfl
    · rw [hdie]; rfl
    · rw [hdie]; rfl
  · intro s ch rank r d hop hd hb hr ht
    have he := copy_issues hop hd hb hr ht
    have hdie : getDie (notePeak (issueProgram s (dk ch rank) rank (.copy r))) (dk ch rank) = issuedDie s (dk ch rank) rank (.copy r) :=
      getDie_issuedDie s (by simp)
    refine ⟨_, he, ?_, ?_, ?_, rfl, rfl, rfl, rfl⟩
    · rw [hdie]; rfl
    · rw [hdie]; rfl
    · rw [hdie]; rfl

end Sys2Proof.Machine
end
section
/-! SUPPORT. What the end of an operation leaves of its die, and the bus a poll drives (R230, R246, R250). -/

namespace Sys2Proof.Machine

/-! ### The bus a poll drives -/

/-- The channels after a poll of the die at CE# `rank`. -/
def polledChans (s : State) (ch rank : Nat) : List (Nat × Chan) :=
  tset {} s.chans ch { getChan s ch with
    ce := rank / 4
    drv := (s.nowUs, if (getChan s ch).ce = rank / 4 then 32 else 48) :: (getChan s ch).drv.filter (fun p => decide (s.nowUs < p.1 + 1000)) }

theorem poll_drives {s : State} {rank : Nat} (ch : Nat) (hr : rank < 32) (hw : twf {} s.chans = true) :
    driveDie s (dk ch rank) 32 = { s with chans := polledChans s ch rank } := by
  have h1 : dk ch rank / 32 = ch := by unfold dk; omega
  have h2 : dk ch rank % 32 / 4 = rank / 4 := by unfold dk; omega
  unfold driveDie polledChans
  dsimp only
  rw [h1, h2]
  by_cases he : (getChan s ch).ce = rank / 4
  · rw [if_pos (beq_iff_eq.mpr he), if_pos he, ← he]
    rfl
  · rw [if_neg (by simpa using he), if_neg he]
    have hg : getChan (setChan s ch { getChan s ch with ce := rank / 4 }) ch = { getChan s ch with ce := rank / 4 } := by
      show tget {} (tset {} s.chans ch _) ch = _
      rw [tget_tset _ _ _ _ _ hw, if_pos rfl]
    unfold drive
    rw [hg]
    exact congrArg (fun l => ({ s with chans := l } : State)) (tset_tset_wf _ ch _ _ hw)

/-- An entry that is as `p` says its key's entry was leaves the number of those `p` holds of. -/
theorem filter_tset_length {α : Type} [DecidableEq α] {d v : α} {p : α → Bool} (hd : p d = false) (i : Nat) :
    ∀ (t : List (Nat × α)) (lo : Option Nat), twfFrom d lo t = true → p v = p (tget d t i) →
      ((tset d t i v).filter (fun kv => p kv.2)).length = (t.filter (fun kv => p kv.2)).length := by
  intro t
  induction t with
  | nil =>
    intro _ _ hv
    have hv' : p v = false := hv.trans hd
    unfold tset
    split <;> simp [hv']
  | cons x r ih =>
    intro lo hw hv
    obtain ⟨k, w⟩ := x
    rw [twfFrom_cons] at hw
    obtain ⟨-, -, hr⟩ := hw
    unfold tget at hv
    unfold tset
    by_cases h1 : i < k
    · rw [if_neg (by omega), tget_below d r k i (by omega) hr, hd] at hv
      rw [if_pos h1]
      split <;> simp [hv]
    · rw [if_neg h1]
      by_cases h2 : i = k
      · rw [if_pos h2] at hv ⊢
        split
        · next e =>
          rw [e, hd] at hv
          simp [← hv]
        · by_cases hp : p w = true
          · rw [hp] at hv
            simp [hv, hp]
          · simp only [Bool.not_eq_true] at hp
            rw [hp] at hv
            simp [hv, hp]
      · rw [if_neg h2] at hv ⊢
        have := ih (some k) hr hv
        by_cases hp : p w = true
        · simp [hp, this]
        · simp only [Bool.not_eq_true] at hp
          simp [hp, this]

/-- A poll is no burst: the bus budget stands. -/
theorem iccqFor_polled {s : State} {ch rank : Nat} (hw : twf {} s.chans = true) :
    iccqFor { s with chans := polledChans s ch rank } ch = iccqFor s ch := by
  have hb (ce n : Nat) (hn : n < 256) (v : Chan) : burstNow s { v with ce := ce, drv := (s.nowUs, n) :: v.drv.filter (fun p => decide (s.nowUs < p.1 + 1000)) } = burstNow s v := by
    unfold burstNow
    dsimp only
    rw [List.any_cons, List.any_filter]
    have h0 : decide (256 ≤ n) = false := by simpa using hn
    rw [h0, Bool.and_false, Bool.false_or]
    refine congrArg (fun f => v.drv.any f) (funext fun e => ?_)
    by_cases he : e.1 = s.nowUs
    · rw [he]
      simp
    · simp [he]
  have hn : (if (getChan s ch).ce = rank / 4 then 32 else 48) < 256 := by split <;> decide
  have hg : getChan { s with chans := polledChans s ch rank } ch = { getChan s ch with
      ce := rank / 4
      drv := (s.nowUs, if (getChan s ch).ce = rank / 4 then 32 else 48) :: (getChan s ch).drv.filter (fun p => decide (s.nowUs < p.1 + 1000)) } := by
    show tget {} (tset {} s.chans ch _) ch = _
    rw [tget_tset _ _ _ _ _ hw, if_pos rfl]
  have hbn (v : Chan) : burstNow { s with chans := polledChans s ch rank } v = burstNow s v := rfl
  have hu : iccqUsed { s with chans := polledChans s ch rank } = iccqUsed s := by
    unfold iccqUsed
    exact congrArg (fun n => s.arm.cfg.geom.iXfer * n) (filter_tset_length (p := burstNow s) rfl ch s.chans none hw (hb _ _ hn (getChan s ch)))
  unfold iccqFor
  rw [hg, hbn, hb _ _ hn, hu]

/-! ### The end of an operation (R187, R230, R268) -/

/-- The die once its operation has ended. -/
def idledDie (d : Die) : Die := { d with op := .idle, kind := 0, resv := false, bursts := 0 }

section
variable {u : State} {ch k : Nat}

theorem getDie_idle (h : twf {} u.dies = true) : getDie (setDie u (dk ch k) (idledDie (getDie u (dk ch k)))) (dk ch k) = idledDie (getDie u (dk ch k)) := by
  show tget {} (tset {} u.dies _ _) _ = _
  rw [tget_tset _ _ _ _ _ h, if_pos rfl]

theorem setDie_setDie (h : twf {} u.dies = true) (d : Nat) (a b : Die) : setDie (setDie u d a) d b = setDie u d b :=
  congrArg (fun l => ({ u with dies := l } : State)) (tset_tset_wf _ d a b h)

/-- The unit of a program that ended is noted in its stripe, and counted where the stripe is not the Plinth's. -/
theorem endOp_program {sid : Nat} (hop : (getDie u (dk ch k)).op = .program sid) (hs : u.stripes.any (fun kv => kv.1 == sid) = true)
    (hne : setBit (getStripe u sid).ended ch ≠ (getStripe u sid).chmask) :
    let x := getStripe u sid
    let e := { u with
      dies := tset {} u.dies (dk ch k) (idledDie (getDie u (dk ch k)))
      stripes := tset {} u.stripes sid { x with ended := setBit x.ended ch } }
    endOp u ch k true = if x.pl.isSome then e else { e with
      niches := tset {} u.niches x.niche { getNch u x.niche with mediaWritten := satAdd 64 (getNch u x.niche).mediaWritten 64 } } := by
  intro x e
  have hxne : ({ x with ended := setBit x.ended ch } : Stripe) ≠ {} := fun h => by
    have hb := bitOf_setBit_same x.ended ch
    rw [show setBit x.ended ch = 0 from congrArg Stripe.ended h] at hb
    simp [bitOf] at hb
  have hend (t : State) (ht : t.stripes = e.stripes) : endStripe t sid = t := by
    have hg : getStripe t sid = { x with ended := setBit x.ended ch } := by
      unfold getStripe
      rw [ht]
      exact tget_tset_same _ _ _ _ hxne
    unfold endStripe
    dsimp only
    rw [hg, if_pos (by simpa using hne)]
  have h0 : endOp u ch k true = endProgram (idleDie u (dk ch k)) sid ch true := by
    unfold endOp
    dsimp only
    rw [hop]
  have hs' : (idleDie u (dk ch k)).stripes.any (fun kv => kv.1 == sid) = true := hs
  rw [h0]
  unfold endProgram
  dsimp only
  rw [hs', if_neg (by simp)]
  change endStripe (if (true && x.pl.isSome) = true then e else if true = true then _ else _) sid = _
  rw [Bool.true_and]
  split
  · exact hend e rfl
  · exact hend _ rfl

theorem endOp_erase {row : Nat} (hop : (getDie u (dk ch k)).op = .erase row)
    (hs : stillErasing (setDie u (dk ch k) (idledDie (getDie u (dk ch k)))) k row = false) :
    endOp u ch k true = { u with
      dies := tset {} u.dies (dk ch k) (idledDie (getDie u (dk ch k))), rows := tset {} u.rows (rk k row) {} } := by
  have h0 : endOp u ch k true = endErase (idleDie u (dk ch k)) k row := by
    unfold endOp
    dsimp only
    rw [hop]
    rfl
  rw [h0]
  unfold endErase
  rw [show stillErasing (idleDie u (dk ch k)) k row = false from hs, if_neg Bool.false_ne_true]
  rfl

theorem endOp_spare (h : twf {} u.dies = true) (hop : (getDie u (dk ch k)).op = .spare) :
    endOp u ch k true = { u with
      dies := tset {} u.dies (dk ch k) { idledDie (getDie u (dk ch k)) with spareDone := (getDie u (dk ch k)).spareDone + 1 } } := by
  have h0 : endOp u ch k true = endSpare (idleDie u (dk ch k)) ch k true := by
    unfold endOp
    dsimp only
    rw [hop]
  have hg : getDie (idleDie u (dk ch k)) (dk ch k) = idledDie (getDie u (dk ch k)) := getDie_idle h
  rw [h0]
  unfold endSpare
  rw [hg]
  exact setDie_setDie h _ _ _

theorem endOp_copyRead {row : Nat} (h : twf {} u.dies = true) (hop : (getDie u (dk ch k)).op = .copyRead row)
    (hp : (getRow u (rk k row)).copyPh = 1) :
    endOp u ch k true = { u with dies := tset {} u.dies (dk ch k) { getDie u (dk ch k) with op := .copyXfer row, bursts := 0 } } := by
  have hr : getRow (idleDie u (dk ch k)) (rk k row) = getRow u (rk k row) := rfl
  unfold endOp
  dsimp only
  generalize hv : ({ getDie u (dk ch k) with op := .copyXfer row, bursts := 0 } : Die) = v
  rw [hop]
  dsimp only
  rw [hr, hp, if_neg (by simp), if_pos rfl]
  subst hv
  exact setDie_setDie h _ _ _

theorem endOp_read {i : Nat} (h : twf {} u.dies = true) (hop : (getDie u (dk ch k)).op = .read i) (hr : hasRd u i = true) :
    endOp u ch k true = { u with
      dies := tset {} u.dies (dk ch k) { idledDie (getDie u (dk ch k)) with xfer := some i }
      reads := tset {} u.reads i { getRd u i with st := .xfer } } := by
  have hg : getDie (idleDie u (dk ch k)) (dk ch k) = idledDie (getDie u (dk ch k)) := getDie_idle h
  have hh : hasRd (idleDie u (dk ch k)) i = true := hr
  unfold endOp
  dsimp only
  rw [hop]
  dsimp only
  rw [hh, if_neg (by simp), if_pos rfl, hg]
  exact congrArg (fun l => ({ u with dies := l, reads := tset {} u.reads i { getRd u i with st := .xfer } } : State))
    (tset_tset_wf _ _ _ _ h)

/-- A read whose time runs out goes on to the next step of its ladder. -/
theorem endOp_readFails {i : Nat} (hop : (getDie u (dk ch k)).op = .read i) (hr : hasRd u i = true) (hs : (getRd u i).step ≤ 7) :
    endOp u ch k false = { u with
      dies := tset {} u.dies (dk ch k) (idledDie (getDie u (dk ch k)))
      reads := tset {} u.reads i { getRd u i with step := (getRd u i).step + 1, soft := 0, st := .wait } } := by
  have hh : hasRd (idleDie u (dk ch k)) i = true := hr
  have hg : getRd (idleDie u (dk ch k)) i = getRd u i := rfl
  unfold endOp
  dsimp only
  rw [hop]
  dsimp only
  rw [hh, if_neg (by simp), if_neg Bool.false_ne_true]
  unfold failStep
  dsimp only
  rw [hg, if_pos hs]
  rfl

end

end Sys2Proof.Machine
end

section
/-! SUPPORT. The start of an operation on a die (R30, R229, R230). -/

namespace Sys2Proof.Machine

/-- The start of an operation changes its die and the bus alone, and puts the die in the operation. -/
theorem setOp_starts (s : State) (d : Nat) {op : DieOp} (kind n : Nat) (resv : Bool) (h : op ≠ .idle) :
    (∃ l m, setOp s d op kind n resv = { s with chans := l, dies := m }) ∧ (getDie (setOp s d op kind n resv) d).op = op ∧
    ∀ j, j ≠ d → getDie (setOp s d op kind n resv) j = getDie s j := by
  unfold setOp
  dsimp only
  obtain ⟨l, hl⟩ : ∃ l, (if (opNclk op == 0) = true then s else driveDie s d (opNclk op)) = { s with chans := l } := by
    split
    · exact ⟨s.chans, rfl⟩
    · exact driveDie_only s d _
  rw [hl]
  refine ⟨⟨l, _, rfl⟩, ?_, fun j hj => tget_tset_ne _ _ _ _ _ hj⟩
  rw [getDie_setDie_same]
  intro e
  exact h (congrArg Die.op e)

/-- The read of a codeword starts on its die, and the codeword comes from the array. -/
theorem startRead1_starts (s : State) (i kind : Nat) (resv : Bool) :
    (getDie (startRead1 s i kind resv) (dieOfRd s i)).op = .read i ∧ (getRd (startRead1 s i kind resv) i).st = .array ∧
    (startRead1 s i kind resv).stripes = s.stripes ∧ (startRead1 s i kind resv).cmds = s.cmds ∧
    (startRead1 s i kind resv).zones = s.zones := by
  unfold startRead1
  dsimp only
  change (getDie _ (dieOfRd (nextGrant s) i)).op = _ ∧ _
  have hr : ∀ q, getRd (setRd (nextGrant s) i { getRd (nextGrant s) i with st := .array, seq := q }) i =
      { getRd (nextGrant s) i with st := .array, seq := q } := fun q => getRd_setRd_same _ _ _ fun e => by
    have := congrArg Rd.st e
    cases this
  generalize hq : (if (getRd (nextGrant s) i).pol.isSome = true then (getRd (nextGrant s) i).seq else (nextGrant s).sched.grantNo) = q
  have hrq := hr q
  generalize hs1 : setRd (nextGrant s) i { getRd (nextGrant s) i with st := .array, seq := q } = s1 at hrq
  generalize hs2 : (if ((getRd (nextGrant s) i).sid == 0) = true then s1 else _ : State) = s2
  have h2 : ∃ l, s2 = { s1 with rows := l } := by
    rw [← hs2]
    split
    · exact ⟨s1.rows, rfl⟩
    · split
      · unfold queueRecast
        dsimp only
        split <;> exact ⟨_, rfl⟩
      · exact ⟨_, rfl⟩
  obtain ⟨l, hl⟩ := h2
  obtain ⟨⟨m, n, hm⟩, hop, -⟩ := setOp_starts s2 (dk (getRd (nextGrant s) i).ch (getRd (nextGrant s) i).rank) (op := .read i) kind
    (workNiche s (getRd (nextGrant s) i).rank (.read i)) resv (by simp)
  generalize hs3 : setOp s2 (dk (getRd (nextGrant s) i).ch (getRd (nextGrant s) i).rank) (.read i) kind
    (workNiche s (getRd (nextGrant s) i).rank (.read i)) resv = s3 at hm hop
  refine ⟨?_, ?_, ?_, ?_, ?_⟩
  · show (getDie (setDie s3 (dk (getRd (nextGrant s) i).ch (getRd (nextGrant s) i).rank) _) (dk (getRd (nextGrant s) i).ch (getRd (nextGrant s) i).rank)).op = _
    rw [getDie_setDie_same]
    · exact hop
    · intro e
      have := congrArg Die.op e
      change (getDie s3 (dk (getRd (nextGrant s) i).ch (getRd (nextGrant s) i).rank)).op = .idle at this
      rw [hop] at this
      cases this
  · show (getRd s3 i).st = _
    rw [hm, hl]
    exact congrArg Rd.st hrq
  · show s3.stripes = _
    rw [hm, hl, ← hs1]
    rfl
  · show s3.cmds = _
    rw [hm, hl, ← hs1]
    rfl
  · show s3.zones = _
    rw [hm, hl, ← hs1]
    rfl

end Sys2Proof.Machine
end

section
/-! PROOFS. A poll or a timeout takes a die out of its operation (R187, R230, R232, R246, R250, R268). -/

namespace Sys2Proof.Machine

section
variable {s : State} {ch rank : Nat}

theorem poll_waits (r : Poll) (h : (getChan s ch).retrain = true ∨ iccqFor s ch = false) : exec (.statusPoll ch rank r) s = .next s := by
  show execStatusPoll ch rank r s = _
  unfold execStatusPoll
  dsimp only
  rw [if_pos (by rcases h with h | h <;> simp [h])]
  rfl

variable (hr : rank < 32) (hw : twf {} s.chans = true) (hd : twf {} s.dies = true) (h1 : (getChan s ch).retrain = false)
  (h2 : iccqFor s ch = true)
include hr hw h1 h2

theorem poll_busy : exec (.statusPoll ch rank .busy) s = .next { s with chans := polledChans s ch rank } := by
  show execStatusPoll ch rank .busy s = _
  unfold execStatusPoll
  dsimp only
  rw [if_neg (by simp [h1, h2]), poll_drives ch hr hw]
  rfl

theorem poll_ready (h : (getDie s (dk ch rank)).suspWait = false) :
    exec (.statusPoll ch rank .ready) s = .next (endOp { s with chans := polledChans s ch rank } ch rank true) := by
  show execStatusPoll ch rank .ready s = _
  unfold execStatusPoll
  dsimp only
  rw [if_neg (by simp [h1, h2]), poll_drives ch hr hw, h]
  rfl

theorem poll_suspended (h : (getDie s (dk ch rank)).suspWait = true) :
    exec (.statusPoll ch rank .ready) s = .next (suspendDone { s with chans := polledChans s ch rank } (dk ch rank)) := by
  show execStatusPoll ch rank .ready s = _
  unfold execStatusPoll
  dsimp only
  rw [if_neg (by simp [h1, h2]), poll_drives ch hr hw, h]
  rfl

include hd

/-- A suspend that is done starts the read it is for, where that finds its tokens. -/
theorem poll_suspendDone {i : Nat} (h : (getDie s (dk ch rank)).suspWait = true) (hs : (getDie s (dk ch rank)).suspRd = some i)
    (hi : hasRd s i = true) (hst : (getRd s i).st = .wait) :
    exec (.statusPoll ch rank .ready) s = .next
      (if tokensFor (setDie s (dk ch rank) { getDie s (dk ch rank) with suspWait := false }) s.arm.cfg.geom.iRead then
        startRead1 { s with
          chans := polledChans s ch rank
          dies := tset {} s.dies (dk ch rank) { getDie s (dk ch rank) with suspWait := false, suspRd := none } } i 6 false
      else { s with chans := polledChans s ch rank, dies := tset {} s.dies (dk ch rank) { getDie s (dk ch rank) with suspWait := false } }) := by
  rw [poll_suspended hr hw h1 h2 h]
  have hq : iccqFor { s with chans := polledChans s ch rank } (dk ch rank / 32) = true := by
    rw [show dk ch rank / 32 = ch by unfold dk; omega, iccqFor_polled hw, h2]
  have hq1 : iccqFor (setDie { s with chans := polledChans s ch rank } (dk ch rank) { getDie s (dk ch rank) with suspWait := false }) (dk ch rank / 32) = true := hq
  have hr1 : getRd (setDie { s with chans := polledChans s ch rank } (dk ch rank) { getDie s (dk ch rank) with suspWait := false }) i = getRd s i := rfl
  have hi1 : hasRd (setDie { s with chans := polledChans s ch rank } (dk ch rank) { getDie s (dk ch rank) with suspWait := false }) i = true := hi
  have hg : getDie { s with chans := polledChans s ch rank } (dk ch rank) = getDie s (dk ch rank) := rfl
  have ht : tokensFor (setDie { s with chans := polledChans s ch rank } (dk ch rank) { getDie s (dk ch rank) with suspWait := false }) s.arm.cfg.geom.iRead =
    tokensFor (setDie s (dk ch rank) { getDie s (dk ch rank) with suspWait := false }) s.arm.cfg.geom.iRead := rfl
  unfold suspendDone
  dsimp only
  rw [hg]
  generalize hv1 : ({ getDie s (dk ch rank) with suspWait := false } : Die) = v1 at hq1 hr1 hi1 ht ⊢
  generalize hv2 : ({ getDie s (dk ch rank) with suspWait := false, suspRd := none } : Die) = v2
  rw [hs]
  dsimp only
  rw [hr1, hi1, hst, if_neg (by simp), ht, hq1, Bool.and_true]
  split
  · refine congrArg (fun l => Host.Outcome.next (startRead1 { s with chans := polledChans s ch rank, dies := l } i 6 false)) ?_
    exact tset_tset_wf _ _ _ _ hd
  · rfl

end

theorem timeout_read {s : State} {ch rank i : Nat} (hop : (getDie s (dk ch rank)).op = .read i) (hr : hasRd s i = true)
    (hs : (getRd s i).step ≤ 7) : exec (.operationTimeout ch rank) s = .next
      { s with
        chans := tset {} s.chans ch { getChan s ch with readTo := satAdd 16 (getChan s ch).readTo 1 }
        dies := tset {} s.dies (dk ch rank) (idledDie (getDie s (dk ch rank)))
        reads := tset {} s.reads i { getRd s i with step := (getRd s i).step + 1, soft := 0, st := .wait } } := by
  have ht : timesRead (getDie s (dk ch rank)) = true := by
    unfold timesRead
    rw [hop, Bool.or_true]
  have he := endOp_readFails (u := setChan s ch { getChan s ch with readTo := satAdd 16 (getChan s ch).readTo 1 }) (ch := ch) (k := rank) hop hr hs
  show execOperationTimeout ch rank s = _
  unfold execOperationTimeout
  dsimp only
  rw [ht, if_pos rfl, hop]
  exact congrArg ok he

theorem timeout_program {s : State} {ch rank sid : Nat} (hw : (getDie s (dk ch rank)).suspWait = false)
    (hop : (getDie s (dk ch rank)).op = .program sid) :
    ∃ t, exec (.operationTimeout ch rank) s = .next t ∧
      (getChan t ch).progTo = satAdd 16 (getChan s ch).progTo 1 ∧ guarded t = guarded s := by
  have ht : timesRead (getDie s (dk ch rank)) = false := by
    unfold timesRead
    rw [hop, hw]
    rfl
  have hne : ({ getChan s ch with progTo := satAdd 16 (getChan s ch).progTo 1 } : Chan) ≠ {} := fun e => by
    have h0 : satAdd 16 (getChan s ch).progTo 1 = 0 := congrArg Chan.progTo e
    unfold satAdd at h0
    omega
  generalize hu : setChan s ch { getChan s ch with progTo := satAdd 16 (getChan s ch).progTo 1 } = u
  have hgc : (getChan u ch).progTo = satAdd 16 (getChan s ch).progTo 1 := by
    rw [← hu, getChan_setChan_same _ _ _ hne]
  have hopu : (getDie u (dk ch rank)).op = .program sid := by rw [← hu]; exact hop
  have hx : exec (.operationTimeout ch rank) s = .next (endOp u ch rank false) := by
    show execOperationTimeout ch rank s = _
    unfold execOperationTimeout
    dsimp only
    rw [ht, if_neg Bool.false_ne_true, hop, hu]
    rfl
  have he : endOp u ch rank false = endProgram (idleDie u (dk ch rank)) sid ch false := by
    unfold endOp
    dsimp only
    rw [hopu]
  refine ⟨_, hx, ?_, ?_⟩
  · have hp : platform (endOp u ch rank false) = platform (idleDie u (dk ch rank)) := by
      rw [he, endProgram_platform]
    have hc : (endOp u ch rank false).chans = u.chans := congrArg Platform.chans hp
    unfold getChan
    rw [hc]
    exact hgc
  · rw [endOp_guarded, ← hu]
    rfl

/-- Settles O18: a poll finds an operation ended, a timeout fails it, and its die is free. -/
theorem operationsEnd : Obligations.OperationsEnd := by
  unfold Obligations.OperationsEnd
  refine ⟨fun s ch rank r h => poll_waits r h, ?_, ?_⟩
  · intro s ch rank hr hw hd h1 h2 v u d idle
    refine ⟨poll_busy hr hw h1 h2, ?_, ?_, ?_, ?_, ?_, ?_⟩
    · intro sid x h e hs hop hany hne
      have he := endOp_program (u := { s with chans := polledChans s ch rank }) (ch := ch) (k := rank) hop hany hne
      dsimp only at he
      rw [poll_ready hr hw h1 h2 hs, he]
      refine ⟨fun hpl => ?_, fun hpl => ?_⟩
      · have hn : (getStripe { s with chans := polledChans s ch rank } sid).pl.isSome = false := by
          rw [show (getStripe { s with chans := polledChans s ch rank } sid).pl = none from hpl]
          rfl
        rw [hn]
        rfl
      · have hn : (getStripe { s with chans := polledChans s ch rank } sid).pl.isSome = true := Option.isSome_iff_ne_none.mpr hpl
        rw [hn]
        rfl
    · intro row hs hop hst
      rw [poll_ready hr hw h1 h2 hs, endOp_erase (u := { s with chans := polledChans s ch rank }) (ch := ch) (k := rank) hop hst]
      rfl
    · intro hs hop
      rw [poll_ready hr hw h1 h2 hs, endOp_spare (u := { s with chans := polledChans s ch rank }) (ch := ch) (k := rank) hd hop]
      rfl
    · intro row hs hop hp
      rw [poll_ready hr hw h1 h2 hs, endOp_copyRead (u := { s with chans := polledChans s ch rank }) (ch := ch) (k := rank) hd hop hp]
      rfl
    · intro i hs hop hi
      have hx := poll_ready hr hw h1 h2 hs
      rw [endOp_read (u := { s with chans := polledChans s ch rank }) (ch := ch) (k := rank) hd hop hi] at hx
      have hg : tget ({} : Die) (tset {} s.dies (dk ch rank) { idledDie (getDie s (dk ch rank)) with xfer := some i }) (dk ch rank) =
          { idledDie (getDie s (dk ch rank)) with xfer := some i } := tget_tset_same _ _ _ _ fun e => by
        have := congrArg Die.xfer e
        cases this
      exact ⟨_, hx, congrArg Die.op hg, congrArg Die.xfer hg, rfl, rfl, rfl, rfl, rfl⟩
    · intro i hs hrd hi hst
      have hx := poll_suspendDone hr hw hd h1 h2 hs hrd hi hst
      refine ⟨fun ht => ?_, fun ht => ?_⟩
      · rw [if_pos ht] at hx
        obtain ⟨a1, a2, a3, a4, a5⟩ := startRead1_starts { s with
          chans := polledChans s ch rank
          dies := tset {} s.dies (dk ch rank) { getDie s (dk ch rank) with suspWait := false, suspRd := none } } i 6 false
        exact ⟨_, hx, a1, a2, a3, a4, a5⟩
      · rw [ht, if_neg Bool.false_ne_true] at hx
        exact hx
  · intro s ch rank d idle
    exact ⟨fun i hop hr hs => timeout_read hop hr hs, fun sid hw hop => timeout_program hw hop⟩

end Sys2Proof.Machine
end
section
/-! SUPPORT. What the scheduler's work changes, and the operation each of its dies is in (R222, R223, R230, R273). -/

namespace Sys2Proof.Machine

/-- Operations started on dies change the dies and the bus alone, and every die of the list is in the operation. -/
theorem setOps_start {op : DieOp} (h : op ≠ .idle) (kind n : Nat) (resv : Bool) (l : List Nat) (s : State) :
    (∃ c m, l.foldl (fun a d => setOp a d op kind n resv) s = { s with chans := c, dies := m }) ∧
    ∀ d, d ∈ l ∨ (getDie s d).op = op → (getDie (l.foldl (fun a d => setOp a d op kind n resv) s) d).op = op := by
  induction l generalizing s with
  | nil => exact ⟨⟨_, _, rfl⟩, fun d hd => hd.resolve_left (by simp)⟩
  | cons x t ih =>
    obtain ⟨⟨c, m, hs⟩, hx, hne⟩ := setOp_starts s x kind n resv h
    obtain ⟨⟨c', m', he⟩, hops⟩ := ih (setOp s x op kind n resv)
    refine ⟨⟨c', m', ?_⟩, fun d hd => hops d ?_⟩
    · rw [List.foldl_cons, he, hs]
    · by_cases hdx : d = x
      · exact .inr (by rw [hdx, hx])
      · rcases hd with hd | hd
        · exact .inl ((List.mem_cons.mp hd).resolve_left hdx)
        · exact .inr (by rw [hne d hdx, hd])

theorem countTurn_keeps (l : List Nat) (row : Nat) (s : State) :
    (∃ m, countTurn s l row = { s with dies := m }) ∧
    ∀ d op, op ≠ .idle → (getDie s d).op = op → (getDie (countTurn s l row) d).op = op := by
  unfold countTurn
  induction l generalizing s with
  | nil => exact ⟨⟨_, rfl⟩, fun _ _ _ hd => hd⟩
  | cons x t ih =>
    generalize hv : ({ getDie s x with turn := if row == 5 then 0 else if row == 4 then min 4 ((getDie s x).turn + 1) else (getDie s x).turn } : Die) = v
    have hvo : v.op = (getDie s x).op := by rw [← hv]
    obtain ⟨⟨m, he⟩, hops⟩ := ih (setDie s x v)
    rw [List.foldl_cons]
    dsimp only
    rw [hv]
    refine ⟨⟨m, he.trans rfl⟩, fun d op hne hd => hops d op hne ?_⟩
    by_cases hdx : d = x
    · subst hdx
      rw [getDie_setDie_same]
      · exact hvo.trans hd
      · intro e
        exact hne (hd.symm.trans (hvo.symm.trans (congrArg Die.op e)))
    · exact (congrArg Die.op (tget_tset_ne _ _ _ _ _ hdx)).trans hd

theorem notePeak_only (s : State) : ∃ p, notePeak s = { s with sched := { s.sched with peak := p } } := ⟨_, rfl⟩

/-- A stripe of dies in service is granted with the next numbers, and its dies begin to load it. -/
theorem loadStripe_starts (s : State) (sid kind : Nat)
    (h : ∀ c ∈ chIn (getStripe s sid).chmask, (getDie s (dk c (getStripe s sid).rank)).retired = false ∧ bitOf (getStripe s sid).issued c = false) :
    (∃ c m p, loadStripe s sid kind = { s with
      chans := c
      dies := m
      stripes := tset {} s.stripes sid { getStripe s sid with phase := .granted, seq := s.sched.seqNo + 1, ord := s.sched.grantNo + 1 }
      sched := { s.sched with seqNo := s.sched.seqNo + 1, grantNo := s.sched.grantNo + 1, peak := p } }) ∧
    ∀ c ∈ chIn (getStripe s sid).chmask, (getDie (loadStripe s sid kind) (dk c (getStripe s sid).rank)).op = .load sid := by
  have htodo : (chIn (getStripe s sid).chmask).filter (fun c => !bitOf (getStripe s sid).issued c) = chIn (getStripe s sid).chmask :=
    List.filter_eq_self.mpr fun c hc => by simp [(h c hc).2]
  have hlive : (chIn (getStripe s sid).chmask).filter (fun c => !(getDie s (dk c (getStripe s sid).rank)).retired) = chIn (getStripe s sid).chmask :=
    List.filter_eq_self.mpr fun c hc => by simp [(h c hc).1]
  have hgone : (chIn (getStripe s sid).chmask).filter (fun c => (getDie s (dk c (getStripe s sid).rank)).retired) = [] :=
    List.filter_eq_nil_iff.mpr fun c hc => by simp [(h c hc).1]
  unfold loadStripe
  dsimp only
  rw [htodo, hlive, hgone]
  rw [show (nextSeq (nextGrant s)).sched.seqNo = s.sched.seqNo + 1 from rfl, show (nextSeq (nextGrant s)).sched.grantNo = s.sched.grantNo + 1 from rfl]
  generalize ({ getStripe s sid with phase := .granted, seq := s.sched.seqNo + 1, ord := s.sched.grantNo + 1 } : Stripe) = v
  generalize hs1 : setStripe (nextSeq (nextGrant s)) sid v = s1
  have hfold : (chIn (getStripe s sid).chmask).foldl (fun a c => setOp a (dk c (getStripe s sid).rank) (.load sid) kind (getStripe s sid).niche (kind == 4)) s1 =
      ((chIn (getStripe s sid).chmask).map (dk · (getStripe s sid).rank)).foldl (fun a d => setOp a d (.load sid) kind (getStripe s sid).niche (kind == 4)) s1 :=
    by rw [List.foldl_map]
  obtain ⟨⟨c, m, he⟩, hops⟩ := setOps_start (op := .load sid) (by simp) kind (getStripe s sid).niche (kind == 4)
    ((chIn (getStripe s sid).chmask).map (dk · (getStripe s sid).rank)) s1
  rw [hfold, List.foldl_nil]
  refine ⟨?_, fun c hc => hops _ (.inl (List.mem_map_of_mem hc))⟩
  obtain ⟨p, hp⟩ := notePeak_only (((chIn (getStripe s sid).chmask).map (dk · (getStripe s sid).rank)).foldl
    (fun a d => setOp a d (.load sid) kind (getStripe s sid).niche (kind == 4)) s1)
  refine ⟨c, m, p, hp.trans ?_⟩
  rw [he, ← hs1]
  rfl

/-! ### A row of the Plinth opened (R226) -/

theorem releaseBlock_retired (r : Nat) (d : Die) : (releaseBlock r d).retired = d.retired := by
  unfold releaseBlock
  split <;> rfl

theorem getDie_mapRank {s : State} (h : twf {} s.dies = true) (k r d : Nat) :
    (getDie (mapRank s k (releaseBlock r)) d).retired = (getDie s d).retired := by
  have hm := tget_tmap h (fun key x => if key % 32 == k then releaseBlock r x else x) d (by split <;> rfl)
  have hg : getDie (mapRank s k (releaseBlock r)) d = if d % 32 == k then releaseBlock r (getDie s d) else getDie s d := hm
  rw [hg]
  split
  · exact releaseBlock_retired r _
  · rfl

/-- A row left for erasure has an empty mask. -/
theorem chmask_setRow_left (u : State) (k j : Nat) {v : Row} (hv : v.chmask = 0) (hs : v.st ≠ .erased) :
    (getRow (setRow u k v) j).chmask = (getRow u j).chmask ∨ (getRow (setRow u k v) j).chmask = 0 := by
  by_cases hjk : j = k
  · subst hjk
    refine .inr ?_
    rw [getRow_setRow_same _ _ _ fun e => hs (congrArg Row.st e), hv]
  · exact .inl (congrArg Row.chmask (getRow_setRow_ne _ hjk v))

/-- A row left for erasure leaves each die in or out of service, the mask of every row as it was or empty, and the Plinth's queue. -/
theorem unbindRow_keeps {s : State} (h : twf {} s.dies = true) (kr : Nat × Nat) :
    (∀ d, (getDie (unbindRow .pending s kr) d).retired = (getDie s d).retired) ∧
    (∀ j, (getRow (unbindRow .pending s kr) j).chmask = (getRow s j).chmask ∨ (getRow (unbindRow .pending s kr) j).chmask = 0) ∧
    (unbindRow .pending s kr).plinth.jobs = s.plinth.jobs := by
  unfold unbindRow
  dsimp only
  generalize hs : List.foldl discardStripe s _ = s1
  rw [foldl_discardStripe_eq] at hs
  generalize hst : (if (RowSt.pending == RowSt.pending && _) = true then RowSt.leaving else RowSt.pending) = st1
  have h1 : st1 ≠ .erased := by
    rw [← hst]
    split <;> simp
  generalize hv : ({ pendRow s1 with st := st1 } : Row) = v
  have hv0 : v.chmask = 0 := by rw [← hv]; rfl
  have hvs : v.st ≠ .erased := by rw [← hv]; exact h1
  rw [if_neg (by simpa using h1)]
  generalize ht : mapRank (setRow (journal s1) (rk kr.1 kr.2) v) kr.1 (releaseBlock kr.2) = s2
  have hd (d : Nat) : (getDie s2 d).retired = (getDie s d).retired := by
    rw [← ht, getDie_mapRank (by rw [← hs]; exact h), ← hs]
    rfl
  have hr (j : Nat) : (getRow s2 j).chmask = (getRow s j).chmask ∨ (getRow s2 j).chmask = 0 := by
    have hr0 : (getRow (journal s1) j).chmask = (getRow s j).chmask := by rw [← hs]; rfl
    rw [← ht, ← hr0]
    exact chmask_setRow_left _ _ _ hv0 hvs
  have hj : s2.plinth.jobs = s.plinth.jobs := by
    rw [← ht, ← hs]
    rfl
  rw [freeOwned_eq]
  split
  · next g hg =>
    refine ⟨hd, fun j => ?_, hj⟩
    rcases chmask_setRow_left { s2 with pool := (freeOwned s2 (copyOwner (rk kr.1 kr.2))).pool, comms := (freeOwned s2 (copyOwner (rk kr.1 kr.2))).comms, niches := (freeOwned s2 (copyOwner (rk kr.1 kr.2))).niches }
      (rk kr.1 g) j (v := pendRow s2) rfl (by simp [pendRow]) with e | e
    · exact (hr j).imp e.trans e.trans
    · exact .inr e
  · exact ⟨hd, hr, hj⟩

theorem plinthRecycle_keeps {s : State} (h : twf {} s.dies = true) (k : Nat) :
    MediaStep s (plinthRecycle s k) ∧ (∀ d, (getDie (plinthRecycle s k) d).retired = (getDie s d).retired) ∧
    (∀ j, (getRow (plinthRecycle s k) j).chmask = (getRow s j).chmask ∨ (getRow (plinthRecycle s k) j).chmask = 0) ∧
    (plinthRecycle s k).plinth.jobs = s.plinth.jobs := by
  unfold plinthRecycle
  dsimp only
  have hrefl : MediaStep s s := ⟨_, _, _, _, _, _, _, rfl⟩
  split
  · exact ⟨hrefl, fun _ => rfl, fun _ => .inl rfl, rfl⟩
  · split
    · exact ⟨mediaStep_unbindRow _ _ _, unbindRow_keeps h _⟩
    · exact ⟨hrefl, fun _ => rfl, fun _ => .inl rfl, rfl⟩

/-- The row the next stripe of the Plinth goes to is opened on dies in service. -/
theorem plinthOpen_keeps {s : State} (h : twf {} s.dies = true) (k r : Nat)
    (hm : ∀ c, bitOf (getRow s (rk k r)).chmask c = true → (getDie s (dk c k)).retired = false) :
    MediaStep s (plinthOpen s k r) ∧ (plinthOpen s k r).plinth.jobs = s.plinth.jobs ∧
    ∀ c, bitOf (getRow (plinthOpen s k r) (rk k r)).chmask c = true → (getDie (plinthOpen s k r) (dk c k)).retired = false := by
  unfold plinthOpen
  split
  · exact ⟨⟨_, _, _, _, _, _, _, rfl⟩, rfl, hm⟩
  · dsimp only
    generalize hv : ({ st := .bound, slot := 0x3FF, chmask := maskOf (healthy s k), p := 2, d := nk s k - 2, seq := s.sched.seqNo } : Row) = v
    have hvs : v.chmask = maskOf (healthy s k) := by rw [← hv]
    have hne : v ≠ {} := fun e => by
      have hst : v.st = .bound := by rw [← hv]
      rw [e] at hst
      cases hst
    generalize hu : ({ setRow s (rk k r) v with plinth := _ } : State) = u
    have hur : (getRow u (rk k r)).chmask = maskOf (healthy s k) := by
      have hg := getRow_setRow_same s (rk k r) v hne
      rw [← hu, ← hvs]
      exact congrArg Row.chmask hg
    have hud (d : Nat) : getDie u d = getDie s d := by rw [← hu]; rfl
    have hs : MediaStep s u := by rw [← hu]; exact ⟨_, _, _, _, _, _, _, rfl⟩
    obtain ⟨hms, hdies, hrows, hjobs⟩ := plinthRecycle_keeps (s := u) (by rw [← hu]; exact h) k
    refine ⟨hs.trans hms, by rw [hjobs, ← hu]; rfl, fun c hc => ?_⟩
    rw [hdies, hud]
    rcases hrows (rk k r) with e | e
    · rw [e, hur, bitOf_maskOf] at hc
      have hmem : c ∈ healthy s k := by simpa using hc
      unfold healthy at hmem
      simpa using (List.mem_filter.mp hmem).2 |> fun h => (Bool.and_eq_true_iff.mp h).2
    · rw [e] at hc
      simp [bitOf] at hc

/-- The job at the front of the Plinth's queue becomes a stripe of the next place of its row, and its dies begin to load it. -/
theorem startPlinth_starts {s : State} {k r tt : Nat} (j : PlJob) (hn : plinthNext s k = some (r, tt)) (h : twf {} s.dies = true)
    (hm : ∀ c, bitOf (getRow s (rk k r)).chmask c = true → (getDie s (dk c k)).retired = false) :
    (let x := getStripe (startPlinth s k j) s.sched.nextStripe
     x.pl = some j ∧ x.phase = .granted ∧ x.rank = k ∧ x.row = r ∧ x.t = tt ∧
      ∀ c ∈ chIn x.chmask, (getDie (startPlinth s k j) (dk c k)).op = .load s.sched.nextStripe) ∧
    (startPlinth s k j).plinth.jobs = s.plinth.jobs.erase j ∧ (startPlinth s k j).cmds = s.cmds ∧
    (startPlinth s k j).zones = s.zones ∧ (startPlinth s k j).sectors = s.sectors := by
  unfold startPlinth
  rw [hn]
  dsimp only
  generalize hu : ({ s with plinth := { s.plinth with jobs := s.plinth.jobs.erase j } } : State) = u
  obtain ⟨⟨_, _, _, _, _, _, _, hms⟩, hjobs, hdies⟩ := plinthOpen_keeps (s := u) (by rw [← hu]; exact h) k r (by rw [← hu]; exact hm)
  generalize hs1 : plinthOpen u k r = s1 at hms hjobs hdies ⊢
  have hsid : s1.sched.nextStripe = s.sched.nextStripe := by rw [hms, ← hu]
  rw [hsid]
  generalize hx : plinthStripeOf s1 k r tt j = x
  obtain ⟨hxpl, hxrank, hxrow, hxt, hxi⟩ : x.pl = some j ∧ x.rank = k ∧ x.row = r ∧ x.t = tt ∧ x.issued = 0 := by
    rw [← hx]
    exact ⟨rfl, rfl, rfl, rfl, rfl⟩
  have hmask : ∀ c ∈ chIn x.chmask, bitOf (getRow s1 (rk k r)).chmask c = true := by
    intro c hc
    rw [← hx] at hc
    unfold plinthStripeOf chIn ranksIn at hc
    dsimp only at hc
    rw [List.mem_filter, bitOf_maskOf] at hc
    have hc2 := hc.2
    split at hc2 <;> simp only [List.contains_iff_mem, List.mem_filter] at hc2
    · exact hc2.1.1.2
    · exact hc2.1.2
  generalize hs2 : plTake (setStripe { s1 with sched := { s1.sched with nextStripe := s.sched.nextStripe + 1 } } s.sched.nextStripe x) s.sched.nextStripe j = s2
  have h2 : s2.dies = s1.dies ∧ s2.rows = s1.rows ∧ s2.cmds = s1.cmds ∧ s2.zones = s1.zones ∧ s2.sectors = s1.sectors ∧
      s2.plinth.jobs = s1.plinth.jobs ∧ s2.stripes = tset {} s1.stripes s.sched.nextStripe x := by
    rw [← hs2]
    cases j <;> exact ⟨rfl, rfl, rfl, rfl, rfl, rfl, rfl⟩
  obtain ⟨h2d, h2r, h2c, h2z, h2s, h2j, h2x⟩ := h2
  have hg : getStripe s2 s.sched.nextStripe = x := by
    unfold getStripe
    rw [h2x]
    refine tget_tset_same _ _ _ _ fun e => ?_
    have := congrArg Stripe.pl e
    rw [hxpl] at this
    cases this
  have hgd (d : Nat) : getDie s2 d = getDie s1 d := by
    unfold getDie
    rw [h2d]
  obtain ⟨⟨c, m, p, he⟩, hops⟩ := loadStripe_starts s2 s.sched.nextStripe 4 (by
    rw [hg, hxrank]
    refine fun c hc => ⟨?_, ?_⟩
    · rw [hgd]
      exact hdies c (hmask c hc)
    · rw [hxi]
      simp [bitOf])
  rw [hg, hxrank] at hops
  generalize hw : ({ getStripe s2 s.sched.nextStripe with phase := .granted, seq := s2.sched.seqNo + 1, ord := s2.sched.grantNo + 1 } : Stripe) = w at he
  have hwf : w.pl = some j ∧ w.phase = .granted ∧ w.rank = k ∧ w.row = r ∧ w.t = tt ∧ w.chmask = x.chmask := by
    rw [← hw, hg]
    exact ⟨hxpl, rfl, hxrank, hxrow, hxt, rfl⟩
  obtain ⟨hwpl, hwph, hwrank, hwrow, hwt, hwm⟩ := hwf
  generalize hL : loadStripe s2 s.sched.nextStripe 4 = t at he hops ⊢
  have hgt : getStripe t s.sched.nextStripe = w := by
    rw [he]
    refine tget_tset_same _ _ _ _ fun e => ?_
    have := congrArg Stripe.pl e
    rw [hwpl] at this
    cases this
  rw [hgt]
  refine ⟨⟨hwpl, hwph, hwrank, hwrow, hwt, by rw [hwm]; exact hops⟩, ?_, ?_, ?_, ?_⟩
  · rw [he, show s.plinth.jobs.erase j = u.plinth.jobs by rw [← hu], ← hjobs, ← h2j]
  · rw [he, show s.cmds = u.cmds by rw [← hu], show u.cmds = s1.cmds by rw [hms], ← h2c]
  · rw [he, show s.zones = u.zones by rw [← hu], show u.zones = s1.zones by rw [hms], ← h2z]
  · rw [he, show s.sectors = u.sectors by rw [← hu], show u.sectors = s1.sectors by rw [hms], ← h2s]

end Sys2Proof.Machine
end
section
/-! SUPPORT. Erases, Recast copies and spare blocks started on the dies of a rank (R217, R227, R230, R273). -/

namespace Sys2Proof.Machine

theorem startErase_starts (s : State) (k r : Nat) :
    (getRow (startErase s k r) (rk k r)).st = .erasing ∧ (∀ c ∈ healthy s k, (getDie (startErase s k r) (dk c k)).op = .erase r) ∧
    (startErase s k r).cmds = s.cmds ∧ (startErase s k r).zones = s.zones ∧ (startErase s k r).stripes = s.stripes := by
  unfold startErase
  dsimp only
  have hrow := getRow_setRow_same s (rk k r) ({ getRow s (rk k r) with st := .erasing } : Row) fun e => by
    have := congrArg Row.st e
    cases this
  generalize hv : ({ getRow s (rk k r) with st := .erasing } : Row) = v at hrow
  have hst : v.st = .erasing := by rw [← hv]
  have hdies : rankDies (setRow s (rk k r) v) k = rankDies s k := rfl
  rw [hdies]
  obtain ⟨⟨c, m, he⟩, hops⟩ := setOps_start (op := .erase r) (by simp) 5 (rowOwner s k r) true (rankDies s k) (setRow s (rk k r) v)
  refine ⟨?_, fun c hc => hops _ (.inl (List.mem_map_of_mem hc)), ?_, ?_, ?_⟩
  · show (getRow (List.foldl _ _ _) (rk k r)).st = _
    rw [he]
    exact (congrArg Row.st hrow).trans hst
  · show (List.foldl _ _ _ : State).cmds = _
    rw [he]
    rfl
  · show (List.foldl _ _ _ : State).zones = _
    rw [he]
    rfl
  · show (List.foldl _ _ _ : State).stripes = _
    rw [he]
    rfl

/-- The dies a copy is programmed on are those of the row's destination, whatever the copy's phase. -/
theorem copyDies_setRow (s : State) (k r : Nat) (v : Row) (hne : v ≠ {}) (hd : v.dest = (getRow s (rk k r)).dest)
    (hc : v.copyCh = (getRow s (rk k r)).copyCh) (hcols : v.cols = (getRow s (rk k r)).cols) (hm : v.chmask = (getRow s (rk k r)).chmask) :
    copyDies (setRow s (rk k r) v) k r = copyDies s k r := by
  have hg : getRow (setRow s (rk k r) v) (rk k r) = v := getRow_setRow_same _ _ _ hne
  have hw : (getRow (setRow s (rk k r) v) (rk k ((getRow s (rk k r)).dest.getD 0))).chmask = (getRow s (rk k ((getRow s (rk k r)).dest.getD 0))).chmask := by
    by_cases h : rk k ((getRow s (rk k r)).dest.getD 0) = rk k r
    · rw [h, hg, hm]
    · rw [getRow_setRow_ne _ h]
  have hdies : rankDies (setRow s (rk k r) v) k = rankDies s k := rfl
  unfold copyDies
  dsimp only
  rw [hg, hd, hc, hcols, hw, hdies]

theorem beginProgram_starts (s : State) (k r : Nat) :
    (getRow (beginProgram s k r) (rk k r)).copyPh = 4 ∧ (∀ d ∈ copyDies s k r, (getDie (beginProgram s k r) d).op = .copyLoad r) ∧
    (beginProgram s k r).stripes = s.stripes ∧ (beginProgram s k r).zones = s.zones ∧ (beginProgram s k r).sectors = s.sectors := by
  unfold beginProgram
  dsimp only
  have hne : ∀ n, ({ getRow s (rk k r) with copyPh := 4, copyOrd := n } : Row) ≠ {} := fun n e => by
    have := congrArg Row.copyPh e
    cases this
  have hdies : ∀ n, copyDies (setRow (nextGrant s) (rk k r) { getRow (nextGrant s) (rk k r) with copyPh := 4, copyOrd := n }) k r = copyDies s k r :=
    fun n => copyDies_setRow (nextGrant s) k r { getRow (nextGrant s) (rk k r) with copyPh := 4, copyOrd := n } (hne n) rfl rfl rfl rfl
  rw [hdies]
  have hrow := getRow_setRow_same (nextGrant s) (rk k r) _ (hne (nextGrant s).sched.grantNo)
  generalize hv : ({ getRow s (rk k r) with copyPh := 4, copyOrd := (nextGrant s).sched.grantNo } : Row) = v at hrow
  have hph : v.copyPh = 4 := by rw [← hv]
  have hv' : ({ getRow (nextGrant s) (rk k r) with copyPh := 4, copyOrd := (nextGrant s).sched.grantNo } : Row) = v := hv
  rw [hv']
  obtain ⟨⟨c, m, he⟩, hops⟩ := setOps_start (op := .copyLoad r) (by simp) 3 (rowOwner s k r) true (copyDies s k r) (setRow (nextGrant s) (rk k r) v)
  refine ⟨?_, fun d hd => hops d (.inl hd), ?_, ?_, ?_⟩
  · rw [he]
    exact (congrArg Row.copyPh hrow).trans hph
  · rw [he]
    rfl
  · rw [he]
    rfl
  · rw [he]
    rfl

theorem startSpares_starts (s : State) (k : Nat) (resv : Bool) :
    (∀ d ∈ spareDies s k, (getDie (startWork s k .spares resv) d).op = .spare) ∧ (startWork s k .spares resv).rows = s.rows ∧
    (startWork s k .spares resv).stripes = s.stripes ∧ (startWork s k .spares resv).zones = s.zones := by
  obtain ⟨⟨c, m, he⟩, hops⟩ := setOps_start (op := .spare) (by simp) 5 0 true (spareDies s k) s
  refine ⟨fun d hd => hops d (.inl hd), ?_, ?_, ?_⟩
  · show (List.foldl _ _ _ : State).rows = _
    rw [he]
  · show (List.foldl _ _ _ : State).stripes = _
    rw [he]
  · show (List.foldl _ _ _ : State).zones = _
    rw [he]

/-! ### The reads of a Recast copy -/

/-- A copy that finds its buffers takes them from the pool and leaves all else. -/
theorem recastTake_pool (s : State) (k r : Nat) (h : (recastTake s k r).2 = true) :
    ∃ p, (recastTake s k r).1 = { s with pool := p } := by
  unfold recastTake at h ⊢
  dsimp only at h ⊢
  generalize rowOwner s k r = n at h ⊢
  generalize copyOwner (rk k r) = o at h ⊢
  generalize List.range _ = l at h ⊢
  suffices ∀ (l : List Nat) (a : State × Bool), ((∃ p, a.1 = { s with pool := p }) ∨ a.2 = false) →
      (l.foldl (fun (a : State × Bool) _ => if !a.2 then a else
        let q := allocate a.1 n 3 o false none
        if q.2.isSome then (q.1, true) else (parkOn q.1 n o false, false)) a).2 = true →
      ∃ p, (l.foldl (fun (a : State × Bool) _ => if !a.2 then a else
        let q := allocate a.1 n 3 o false none
        if q.2.isSome then (q.1, true) else (parkOn q.1 n o false, false)) a).1 = { s with pool := p } from
    this l (s, true) (.inl ⟨_, rfl⟩) h
  intro l
  induction l with
  | nil => exact fun a ha hb => ha.resolve_right (by simpa using hb)
  | cons x t ih =>
    intro a ha hb
    rw [List.foldl_cons] at hb ⊢
    refine ih _ ?_ hb
    by_cases h2 : a.2 = true
    · rw [if_neg (by simp [h2])]
      dsimp only
      split
      · obtain ⟨p, hp⟩ := ha.resolve_right (by simp [h2])
        have hq := allocate_pool a.1 n 3 o false
        exact .inl ⟨_, hq.trans (by rw [hp])⟩
      · exact .inr rfl
    · rw [if_pos (by simpa using h2)]
      exact ha

/-- The row as its destination stands. -/
theorem takeDest_row {s : State} {k r f : Nat} (hd : (getRow s (rk k r)).dest = some f ∨ (getRow s (rk k r)).dest = none) :
    (∃ l, takeDest s k r f = { s with rows := l }) ∧ getRow (takeDest s k r f) (rk k r) = { getRow s (rk k r) with dest := some f } := by
  unfold takeDest
  dsimp only
  rcases hd with hd | hd
  · rw [if_pos (by rw [hd]; rfl)]
    refine ⟨⟨_, rfl⟩, ?_⟩
    rw [← hd]
  · rw [if_neg (by simp [hd])]
    refine ⟨⟨_, rfl⟩, getRow_setRow_same _ _ _ fun e => ?_⟩
    have := congrArg Row.dest e
    cases this

/-- The row whose next stripe is read for its copy. -/
def copyingRow (v : Row) (f t : Nat) (c : Option Nat) (ord : Nat) : Row :=
  { v with dest := some f, copyPh := 1, copyT := t, copyCh := c, copyOrd := ord, copyBad := [], reads := v.reads + 64 * v.d }

theorem beginCopy_starts {s : State} {k r f : Nat} {tc : Nat × Option Nat} (hn : (getRow s (rk k r)).d ≤ nk s k)
    (hd : (getRow s (rk k r)).dest = some f ∨ ((getRow s (rk k r)).dest = none ∧ recastDest s k r = some f))
    (hc : nextCopy s k r = some tc) (hb : (recastTake s k r).2 = true) :
    (∃ o, getRow (beginCopy s k r) (rk k r) = copyingRow (getRow s (rk k r)) f tc.1 tc.2 o) ∧
    (∀ c ∈ healthy s k, (getDie (beginCopy s k r) (dk c k)).op = .copyRead r) ∧
    (beginCopy s k r).pool = (recastTake s k r).1.pool ∧ (beginCopy s k r).stripes = s.stripes ∧
    (beginCopy s k r).zones = s.zones ∧ (beginCopy s k r).sectors = s.sectors := by
  have hdest : (getRow s (rk k r)).dest.orElse (fun _ => recastDest s k r) = some f := by
    rcases hd with hd | ⟨hd, hf⟩
    · rw [hd]
      rfl
    · rw [hd]
      exact hf
  obtain ⟨t, c⟩ := tc
  unfold beginCopy
  dsimp only
  rw [if_neg (by omega), hdest, hc]
  dsimp only
  rw [hb, if_neg (by simp)]
  obtain ⟨p, hp⟩ := recastTake_pool s k r hb
  generalize (recastTake s k r).1 = u at hp ⊢
  have hru : getRow u (rk k r) = getRow s (rk k r) := by rw [hp]; rfl
  obtain ⟨⟨l, hl⟩, hrow⟩ := takeDest_row (s := u) (k := k) (r := r) (f := f) (by rw [hru]; exact hd.imp id And.left)
  generalize takeDest u k r f = w at hl hrow ⊢
  have hrw : getRow (nextGrant w) (rk k r) = { getRow s (rk k r) with dest := some f } := by rw [← hru]; exact hrow
  rw [hrw]
  change _ ∧ (∀ c ∈ healthy s k, _) ∧ _
  generalize hv : ({ ({ getRow s (rk k r) with dest := some f } : Row) with
    copyPh := 1, copyT := t, copyCh := c, copyOrd := (nextGrant w).sched.grantNo, copyBad := [], reads := (getRow s (rk k r)).reads + 64 * (getRow s (rk k r)).d } : Row) = v
  have hvc : v = copyingRow (getRow s (rk k r)) f t c (nextGrant w).sched.grantNo := by rw [← hv]; rfl
  have hset := getRow_setRow_same (nextGrant w) (rk k r) v fun e => by
    have := congrArg Row.copyPh e
    rw [hvc] at this
    cases this
  have hdies : rankDies (setRow (nextGrant w) (rk k r) v) k = rankDies s k := by rw [hl, hp]; rfl
  rw [hdies]
  obtain ⟨⟨ch, m, he⟩, hops⟩ := setOps_start (op := .copyRead r) (by simp) 7 (rowOwner s k r) true (rankDies s k) (setRow (nextGrant w) (rk k r) v)
  generalize (rankDies s k).foldl (fun a d => setOp a d (.copyRead r) 7 (rowOwner s k r) true) (setRow (nextGrant w) (rk k r) v) = x at he hops ⊢
  refine ⟨⟨(nextGrant w).sched.grantNo, ?_⟩, fun c hc => hops _ (.inl (List.mem_map_of_mem hc)), ?_, ?_, ?_, ?_⟩
  · show getRow x (rk k r) = _
    rw [he, ← hvc]
    exact hset
  · show x.pool = _
    rw [he]
    show w.pool = _
    rw [hl]
  · show x.stripes = _
    rw [he]
    show w.stripes = _
    rw [hl, hp]
  · show x.zones = _
    rw [he]
    show w.zones = _
    rw [hl, hp]
  · show x.sectors = _
    rw [he]
    show w.sectors = _
    rw [hl, hp]

end Sys2Proof.Machine
end
section
/-! PROOFS. The earliest deadline is granted and the chosen work of a rank starts (R217, R220, R222, R223, R226, R227, R230, R273). -/

namespace Sys2Proof.Machine

/-- Dies free to load a stripe hold no erase to suspend. -/
theorem suspendErases_ready {s : State} {sid : Nat} (h : loadReady s sid = true) : suspendErases s (loadDies s sid) = s := by
  unfold loadReady at h
  rw [List.all_eq_true] at h
  unfold suspendErases
  generalize loadDies s sid = l at h ⊢
  induction l with
  | nil => rfl
  | cons d t ih =>
    have hop : (getDie s d).op = .idle := by
      have := h d (by simp)
      simp only [Bool.and_eq_true, beq_iff_eq] at this
      exact this.1.1.1
    have hd : suspendErase s d = s := by
      unfold suspendErase
      dsimp only
      rw [if_neg (by simp [isErasing, isEraseOp, hop])]
    rw [List.foldl_cons, hd]
    exact ih fun x hx => h x (List.mem_cons_of_mem _ hx)

theorem grant_loads {s : State} {rank sid : Nat} (hh : startsHeld s = false) (he : earliest s rank = some sid)
    (hl : loadHeld s sid = false) (hr : loadReady s sid = true) (ho : outranked s rank sid = false)
    (hi : iccUsed s + nk s rank * s.arm.cfg.geom.iProg ≤ s.arm.cfg.dev.icc) :
    exec (.stripeGrant rank) s = .next (loadStripe s sid 1) := by
  show execStripeGrant rank s = _
  unfold execStripeGrant
  rw [hh, if_neg Bool.false_ne_true, he]
  dsimp only
  rw [hl, if_neg Bool.false_ne_true, suspendErases_ready hr, hr, ho, if_neg (by simp), if_pos hi]
  rfl

/-- The chosen work starts, and the background's turn is counted on its dies. -/
theorem select_starts {s : State} {rank n : Nat} {w : Work} (hh : startsHeld s = false) (hw : chooseWork s rank = some (w, n)) :
    ∃ m, exec (.dieOperationSelect rank) s = .next { startWork s rank w (n == 3 || n == 6) with dies := m } ∧
      ∀ d op, op ≠ .idle → (getDie (startWork s rank w (n == 3 || n == 6)) d).op = op →
        (getDie { startWork s rank w (n == 3 || n == 6) with dies := m } d).op = op := by
  obtain ⟨⟨m, hm⟩, hops⟩ := countTurn_keeps (workDies s rank w) n (startWork s rank w (n == 3 || n == 6))
  rw [hm] at hops
  refine ⟨m, ?_, hops⟩
  show execDieOperationSelect rank s = _
  unfold execDieOperationSelect selectWork
  rw [hh, if_neg Bool.false_ne_true, hw]
  exact congrArg ok hm

theorem select_held {s : State} (rank : Nat) (h : startsHeld s = true) :
    exec (.dieOperationSelect rank) s = .next s ∧ exec (.stripeGrant rank) s = .next s := by
  constructor
  · show execDieOperationSelect rank s = _
    unfold execDieOperationSelect
    rw [h]
    rfl
  · show execStripeGrant rank s = _
    unfold execStripeGrant
    rw [h]
    rfl

theorem granted_stripe {s : State} {sid : Nat} (a b : Nat) :
    tget {} (tset {} s.stripes sid { getStripe s sid with phase := .granted, seq := a, ord := b }) sid =
      { getStripe s sid with phase := .granted, seq := a, ord := b } :=
  tget_tset_same _ _ _ _ fun e => by
    have := congrArg Stripe.phase e
    cases this

/-- Settles O16, by what the start of each kind of work changes. -/
theorem stripesAndWorkGranted : Obligations.StripesAndWorkGranted := by
  refine ⟨?_, ?_, fun s rank h => select_held rank h⟩
  · intro s rank sid x _ hh he hrank hl hr ho hdies hi
    have hrank' : (getStripe s sid).rank = rank := hrank
    obtain ⟨⟨c, m, p, hs⟩, hops⟩ := loadStripe_starts s sid 1 (by rw [hrank']; exact hdies)
    rw [hrank'] at hops
    have hx := granted_stripe (s := s) (sid := sid) (s.sched.seqNo + 1) (s.sched.grantNo + 1)
    refine ⟨_, grant_loads hh he hl hr ho hi, ?_, ?_, hops, ?_, ?_, ?_, ?_⟩
    · rw [hs]
      exact congrArg Stripe.phase hx
    · rw [hs]
      exact congrArg Stripe.seq hx
    all_goals rw [hs]
  · intro s rank w n _ hh hw
    obtain ⟨m, hex, hops⟩ := select_starts hh hw
    refine ⟨?_, ?_, ?_, ?_, ?_, ?_, ?_⟩
    · intro row e
      subst e
      obtain ⟨hst, hdies, hc, hz, hx⟩ := startErase_starts s rank row
      exact ⟨_, hex, hst, fun c hc => hops _ _ (by simp) (hdies c hc), hc, hz, hx⟩
    · intro sid e hrank hdies
      subst e
      obtain ⟨⟨c, d, p, hs⟩, hl⟩ := loadStripe_starts s sid 2 (by rw [hrank]; exact hdies)
      rw [hrank] at hl
      have hx := granted_stripe (s := s) (sid := sid) (s.sched.seqNo + 1) (s.sched.grantNo + 1)
      refine ⟨_, hex, ?_, fun c hc => hops _ _ (by simp) (hl c hc), ?_, ?_, ?_⟩
      · show (getStripe (loadStripe s sid 2) sid).phase = _
        rw [hs]
        exact congrArg Stripe.phase hx
      · show (loadStripe s sid 2).cmds = _
        rw [hs]
      · show (loadStripe s sid 2).zones = _
        rw [hs]
      · show (loadStripe s sid 2).rows = _
        rw [hs]
    · intro i e
      subst e
      obtain ⟨hop, hst, hx, -, hz⟩ := startRead1_starts s i (if (getRd s i).cls == 0 then 6 else if (getRd s i).cls == 4 then 7 else 8) (n == 3 || n == 6)
      exact ⟨_, hex, hops _ _ (by simp) hop, hst, hx, hz⟩
    · intro j r tt e hn hwf hm
      subst e
      obtain ⟨hstripe, hj, hc, hz, hs⟩ := startPlinth_starts j hn hwf hm
      obtain ⟨h1, h2, h3, h4, h5, hl⟩ := hstripe
      exact ⟨_, hex, ⟨h1, h2, h3, h4, h5, fun c hc => hops _ _ (by simp) (hl c hc)⟩, hj, hc, hz, hs⟩
    · intro row f tc e v hn hd _ hc hb
      subst e
      obtain ⟨⟨o, hrow⟩, hl, hp, hx, hz, hs⟩ := beginCopy_starts hn hd hc hb
      have hg (q : List (Nat × Die)) : getRow { startWork s rank (.recast row) (n == 3 || n == 6) with dies := q } (rk rank row) = copyingRow (getRow s (rk rank row)) f tc.1 tc.2 o := hrow
      exact ⟨_, hex, by rw [hg]; rfl, by rw [hg]; rfl, by rw [hg]; rfl, by rw [hg]; rfl, by rw [hg]; rfl,
        fun c hc => hops _ _ (by simp) (hl c hc), hp, hx, hz, hs⟩
    · intro row e
      subst e
      obtain ⟨hph, hl, hx, hz, hs⟩ := beginProgram_starts s rank row
      exact ⟨_, hex, hph, fun d hd => hops _ _ (by simp) (hl d hd), hx, hz, hs⟩
    · intro e
      subst e
      obtain ⟨hl, hr, hx, hz⟩ := startSpares_starts s rank (n == 3 || n == 6)
      exact ⟨_, hex, fun d hd => hops _ _ (by simp) (hl d hd), hr, hx, hz⟩

end Sys2Proof.Machine
end
section
/-! PROOFS. Checkpoints, journal pages, the Patina image and the mirror reach the Plinth (R20, R39, R177, R226, R348, R349, R447). -/

namespace Sys2Proof.Machine

theorem addJob_adds (s : State) (j : PlJob) : ∃ l, addJob s j = { s with plinth := { s.plinth with jobs := l } } ∧ j ∈ l := by
  unfold addJob
  split
  · next h => exact ⟨s.plinth.jobs, rfl, by simpa using h⟩
  · exact ⟨_, rfl, by simp⟩

/-- A job no Plinth rank starts next waits in the queue. -/
theorem askJob_waits {s : State} {j : PlJob} (h : startsHeld (addJob s j) = true ∨
    ((chooseWork (addJob s j) (plinthRanks s).1).map (·.1) ≠ some (.plinth j) ∧
      (chooseWork (addJob s j) (plinthRanks s).2).map (·.1) ≠ some (.plinth j))) : askJob s j = addJob s j := by
  unfold askJob
  dsimp only
  rcases h with h | ⟨h1, h2⟩
  · rw [h]
    split <;> rfl
  · rw [List.find?_cons_of_neg (by simpa using h1), List.find?_cons_of_neg (by simpa using h2)]
    rfl

/-- A job that is the next operation of the first Plinth rank starts. -/
theorem askJob_starts {s : State} {j : PlJob} (h : startsHeld (addJob s j) = false)
    (hc : (chooseWork (addJob s j) (plinthRanks s).1).map (·.1) = some (.plinth j)) :
    ∃ m, askJob s j = { startPlinth (addJob s j) (plinthRanks s).1 j with dies := m } ∧
      ∀ d op, op ≠ .idle → (getDie (startPlinth (addJob s j) (plinthRanks s).1 j) d).op = op →
        (getDie { startPlinth (addJob s j) (plinthRanks s).1 j with dies := m } d).op = op := by
  obtain ⟨⟨w, n⟩, hw, he⟩ := Option.map_eq_some_iff.mp hc
  have hwj : w = .plinth j := he
  subst hwj
  obtain ⟨⟨m, hm⟩, hops⟩ := countTurn_keeps (workDies (addJob s j) (plinthRanks s).1 (.plinth j)) n
    (startWork (addJob s j) (plinthRanks s).1 (.plinth j) (n == 3 || n == 6))
  rw [hm] at hops
  refine ⟨m, ?_, hops⟩
  unfold askJob
  dsimp only
  rw [List.find?_cons_of_pos (by simpa using hc)]
  dsimp only
  rw [h, if_neg Bool.false_ne_true]
  unfold selectWork
  rw [hw]
  exact hm

/-- The commands that ask for a program of the Plinth. -/
theorem asks_job {s : State} {i : Instr} {j : PlJob}
    (h : (∃ n, i = .checkpoint n ∧ j = .checkpoint n ∧ nicheValid s n = true) ∨
      (i = .journalPageProgram ∧ j = .page ∧ s.plinth.jrnl ≠ 0 ∧ pageOn s = false) ∨ (i = .patinaPersist ∧ j = .patina) ∨
      (i = .armatureMirrorWrite ∧ j = .mirror ∧ s.glb.released = true ∧ s.boot.maquette = false ∧ s.arm.mirror ≠ some s.arm.seq)) :
    exec i s = .next (askJob s j) := by
  rcases h with ⟨n, hi, hj, hv⟩ | ⟨hi, hj, hr, hp⟩ | ⟨hi, hj⟩ | ⟨hi, hj, hr, hm, hq⟩
  · subst hi hj
    show execCheckpoint n s = _
    unfold execCheckpoint
    rw [hv]
    rfl
  · subst hi hj
    show execJournalPageProgram s = _
    unfold execJournalPageProgram
    rw [if_neg (by simp [hr, hp])]
    rfl
  · subst hi hj
    rfl
  · subst hi hj
    show execArmatureMirrorWrite s = _
    unfold execArmatureMirrorWrite
    rw [if_neg (by simp [hr, hm, hq])]
    rfl

/-! ### The end of a program of the Plinth -/

theorem reroute_none {s : State} {p : Rd → Bool} (h : ∀ kv ∈ s.reads, p kv.2 = false) : reroute s p = s := by
  have hk : tkeys s.reads (fun _ r => p r && (r.st == .wait || r.st == .array || r.st == .xfer)) = [] := by
    unfold tkeys
    rw [List.filter_eq_nil_iff.mpr fun kv hkv => by simp [h kv hkv]]
    rfl
  unfold reroute
  rw [hk]
  rfl

/-- The state in which the last die of a stripe has ended its program. -/
def programEnded (s : State) (chans : List (Nat × Chan)) (d sid c : Nat) : State :=
  { s with
    chans := chans
    dies := tset {} s.dies d (idledDie (getDie s d))
    stripes := tset {} (tset {} s.stripes sid { getStripe s sid with ended := setBit (getStripe s sid).ended c }) sid
      { getStripe s sid with ended := setBit (getStripe s sid).ended c, phase := .done } }

theorem getStripe_programEnded (s : State) (chans : List (Nat × Chan)) (d sid c : Nat) :
    getStripe (programEnded s chans d sid c) sid = { getStripe s sid with ended := setBit (getStripe s sid).ended c, phase := .done } :=
  tget_tset_same _ _ _ _ fun e => by
    have := congrArg Stripe.phase e
    cases this

theorem plDone_keeps (s : State) (sid : Nat) (j : PlJob) :
    (plDone s sid j).stripes = s.stripes ∧ (plDone s sid j).reads = s.reads ∧ (plDone s sid j).cmds = s.cmds ∧
    (plDone s sid j).sectors = s.sectors := by
  unfold plDone
  cases j <;> exact ⟨rfl, rfl, rfl, rfl⟩

theorem poll_endsPlinth {s : State} {c k sid : Nat} {j : PlJob} (h1 : (getChan s c).retrain = false) (h2 : iccqFor s c = true)
    (hop : (getDie s (dk c k)).op = .program sid) (hw : (getDie s (dk c k)).suspWait = false)
    (hs : s.stripes.any (fun kv => kv.1 == sid) = true) (hj : (getStripe s sid).pl = some j)
    (he : setBit (getStripe s sid).ended c = (getStripe s sid).chmask) (hr : ∀ kv ∈ s.reads, kv.2.sid ≠ sid) (hf : NoFlushWaits s) :
    ∃ l, exec (.statusPoll c k .ready) s = .next (plDone (programEnded s l (dk c k) sid c) sid j) := by
  obtain ⟨l, hl⟩ := driveDie_only s (dk c k) 32
  refine ⟨l, ?_⟩
  have hx : exec (.statusPoll c k .ready) s = .next (endOp (driveDie s (dk c k) 32) c k true) := by
    show execStatusPoll c k .ready s = _
    unfold execStatusPoll
    dsimp only
    rw [if_neg (by simp [h1, h2]), hw]
    rfl
  have hend : endOp (driveDie s (dk c k) 32) c k true = endProgram (idleDie { s with chans := l } (dk c k)) sid c true := by
    have hop' : (getDie ({ s with chans := l } : State) (dk c k)).op = .program sid := hop
    rw [hl]
    unfold endOp
    dsimp only
    rw [hop']
  have hs' : (idleDie { s with chans := l } (dk c k)).stripes.any (fun kv => kv.1 == sid) = true := hs
  have hg : getStripe (idleDie { s with chans := l } (dk c k)) sid = getStripe s sid := rfl
  rw [hx, hend]
  refine congrArg _ ?_
  unfold endProgram
  dsimp only
  rw [hs', if_neg (by simp), hg]
  generalize hv : ({ getStripe s sid with ended := setBit (getStripe s sid).ended c } : Stripe) = v
  rw [hj]
  change endStripe (setStripe (idleDie { s with chans := l } (dk c k)) sid v) sid = _
  have hvp : v.pl = some j := by rw [← hv]; exact hj
  have hve : v.ended = v.chmask := by rw [← hv]; exact he
  have hgv : getStripe (setStripe (idleDie { s with chans := l } (dk c k)) sid v) sid = v := getStripe_setStripe_same _ _ _ fun e => by
    rw [e] at hvp
    cases hvp
  unfold endStripe
  dsimp only
  rw [hgv]
  generalize hy : ({ v with phase := .done } : Stripe) = y
  rw [hve, if_neg (by simp), hvp]
  change settle (reroute (plDone (setStripe (setStripe (idleDie { s with chans := l } (dk c k)) sid v) sid y) sid j) _) = _
  have hu : setStripe (setStripe (idleDie { s with chans := l } (dk c k)) sid v) sid y = programEnded s l (dk c k) sid c := by
    rw [← hy, ← hv]
    rfl
  rw [hu]
  obtain ⟨-, hpr, hpc, -⟩ := plDone_keeps (programEnded s l (dk c k) sid c) sid j
  rw [reroute_none fun kv hkv => by
    rw [hpr] at hkv
    simpa using hr kv hkv]
  exact settle_none _ (by rw [hpc]; exact hf)

/-- Settles O21: a record is a program of the Plinth, and stands there when its last die has ended. -/
theorem recordsReachThePlinth : Obligations.RecordsReachThePlinth := by
  refine ⟨?_, ?_, ?_⟩
  · intro s slot z
    constructor <;> intro h
    all_goals
      show execFrameIndexPersist slot z s = _
      unfold execFrameIndexPersist
      rw [h]
      rfl
  · intro s i j h
    have hx := asks_job h
    obtain ⟨l, hl, hj⟩ := addJob_adds s j
    refine ⟨by rw [hl]; exact hj, fun hw => ?_, ?_⟩
    · rw [hx, askJob_waits hw]
    · intro r tt k hh hc hn hwf _ hm
      obtain ⟨m, he, hops⟩ := askJob_starts hh hc
      rw [hx, he]
      obtain ⟨hstripe, hjobs, hcm, hz, hs⟩ := startPlinth_starts (s := addJob s j) j hn (by rw [hl]; exact hwf) (by rw [hl]; exact hm)
      have hns : (addJob s j).sched.nextStripe = s.sched.nextStripe := by rw [hl]
      rw [hns] at hstripe
      obtain ⟨g1, g2, g3, g4, g5, hload⟩ := hstripe
      exact ⟨_, rfl, ⟨g1, g2, g3, g4, g5, fun c hc => hops _ _ (by simp) (hload c hc)⟩, hjobs, by rw [hcm, hl], by rw [hz, hl], by rw [hs, hl]⟩
  · intro s c k sid j h1 h2 d x hop hw hs hj he hr hf
    obtain ⟨l, hx⟩ := poll_endsPlinth h1 h2 hop hw hs hj he hr hf
    refine ⟨_, hx, ?_, ?_, ?_, ?_, ?_, ?_, ?_⟩
    · unfold getStripe
      rw [(plDone_keeps _ _ _).1]
      exact congrArg Stripe.phase (getStripe_programEnded s l (dk c k) sid c)
    · exact (plDone_keeps _ _ _).2.2.2
    · exact (plDone_keeps _ _ _).2.2.1
    · intro m n e ht
      subst e
      have htk : (((programEnded s l (dk c k) sid c).plinth.taken.find? (fun e => e.1 == sid)).map (·.2)).getD ({}, 0) = (m, n) := by
        rw [show (programEnded s l (dk c k) sid c).plinth.taken = s.plinth.taken from rfl, ht]
        rfl
      unfold plDone
      dsimp only
      rw [htk]
      exact ⟨rfl, rfl, rfl⟩
    · intro m n q e ht
      subst e
      have htk : (((programEnded s l (dk c k) sid c).plinth.taken.find? (fun e => e.1 == sid)).map (·.2)).getD ({}, 0) = (m, n) := by
        rw [show (programEnded s l (dk c k) sid c).plinth.taken = s.plinth.taken from rfl, ht]
        rfl
      unfold plDone
      dsimp only
      rw [htk]
      exact ⟨rfl, rfl, rfl, rfl, rfl⟩
    · intro g e hg
      subst e
      have htk : (programEnded s l (dk c k) sid c).pat.taken = some g := hg
      unfold plDone
      dsimp only
      rw [htk]
      exact ⟨rfl, rfl, rfl, rfl⟩
    · intro e
      subst e
      have hg : getStripe (programEnded s l (dk c k) sid c) sid = { x with ended := setBit x.ended c, phase := .done } :=
        getStripe_programEnded s l (dk c k) sid c
      unfold plDone
      dsimp only
      refine ⟨?_, rfl⟩
      change { s.arm with
        mirror := some s.arm.seq, mirrorCfg := some s.arm.base
        mirrorDies := ((chIn (getStripe (programEnded s l (dk c k) sid c) sid).chmask).filter (fun ch => !(bitOf (getStripe (programEnded s l (dk c k) sid c) sid).erased ch))).map (fun ch => dk ch (getStripe (programEnded s l (dk c k) sid c) sid).rank) } = _
      rw [hg]

end Sys2Proof.Machine
end
section
/-! SUPPORT. Reads asked for under numbers of their own, and the end of a read's ladder (R258, R264, R268, R269). -/

namespace Sys2Proof.Machine

/-- `t` is `s` with reads of numbers beyond those given so far, each read of a number given before as it was. -/
structure Asked (s t : State) : Prop where
  only : t = { s with reads := t.reads, sched := { s.sched with nextRd := t.sched.nextRd } }
  next : s.sched.nextRd ≤ t.sched.nextRd
  keep : ∀ i, i < s.sched.nextRd → getRd t i = getRd s i

theorem Asked.refl (s : State) : Asked s s := ⟨rfl, Nat.le_refl _, fun _ _ => rfl⟩

theorem Asked.trans {s t u : State} (h : Asked s t) (k : Asked t u) : Asked s u := by
  refine ⟨?_, h.next.trans k.next, fun i hi => (k.keep i (Nat.lt_of_lt_of_le hi h.next)).trans (h.keep i hi)⟩
  have := k.only
  rw [h.only] at this
  exact this

section
variable {s t : State} (h : Asked s t)
include h

theorem Asked.rows : t.rows = s.rows := by rw [h.only]
theorem Asked.stripes : t.stripes = s.stripes := by rw [h.only]
theorem Asked.cmds : t.cmds = s.cmds := by rw [h.only]
theorem Asked.sectors : t.sectors = s.sectors := by rw [h.only]
theorem Asked.zones : t.zones = s.zones := by rw [h.only]
theorem Asked.dies : t.dies = s.dies := by rw [h.only]
theorem Asked.pat : t.pat = s.pat := by rw [h.only]
theorem Asked.scrubPass : t.sched.scrubPass = s.sched.scrubPass := by rw [h.only]

end

theorem asked_newRd (s : State) (r : Rd) : Asked s (newRd s r).1 :=
  ⟨rfl, Nat.le_succ _, fun _ hi => tget_tset_ne _ _ _ _ _ (Nat.ne_of_lt hi)⟩

theorem asked_foldl {β : Type} {f : State → β → State} (h : ∀ a x, Asked a (f a x)) (l : List β) (s : State) :
    Asked s (l.foldl f s) := by
  induction l generalizing s with
  | nil => exact .refl s
  | cons x r ih => exact (h s x).trans (ih _)

/-- The step of a fold for a member of the list comes after the steps before it and before those after it. -/
theorem asked_foldl_at {β : Type} {f : State → β → State} (h : ∀ a x, Asked a (f a x)) {l : List β} {x : β} (hx : x ∈ l) (s : State) :
    ∃ a, Asked s a ∧ Asked (f a x) (l.foldl f s) := by
  induction l generalizing s with
  | nil => cases hx
  | cons y r ih =>
    rcases List.mem_cons.mp hx with e | hr
    · subst e
      exact ⟨s, .refl s, asked_foldl h r _⟩
    · obtain ⟨a, ha, hb⟩ := ih hr (f s y)
      exact ⟨a, (h s y).trans ha, hb⟩

theorem asked_startRebuild (s : State) (i : Nat) :
    Asked (setRd s i { getRd s i with step := 9, st := .rebuild }) (startRebuild s i) :=
  asked_foldl (fun a _ => asked_newRd a _) _ _

/-! ### The scrub pass (R271) -/

theorem asked_scrubStripe (s : State) (sid : Nat) : Asked s (scrubStripe s sid) :=
  asked_foldl (fun a _ => asked_newRd a _) _ _

/-- A pass over a stripe reads a codeword of each unit of it that is left. -/
theorem scrubStripe_reads {s t : State} {sid c : Nat} (h : Asked (scrubStripe s sid) t) (hsid : sid ≠ 0)
    (hc : c ∈ chIn (getStripe s sid).chmask) (hg : unitGone s (getStripe s sid) c = false) :
    ∃ i, s.sched.nextRd ≤ i ∧ (getRd t i).own = .scrub ∧ (getRd t i).sid = sid ∧ (getRd t i).ch = c ∧
      (getRd t i).rank = (getStripe s sid).rank ∧ (getRd t i).ix = 4 * ((getStripe s sid).t % 4) ∧ (getRd t i).st = .wait := by
  unfold scrubStripe at h
  dsimp only at h
  have hm : c ∈ (chIn (getStripe s sid).chmask).filter (fun c => !(unitGone s (getStripe s sid) c)) :=
    List.mem_filter.mpr ⟨hc, by simp [hg]⟩
  obtain ⟨a, ha, hb⟩ := asked_foldl_at (f := fun a c => (newRd a
    { own := .scrub, cls := 4, niche := (getStripe s sid).niche, sid := sid, rank := (getStripe s sid).rank, ch := c, ix := 4 * ((getStripe s sid).t % 4) }).1)
    (fun a _ => asked_newRd a _) hm s
  have hi : getRd t a.sched.nextRd = { own := .scrub, cls := 4, niche := (getStripe s sid).niche, sid := sid, rank := (getStripe s sid).rank, ch := c, ix := 4 * ((getStripe s sid).t % 4), us := a.opUs } := by
    rw [(hb.trans h).keep a.sched.nextRd (Nat.lt_succ_self _)]
    exact tget_tset_same _ _ _ _ fun e => hsid (congrArg Rd.sid e)
  refine ⟨a.sched.nextRd, ha.next, ?_⟩
  rw [hi]
  exact ⟨rfl, rfl, rfl, rfl, rfl, rfl⟩

theorem scrubPass_reads (s : State) : ∃ t, exec .scrubPass s = .next t ∧ t.sched.scrubPass = s.sched.scrubPass + 1 ∧
    t.rows = s.rows ∧ t.stripes = s.stripes ∧ t.cmds = s.cmds ∧ t.sectors = s.sectors ∧
    ∀ sid c, let x := getStripe s sid
      (sid, x) ∈ s.stripes → sid ≠ 0 → x.phase = .done → x.t % 16 = s.sched.scrubPass % 16 →
      (getRow s (rk x.rank x.row)).st = .bound → c ∈ chIn x.chmask → unitGone s x c = false →
      ∃ i, s.sched.nextRd ≤ i ∧ (getRd t i).own = .scrub ∧ (getRd t i).sid = sid ∧ (getRd t i).ch = c ∧
        (getRd t i).rank = x.rank ∧ (getRd t i).ix = 4 * (x.t % 4) ∧ (getRd t i).st = .wait := by
  generalize hl : tkeys s.stripes (fun _ x => x.phase == .done && x.t % 16 == s.sched.scrubPass % 16 &&
    (getRow s (rk x.rank x.row)).st == .bound) = l
  have h := asked_foldl asked_scrubStripe l s
  have hx : exec .scrubPass s = .next { l.foldl scrubStripe s with
      sched := { (l.foldl scrubStripe s).sched with scrubPass := (l.foldl scrubStripe s).sched.scrubPass + 1 } } := by
    rw [← hl]
    rfl
  refine ⟨_, hx, congrArg (· + 1) h.scrubPass, h.rows, h.stripes, h.cmds, h.sectors, ?_⟩
  intro sid c x hmem hsid hph ht hst hc hg
  have hm : sid ∈ l := by
    rw [← hl]
    exact List.mem_map.mpr ⟨(sid, x), List.mem_filter.mpr ⟨hmem, by simp [hph, ht, hst]⟩, rfl⟩
  obtain ⟨a, ha, hb⟩ := asked_foldl_at asked_scrubStripe hm s
  have hga : getStripe a sid = x := by
    unfold getStripe
    rw [ha.stripes]
    rfl
  have hgone : unitGone a (getStripe a sid) c = false := by
    rw [hga]
    unfold unitGone getDie
    rw [ha.dies]
    exact hg
  obtain ⟨i, hi, hr⟩ := scrubStripe_reads hb hsid (by rw [hga]; exact hc) hgone
  rw [hga] at hr
  exact ⟨i, Nat.le_trans ha.next hi, hr⟩

/-! ### The end of a ladder -/

/-- A read whose ladder ended is out of the table. -/
theorem endLadder_ends (s : State) (i : Nat) :
    (∃ m, endLadder s i = { s with
      reads := tdrop s.reads (fun k v => k == i || v.own == .unit i), rows := (endLadder s i).rows, dies := m }) ∧
    hasRd (endLadder s i) i = false := by
  refine ⟨⟨_, rfl⟩, ?_⟩
  show (tdrop s.reads (fun k v => k == i || v.own == .unit i)).any (fun kv => kv.1 == i) = false
  rw [List.any_eq_false]
  intro kv hkv
  have h := (List.mem_filter.mp hkv).2
  simp only [Bool.not_or, Bool.and_eq_true, Bool.not_eq_true'] at h
  simp [h.1]

/-- Rows that are bound stand when a ladder ends. -/
theorem getRow_endLadder {s : State} {k : Nat} (i : Nat) (h : twf {} s.rows = true) (hb : (getRow s k).st = .bound) :
    getRow (endLadder s i) k = getRow s k := by
  have hm := tget_tmap h (fun _ v => if v.st == .leaving && !v.waits.isEmpty &&
    v.waits.all (fun j => !(hasRd { s with reads := tdrop s.reads (fun k v => k == i || v.own == .unit i) } j)) then
      pendRow { s with reads := tdrop s.reads (fun k v => k == i || v.own == .unit i) } else v) k rfl
  refine Eq.trans hm ?_
  rw [show tget ({} : Row) s.rows k = getRow s k from rfl, if_neg (by simp [hb])]

/-- A read goes over to its units: what the record and the row's place in the queue change has no bearing on it. -/
theorem unitGone_levelled (s : State) (d : Nat) (x : Stripe) (c : Nat) (h : unitGone s x c = false) :
    unitGone (setDie s d { getDie s d with level := 0, offset := 0 }) x c = false := by
  unfold unitGone at h ⊢
  simp only [Bool.or_eq_false_iff, Bool.not_eq_false'] at h ⊢
  obtain ⟨⟨he, hr⟩, hu⟩ := h
  by_cases hd : dk c x.rank = d
  · subst hd
    rw [getDie_setDie_same]
    · exact ⟨⟨he, hr⟩, hu⟩
    · intro e
      have : (getDie s (dk c x.rank)).used = false := congrArg Die.used e
      rw [hu] at this
      cases this
  · rw [show getDie (setDie s d { getDie s d with level := 0, offset := 0 }) (dk c x.rank) = getDie s (dk c x.rank) from
      tget_tset_ne _ _ _ _ _ hd]
    exact ⟨⟨he, hr⟩, hu⟩

theorem rebuildable_levelled {s : State} {r : Rd} (d : Nat) (h : rebuildable s r = true) :
    rebuildable (setDie s d { getDie s d with level := 0, offset := 0 }) r = true := by
  unfold rebuildable rebuildPeers at h ⊢
  dsimp only at h ⊢
  have hx : getStripe (setDie s d { getDie s d with level := 0, offset := 0 }) r.sid = getStripe s r.sid := rfl
  rw [hx]
  simp only [Bool.and_eq_true, decide_eq_true_eq] at h ⊢
  refine ⟨h.1, Nat.le_trans (Nat.sub_le_sub_left ?_ _) h.2⟩
  refine (List.monotone_filter_right _ ?_).length_le
  intro c hc
  simp only [Bool.and_eq_true, Bool.not_eq_true'] at hc ⊢
  exact ⟨hc.1, unitGone_levelled s d _ c hc.2⟩

end Sys2Proof.Machine
end
section
/-! PROOFS. A codeword that decodes fills the read buffer, one that fails climbs the ladder (R258, R264, R266 to R269, R271). -/

namespace Sys2Proof.Machine

theorem takeHard_nextRd (s : State) (h : Sched) : (takeHard s h).nextRd = h.nextRd := by
  unfold takeHard
  split <;> rfl

theorem takeSoft_nextRd (s : State) (h : Sched) : (takeSoft s h).nextRd = h.nextRd := by
  unfold takeSoft
  split <;> rfl

theorem feed_nextRd (s : State) : (feed s).sched.nextRd = s.sched.nextRd := by
  unfold feed
  generalize List.range 16 = l
  induction l generalizing s with
  | nil => rfl
  | cons x r ih =>
    refine (ih (feedOne s)).trans ?_
    rw [feedOne_eq]
    exact (takeSoft_nextRd _ _).trans (takeHard_nextRd _ _)

/-- The state as a codeword leaves its decoder, the result flagged where it is beyond 40 bits. -/
def decoderLeft (s : State) (rd step bits : Nat) : State :=
  if step == 8 then fromDecoder s rd else { fromDecoder s rd with sched := { (fromDecoder s rd).sched with beyond := decide (40 < bits) } }

theorem decoderLeft_only (s : State) (rd step bits : Nat) : ∃ h, decoderLeft s rd step bits = { s with sched := h } ∧
    h.nextRd = s.sched.nextRd ∧ (step ≠ 8 → h.beyond = decide (40 < bits)) := by
  have hf : fromDecoder s rd = { s with sched := (fromDecoder s rd).sched } := by
    have hr := (feed_keeps { s with sched := { s.sched with hard := s.sched.hard.erase rd, soft := s.sched.soft.erase rd } }).1
    have he := feed_eq { s with sched := { s.sched with hard := s.sched.hard.erase rd, soft := s.sched.soft.erase rd } }
    rw [hr] at he
    exact he
  have hn : (fromDecoder s rd).sched.nextRd = s.sched.nextRd := by
    unfold fromDecoder
    dsimp only
    rw [feed_nextRd]
  unfold decoderLeft
  generalize fromDecoder s rd = f at hf hn ⊢
  split
  · next h => exact ⟨f.sched, hf, hn, fun hne => absurd (beq_iff_eq.mp h) hne⟩
  · exact ⟨{ f.sched with beyond := decide (40 < bits) },
      congrArg (fun u : State => { u with sched := { f.sched with beyond := decide (40 < bits) } }) hf, hn, fun _ => rfl⟩

/-- A read that goes over to the other units of its stripe waits for them, and changes no stored data. -/
theorem toStep9_rebuilds {u : State} {rd id j : Nat} (ho : (getRd u rd).own = .cmd id j) (hr : rebuildable u (getRd u rd) = true)
    (hn : rd < u.sched.nextRd) :
    (getRd (toStep9 u rd) rd).step = 9 ∧ (getRd (toStep9 u rd) rd).st = .rebuild ∧ (toStep9 u rd).pat = u.pat ∧
    (toStep9 u rd).sectors = u.sectors ∧ (toStep9 u rd).zones = u.zones ∧ (toStep9 u rd).stripes = u.stripes := by
  generalize hw : setDie u (dk (getRd u rd).ch (getRd u rd).rank) { getDie u (dk (getRd u rd).ch (getRd u rd).rank) with level := 0, offset := 0 } = w
  have hstep : toStep9 u rd = startRebuild w rd := by
    have hr' : rebuildable w (getRd u rd) = true := by
      rw [← hw]
      exact rebuildable_levelled _ hr
    unfold toStep9
    dsimp only
    rw [ho, hw]
    exact if_pos hr'
  have ha := asked_startRebuild w rd
  have hgr := (ha.keep rd (by rw [← hw]; exact hn)).trans (getRd_setRd_same w rd { getRd w rd with step := 9, st := .rebuild } fun e => by
    have := congrArg Rd.step e
    cases this)
  rw [hstep, hgr]
  refine ⟨rfl, rfl, ?_, ?_, ?_, ?_⟩
  · rw [ha.pat, ← hw]
    rfl
  · rw [ha.sectors, ← hw]
    rfl
  · rw [ha.zones, ← hw]
    rfl
  · rw [ha.stripes, ← hw]
    rfl

/-- The value a decoder gives: what it found, or what is stored there. -/
def decodedInfo (s : State) (rd : Nat) (q : Decoded) : Nat :=
  q.found.getD (expectInfo s (getRd s rd)) % 2 ^ (8 * infoBytes (getStripe s (getRd s rd).sid).fmt)

section
variable {s : State} {rd : Nat} {q : Decoded} (hq : rd ∈ s.sched.hard ∨ rd ∈ s.sched.soft) (hd : (getRd s rd).st = .decode)
include hq hd

theorem decode_eq : exec (.codewordDecode rd q) s =
    (if !q.good then ok (failStep (setRd (decoderLeft s rd (getRd s rd).step q.bits) rd (noteBest (getRd s rd) q.bits)) rd)
    else if !(passes269 s (getRd s rd) (decodedInfo s rd q)) then
      ok (toStep9 (queueRecast (nicheRec (decoderLeft s rd (getRd s rd).step q.bits) (getStripe s (getRd s rd).sid).niche 0x52 6 0 (tagOf (decodedInfo s rd q)))
        (getStripe s (getRd s rd).sid).rank (getStripe s (getRd s rd).sid).row 2) rd)
    else
      let s2 := if (getRd s rd).sid == 0 then decoderLeft s rd (getRd s rd).step q.bits
        else decodeGood (decoderLeft s rd (getRd s rd).step q.bits) (getRd s rd).niche (getStripe s (getRd s rd).sid).rank
          (getStripe s (getRd s rd).sid).row (getRd s rd).step q.bits
      match (getRd s rd).own with
      | .unit p =>
        let d := dk (getRd s rd).ch (getRd s rd).rank
        let s3 := setDie s2 d { getDie s2 d with level := 0, offset := 0 }
        ok (settleRebuild (setRd s3 rd { getRd s rd with st := .good, val := decodedInfo s rd q }) p)
      | _ => ok (deliver s2 rd (decodedInfo s rd q))) := by
  have hc : (s.sched.hard.contains rd || s.sched.soft.contains rd) = true := by simpa using hq
  show execCodewordDecode rd q s = _
  unfold execCodewordDecode
  dsimp only
  rw [if_neg (by simp only [hc, hd]; simp)]
  rfl

/-- A codeword that fails goes to the next step of its ladder, the level with the fewest bits found wrong kept. -/
theorem decode_fails (hg : q.good = false) (hs : (getRd s rd).step ≤ 7) :
    exec (.codewordDecode rd q) s = .next (setRd (setRd (decoderLeft s rd (getRd s rd).step q.bits) rd (noteBest (getRd s rd) q.bits)) rd
      { noteBest (getRd s rd) q.bits with step := (getRd s rd).step + 1, soft := 0, st := .wait }) := by
  have hb : (noteBest (getRd s rd) q.bits).st = .decode ∧ (noteBest (getRd s rd) q.bits).step = (getRd s rd).step := by
    unfold noteBest
    repeat' split
    all_goals exact ⟨hd, rfl⟩
  obtain ⟨hbst, hbstep⟩ := hb
  rw [decode_eq hq hd, if_pos (by rw [hg]; rfl)]
  generalize noteBest (getRd s rd) q.bits = b at hbst hbstep ⊢
  have hgb : getRd (setRd (decoderLeft s rd (getRd s rd).step q.bits) rd b) rd = b := getRd_setRd_same _ _ _ fun e => by
    rw [e] at hbst
    cases hbst
  unfold failStep
  dsimp only
  rw [hgb, hbstep, if_pos hs]
  rfl

/-- A codeword whose tag is wrong goes to the rebuild from the other units. -/
theorem decode_mistags_eq (hg : q.good = true) (hp : passes269 s (getRd s rd) (decodedInfo s rd q) = false) :
    exec (.codewordDecode rd q) s = .next (toStep9 (queueRecast (nicheRec (decoderLeft s rd (getRd s rd).step q.bits)
      (getStripe s (getRd s rd).sid).niche 0x52 6 0 (tagOf (decodedInfo s rd q)))
        (getStripe s (getRd s rd).sid).rank (getStripe s (getRd s rd).sid).row 2) rd) := by
  rw [decode_eq hq hd, if_neg (by simp [hg]), if_pos (by rw [hp]; rfl)]
  rfl

theorem decode_delivers (hg : q.good = true) (hp : passes269 s (getRd s rd) (decodedInfo s rd q) = true)
    (ho : ∀ p, (getRd s rd).own ≠ .unit p) :
    ∃ u, exec (.codewordDecode rd q) s = .next (deliver u rd (decodedInfo s rd q)) ∧
      (∃ h n l, u = { s with sched := h, niches := n, rows := l }) ∧
      ((getRd s rd).sid ≠ 0 → (getRd s rd).step = 0 → 28 < q.bits →
        ∃ h, u = queueRecast { s with sched := h } (getStripe s (getRd s rd).sid).rank (getStripe s (getRd s rd).sid).row 1) := by
  rw [decode_eq hq hd, if_neg (by simp [hg]), if_neg (by simp [hp])]
  dsimp only
  obtain ⟨h, hl, -, -⟩ := decoderLeft_only s rd (getRd s rd).step q.bits
  rw [hl]
  have hq (w : State) (k r n : Nat) : ∃ l, queueRecast w k r n = { w with rows := l } := by
    unfold queueRecast
    dsimp only
    split <;> exact ⟨_, rfl⟩
  refine ⟨if (getRd s rd).sid == 0 then { s with sched := h } else decodeGood { s with sched := h } (getRd s rd).niche
    (getStripe s (getRd s rd).sid).rank (getStripe s (getRd s rd).sid).row (getRd s rd).step q.bits, ?_, ?_, ?_⟩
  · split
    · next p hp => exact absurd hp (ho p)
    · rfl
  · split
    · exact ⟨h, s.niches, s.rows, rfl⟩
    · unfold decodeGood
      dsimp only
      generalize hw : (if ((getRd s rd).step == 0) = true then ({ s with sched := h } : State) else _) = w
      obtain ⟨n, hn⟩ : ∃ n, w = { s with sched := h, niches := n } := by
        rw [← hw]
        repeat' split
        all_goals exact ⟨_, rfl⟩
      split
      · obtain ⟨l, hl⟩ := hq w (getStripe s (getRd s rd).sid).rank (getStripe s (getRd s rd).sid).row 2
        exact ⟨h, n, l, by rw [hl, hn]⟩
      · split
        · obtain ⟨l, hl⟩ := hq w (getStripe s (getRd s rd).sid).rank (getStripe s (getRd s rd).sid).row 1
          exact ⟨h, n, l, by rw [hl, hn]⟩
        · exact ⟨h, n, s.rows, hn⟩
  · intro hsid hst hb
    refine ⟨h, ?_⟩
    rw [if_neg (by simpa using hsid), hst]
    unfold decodeGood
    simp [hb]

end

/-- The record of a wrong tag, made as the codeword leaves its decoder, is what it would be before. -/
theorem mistag_recorded (s : State) (rd step bits n g k r : Nat) : ∃ h l,
    queueRecast (nicheRec (decoderLeft s rd step bits) n 0x52 6 0 g) k r 2 =
      { s with sched := h, pat := (nicheRec s n 0x52 6 0 g).pat, rows := l } ∧ h.nextRd = s.sched.nextRd := by
  obtain ⟨h, hl, hn, -⟩ := decoderLeft_only s rd step bits
  generalize decoderLeft s rd step bits = u at hl ⊢
  have h6 : (6 : Nat) ≠ 7 := by decide
  have hpat : (nicheRec u n 0x52 6 0 g).pat = (nicheRec s n 0x52 6 0 g).pat :=
    patina_pat_congr (by rw [hl]) (by rw [hl]) h6
  have hrec : nicheRec u n 0x52 6 0 g = { u with pat := (nicheRec s n 0x52 6 0 g).pat } := by
    rw [← hpat]
    exact (patina_quiet _ _ h6).1
  rw [hrec]
  generalize (nicheRec s n 0x52 6 0 g).pat = p
  subst hl
  unfold queueRecast
  dsimp only
  split
  · exact ⟨h, s.rows, rfl, hn⟩
  · exact ⟨h, _, rfl, hn⟩

/-- A codeword whose tag is wrong is recorded, and its read waits for the other units. -/
theorem decode_mistags {s : State} {rd : Nat} {q : Decoded} {id j : Nat} (hq : rd ∈ s.sched.hard ∨ rd ∈ s.sched.soft)
    (hd : (getRd s rd).st = .decode) (hg : q.good = true) (hp : passes269 s (getRd s rd) (decodedInfo s rd q) = false)
    (ho : (getRd s rd).own = .cmd id j) (hr : rebuildable s (getRd s rd) = true) (hn : rd < s.sched.nextRd) :
    ∃ t, exec (.codewordDecode rd q) s = .next t ∧ (getRd t rd).step = 9 ∧ (getRd t rd).st = .rebuild ∧
      t.pat = (nicheRec s (getStripe s (getRd s rd).sid).niche 0x52 6 0 (tagOf (decodedInfo s rd q))).pat ∧
      t.sectors = s.sectors ∧ t.zones = s.zones ∧ t.stripes = s.stripes := by
  have hx := decode_mistags_eq hq hd hg hp
  generalize tagOf (decodedInfo s rd q) = g at hx ⊢
  obtain ⟨h, l, hu, hnx⟩ := mistag_recorded s rd (getRd s rd).step q.bits (getStripe s (getRd s rd).sid).niche g
    (getStripe s (getRd s rd).sid).rank (getStripe s (getRd s rd).sid).row
  rw [hu] at hx
  generalize (nicheRec s (getStripe s (getRd s rd).sid).niche 0x52 6 0 g).pat = p at hx ⊢
  generalize hw : ({ s with sched := h, pat := p, rows := l } : State) = u at hx
  have hgr : getRd u rd = getRd s rd := by rw [← hw]; rfl
  obtain ⟨h1, h2, h3, h4, h5, h6⟩ := toStep9_rebuilds (u := u) (by rw [hgr]; exact ho) (by rw [hgr, ← hw]; exact hr)
    (by rw [← hw]; show rd < h.nextRd; rw [hnx]; exact hn)
  exact ⟨_, hx, h1, h2, by rw [h3, ← hw], by rw [h4, ← hw], by rw [h5, ← hw], by rw [h6, ← hw]⟩

/-- A sector read for a command is in the command's buffer, and its read has ended. -/
theorem deliver_cmd {u : State} {rd id j v : Nat} {w : RdSec} (ho : (getRd u rd).own = .cmd id j) (hw : (getCmd u id).rds[j]? = some w)
    (hl : ∀ k y, k ≠ j → (getCmd u id).rds[k]? = some y → y.st ≠ .lost) :
    (getCmd (deliver u rd v) id).rds = (getCmd u id).rds.set j { w with st := .ready v } ∧ hasRd (deliver u rd v) rd = false ∧
    (deliver u rd v).sectors = u.sectors ∧ (deliver u rd v).zones = u.zones ∧ (deliver u rd v).stripes = u.stripes := by
  obtain ⟨⟨m, hm⟩, hrd⟩ := endLadder_ends u rd
  have hfields : (endLadder u rd).sectors = u.sectors ∧ (endLadder u rd).zones = u.zones ∧ (endLadder u rd).stripes = u.stripes ∧
      getCmd (endLadder u rd) id = getCmd u id := by
    rw [hm]
    exact ⟨rfl, rfl, rfl, rfl⟩
  obtain ⟨hs, hz, hx, hc⟩ := hfields
  have hd : deliver u rd v = readArrived (setCmd (endLadder u rd) id { getCmd (endLadder u rd) id with
      rds := (getCmd (endLadder u rd) id).rds.set j { ((getCmd (endLadder u rd) id).rds.getD j ⟨(getCmd (endLadder u rd) id).lo + j, .zero⟩) with st := .ready v } }) id := by
    unfold deliver
    dsimp only
    rw [ho]
  rw [hd, hc, List.getD_eq_getElem?_getD, hw, Option.getD_some]
  obtain ⟨hj, -⟩ := List.getElem?_eq_some_iff.mp hw
  generalize hcv : ({ getCmd u id with rds := (getCmd u id).rds.set j { w with st := .ready v } } : Cmd) = c
  have hrds : c.rds = (getCmd u id).rds.set j { w with st := .ready v } := by rw [← hcv]
  have hg : getCmd (setCmd (endLadder u rd) id c) id = c := getCmd_setCmd_same _ _ _ fun e => by
    have h0 : c.rds.length = 0 := by rw [e]; rfl
    rw [hrds, List.length_set] at h0
    omega
  have hlost : c.rds.filter (fun r => r.st == .lost) = [] := by
    rw [List.filter_eq_nil_iff]
    intro y hy
    obtain ⟨k, hk⟩ := List.mem_iff_getElem?.mp hy
    rw [hrds, List.getElem?_set] at hk
    split at hk
    · next e =>
      cases hk
      simp
    · next e => simpa using hl k y (fun h => e h.symm) hk
  have hr : readArrived (setCmd (endLadder u rd) id c) id = setCmd (endLadder u rd) id c ∨
      readArrived (setCmd (endLadder u rd) id c) id = queueSegs (setCmd (endLadder u rd) id c) id := by
    unfold readArrived
    dsimp only
    rw [hg, hlost]
    split
    · next h => simp at h
    · split
      · exact .inr rfl
      · exact .inl rfl
  rw [← hrds]
  rcases hr with hr | hr
  · rw [hr, hg]
    exact ⟨rfl, hrd, hs, hz, hx⟩
  · rw [hr]
    refine ⟨?_, hrd, hs, hz, hx⟩
    unfold queueSegs
    rw [hg]
    show (tget ({} : Cmd) (tset {} (setCmd (endLadder u rd) id c).cmds id { c with segUs := (endLadder u rd).nowUs }) id).rds = _
    rw [tget_tset_same]
    intro e
    have h0 : c.rds.length = 0 := congrArg (fun c : Cmd => c.rds.length) e
    rw [hrds, List.length_set] at h0
    omega

/-- Settles O19, by what a decoded codeword leaves of its read and the reads a scrub pass asks for. -/
theorem decodesAndScrubs : Obligations.DecodesAndScrubs := by
  refine ⟨?_, scrubPass_reads⟩
  intro s rd q r x v hq hd
  refine ⟨fun hg hs => ?_, fun id j w hg hp ho _ hw hl => ?_, fun id j hg hp ho hr hn => decode_mistags hq hd hg hp ho hr hn, ?_⟩
  · have hx := decode_fails hq hd hg hs
    obtain ⟨h, hdl, -, hb⟩ := decoderLeft_only s rd (getRd s rd).step q.bits
    rw [hdl] at hx
    have hgr := getRd_setRd_same (setRd { s with sched := h } rd (noteBest (getRd s rd) q.bits)) rd
      { noteBest (getRd s rd) q.bits with step := (getRd s rd).step + 1, soft := 0, st := .wait } fun e => by
        have := congrArg Rd.step e
        cases this
    exact ⟨_, hx, hgr, fun h8 => hb h8, rfl, rfl, rfl, rfl⟩
  · obtain ⟨u, hx, ⟨h, n, l, hu⟩, -⟩ := decode_delivers hq hd hg hp fun p e => by
      have := ho.symm.trans e
      cases this
    have hd := deliver_cmd (u := u) (rd := rd) (id := id) (j := j) (v := v) (w := w) (by rw [hu]; exact ho) (by rw [hu]; exact hw) (by rw [hu]; exact hl)
    rw [show getCmd u id = getCmd s id by rw [hu]; rfl, show u.sectors = s.sectors by rw [hu], show u.zones = s.zones by rw [hu],
      show u.stripes = s.stripes by rw [hu]] at hd
    exact ⟨_, hx, hd⟩
  · intro w hg hp ho hsid hst hb hwb hwq hwf
    obtain ⟨u, hx, -, hrow⟩ := decode_delivers hq hd hg hp fun p e => by
      have := ho.symm.trans e
      cases this
    obtain ⟨h, hu⟩ := hrow hsid hst hb
    have hq1 : u = setRow { s with sched := h } (rk x.rank x.row) { w with queue := 1, queuedUs := s.opUs } := by
      have hgw : getRow ({ s with sched := h } : State) (rk x.rank x.row) = w := rfl
      rw [hu]
      change queueRecast { s with sched := h } x.rank x.row 1 = _
      unfold queueRecast
      dsimp only
      rw [hgw]
      generalize hv : ({ w with queue := 1, queuedUs := if w.queue == 0 then s.opUs else w.queuedUs } : Row) = y
      have hy : y = { w with queue := 1, queuedUs := s.opUs } := by
        rw [← hv, if_pos (by rw [hwq]; rfl)]
      generalize ({ w with queue := 1, queuedUs := s.opUs } : Row) = z at hy ⊢
      rw [hwb, hwq, if_neg (by simp), hy]
    have hgr : getRow u (rk x.rank x.row) = { w with queue := 1, queuedUs := s.opUs } := by
      rw [hq1]
      exact getRow_setRow_same _ _ _ fun e => by
        have := congrArg Row.queue e
        cases this
    have hdel : deliver u rd v = endLadder u rd := by
      have ho' : (getRd u rd).own = .scrub := by rw [hq1]; exact ho
      unfold deliver
      dsimp only
      rw [ho']
    obtain ⟨⟨m, hm⟩, hrd⟩ := endLadder_ends u rd
    refine ⟨_, hx, ?_⟩
    change hasRd (deliver u rd v) rd = false ∧ getRow (deliver u rd v) _ = _ ∧ (deliver u rd v).sectors = _ ∧ (deliver u rd v).zones = _ ∧ (deliver u rd v).stripes = _
    rw [hdel]
    refine ⟨hrd, ?_, ?_, ?_, ?_⟩
    · rw [getRow_endLadder rd (by rw [hq1]; exact twf_tset _ _ _ _ hwf) (by rw [hgr]; exact hwb), hgr]
    all_goals
      rw [hm, hq1]
      rfl

end Sys2Proof.Machine
end
section
/-! SUPPORT. The sectors of a zone write in the places of the stripe its zone fills (R28, R116, R175). -/

namespace Sys2Proof.Machine

/-! ### What a placement changes -/

/-- `t` is `s` with sectors placed for the zone `k`: of the zone, only the stripe it fills and its stripes filled differ. -/
structure Placed (s t : State) (k : Nat) : Prop where
  only : t = { s with zones := t.zones, stripes := t.stripes, sectors := t.sectors, sched := t.sched, comms := t.comms }
  zone : ∃ f n, getZone t k = { getZone s k with fill := f, nstripe := n }

theorem Placed.refl (s : State) (k : Nat) : Placed s s k := ⟨rfl, _, _, rfl⟩

theorem Placed.trans {s t u : State} {k : Nat} (h : Placed s t k) (g : Placed t u k) : Placed s u k := by
  obtain ⟨f, n, hz⟩ := h.zone
  obtain ⟨f', n', gz⟩ := g.zone
  refine ⟨?_, f', n', by rw [gz, hz]⟩
  have := g.only
  rw [h.only] at this
  exact this

section
variable {s t : State} {k : Nat} (h : Placed s t k)
include h

theorem Placed.cmds : t.cmds = s.cmds := by rw [h.only]
theorem Placed.ns : t.ns = s.ns := by rw [h.only]

end

theorem completeStripe_only (s : State) (sid : Nat) (padded : Bool) :
    ∃ l c, completeStripe s sid padded = { s with stripes := l, comms := c } := by
  unfold completeStripe
  dsimp only
  split
  · split
    · exact ⟨_, _, rfl⟩
    · exact ⟨_, s.comms, rfl⟩
  · exact ⟨_, s.comms, rfl⟩

/-- A stripe that is complete holds what it held, as does every other. -/
theorem completeStripe_cells (s : State) (sid : Nat) (padded : Bool) (i : Nat) :
    (getStripe (completeStripe s sid padded) i).cells = (getStripe s i).cells := by
  have hset (v : Stripe) (hv : v.cells = (getStripe s sid).cells) (hp : v.phase = .complete) :
      (getStripe (setStripe s sid v) i).cells = (getStripe s i).cells := by
    by_cases hi : i = sid
    · subst hi
      rw [getStripe_setStripe_same _ _ _ (fun e => by rw [e] at hp; cases hp), hv]
    · exact congrArg Stripe.cells (tget_tset_ne _ _ _ _ _ hi)
  unfold completeStripe
  dsimp only
  split
  · split
    · exact hset _ rfl rfl
    · exact hset _ rfl rfl
  · exact hset _ rfl rfl

theorem fillStripe_placed (s : State) (i z : Nat) (gc : Bool) : Placed s (fillStripe s i (some z) gc).1 (zk i z) := by
  unfold fillStripe
  dsimp only
  split
  · exact .refl _ _
  · split
    · exact .refl _ _
    · refine ⟨rfl, _, _, getZone_setZone_same _ _ _ fun e => ?_⟩
      have := congrArg Zone.fill e
      cases this

theorem endFill_placed (s : State) (i z : Nat) (gc : Bool) : Placed s (endFill s i (some z) gc) (zk i z) := by
  refine ⟨rfl, _, _, getZone_setZone_same _ _ _ fun e => ?_⟩
  have := congrArg Zone.nstripe e
  cases this

theorem completeStripe_placed (s : State) (sid : Nat) (padded : Bool) (k : Nat) : Placed s (completeStripe s sid padded) k := by
  obtain ⟨l, c, h⟩ := completeStripe_only s sid padded
  rw [h]
  exact ⟨rfl, _, _, rfl⟩

/-- The state with a sector in the next place of the stripe `sid`. -/
def withSector (u : State) (w : Writer) (zs lba val sid : Nat) : State :=
  { setStripe { u with sched := { u.sched with commitNo := u.sched.commitNo + 1 } } sid
      (addCell w zs lba val (u.sched.commitNo + 1) (getStripe u sid)) with
    sectors := tset {} u.sectors (lk w.slot lba) { sid := sid, pos := (getStripe u sid).valid } }

theorem placeSector_eq {s u : State} {w : Writer} {sid : Nat} (h : fillStripe s w.slot w.zone w.gc = (u, some sid)) (lba val : Nat) :
    (placeSector s w lba val).1 = if (getStripe u sid).valid + 1 == (getStripe u sid).dcap then
      endFill (completeStripe (withSector u w (zsze (getNs s w.slot).attr.zw) lba val sid) sid false) w.slot w.zone w.gc
    else withSector u w (zsze (getNs s w.slot).attr.zw) lba val sid := by
  unfold placeSector
  rw [h]
  dsimp only
  rw [apply_ite Prod.fst]
  rfl

theorem placeSector_placed (s : State) (w : Writer) (lba val : Nat) {z : Nat} (hz : w.zone = some z) :
    Placed s (placeSector s w lba val).1 (zk w.slot z) := by
  have hf := fillStripe_placed s w.slot z w.gc
  rw [← hz] at hf
  rcases hr : fillStripe s w.slot w.zone w.gc with ⟨u, f⟩
  rw [hr] at hf
  cases f with
  | none =>
    unfold placeSector
    rw [hr]
    exact hf
  | some sid =>
    have hm : Placed s (withSector u w (zsze (getNs s w.slot).attr.zw) lba val sid) (zk w.slot z) := hf.trans ⟨rfl, _, _, rfl⟩
    rw [placeSector_eq hr, hz]
    split
    · exact (hm.trans (completeStripe_placed _ sid false _)).trans (endFill_placed _ _ _ w.gc)
    · exact hm

theorem placeAll_placed (w : Writer) {z : Nat} (hz : w.zone = some z) (l : List (Nat × Nat)) (s : State) :
    Placed s (placeAll w l s).1 (zk w.slot z) := by
  induction l generalizing s with
  | nil => exact .refl _ _
  | cons x r ih => exact (placeSector_placed s w x.1 x.2 hz).trans (ih _)

/-! ### The places of the stripe a zone fills -/

/-- A sector goes to the next place of the stripe its zone fills, which is filled on while it has room. -/
theorem placeSector_fills {s : State} {w : Writer} {z sid : Nat} (hz : w.zone = some z) (hf : (getZone s (zk w.slot z)).fill = some sid)
    (lba val : Nat) :
    (placeSector s w lba val).1.sectors = tset {} s.sectors (lk w.slot lba) { sid := sid, pos := (getStripe s sid).valid } ∧
    (getStripe (placeSector s w lba val).1 sid).cells =
      tset {} (getStripe s sid).cells (getStripe s sid).valid { lba := lba, val := val, seq := s.sched.commitNo + 1 } ∧
    ((getStripe s sid).valid + 1 ≠ (getStripe s sid).dcap → (getZone (placeSector s w lba val).1 (zk w.slot z)).fill = some sid ∧
      (getStripe (placeSector s w lba val).1 sid).valid = (getStripe s sid).valid + 1 ∧
      (getStripe (placeSector s w lba val).1 sid).dcap = (getStripe s sid).dcap) := by
  have hfs : fillStripe s w.slot w.zone w.gc = (s, some sid) := by
    unfold fillStripe
    rw [hz]
    dsimp only
    rw [hf]
  rw [placeSector_eq hfs]
  generalize hu : withSector s w (zsze (getNs s w.slot).attr.zw) lba val sid = u
  have hus : u.sectors = tset {} s.sectors (lk w.slot lba) { sid := sid, pos := (getStripe s sid).valid } := by rw [← hu]; rfl
  have huz : getZone u (zk w.slot z) = getZone s (zk w.slot z) := by rw [← hu]; rfl
  have huy : getStripe u sid = addCell w (zsze (getNs s w.slot).attr.zw) lba val (s.sched.commitNo + 1) (getStripe s sid) := by
    rw [← hu]
    exact tget_tset_same _ _ _ _ fun e => by
      have := congrArg Stripe.valid e
      cases this
  have hyv : (getStripe u sid).valid = (getStripe s sid).valid + 1 := by rw [huy]; rfl
  have hyd : (getStripe u sid).dcap = (getStripe s sid).dcap := by rw [huy]; rfl
  have hyc : (getStripe u sid).cells = tset {} (getStripe s sid).cells (getStripe s sid).valid { lba := lba, val := val, seq := s.sched.commitNo + 1 } := by
    rw [huy]
    rfl
  by_cases hd : (getStripe s sid).valid + 1 = (getStripe s sid).dcap
  · rw [if_pos (beq_iff_eq.mpr hd), hz]
    obtain ⟨l, c, hc⟩ := completeStripe_only u sid false
    refine ⟨?_, ?_, fun h => absurd hd h⟩
    · show (completeStripe u sid false).sectors = _
      rw [hc]
      exact hus
    · show (getStripe (completeStripe u sid false) sid).cells = _
      rw [completeStripe_cells, hyc]
  · rw [if_neg (by simpa using hd)]
    exact ⟨hus, hyc, fun _ => ⟨by rw [huz, hf], hyv, hyd⟩⟩

/-- Where the stripe that a zone fills has room for the sectors, each is at its LBA, in the next place. -/
theorem placeAll_fills {w : Writer} {z sid : Nat} (hz : w.zone = some z) (hs : sid ≠ 0) (l : List (Nat × Nat)) (s : State)
    (hf : (getZone s (zk w.slot z)).fill = some sid) (hn : (l.map (·.1)).Nodup)
    (hc : (getStripe s sid).valid + l.length ≤ (getStripe s sid).dcap) :
    (∀ p, p < (getStripe s sid).valid →
      tget {} (getStripe (placeAll w l s).1 sid).cells p = tget {} (getStripe s sid).cells p) ∧
    (∀ k, (∀ d ∈ l, k ≠ lk w.slot d.1) → tget {} (placeAll w l s).1.sectors k = tget {} s.sectors k) ∧
    ∀ j d, l[j]? = some d →
      tget {} (placeAll w l s).1.sectors (lk w.slot d.1) = { sid := sid, pos := (getStripe s sid).valid + j } ∧
      (tget {} (getStripe (placeAll w l s).1 sid).cells ((getStripe s sid).valid + j)).val = d.2 := by
  induction l generalizing s with
  | nil => exact ⟨fun _ _ => rfl, fun _ _ => rfl, fun _ _ h => by simp at h⟩
  | cons x r ih =>
    obtain ⟨lba, val⟩ := x
    obtain ⟨hsec, hcel, hnext⟩ := placeSector_fills hz hf lba val
    rw [List.map_cons, List.nodup_cons] at hn
    obtain ⟨hx, hr⟩ := hn
    rw [List.length_cons] at hc
    have hdist (d : Nat × Nat) (hd : d ∈ r) : lk w.slot lba ≠ lk w.slot d.1 := fun e => hx (by
      have : lba = d.1 := by unfold lk at e; omega
      show lba ∈ r.map (·.1)
      rw [this]
      exact List.mem_map_of_mem (f := (·.1)) hd)
    have hrest : placeAll w ((lba, val) :: r) s = ((placeAll w r (placeSector s w lba val).1).1,
        (placeSector s w lba val).2 :: (placeAll w r (placeSector s w lba val).1).2) := rfl
    rw [hrest]
    dsimp only
    generalize (placeSector s w lba val).1 = t at hsec hcel hnext ⊢
    have hcp (p : Nat) (hp : p < (getStripe s sid).valid) : tget ({} : Cell) (getStripe t sid).cells p = tget {} (getStripe s sid).cells p := by
      rw [hcel]
      exact tget_tset_ne _ _ _ _ _ (Nat.ne_of_lt hp)
    have hc0 : (tget ({} : Cell) (getStripe t sid).cells (getStripe s sid).valid).val = val := by
      rw [hcel, tget_tset_same]
      intro e
      have := congrArg Cell.seq e
      cases this
    have hk (k : Nat) (h : k ≠ lk w.slot lba) : tget ({} : Sector) t.sectors k = tget {} s.sectors k := by
      rw [hsec]
      exact tget_tset_ne _ _ _ _ _ h
    have hk0 : tget ({} : Sector) t.sectors (lk w.slot lba) = { sid := sid, pos := (getStripe s sid).valid } := by
      rw [hsec, tget_tset_same]
      exact fun e => hs (congrArg Sector.sid e)
    cases r with
    | nil =>
      refine ⟨hcp, fun k h => hk k (h (lba, val) (by simp)), fun j d hj => ?_⟩
      cases j with
      | zero =>
        cases hj
        exact ⟨hk0, hc0⟩
      | succ j => simp at hj
    | cons y r' =>
      rw [List.length_cons] at hc
      obtain ⟨htf, htv, htd⟩ := hnext (by omega)
      obtain ⟨h1, h2, h3⟩ := ih t htf hr (by rw [htv, htd, List.length_cons]; omega)
      rw [htv] at h1 h3
      refine ⟨fun p hp => (h1 p (by omega)).trans (hcp p hp),
        fun k h => (h2 k fun d hd => h d (List.mem_cons_of_mem _ hd)).trans (hk k (h (lba, val) List.mem_cons_self)), fun j d hj => ?_⟩
      cases j with
      | zero =>
        cases hj
        exact ⟨(h2 _ hdist).trans hk0, (congrArg Cell.val (h1 _ (Nat.lt_succ_self _))).trans hc0⟩
      | succ j =>
        have := h3 j d hj
        rw [show (getStripe s sid).valid + 1 + j = (getStripe s sid).valid + (j + 1) by omega] at this
        exact this

end Sys2Proof.Machine
end
section
/-! SUPPORT. The zone, its namespace and the stored data as a zone write commits (R116, R167, R175). -/

namespace Sys2Proof.Machine

/-! ### What the commit leaves of the stored data -/

/-- `t` is `s` with its commands, its sectors and what its stripes hold as they were. -/
structure DataKept (s t : State) : Prop where
  cmds : t.cmds = s.cmds
  sectors : t.sectors = s.sectors
  cells : ∀ i, (getStripe t i).cells = (getStripe s i).cells
  written : ∀ i, (getNs t i).hostWritten = (getNs s i).hostWritten

theorem DataKept.refl (s : State) : DataKept s s := ⟨rfl, rfl, fun _ => rfl, fun _ => rfl⟩

theorem DataKept.trans {s t u : State} (h : DataKept s t) (k : DataKept t u) : DataKept s u :=
  ⟨k.cmds.trans h.cmds, k.sectors.trans h.sectors, fun i => (k.cells i).trans (h.cells i), fun i => (k.written i).trans (h.written i)⟩

theorem DataKept.of_noted {s t : State} (h : Noted s t) : DataKept s t :=
  ⟨h.cmds, h.sectors, fun i => by unfold getStripe; rw [h.stripes], fun i => by unfold getNs; rw [h.ns]⟩

theorem zoneChanged_counts (s : State) (i z : Nat) : DataKept s (zoneChanged s i z) ∧ (zoneChanged s i z).zones = s.zones := by
  have hset (l : List Nat) : DataKept s (setNs s i { getNs s i with changed := l ++ [z] }) := by
    refine ⟨rfl, rfl, fun _ => rfl, fun j => ?_⟩
    by_cases hj : j = i
    · subst hj
      rw [getNs_setNs_same]
      intro e
      have := congrArg Ns.changed e
      simp at this
    · exact congrArg Ns.hostWritten (tget_tset_ne _ _ _ _ _ hj)
  unfold zoneChanged
  dsimp only
  split
  · exact ⟨.of_noted (noted_raiseStd s _ _ _), (noted_raiseStd s _ _ _).zones⟩
  · exact ⟨(hset _).trans (.of_noted (noted_raiseStd (setNs s i _) _ _ _)), (noted_raiseStd (setNs s i _) _ _ _).zones⟩

/-- A zone the device finishes is Full; its write pointer and its index stand. -/
theorem finishByController_zone (s : State) (i z : Nat) : DataKept s (finishByController s i z) ∧
    ∃ f n, getZone (finishByController s i z) (zk i z) = { getZone s (zk i z) with fill := f, nstripe := n, st := .full, zfc := true } := by
  have hpad : DataKept s (terminalPad s i z) ∧ ∃ f n, getZone (terminalPad s i z) (zk i z) = { getZone s (zk i z) with fill := f, nstripe := n } := by
    unfold terminalPad
    split
    · next sid _ =>
      obtain ⟨l, c, hc⟩ := completeStripe_only s sid true
      have hp := (completeStripe_placed s sid true (zk i z)).trans (endFill_placed _ i z false)
      refine ⟨⟨?_, ?_, fun j => completeStripe_cells s sid true j, fun j => ?_⟩, hp.zone⟩
      · exact hp.cmds
      · show (completeStripe s sid true).sectors = _
        rw [hc]
      · unfold getNs
        rw [hp.ns]
    · exact ⟨.refl s, _, _, rfl⟩
  obtain ⟨hk, f, n, hz⟩ := hpad
  unfold finishByController
  dsimp only
  generalize terminalPad s i z = u at hk hz ⊢
  have hg := getZone_setZone_same u (zk i z) ({ getZone u (zk i z) with st := .full, zfc := true } : Zone) fun e => by
    have := congrArg Zone.st e
    cases this
  have hu : DataKept u (setZone u (zk i z) { getZone u (zk i z) with st := .full, zfc := true }) := ⟨rfl, rfl, fun _ => rfl, fun _ => rfl⟩
  generalize setZone u (zk i z) { getZone u (zk i z) with st := .full, zfc := true } = x at hg hu ⊢
  obtain ⟨hc, hcz⟩ := zoneChanged_counts x i z
  refine ⟨(hk.trans hu).trans hc, f, n, ?_⟩
  unfold getZone at hg ⊢
  rw [hcz]
  refine hg.trans ?_
  unfold getZone at hz
  rw [hz]

/-! ### The commit of the zone -/

/-- The zone with the command's sectors written. -/
def writtenZone (s : State) (c : Cmd) (v : Zone) : Zone :=
  let f := frameEntry s v c.io
  let fr := match f with | some e => v.frames ++ [e] | none => v.frames
  let sl := (getNs s c.slot).attr.sealEn
  let acc := if sl then
      foldSegs (subKey (getKey s (getNs s c.slot).attr.sealSlot)) (sealBlocks (getNs s c.slot).fmt) v.ghash (segsOf c)
    else v.ghash
  { v with
    wp := v.wp + c.need, frames := fr, lastUs := s.nowUs
    lastComm := (match (getSq s c.sq).comm with | some h => commLive (getComm s h) | none => false)
    ghash := acc, absorbed := if sl then v.absorbed + c.need * sealBlocks (getNs s c.slot).fmt else v.absorbed }

/-- The zone made Full where its write pointer has come to its end. -/
def zoneToEnd (s : State) (i z : Nat) : State :=
  let w := getZone s (zk i z)
  if w.wp == wendOf s i z then setZone s (zk i z) { w with st := .full, zfc := decide (0 < w.waste) } else s

/-- The zone finished where its frame index is full. -/
def zoneToIndexEnd (s : State) (i z : Nat) (full : Bool) : State :=
  if full && (getZone s (zk i z)).st != .full then
    let t := finishByController s i z
    setZone t (zk i z) { getZone t (zk i z) with idxFull := true }
  else s

theorem commitZone_eq (s : State) (c : Cmd) (z : Nat) :
    let v := getZone s (zk c.slot z)
    commitZone s c z = (zoneToIndexEnd (zoneToEnd (setZone s (zk c.slot z) (writtenZone s c v)) c.slot z) c.slot z
      ((frameEntry s v c.io).isSome && (writtenZone s c v).frames.length == 8192 * v.rows.length),
        (frameEntry s v c.io).map (fun _ => v.frames.length)) := rfl

/-- What the end of a zone's write leaves of the zone. -/
structure WrittenTo (v w : Zone) (need : Nat) (e : Option Frame) : Prop where
  wp : w.wp = v.wp + need
  frames : w.frames = match e with | some f => v.frames ++ [f] | none => v.frames
  finPend : w.finPend = v.finPend

theorem writtenZone_to (s : State) (c : Cmd) (v : Zone) : WrittenTo v (writtenZone s c v) c.need (frameEntry s v c.io) :=
  ⟨rfl, rfl, rfl⟩

theorem commitZone_writes {s : State} {c : Cmd} {z : Nat} (hn : 0 < c.need) :
    let v := getZone s (zk c.slot z)
    DataKept s (commitZone s c z).1 ∧ WrittenTo v (getZone (commitZone s c z).1 (zk c.slot z)) c.need (frameEntry s v c.io) ∧
    (v.rows ≠ [] → v.wp + c.need = wendOf s c.slot z → (getZone (commitZone s c z).1 (zk c.slot z)).st = .full) := by
  intro v
  rw [commitZone_eq]
  dsimp only
  change DataKept s (zoneToIndexEnd (zoneToEnd (setZone s (zk c.slot z) (writtenZone s c v)) c.slot z) c.slot z _) ∧ _
  have hw := writtenZone_to s c v
  have hrows : (writtenZone s c v).rows = v.rows ∧ (writtenZone s c v).zcap = v.zcap ∧ (writtenZone s c v).waste = v.waste := ⟨rfl, rfl, rfl⟩
  generalize ((frameEntry s v c.io).isSome && (writtenZone s c v).frames.length == 8192 * v.rows.length) = full
  generalize frameEntry s v c.io = e at hw ⊢
  generalize writtenZone s c v = w at hw hrows ⊢
  have hne (x : Zone) (h : x.wp = w.wp) : x ≠ {} := fun h0 => by
    have : x.wp = 0 := congrArg Zone.wp h0
    rw [h, hw.wp] at this
    omega
  have hg1 : getZone (setZone s (zk c.slot z) w) (zk c.slot z) = w := getZone_setZone_same _ _ _ (hne w rfl)
  have hwend : v.rows ≠ [] → wendOf (setZone s (zk c.slot z) w) c.slot z = wendOf s c.slot z := by
    intro hr
    unfold wendOf zcapOf
    dsimp only
    rw [hg1, hrows.1, hrows.2.1, hrows.2.2]
    have hvr : v.rows.isEmpty = false := by simpa using hr
    rw [hvr]
    rfl
  have hend : DataKept s (zoneToEnd (setZone s (zk c.slot z) w) c.slot z) ∧
      WrittenTo v (getZone (zoneToEnd (setZone s (zk c.slot z) w) c.slot z) (zk c.slot z)) c.need e ∧
      (v.rows ≠ [] → v.wp + c.need = wendOf s c.slot z → (getZone (zoneToEnd (setZone s (zk c.slot z) w) c.slot z) (zk c.slot z)).st = .full) := by
    unfold zoneToEnd
    dsimp only
    rw [hg1]
    split
    · have hg2 := getZone_setZone_same (setZone s (zk c.slot z) w) (zk c.slot z) ({ w with st := .full, zfc := decide (0 < w.waste) } : Zone) (hne _ rfl)
      rw [hg2]
      exact ⟨⟨rfl, rfl, fun _ => rfl, fun _ => rfl⟩, ⟨hw.wp, hw.frames, hw.finPend⟩, fun _ _ => rfl⟩
    · next h =>
      rw [hg1]
      refine ⟨⟨rfl, rfl, fun _ => rfl, fun _ => rfl⟩, hw, fun hr he => absurd ?_ h⟩
      rw [hwend hr, ← he, hw.wp]
      simp
  obtain ⟨hk, hwt, hf⟩ := hend
  generalize zoneToEnd (setZone s (zk c.slot z) w) c.slot z = u at hk hwt hf ⊢
  unfold zoneToIndexEnd
  split
  · obtain ⟨hfk, f, n, hfz⟩ := finishByController_zone u c.slot z
    dsimp only
    generalize finishByController u c.slot z = x at hfk hfz ⊢
    have hg3 := getZone_setZone_same x (zk c.slot z) ({ getZone x (zk c.slot z) with idxFull := true } : Zone) fun h0 => by
      have := congrArg Zone.idxFull h0
      cases this
    rw [hg3, hfz]
    exact ⟨(hk.trans hfk).trans ⟨rfl, rfl, fun _ => rfl, fun _ => rfl⟩, ⟨hwt.wp, hwt.frames, hwt.finPend⟩, fun _ _ => rfl⟩
  · exact ⟨hk, hwt, hf⟩

/-! ### The counts of the commit -/

/-- The counts of the write in its commission. -/
def confCounted (s : State) (c : Cmd) : State :=
  match c.conf with
  | some h => let m := getComm s h
    setComm s h { m with confBytes := m.confBytes + c.need * 4096
                         maxlat := max m.maxlat ((s.nowUs - c.grantUs) * 1200) }
  | none => s

/-- The bytes beyond the commission that the write carried. -/
def excessCounted (s : State) (c : Cmd) : State :=
  match c.excess with
  | some h => setComm s h { getComm s h with excessBytes := (getComm s h).excessBytes + c.need * 4096 }
  | none => s

/-- The counts of the write in its namespace and its niche. -/
def hostCounted (s : State) (c : Cmd) : State :=
  let s3 := setNs s c.slot { getNs s c.slot with hostWritten := satAdd 64 (getNs s c.slot).hostWritten c.need }
  let n := (getNch s3 c.niche).sinceCkpt + c.need
  let s4 := setNch s3 c.niche { getNch s3 c.niche with
    hostWritten := satAdd 64 (getNch s3 c.niche).hostWritten c.need
    sinceCkpt := if 262144 ≤ n then 0 else n }
  if 262144 ≤ n then addJob s4 (.checkpoint c.niche) else s4

theorem commitCounts_eq (s : State) (c : Cmd) : commitCounts s c = hostCounted (excessCounted (confCounted s c) c) c := rfl

theorem confCounted_only (s : State) (c : Cmd) : ∃ l, confCounted s c = { s with comms := l } := by
  unfold confCounted
  split <;> exact ⟨_, rfl⟩

theorem excessCounted_only (s : State) (c : Cmd) : ∃ l, excessCounted s c = { s with comms := l } := by
  unfold excessCounted
  split <;> exact ⟨_, rfl⟩

theorem hostCounted_only (s : State) (c : Cmd) : ∃ n p, hostCounted s c = { s with
    ns := tset {} s.ns c.slot { getNs s c.slot with hostWritten := satAdd 64 (getNs s c.slot).hostWritten c.need }
    niches := n
    plinth := p } := by
  unfold hostCounted
  dsimp only
  split
  · generalize hu : setNch _ c.niche _ = u
    obtain ⟨l, hl, -⟩ := addJob_adds u (.checkpoint c.niche)
    rw [hl, ← hu]
    exact ⟨_, _, rfl⟩
  · exact ⟨_, s.plinth, rfl⟩

/-- The counts of the commissions, the namespace and its niche: no stored data, no zone. -/
theorem commitCounts_counts {s : State} {c : Cmd} (hn : 0 < c.need) :
    (commitCounts s c).cmds = s.cmds ∧ (commitCounts s c).sectors = s.sectors ∧ (commitCounts s c).stripes = s.stripes ∧
    (commitCounts s c).zones = s.zones ∧
    (getNs (commitCounts s c) c.slot).hostWritten = satAdd 64 (getNs s c.slot).hostWritten c.need := by
  rw [commitCounts_eq]
  obtain ⟨l1, h1⟩ := confCounted_only s c
  rw [h1]
  obtain ⟨l2, h2⟩ := excessCounted_only { s with comms := l1 } c
  rw [h2]
  obtain ⟨n, p, h3⟩ := hostCounted_only { s with comms := l2 } c
  have hg := getNs_setNs_same s c.slot ({ getNs s c.slot with hostWritten := satAdd 64 (getNs s c.slot).hostWritten c.need } : Ns) fun e => by
    have h0 : satAdd 64 (getNs s c.slot).hostWritten c.need = 0 := congrArg Ns.hostWritten e
    unfold satAdd at h0
    omega
  rw [h3]
  exact ⟨rfl, rfl, rfl, rfl, congrArg Ns.hostWritten hg⟩

end Sys2Proof.Machine
end
section
/-! PROOFS. The commit of a zone write (R28, R116, R167, R175). -/

namespace Sys2Proof.Machine

/-- Who writes the sectors of the command. -/
def commitWriter (c : Cmd) : Writer :=
  { slot := c.slot, zone := c.zone, comm := if c.zone.isSome then c.conf.orElse (fun _ => c.excess) else none
    cls := if c.cls == 3 then 3 else 2 }

/-- The sectors of the command as they left the engines, each with its LBA. -/
def commitData (c : Cmd) : List (Nat × Nat) := c.out.zipIdx.map (fun vj => (c.lo + vj.2, vj.1))

/-- The sectors placed, and where. -/
def placedData (s : State) (c : Cmd) : State × List (Nat × Nat) :=
  placeAll (commitWriter c) (commitData c) (lostCut s c.slot c.lo c.hi)

/-- The sectors placed, their buffers passed to the stripes. -/
def landedData (s : State) (id : Nat) : State :=
  let c := getCmd s id
  flushNote (passBufs c.got (placedData s c).2 (placedData s c).1) id ((placedData s c).2.map (·.1)).dedup

theorem commitWrite_zone {s : State} {id z : Nat} (hz : (getCmd s id).zone = some z) :
    let c := getCmd s id
    let q := commitZone (landedData s id) c z
    commitWrite s id = complete (commitCounts q.1 c) id .success
      (if c.io.op == .frameAppend then c.lo - z * zsze (getNs s c.slot).attr.zw else if c.io.op == .zoneAppend then c.lo % 2 ^ 32 else 0)
      (if c.io.op == .frameAppend then q.2.getD 0xFFFFFFFF else if c.io.op == .zoneAppend then c.lo / 2 ^ 32 else 0) := by
  intro c q
  have h : commitWrite s id = match c.zone with
    | some z => complete (commitCounts (commitZone (landedData s id) c z).1 c) id .success
        (if c.io.op == .frameAppend then c.lo - z * zsze (getNs s c.slot).attr.zw else if c.io.op == .zoneAppend then c.lo % 2 ^ 32 else 0)
        (if c.io.op == .frameAppend then (commitZone (landedData s id) c z).2.getD 0xFFFFFFFF else if c.io.op == .zoneAppend then c.lo / 2 ^ 32 else 0)
    | none => complete (refreshGc (commitCounts { landedData s id with fineQ := (landedData s id).fineQ ++ (commitData c).map (fun d => lk c.slot d.1) } c) c.niche)
        id .success := rfl
  rw [h, show c.zone = some z from hz]

theorem passBufs_only (l : List (Nat × Nat)) (p : List (Nat × Nat)) (s : State) : ∃ b, passBufs l p s = { s with pool := b } := by
  induction l generalizing p s with
  | nil => exact ⟨_, rfl⟩
  | cons x r ih =>
    obtain ⟨b, m⟩ := x
    have hone (o : Nat) (t : List (Nat × Nat × Nat)) : ∃ q, passBuf s b o t = { s with pool := q } := by
      unfold passBuf
      rw [withIdent_only]
      exact ⟨_, rfl⟩
    obtain ⟨q, hq⟩ := hone (stripeOwner (((partsOf (p.take m)).head?.map (·.1)).getD 0)) (partsOf (p.take m))
    unfold passBufs
    dsimp only
    rw [hq]
    exact ih _ _

/-- An entry whose key is past those of the table goes to its end. -/
theorem tset_last {α : Type} [DecidableEq α] {d v : α} {k : Nat} (hv : v ≠ d) {a : List (Nat × α)} (h : ∀ kv ∈ a, kv.1 < k) :
    tset d a k v = a ++ [(k, v)] := by
  induction a with
  | nil => exact if_neg hv
  | cons x r ih =>
    obtain ⟨j, w⟩ := x
    have hj : j < k := h (j, w) List.mem_cons_self
    unfold tset
    rw [if_neg (by omega), if_neg (by omega), ih fun kv hkv => h kv (List.mem_cons_of_mem _ hkv)]
    rfl

/-- A map that leaves every entry leaves a well-formed table. -/
theorem tmap_eq_self {α : Type} [DecidableEq α] {d : α} {t : List (Nat × α)} (hw : twf d t = true) {f : Nat → α → α}
    (hf : ∀ kv ∈ t, f kv.1 kv.2 = kv.2) : tmap d t f = t := by
  suffices h : ∀ (t : List (Nat × α)) (lo : Option Nat) (a : List (Nat × α)), twfFrom d lo t = true →
      (∀ kv ∈ t, f kv.1 kv.2 = kv.2) → (∀ kv ∈ a, ∀ x ∈ t.head?, kv.1 < x.1) →
      t.foldl (fun a kv => tset d a kv.1 (f kv.1 kv.2)) a = a ++ t from h t none [] hw hf fun _ h => absurd h List.not_mem_nil
  intro t
  induction t with
  | nil => exact fun _ a _ _ _ => (List.append_nil a).symm
  | cons x r ih =>
    intro lo a hw hf ha
    obtain ⟨k, v⟩ := x
    rw [twfFrom_cons] at hw
    obtain ⟨-, hv, hr⟩ := hw
    have hlt : ∀ kv ∈ a, kv.1 < k := fun kv hkv => ha kv hkv (k, v) rfl
    have hhead : ∀ x ∈ r.head?, k < x.1 := by
      intro x hx
      cases r with
      | nil => cases hx
      | cons y q =>
        cases hx
        rw [twfFrom_cons] at hr
        simpa [above] using hr.1
    rw [List.foldl_cons, hf (k, v) List.mem_cons_self, tset_last (by simpa using hv) hlt,
      ih (some k) _ hr (fun kv hkv => hf kv (List.mem_cons_of_mem _ hkv)) ?_, List.append_assoc]
    · rfl
    · intro kv hkv x hx
      rcases List.mem_append.mp hkv with h | h
      · exact Nat.lt_trans (hlt kv h) (hhead x hx)
      · rw [List.mem_singleton] at h
        subst h
        exact hhead x hx

/-- No Flush waits for the write: the commands stand. -/
theorem flushNote_none {s : State} (hn : NoFlushWaits s) (hw : twf {} s.cmds = true) (id : Nat) (l : List Nat) : flushNote s id l = s := by
  unfold flushNote
  rw [tmap_eq_self hw fun kv hkv => if_neg (by simp [hn kv hkv])]

theorem lostCut_only {s : State} {slot lo hi : Nat}
    (h : (cutLost (getNch s (getNs s slot).attr.niche) slot lo hi).lost.length ≤ 4096) : ∃ n, lostCut s slot lo hi = { s with niches := n } := by
  unfold lostCut putLost
  dsimp only
  rw [if_neg (by omega)]
  exact ⟨_, rfl⟩

/-- The sectors have LBAs of their own. -/
theorem commitData_nodup (c : Cmd) : ((commitData c).map (·.1)).Nodup := by
  have h : (commitData c).map (·.1) = (List.range' 0 c.out.length).map (c.lo + ·) := by
    unfold commitData
    rw [List.map_map, ← List.zipIdx_map_snd 0 c.out, List.map_map]
    rfl
  rw [h]
  exact List.Nodup.map (fun a b e => Nat.add_left_cancel e) List.nodup_range'

theorem commitData_get {c : Cmd} {j d : Nat} (h : c.out[j]? = some d) : (commitData c)[j]? = some (c.lo + j, d) := by
  unfold commitData
  rw [List.getElem?_map, List.getElem?_zipIdx, h]
  simp

theorem commitData_length (c : Cmd) : (commitData c).length = c.out.length := by
  unfold commitData
  simp

section
variable {s : State} {id z : Nat} (hz : (getCmd s id).zone = some z) (hn : NoFlushWaits s) (hw : twf {} s.cmds = true)
  (hl : (cutLost (getNch s (getNs s (getCmd s id).slot).attr.niche) (getCmd s id).slot (getCmd s id).lo (getCmd s id).hi).lost.length ≤ 4096)
include hz hn hw hl

/-- What the sectors' landing leaves of the commands, the namespaces and the zone. -/
theorem landedData_lands : (landedData s id).cmds = s.cmds ∧ (landedData s id).ns = s.ns ∧
    (landedData s id).sectors = (placedData s (getCmd s id)).1.sectors ∧ (landedData s id).stripes = (placedData s (getCmd s id)).1.stripes ∧
    ∃ f n, getZone (landedData s id) (zk (getCmd s id).slot z) = { getZone s (zk (getCmd s id).slot z) with fill := f, nstripe := n } := by
  obtain ⟨n, hln⟩ := lostCut_only hl
  have hp : Placed (lostCut s (getCmd s id).slot (getCmd s id).lo (getCmd s id).hi) (placedData s (getCmd s id)).1 (zk (getCmd s id).slot z) :=
    placeAll_placed (commitWriter (getCmd s id)) hz _ _
  rw [hln] at hp
  obtain ⟨b, hb⟩ := passBufs_only (getCmd s id).got (placedData s (getCmd s id)).2 (placedData s (getCmd s id)).1
  have hc : (placedData s (getCmd s id)).1.cmds = s.cmds := hp.cmds
  unfold landedData
  dsimp only
  rw [hb, flushNote_none (by unfold NoFlushWaits; rw [show ({ (placedData s (getCmd s id)).1 with pool := b } : State).cmds = s.cmds from hc]; exact hn)
    (by rw [show ({ (placedData s (getCmd s id)).1 with pool := b } : State).cmds = s.cmds from hc]; exact hw)]
  exact ⟨hc, hp.ns, rfl, rfl, hp.zone⟩

/-- Where the zone's stripe has room, each sector is at its LBA in the stripe's next place. -/
theorem landedData_places {sid : Nat} (hf : (getZone s (zk (getCmd s id).slot z)).fill = some sid) (hs : sid ≠ 0)
    (hc : (getStripe s sid).valid + (getCmd s id).out.length ≤ (getStripe s sid).dcap) {j d : Nat} (hj : (getCmd s id).out[j]? = some d) :
    tget ({} : Sector) (landedData s id).sectors (lk (getCmd s id).slot ((getCmd s id).lo + j)) = { sid := sid, pos := (getStripe s sid).valid + j } ∧
    (tget ({} : Cell) (getStripe (landedData s id) sid).cells ((getStripe s sid).valid + j)).val = d := by
  obtain ⟨-, -, hsec, hstr, -⟩ := landedData_lands hz hn hw hl
  obtain ⟨n, hln⟩ := lostCut_only hl
  have hp := (placeAll_fills (w := commitWriter (getCmd s id)) hz hs (commitData (getCmd s id)) (lostCut s (getCmd s id).slot (getCmd s id).lo (getCmd s id).hi)
    (by rw [hln]; exact hf) (commitData_nodup _) (by rw [hln, commitData_length]; exact hc)).2.2 j _ (commitData_get hj)
  have hv : getStripe (lostCut s (getCmd s id).slot (getCmd s id).lo (getCmd s id).hi) sid = getStripe s sid := by rw [hln]; rfl
  rw [hv] at hp
  unfold getStripe
  rw [hsec, hstr]
  exact hp

end

/-- An append that starts a frame, or is the zone's first data, makes an index entry. -/
theorem frameEntry_starts {s : State} {v : Zone} {io : IoCmd} (ho : io.op = .frameAppend) (h : io.fstart = true ∨ v.wp = 0) :
    ∃ e, frameEntry s v io = some e ∧ e.frame = io.frame ∧ e.soff = v.wp ∧ e.hflags = io.hflags ∧ e.cont = decide (v.wp = 0) := by
  unfold frameEntry
  rw [if_pos (by rcases h with h | h <;> simp [ho, h])]
  exact ⟨_, rfl, rfl, rfl, rfl, rfl⟩

theorem frameEntry_none {s : State} {v : Zone} {io : IoCmd} (h : io.op ≠ .frameAppend ∨ (io.fstart = false ∧ v.wp ≠ 0)) :
    frameEntry s v io = none := by
  unfold frameEntry
  refine if_neg ?_
  rcases h with h | ⟨h1, h2⟩
  · simp [h]
  · simp [h1, h2]

/-- Settles O11, by what the placing of the sectors, the commit of the zone and the end of the command each change. -/
theorem writesCommit : Obligations.WritesCommit := by
  intro s id z c k hc hph hwd hwant hrecv hneed hseg hzone hout hq hn hw hfin hlost
  have hx : exec (.writeCommitPoint id) s = .next (commitWrite s id) := by
    show execWriteCommitPoint id s = _
    unfold execWriteCommitPoint
    dsimp only
    rw [if_neg]
    · rfl
    · have h1 : (getCmd s id).phase = .started := hph
      have h2 : (getCmd s id).want = [] := hwant
      have h3 : (getCmd s id).recv.length = (getCmd s id).need := hrecv
      have h4 : (getCmd s id).segs = segCount (getCmd s id).lo (getCmd s id).hi := hseg
      have h5 : writesData s (getCmd s id).slot (getCmd s id).io = true := hwd
      simp [hc, h1, h2, h3, h4, h5]
  obtain ⟨hlc, hlns, -, -, f, n, hlz⟩ := landedData_lands hzone hn hw hlost
  have hplace := fun sid hf hs hc j d hj => landedData_places (sid := sid) (j := j) (d := d) hzone hn hw hlost hf hs hc hj
  have hcw := commitWrite_zone hzone
  dsimp only at hcw
  have hlz' : getZone (landedData s id) (zk c.slot z) = { getZone s (zk c.slot z) with fill := f, nstripe := n } := hlz
  change commitWrite s id = complete (commitCounts (commitZone (landedData s id) c z).1 c) id .success
      (if c.io.op == .frameAppend then c.lo - z * zsze (getNs s c.slot).attr.zw else if c.io.op == .zoneAppend then c.lo % 2 ^ 32 else 0)
      (if c.io.op == .frameAppend then (commitZone (landedData s id) c z).2.getD 0xFFFFFFFF else if c.io.op == .zoneAppend then c.lo / 2 ^ 32 else 0) at hcw
  obtain ⟨hck, hct, hcf⟩ := commitZone_writes (s := landedData s id) (c := c) (z := z) hneed
  have hq2 : (commitZone (landedData s id) c z).2 = (frameEntry (landedData s id) (getZone (landedData s id) (zk c.slot z)) c.io).map
      (fun _ => (getZone (landedData s id) (zk c.slot z)).frames.length) := rfl
  rw [hlz'] at hct hcf hq2
  generalize (commitZone (landedData s id) c z).2 = fno at hcw hq2
  generalize (commitZone (landedData s id) c z).1 = u at hcw hck hct hcf
  obtain ⟨huc, hus, hux, huz, hun⟩ := commitCounts_counts (s := u) (c := c) hneed
  generalize commitCounts u c = x at hcw huc hus hux huz hun
  have hxz : getZone x (zk c.slot z) = getZone u (zk c.slot z) := by
    unfold getZone
    rw [huz]
  have hxc : x.cmds = s.cmds := huc.trans (hck.cmds.trans hlc)
  have hgc : getCmd x id = c := by
    unfold getCmd
    rw [hxc]
    rfl
  have hquiet : SlotQuiet x (getCmd x id) := by
    intro z' hz' _
    rw [hgc] at hz' ⊢
    have hzz : z' = z := Option.some.inj (hz'.symm.trans hzone)
    rw [hzz, hxz, hct.finPend]
    exact hfin
  have he := complete_endsWell (s := x) (id := id) [] (fun kv hkv => hn kv (hxc ▸ hkv)) hquiet
    (if c.io.op == .frameAppend then c.lo - z * zsze (getNs s c.slot).attr.zw else if c.io.op == .zoneAppend then c.lo % 2 ^ 32 else 0)
    (if c.io.op == .frameAppend then fno.getD 0xFFFFFFFF else if c.io.op == .zoneAppend then c.lo / 2 ^ 32 else 0)
  rw [← hcw] at he
  generalize commitWrite s id = t at hx he
  have hguard : guarded t = guarded s := by
    have h := execWriteCommitPoint_guarded id s
    have hx' : execWriteCommitPoint id s = .next t := hx
    rw [hx'] at h
    exact h
  have hk : qk (ctrlOfSq c.sq) (qidOfSq c.sq) = c.sq := by
    unfold qk ctrlOfSq qidOfSq
    omega
  have hentry := he.entryWith (by rw [hgc]; exact hq)
  rw [hgc] at hentry
  obtain ⟨e, hem, hecid, hesq, hest, hedw0, hedw1, -⟩ := hentry
  have htz : getZone t (zk c.slot z) = getZone u (zk c.slot z) := by
    rw [← hxz]
    unfold getZone
    rw [he.zones]
  have hcq : (if qidOfSq c.sq == 0 then 0 else (getSq t (qk (ctrlOfSq c.sq) (qidOfSq c.sq))).cqid) = (getSq t c.sq).cqid := by
    rw [if_neg (by simpa using hq), hk]
  refine ⟨t, hx, ⟨e, by rw [hcq]; exact hem, hecid, hesq, hest⟩, he.gone, fun ho => ⟨e, by rw [hk]; exact hem, hecid, ?_, ?_⟩,
    fun ho => ⟨e, by rw [hk]; exact hem, hecid, ?_, ?_⟩, ?_, ?_, ?_, ?_, ?_, ?_, hguard⟩
  · rw [hedw0, ho]
    rfl
  · rw [hedw1, ho]
    rfl
  · rw [hedw0, ho]
    rfl
  · rw [hedw1, if_pos (by rw [ho]; rfl), hq2]
    by_cases h : c.io.fstart = true ∨ (getZone s k).wp = 0
    · obtain ⟨g, hg, -⟩ := frameEntry_starts (s := landedData s id) (v := { getZone s (zk c.slot z) with fill := f, nstripe := n }) ho h
      rw [hg, if_pos h]
      rfl
    · rw [frameEntry_none (v := { getZone s (zk c.slot z) with fill := f, nstripe := n })
        (.inr ⟨by simpa using fun h' => h (.inl h'), fun h' => h (.inr h')⟩), if_neg h]
      rfl
  · rw [htz]
    exact hct.wp
  · have : getNs t c.slot = getNs x c.slot := by
      unfold getNs
      rw [he.ns]
    rw [this, hun, hck.written]
    unfold getNs
    rw [hlns]
  · intro hr hend
    rw [htz]
    refine hcf hr (Eq.trans hend ?_)
    unfold wendOf zcapOf
    dsimp only
    rw [hlz']
    have hre : (getZone s (zk c.slot z)).rows.isEmpty = false := by simpa using hr
    rw [hre]
    rfl
  · intro ho h
    obtain ⟨f, hf, h1, h2, h3, h4⟩ := frameEntry_starts (s := landedData s id) (v := { getZone s (zk c.slot z) with fill := f, nstripe := n }) ho h
    refine ⟨f, ?_, h1, h2, h3, h4⟩
    rw [htz, hct.frames, hf]
  · intro h
    rw [htz, hct.frames, frameEntry_none (v := { getZone s (zk c.slot z) with fill := f, nstripe := n }) h]
  · intro sid hf hs hcap j d hj
    obtain ⟨h1, h2⟩ := hplace sid hf hs (by rw [show (getCmd s id).out.length = c.need from hout]; exact hcap) j d hj
    have hsec : t.sectors = (landedData s id).sectors := he.posts.sectors.trans (hus.trans hck.sectors)
    have hcells : (getStripe t sid).cells = (getStripe (landedData s id) sid).cells := by
      rw [← hck.cells sid]
      unfold getStripe
      rw [he.stripes, hux]
    have h1' : tget ({} : Sector) t.sectors (lk c.slot (c.lo + j)) = { sid := sid, pos := (getStripe s sid).valid + j } := by
      rw [hsec]
      exact h1
    refine ⟨h1', ?_⟩
    rw [h1']
    unfold cellOf
    rw [hcells]
    exact h2

end Sys2Proof.Machine
end
section
/-! PROOFS. A health test asked for in PS4 whose exit leaves the device in PS4 is deferred, not run (R339, R422). -/

namespace Sys2Proof.Machine

/-- The boot flash with a firmware image of 8 KiB in slot 1: its head, and the signature block that ends it, under the key 1 (R46, R379). -/
def signedFlash : List (Nat × List Nat) :=
  [ (4096, [0x55, 0x4C, 0x46, 0x57, 0, 1, 0, 16, 0, 32, 0, 0, 0, 0] ++ List.replicate 242 0)
  , (4127, [0x53, 0x49, 0x47, 0x4E] ++ List.replicate 12 0 ++ beBytes 48 p384gx ++ beBytes 48 p384gy ++ beBytes 48 p384gx ++
      beBytes 48 0x2aff4194fb4faf73ad1cbe232c8cb07a8dcb1fe43f5fd8031153d433009984c8937e8902e89e4aae7cedd5a0febed3e0 ++ List.replicate 48 0) ]

/-- A device in PS4 that is to go back to PS4, its bank charged and its firmware good. -/
def asleep : State :=
  { ({} : State) with
    board := {
      straps := { ({} : State).board.straps with holdup := 1 }
      fuses := { hashFw0 := 0xa19d4db171b582eb8052b0cfe555e17894aa22d1c8a9770950697dd8f796d2fa4bf0a56ad80006b7ea08e1191f814b65 } }
    boot := { phase := .released, fwSlot := 1, flash := signedFlash }
    ports := [(0, { dlup := true })]
    clk := { gate2 := 2 ^ 10 }
    pm := { ps := 4, back := 4 }
    glb := { released := true } }

/-! ### The image passes its checks (R379): the hash of its 62 blocks is taken eight blocks at a time -/

/-- The bytes of the image under its signature: its head, and erased flash. -/
def signedBytes : List Nat := [0x55, 0x4C, 0x46, 0x57, 0, 1, 0, 16, 0, 32, 0, 0, 0, 0] ++ List.replicate 242 0 ++ List.replicate 7680 255

/-- The message SHA-384 makes of them. -/
def signedMessage : List Nat := signedBytes ++ [0x80] ++ List.replicate 111 0 ++ beBytes 16 (8 * 7936)

/-- The hash state after each eight blocks. -/
def signedStates : List Sha :=
  [ shaStart
  , ⟨0x47b13f876986ab30, 0xc39b8524ef801949, 0x11a71884b8188228, 0x306db2bb9c96984, 0x6ddc17ea7fac9679, 0x6872aabaa9964681, 0x71147863658b57d1, 0x81ad1b4ddc471e49⟩
  , ⟨0xb015139cf24e957c, 0xee3a45a29bcc4ead, 0x6df721be4620deef, 0xa8284c037a33f4ac, 0xde39f2c47881f7d4, 0x4c853418a5b2b9f4, 0x3e55d0c07cb2618f, 0xfd6af51d0f0b1ef3⟩
  , ⟨0x178e7c7c8e8f8bb, 0x2a2351bd403c4e5f, 0xa469d57f36793a55, 0x3e49a7156da632f8, 0x501adeb1dd261409, 0xd147db66a115f600, 0x9540a6995acc9851, 0x2a82efca44f75378⟩
  , ⟨0xb349624cd755abbf, 0x57abda91d0c60f29, 0x2d992f9b237b1b8b, 0xba6046b4b999e76b, 0x3399a41260f1bed4, 0xc911f49899cf194f, 0xea7429c8dad4efa2, 0xa88120cf8631a8e2⟩
  , ⟨0xb6fde6b7aa1a71b0, 0xaeb5b4ffd2f79f14, 0x7c67249df225cb90, 0xcf82c7a9bb512561, 0x536310dd5822a6a3, 0x3fcf0824f6cf4274, 0xc00cacb6abcf74c2, 0xb15c81dbfb831d0a⟩
  , ⟨0xd4bbc22ff8477376, 0x21337ea6b84901a8, 0x9cac5ae51ff8f040, 0xfae1d92defad9fa, 0x2627808e4ff8278, 0x66c3b2e9da4a1c2d, 0x1d583ff5f698b43f, 0x1f138f20b76a2036⟩
  , ⟨0x5be14c7ebd861acb, 0xadf1659f1003c708, 0x965b85380401cf29, 0xa532c26bc08ed979, 0x2115ba54a534a808, 0x8e5f7889296a88fe, 0x16b6f09145d54e48, 0xf4a70f002373daa7⟩ ]

def signedState (i : Nat) : Sha := signedStates.getD i shaStart

/-- Eight blocks of the message take the hash from its `i`-th state to the next. -/
def Advances (i : Nat) : Prop := shaBlocks 8 (signedState i) (signedMessage.drop (1024 * i)) = signedState (i + 1)

theorem advances_0 : Advances 0 := by unfold Advances; decide +kernel
theorem advances_1 : Advances 1 := by unfold Advances; decide +kernel
theorem advances_2 : Advances 2 := by unfold Advances; decide +kernel
theorem advances_3 : Advances 3 := by unfold Advances; decide +kernel
theorem advances_4 : Advances 4 := by unfold Advances; decide +kernel
theorem advances_5 : Advances 5 := by unfold Advances; decide +kernel
theorem advances_6 : Advances 6 := by unfold Advances; decide +kernel

theorem shaBlocks_split (a b : Nat) (x : Sha) (l : List Nat) :
    shaBlocks (a + b) x l = shaBlocks b (shaBlocks a x l) (l.drop (128 * a)) := by
  induction a generalizing x l with
  | zero => rw [Nat.zero_add, Nat.mul_zero]; rfl
  | succ n ih =>
    rw [Nat.succ_add]
    show shaBlocks (n + b) _ (l.drop 128) = _
    rw [ih, List.drop_drop, Nat.mul_succ, Nat.add_comm (128 * n)]
    rfl

theorem signedMessage_states {i : Nat} (h : i ≤ 7) : shaBlocks (8 * i) shaStart signedMessage = signedState i := by
  induction i with
  | zero => rfl
  | succ n ih =>
    have hn : Advances n := by
      have : n < 7 := h
      interval_cases n
      · exact advances_0
      · exact advances_1
      · exact advances_2
      · exact advances_3
      · exact advances_4
      · exact advances_5
      · exact advances_6
    rw [Nat.mul_succ, shaBlocks_split, ih (by omega), ← Nat.mul_assoc]
    exact hn

/-- The digest the signature is of. -/
def signedDigest : Nat := 0x807777723cc4aa3c1e6af704396c03061fade481b3b83c6a7ebfdfd4727c886f9695a45771f9c8bd2f8590d3590df29c

theorem signedMessage_last : let x := shaBlocks 7 (signedState 7) (signedMessage.drop 7168)
    beNum (beBytes 8 x.a ++ beBytes 8 x.b ++ beBytes 8 x.c ++ beBytes 8 x.d ++ beBytes 8 x.e ++ beBytes 8 x.f) = signedDigest := by
  decide +kernel

theorem signedMessage_all : shaBlocks 63 shaStart signedMessage = shaBlocks 7 (signedState 7) (signedMessage.drop 7168) := by
  rw [show 63 = 8 * 7 + 7 from rfl, shaBlocks_split, signedMessage_states (Nat.le_refl 7)]

theorem signedBytes_sha : sha384 signedBytes = signedDigest := by
  have hl : signedBytes.length = 7936 := by decide +kernel
  have hn : signedMessage.length / 128 = 63 := by decide +kernel
  have hm : signedBytes ++ [0x80] ++ List.replicate ((128 - (7936 + 17) % 128) % 128) 0 ++ beBytes 16 (8 * 7936) = signedMessage := rfl
  have he := signedMessage_last
  unfold sha384
  simp only [hl, hm, hn, signedMessage_all]
  exact he

/-- The image in slot 1. -/
def signedImage : Img := fun a => blkByte signedFlash (fwBase 1 + a)

theorem signedImage_erased {a : Nat} (h1 : 256 ≤ a) (h2 : a < 7936) : signedImage a = 255 := by
  have hk1 : 4096 < (fwBase 1 + a) / 256 := by
    show 4096 < (0x100000 + a) / 256
    omega
  have hk2 : (fwBase 1 + a) / 256 < 4127 := by
    show (0x100000 + a) / 256 < 4127
    omega
  unfold signedImage blkByte
  generalize (fwBase 1 + a) / 256 = k at hk1 hk2
  have ht : tget [] signedFlash k = [] := by
    unfold signedFlash
    unfold tget
    rw [if_neg (by omega)]
    unfold tget
    rw [if_neg (by omega)]
    rfl
  rw [ht]
  rfl

theorem signedImage_bytes : imgBytes signedImage 0 7936 = signedBytes := by
  have hhead : (List.range 256).map signedImage = [0x55, 0x4C, 0x46, 0x57, 0, 1, 0, 16, 0, 32, 0, 0, 0, 0] ++ List.replicate 242 0 := by decide +kernel
  have htail : (List.range 7680).map (fun j => signedImage (256 + j)) = List.replicate 7680 255 := by
    rw [List.eq_replicate_iff]
    refine ⟨by rw [List.length_map, List.length_range], fun b hb => ?_⟩
    obtain ⟨j, hj, he⟩ := List.mem_map.mp hb
    rw [← he]
    exact signedImage_erased (by omega) (by have := List.mem_range.mp hj; omega)
  have hsplit : imgBytes signedImage 0 (256 + 7680) = (List.range 256).map signedImage ++ (List.range 7680).map (fun j => signedImage (256 + j)) := by
    unfold imgBytes
    rw [List.range_add, List.map_append, List.map_map]
    simp only [Nat.zero_add]
    rfl
  exact hsplit.trans (by rw [hhead, htail]; rfl)

theorem signedImage_good : fwCheck signedImage asleep.board.fuses asleep.board.fuses.fwFloor = 0 := by
  have h1 : fwCheck1 signedImage = true := by decide +kernel
  have ho : u32 signedImage 8 - 256 = 7936 := by decide +kernel
  have h2 : sigFault signedImage 7936 asleep.board.fuses.hashFw0 asleep.board.fuses.hashFw1 = none := by decide +kernel
  have h3 : sigVerifies signedImage 7936 = true := by
    unfold sigVerifies
    dsimp only
    rw [signedImage_bytes, signedBytes_sha]
    decide +kernel
  have h4 : (signedImage 0xD != asleep.board.fuses.member) = false := by decide +kernel
  have h5 : ¬ signedImage 0xC < asleep.board.fuses.fwFloor := by decide +kernel
  unfold fwCheck
  rw [ho, h1, h2, h3, h4, if_neg h5]
  rfl

theorem asleep_firmware : fwCheck (fwImg asleep 1) asleep.board.fuses asleep.board.fuses.fwFloor = 0 := signedImage_good

/-- An access wakes a device in PS4, whose exit goes on where the firmware passes its checks. -/
theorem reached_ps4 {s : State} {p : Nat} (hl : (getPort s p).link = .l0) (hp : s.pm.ps = 4) (he : s.pm.entry = .none)
    (hf : fwCheck (fwImg s s.boot.fwSlot) s.board.fuses s.board.fuses.fwFloor = 0) : reached s p = leaveLow s 3 := by
  unfold reached
  dsimp only
  rw [hl, if_pos (beq_self_eq_true LinkPm.l0), hp, he, if_pos (by simp)]
  unfold wake
  rw [hp, he, if_neg (by simp), if_neg (by simp), if_pos (beq_self_eq_true 4)]
  unfold exitPs4
  dsimp only
  rw [hf, if_pos (beq_self_eq_true 0)]

theorem reached_asleep : reached asleep 0 = leaveLow asleep 3 :=
  reached_ps4 (by decide +kernel) rfl rfl asleep_firmware

theorem asleep_hostCan : hostCan asleep (0 * 64) = true := by decide +kernel

/-- The state after the exit serves the register, and its bank could be tested, but the power state is PS4 again. -/
theorem asleep_left : hostCan (leaveLow asleep 3) (0 * 64) = true ∧ accKind (leaveLow asleep 3) 0xA001C 1 15 true = none ∧
    inService (leaveLow asleep 3) = true ∧ (leaveLow asleep 3).hold.testing = false ∧ (leaveLow asleep 3).pm.entry = .none ∧
    testReady (leaveLow asleep 3) = true ∧ (leaveLow asleep 3).pm.ps = 4 := by decide +kernel

/-- In PS4 a health test that is asked for is deferred. -/
theorem hldRun_ps4 {u : State} (hs : inService u = true) (ht : u.hold.testing = false) (he : u.pm.entry = .none) (hp : u.pm.ps = 4) :
    hldRun u = { u with hold := { u.hold with deferred := true, run := false } } := by
  unfold hldRun healthTest
  rw [if_neg (by simp [ht]), if_neg (by simp [hs]), if_neg (by simp [he]), if_pos (by simp [hp])]

theorem testRun_asleep : exec (.hldTestRun 0) asleep = .next { leaveLow asleep 3 with
    hold := { (leaveLow asleep 3).hold with deferred := true, run := false } } := by
  obtain ⟨hc, hk, hs, ht, he, -, hp⟩ := asleep_left
  show execHldTestRun 0 asleep = _
  unfold execHldTestRun regWrite access
  dsimp only
  rw [if_neg (by rw [asleep_hostCan]; simp), reached_asleep, if_neg (by rw [hc]; simp), hk]
  exact congrArg ok (hldRun_ps4 hs ht he hp)

/-- Refutes O55: a device that leaves PS4 for PS4 defers the health test it is asked for. -/
theorem not_registersWrittenAndRefused : ¬ Obligations.RegistersWrittenAndRefused := by
  intro h
  obtain ⟨hc, hk, hs, ht, he, hr, -⟩ := asleep_left
  obtain ⟨hregs, -⟩ := h
  have hu := hregs asleep 0 asleep_hostCan
  dsimp only at hu
  rw [reached_asleep] at hu
  obtain ⟨-, -, -, -, -, -, -, htest, -⟩ := hu hc
  have hx := htest hk hs ht he hr
  rw [testRun_asleep] at hx
  generalize leaveLow asleep 3 = u at ht hx
  injection hx with hx
  have htesting : u.hold.testing = true := congrArg (fun t : State => t.hold.testing) hx
  rw [ht] at htesting
  cases htesting

end Sys2Proof.Machine
end
